-- ==== Sys2Proof/Word.lean ====
section
/-!
DEFINITION. The word types of the Yallos and their plainest arithmetic (00 R8).
-/

namespace Sys2Proof

/-- A byte of memory (R8). -/
abbrev Byte := BitVec 8

/-- A 32-bit register or instruction word (R14, R116). -/
abbrev W32 := BitVec 32

/-- A 64-bit value: an address, a pair of registers, a program counter (R8, R56). -/
abbrev W64 := BitVec 64

/-- A 64-bit value from its low and its high word (R8: the low word stands in the even register). -/
def W64.ofWords (lo hi : W32) : W64 := hi ++ lo

/-- The low word of a 64-bit value (R8). -/
def W64.lo (v : W64) : W32 := v.extractLsb' 0 32

/-- The high word of a 64-bit value (R8). -/
def W64.hi (v : W64) : W32 := v.extractLsb' 32 32

end Sys2Proof
end

