-- ==== Sys2Proof/Syntax.lean ====
section
/-!
DEFINITION. The instruction set as data: the two word forms of R117 and R118 and one constructor for every row of
the opcode table. Rows 0-211 are instructions in the forms R135 gives them. The rest are the part's own steps
(arrivals, completions, commands, register accesses) with the arguments the spec leaves to their occurrence.
-/

namespace Sys2Proof

/-- A base word (R117) with the 64-bit literal that may follow it (R119). -/
structure B32 where
  /-- Source B: bit 5 set names a constant-window word. -/
  b : BitVec 6
  a : BitVec 6
  d : BitVec 6
  /-- Guard predicate. -/
  g : BitVec 3
  /-- Run end. -/
  e : Bool
  lit : Option W64
deriving DecidableEq, Repr

/-- An extended instruction (R118) without its major opcode, with the literal that may follow it (R119). -/
structure X96 where
  /-- Bits [95:88], reserved. -/
  rsv : BitVec 8
  kb : Bool
  wu : Bool
  sl : Bool
  em : Bool
  ft : BitVec 4
  y : Bool
  stall : BitVec 4
  hint : BitVec 3
  x : BitVec 8
  c : BitVec 8
  b : BitVec 8
  a : BitVec 8
  d : BitVec 8
  ty : BitVec 4
  minor : BitVec 8
  gc : Bool
  g2n : Bool
  g2 : BitVec 3
  g1n : Bool
  g1 : BitVec 3
  e : Bool
  lit : Option W64
deriving DecidableEq, Repr

/-- The word form of a row that stands for both (LIT, whose two forms are one row). -/
inductive Form where
  | b32 (w : B32)
  | x96 (w : X96)
deriving DecidableEq, Repr

/-- Every row of the opcode table, in the table's order. -/
inductive Instr where
  /-- R148. -/
  | addB32 (w : B32)
  /-- R148. -/
  | addX96 (w : X96)
  /-- R148. -/
  | subB32 (w : B32)
  /-- R148. -/
  | subX96 (w : X96)
  /-- R148. -/
  | addcB32 (w : B32)
  /-- R148. -/
  | addcX96 (w : X96)
  /-- R148. -/
  | subbB32 (w : B32)
  /-- R148. -/
  | subbX96 (w : X96)
  /-- R148. -/
  | mulLoB32 (w : B32)
  /-- R148. -/
  | mulLoX96 (w : X96)
  /-- R148. -/
  | mulHiB32 (w : B32)
  /-- R148. -/
  | mulHiX96 (w : X96)
  /-- R148. -/
  | mulwB32 (w : B32)
  /-- R148. -/
  | mulwX96 (w : X96)
  /-- R148. -/
  | mad (w : X96)
  /-- R148. -/
  | divB32 (w : B32)
  /-- R148. -/
  | divX96 (w : X96)
  /-- R148. -/
  | remB32 (w : B32)
  /-- R148. -/
  | remX96 (w : X96)
  /-- R148. -/
  | negB32 (w : B32)
  /-- R148. -/
  | negX96 (w : X96)
  /-- R148. -/
  | absB32 (w : B32)
  /-- R148. -/
  | absX96 (w : X96)
  /-- R148. -/
  | minB32 (w : B32)
  /-- R148. -/
  | minX96 (w : X96)
  /-- R148. -/
  | maxB32 (w : B32)
  /-- R148. -/
  | maxX96 (w : X96)
  /-- R148. -/
  | andB32 (w : B32)
  /-- R148. -/
  | andX96 (w : X96)
  /-- R148. -/
  | orB32 (w : B32)
  /-- R148. -/
  | orX96 (w : X96)
  /-- R148. -/
  | xorB32 (w : B32)
  /-- R148. -/
  | xorX96 (w : X96)
  /-- R148. -/
  | notB32 (w : B32)
  /-- R148. -/
  | notX96 (w : X96)
  /-- R148. -/
  | andnB32 (w : B32)
  /-- R148. -/
  | andnX96 (w : X96)
  /-- R148. -/
  | shlB32 (w : B32)
  /-- R148. -/
  | shlX96 (w : X96)
  /-- R148. -/
  | shrB32 (w : B32)
  /-- R148. -/
  | shrX96 (w : X96)
  /-- R148. -/
  | sraB32 (w : B32)
  /-- R148. -/
  | sraX96 (w : X96)
  /-- R148. -/
  | rolB32 (w : B32)
  /-- R148. -/
  | rolX96 (w : X96)
  /-- R148. -/
  | rorB32 (w : B32)
  /-- R148. -/
  | rorX96 (w : X96)
  /-- R148. -/
  | bfeB32 (w : B32)
  /-- R148. -/
  | bfeX96 (w : X96)
  /-- R148. -/
  | bfi (w : X96)
  /-- R148. -/
  | popcB32 (w : B32)
  /-- R148. -/
  | popcX96 (w : X96)
  /-- R148. -/
  | clzB32 (w : B32)
  /-- R148. -/
  | clzX96 (w : X96)
  /-- R148. -/
  | ctzB32 (w : B32)
  /-- R148. -/
  | ctzX96 (w : X96)
  /-- R148. -/
  | brevB32 (w : B32)
  /-- R148. -/
  | brevX96 (w : X96)
  /-- R149. -/
  | sel (w : X96)
  /-- R149. -/
  | movB32 (w : B32)
  /-- R149. -/
  | movX96 (w : X96)
  /-- R149. -/
  | movk (w : X96)
  /-- R149. -/
  | lit (w : Form)
  /-- R150. -/
  | leaB32 (w : B32)
  /-- R150. -/
  | leaX96 (w : X96)
  /-- R150. -/
  | leam (w : X96)
  /-- R151. -/
  | cmpB32 (w : B32)
  /-- R151. -/
  | cmpX96 (w : X96)
  /-- R151. -/
  | pandB32 (w : B32)
  /-- R151. -/
  | pandX96 (w : X96)
  /-- R151. -/
  | porB32 (w : B32)
  /-- R151. -/
  | porX96 (w : X96)
  /-- R151. -/
  | pxorB32 (w : B32)
  /-- R151. -/
  | pxorX96 (w : X96)
  /-- R151. -/
  | pnotB32 (w : B32)
  /-- R151. -/
  | pnotX96 (w : X96)
  /-- R155. -/
  | nopB32 (w : B32)
  /-- R155. -/
  | nopX96 (w : X96)
  /-- R152. -/
  | bra (w : X96)
  /-- R152. -/
  | brx (w : X96)
  /-- R152. -/
  | jmp (w : X96)
  /-- R152. -/
  | call (w : X96)
  /-- R152. -/
  | retB32 (w : B32)
  /-- R152. -/
  | retX96 (w : X96)
  /-- R152. -/
  | loop (w : X96)
  /-- R153. -/
  | syncwB32 (w : B32)
  /-- R153. -/
  | syncwX96 (w : X96)
  /-- R154. -/
  | reform (w : X96)
  /-- R154. -/
  | reformS (w : X96)
  /-- R155. -/
  | yieldB32 (w : B32)
  /-- R155. -/
  | yieldX96 (w : X96)
  /-- R156. -/
  | haltB32 (w : B32)
  /-- R156. -/
  | haltX96 (w : X96)
  /-- R156. -/
  | haltR (w : X96)
  /-- R155. -/
  | wait (w : X96)
  /-- R158. -/
  | send (w : X96)
  /-- R158. -/
  | sendT (w : X96)
  /-- R159. -/
  | sendb (w : X96)
  /-- R161. -/
  | post (w : X96)
  /-- R160. -/
  | spawn (w : X96)
  /-- R164. -/
  | trap (w : X96)
  /-- R164. -/
  | eretB32 (w : B32)
  /-- R164. -/
  | eretX96 (w : X96)
  /-- R166. -/
  | rdcr (w : X96)
  /-- R166. -/
  | wrcr (w : X96)
  /-- R168. -/
  | femark (w : X96)
  /-- R168. -/
  | fefill (w : X96)
  /-- R169. -/
  | trace (w : X96)
  /-- R170. -/
  | cntrFold (w : X96)
  /-- R174. -/
  | faddB32 (w : B32)
  /-- R174. -/
  | faddX96 (w : X96)
  /-- R174. -/
  | fsubB32 (w : B32)
  /-- R174. -/
  | fsubX96 (w : X96)
  /-- R174. -/
  | fmulB32 (w : B32)
  /-- R174. -/
  | fmulX96 (w : X96)
  /-- R174. -/
  | ffma (w : X96)
  /-- R175. -/
  | fminB32 (w : B32)
  /-- R175. -/
  | fminX96 (w : X96)
  /-- R175. -/
  | fmaxB32 (w : B32)
  /-- R175. -/
  | fmaxX96 (w : X96)
  /-- R175. -/
  | fabsB32 (w : B32)
  /-- R175. -/
  | fabsX96 (w : X96)
  /-- R175. -/
  | fnegB32 (w : B32)
  /-- R175. -/
  | fnegX96 (w : X96)
  /-- R176. -/
  | fcmpB32 (w : B32)
  /-- R176. -/
  | fcmpX96 (w : X96)
  /-- R177. -/
  | fclass (w : X96)
  /-- R178. -/
  | frnd (w : X96)
  /-- R115. -/
  | frcpB32 (w : B32)
  /-- R115. -/
  | frcpX96 (w : X96)
  /-- R179. -/
  | frsqB32 (w : B32)
  /-- R179. -/
  | frsqX96 (w : X96)
  /-- R179. -/
  | fsqrtB32 (w : B32)
  /-- R179. -/
  | fsqrtX96 (w : X96)
  /-- R179. -/
  | fexp2B32 (w : B32)
  /-- R179. -/
  | fexp2X96 (w : X96)
  /-- R179. -/
  | flog2B32 (w : B32)
  /-- R179. -/
  | flog2X96 (w : X96)
  /-- R179. -/
  | fsinB32 (w : B32)
  /-- R179. -/
  | fsinX96 (w : X96)
  /-- R179. -/
  | fcosB32 (w : B32)
  /-- R179. -/
  | fcosX96 (w : X96)
  /-- R179. -/
  | ftanhB32 (w : B32)
  /-- R179. -/
  | ftanhX96 (w : X96)
  /-- R181. -/
  | cvt (w : X96)
  /-- R182. -/
  | gcvt (w : X96)
  /-- R183. -/
  | gcmp (w : X96)
  /-- R184. -/
  | gclass (w : X96)
  /-- R187. -/
  | dot4 (w : X96)
  /-- R186. -/
  | vadd (w : X96)
  /-- R186. -/
  | vsub (w : X96)
  /-- R186. -/
  | vmul (w : X96)
  /-- R186. -/
  | vmad (w : X96)
  /-- R186. -/
  | vmin (w : X96)
  /-- R186. -/
  | vmax (w : X96)
  /-- R188. -/
  | shfl (w : X96)
  /-- R189. -/
  | ballot (w : X96)
  /-- R190. -/
  | vote (w : X96)
  /-- R193. -/
  | rand (w : X96)
  /-- R194. -/
  | qxmax (w : X96)
  /-- R196. -/
  | qscale (w : X96)
  /-- R197. -/
  | qcvt (w : X96)
  /-- R200. -/
  | ldB32 (w : B32)
  /-- R200. -/
  | ldX96 (w : X96)
  /-- R200. -/
  | stB32 (w : B32)
  /-- R200. -/
  | stX96 (w : X96)
  /-- R202. -/
  | ldg (w : X96)
  /-- R202. -/
  | sts (w : X96)
  /-- R203. -/
  | pref (w : X96)
  /-- R206. -/
  | atom (w : X96)
  /-- R208. -/
  | fence (w : X96)
  /-- R210. -/
  | barArr (w : X96)
  /-- R210. -/
  | barWait (w : X96)
  /-- R210. -/
  | barSync (w : X96)
  /-- R211. -/
  | cvsign (w : X96)
  /-- R211. -/
  | cvwait (w : X96)
  /-- R212. -/
  | bndSet (w : X96)
  /-- R214. -/
  | flumeCopy (w : X96)
  /-- R215. -/
  | flumeTile (w : X96)
  /-- R218. -/
  | flumeWait (w : X96)
  /-- R216. -/
  | flumeCvt (w : X96)
  /-- R221. -/
  | gset (w : X96)
  /-- R221. -/
  | gclr (w : X96)
  /-- R266. -/
  | tspawn (w : X96)
  /-- R265. -/
  | trange (w : X96)
  /-- R268. -/
  | tdone (w : X96)
  /-- R268. -/
  | tabort (w : X96)
  /-- R269. -/
  | tstamp (w : X96)
  /-- R250. -/
  | rayEnq (w : X96)
  /-- R256. -/
  | rayBox4 (w : X96)
  /-- R257. -/
  | rayTri (w : X96)
  /-- R259. -/
  | rayNext (w : X96)
  /-- R258. -/
  | rayHit (w : X96)
  /-- R260. -/
  | rayFin (w : X96)
  /-- R285. -/
  | primEmit (w : X96)
  /-- R285. -/
  | primEmitClose (w : X96)
  /-- R291. -/
  | visRead (w : X96)
  /-- R293. -/
  | texReq (w : X96)
  /-- R295. -/
  | blkDcmp (w : X96)
  /-- R227. -/
  | tld (w : X96)
  /-- R228. -/
  | tldt (w : X96)
  /-- R227. -/
  | tst (w : X96)
  /-- R229. -/
  | tzero (w : X96)
  /-- R231. -/
  | tgather (w : X96)
  /-- R230. -/
  | nzscan (w : X96)
  /-- R233. -/
  | mma (w : X96)
  /-- R234. -/
  | mmaS (w : X96)
  /-- R237. -/
  | accMov (w : X96)
  /-- R236. -/
  | accLd (w : X96)
  /-- R236. -/
  | accSt (w : X96)
  /-- R238. -/
  | accCvt (w : X96)
  /-- R239. -/
  | accZero (w : X96)
  /-- R116. -/
  | instructionFetchFault
  /-- R17. -/
  | runArbitration
  /-- R200. -/
  | loadCompletion (op : Nat)
  /-- R206. -/
  | atomCompletion (op : Nat)
  /-- R179. -/
  | specialFunctionCompletion (prod : Nat)
  /-- R195. -/
  | qxmaxExchangeCompletion (prod : Nat)
  /-- R237. -/
  | accMovCompletion (prod : Nat)
  /-- R227. -/
  | tileRowLoadCompletion (op : Nat)
  /-- R234. -/
  | mmaEntryPerform (engine : Nat) (slot : Nat)
  /-- R155. -/
  | waitDeadlineExpiry (thread : Nat)
  /-- R158. -/
  | sendTTimeout (thread : Nat)
  /-- R37. -/
  | messagePlaceGrant (thread : Nat)
  /-- R37. -/
  | messageArrival (msg : Nat)
  /-- R36. -/
  | handlerStart (core : Nat) (ctx : Nat)
  /-- R162. -/
  | heldMessageRouteReturn (msg : Nat)
  /-- R21. -/
  | pocketAgeExpiry (stand : Nat) (pocket : Nat)
  /-- R21. -/
  | waveQueueStart (stand : Nat) (engine : Nat) (slot : Nat) (quarter : Nat)
  /-- R27. -/
  | waitingThreadTakesContext (core : Nat) (ctx : Nat)
  /-- R51. -/
  | workgroupWatchdogExpiry (launch : Nat) (wg : Nat)
  /-- R52. -/
  | launchFatalEnd (launch : Nat)
  /-- R42. -/
  | workgroupPlacement (launch : Nat) (wg : Nat) (stand : Nat)
  /-- R53. -/
  | workgroupRetire (launch : Nat) (wg : Nat)
  /-- R87. -/
  | homeReadLeaseGrant (op : Nat) (part : Nat)
  /-- R87. -/
  | homeWritePerformed (op : Nat) (part : Nat)
  /-- R85. -/
  | writeAckAtStand (op : Nat) (part : Nat)
  /-- R90. -/
  | scOperationPerformed (op : Nat) (part : Nat)
  /-- R387. -/
  | leaseSweep (stand : Nat)
  /-- R388. -/
  | l1RetentionWake (stand : Nat)
  /-- R91. -/
  | engineOwnershipGrant (cmd : Nat) (line : Nat)
  /-- R91. -/
  | engineRecallComplete (line : Nat)
  /-- R92. -/
  | buddyTakeover (line : Nat)
  /-- R94. -/
  | memoryPortArrival (op : Nat) (part : Nat)
  /-- R351. -/
  | translationWalk (walk : Nat)
  /-- R222. -/
  | flumeCommandAtHead (cluster : Nat) (ring : Nat)
  /-- R219. -/
  | flumeBeatService (cluster : Nat)
  /-- R217. -/
  | flumeCommandComplete (cluster : Nat) (ring : Nat)
  /-- R253. -/
  | boomSelection (die : Nat) (scene : Nat) (reach : Nat) (stand : Nat)
  /-- R254. -/
  | reachLoadComplete (stand : Nat)
  /-- R261. -/
  | batchEnd (stand : Nat)
  /-- R262. -/
  | batchLimitExpiry (stand : Nat)
  /-- R403. -/
  | driveAccessFault (die : Nat) (stand : Nat)
  /-- R271. -/
  | taskDispatch (stand : Nat) (task : Nat) (core : Nat) (ctx : Nat)
  /-- R276. -/
  | commitReduction (launch : Nat)
  /-- R277. -/
  | taskCommit (launch : Nat)
  /-- R405. -/
  | binEntryRasterize (launch : Nat) (die : Nat) (tile : Nat)
  /-- R290. -/
  | tileVisibilityFinal (launch : Nat) (tile : Nat)
  /-- R289. -/
  | emissionForcedClose (launch : Nat) (die : Nat)
  /-- R292. -/
  | tileWriteBack (launch : Nat) (tile : Nat)
  /-- R293. -/
  | textureReply (req : Nat)
  /-- R283. -/
  | balancerStandMove (stand : Nat)
  /-- R372. -/
  | balancerAutoTick (die : Nat)
  /-- R330. -/
  | qresvRead (queue : Nat)
  /-- R330. -/
  | qresvTimeout (queue : Nat)
  /-- R330. -/
  | qresvsRead (queue : Nat)
  /-- R330. -/
  | qresvsBusyTimeout (queue : Nat)
  /-- R330. -/
  | doorbellWrite (queue : Nat) (val : W32)
  /-- R329. -/
  | qctlWrite (queue : Nat) (val : W32)
  /-- R329. -/
  | qstatWrite (queue : Nat) (val : W32)
  /-- R332. -/
  | launch (queue : Nat)
  /-- R331. -/
  | signalCommand (queue : Nat)
  /-- R331. -/
  | queueWaitCommand (queue : Nat)
  /-- R331. -/
  | queueWaitPoll (queue : Nat)
  /-- R331. -/
  | queueWaitTimeout (queue : Nat)
  /-- R331. -/
  | messageCommand (queue : Nat)
  /-- R331. -/
  | bind (queue : Nat)
  /-- R341. -/
  | resume (queue : Nat)
  /-- R338. -/
  | qpreemptWrite (queue : Nat) (val : W32)
  /-- R338. -/
  | preemptionComplete (launch : Nat)
  /-- R343. -/
  | cruiseStart (queue : Nat)
  /-- R345. -/
  | cruiseClaim (queue : Nat)
  /-- R346. -/
  | cruiseDiscard (cruise : Nat)
  /-- R346. -/
  | cruiseIdleTimeout (cruise : Nat)
  /-- R347. -/
  | crstartRead (queue : Nat)
  /-- R347. -/
  | crclaimRead (queue : Nat)
  /-- R347. -/
  | crdiscRead (queue : Nat)
  /-- R347. -/
  | crcauseRead (queue : Nat)
  /-- R362. -/
  | freplayWrite (part : Nat) (val : W32)
  /-- R362. -/
  | fcancelWrite (part : Nat) (val : W32)
  /-- R359. -/
  | fqconsWrite (part : Nat) (val : W32)
  /-- R355. -/
  | invctlStart (part : Nat) (val : W32)
  /-- R355. -/
  | invalidationComplete (inval : Nat)
  /-- R367. -/
  | migctlStart (part : Nat) (val : W32)
  /-- R368. -/
  | migrationComplete (mig : Nat)
  /-- R356. -/
  | atsTranslationCompletion (walk : Nat) (addr : W64) (perms : (BitVec 8))
  /-- R358. -/
  | atsInvalidateRequest (pasid : Nat) (addr : W64) (size : Nat) (tag : Nat)
  /-- R357. -/
  | prgResponse (prg : Nat) (code : Nat)
  /-- R365. -/
  | cxlPortFailure (port : Nat) (timeout : Bool)
  /-- R365. -/
  | cxlstatWrite (port : Nat) (val : W32)
  /-- R364. -/
  | cxldropRead (port : Nat)
  /-- R375. -/
  | packageUnreachableTimeout (part : Nat) (pkg : Nat)
  /-- R375. -/
  | pkglostDeclare (part : Nat) (val : W32)
  /-- R375. -/
  | pkglostRestore (part : Nat) (val : W32)
  /-- R370. -/
  | standownWrite (stand : Nat) (val : W32)
  /-- R370. -/
  | standownTakeEffect (stand : Nat)
  /-- R369. -/
  | pctlWrite (part : Nat) (val : W32)
  /-- R369. -/
  | discardRead (part : Nat)
  /-- R371. -/
  | evconsWrite (part : Nat) (val : W32)
  /-- R393. -/
  | pflogconsWrite (val : W32)
  /-- R377. -/
  | keyGenerate (part : Nat)
  /-- R377. -/
  | keyInstall (part : Nat)
  /-- R377. -/
  | keyErase (part : Nat)
  /-- R372. -/
  | balctlWrite (die : Nat) (val : W32)
  /-- R395. -/
  | ctrselWrite (part : Nat) (idx : Nat) (val : W32)
  /-- R376. -/
  | collectiveAllReduce (part : Nat) (engine : Nat)
  /-- R376. -/
  | collectiveAllGather (part : Nat) (engine : Nat)
  /-- R376. -/
  | collectiveSignal (part : Nat) (engine : Nat)
  /-- R373. -/
  | lnkreplayRead (link : Nat)
  /-- R373. -/
  | eloaLinkDown (link : Nat)
  /-- R378. -/
  | powerOnBoot (fail : Nat) (size0 : Nat) (size1 : Nat) (id : Nat)
  /-- R378. -/
  | provisionWrite (val : W32)
  /-- R379. -/
  | getVersion (part : Nat)
  /-- R379. -/
  | getCapabilities (part : Nat)
  /-- R379. -/
  | negotiateAlgorithms (part : Nat)
  /-- R379. -/
  | getDigests (part : Nat)
  /-- R379. -/
  | getCertificate (part : Nat)
  /-- R379. -/
  | challenge (part : Nat)
  /-- R379. -/
  | getMeasurements (part : Nat)
  /-- R379. -/
  | keyExchange (part : Nat)
  /-- R379. -/
  | finish (part : Nat)
  /-- R379. -/
  | wrappedKeyDelivery (part : Nat)
  /-- R383. -/
  | parityRetry (unit : Nat)
  /-- R381. -/
  | dramScrub (line : Nat) (cls : Nat)
  /-- R381. -/
  | correctedLineRewrite (line : Nat)
  /-- R385. -/
  | unitFence (unit : Nat) (cause : Nat)
  /-- R386. -/
  | cecountRead
  /-- R386. -/
  | uecountRead
  /-- R386. -/
  | misdirRead
  /-- R386. -/
  | parretryRead
  /-- R399. -/
  | pwrmodeWrite (val : W32)
  /-- R399. -/
  | governorTick (power : Nat)
  /-- R399. -/
  | thermalLimit (temp : Nat)
  /-- R10. -/
  | registerWrite (off : Nat) (val : W32)
  /-- R399. -/
  | clocksResumeBelow95c (temp : Nat)
  /-- R399. -/
  | clockRelockComplete
  /-- R388. -/
  | l1RetentionSleep (stand : Nat)
  /-- R373. -/
  | eloaLinkUp (link : Nat) (peer : Nat)
  /-- R373. -/
  | flitCrcReplay (link : Nat)
  /-- R356. -/
  | atsCompletionTimeout (walk : Nat)
  /-- R88. -/
  | rootComplexWriteAck (op : Nat) (part : Nat)
  /-- R385. -/
  | l2RehomingComplete (slice : Nat)
  /-- R359. -/
  | fqctlWrite (part : Nat) (val : W32)
deriving DecidableEq, Repr

end Sys2Proof
end

