-- ==== Sys2Proof/Machine/Fields.lean ====
section
/-!
DEFINITION. What the fields of an instruction word mean: the operation behind a word, its major opcode (R135), the
use of every operand field (R146, R171, R198, R226, R249, R264, R285, R291, R293, R295), the accepted TYPE codes
(R122), the literal slot (R119), the reading of HINT (R123) and the latency class (R126).
-/

namespace Sys2Proof

/-- The operations of R135, one for each mnemonic, whatever the word form. -/
inductive Op where
  | add | sub | addc | subb | mulLo | mulHi | mulw | mad | div | rem | neg | abs | min | max | and | or | xor
  | not | andn | shl | shr | sra | rol | ror | bfe | bfi | popc | clz | ctz | brev | sel | mov | movk | lit
  | lea | leam | cmp | pand | por | pxor | pnot | nop | bra | brx | jmp | call | ret | loop | syncw | reform
  | reformS | yield | halt | haltR | wait | send | sendT | sendb | post | spawn | trap | eret | rdcr | wrcr
  | femark | fefill | trace | cntrFold | fadd | fsub | fmul | ffma | fmin | fmax | fabs | fneg | fcmp | fclass
  | frnd | frcp | frsq | fsqrt | fexp2 | flog2 | fsin | fcos | ftanh | cvt | gcvt | gcmp | gclass | dot4 | vadd
  | vsub | vmul | vmad | vmin | vmax | shfl | ballot | vote | rand | qxmax | qscale | qcvt | ld | st | ldg
  | sts | pref | atom | fence | barArr | barWait | barSync | cvsign | cvwait | bndSet | flumeCopy | flumeTile
  | flumeWait | flumeCvt | gset | gclr | tspawn | trange | tdone | tabort | tstamp | rayEnq | rayBox4 | rayTri
  | rayNext | rayHit | rayFin | primEmit | primEmitClose | visRead | texReq | blkDcmp | tld | tldt | tst
  | tzero | tgather | nzscan | mma | mmaS | accMov | accLd | accSt | accCvt | accZero
deriving DecidableEq, Repr

/-- The major opcode of an operation (R135). -/
def Op.major : Op → Nat
  | .add => 0x01
  | .sub => 0x02
  | .addc => 0x03
  | .subb => 0x04
  | .mulLo => 0x05
  | .mulHi => 0x06
  | .mulw => 0x07
  | .mad => 0x08
  | .div => 0x09
  | .rem => 0x0A
  | .neg => 0x0B
  | .abs => 0x0C
  | .min => 0x0D
  | .max => 0x0E
  | .and => 0x10
  | .or => 0x11
  | .xor => 0x12
  | .not => 0x13
  | .andn => 0x14
  | .shl => 0x15
  | .shr => 0x16
  | .sra => 0x17
  | .rol => 0x18
  | .ror => 0x19
  | .bfe => 0x1A
  | .bfi => 0x1B
  | .popc => 0x1C
  | .clz => 0x1D
  | .ctz => 0x1E
  | .brev => 0x1F
  | .sel => 0x20
  | .mov => 0x21
  | .movk => 0x22
  | .lit => 0x23
  | .lea => 0x24
  | .leam => 0x25
  | .cmp => 0x26
  | .pand => 0x30
  | .por => 0x31
  | .pxor => 0x32
  | .pnot => 0x33
  | .nop => 0x40
  | .bra => 0x41
  | .brx => 0x42
  | .jmp => 0x43
  | .call => 0x44
  | .ret => 0x45
  | .loop => 0x46
  | .syncw => 0x47
  | .reform => 0x48
  | .reformS => 0x48
  | .yield => 0x49
  | .halt => 0x4A
  | .haltR => 0x4A
  | .wait => 0x4B
  | .send => 0x50
  | .sendT => 0x50
  | .sendb => 0x51
  | .post => 0x52
  | .spawn => 0x53
  | .trap => 0x54
  | .eret => 0x55
  | .rdcr => 0x56
  | .wrcr => 0x57
  | .femark => 0x58
  | .fefill => 0x59
  | .trace => 0x5A
  | .cntrFold => 0x5B
  | .fadd => 0x60
  | .fsub => 0x61
  | .fmul => 0x62
  | .ffma => 0x63
  | .fmin => 0x64
  | .fmax => 0x65
  | .fabs => 0x66
  | .fneg => 0x67
  | .fcmp => 0x68
  | .fclass => 0x69
  | .frnd => 0x6A
  | .frcp => 0x70
  | .frsq => 0x71
  | .fsqrt => 0x72
  | .fexp2 => 0x73
  | .flog2 => 0x74
  | .fsin => 0x75
  | .fcos => 0x76
  | .ftanh => 0x77
  | .cvt => 0x80
  | .gcvt => 0x81
  | .gcmp => 0x82
  | .gclass => 0x83
  | .dot4 => 0x88
  | .vadd => 0x89
  | .vsub => 0x8A
  | .vmul => 0x8B
  | .vmad => 0x8C
  | .vmin => 0x8D
  | .vmax => 0x8E
  | .shfl => 0x90
  | .ballot => 0x91
  | .vote => 0x92
  | .rand => 0x93
  | .qxmax => 0x98
  | .qscale => 0x99
  | .qcvt => 0x9A
  | .ld => 0xA0
  | .st => 0xA1
  | .ldg => 0xA2
  | .sts => 0xA3
  | .pref => 0xA4
  | .atom => 0xA5
  | .fence => 0xA6
  | .barArr => 0xA8
  | .barWait => 0xA9
  | .barSync => 0xAA
  | .cvsign => 0xAB
  | .cvwait => 0xAC
  | .bndSet => 0xAD
  | .flumeCopy => 0xC0
  | .flumeTile => 0xC1
  | .flumeWait => 0xC2
  | .flumeCvt => 0xC3
  | .gset => 0xC4
  | .gclr => 0xC5
  | .tspawn => 0xC8
  | .trange => 0xC9
  | .tdone => 0xCA
  | .tabort => 0xCB
  | .tstamp => 0xCC
  | .rayEnq => 0xD0
  | .rayBox4 => 0xD1
  | .rayTri => 0xD2
  | .rayNext => 0xD3
  | .rayHit => 0xD4
  | .rayFin => 0xD5
  | .primEmit => 0xD8
  | .primEmitClose => 0xD8
  | .visRead => 0xD9
  | .texReq => 0xDA
  | .blkDcmp => 0xDB
  | .tld => 0xE0
  | .tldt => 0xE1
  | .tst => 0xE2
  | .tzero => 0xE3
  | .tgather => 0xE4
  | .nzscan => 0xE5
  | .mma => 0xE6
  | .mmaS => 0xE7
  | .accMov => 0xE8
  | .accLd => 0xE9
  | .accSt => 0xEA
  | .accCvt => 0xEB
  | .accZero => 0xEC

/-- The operations that have a B32 form (R135). -/
def Op.hasB32 : Op → Bool
  | .add | .sub | .addc | .subb | .mulLo | .mulHi | .mulw | .div | .rem | .neg | .abs | .min | .max | .and
  | .or | .xor | .not | .andn | .shl | .shr | .sra | .rol | .ror | .bfe | .popc | .clz | .ctz | .brev | .mov
  | .lit | .lea | .cmp | .pand | .por | .pxor | .pnot | .nop | .ret | .syncw | .yield | .halt | .eret | .fadd
  | .fsub | .fmul | .fmin | .fmax | .fabs | .fneg | .fcmp | .frcp | .frsq | .fsqrt | .fexp2 | .flog2 | .fsin
  | .fcos | .ftanh | .ld | .st => true
  | _ => false

/-- An instruction word ready for issue: the operation, whether the word was a base word, and its X96 fields, for a
base word those that R120 gives it. -/
structure Ins where
  op : Op
  b32 : Bool
  w : X96
deriving DecidableEq, Repr

namespace Ins
/-- The D field as a number. -/
def d (i : Ins) : Nat := i.w.d.toNat
/-- The A field as a number. -/
def a (i : Ins) : Nat := i.w.a.toNat
/-- The B field as a number. -/
def b (i : Ins) : Nat := i.w.b.toNat
/-- The C field as a number. -/
def c (i : Ins) : Nat := i.w.c.toNat
/-- The X field as a number. -/
def x (i : Ins) : Nat := i.w.x.toNat
/-- The TYPE field as a number. -/
def ty (i : Ins) : Nat := i.w.ty.toNat
/-- The MINOR field as a number. -/
def minor (i : Ins) : Nat := i.w.minor.toNat
/-- The HINT field as a number. -/
def hint (i : Ins) : Nat := i.w.hint.toNat
/-- The length in bytes of the instruction (R116). -/
def len (i : Ins) : Nat := (if i.b32 then 4 else 12) + (if i.w.lit.isSome then 8 else 0)
/-- The word offset OFS in bits [71:40], A lowest (R146), as a signed number. -/
def ofs (i : Ins) : Int := (i.w.x ++ i.w.c ++ i.w.b ++ i.w.a).toInt
/-- A memory word's space (R137). -/
def space (i : Ins) : Nat := i.minor % 8
/-- A memory word's ordering (R137). -/
def ordering (i : Ins) : Nat := i.minor / 8 % 8
/-- Whether a memory word is a typed access (R137). -/
def typed (i : Ins) : Bool := i.w.minor.getLsbD 6
/-- A memory word's scope code (R137); X is the constant-word index when KB is set. -/
def scope (i : Ins) : Nat := if i.w.kb then 0 else i.x % 8
/-- An ATOM's operation (R137). -/
def atomOp (i : Ins) : Nat := i.x / 16
end Ins

/-- The width in bits of an integer type code (R122); 128 for .b128. -/
def intWidth (ty : Nat) : Nat :=
  match ty / 2 with
  | 0 => 32 | 1 => 64 | 2 => 16 | 3 => 8 | 4 => 4 | _ => 128

/-- Whether an integer type code is an .i type (R122). -/
def intSigned (ty : Nat) : Bool := ty % 2 == 0

/-- The width in bits of a format number (R122, R96). -/
def fmtBits : Nat → Nat
  | 0x00 | 0x0F | 0x14 => 64
  | 0x01 | 0x0E | 0x13 => 32
  | 0x02 | 0x03 | 0x0A | 0x0D | 0x12 => 16
  | 0x04 | 0x05 | 0x09 | 0x0B | 0x11 => 8
  | 0x06 | 0x07 | 0x08 => 6
  | _ => 4

/-- The registers an element of a format takes (R172). -/
def fmtRegs (f : Nat) : Nat := if fmtBits f = 64 then 2 else 1

/-- The registers an integer element takes (R147, R200). -/
def intRegs (ty : Nat) : Nat :=
  match intWidth ty with
  | 64 => 2 | 128 => 4 | _ => 1

/-- A register file an operand field may name (R129). -/
inductive RFile where
  /-- General registers, or k registers under WU (R128). -/
  | g
  | p | k | mb
  /-- Tile registers m0-m7. -/
  | tile
  /-- Accumulator tiles. -/
  | acc
  | cv | bar | gs
deriving DecidableEq, Repr

/-- A field's use. `n` registers from `idx`; `al` is the divisor the name must have (R130). -/
inductive Use where
  /-- The field must be zero (R138). -/
  | unused
  /-- The field is read as a number of its own; its own checks stand in `extraOk`. -/
  | imm
  | src (f : RFile) (idx n al : Nat)
  | dst (f : RFile) (idx n al : Nat)
  /-- Read and then written. -/
  | srcDst (f : RFile) (idx n al : Nat)
  /-- Named, but neither a source nor a destination under R125. -/
  | name (f : RFile) (idx : Nat)
deriving DecidableEq, Repr

/-- How HINT is read (R123). -/
inductive HintUse where
  | zero | rounding | cache
deriving DecidableEq, Repr

/-- Which source a literal replaces (R119). -/
inductive LitUse where
  | none | b | c
  /-- LIT: the literal forms are the only ones. -/
  | only
deriving DecidableEq, Repr

/-- The use of all fields of one instruction word. -/
structure Fields where
  d : Use := .unused
  a : Use := .unused
  b : Use := .unused
  c : Use := .unused
  x : Use := .unused
  /-- The accepted TYPE codes. -/
  types : List Nat := [0]
  lit : LitUse := .none
  /-- Source B may be the constant word X names. -/
  kb : Bool := false
  hint : HintUse := .zero
  /-- Latency class 1 (R126). -/
  long : Bool := false
  /-- A 64-bit B, C or literal operand (R119). -/
  wide : Bool := false
  /-- The sources are read only in the lowest-numbered active thread. -/
  leader : Bool := false
  /-- The feature bit of $fmask the form needs (R28). -/
  feature : Option Nat := .none
deriving DecidableEq, Repr

/-- Integer types of the arithmetic instructions (R147). -/
def intTypes : List Nat := [0, 1, 2, 3, 4, 5, 6, 7, 8, 9]

/-- Formats 0x01 to 0x0E. -/
def bankTypes : List Nat := [1, 2, 3, 4, 5, 6, 7, 8, 9, 10, 11, 12, 13, 14]

/-- A general-register source of n registers, aligned to n (R130). -/
def Use.sg (idx n : Nat) : Use := .src .g idx n n
/-- A general-register destination of n registers, aligned to n (R130). -/
def Use.dg (idx n : Nat) : Use := .dst .g idx n n

namespace Ins

/-- Two-source integer instruction (R146). -/
def fInt2 (i : Ins) : Fields :=
  let n := intRegs i.ty
  { d := .dg i.d n, a := .sg i.a n, b := .sg i.b n, types := intTypes, lit := .b, kb := true, wide := n == 2 }

/-- One-source integer instruction (R146). -/
def fInt1 (i : Ins) : Fields :=
  let n := intRegs i.ty
  { d := .dg i.d n, a := .sg i.a n, types := intTypes }

/-- Three-source integer instruction (R146). -/
def fInt3 (i : Ins) : Fields :=
  { i.fInt2 with c := .sg i.c (intRegs i.ty) }

/-- Predicate logic of two sources (R146, R151). -/
def fPred2 (i : Ins) : Fields :=
  { d := .dst .p i.d 1 1, a := .src .p i.a 1 1, b := .src .p i.b 1 1 }

/-- An instruction whose A, B, C and X hold OFS (R146). -/
def fOfs : Fields := { a := .imm, b := .imm, c := .imm, x := .imm }

/-- FP64 forms need feature bit [1] (R173). -/
def fp64Feature (f : Nat) : Option Nat := if f = 0 then some 1 else none

/-- Two-source float instruction (R171). -/
def fFlt2 (i : Ins) (types : List Nat) (h : HintUse) : Fields :=
  let n := fmtRegs i.ty
  { d := .dg i.d n, a := .sg i.a n, b := .sg i.b n, types := types, lit := .b, kb := true, hint := h,
    wide := n == 2, feature := fp64Feature i.ty }

/-- One-source float instruction (R171). -/
def fFlt1 (i : Ins) (types : List Nat) (h : HintUse) (long : Bool := false) : Fields :=
  let n := fmtRegs i.ty
  { d := .dg i.d n, a := .sg i.a n, types := types, hint := h, long := long, feature := fp64Feature i.ty }

/-- Types of FADD to FNEG (R173). -/
def fltTypes : List Nat := [0, 1, 2, 3, 8, 9, 10]

/-- Registers of a DOT4 destination and accumulator (R187). -/
def dotRegs (ty : Nat) : Nat := match fmtBits ty with | 32 => 1 | 16 => 2 | _ => 4

/-- A packed form (R171, R185, R186). -/
def fPacked (i : Ins) : Fields :=
  { d := .dg i.d 4, a := .sg i.a 4, b := .sg i.b 4, types := [1, 2, 3, 0x0B, 0x0D, 0x0E],
    hint := if i.ty < 4 then .rounding else .zero, feature := some 0 }

/-- Element registers of a memory word (R200, R201). -/
def memRegs (i : Ins) : Nat := if i.typed then fmtRegs i.ty else intRegs i.ty

/-- Element types of a memory word (R200, R201). -/
def memTypes (i : Ins) : List Nat :=
  if i.typed then 0 :: bankTypes else [0, 1, 2, 3, 4, 5, 6, 7, 8, 9, 10]

/-- The common fields of LD, ST, LDG and STS (R198). -/
def fMem (i : Ins) (data : Use) (long leader : Bool) : Fields :=
  { d := data, a := .sg i.a 2, b := .sg i.b 1, x := .imm, types := i.memTypes, lit := .b, kb := true,
    hint := .cache, long := long, leader := leader, wide := true,
    feature := if i.typed then fp64Feature i.ty else none }

/-- A payload of X registers from C (R158). -/
def fPayload (i : Ins) : Use := if i.x = 0 then .imm else .src .g i.c i.x 1

/-- A tile row transfer between memory and a tile or accumulator (R226). -/
def fRows (i : Ins) (f : RFile) (types : List Nat) (feat : Nat) : Fields :=
  { d := .name f i.d, a := .sg i.a 2, b := .sg i.b 1, c := .sg i.c 1, types := types, lit := .b, kb := true,
    hint := .cache, wide := true, feature := some feat }

/-- The use of the fields of an instruction word. `wave` says whether the issuing home is a wave (R211). SHFL.f64, which moves a
pair and computes nothing, asks for the features of SHFL alone (DESIGN CHOICE, log 154). -/
def fields (i : Ins) (wave : Bool) : Fields :=
  match i.op with
  | .add | .sub | .addc | .subb | .mulLo | .mulHi | .div | .rem | .min | .max => i.fInt2
  | .and | .or | .xor | .andn | .shl | .shr | .sra | .rol | .ror | .bfe => i.fInt2
  | .mulw => { i.fInt2 with d := .dg i.d (if intWidth i.ty = 32 then 2 else 1), types := [0, 1, 4, 5, 6, 7, 8, 9] }
  | .mad | .bfi => i.fInt3
  | .neg | .abs | .not | .popc | .clz | .ctz | .brev => i.fInt1
  | .sel => { i.fInt2 with c := .src .p (i.c % 8) 1 1 }
  | .mov =>
    let n := intRegs i.ty
    { d := .dst (if i.x = 1 && !i.w.kb then .mb else .g) i.d n n
      b := .src (if i.x = 2 && !i.w.kb then .mb else .g) i.b n n
      x := .imm, types := intTypes, lit := .b, kb := i.b32, wide := n == 2 }
  | .movk =>
    { d := .dst (if i.x = 0 then .k else .g) i.d 1 1, a := .src (if i.x = 0 then .g else .k) i.a 1 1, x := .imm
      leader := i.x == 0 && wave }
  | .lit => { d := .dg i.d (intRegs i.ty), types := intTypes, lit := .only, wide := intRegs i.ty == 2 }
  | .lea =>
    let n := intRegs i.ty
    { d := .dg i.d 2, a := .sg i.a 2, b := .sg i.b n, x := .imm, types := [0, 1, 2, 3], lit := .b, kb := i.b32
      wide := n == 2 }
  | .leam => { d := .dg i.d 2, a := .sg i.a 1, b := .sg i.b 1, x := .imm, lit := .b }
  | .cmp => { i.fInt2 with d := .dst .p i.d 1 1 }
  | .pand | .por | .pxor => i.fPred2
  | .pnot => { i.fPred2 with b := .unused }
  | .nop | .syncw | .yield | .eret | .halt => {}
  | .bra | .reform | .reformS => fOfs
  | .post => { fOfs with }
  | .brx => { a := .sg i.a 1 }
  | .jmp => { d := if i.d = 0 then .imm else .dg i.d 2, a := .sg i.a 2 }
  | .call => { fOfs with d := .dg i.d 2 }
  | .loop => { fOfs with d := .srcDst .g i.d 1 1 }
  | .ret => { a := .sg i.a 2 }
  | .haltR | .wait | .trap => { b := .sg i.b 1, lit := .b, kb := true }
  | .send => { a := .sg i.a 2, b := .sg i.b 1, c := i.fPayload, x := .imm, lit := .b }
  | .sendT => { d := .dst .p i.d 1 1, a := .sg i.a 2, b := .sg i.b 1, c := i.fPayload, x := .imm, lit := .b }
  | .sendb => { a := .sg i.a 2, b := .sg i.b 1, c := .sg i.c 1, lit := .b, kb := true }
  | .spawn => { a := .sg i.a 2, b := .sg i.b 2, c := i.fPayload, x := .imm }
  | .rdcr => { d := .dg i.d 1, x := .imm }
  | .wrcr => { b := .sg i.b 1, x := .imm, lit := .b }
  | .femark | .fefill => { a := .name (if i.x = 1 then .mb else .g) i.a, x := .imm }
  | .trace => { a := .sg i.a 1, b := .sg i.b 1, lit := .b, kb := true, leader := wave }
  | .cntrFold => { d := .name .bar i.d, a := .sg i.a 2, b := .sg i.b 1, x := .imm, lit := .b }
  | .fadd | .fsub | .fmul => i.fFlt2 fltTypes .rounding
  | .fmin | .fmax => i.fFlt2 fltTypes .zero
  | .ffma => { i.fFlt2 fltTypes .rounding with c := .sg i.c (fmtRegs i.ty), lit := .c }
  | .fabs | .fneg => i.fFlt1 fltTypes .zero
  | .fcmp => { i.fFlt2 [0, 1, 2, 3] .zero with d := .dst .p i.d 1 1 }
  | .fclass => { i.fFlt1 [0, 1, 2, 3, 4, 5, 6, 7] .zero with d := .dg i.d 1 }
  | .frnd => i.fFlt1 [0, 1, 2, 3] .rounding
  | .frcp | .frsq | .fsqrt => i.fFlt1 [0, 1, 2] .rounding true
  | .fexp2 | .flog2 | .fsin | .fcos | .ftanh => i.fFlt1 [1, 2] .rounding true
  | .cvt =>
    { d := .dg i.d (fmtRegs (i.x % 32)), a := .sg i.a (fmtRegs (i.minor % 32)), x := .imm, hint := .rounding
      feature := if i.x % 32 = 0 || i.minor % 32 = 0 then some 1 else none }
  | .gcvt =>
    { d := .dg i.d (fmtRegs (i.x % 32)), a := .sg i.a (fmtRegs (i.minor % 32)), b := .sg i.b 1, x := .imm
      lit := .b, hint := .rounding
      feature := if i.x % 32 = 0 || i.minor % 32 = 0 then some 1 else none }
  | .gcmp => { d := .dst .p i.d 1 1, a := .sg i.a 1, b := .sg i.b 1, types := [8, 9, 10], lit := .b, kb := true }
  | .gclass => { d := .dg i.d 1, a := .sg i.a 1, types := [8, 9, 10] }
  | .dot4 =>
    { d := .dg i.d (dotRegs i.ty), a := .sg i.a 4, b := .sg i.b 4, c := .sg i.c (dotRegs i.ty)
      types := [1, 2, 3, 4, 5, 9, 10, 0x0B, 0x0D], feature := some 0 }
  | .vadd | .vsub | .vmul => i.fPacked
  | .vmad => { i.fPacked with c := .sg i.c 4 }
  | .vmin | .vmax => i.fPacked
  | .shfl =>
    { d := .dg i.d (if i.ty = 0 then 2 else 1), a := .sg i.a (if i.ty = 0 then 2 else 1), b := .sg i.b 1, x := .imm
      types := [0, 1], lit := .b, feature := some 2 }
  | .ballot => { d := .dg i.d 1, a := .src .p i.a 1 1, types := [1], feature := some 2 }
  | .vote => { d := .dst .p i.d 1 1, a := .src .p i.a 1 1, types := [1], feature := some 2 }
  | .rand =>
    { d := .dg i.d (fmtRegs i.ty), types := [0, 1, 0x0E, 0x0F], feature := fp64Feature i.ty }
  | .qxmax =>
    { d := .dg i.d 1, a := .sg i.a 1, x := .imm, types := [1, 0x0E], long := true
      feature := if i.x = 1 then some 2 else none }
  | .qscale => { d := .dg i.d 1, a := .sg i.a 1, x := .imm, types := [1] }
  | .qcvt =>
    { d := .srcDst .g i.d 1 1, a := .sg i.a 1, b := .sg i.b 1, x := .imm, types := [1, 2, 3], lit := .b
      hint := .rounding }
  | .ld => i.fMem (.dg i.d i.memRegs) true false
  | .st => i.fMem (.sg i.d i.memRegs) false false
  | .ldg => i.fMem (.dg i.d i.memRegs) true true
  | .sts => i.fMem (.sg i.d i.memRegs) false true
  | .pref =>
    { a := .sg i.a 2, b := .sg i.b 1, x := .imm, lit := .b, kb := true, hint := .cache, wide := true }
  | .atom =>
    let n := intRegs i.ty
    { d := if i.atomOp = 7 then .srcDst .g i.d n n else .dg i.d n
      a := .sg i.a 2, b := .sg i.b 1, c := .sg i.c n, x := .imm
      types := if i.atomOp = 8 then [0, 2, 4] else [0, 1, 2, 3]
      lit := .b, hint := .cache, long := true, wide := true
      feature := if i.atomOp = 8 && i.ty == 2 then some 1 else none }
  | .fence => { x := .imm, hint := .cache }
  | .barArr | .barSync => { d := .name .bar i.d, b := .sg i.b 1, lit := .b }
  | .barWait => { d := .name .bar i.d }
  | .cvsign => { d := .name .cv i.d, b := if wave then .imm else .sg i.b 1, lit := .b }
  | .cvwait => { d := .name .cv i.d }
  | .bndSet => { b := .sg i.b 1, lit := .b, leader := wave }
  | .flumeCopy => { d := .sg i.d 2, a := .sg i.a 2, b := .sg i.b 1, x := .imm, lit := .b, leader := true }
  | .flumeTile => { d := .sg i.d 2, a := .sg i.a 2, c := .sg i.c 4, x := .imm, leader := true }
  | .flumeWait => { d := .dg i.d 1, b := .sg i.b 1, lit := .b, leader := true }
  | .flumeCvt =>
    { d := .sg i.d 2, a := .sg i.a 2, b := .sg i.b 1, c := .sg i.c 1, x := .imm, lit := .b, leader := true }
  | .gset => { d := .name .gs i.d, a := .src .p i.a 1 1, leader := true }
  | .gclr => { d := .name .gs i.d }
  | .tspawn => { a := .sg i.a 2, b := .sg i.b 1, c := i.fPayload, x := .imm, lit := .b }
  | .trange => { a := .sg i.a 2, b := .sg i.b 1, x := .imm, lit := .b }
  | .tdone | .tabort => {}
  | .tstamp => { d := .dg i.d 2 }
  | .rayEnq => { a := .sg i.a 2, b := .sg i.b 1, lit := .b, kb := true, wide := true }
  | .rayBox4 => { d := .dg i.d 1, b := .sg i.b 1, lit := .b, kb := true, feature := some 5 }
  | .rayTri => { d := .dg i.d 2, b := .sg i.b 1, lit := .b, kb := true, feature := some 5 }
  | .rayNext => { b := .sg i.b 1, lit := .b, kb := true }
  | .rayHit | .rayFin => {}
  | .primEmit => { a := .sg i.a 2, b := .sg i.b 1, lit := .b, wide := true }
  | .primEmitClose => { x := .imm }
  | .visRead => { d := .dg i.d 4, b := .sg i.b 1, lit := .b, kb := true }
  | .texReq => { a := .sg i.a 2, b := .sg i.b 1, c := .src .g i.c 3 4, x := .sg i.x 2, lit := .b }
  | .blkDcmp => { d := .dg i.d 1, a := .sg i.a 2, b := .sg i.b 1, leader := wave }
  | .tld | .tst => i.fRows .tile bankTypes 3
  | .tldt => { d := .name .tile i.d, b := .sg i.b 1, types := bankTypes, lit := .b, kb := true, feature := some 3 }
  | .tzero => { d := .name .tile i.d, feature := some 3 }
  | .tgather =>
    { d := .name .tile i.d, a := .sg i.a 2, b := .sg i.b 1, c := .src .g i.c (if i.x = 0 then 1 else 2) 2
      x := if i.x = 0 then .imm else .sg i.x 2
      types := bankTypes, hint := .cache, feature := some 3 }
  | .nzscan =>
    { d := .dg i.d 1, a := .name .tile i.a, b := .sg i.b 1, x := .imm, types := bankTypes, lit := .b, leader := true
      feature := some 3 }
  | .mma =>
    { d := .name .acc i.d, a := .name .tile i.a, b := .name .tile i.b, c := .name .cv i.c, types := [1, 0x0E]
      feature := some 4 }
  | .mmaS =>
    { d := .name .acc i.d, a := .name .tile i.a, b := .name .tile i.b, c := .name .cv i.c, x := .imm, types := [1]
      feature := some 4 }
  | .accMov =>
    { d := .dg i.d 1, a := .name .acc i.a, b := .sg i.b 1, types := [1, 0x0E], lit := .b, kb := true, long := true
      feature := some 3 }
  | .accLd | .accSt => i.fRows .acc [1, 0x0E] 3
  | .accCvt =>
    { d := .name .tile i.d, a := .name .acc i.a, types := [1, 0x0E], hint := .rounding, feature := some 3 }
  | .accZero => { d := .name .acc i.d, feature := some 3 }

end Ins

/-- The instructions that must end their run (R132). -/
def Op.mustEnd : Op → Bool
  | .bra | .brx | .jmp | .call | .ret | .loop | .syncw | .reform | .reformS | .yield | .halt | .haltR | .wait => true
  | .trap | .eret | .barWait | .barSync | .cvwait | .flumeWait => true
  | _ => false

/-- The majors on which SL = 1 is permitted (R127). -/
def Op.sliceable : Op → Bool
  | .add | .sub | .mulLo | .shl | .shr | .and | .or | .min | .max | .mov | .lit | .lea | .leam | .cmp => true
  | .bra | .loop | .ld | .ldg | .pref => true
  | _ => false

/-- The default TYPE of a B32 form (R120, R122). -/
def Op.defaultTy (op : Op) : BitVec 4 := if 0x60 ≤ op.major ∧ op.major < 0xA0 then 1 else 0

/-- The latency class of an operation (R126). -/
def Op.long : Op → Bool
  | .ld | .ldg | .atom | .qxmax | .accMov => true
  | .frcp | .frsq | .fsqrt | .fexp2 | .flog2 | .fsin | .fcos | .ftanh => true
  | _ => false

/-- The X96 fields a base word stands for (R120). -/
def B32.toX96 (op : Op) (w : B32) : X96 :=
  let k := w.b.getLsbD 5
  { rsv := 0, kb := k, wu := false, sl := false, em := op.long, ft := 0, y := false, stall := 0, hint := 0
    x := if k then (w.b.extractLsb' 0 5).zeroExtend 8 else 0
    c := 0, b := if k then 0 else w.b.zeroExtend 8
    a := w.a.zeroExtend 8, d := w.d.zeroExtend 8, ty := op.defaultTy, minor := 0
    gc := false, g2n := false, g2 := 0, g1n := false, g1 := w.g, e := w.e, lit := w.lit }

/-- The instruction a base word stands for (R120). -/
def B32.ins (op : Op) (w : B32) : Ins := { op := op, b32 := true, w := w.toX96 op }

/-- The instruction an extended word stands for. -/
def X96.ins (op : Op) (w : X96) : Ins := { op := op, b32 := false, w := w }

/-- The instruction a word of either form stands for. -/
def Form.ins (op : Op) : Form → Ins
  | .b32 w => w.ins op
  | .x96 w => w.ins op

namespace Ins

/-- The minors an operation accepts (R136); memory minors are laid out by R137. -/
def minorOk (i : Ins) : Bool :=
  match i.op with
  | .cmp | .gcmp => i.minor ≤ 5
  | .fcmp => i.minor ≤ 7
  | .reformS | .haltR | .sendT => i.minor == 1
  | .cvt | .gcvt => i.minor ≤ 0x14
  | .dot4 | .vadd | .vsub | .vmul | .vmad => i.minor == 0 || (i.minor < 4 && 0x0B ≤ i.ty)
  | .vmin | .vmax => i.minor == 0 || (i.minor == 2 && 0x0B ≤ i.ty)
  | .shfl | .vote => i.minor ≤ 3
  | .ld | .st | .ldg | .sts | .pref | .atom | .fence => i.minor < 128 && i.ordering ≤ 5 && i.space ≤ 3
  | _ => i.minor == 0

/-- The constraints of R76, R137 and R198 on a memory word's MINOR and X. -/
def memOk (i : Ins) : Bool :=
  let xOk := if i.w.kb then i.ordering == 0
    else !i.w.x.getLsbD 3 && (i.ordering != 0 || i.scope == 0)
  let atomX := i.op == .atom || i.w.kb || i.atomOp == 0
  let typedOk := !i.typed || (i.ordering == 0 && i.op != .atom && i.op != .fence && i.op != .pref)
  xOk && atomX && typedOk &&
  match i.op with
  | .ld => i.ordering != 3 && i.ordering != 4
  | .st => i.ordering != 2 && i.ordering != 4
  | .ldg | .sts => i.ordering == 0
  | .pref => i.ordering == 0 && i.space == 0
  | .atom => i.ordering != 0 && i.atomOp ≤ 8
  | .fence => i.space == 0 && 2 ≤ i.ordering
  | _ => true

/-- The remaining constraints an instruction's own description puts on its fields. MOV takes no literal beside mailbox source B,
which R149 leaves unsaid (DESIGN CHOICE, log 151). -/
def extraOk (i : Ins) : Bool :=
  match i.op with
  | .sel => i.c < 16
  | .mov => i.w.kb || (i.x ≤ 2 && !(i.x == 2 && i.w.lit.isSome))
  | .movk | .leam | .femark | .fefill | .qxmax | .cntrFold => i.x ≤ 1
  | .lea => i.w.kb || i.x ≤ 3
  | .call | .loop => i.d != 0
  | .send | .sendT | .spawn | .tspawn => i.x ≤ 8 && (i.x != 0 || i.c == 0)
  | .pand | .por | .pxor => !i.w.kb
  | .cvt => i.x ≤ 0x14
  | .gcvt => i.x ≤ 0x14 && ((8 ≤ i.x && i.x ≤ 10) || (8 ≤ i.minor && i.minor ≤ 10))
  | .shfl => i.x ≤ 4
  | .qscale => i.x < 64 && 2 ≤ i.x % 32 && i.x % 32 ≤ 0x0D
  | .qcvt =>
    let f := i.x % 32
    let w := if fmtBits f = 6 then 8 else fmtBits f
    ((2 ≤ f && f ≤ 0x0D) || (0x10 ≤ f && f ≤ 0x13)) && i.x / 32 < 32 / w
  | .flumeCopy | .flumeTile | .flumeCvt => i.x < 32
  | .trange => 1 ≤ i.x && i.x ≤ 3
  | .primEmitClose => i.x == 1
  | .nzscan => i.x < 16
  | .mmaS => !i.w.x.getLsbD 3 && !i.w.x.getLsbD 7
  | .ld | .st | .ldg | .sts | .pref | .atom | .fence => i.memOk
  | _ => true

end Ins

/-- A field's use allows its value: an unused field is zero, a pair or quad is aligned (R130, R138). -/
def Use.fieldOk (u : Use) (v : Nat) : Bool :=
  match u with
  | .unused => v == 0
  | .imm | .name _ _ => true
  | .src _ idx _ al | .dst _ idx _ al | .srcDst _ idx _ al => idx % al == 0

/-- The registers a field writes, as file, first and count. -/
def Use.writes : Use → Option (RFile × Nat × Nat)
  | .dst f idx n _ | .srcDst f idx n _ => some (f, idx, n)
  | _ => none

/-- The source field a literal or constant word replaces (R119, R146). -/
def Fields.replaced (f : Fields) (i : Ins) : Use × Use :=
  match f.lit, i.w.lit with
  | .b, some _ | .only, some _ => (.unused, f.c)
  | .c, some _ => (if i.w.kb then .unused else f.b, .unused)
  | _, _ => (if i.w.kb then .unused else f.b, f.c)

end Sys2Proof
end

