-- ==== Sys2Proof/WellFormed.lean ====
section
/-!
DEFINITION. Well-formedness of an instruction word: every check of R138 that the word alone decides. A word that
fails one raises the illegal-instruction trap for the threads of its active set (R139).
-/

namespace Sys2Proof

namespace Ins

/-- A reserved bit is set (R138). -/
def reservedOk (i : Ins) : Bool := i.w.rsv == 0

/-- TYPE is one the form accepts (R122). -/
def typeOk (i : Ins) : Bool := (i.fields false).types.contains i.ty

/-- Unused fields are zero and multi-register names are aligned (R130, R138). -/
def operandsOk (i : Ins) : Bool :=
  let f := i.fields false
  let r := f.replaced i
  f.d.fieldOk i.d && f.a.fieldOk i.a && r.1.fieldOk i.b && r.2.fieldOk i.c &&
    (if i.w.kb then true else f.x.fieldOk i.x)

/-- The literal form is one the instruction has, and a 32-bit literal's high word repeats its sign (R119). -/
def literalOk (i : Ins) : Bool :=
  let f := i.fields false
  match i.w.lit with
  | none => f.lit != .only
  | some l => f.lit != .none && !i.w.kb && (f.wide || l.hi == (if l.lo.msb then 0xFFFFFFFF#32 else 0#32))

/-- A constant-window operand of a 64-bit float format names an even pair (R172). -/
def constPairOk (i : Ins) : Bool :=
  !((i.fields false).wide && decide (0x60 ≤ i.op.major) && decide (i.op.major < 0xA0)) || i.x % 2 == 0

/-- KB stands only where source B is a register source and X is free (R138). -/
def kbOk (i : Ins) : Bool := !i.w.kb || ((i.fields false).kb && i.b == 0 && i.constPairOk)

/-- HINT is read as R123 says. -/
def hintOk (i : Ins) : Bool :=
  match (i.fields false).hint with
  | .zero => i.hint == 0
  | .rounding => i.hint ≤ 5
  | .cache => i.hint ≤ 4

/-- EM equals the latency class (R126). -/
def emOk (i : Ins) : Bool := i.w.em == i.op.long

/-- SL stands only on the majors of R127. -/
def slOk (i : Ins) : Bool := !i.w.sl || i.op.sliceable

/-- WU stands only on majors 0x01-0x33 except MOVK (R128). -/
def wuOk (i : Ins) : Bool := !i.w.wu || (i.op.major ≤ 0x33 && i.op != .movk)

/-- The instructions of R132 carry E = 1. -/
def endOk (i : Ins) : Bool := !i.op.mustEnd || i.w.e

/-- A base word stands only for a major with a B32 form (R135). -/
def formOk (i : Ins) : Bool := !i.b32 || i.op.hasB32

/-- All the checks of R138 that the word alone decides. -/
def wellFormed (i : Ins) : Bool :=
  i.formOk && i.reservedOk && i.minorOk && i.typeOk && i.operandsOk && i.literalOk && i.kbOk && i.hintOk && i.emOk &&
    i.slOk && i.wuOk && i.endOk && i.extraOk

end Ins

/-- The word behind an instruction; none for the part's own steps, which have no word. -/
def Instr.ins : Instr → Option Ins
  | .addB32 w => some (w.ins .add)
  | .addX96 w => some (w.ins .add)
  | .subB32 w => some (w.ins .sub)
  | .subX96 w => some (w.ins .sub)
  | .addcB32 w => some (w.ins .addc)
  | .addcX96 w => some (w.ins .addc)
  | .subbB32 w => some (w.ins .subb)
  | .subbX96 w => some (w.ins .subb)
  | .mulLoB32 w => some (w.ins .mulLo)
  | .mulLoX96 w => some (w.ins .mulLo)
  | .mulHiB32 w => some (w.ins .mulHi)
  | .mulHiX96 w => some (w.ins .mulHi)
  | .mulwB32 w => some (w.ins .mulw)
  | .mulwX96 w => some (w.ins .mulw)
  | .mad w => some (w.ins .mad)
  | .divB32 w => some (w.ins .div)
  | .divX96 w => some (w.ins .div)
  | .remB32 w => some (w.ins .rem)
  | .remX96 w => some (w.ins .rem)
  | .negB32 w => some (w.ins .neg)
  | .negX96 w => some (w.ins .neg)
  | .absB32 w => some (w.ins .abs)
  | .absX96 w => some (w.ins .abs)
  | .minB32 w => some (w.ins .min)
  | .minX96 w => some (w.ins .min)
  | .maxB32 w => some (w.ins .max)
  | .maxX96 w => some (w.ins .max)
  | .andB32 w => some (w.ins .and)
  | .andX96 w => some (w.ins .and)
  | .orB32 w => some (w.ins .or)
  | .orX96 w => some (w.ins .or)
  | .xorB32 w => some (w.ins .xor)
  | .xorX96 w => some (w.ins .xor)
  | .notB32 w => some (w.ins .not)
  | .notX96 w => some (w.ins .not)
  | .andnB32 w => some (w.ins .andn)
  | .andnX96 w => some (w.ins .andn)
  | .shlB32 w => some (w.ins .shl)
  | .shlX96 w => some (w.ins .shl)
  | .shrB32 w => some (w.ins .shr)
  | .shrX96 w => some (w.ins .shr)
  | .sraB32 w => some (w.ins .sra)
  | .sraX96 w => some (w.ins .sra)
  | .rolB32 w => some (w.ins .rol)
  | .rolX96 w => some (w.ins .rol)
  | .rorB32 w => some (w.ins .ror)
  | .rorX96 w => some (w.ins .ror)
  | .bfeB32 w => some (w.ins .bfe)
  | .bfeX96 w => some (w.ins .bfe)
  | .bfi w => some (w.ins .bfi)
  | .popcB32 w => some (w.ins .popc)
  | .popcX96 w => some (w.ins .popc)
  | .clzB32 w => some (w.ins .clz)
  | .clzX96 w => some (w.ins .clz)
  | .ctzB32 w => some (w.ins .ctz)
  | .ctzX96 w => some (w.ins .ctz)
  | .brevB32 w => some (w.ins .brev)
  | .brevX96 w => some (w.ins .brev)
  | .sel w => some (w.ins .sel)
  | .movB32 w => some (w.ins .mov)
  | .movX96 w => some (w.ins .mov)
  | .movk w => some (w.ins .movk)
  | .lit w => some (w.ins .lit)
  | .leaB32 w => some (w.ins .lea)
  | .leaX96 w => some (w.ins .lea)
  | .leam w => some (w.ins .leam)
  | .cmpB32 w => some (w.ins .cmp)
  | .cmpX96 w => some (w.ins .cmp)
  | .pandB32 w => some (w.ins .pand)
  | .pandX96 w => some (w.ins .pand)
  | .porB32 w => some (w.ins .por)
  | .porX96 w => some (w.ins .por)
  | .pxorB32 w => some (w.ins .pxor)
  | .pxorX96 w => some (w.ins .pxor)
  | .pnotB32 w => some (w.ins .pnot)
  | .pnotX96 w => some (w.ins .pnot)
  | .nopB32 w => some (w.ins .nop)
  | .nopX96 w => some (w.ins .nop)
  | .bra w => some (w.ins .bra)
  | .brx w => some (w.ins .brx)
  | .jmp w => some (w.ins .jmp)
  | .call w => some (w.ins .call)
  | .retB32 w => some (w.ins .ret)
  | .retX96 w => some (w.ins .ret)
  | .loop w => some (w.ins .loop)
  | .syncwB32 w => some (w.ins .syncw)
  | .syncwX96 w => some (w.ins .syncw)
  | .reform w => some (w.ins .reform)
  | .reformS w => some (w.ins .reformS)
  | .yieldB32 w => some (w.ins .yield)
  | .yieldX96 w => some (w.ins .yield)
  | .haltB32 w => some (w.ins .halt)
  | .haltX96 w => some (w.ins .halt)
  | .haltR w => some (w.ins .haltR)
  | .wait w => some (w.ins .wait)
  | .send w => some (w.ins .send)
  | .sendT w => some (w.ins .sendT)
  | .sendb w => some (w.ins .sendb)
  | .post w => some (w.ins .post)
  | .spawn w => some (w.ins .spawn)
  | .trap w => some (w.ins .trap)
  | .eretB32 w => some (w.ins .eret)
  | .eretX96 w => some (w.ins .eret)
  | .rdcr w => some (w.ins .rdcr)
  | .wrcr w => some (w.ins .wrcr)
  | .femark w => some (w.ins .femark)
  | .fefill w => some (w.ins .fefill)
  | .trace w => some (w.ins .trace)
  | .cntrFold w => some (w.ins .cntrFold)
  | .faddB32 w => some (w.ins .fadd)
  | .faddX96 w => some (w.ins .fadd)
  | .fsubB32 w => some (w.ins .fsub)
  | .fsubX96 w => some (w.ins .fsub)
  | .fmulB32 w => some (w.ins .fmul)
  | .fmulX96 w => some (w.ins .fmul)
  | .ffma w => some (w.ins .ffma)
  | .fminB32 w => some (w.ins .fmin)
  | .fminX96 w => some (w.ins .fmin)
  | .fmaxB32 w => some (w.ins .fmax)
  | .fmaxX96 w => some (w.ins .fmax)
  | .fabsB32 w => some (w.ins .fabs)
  | .fabsX96 w => some (w.ins .fabs)
  | .fnegB32 w => some (w.ins .fneg)
  | .fnegX96 w => some (w.ins .fneg)
  | .fcmpB32 w => some (w.ins .fcmp)
  | .fcmpX96 w => some (w.ins .fcmp)
  | .fclass w => some (w.ins .fclass)
  | .frnd w => some (w.ins .frnd)
  | .frcpB32 w => some (w.ins .frcp)
  | .frcpX96 w => some (w.ins .frcp)
  | .frsqB32 w => some (w.ins .frsq)
  | .frsqX96 w => some (w.ins .frsq)
  | .fsqrtB32 w => some (w.ins .fsqrt)
  | .fsqrtX96 w => some (w.ins .fsqrt)
  | .fexp2B32 w => some (w.ins .fexp2)
  | .fexp2X96 w => some (w.ins .fexp2)
  | .flog2B32 w => some (w.ins .flog2)
  | .flog2X96 w => some (w.ins .flog2)
  | .fsinB32 w => some (w.ins .fsin)
  | .fsinX96 w => some (w.ins .fsin)
  | .fcosB32 w => some (w.ins .fcos)
  | .fcosX96 w => some (w.ins .fcos)
  | .ftanhB32 w => some (w.ins .ftanh)
  | .ftanhX96 w => some (w.ins .ftanh)
  | .cvt w => some (w.ins .cvt)
  | .gcvt w => some (w.ins .gcvt)
  | .gcmp w => some (w.ins .gcmp)
  | .gclass w => some (w.ins .gclass)
  | .dot4 w => some (w.ins .dot4)
  | .vadd w => some (w.ins .vadd)
  | .vsub w => some (w.ins .vsub)
  | .vmul w => some (w.ins .vmul)
  | .vmad w => some (w.ins .vmad)
  | .vmin w => some (w.ins .vmin)
  | .vmax w => some (w.ins .vmax)
  | .shfl w => some (w.ins .shfl)
  | .ballot w => some (w.ins .ballot)
  | .vote w => some (w.ins .vote)
  | .rand w => some (w.ins .rand)
  | .qxmax w => some (w.ins .qxmax)
  | .qscale w => some (w.ins .qscale)
  | .qcvt w => some (w.ins .qcvt)
  | .ldB32 w => some (w.ins .ld)
  | .ldX96 w => some (w.ins .ld)
  | .stB32 w => some (w.ins .st)
  | .stX96 w => some (w.ins .st)
  | .ldg w => some (w.ins .ldg)
  | .sts w => some (w.ins .sts)
  | .pref w => some (w.ins .pref)
  | .atom w => some (w.ins .atom)
  | .fence w => some (w.ins .fence)
  | .barArr w => some (w.ins .barArr)
  | .barWait w => some (w.ins .barWait)
  | .barSync w => some (w.ins .barSync)
  | .cvsign w => some (w.ins .cvsign)
  | .cvwait w => some (w.ins .cvwait)
  | .bndSet w => some (w.ins .bndSet)
  | .flumeCopy w => some (w.ins .flumeCopy)
  | .flumeTile w => some (w.ins .flumeTile)
  | .flumeWait w => some (w.ins .flumeWait)
  | .flumeCvt w => some (w.ins .flumeCvt)
  | .gset w => some (w.ins .gset)
  | .gclr w => some (w.ins .gclr)
  | .tspawn w => some (w.ins .tspawn)
  | .trange w => some (w.ins .trange)
  | .tdone w => some (w.ins .tdone)
  | .tabort w => some (w.ins .tabort)
  | .tstamp w => some (w.ins .tstamp)
  | .rayEnq w => some (w.ins .rayEnq)
  | .rayBox4 w => some (w.ins .rayBox4)
  | .rayTri w => some (w.ins .rayTri)
  | .rayNext w => some (w.ins .rayNext)
  | .rayHit w => some (w.ins .rayHit)
  | .rayFin w => some (w.ins .rayFin)
  | .primEmit w => some (w.ins .primEmit)
  | .primEmitClose w => some (w.ins .primEmitClose)
  | .visRead w => some (w.ins .visRead)
  | .texReq w => some (w.ins .texReq)
  | .blkDcmp w => some (w.ins .blkDcmp)
  | .tld w => some (w.ins .tld)
  | .tldt w => some (w.ins .tldt)
  | .tst w => some (w.ins .tst)
  | .tzero w => some (w.ins .tzero)
  | .tgather w => some (w.ins .tgather)
  | .nzscan w => some (w.ins .nzscan)
  | .mma w => some (w.ins .mma)
  | .mmaS w => some (w.ins .mmaS)
  | .accMov w => some (w.ins .accMov)
  | .accLd w => some (w.ins .accLd)
  | .accSt w => some (w.ins .accSt)
  | .accCvt w => some (w.ins .accCvt)
  | .accZero w => some (w.ins .accZero)
  | _ => none

/-- The word form agrees with the constructor: the row a word decodes to is fixed by its major, its minor and, for
PRIM.EMIT, X[0] (R135, R136, R285). -/
def Ins.rowOk (i : Ins) : Bool :=
  match i.op with
  | .primEmit => !i.w.x.getLsbD 0 || i.w.kb
  | .primEmitClose => i.w.x.getLsbD 0 && !i.w.kb
  | .reform | .halt | .send => i.minor == 0
  | .reformS | .haltR | .sendT => i.minor == 1
  | _ => true

/-- Well-formedness of every term: an instruction's word passes R138; the part's own steps carry no word. -/
def Instr.wellFormed (i : Instr) : Bool :=
  match i.ins with
  | some n => n.wellFormed && n.rowOk
  | none => true

end Sys2Proof
end

