-- ==== Sys2Proof/Decode.lean ====
section
/-!
DEFINITION. Decoding instruction words (R116-R119, R135, R136) and, after it, encoding. The decoder is total and
rejects by name. A word whose fields are malformed still decodes, because R139 lets it trap only for the threads of
its active set; `Ins.wellFormed` says so then.
-/

namespace Sys2Proof

/-- Why a sequence of bytes is no instruction (R138). -/
inductive DecodeError where
  /-- Fewer bytes than the first word's LEN asks for. -/
  | tooShort
  /-- A major that R135 does not assign. -/
  | unassignedMajor (major : Nat)
  /-- A minor that selects no instruction of its major (R136). -/
  | unassignedMinor (major minor : Nat)
  /-- A base word of a major without a B32 form (R135). -/
  | noB32Form (major : Nat)
deriving DecidableEq, Repr

/-- The B32 row of a major (R135). -/
def rowB32 : Nat → Option (B32 → Instr)
  | 0x01 => some .addB32
  | 0x02 => some .subB32
  | 0x03 => some .addcB32
  | 0x04 => some .subbB32
  | 0x05 => some .mulLoB32
  | 0x06 => some .mulHiB32
  | 0x07 => some .mulwB32
  | 0x09 => some .divB32
  | 0x0A => some .remB32
  | 0x0B => some .negB32
  | 0x0C => some .absB32
  | 0x0D => some .minB32
  | 0x0E => some .maxB32
  | 0x10 => some .andB32
  | 0x11 => some .orB32
  | 0x12 => some .xorB32
  | 0x13 => some .notB32
  | 0x14 => some .andnB32
  | 0x15 => some .shlB32
  | 0x16 => some .shrB32
  | 0x17 => some .sraB32
  | 0x18 => some .rolB32
  | 0x19 => some .rorB32
  | 0x1A => some .bfeB32
  | 0x1C => some .popcB32
  | 0x1D => some .clzB32
  | 0x1E => some .ctzB32
  | 0x1F => some .brevB32
  | 0x21 => some .movB32
  | 0x23 => some (fun w => .lit (.b32 w))
  | 0x24 => some .leaB32
  | 0x26 => some .cmpB32
  | 0x30 => some .pandB32
  | 0x31 => some .porB32
  | 0x32 => some .pxorB32
  | 0x33 => some .pnotB32
  | 0x40 => some .nopB32
  | 0x45 => some .retB32
  | 0x47 => some .syncwB32
  | 0x49 => some .yieldB32
  | 0x4A => some .haltB32
  | 0x55 => some .eretB32
  | 0x60 => some .faddB32
  | 0x61 => some .fsubB32
  | 0x62 => some .fmulB32
  | 0x64 => some .fminB32
  | 0x65 => some .fmaxB32
  | 0x66 => some .fabsB32
  | 0x67 => some .fnegB32
  | 0x68 => some .fcmpB32
  | 0x70 => some .frcpB32
  | 0x71 => some .frsqB32
  | 0x72 => some .fsqrtB32
  | 0x73 => some .fexp2B32
  | 0x74 => some .flog2B32
  | 0x75 => some .fsinB32
  | 0x76 => some .fcosB32
  | 0x77 => some .ftanhB32
  | 0xA0 => some .ldB32
  | 0xA1 => some .stB32
  | _ => none

/-- The X96 row of a major; `x0` is X[0] without KB, for PRIM.EMIT (R135, R136, R285). -/
def rowX96 (major minor : Nat) (x0 : Bool) : Except DecodeError (X96 → Instr) :=
  match major with
  | 0x01 => .ok .addX96
  | 0x02 => .ok .subX96
  | 0x03 => .ok .addcX96
  | 0x04 => .ok .subbX96
  | 0x05 => .ok .mulLoX96
  | 0x06 => .ok .mulHiX96
  | 0x07 => .ok .mulwX96
  | 0x08 => .ok .mad
  | 0x09 => .ok .divX96
  | 0x0A => .ok .remX96
  | 0x0B => .ok .negX96
  | 0x0C => .ok .absX96
  | 0x0D => .ok .minX96
  | 0x0E => .ok .maxX96
  | 0x10 => .ok .andX96
  | 0x11 => .ok .orX96
  | 0x12 => .ok .xorX96
  | 0x13 => .ok .notX96
  | 0x14 => .ok .andnX96
  | 0x15 => .ok .shlX96
  | 0x16 => .ok .shrX96
  | 0x17 => .ok .sraX96
  | 0x18 => .ok .rolX96
  | 0x19 => .ok .rorX96
  | 0x1A => .ok .bfeX96
  | 0x1B => .ok .bfi
  | 0x1C => .ok .popcX96
  | 0x1D => .ok .clzX96
  | 0x1E => .ok .ctzX96
  | 0x1F => .ok .brevX96
  | 0x20 => .ok .sel
  | 0x21 => .ok .movX96
  | 0x22 => .ok .movk
  | 0x23 => .ok (fun w => .lit (.x96 w))
  | 0x24 => .ok .leaX96
  | 0x25 => .ok .leam
  | 0x26 => .ok .cmpX96
  | 0x30 => .ok .pandX96
  | 0x31 => .ok .porX96
  | 0x32 => .ok .pxorX96
  | 0x33 => .ok .pnotX96
  | 0x40 => .ok .nopX96
  | 0x41 => .ok .bra
  | 0x42 => .ok .brx
  | 0x43 => .ok .jmp
  | 0x44 => .ok .call
  | 0x45 => .ok .retX96
  | 0x46 => .ok .loop
  | 0x47 => .ok .syncwX96
  | 0x48 => match minor with | 0 => .ok .reform | 1 => .ok .reformS | _ => .error (.unassignedMinor major minor)
  | 0x49 => .ok .yieldX96
  | 0x4A => match minor with | 0 => .ok .haltX96 | 1 => .ok .haltR | _ => .error (.unassignedMinor major minor)
  | 0x4B => .ok .wait
  | 0x50 => match minor with | 0 => .ok .send | 1 => .ok .sendT | _ => .error (.unassignedMinor major minor)
  | 0x51 => .ok .sendb
  | 0x52 => .ok .post
  | 0x53 => .ok .spawn
  | 0x54 => .ok .trap
  | 0x55 => .ok .eretX96
  | 0x56 => .ok .rdcr
  | 0x57 => .ok .wrcr
  | 0x58 => .ok .femark
  | 0x59 => .ok .fefill
  | 0x5A => .ok .trace
  | 0x5B => .ok .cntrFold
  | 0x60 => .ok .faddX96
  | 0x61 => .ok .fsubX96
  | 0x62 => .ok .fmulX96
  | 0x63 => .ok .ffma
  | 0x64 => .ok .fminX96
  | 0x65 => .ok .fmaxX96
  | 0x66 => .ok .fabsX96
  | 0x67 => .ok .fnegX96
  | 0x68 => .ok .fcmpX96
  | 0x69 => .ok .fclass
  | 0x6A => .ok .frnd
  | 0x70 => .ok .frcpX96
  | 0x71 => .ok .frsqX96
  | 0x72 => .ok .fsqrtX96
  | 0x73 => .ok .fexp2X96
  | 0x74 => .ok .flog2X96
  | 0x75 => .ok .fsinX96
  | 0x76 => .ok .fcosX96
  | 0x77 => .ok .ftanhX96
  | 0x80 => .ok .cvt
  | 0x81 => .ok .gcvt
  | 0x82 => .ok .gcmp
  | 0x83 => .ok .gclass
  | 0x88 => .ok .dot4
  | 0x89 => .ok .vadd
  | 0x8A => .ok .vsub
  | 0x8B => .ok .vmul
  | 0x8C => .ok .vmad
  | 0x8D => .ok .vmin
  | 0x8E => .ok .vmax
  | 0x90 => .ok .shfl
  | 0x91 => .ok .ballot
  | 0x92 => .ok .vote
  | 0x93 => .ok .rand
  | 0x98 => .ok .qxmax
  | 0x99 => .ok .qscale
  | 0x9A => .ok .qcvt
  | 0xA0 => .ok .ldX96
  | 0xA1 => .ok .stX96
  | 0xA2 => .ok .ldg
  | 0xA3 => .ok .sts
  | 0xA4 => .ok .pref
  | 0xA5 => .ok .atom
  | 0xA6 => .ok .fence
  | 0xA8 => .ok .barArr
  | 0xA9 => .ok .barWait
  | 0xAA => .ok .barSync
  | 0xAB => .ok .cvsign
  | 0xAC => .ok .cvwait
  | 0xAD => .ok .bndSet
  | 0xC0 => .ok .flumeCopy
  | 0xC1 => .ok .flumeTile
  | 0xC2 => .ok .flumeWait
  | 0xC3 => .ok .flumeCvt
  | 0xC4 => .ok .gset
  | 0xC5 => .ok .gclr
  | 0xC8 => .ok .tspawn
  | 0xC9 => .ok .trange
  | 0xCA => .ok .tdone
  | 0xCB => .ok .tabort
  | 0xCC => .ok .tstamp
  | 0xD0 => .ok .rayEnq
  | 0xD1 => .ok .rayBox4
  | 0xD2 => .ok .rayTri
  | 0xD3 => .ok .rayNext
  | 0xD4 => .ok .rayHit
  | 0xD5 => .ok .rayFin
  | 0xD8 => .ok (if x0 then .primEmitClose else .primEmit)
  | 0xD9 => .ok .visRead
  | 0xDA => .ok .texReq
  | 0xDB => .ok .blkDcmp
  | 0xE0 => .ok .tld
  | 0xE1 => .ok .tldt
  | 0xE2 => .ok .tst
  | 0xE3 => .ok .tzero
  | 0xE4 => .ok .tgather
  | 0xE5 => .ok .nzscan
  | 0xE6 => .ok .mma
  | 0xE7 => .ok .mmaS
  | 0xE8 => .ok .accMov
  | 0xE9 => .ok .accLd
  | 0xEA => .ok .accSt
  | 0xEB => .ok .accCvt
  | 0xEC => .ok .accZero
  | _ => .error (.unassignedMajor major)

/-- Whether a major is assigned (R135). -/
def majorAssigned (major : Nat) : Bool :=
  match rowX96 major 0 false with
  | .ok _ => true
  | .error _ => false

/-- The fields of a base word (R117). -/
def B32.ofWord (w : W32) (lit : Option W64) : B32 :=
  { b := w.extractLsb' 26 6, a := w.extractLsb' 20 6, d := w.extractLsb' 14 6, g := w.extractLsb' 11 3
    e := w.getLsbD 2, lit := lit }

/-- The fields of an extended instruction's three words (R118). -/
def X96.ofWords (w0 w1 w2 : W32) (lit : Option W64) : X96 :=
  { rsv := w2.extractLsb' 24 8, kb := w2.getLsbD 23, wu := w2.getLsbD 22, sl := w2.getLsbD 21, em := w2.getLsbD 20
    ft := w2.extractLsb' 16 4, y := w2.getLsbD 15, stall := w2.extractLsb' 11 4, hint := w2.extractLsb' 8 3
    x := w2.extractLsb' 0 8
    c := w1.extractLsb' 24 8, b := w1.extractLsb' 16 8, a := w1.extractLsb' 8 8, d := w1.extractLsb' 0 8
    ty := w0.extractLsb' 28 4, minor := w0.extractLsb' 20 8, gc := w0.getLsbD 19, g2n := w0.getLsbD 18
    g2 := w0.extractLsb' 15 3, g1n := w0.getLsbD 14, g1 := w0.extractLsb' 11 3, e := w0.getLsbD 2, lit := lit }

/-- The major opcode stands at the same place in every form (R116). -/
def majorOf (w0 : W32) : Nat := (w0.extractLsb' 3 8).toNat

/-- How many words the instruction with first word `w0` has (R116). -/
def wordCount (w0 : W32) : Nat :=
  match (w0.extractLsb' 0 2).toNat with
  | 0 => 1 | 1 => 3 | 2 => 3 | _ => 5

/-- A base word's instruction (R117, R135). -/
def decodeB32 (w0 : W32) (lit : Option W64) : Except DecodeError Instr :=
  match rowB32 (majorOf w0) with
  | some row => .ok (row (B32.ofWord w0 lit))
  | none => .error (if majorAssigned (majorOf w0) then .noB32Form (majorOf w0) else .unassignedMajor (majorOf w0))

/-- An extended instruction (R118, R135, R136). -/
def decodeX96 (w0 w1 w2 : W32) (lit : Option W64) : Except DecodeError Instr :=
  let w := X96.ofWords w0 w1 w2 lit
  match rowX96 (majorOf w0) w.minor.toNat (w.x.getLsbD 0 && !w.kb) with
  | .ok row => .ok (row w)
  | .error e => .error e

/-- The instruction whose words are `ws`; later words are ignored (R116). -/
def decodeWords (ws : List W32) : Except DecodeError Instr :=
  match ws with
  | [] => .error .tooShort
  | w0 :: r =>
    match (w0.extractLsb' 0 2).toNat, r with
    | 0, _ => decodeB32 w0 none
    | 1, w1 :: w2 :: _ => decodeX96 w0 w1 w2 none
    | 2, lo :: hi :: _ => decodeB32 w0 (some (W64.ofWords lo hi))
    | 3, w1 :: w2 :: lo :: hi :: _ => decodeX96 w0 w1 w2 (some (W64.ofWords lo hi))
    | _, _ => .error .tooShort

/-- A word from its four bytes, the lowest address first (R8, R116). -/
def wordOfBytes (b0 b1 b2 b3 : Byte) : W32 := b3 ++ b2 ++ b1 ++ b0

/-- The words of a byte sequence; a last part of fewer than four bytes is dropped. -/
def wordsOfBytes : List Byte → List W32
  | b0 :: b1 :: b2 :: b3 :: r => wordOfBytes b0 b1 b2 b3 :: wordsOfBytes r
  | _ => []

/-- Decode a sequence of bytes: the instruction and the bytes after it. -/
def decode (bs : List Byte) : Except DecodeError (Instr × List Byte) :=
  match wordsOfBytes bs with
  | [] => .error .tooShort
  | w0 :: r =>
    match decodeWords (w0 :: r) with
    | .ok i => .ok (i, bs.drop (4 * wordCount w0))
    | .error e => .error e

/-- Word 0 of a base word (R117). -/
def B32.word (major : Nat) (w : B32) : W32 :=
  w.b ++ w.a ++ w.d ++ w.g ++ BitVec.ofNat 8 major ++ BitVec.ofBool w.e ++
    (if w.lit.isSome then 0b10#2 else 0b00#2)

/-- Word 0 of an extended instruction (R118). -/
def X96.word0 (major : Nat) (w : X96) : W32 :=
  w.ty ++ w.minor ++ BitVec.ofBool w.gc ++ BitVec.ofBool w.g2n ++ w.g2 ++ BitVec.ofBool w.g1n ++ w.g1 ++
    BitVec.ofNat 8 major ++ BitVec.ofBool w.e ++ (if w.lit.isSome then 0b11#2 else 0b01#2)

/-- Word 1 of an extended instruction (R118). -/
def X96.word1 (w : X96) : W32 := w.c ++ w.b ++ w.a ++ w.d

/-- Word 2 of an extended instruction (R118). -/
def X96.word2 (w : X96) : W32 :=
  w.rsv ++ BitVec.ofBool w.kb ++ BitVec.ofBool w.wu ++ BitVec.ofBool w.sl ++ BitVec.ofBool w.em ++ w.ft ++
    BitVec.ofBool w.y ++ w.stall ++ w.hint ++ w.x

/-- The words of a literal, low word first (R119). -/
def litWords : Option W64 → List W32
  | none => []
  | some l => [l.lo, l.hi]

/-- The words of a base word's instruction. -/
def B32.words (op : Op) (w : B32) : List W32 := w.word op.major :: litWords w.lit

/-- The words of an extended instruction. -/
def X96.words (op : Op) (w : X96) : List W32 := w.word0 op.major :: w.word1 :: w.word2 :: litWords w.lit

/-- The words of LIT in either form. -/
def Form.words (op : Op) : Form → List W32
  | .b32 w => w.words op
  | .x96 w => w.words op

/-- Word 0 as the machine reports it in $einfo (R165); rebuilt from the fields, a base word's from those R120 kept. -/
def Ins.word0 (i : Ins) : W32 :=
  if i.b32 then
    B32.word i.op.major
      { b := (BitVec.ofBool i.w.kb) ++ (if i.w.kb then i.w.x.extractLsb' 0 5 else i.w.b.extractLsb' 0 5)
        a := i.w.a.extractLsb' 0 6, d := i.w.d.extractLsb' 0 6, g := i.w.g1, e := i.w.e, lit := i.w.lit }
  else i.w.word0 i.op.major

/-- The bytes of a word, lowest address first (R8). -/
def bytesOfWord (w : W32) : List Byte :=
  [w.extractLsb' 0 8, w.extractLsb' 8 8, w.extractLsb' 16 8, w.extractLsb' 24 8]

/-- The words of an instruction; the part's own steps have none. -/
def encodeWords : Instr → List W32
  | .addB32 w => w.words .add
  | .addX96 w => w.words .add
  | .subB32 w => w.words .sub
  | .subX96 w => w.words .sub
  | .addcB32 w => w.words .addc
  | .addcX96 w => w.words .addc
  | .subbB32 w => w.words .subb
  | .subbX96 w => w.words .subb
  | .mulLoB32 w => w.words .mulLo
  | .mulLoX96 w => w.words .mulLo
  | .mulHiB32 w => w.words .mulHi
  | .mulHiX96 w => w.words .mulHi
  | .mulwB32 w => w.words .mulw
  | .mulwX96 w => w.words .mulw
  | .mad w => w.words .mad
  | .divB32 w => w.words .div
  | .divX96 w => w.words .div
  | .remB32 w => w.words .rem
  | .remX96 w => w.words .rem
  | .negB32 w => w.words .neg
  | .negX96 w => w.words .neg
  | .absB32 w => w.words .abs
  | .absX96 w => w.words .abs
  | .minB32 w => w.words .min
  | .minX96 w => w.words .min
  | .maxB32 w => w.words .max
  | .maxX96 w => w.words .max
  | .andB32 w => w.words .and
  | .andX96 w => w.words .and
  | .orB32 w => w.words .or
  | .orX96 w => w.words .or
  | .xorB32 w => w.words .xor
  | .xorX96 w => w.words .xor
  | .notB32 w => w.words .not
  | .notX96 w => w.words .not
  | .andnB32 w => w.words .andn
  | .andnX96 w => w.words .andn
  | .shlB32 w => w.words .shl
  | .shlX96 w => w.words .shl
  | .shrB32 w => w.words .shr
  | .shrX96 w => w.words .shr
  | .sraB32 w => w.words .sra
  | .sraX96 w => w.words .sra
  | .rolB32 w => w.words .rol
  | .rolX96 w => w.words .rol
  | .rorB32 w => w.words .ror
  | .rorX96 w => w.words .ror
  | .bfeB32 w => w.words .bfe
  | .bfeX96 w => w.words .bfe
  | .bfi w => w.words .bfi
  | .popcB32 w => w.words .popc
  | .popcX96 w => w.words .popc
  | .clzB32 w => w.words .clz
  | .clzX96 w => w.words .clz
  | .ctzB32 w => w.words .ctz
  | .ctzX96 w => w.words .ctz
  | .brevB32 w => w.words .brev
  | .brevX96 w => w.words .brev
  | .sel w => w.words .sel
  | .movB32 w => w.words .mov
  | .movX96 w => w.words .mov
  | .movk w => w.words .movk
  | .lit w => w.words .lit
  | .leaB32 w => w.words .lea
  | .leaX96 w => w.words .lea
  | .leam w => w.words .leam
  | .cmpB32 w => w.words .cmp
  | .cmpX96 w => w.words .cmp
  | .pandB32 w => w.words .pand
  | .pandX96 w => w.words .pand
  | .porB32 w => w.words .por
  | .porX96 w => w.words .por
  | .pxorB32 w => w.words .pxor
  | .pxorX96 w => w.words .pxor
  | .pnotB32 w => w.words .pnot
  | .pnotX96 w => w.words .pnot
  | .nopB32 w => w.words .nop
  | .nopX96 w => w.words .nop
  | .bra w => w.words .bra
  | .brx w => w.words .brx
  | .jmp w => w.words .jmp
  | .call w => w.words .call
  | .retB32 w => w.words .ret
  | .retX96 w => w.words .ret
  | .loop w => w.words .loop
  | .syncwB32 w => w.words .syncw
  | .syncwX96 w => w.words .syncw
  | .reform w => w.words .reform
  | .reformS w => w.words .reformS
  | .yieldB32 w => w.words .yield
  | .yieldX96 w => w.words .yield
  | .haltB32 w => w.words .halt
  | .haltX96 w => w.words .halt
  | .haltR w => w.words .haltR
  | .wait w => w.words .wait
  | .send w => w.words .send
  | .sendT w => w.words .sendT
  | .sendb w => w.words .sendb
  | .post w => w.words .post
  | .spawn w => w.words .spawn
  | .trap w => w.words .trap
  | .eretB32 w => w.words .eret
  | .eretX96 w => w.words .eret
  | .rdcr w => w.words .rdcr
  | .wrcr w => w.words .wrcr
  | .femark w => w.words .femark
  | .fefill w => w.words .fefill
  | .trace w => w.words .trace
  | .cntrFold w => w.words .cntrFold
  | .faddB32 w => w.words .fadd
  | .faddX96 w => w.words .fadd
  | .fsubB32 w => w.words .fsub
  | .fsubX96 w => w.words .fsub
  | .fmulB32 w => w.words .fmul
  | .fmulX96 w => w.words .fmul
  | .ffma w => w.words .ffma
  | .fminB32 w => w.words .fmin
  | .fminX96 w => w.words .fmin
  | .fmaxB32 w => w.words .fmax
  | .fmaxX96 w => w.words .fmax
  | .fabsB32 w => w.words .fabs
  | .fabsX96 w => w.words .fabs
  | .fnegB32 w => w.words .fneg
  | .fnegX96 w => w.words .fneg
  | .fcmpB32 w => w.words .fcmp
  | .fcmpX96 w => w.words .fcmp
  | .fclass w => w.words .fclass
  | .frnd w => w.words .frnd
  | .frcpB32 w => w.words .frcp
  | .frcpX96 w => w.words .frcp
  | .frsqB32 w => w.words .frsq
  | .frsqX96 w => w.words .frsq
  | .fsqrtB32 w => w.words .fsqrt
  | .fsqrtX96 w => w.words .fsqrt
  | .fexp2B32 w => w.words .fexp2
  | .fexp2X96 w => w.words .fexp2
  | .flog2B32 w => w.words .flog2
  | .flog2X96 w => w.words .flog2
  | .fsinB32 w => w.words .fsin
  | .fsinX96 w => w.words .fsin
  | .fcosB32 w => w.words .fcos
  | .fcosX96 w => w.words .fcos
  | .ftanhB32 w => w.words .ftanh
  | .ftanhX96 w => w.words .ftanh
  | .cvt w => w.words .cvt
  | .gcvt w => w.words .gcvt
  | .gcmp w => w.words .gcmp
  | .gclass w => w.words .gclass
  | .dot4 w => w.words .dot4
  | .vadd w => w.words .vadd
  | .vsub w => w.words .vsub
  | .vmul w => w.words .vmul
  | .vmad w => w.words .vmad
  | .vmin w => w.words .vmin
  | .vmax w => w.words .vmax
  | .shfl w => w.words .shfl
  | .ballot w => w.words .ballot
  | .vote w => w.words .vote
  | .rand w => w.words .rand
  | .qxmax w => w.words .qxmax
  | .qscale w => w.words .qscale
  | .qcvt w => w.words .qcvt
  | .ldB32 w => w.words .ld
  | .ldX96 w => w.words .ld
  | .stB32 w => w.words .st
  | .stX96 w => w.words .st
  | .ldg w => w.words .ldg
  | .sts w => w.words .sts
  | .pref w => w.words .pref
  | .atom w => w.words .atom
  | .fence w => w.words .fence
  | .barArr w => w.words .barArr
  | .barWait w => w.words .barWait
  | .barSync w => w.words .barSync
  | .cvsign w => w.words .cvsign
  | .cvwait w => w.words .cvwait
  | .bndSet w => w.words .bndSet
  | .flumeCopy w => w.words .flumeCopy
  | .flumeTile w => w.words .flumeTile
  | .flumeWait w => w.words .flumeWait
  | .flumeCvt w => w.words .flumeCvt
  | .gset w => w.words .gset
  | .gclr w => w.words .gclr
  | .tspawn w => w.words .tspawn
  | .trange w => w.words .trange
  | .tdone w => w.words .tdone
  | .tabort w => w.words .tabort
  | .tstamp w => w.words .tstamp
  | .rayEnq w => w.words .rayEnq
  | .rayBox4 w => w.words .rayBox4
  | .rayTri w => w.words .rayTri
  | .rayNext w => w.words .rayNext
  | .rayHit w => w.words .rayHit
  | .rayFin w => w.words .rayFin
  | .primEmit w => w.words .primEmit
  | .primEmitClose w => w.words .primEmitClose
  | .visRead w => w.words .visRead
  | .texReq w => w.words .texReq
  | .blkDcmp w => w.words .blkDcmp
  | .tld w => w.words .tld
  | .tldt w => w.words .tldt
  | .tst w => w.words .tst
  | .tzero w => w.words .tzero
  | .tgather w => w.words .tgather
  | .nzscan w => w.words .nzscan
  | .mma w => w.words .mma
  | .mmaS w => w.words .mmaS
  | .accMov w => w.words .accMov
  | .accLd w => w.words .accLd
  | .accSt w => w.words .accSt
  | .accCvt w => w.words .accCvt
  | .accZero w => w.words .accZero
  | _ => []

/-- The bytes of an instruction in the order memory holds them (R8, R116). -/
def encode (i : Instr) : List Byte := (encodeWords i).flatMap bytesOfWord

/-- The instruction the decoder reads from bits numbered as the opcode table numbers them: word k is bits
[32k + 31 : 32k]; every bit above `nbits` is zero. -/
def decodeTableWord (nbits w : Nat) : Option Instr :=
  let v := w % 2 ^ nbits
  let bytes := (List.range 20).map fun k => BitVec.ofNat 8 (v / 256 ^ k)
  match decode bytes with
  | .ok (i, _) => some i
  | .error _ => none

end Sys2Proof
end

