-- ==== Sys2Proof/Config.lean ====
section
/-!
DEFINITION. What the spec leaves to the implementation, as constants without a body: nothing in Lean can evaluate
one, so no statement rests on a value of it.
-/

namespace Sys2Proof.Config

/-- The hash of a pocket's key (launch id, workgroup, PC) to a pocket index (R20). Log 12. -/
opaque pocketHash : Nat → Nat → Nat → Nat

/-- The bytes one record takes in a stand's spill area (R25): 0 a pocket-list record, 1 a queued wave. Log 13. -/
opaque spillBytes : Nat → Nat

/-- The home slice of a line (R69). Log 14. -/
opaque homeSlice : Nat → Nat

/-- Words of an SPDM reply (R379): the reply's own number and the word's index. Log 15. -/
opaque spdmWord : Nat → Nat → W64

/-- Words of a measurement block (R379): what it measures, and the word's index. Log 15. -/
opaque digest : List Nat → Nat → W64

/-- An element that another package contributes to a collective (R376): the run of the collective, the package index and
the element's index. Log 45. -/
opaque memberElem : Nat → Nat → Nat → Nat

/-- A filtered channel one of whose texels is a NaN or infinite (R293 states no result): request and channel. Log 22. -/
opaque texelBlend : Nat → Nat → W32

/-- What a push leaves for a lane that its guard leaves out (R309 states no value): the push's own number. Log 134. -/
opaque guardedPush : Nat → W32

/-- What another package's home walker answers (R374): the walk, the accessor's partition and the window page. Log 137. -/
opaque remoteWalk : Nat → Nat → Nat → Nat

/-- The error class that hits will find in a copy an L1 takes (R380): the stand, the line and GTC as it is filled. Log 138. -/
opaque l1Class : Nat → Nat → Nat → Nat

/-- The lines of a fenced L2 home slice that could not be written back (R385): the slice, and GTC as it is fenced. Log 149. -/
opaque unsavedLines : Nat → Nat → List Nat

/-- The carry a thread finds at a run's start, which keeps none from before (R133): the run and the thread. Log 105. -/
opaque runCarry : Nat → Nat → Bool

/-- What a counter of clock cycles shows (R395: timing, which this model leaves out): GTC, engine and counter. Log 95. -/
opaque cycleCount : Nat → Nat → Nat → W32

end Sys2Proof.Config
end

