-- ==== Sys2Proof/Machine/Table.lean ====
section
/-!
DEFINITION. Plain-data containers: a table of numbered entries, a set of numbers, and byte memory, each a list in
rising order of its key, so that equal contents are equal lists.
-/

namespace Sys2Proof.Machine

/-- Entries by number, in rising order; a number that is not listed has no entry. -/
abbrev Table (α : Type) := List (Nat × α)

namespace Table
variable {α : Type}

/-- The entry of a number. -/
def get? : Table α → Nat → Option α
  | [], _ => none
  | (k, v) :: t, n => if k = n then some v else get? t n

/-- The entry of a number, or a default. -/
def getD (t : Table α) (n : Nat) (d : α) : α := (t.get? n).getD d

/-- Give a number an entry, in its place in the order. -/
def put : Table α → Nat → α → Table α
  | [], n, v => [(n, v)]
  | (k, w) :: t, n, v =>
    if k = n then (n, v) :: t else if n < k then (n, v) :: (k, w) :: t else (k, w) :: put t n v

/-- Take a number's entry away. -/
def del : Table α → Nat → Table α
  | [], _ => []
  | (k, w) :: t, n => if k = n then del t n else (k, w) :: del t n

/-- Set an entry whose default is `d`; writing the default takes the entry away. -/
def setD [DecidableEq α] (t : Table α) (n : Nat) (d v : α) : Table α := if v = d then t.del n else t.put n v

/-- Change an entry that exists. -/
def mod (t : Table α) (n : Nat) (f : α → α) : Table α :=
  match t.get? n with
  | some v => t.put n (f v)
  | none => t

/-- The numbers that have an entry. -/
def keys (t : Table α) : List Nat := t.map (·.1)

/-- The entries rise strictly in their numbers. -/
def sorted (t : Table α) : Bool :=
  match t with
  | [] => true
  | [_] => true
  | a :: b :: r => decide (a.1 < b.1) && sorted (b :: r)

/-- The first entry, in rising order, that a test accepts. -/
def find? (t : Table α) (q : Nat → α → Bool) : Option (Nat × α) := List.find? (fun e => q e.1 e.2) t

/-- The entries a test accepts. -/
def filter (t : Table α) (q : Nat → α → Bool) : Table α := List.filter (fun e => q e.1 e.2) t

end Table

/-- A set of numbers in rising order. -/
abbrev NatSet := List Nat

namespace NatSet

/-- Add a number. -/
def add : NatSet → Nat → NatSet
  | [], n => [n]
  | k :: t, n => if k = n then k :: t else if n < k then n :: k :: t else k :: add t n

/-- Take a number away. -/
def remove (t : NatSet) (n : Nat) : NatSet := t.filter (· != n)

/-- Add or take away. -/
def set (t : NatSet) (n : Nat) (b : Bool) : NatSet := if b then t.add n else t.remove n

/-- Membership. -/
def has (t : NatSet) (n : Nat) : Bool := t.contains n

end NatSet

/-- Byte memory: cells at strictly rising addresses, none of them zero, which is what an unlisted address reads as
(log 5, DESIGN CHOICE for memory whose contents at power-on the spec does not give). -/
abbrev Memory := List Host.Cell

namespace Memory

/-- What an address that is not listed reads as (log 5, DESIGN CHOICE). -/
def blank : Byte := 0

/-- One byte. -/
def readByte (m : Memory) (a : Nat) : Byte := Table.getD m a blank

/-- Write one byte, keeping the canonical form. -/
def writeByte (m : Memory) (a : Nat) (v : Byte) : Memory := Table.setD m a blank v

/-- n bytes from address a, lowest first. -/
def read (m : Memory) (a n : Nat) : List Byte := (List.range n).map fun k => m.readByte (a + k)

/-- Write bytes from address a up. -/
def write : Memory → Nat → List Byte → Memory
  | m, _, [] => m
  | m, a, v :: r => write (m.writeByte a v) (a + 1) r

/-- The canonical form: addresses strictly rising and no listed blank. -/
def wf (m : Memory) : Bool := Table.sorted m && m.all (fun c => c.2 != blank)

end Memory

/-- The numbers of a list, each at its first place only. -/
def distinct : List Nat → List Nat
  | [] => []
  | a :: l => a :: (distinct l).filter (· != a)

/-- Insert by key, after entries of the same key. -/
def insertBy {α : Type} (key : α → Nat) (x : α) : List α → List α
  | [] => [x]
  | y :: t => if key x < key y then x :: y :: t else y :: insertBy key x t

/-- Sort by key, keeping the order of equal keys. -/
def sortBy {α : Type} (key : α → Nat) (l : List α) : List α := l.foldl (fun acc x => insertBy key x acc) []

/-- The number whose bytes, lowest first, are `bs` (R8). -/
def natOfBytes : List Byte → Nat
  | [] => 0
  | b :: r => b.toNat + 256 * natOfBytes r

/-- The n low bytes of a number, lowest first (R8). -/
def bytesOfNat : Nat → Nat → List Byte
  | 0, _ => []
  | n + 1, v => BitVec.ofNat 8 v :: bytesOfNat n (v / 256)

/-- Bits [hi:lo] of a number. -/
def bits (v hi lo : Nat) : Nat := v / 2 ^ lo % 2 ^ (hi + 1 - lo)

/-- Bit n of a number. -/
def bit (v n : Nat) : Bool := v.testBit n

/-- The low n bits of a number read as a signed number. -/
def signExt (n v : Nat) : Int :=
  let w := v % 2 ^ n
  if 2 * w < 2 ^ n then w else (w : Int) - 2 ^ n

/-- A signed number's low n bits. -/
def wrapTo (n : Nat) (v : Int) : Nat := (v % (2 ^ n : Nat)).toNat

end Sys2Proof.Machine
end

