-- ==== Sys2Proof/Machine/Topology.lean ====
section
/-!
DEFINITION. The mesh and its units (00 R2, R3) and the fixed windows onto local memory (02 R56-R61). A scalar core
is named by its core number; a wave engine by 2 x stand + e; an engine of either kind by one key, scalar cores first.
-/

namespace Sys2Proof.Machine

/-- Scalar cores of the package (R3). -/
def coreCount : Nat := 262144

/-- A core's x coordinate (R2). -/
def coreX (core : Nat) : Nat := core % 512
/-- A core's y coordinate (R2). -/
def coreY (core : Nat) : Nat := core / 512
/-- The core at (x, y) (R2). -/
def coreAt (x y : Nat) : Nat := y * 512 + x
/-- The die of a core (R2). -/
def coreDie (core : Nat) : Nat := (if 256 ≤ coreY core then 2 else 0) + (if 256 ≤ coreX core then 1 else 0)
/-- The stand of a core (R2). -/
def coreStand (core : Nat) : Nat :=
  coreDie core * 512 + coreY core % 256 / 8 * 16 + coreX core % 256 / 16
/-- The cluster of a core within its stand (R2). -/
def clusterInStand (core : Nat) : Nat := coreY core / 4 % 2 * 4 + coreX core / 4 % 4
/-- The cluster number of a core (R2). -/
def coreCluster (core : Nat) : Nat := coreStand core * 8 + clusterInStand core
/-- A core's number within its cluster (R2). -/
def coreInCluster (core : Nat) : Nat := coreY core % 4 * 4 + coreX core % 4
/-- The die of a stand (R2). -/
def standDie (stand : Nat) : Nat := stand / 512
/-- The lowest x of a stand's cores (R2). -/
def standX (stand : Nat) : Nat := standDie stand % 2 * 256 + stand % 512 % 16 * 16
/-- The lowest y of a stand's cores (R2). -/
def standY (stand : Nat) : Nat := standDie stand / 2 * 256 + stand % 512 / 16 * 8
/-- The core of a stand by its core index (R43). -/
def coreOfIndex (stand idx : Nat) : Nat := coreAt (standX stand + idx % 16) (standY stand + idx / 16)
/-- A core's index within its stand (R43). -/
def indexOfCore (core : Nat) : Nat := coreY core % 8 * 16 + coreX core % 16
/-- The core of a cluster by its core-within-cluster number (R2). -/
def coreOfCluster (cluster n : Nat) : Nat :=
  let stand := cluster / 8
  let k := cluster % 8
  coreAt (standX stand + k % 4 * 4 + n % 4) (standY stand + k / 4 * 4 + n / 4)
/-- The buddy die (R2: 0 and 1, 2 and 3). -/
def buddyDie (die : Nat) : Nat := die / 2 * 2 + (1 - die % 2)

/-- The key of a wave engine among all engines. -/
def waveKey (e : Nat) : Nat := coreCount + e
/-- Whether an engine key names a wave engine. -/
def isWaveKey (k : Nat) : Bool := decide (coreCount ≤ k) && decide (k < 0x100000)
/-- The wave engine an engine key names. -/
def waveOf (k : Nat) : Nat := k - coreCount
/-- Whether a key names a skidder (R309): those of scalar contexts stand from 2^20 up, those of wave slots from 2^21. -/
def isSkidKey (k : Nat) : Bool := decide (0x100000 ≤ k)
/-- The scalar core or wave engine an issuing unit belongs to: a skidder's is that of its context or slot (R309). -/
def unitEngine (k : Nat) : Nat :=
  if k < 0x100000 then k else if k < 0x200000 then (k - 0x100000) / 4 else waveKey ((k - 0x200000) / 32)
/-- The context or slot an issuing unit's entry names, given the group of its run. -/
def unitGroup (k grp : Nat) : Nat := if k < 0x100000 then grp else if k < 0x200000 then k % 4 else k % 32
/-- The stand of an engine. -/
def engineStand (k : Nat) : Nat := if isWaveKey k then waveOf k / 2 else coreStand k
/-- The key of a wave slot. -/
def slotKey (e slot : Nat) : Nat := e * 32 + slot
/-- The key of a scalar context. -/
def ctxKey (core ctx : Nat) : Nat := core * 4 + ctx
/-- The flume's cluster of a wave slot (R213). -/
def slotCluster (e slot : Nat) : Nat := e / 2 * 8 + 4 * (e % 2) + slot % 4

/-- Bytes of one core's local memory (R57). -/
def localBytes : Nat := 0x8000
/-- The address of a local byte in `Mem.loc`. -/
def locKey (core off : Nat) : Nat := core * localBytes + off
/-- The core whose local memory a `Mem.loc` address lies in. -/
def locCore (k : Nat) : Nat := k / localBytes
/-- The offset of a `Mem.loc` address in its local memory. -/
def locOff (k : Nat) : Nat := k % localBytes

/-- The address of a local byte in the local-store window (R57, R145). -/
def meshAddress (x y o : Nat) : Nat := 0x00F0000000000000 + y * 2 ^ 24 + x * 2 ^ 15 + o

/-- The stand scratchpad byte at window offset `o` (R61). -/
def scratchKey (stand o : Nat) : Nat :=
  locKey (coreOfCluster (stand * 8 + o / 2 ^ 19 % 8) (o / 2 ^ 15 % 16)) (o % 2 ^ 15)

/-- What a 64-bit virtual address names (R56). -/
inductive Region where
  | translated
  /-- A byte of a local memory, as a `Mem.loc` address. -/
  | loc (key : Nat)
  /-- An offset in the stand scratchpad window. -/
  | scratch (off : Nat)
  /-- A fabric window address. -/
  | fabric
  | nonCanonical
deriving DecidableEq, Repr

/-- The map of R56. -/
def regionOf (va : Nat) : Region :=
  if va < 0x00F0000000000000 then .translated
  else if va < 0x00F0000200000000 then .loc (locKey (coreAt (va / 2 ^ 15 % 512) (va / 2 ^ 24 % 512)) (va % 2 ^ 15))
  else if va < 0x00F0000200400000 then .scratch (va - 0x00F0000200000000)
  else if va < 0x0100000000000000 then .fabric
  else if va < 0xFF00000000000000 then .nonCanonical
  else .translated

/-- The narrowest scope code whose instance holds two stands (R38, R45, R75). -/
def scopeOfStands (a b : Nat) : Nat := if a = b then 3 else if standDie a = standDie b then 4 else 5

end Sys2Proof.Machine
end

