-- ==== Sys2Proof/Machine/State.lean ====
section
/-!
DEFINITION. The state of the Yallos: threads and their homes, engines, stands, clusters, cores, memory and its homes,
launches, tasks, rays, render passes, queues, translation, partitions and the package, and the machine right after
power-on. Plain data throughout; a table's unlisted entry reads as its stated default.
-/

namespace Sys2Proof.Machine

/-- Why the machine stops with a fault. -/
inductive Fault where
  /-- Raised by no meaning: every trap and every translation fault of the spec is a next state (R46-R49). Safe. -/
  | stuck
deriving DecidableEq, Repr

/-- Why a step is refused. -/
inductive Refusal where
  /-- Raised by an arm of `exec` whose instruction has no meaning yet. Safe: nothing follows from a refusal. -/
  | notModelled (mnemonic : String)
  /-- Raised by every instruction's meaning when the engine that is to issue has no run in progress: nothing is being
  issued, so the instruction does not execute (R15). Safe. -/
  | nothingIssuing
  /-- Raised by the part's own steps when the step is not due in this state: its condition in the spec does not hold,
  or it names something that does not exist. The hardware takes no such step. Safe. -/
  | notDue (what : String)
deriving DecidableEq, Repr

/-! ### Registers and threads -/

/-- A 32-bit register with its full and poison bits (R14, R50, R125). -/
structure Reg where
  val : W32 := 0
  full : Bool := true
  poison : Bool := false
deriving DecidableEq, Repr

/-- A predicate with its full and poison bits (R14). -/
structure PReg where
  val : Bool := false
  full : Bool := true
  poison : Bool := false
deriving DecidableEq, Repr

/-- A slot of an operand queue (R127, R309): filled or still awaited. -/
structure QEntry where
  val : W32 := 0
  filled : Bool := true
  poison : Bool := false
  /-- The load that will fill the entry, while it is awaited. -/
  op : Nat := 0
deriving DecidableEq, Repr

/-- Where a thread is housed (R14, R19, R20, R21, R27, R308). -/
inductive Home where
  | scalar (core ctx : Nat)
  | wave (engine slot lane : Nat)
  /-- Filed in a pocket of a stand. -/
  | pocket (stand idx : Nat)
  /-- On a stand's pocket list. -/
  | plist (stand : Nat)
  /-- Waiting for a scalar context after REFORM.S. -/
  | waitCtx (stand : Nat)
  /-- In a wave of the stand's wave queue. -/
  | queued (stand : Nat)
  /-- The access slice of a sliced thread, run by its skidder. -/
  | skidder (main : Nat)
deriving DecidableEq, Repr

/-- Whether a thread can run, and what it waits for. -/
inductive Status where
  | ready
  /-- At SYNCW (R153). -/
  | syncw
  /-- At BAR.WAIT or BAR.SYNC until barrier `b`'s phase passes `phase` (R210). -/
  | barrier (b phase : Nat)
  /-- At CVWAIT until register `cv`'s round passes `round` (R211). -/
  | converge (cv round : Nat)
  /-- At WAIT until GTC reaches the deadline (R155). -/
  | until (gtc : Nat)
  /-- Parked on fault record `rec` (R49). -/
  | parked (rec : Nat)
  /-- At HALT, until its writes are complete (R156). -/
  | halting
  /-- Stopped for a pre-emption (R338) or by its launch's fatal trap (R52). -/
  | stopped
deriving DecidableEq, Repr

/-- How a thread came to run (R23, R36, R53, R254, R266, R290). -/
inductive Role where
  | placed
  /-- Started by a message for handler `index`; `ordered` as its entry says. -/
  | handler (index : Nat) (ordered : Bool)
  /-- A posted request; the reply goes to thread `poster`. -/
  | request (poster : Nat)
  | spawned
  /-- Attempt at task `task`. -/
  | task (task : Nat)
  /-- A shading thread: pixel (x, y) of tile `tile`. -/
  | shading (tile x y : Nat)
deriving DecidableEq, Repr

/-- A cached translation (R350, R354, R356). `base` and `size` in bytes. -/
structure Trans where
  part : Nat
  base : Nat
  size : Nat
  host : Bool
  /-- Physical base, or the base of the host's own address of a host page. -/
  frame : Nat
  /-- PASID of a host page (R356). -/
  pasid : Nat := 0
  lease : Nat
  key : Nat
  r : Bool
  w : Bool
  x : Bool
  /-- Migration in progress (R367): writes are held. -/
  m : Bool
deriving DecidableEq, Repr

/-- A range a task declares (R265). -/
structure TRange where
  base : Nat
  len : Nat
  r : Bool
  w : Bool
deriving DecidableEq, Repr

/-- A traversal thread's bound ray and candidate (R255, R257, R258). `batch` is the batch slot. -/
structure RayBind where
  stand : Nat
  batch : Nat
  /-- Candidate of the last RAY.TRI that hit: t, the primitive identifier, and u and v in FP16. -/
  cand : Option (W32 × W32 × W32) := none
deriving DecidableEq, Repr

/-- Progress of a held instruction of this thread (R158, R250, R285). -/
inductive Held where
  | none
  /-- The place asked for at the target has been granted; the instruction may complete. -/
  | granted
  /-- A request for a place is outstanding; SEND.T gives up at `limit`. -/
  | asking (msg : Nat) (limit : Option Nat)
  /-- SEND.T gave up. -/
  | gaveUp
  /-- A pre-emption took the SEND.T out of its run; once it starts again it gives up at this time (R163). -/
  | resumed (limit : Nat)
  /-- A record read is outstanding in operation `op`. -/
  | reading (op : Nat)
  /-- The record has been read. -/
  | record (bytes : List Byte) (poison : Bool)
  /-- Waits for another unit's command `key`. -/
  | unit (key : Nat)
  /-- A TSPAWN issued at `time` with timestamp `stamp` that its landing has not accepted (R266, R276). -/
  | spawning (stamp time : Nat)
  /-- A primitive whose copies for these tiles wait for room; `late` once a copy has been discarded, `order` its arrival (R285,
  R286). -/
  | placing (bytes : List Byte) (tiles : List Nat) (late : Bool) (order : Nat)
deriving DecidableEq, Repr

/-- Where a load's or atomic's result goes. -/
inductive Dest where
  | none
  /-- General registers: first, element width in bits, sign extension. -/
  | regs (d width : Nat) (signed : Bool)
  /-- A typed element: first register and format (R201). -/
  | typed (d fmt : Nat)
  /-- Row of a tile register of a slot; memory format and shape (R227). -/
  | tileRow (slot tile row : Nat)
  /-- Row of an accumulator of a slot (R236). -/
  | accRow (slot acc row : Nat)
  /-- A record read for the thread (R250, R285). -/
  | record
deriving DecidableEq, Repr

/-- A thread (R14). -/
structure Thread where
  part : Nat
  /-- Key of its launch in `State.launches`. -/
  launch : Nat
  wg : Nat
  /-- Level coordinates 0-7 (R64). -/
  coords : List Nat := []
  home : Home
  pc : W64
  g : Table Reg := []
  p : Table PReg := []
  /-- k0-k63 of a scalar thread; a wave's stand in its slot. -/
  k : Table Reg := []
  mb : Table Reg := []
  oq : Table (List QEntry) := []
  carry : Bool := false
  fex : W32 := 0
  fmode : W32 := 1
  rng : W64 := 0
  ecause : W32 := 0
  epc : W64 := 0
  einfo : W32 := 0
  /-- $tstate[0] (R48). -/
  inTrap : Bool := false
  gtch : W32 := 0
  /-- $tstate[2] (R127). -/
  sliced : Bool := false
  /-- Lost stores not yet reported (R208). -/
  lost : Nat := 0
  /-- Stamp clock of R89. -/
  sc : Nat := 0
  /-- Last-page register (R354). -/
  lastPage : Option Trans := none
  status : Status := .ready
  role : Role := .placed
  /-- Barrier to the phase last arrived at (R210). -/
  arrived : Table Nat := []
  /-- Convergence register to the round last signed: 0-15 of the thread's slot, 16-31 of its workgroup (R211). -/
  signed : Table Nat := []
  staged : List TRange := []
  ray : Option RayBind := none
  /-- Has emitted a close (R285). -/
  closed : Bool := false
  held : Held := .none
  /-- QXMAX executed since the start (R195). -/
  qx : Nat := 0
  /-- Guard slots resolved so far, of a scalar context's group (R221). -/
  gs : Table Bool := []
  /-- Flume status not yet reported (R218). -/
  flumeStatus : W32 := 0
  /-- Flags gathered by flume commands that a FLUME.WAIT will report (R216). -/
  flumeFlags : W32 := 0
  /-- Trap 0x04 due at the next run boundary, with its $einfo (R234). -/
  pendingTrap : Option W32 := none
  /-- The PC of the execute slice that ERET resumes after a trap of the access slice (R311). -/
  resume : Option W64 := none
  /-- Time of filing in arithmetic cycles (R21). -/
  filed : Nat := 0
  /-- HALT.R: the handler index its context will be reserved for (R40). -/
  successor : Option Nat := none
  /-- Filed without having run: its generator is seeded when its wave starts (R23, R192). -/
  unstarted : Bool := false
  /-- General registers that a load parked at translation leaves empty until its replay (R204). -/
  awaited : List Nat := []
  /-- The row that a load of it keeps pending while its fetch waits or has faulted (R240). -/
  rowHeld : Option Dest := none
  /-- Stands the thread has left, each with the number of the first operation issued after: what it has read there stands in
  that stand's copies until the writes below that number are performed (R78, R83). -/
  moved : List (Nat × Nat) := []
  /-- The start of the thread's execute region could not be read yet (R308; log 50). -/
  seeks : Bool := false
  /-- Waits at a pop of an empty queue: it counts as parked while its access slice is (R311). -/
  popWait : Bool := false
  /-- Where its access slice stopped (R391). -/
  slicePc : W64 := 0
deriving DecidableEq, Repr

/-- One group's run in progress on an engine (R15, R131, R133). -/
structure Run where
  /-- Context or slot number. -/
  group : Nat
  /-- Threads of the run in increasing lane order. -/
  members : List Nat
  pc : W64
  /-- Instructions issued so far. -/
  count : Nat := 0
  /-- The instruction before was ADD, SUB, ADDC or SUBB (R133). -/
  addFamily : Bool := false
  /-- Y has been seen (R124). -/
  yield : Bool := false
  /-- The thread whose operands a held instruction reads once for all its threads (R128, R202). -/
  lead : Option Nat := none
  /-- The run's own number. -/
  number : Nat := 0
deriving DecidableEq, Repr

/-- An engine, scalar core or wave engine (R4, R28, R167). -/
structure Engine where
  /-- Feature bits a fence has cleared (R28). -/
  fenced : W32 := 0
  /-- $ctr0-$ctr15. -/
  ctr : Table W32 := []
  /-- Trace ring, latest entry first: the words of each entry (R394). -/
  ring : List (List W32) := []
  /-- Entries written so far. -/
  written : Nat := 0
  /-- A swarm cycle, and how many of the ring's latest entries are arrivals of it (R394). -/
  arrivals : Nat × Nat := (0, 0)
  run : Option Run := none
  /-- Engine runs since each group last issued, or became ready, with the threads it then had (R17). -/
  wait : Table (Nat × List Nat) := []
  /-- Group last served at each priority (R17; log 11). -/
  lastServed : Table Nat := []
  /-- Groups marked yielding (R124). -/
  yielded : NatSet := []
deriving DecidableEq, Repr

/-- A message (R31-R37, R157-R162). -/
structure Msg where
  /-- Target core; target package, none for the sender's own. -/
  core : Nat
  pkg : Option Nat := none
  index : Nat
  payload : List W32 := []
  /-- Barge bytes with the poison of each word. -/
  barge : Option (List Byte × List Bool) := none
  /-- PC of a SPAWN; none for a handler message. -/
  spawn : Option W64 := none
  part : Nat
  launch : Nat
  wg : Nat
  /-- Source core and source package. -/
  srcCore : Nat
  srcPkg : Nat := 0
  /-- Sending thread and its order among the sender's messages. -/
  sender : Nat := 0
  seq : Nat := 0
  /-- Has arrived; before that it only holds its place (R37). -/
  arrived : Bool := false
  /-- Slot of the batch whose ray the started thread is bound to, on the target core's stand (R254). -/
  slot : Option Nat := none
  /-- A reply the texture unit will fill; until then it only holds its place (R293). -/
  unfilled : Bool := false
deriving DecidableEq, Repr

/-- A scalar core's own state (R36, R40, R63, R68). -/
structure Core where
  bfmt : W32 := 0
  /-- Launch that owns constant words 0-239. -/
  owner : Option Nat := none
  /-- Messages granted a place, the oldest first; those arrived start in this order. -/
  inbound : List Msg := []
  /-- Contexts reserved by HALT.R: context to (launch, workgroup, handler index). -/
  reserved : Table (Nat × Nat × Nat) := []
deriving DecidableEq, Repr

/-- A tile register or accumulator (R223, R224): words per row, pending and poison per row. -/
structure Tile where
  /-- Bytes of the rows of a tile register (64 each), or of an accumulator (128 each); unlisted bytes are zero. -/
  data : Memory := []
  pending : NatSet := []
  poison : NatSet := []
  live : Bool := false
deriving DecidableEq, Repr

/-- A matrix-queue entry (R233). -/
structure MmaEntry where
  key : Nat
  int : Bool
  scaled : Bool
  acc : Nat
  a : Nat
  b : Nat
  sa : Nat := 0
  sb : Nat := 0
  /-- Configurations read at issue. -/
  cfgA : W32
  cfgB : W32
  cfgSa : W32 := 0
  cfgSb : W32 := 0
  /-- Awaited convergence register and round; none when already complete. -/
  wait : Option (Nat × Nat) := none
  /-- Threads active at issue. -/
  threads : List Nat := []
  /-- When the entry became ready, in the order of such moments (R233). -/
  readyAt : Option Nat := none
deriving DecidableEq, Repr

/-- A wave slot (R22, R43, R65, R71, R211, R221, R224, R233). -/
structure Slot where
  part : Nat
  launch : Nat
  wg : Nat
  k : Table Reg := []
  /-- Stored constant words 0-239 (R65). -/
  consts : Table Reg := []
  /-- $bnd. -/
  genCode : Nat := 0
  tiles : Nat := 0
  /-- Grant in bytes. -/
  grant : Nat := 0
  quarter : Option Nat := none
  m : Table Tile := []
  acc : Table Tile := []
  tcfg : Table W32 := []
  cvset : Table W32 := []
  cvsig : Table W32 := []
  cvround : Table Nat := []
  mq : List MmaEntry := []
  /-- Keys of matrix entries performed. -/
  mqDone : List Nat := []
  gs : Table Bool := []
  flumeStatus : W32 := 0
  flumeFlags : W32 := 0
  /-- Lanes present (R121). -/
  present : NatSet := []
  /-- Runs each path has waited, by PC (R16), and the path last run. -/
  pathWait : Table Nat := []
  lastPath : Option W64 := none
deriving DecidableEq, Repr

/-! ### The gatherer and the stand -/

/-- What a pocket, the pocket list or a queued wave holds: a filed thread, by thread number. A request and a gathered
message are threads from the moment they are filed. -/
structure Pocket where
  launch : Nat
  wg : Nat
  pc : W64
  /-- Members in filing order. -/
  members : List Nat
  /-- When it came to hold 32 threads, by the arithmetic clock. -/
  full : Nat := 0
deriving DecidableEq, Repr

/-- A released wave in the wave queue, or a placed wave that waits (R21, R43). -/
structure WaveRec where
  launch : Nat
  wg : Nat
  pc : W64
  members : List Nat
  /-- A placed wave's engine; a released wave takes the one with more pool. -/
  engine : Option Nat := none
  /-- When the wave became due, by the arithmetic clock (R43). -/
  due : Nat
  part : Nat
deriving DecidableEq, Repr

/-- An L1 copy of a line (R85, R387). -/
structure L1Line where
  data : Memory := []
  poison : NatSet := []
  /-- Lease end in GTC ns. -/
  leaseEnd : Nat
  /-- Error class that a hit will find in the copy, as `Mem.faulty` numbers them (R380, R381). -/
  cls : Nat := 0
  /-- Writes this copy holds that are not yet acknowledged, the oldest first: operation and part. -/
  writes : List (Nat × Nat) := []
deriving DecidableEq, Repr

/-- A stand (R20, R21, R25, R27, R29, R85, R266, R354, R385, R388). -/
structure Stand where
  pockets : Table Pocket := []
  plist : List Nat := []
  waitCtx : List Nat := []
  waveQ : List WaveRec := []
  tlb : List Trans := []
  l1 : Table L1Line := []
  /-- GTC at which the retention sleep began (R388). -/
  asleep : Option Nat := none
  /-- Alternate stand (R29). -/
  alternate : Option Nat := none
  fenced : Bool := false
  /-- Task records accepted by the landing (R266). -/
  landingSeq : Nat := 0
  /-- False-sharing and other landing counters (R275). -/
  falseShare : W32 := 0
  /-- Graphics side (R283). -/
  graphics : Bool := false
  /-- A held STANDOWN value, and the order in which it was requested (R370). -/
  pendingOwn : Option (W32 × Nat) := none
  /-- Bytes of the spill area, fixed while a workgroup remains on the stand (R25). -/
  spill : Nat := 0
  /-- Reach whose image the reach area holds: launch, reach, root and image bytes (R254). -/
  reach : Option (Nat × Nat × Nat × Nat) := none
deriving DecidableEq, Repr

/-! ### Memory, its homes and its operations -/

/-- Where a byte lives: device memory, a local memory, host memory, another package (R56, R70, R356, R374). -/
inductive Place where
  | dram (pa : Nat)
  | loc (key : Nat)
  /-- Host memory, by the address a Translated request carries; the first number is 0 (log 40). -/
  | host (pasid va : Nat)
  | remote (addr : Nat)
  /-- A queue register, by BAR0 offset (R374). -/
  | reg (off : Nat)
  /-- The doorbell of a collective engine of the accessing partition (R376). -/
  | doorbell (engine : Nat)
deriving DecidableEq, Repr

/-- How far a part of an operation has come. -/
inductive Phase where
  | sent
  /-- Arrived at its home and waiting there (R87). -/
  | queued
  /-- Its value has been read. -/
  | value
  /-- Performed at its home or port. -/
  | performed
  /-- Acknowledged to its stand. -/
  | acked
deriving DecidableEq, Repr

/-- A part of a memory operation: bytes within one line or local memory (R72, R73). -/
structure Part where
  place : Place
  n : Nat
  /-- Bytes to store, or bytes read. -/
  data : List Byte := []
  /-- Half of a byte stored: 0 low, 1 high (R200). -/
  nibble : Option Nat := none
  poison : Bool := false
  phase : Phase := .sent
  lease : Nat := 0
  /-- The page's memory key; of local memory, the bank's format when the access was performed (R68); of a queue register or
  another package, the GTC at which the access began to wait (R330, R375). -/
  key : Nat := 0
  /-- The stand's L1 copy holds this write (R85). -/
  copy : Bool := false
  /-- May allocate in, and be served from, the L1 (R123). -/
  l1 : Bool := true
  /-- Dropped at a failed tier 2 (R204). -/
  dropped : Bool := false
  /-- Held at translation by a migration of its page (R367). -/
  migHeld : Bool := false
deriving DecidableEq, Repr

/-- What a memory operation does. -/
inductive OpKind where
  | load | store | atomic
deriving DecidableEq, Repr

/-- An outstanding memory operation of a thread (R125, R126, R200). -/
structure MemOp where
  tid : Nat
  part : Nat
  launch : Nat := 0
  stand : Nat
  /-- Source core for the trace ring (R94). -/
  src : Nat
  /-- Of its instruction as it issued: PC, home and SOURCE code, as a fault record names them (R360, R361). -/
  pc : W64 := 0
  home : Home := .plist 0
  source : Nat := 0
  kind : OpKind
  ord : Nat := 0
  scope : Nat := 0
  /-- Stamp of a sequentially consistent operation (R89). -/
  stamp : Option Nat := none
  parts : List Part
  dest : Dest := .none
  /-- TYPE of an access whose element, or row of one bank, has the format its bank has when it is performed (R68, R201,
  R227). -/
  fmt : Option Nat := none
  /-- Format and elements of the tile row an access loads or stores (R227). -/
  row : Option (Nat × Nat) := none
  /-- Rounding mode of a conversion, and the draws it took at issue (R107, R123). -/
  mode : Nat := 1
  draws : List Nat := []
  /-- Atomic operation, type code, operand and expected value (R206); of a typed store the elements' bits. -/
  atomOp : Nat := 0
  ty : Nat := 0
  c : Nat := 0
  d : Nat := 0
  /-- A prefetch (R203): nothing waits for it and nothing is ordered by it. -/
  orphan : Bool := false
  /-- Address of its first byte, for ordering among a thread's own accesses. -/
  ea : Nat := 0
  /-- Address and bytes of its second range, the scale words of TGATHER (R231). -/
  also : Option (Nat × Nat) := none
  /-- The issue of its instruction, as `State.issueNo` numbers it (R395). -/
  issue : Nat := 0
deriving DecidableEq, Repr

/-- A line at its home (R87, R90-R92). -/
structure HomeLine where
  /-- Latest lease end granted to each stand. -/
  leases : Table Nat := []
  /-- Stamp of the sequentially consistent operation last performed. -/
  stamp : Nat := 0
  /-- Writes that have arrived and wait, the oldest first: operation and part. -/
  queue : List (Nat × Nat) := []
  /-- A performed write whose acknowledgement the next write waits for (R87). -/
  awaitAck : Option (Nat × Nat) := none
  /-- Engine command that owns the line. -/
  owner : Option Nat := none
  /-- Value and poison before the command, while an engine owns the line. -/
  before : Option (List Byte × NatSet) := none
  /-- The engine has written the line's final bytes for its command. -/
  final : Bool := false
  /-- GTC at which a recall began (R92). -/
  recallAt : Option Nat := none
deriving DecidableEq, Repr

/-- All memory (R60, R70, R356, R374, R377, R380). -/
structure Mem where
  dram : Memory := []
  loc : Memory := []
  /-- Host memory by the host's own addresses. -/
  host : Memory := []
  remote : Memory := []
  /-- Poisoned 32-bit words, by address / 4. -/
  dramPoison : NatSet := []
  locPoison : NatSet := []
  hostPoison : NatSet := []
  /-- Key index and generation each line was written under (R377). -/
  lineKey : Table (Nat × Nat) := []
  /-- Generation of each key slot, new with each key generated, installed or erased. -/
  keyGen : Table Nat := []
  keyCount : Nat := 0
  /-- Error class the decoder finds in a line: 1 corrected, 2 uncorrectable, 3 misdirected (R380). -/
  faulty : Table Nat := []
deriving DecidableEq, Repr

/-- An outstanding long-latency producer that accesses no memory (R126, R179, R194, R237). -/
inductive Producer where
  /-- Special function: thread, operation, format, operand, rounding selector, and the issue of its instruction (R395). -/
  | special (tid : Nat) (op : Op) (d fmt x mode issue : Nat)
  /-- A scalar QXMAX: thread, its core, context and launch, destination, round and contribution. -/
  | qxmax (tid core ctx launch d : Nat) (int : Bool) (round : Nat) (val : W32)
  /-- A wave QXMAX: thread, destination, maximum, invalid flag, and the issue of its instruction (R395). -/
  | laneMax (tid d : Nat) (val : W32) (iv : Bool) (issue : Nat)
  /-- ACC.MOV: thread, destination, value, poison; while the row is pending, the slot, accumulator, row and column it waits
  for. -/
  | accMov (tid d : Nat) (val : W32) (poison : Bool) (wait : Option (Nat × Nat × Nat × Nat))
deriving DecidableEq, Repr

/-! ### Translation and faults -/

/-- What waits for a translation, a replay or a fault record (R361). -/
inductive Origin where
  /-- Threads of one group, data access or fetch. -/
  | threads (tids : List Nat) (fetch : Bool)
  /-- A flume command. -/
  | flume (cmd : Nat)
  | texture (req : Nat)
  /-- The Drive's work of a scene on a stand. -/
  | drive (die scene stand : Nat)
  | task (task : Nat)
  | migration (mig : Nat)
  | none
deriving DecidableEq, Repr

/-- A fault record (R360). -/
structure FRec where
  seq : Nat
  kind : Nat
  source : Nat
  auto : Bool := false
  write : Bool := false
  atomic : Bool := false
  refused : Bool := false
  phys : Bool := false
  page : Nat
  addr : Nat
  launch : Nat := 0
  pasid : Option Nat := none
  lanes : Nat := 0
  stand : Nat := 0
  wave : Bool := false
  slot : Nat := 0
  pc : W64 := 0
  gtc : Nat := 0
  prg : Option Nat := none
  count : Nat := 1
deriving DecidableEq, Repr

/-- A record of a partition: its contents, who waits on it, and whether it is pending (R361, R362). -/
structure Pending where
  part : Nat
  fr : FRec
  who : Origin
  pending : Bool := true
deriving DecidableEq, Repr

/-- A translation in flight: a walk, or for a host page its PCIe Translation Request (R351, R356). -/
structure Walk where
  part : Nat
  stand : Nat
  va : Nat
  write : Bool
  read : Bool
  fetch : Bool
  atomic : Bool
  who : Origin
  pc : W64
  /-- Lowest address asked for. -/
  addr : Nat
  /-- The PASID whose host translation has been requested. -/
  ats : Option Nat := none
  /-- Overtaken by an Invalidate Request that covers it (R358). -/
  stale : Bool := false
deriving DecidableEq, Repr

/-- An invalidation in progress (R355, R358). -/
structure Inval where
  parts : List Nat
  base : Nat
  /-- Bytes covered; none for everything. -/
  size : Option Nat
  pasid : Option Nat := none
  /-- Operations that were translated before it. -/
  waits : List Nat
  /-- Tasks whose buffers held writes translated before it, with their attempts; and such cruises, whose shadows did. -/
  tasks : List (Nat × Nat) := []
  cruises : List Nat := []
  /-- Started by INVCTL of a partition, by a host request with a tag, or by a migration. -/
  byHost : Option Nat := none
  byMig : Option Nat := none
deriving DecidableEq, Repr

/-- How far a migration has come (R367, R368). -/
inductive MigStage where
  /-- M is to be set once the entry's line is free to be written (R87). -/
  | mark
  /-- M is set and the first invalidation runs. -/
  | first
  /-- The page is copied, beat by beat. -/
  | copy
  /-- The copy has been made and the second invalidation runs. -/
  | second
  /-- The copy was given up and an invalidation runs before M is cleared. -/
  | abort
  /-- The leases granted on the source lines run out. -/
  | leases
deriving DecidableEq, Repr

/-- A migration in progress (R367). -/
structure Migration where
  part : Nat
  va : Nat
  size : Nat
  src : Nat
  dst : Nat
  key : Nat
  /-- Table address of the entry's word 1. -/
  entry : Nat
  stage : MigStage := .first
  /-- The entry's home cluster, whose flume carries the migration out. -/
  cluster : Nat := 0
  /-- 64-byte beats copied. -/
  copied : Nat := 0
  /-- RESULT of R368. -/
  result : Nat := 0
deriving DecidableEq, Repr

/-- Whether writes to the page are held (R367). -/
def Migration.holds (m : Migration) : Bool := m.stage == .first || m.stage == .copy || m.stage == .abort

/-- A Page Request outstanding (R357): its record and page. -/
structure PageReq where
  part : Nat
  frec : Nat
  addr : Nat
  pasid : Nat
deriving DecidableEq, Repr

/-! ### Flumes -/

/-- A flume command (R213-R217, R295). -/
inductive FlumeKind where
  | copy (dst src len : Nat)
  | tile (dst src rows rowBytes srcPitch dstPitch mask : Nat) (mc : Bool)
  | cvt (dst src count sf df : Nat)
  /-- BLK.DCMP: pass descriptor, block, destination register. -/
  | dcmp (pass block d : Nat)
deriving DecidableEq, Repr

/-- A piece of a command's beat: its bytes, or the elements of a conversion, from `lo` up to `hi` (R73). -/
structure Piece where
  beat : Nat
  lo : Nat
  hi : Nat
deriving DecidableEq, Repr

/-- A command in a ring (R213, R217, R219, R222). -/
structure FlumeCmd where
  id : Nat
  kind : FlumeKind
  /-- The issuing thread (scalar), or the lowest active thread of a wave's group. -/
  tid : Nat
  /-- Group: engine key and context or slot. -/
  engine : Nat
  group : Nat
  part : Nat
  launch : Nat
  wg : Nat
  /-- Guard slot, until the command leaves its queue head; 16 more than the slot once it has been resolved false by the group's
  halt (R222, R312). -/
  guard : Option Nat := none
  /-- Its group has left its context or slot: what comes there next knows nothing of the command. -/
  left : Bool := false
  /-- Has left the queue head and runs. -/
  running : Bool := false
  /-- PC of the instruction (R360). -/
  pc : W64 := 0
  /-- Beats taken in order: served, or passed over. -/
  done : Nat := 0
  status : W32 := 0
  flags : W32 := 0
  /-- Pieces of beats passed over because a page of theirs faulted, each with the pending record that holds it (R73, R217). -/
  heldBeats : List (Piece × Nat) := []
  /-- Pieces still to be served of beats passed over: those on other pages, and those whose record has been replayed. -/
  again : List Piece := []
  /-- Destination lines owned. -/
  owned : NatSet := []
  /-- GTC at which an access began to wait for a route, and whether it waits no longer (R375). -/
  waitFrom : Option Nat := none
  giveUp : Bool := false
  priority : Nat := 0
  /-- Threads active at issue, whose writes the command waits for (R82). -/
  threads : List Nat := []
deriving DecidableEq, Repr

/-- A cluster (R66, R213, R219). -/
structure Cluster where
  dgn : Table W32 := []
  rings : Table (List FlumeCmd) := []
  deficit : Table Nat := []
  turn : Nat := 0
deriving DecidableEq, Repr

/-! ### Launches, workgroups, tasks -/

/-- A named barrier (R209). -/
structure Barrier where
  phase : Nat := 0
  tally : Nat := 0
  count : Option Nat := none
  /-- Engines an arrival of the open phase came from (R170). -/
  units : NatSet := []
  /-- CNTR.FOLD: where the record goes, and whether the counters are cleared (R170). -/
  fold : Option (List Part × Bool × Nat) := none
deriving DecidableEq, Repr

/-- A workgroup (R42, R44, R51, R53). -/
structure Workgroup where
  placed : Bool := false
  stand : Nat := 0
  retired : Bool := false
  barriers : Table Barrier := []
  /-- Scalar cv0-cv15: round, tally and governing count as a barrier (R211). -/
  cv : Table Barrier := []
  /-- GTC from which the watchdog's current wait counts (R51). -/
  watch : Option Nat := none
  /-- Time already counted when a parked thread paused the watchdog. -/
  paused : Option Nat := none
deriving DecidableEq, Repr

/-- A level of a launch (R41). -/
structure Level where
  domain : Nat
  scope : Option Nat
  extent : Nat
deriving DecidableEq, Repr

/-- A launch's fields after overrides (R323, R332). -/
structure LaunchRec where
  entry : Nat := 0
  trap : Nat := 0
  gregs : Nat := 0
  acc : Nat := 0
  /-- Grant in bytes. -/
  grant : Nat := 8192
  tile : Bool := false
  sliced : Bool := false
  /-- First instruction of the execute region of a sliced kernel (R308). -/
  execStart : Nat := 0
  cruise : Bool := false
  /-- The kernel descriptor it was accepted with (R379). -/
  desc : List Byte := []
  req : Nat := 0
  agelimit : Nat := 2048
  bars : Nat := 0
  retries : Nat := 0
  priority : Nat := 0
  watchdog : Nat := 65535
  spill : Nat := 0
  dcarg : Nat := 0
  argbase : Nat := 0
  narg : Nat := 0
  ranges : List TRange := []
  levels : List Level := []
  /-- Constant words 0-239. -/
  consts : Table Reg := []
  scene : Nat := 0
  pass : Nat := 0
  /-- The scene and pass descriptors as acceptance read them (R243, R284). -/
  sceneDesc : List Byte := []
  passDesc : List Byte := []
  seed : W64 := 0
  sigaddr : Nat := 0
  sigval : W64 := 0
  firstStand : Nat := 0
  nStand : Nat := 0
  pin : Bool := false
deriving DecidableEq, Repr

/-- How far a launch has come. -/
inductive LaunchPhase where
  | pending | running
  /-- A fatal trap has stopped it; its end is still to be carried out (R52). -/
  | dying
  | preempting | saved | ended
deriving DecidableEq, Repr

/-- The fatal trap of a launch that its dump records (R390): cause, thread, workgroup, the origin's STAND and slot fields
(R360), lane, PC, detail, and for cause 0x0D the fault record. -/
structure Fatal where
  cause : Nat
  tid : Option Nat := none
  wg : Nat := 0
  stand : Nat := 0
  wave : Bool := false
  slot : Nat := 0
  lane : Nat := 0
  pc : W64 := 0
  info : W32 := 0
  /-- GTC of detection. -/
  time : Nat := 0
  frec : List Byte := []
deriving DecidableEq, Repr

/-- A launch (R52, R53, R332-R336). -/
structure Launch where
  part : Nat
  queue : Nat
  /-- Launch id (R333). -/
  id : Nat
  r : LaunchRec
  phase : LaunchPhase := .pending
  wgs : Table Workgroup := []
  grid : Nat := 1
  retired : Nat := 0
  /-- The fatal trap recorded (R52, R390). -/
  fatal : Option Fatal := none
  /-- Further fatal traps (R390). -/
  fatalMore : Nat := 0
  /-- Its dump has been written (R389, R390). -/
  dumped : Bool := false
  /-- Writes to a failed tier 2 were dropped (R336). -/
  dropped : Bool := false
  /-- A render pass closed short (R289, R336). -/
  short : Bool := false
  /-- The 32 fields of its record (R342). -/
  record : List W64 := []
  /-- Cruise that runs as this launch, before its claim (R343). -/
  cruise : Option Nat := none
  /-- GTC at which its entry was published (R334), and the entry's index in its queue. -/
  doorbell : Nat := 0
  index : Nat := 0
  /-- Timestamp and spawn time of the last task to begin committing (R266). -/
  begun : Option (Nat × Nat) := none
  /-- Timestamp of the last committed task (R269). -/
  committed : Nat := 0
  /-- Tasks the last reduction lets commit, in key order (R276). -/
  approved : List Nat := []
  /-- Swarm cycle of the last reduction, and the tasks queued on each stand then (R266, R276). -/
  reducedAt : Nat := 0
  queuedAt : Table Nat := []
deriving DecidableEq, Repr

/-- A task's key (R266, R272): timestamp, time of its spawn, landing stand and acceptance order. -/
structure TaskKey where
  stamp : Nat
  time : Nat
  stand : Nat
  seq : Nat
deriving DecidableEq, Repr

/-- How far a task has come (R266-R278). -/
inductive TaskPhase where
  | waiting | running | finished
  /-- Its run has trapped on a fault; dispatchable after replay (R278). -/
  | faulted
  | committing
deriving DecidableEq, Repr

/-- A task record (R266-R278). -/
structure Task where
  key : TaskKey
  part : Nat
  launch : Nat
  wg : Nat
  index : Nat
  payload : List W32
  ranges : List TRange
  parent : Option Nat
  landing : Nat
  srcCore : Nat
  attempt : Nat := 0
  tally : Nat := 0
  phase : TaskPhase := .waiting
  /-- Thread and core of the running attempt. -/
  tid : Option Nat := none
  core : Nat := 0
  /-- Buffered bytes. -/
  buf : Memory := []
  /-- Half-bytes the buffer holds: 2 x address, and one more for the high half (R200). -/
  written : NatSet := []
  /-- Pages its buffered writes were translated under, as `pageKey` numbers them (R355). -/
  pages : NatSet := []
  /-- Granules read, and exact bytes read. -/
  readGran : NatSet := []
  readBytes : NatSet := []
  /-- Tasks whose buffered values it has read. -/
  deps : NatSet := []
  children : Nat := 0
  msgs : List Msg := []
  dropped : Bool := false
  /-- Memory key of each written line (R377). -/
  keys : Table Nat := []
  /-- Cluster of the attempt that trapped, which a rerun avoids where it can (R278). -/
  avoid : Option Nat := none
  /-- Aborted while its thread is inside a run, which ends before the thread goes: the task is then queued again, or is gone
  where it was discarded (R272). -/
  dead : Option Bool := none
deriving DecidableEq, Repr

/-! ### Rays and render passes -/

/-- A batch on a stand (R253-R255, R261, R262); its records stand in the stand's batch area (R245). -/
structure Batch where
  launch : Nat
  reach : Nat
  /-- Root offset and image bytes of the reach; base address of the image. -/
  root : Nat := 0
  len : Nat := 0
  base : Nat := 0
  loaded : Bool := false
  /-- The reach entry was malformed: the rays finish with status malformed (R244). -/
  bad : Bool := false
  count : Nat := 0
  /-- Rays dispatched, or with a malformed entry replied to, so far. -/
  sent : Nat := 0
  /-- Rays that have left. -/
  gone : Nat := 0
  /-- Of these, by RAY.FIN. -/
  fins : Nat := 0
  /-- Slot to the workgroup that enqueued its ray. -/
  owner : Table Nat := []
  /-- GTC of the first dispatch. -/
  startAt : Option Nat := none
  /-- GTC ns spent in pauses. -/
  paused : Nat := 0
deriving DecidableEq, Repr

/-- A ray record held by a Drive: its 64 bytes, the workgroup that enqueued it, and when it reached the Drive. -/
structure RayRec where
  bytes : List Byte
  wg : Nat
  time : Nat
deriving DecidableEq, Repr

/-- The boom of a reach on a die (R248, R253). -/
structure Boom where
  /-- All records, the oldest first. -/
  records : List RayRec := []
  /-- How many of them the head slot holds. -/
  head : Nat := 0
  /-- Holds a head slot. -/
  slot : Bool := false
  /-- Spill blocks in chain order, with the records each holds. -/
  blocks : List (Nat × Nat) := []
  passed : Nat := 0
  /-- Selection number at which it became starved. -/
  starved : Option Nat := none
deriving DecidableEq, Repr

/-- A bin entry: its 64 bytes, and its place in the die's part of the pool when it has spilled (R286). -/
structure BinEntry where
  bytes : List Byte
  spill : Option Nat
deriving DecidableEq, Repr

/-- A die's Drive, binning unit and report buffers (R248, R286, R359, R371). -/
structure Die where
  /-- Booms by scene launch x 2^32 + reach. -/
  booms : Table Boom := []
  /-- Selections made so far. -/
  selections : Nat := 0
  /-- Rays accepted and not finished, per scene launch. -/
  raysHeld : Table Nat := []
  /-- Bin entries per launch x 2^32 + tile, in arrival order. -/
  bins : Table (List BinEntry) := []
  /-- Closes counted per launch. -/
  closes : Table Nat := []
  /-- Fault records that wait (R359): keys. -/
  faultBuf : List Nat := []
  /-- Event records that wait (R371): partition and 32 bytes. -/
  eventBuf : List (Nat × List Byte) := []
  /-- Launches whose scene's control blocks on this die have been set to the empty booms' (R248). -/
  ctl : NatSet := []
  /-- The stand a balancer move drains, whether towards graphics, and the order in which it began (R283, R372). -/
  move : Option (Nat × Bool × Nat) := none
  /-- GTC of the last comparison of AUTO mode (R372). -/
  tick : Nat := 0
deriving DecidableEq, Repr

/-- A visibility entry: primitive, depth, u and v, and the winner's attributes (R288). -/
structure VisEntry where
  prim : W32
  depth : W32
  u : W32
  v : W32
  attr : W64
deriving DecidableEq, Repr

/-- A tile of a render pass (R286-R292). -/
structure PassTile where
  /-- Visibility entry of each covered pixel, by 32 x row + column. -/
  vis : Table VisEntry := []
  final : Bool := false
  /-- The shading handler's entry, once read: its PC (R290). -/
  shade : Option W64 := none
  /-- Rows still to be filed as waves of shading threads. -/
  toFile : List Nat := []
  /-- Shading threads not yet halted. -/
  shading : Nat := 0
  /-- Colour each finished pixel wrote. -/
  colour : Table W32 := []
  /-- Blocks written back so far (R292). -/
  blocks : Nat := 0
  done : Bool := false
deriving DecidableEq, Repr

/-- A texture request (R293). -/
structure TexReq where
  tid : Nat
  part : Nat
  launch : Nat
  wg : Nat
  core : Nat
  index : Nat
  /-- The reply message that holds its place. -/
  msg : Nat
  descAddr : Nat
  /-- The descriptor, once read. -/
  desc : Option (List Byte) := none
  u : W32
  v : W32
  lod : W32
  stateAddr : Nat
  fault : Option Nat := none
  pc : W64 := 0
deriving DecidableEq, Repr

/-! ### Queues, the Cruiser, partitions, the package -/

/-- A WAIT command in progress (R331). -/
structure QWait where
  index : Nat
  addr : Nat
  value : Nat
  cond : Nat
  deadline : Option Nat
  /-- GTC of the last read. -/
  last : Nat
deriving DecidableEq, Repr

/-- A queue's state besides its registers (R329-R331, R342, R343). Indices here do not wrap; a register or command shows
them modulo 2^31. -/
structure Queue where
  /-- Indices reserved so far. -/
  reserved : Nat := 0
  /-- Entries published, with the GTC of the doorbell. -/
  published : Table Nat := []
  /-- Entries read so far: the consumer index. -/
  read : Nat := 0
  /-- Commands read and not completed. -/
  active : NatSet := []
  /-- Commands read that have not started because of B: index, doorbell time and bytes. -/
  waiting : List (Nat × Nat × List Byte) := []
  wait : Option QWait := none
  /-- A WAIT has reached its limit: nothing is read until QSTAT[1] is cleared. -/
  halted : Bool := false
  /-- QRESV and QRESVS reads waiting: GTC at which they began. -/
  resv : Option Nat := none
  resvs : Option Nat := none
  /-- Last 16 launch records, oldest first. -/
  history : List (List W64) := []
  predicted : Option (List W64) := none
  period : Nat := 0
  confidence : Nat := 0
  /-- GTC at which a launch was last read. -/
  lastRead : Nat := 0
  /-- Signals of cancelled commands whose translation is still awaited: address and value (R329, R336). -/
  late : List (Nat × Nat) := []
deriving DecidableEq, Repr

/-- A cruise (R343-R346). -/
structure Cruise where
  queue : Nat
  launch : Nat
  shadow : Memory := []
  written : NatSet := []
  /-- Pages its shadow writes were translated under, as `pageKey` numbers them (R355). -/
  pages : NatSet := []
  /-- Written bytes that are poisoned. -/
  poison : NatSet := []
  /-- Memory key of each written line (R377). -/
  keys : Table Nat := []
  readGran : NatSet := []
  finished : Option Nat := none
  /-- The entry of its queue that matched it and may claim it (R345). -/
  claim : Option Nat := none
  /-- Cause bits of R346 met so far. -/
  causes : W32 := 0
deriving DecidableEq, Repr

/-- A pre-empted launch, kept as structured data behind its save area (R338-R341): what of it the stands, cores and flumes
held, by their numbers. Its booms, bins and tiles stay with their dies. -/
structure Saved where
  launch : Nat
  queue : Nat
  /-- Bytes of its save area. -/
  bytes : Nat
  /-- The header written (R340). -/
  header : List Byte
  /-- GTC and arithmetic cycle of the save. -/
  gtc : Nat
  arith : Nat
  /-- Its workgroups, with the stands they were on. -/
  wgs : Table Workgroup
  threads : Table Thread
  slots : Table Slot
  /-- Stand and contents. -/
  pockets : List (Nat × Pocket)
  plist : List (Nat × Nat)
  waitCtx : List (Nat × Nat)
  waves : List (Nat × WaveRec)
  /-- Core and contents. -/
  msgs : List (Nat × Msg)
  /-- Core and context, with workgroup and handler index. -/
  reserved : List ((Nat × Nat) × (Nat × Nat))
  /-- Private areas of scalar contexts: core and context, bytes and poisoned words by their place in the core's memory. -/
  areas : List ((Nat × Nat) × (Memory × NatSet))
  producers : Table Producer
  tasks : Table Task
  texReqs : Table TexReq
  /-- Commands in ring order. -/
  cmds : List FlumeCmd
  /-- $bfmt and $ctr0-$ctr15 of cores, $ctr0-$ctr15 of wave engines, $dgn0-$dgn3 of clusters (R167). -/
  cores : List (Nat × (W32 × Table W32))
  waveCtr : List (Nat × Table W32)
  dgns : List (Nat × Table W32)
deriving DecidableEq, Repr

/-- A partition's state besides its registers (R360, R369, R371, R379). -/
structure Partition where
  /-- Next fault record number. -/
  seq : Nat := 0
  evSeq : Nat := 0
  /-- Packages declared lost. -/
  lost : NatSet := []
  /-- SPDM session step reached (R379). -/
  spdm : Nat := 0
  /-- Key delivered under wrap (R379). -/
  delivered : Option Nat := none
  /-- Kernel descriptors accepted, the first first (R379). -/
  kernels : List (List Byte) := []
deriving DecidableEq, Repr

/-- The package (R373, R378, R381-R385, R393, R399). -/
structure Package where
  pfSeq : Nat := 0
  links : NatSet := []
  /-- PRI disabled after a Response Failure: ATS and PRI are one function (R356, R357). -/
  priOff : Bool := false
  /-- Units fenced (R385). -/
  fences : NatSet := []
  /-- Consecutive parity failures per engine (R383); 4 while the instruction is to be performed with poisoned results. -/
  retry : Table Nat := []
  rewrite : NatSet := []
  /-- GTC at which a 64 KiB page last returned uncorrectable data (R381). -/
  pageErr : Table Nat := []
  /-- Log records that wait for room (R393). -/
  pfBuf : List (List Byte) := []
  /-- Times of the last 256 corrected errors of an SRAM structure, and the unit it belongs to (R385). -/
  corrected : Table (Nat × List Nat) := []
  /-- Times of the last two misdirected accesses of an agent, by its unit (R385). -/
  misdirected : Table (List Nat) := []
  clocksStopped : Bool := false
  /-- Clocks relock for a new mode (R399). -/
  relocking : Bool := false
  /-- The firmware image, and what the host has written to the staging window (R378; log 156). -/
  image : Memory := []
  staging : Memory := []
  /-- Engines inside a run that began before the mode was written: their clocks relock at its end (R399). -/
  oldMode : NatSet := []
  /-- GTC of the governor's last step (R399). -/
  govTick : Nat := 0
deriving DecidableEq, Repr

/-- The three clocks (R5): GTC in ns, arithmetic cycles, swarm cycles. Every unit reads one GTC: the offset between two units,
which R5 leaves open within 4 ns, is zero (DESIGN CHOICE, log 108). -/
structure Clock where
  gtc : Nat := 0
  arith : Nat := 0
  swarm : Nat := 0
deriving DecidableEq, Repr

/-- A word of the SRAMs that SECDED protects (R382), by where it stands: a word of the local memories, a thread's general or
mailbox register, a k register of a thread's home, or a row of a tile or accumulator of a wave slot; or a word of another
structure of a unit, named by kind and number, of whose contents State keeps no copy (log 85). -/
inductive SramWord where
  | loc (word : Nat)
  | g (thread n : Nat)
  | mb (thread n : Nat)
  | k (thread n : Nat)
  | tile (engine slot n row : Nat)
  | acc (engine slot n row : Nat)
  | unit (kind n : Nat)
deriving DecidableEq, Repr

/-- What moves next (log 1): time passes, then an engine issues, a step of the part itself takes place, an SRAM word is found
in error, in one bit or in two (R382), or the host writes the staging window. -/
inductive Act where
  | issue (engine : Nat)
  | event (i : Instr)
  | upset (w : SramWord) (double : Bool)
  /-- The host writes bytes to the staging window of BAR2 (R378). -/
  | stage (off : Nat) (bs : List Byte)
deriving DecidableEq, Repr

/-- One turn: the time that passes before it, and the move (log 1). -/
structure Turn where
  gtc : Nat := 0
  arith : Nat := 0
  swarm : Nat := 0
  act : Act
deriving DecidableEq, Repr

/-- The state of the machine. -/
structure State where
  clock : Clock := {}
  /-- Memory-mapped registers by BAR0 offset; an unlisted one reads as its reset value. -/
  bar0 : Table W32 := []
  mem : Mem := {}
  homes : Table HomeLine := []
  restamps : Table Nat := []
  /-- GTC at which an access of one of the part's engines began to wait for a route, by partition x 1024 + package index; or, with
  true, at which it gave the route up (R375). -/
  routeWait : Table (Nat × Bool) := []
  slicesFenced : NatSet := []
  ops : Table MemOp := []
  producers : Table Producer := []
  /-- Flags already counted of instructions whose lanes complete one by one, by the issue's number (R395). -/
  flagSeen : Table W32 := []
  threads : Table Thread := []
  /-- Messages waiting for a place, by sending thread; and messages held for a route. -/
  outbound : Table Msg := []
  routeHeld : Table Msg := []
  launches : Table Launch := []
  tasks : Table Task := []
  walks : Table Walk := []
  /-- The translation caches of skidders, flumes, texture units and Drives (R354), by `skidCache` and the like. -/
  unitTlbs : Table (List Trans) := []
  invals : Table Inval := []
  migs : Table Migration := []
  prgs : Table PageReq := []
  recs : Table Pending := []
  saved : Table Saved := []
  cruises : Table Cruise := []
  /-- Busy collective engines by partition x 16 + engine: the descriptor's address; once it has been read also the status,
  the descriptor's words and the member mask (R376). -/
  collectives : Table (List W64) := []
  queues : Table Queue := []
  engines : Table Engine := []
  slots : Table Slot := []
  cores : Table Core := []
  clusters : Table Cluster := []
  stands : Table Stand := []
  batches : Table Batch := []
  dies : Table Die := []
  /-- Tiles of render passes by launch x 2^32 + tile. -/
  tiles : Table PassTile := []
  texReqs : Table TexReq := []
  parts : Table Partition := []
  pkg : Package := {}
  /-- Value the last BAR0 read returned (log 9). -/
  busRead : W32 := 0
  /-- SPDM replies sent: request, partition, length (log 9). -/
  spdmOut : List (Nat × Nat × List W64) := []
  /-- PCIe requests and completions sent: kind, PASID or tag, and address with the request's low bits (log 9). -/
  hostOut : List (Nat × Nat × Nat) := []
  /-- What moves next (log 1). -/
  turns : List Turn := []
  focus : Nat := 0
  /-- Source of fresh numbers (log 1). -/
  nextId : Nat := 0
deriving DecidableEq, Repr

/-- Power-on, before the boot ROM has run (R378): nothing runs, SRAM is clear, every register at its reset value. -/
def State.reset : State := {}

end Sys2Proof.Machine
end

