-- ==== Sys2Proof/Machine/Regs.lean ====
section
/-!
DEFINITION. The memory-mapped registers: their addresses, reset values and reserved bits (R10, R11, R329, R347, R348,
R364, R369, R370, R372, R373, R378, R386, R389, R393, R395, R397).
-/

namespace Sys2Proof.Machine

/-- Queue q's register block (R329). -/
def queueReg (q off : Nat) : Nat := 0x100000 + 0x1000 * q + off
/-- Partition k's translation block (R348). -/
def transReg (k off : Nat) : Nat := 0x2000000 + 0x1000 * k + off
/-- CXL port p's block (R364). -/
def cxlReg (p off : Nat) : Nat := 0x3000000 + 0x100 * p + off
/-- Stand ownership (R370). -/
def standownReg (s : Nat) : Nat := 0x3800000 + 4 * s
/-- Die d's balancer block (R372). -/
def balReg (d off : Nat) : Nat := 0x3810000 + 0x10 * d + off
/-- Partition k's control block (R369). -/
def partReg (k off : Nat) : Nat := 0x4000000 + 0x1000 * k + off
/-- Eloa link l's block (R373). -/
def linkReg (l off : Nat) : Nat := 0x5000000 + 0x40 * l + off
/-- The package identifier (R373). -/
def pkgidReg : Nat := 0x5001000
/-- The power block (R397). -/
def powerReg (off : Nat) : Nat := 0x6200000 + off

/-- The reset value of a register; every register whose map gives another value than zero is named here. -/
def regReset (off : Nat) : W32 :=
  if 0x100000 ≤ off ∧ off < 0x1100000 ∧ off % 0x1000 = 0x0C then 0x64
  else if off = cxlReg 0 0 ∨ off = cxlReg 1 0 then 0x32
  else if 0x3810000 ≤ off ∧ off < 0x3810040 ∧ off % 0x10 = 4 then 0x20000000
  else if off = powerReg 0 ∨ off = powerReg 4 then 3
  else 0

namespace State

/-- A register's value. -/
def reg (s : State) (off : Nat) : W32 := s.bar0.getD off (regReset off)

/-- A register's value as a number. -/
def regN (s : State) (off : Nat) : Nat := (s.reg off).toNat

/-- Set a register. -/
def setReg (s : State) (off : Nat) (v : W32) : State := { s with bar0 := s.bar0.setD off (regReset off) v }

/-- Set a register from a number. -/
def setRegN (s : State) (off v : Nat) : State := s.setReg off (BitVec.ofNat 32 v)

/-- A 64-bit register pair, low word first. -/
def reg64 (s : State) (off : Nat) : Nat := s.regN off + s.regN (off + 4) * 2 ^ 32

/-- OR bits into a register. -/
def orReg (s : State) (off : Nat) (v : W32) : State := s.setReg off (s.reg off ||| v)

/-- Add to a saturating counter. -/
def bumpReg (s : State) (off n : Nat) : State := s.setRegN off (min 0xFFFFFFFF (s.regN off + n))

/-- The partition that owns a stand (R370). -/
def standOwner (s : State) (stand : Nat) : Option Nat :=
  let v := s.regN (standownReg stand)
  if bit v 7 then some (v % 64) else none

/-- The partition that owns a core's stand (R57, R370). -/
def coreOwner (s : State) (core : Nat) : Option Nat := s.standOwner (coreStand core)

/-- This package's identifier (R373). -/
def pkgId (s : State) : Nat := s.regN pkgidReg % 2 ^ 22

end State

end Sys2Proof.Machine
end

