-- ==== Sys2Proof/Machine/Ops.lean ====
section
/-!
DEFINITION. Named operations over the state: threads, registers, engines, runs; trace rings and event counters;
device writes at a home; fault and event records; taking a trap and returning from one; aborting tasks.
-/

namespace Sys2Proof.Machine

/-! ### Parts of the state by name -/

namespace State

/-- A live thread. -/
def thread? (s : State) (t : Nat) : Option Thread := s.threads.get? t
/-- Replace a thread. -/
def setThread (s : State) (t : Nat) (th : Thread) : State := { s with threads := s.threads.put t th }
/-- Change a live thread. -/
def modThread (s : State) (t : Nat) (f : Thread → Thread) : State := { s with threads := s.threads.mod t f }
/-- An engine. -/
def engine (s : State) (k : Nat) : Engine := s.engines.getD k {}
/-- Change an engine. -/
def modEngine (s : State) (k : Nat) (f : Engine → Engine) : State :=
  { s with engines := s.engines.setD k {} (f (s.engine k)) }
/-- A scalar core. -/
def core (s : State) (c : Nat) : Core := s.cores.getD c {}
/-- Change a scalar core. -/
def modCore (s : State) (c : Nat) (f : Core → Core) : State := { s with cores := s.cores.setD c {} (f (s.core c)) }
/-- A cluster. -/
def cluster (s : State) (c : Nat) : Cluster := s.clusters.getD c {}
/-- Change a cluster. -/
def modCluster (s : State) (c : Nat) (f : Cluster → Cluster) : State :=
  { s with clusters := s.clusters.setD c {} (f (s.cluster c)) }
/-- A stand. -/
def stand (s : State) (n : Nat) : Stand := s.stands.getD n {}
/-- Change a stand. -/
def modStand (s : State) (n : Nat) (f : Stand → Stand) : State :=
  { s with stands := s.stands.setD n {} (f (s.stand n)) }
/-- A die. -/
def die (s : State) (n : Nat) : Die := s.dies.getD n {}
/-- Change a die. -/
def modDie (s : State) (n : Nat) (f : Die → Die) : State := { s with dies := s.dies.setD n {} (f (s.die n)) }
/-- A queue. -/
def queue (s : State) (n : Nat) : Queue := s.queues.getD n {}
/-- Change a queue. -/
def modQueue (s : State) (n : Nat) (f : Queue → Queue) : State :=
  { s with queues := s.queues.setD n {} (f (s.queue n)) }
/-- A partition. -/
def partition (s : State) (n : Nat) : Partition := s.parts.getD n {}
/-- Change a partition. -/
def modPart (s : State) (n : Nat) (f : Partition → Partition) : State :=
  { s with parts := s.parts.setD n {} (f (s.partition n)) }
/-- A line at its home. -/
def home (s : State) (line : Nat) : HomeLine := s.homes.getD line {}
/-- Change a line at its home. -/
def modHome (s : State) (line : Nat) (f : HomeLine → HomeLine) : State :=
  { s with homes := s.homes.setD line {} (f (s.home line)) }
/-- A launch. -/
def launch? (s : State) (l : Nat) : Option Launch := s.launches.get? l
/-- Change a launch. -/
def modLaunch (s : State) (l : Nat) (f : Launch → Launch) : State := { s with launches := s.launches.mod l f }
/-- The fields of a launch; those of an empty record when there is none. -/
def lrec (s : State) (l : Nat) : LaunchRec := ((s.launches.get? l).map (·.r)).getD {}
/-- A launch's id (R333). -/
def launchId (s : State) (l : Nat) : Nat := ((s.launches.get? l).map (·.id)).getD 0
/-- A workgroup. -/
def wg (s : State) (l w : Nat) : Workgroup := ((s.launches.get? l).map (fun x => x.wgs.getD w {})).getD {}
/-- Change a workgroup. -/
def modWg (s : State) (l w : Nat) (f : Workgroup → Workgroup) : State :=
  s.modLaunch l fun x => { x with wgs := x.wgs.put w (f (x.wgs.getD w {})) }
/-- A wave slot. -/
def slot? (s : State) (e i : Nat) : Option Slot := s.slots.get? (slotKey e i)
/-- Change a wave slot. -/
def modSlot (s : State) (e i : Nat) (f : Slot → Slot) : State := { s with slots := s.slots.mod (slotKey e i) f }
/-- Change an outstanding memory operation. -/
def modOp (s : State) (o : Nat) (f : MemOp → MemOp) : State := { s with ops := s.ops.mod o f }
/-- A fresh number. -/
def fresh (s : State) : Nat × State := (s.nextId, { s with nextId := s.nextId + 1 })
/-- GTC in ns. -/
def gtc (s : State) : Nat := s.clock.gtc

end State

/-! ### Homes -/

namespace Home

/-- The engine a housed thread issues on. -/
def engine : Home → Option Nat
  | .scalar c _ => some c
  | .wave e _ _ => some (waveKey e)
  | _ => none

/-- The group number of a housed thread: context or slot. -/
def group : Home → Option Nat
  | .scalar _ x => some x
  | .wave _ i _ => some i
  | _ => none

/-- The lane of a housed thread; 0 in a scalar context (R202). -/
def lane : Home → Nat
  | .wave _ _ l => l
  | _ => 0

/-- Whether the thread is a wave thread. -/
def isWave : Home → Bool
  | .wave _ _ _ => true
  | _ => false

/-- The stand a thread executes or waits in (R45). -/
def stand : Home → Nat
  | .scalar c _ => coreStand c
  | .wave e _ _ => e / 2
  | .pocket n _ | .plist n | .waitCtx n | .queued n => n
  | .skidder _ => 0

/-- The reference core of R58. -/
def refCore (h : Home) : Nat :=
  match h with
  | .scalar c _ => c
  | _ => coreOfIndex h.stand 0

end Home

/-- The thread in a lane of a wave slot. -/
def State.threadAt (s : State) (e i lane : Nat) : Option Nat :=
  (s.threads.find? fun _ th => th.home == .wave e i lane).map (·.1)

/-- The thread in a scalar context. -/
def State.threadIn (s : State) (c x : Nat) : Option Nat :=
  (s.threads.find? fun _ th => th.home == .scalar c x).map (·.1)

/-- The mask of some threads' lanes. -/
def laneMaskOf (homes : List Home) : Nat := homes.foldl (fun m h => m ||| 2 ^ h.lane) 0

/-- The live threads of a group in increasing lane order. -/
def State.groupThreads (s : State) (key grp : Nat) : List Nat :=
  if isWaveKey key then (List.range 32).filterMap fun l => s.threadAt (waveOf key) grp l
  else (s.threadIn key grp).toList

/-! ### Registers of a thread -/

namespace Thread

/-- A general register; g0 reads zero and is always full (R125, R130). -/
def readG (th : Thread) (n : Nat) : Reg := if n = 0 then {} else th.g.getD n {}

/-- Write a general register: full, poison as given; writes to g0 are discarded (R130, R145). -/
def writeG (th : Thread) (n : Nat) (v : W32) (poison : Bool := false) : Thread :=
  if n = 0 then th else { th with g := th.g.setD n {} { val := v, poison := poison } }

/-- Mark a general register empty; g0 stays full (R125, R126). -/
def emptyG (th : Thread) (n : Nat) : Thread :=
  if n = 0 then th else { th with g := th.g.setD n {} { val := (th.readG n).val, full := false } }

/-- A parked load that is to be replayed has its destinations full again until it reissues (R204). -/
def fillAwaited (th : Thread) : Thread :=
  { th with g := th.awaited.foldl (fun g n => g.setD n {} { g.getD n {} with full := true }) th.g, awaited := [] }

/-- Mark n registers from d empty (R126). -/
def emptyGs (th : Thread) (d n : Nat) : Thread := (List.range n).foldl (fun t k => t.emptyG (d + k)) th

/-- The 64-bit value of a pair (R8). -/
def pair (th : Thread) (n : Nat) : W64 := W64.ofWords (th.readG n).val (th.readG (n + 1)).val

/-- Write registers from d up; with d = 0 nothing of g0 is written. -/
def writeGs (th : Thread) (d : Nat) : List W32 → Thread
  | [] => th
  | v :: r => writeGs (th.writeG d v) (d + 1) r

/-- A predicate; p0 is true and always full (R117, R125). -/
def readP (th : Thread) (n : Nat) : PReg := if n = 0 then { val := true } else th.p.getD n {}

/-- Write a predicate: full and unpoisoned; writes to p0 are discarded (R130, R151). -/
def writeP (th : Thread) (n : Nat) (v : Bool) : Thread :=
  if n = 0 then th else { th with p := th.p.setD n {} { val := v } }

/-- A mailbox register (R23). -/
def readMb (th : Thread) (n : Nat) : Reg := th.mb.getD n {}

/-- Write a mailbox register. -/
def writeMb (th : Thread) (n : Nat) (v : W32) (poison : Bool := false) : Thread :=
  { th with mb := th.mb.setD n {} { val := v, poison := poison } }

/-- OR flags into $fex (R112). -/
def orFex (th : Thread) (f : W32) : Thread := { th with fex := th.fex ||| f }

/-- The candidate of a bound ray is lost at filing, migration and trap (R258). -/
def dropCand (th : Thread) : Thread := { th with ray := th.ray.map fun r => { r with cand := none } }

/-- The task the thread runs (R267). -/
def taskOf (th : Thread) : Option Nat :=
  match th.role with
  | .task k => some k
  | _ => none

/-- Whether the thread shades a pixel (R290). -/
def isShading (th : Thread) : Bool :=
  match th.role with
  | .shading _ _ _ => true
  | _ => false

end Thread

/-- A k register of a thread: its own, its wave's, or as its skidder holds it (R14, R129, R309). -/
def State.readK (s : State) (t n : Nat) : Reg :=
  match s.thread? t with
  | none => {}
  | some th =>
    match th.home with
    | .wave e i _ => ((s.slot? e i).map (fun x => x.k.getD n {})).getD {}
    | _ => th.k.getD n {}

/-! ### Event counters and trace rings -/

/-- The partition whose stand an engine lies in; 0 when none owns it. -/
def State.enginePart (s : State) (key : Nat) : Nat := (s.standOwner (engineStand key)).getD 0

/-- Count n events of a source at an engine, under the partition's CTRSEL registers (R395); source 0 counts nothing, and what a
skidder does counts at the engine of its context or slot. -/
def State.countEvent (s : State) (unit src n : Nat) : State :=
  if src = 0 then s else
  let key := unitEngine unit
  let part := s.enginePart key
  (List.range 16).foldl (fun s j =>
    let sel := s.regN (partReg part (0x60 + 4 * j))
    let mine := if isWaveKey key then sel / 256 % 256 else sel % 256
    if mine = src then
      s.modEngine key fun e =>
        { e with ctr := e.ctr.setD j 0 (BitVec.ofNat 32 (min 0xFFFFFFFF ((e.ctr.getD j 0).toNat + n))) }
    else s) s

/-- What counter j of an engine shows: its count; of the unit's clock cycles (sources 0x03 and 0x04 of R395), which the model
does not count, a free value (log 95). -/
def State.ctrShown (s : State) (key j : Nat) : W32 :=
  let sel := s.regN (partReg (s.enginePart key) (0x60 + 4 * j))
  let src := if isWaveKey key then sel / 256 % 256 else sel % 256
  if src = 3 ∨ src = 4 then Config.cycleCount s.gtc key j else (s.engine key).ctr.getD j 0

/-- Word 0 of a trace entry (R394). -/
def traceWord0 (gtc key grp type : Nat) : W32 :=
  BitVec.ofNat 32 (gtc / 16 % 65536 * 65536 + (if isWaveKey key then grp % 32 * 16 else grp % 4 * 16) + type)

/-- The entry of a unit's ring (R394). -/
def State.traceEntry (s : State) (unit grp type : Nat) (w1 w2 w3 mask : Nat) : List W32 :=
  let key := unitEngine unit
  let e := [traceWord0 s.gtc key (unitGroup unit grp) type, BitVec.ofNat 32 w1, BitVec.ofNat 32 w2, BitVec.ofNat 32 w3]
  if isWaveKey key then e ++ [BitVec.ofNat 32 mask, 0, 0, 0] else e

/-- A unit's ring with an entry of its own over the oldest one: before the arrivals of the same swarm cycle (R394). -/
def Engine.logOwn (x : Engine) (key swarm : Nat) (entry : List W32) : Engine :=
  let k := if x.arrivals.1 = swarm then x.arrivals.2 else 0
  { x with
    ring := (x.ring.take k ++ entry :: x.ring.drop k).take (if isWaveKey key then 256 else 64), written := x.written + 1 }

/-- A unit writes an entry of its own into its engine's ring (R394). -/
def State.trace (s : State) (unit grp type : Nat) (w1 w2 w3 : Nat) (mask : Nat := 0) : State :=
  let key := unitEngine unit
  s.modEngine key fun x => x.logOwn key s.clock.swarm (s.traceEntry unit grp type w1 w2 w3 mask)

/-- The ring entry of a store or atomic that arrives at a core's memory port from another core or an engine (R94, R217,
R394). -/
def State.traceArrival (s : State) (src key n : Nat) (atomic : Bool) (data : Nat) : State :=
  let entry := s.traceEntry (locCore key) 0 3 src (locOff key + Nat.log2 n * 2 ^ 15 + atomic.toNat * 2 ^ 18) (data % 2 ^ 32) 0
  s.modEngine (locCore key) fun x =>
    { x with
      ring := (entry :: x.ring).take 64, written := x.written + 1
      arrivals := (s.clock.swarm, (if x.arrivals.1 = s.clock.swarm then x.arrivals.2 else 0) + 1) }

/-- The source word of a unit of a stand in such an entry: its stand's origin core, as an engine, and the package (log 116). -/
def State.unitSource (s : State) (stand : Nat) : Nat := coreOfIndex stand 0 + s.pkgId % 1024 * 2 ^ 18 + 2 ^ 28

/-- The entry of a unit's store, where it went to a local memory (R94). -/
def State.tracePlace (s : State) (src : Nat) (p : Place) (bs : List Byte) : State :=
  match p with
  | .loc k => s.traceArrival src k bs.length false (natOfBytes (bs.take 4))
  | _ => s

/-! ### Device memory as the part's own units write it -/

namespace Memory

/-- Forget the bytes of a range: they read as blank again. -/
def clear (m : Memory) (lo n : Nat) : Memory := List.filter (fun c => !(decide (lo ≤ c.1) && decide (c.1 < lo + n))) m

end Memory

/-- The words a write of n bytes at a covers whole, as word numbers (R60). -/
def wholeWords (a n : Nat) : List Nat :=
  ((List.range (n / 4 + 1)).map fun k => (a + 3) / 4 + k).filter fun w => decide (4 * w + 4 ≤ a + n)

/-- The words a range of n bytes at a touches. -/
def touchedWords (a n : Nat) : List Nat :=
  if n = 0 then [] else (List.range ((a + n - 1) / 4 + 1 - a / 4)).map fun k => a / 4 + k

/-- Writing clears the poison of words covered whole (R60), or poisons every word touched. -/
def poisonWrite (p : NatSet) (a n : Nat) (poison : Bool) : NatSet :=
  if poison then (touchedWords a n).foldl (fun p w => p.add w) p
  else (wholeWords a n).foldl (fun p w => p.remove w) p

/-- Store bytes in device memory at their home. -/
def State.dramStore (s : State) (pa : Nat) (bs : List Byte) (poison : Bool := false) : State :=
  let p := poisonWrite s.mem.dramPoison pa bs.length poison
  { s with mem := { s.mem with dram := s.mem.dram.write pa bs, dramPoison := p } }

/-- Store bytes in a local memory; offsets 0x03C0-0x03FF discard them (R62). -/
def State.locStore (s : State) (key : Nat) (bs : List Byte) (poison : Bool := false) : State :=
  let cells := ((List.range bs.length).zip bs).filter fun c =>
    !(decide (0x3C0 ≤ locOff (key + c.1)) && decide (locOff (key + c.1) < 0x400))
  let m := cells.foldl (fun m c => m.writeByte (key + c.1) c.2) s.mem.loc
  { s with mem := { s.mem with loc := m, locPoison := poisonWrite s.mem.locPoison key bs.length poison } }

/-- The generation a memory key slot holds (R377). -/
def State.keyGenOf (s : State) (key : Nat) : Nat := s.mem.keyGen.getD key 0

/-- A line whose contents the decoder cannot deliver: an uncorrectable or misdirected one (R380), or one written under
another key (R377). -/
def State.lineBad (s : State) (line key : Nat) : Bool :=
  decide (2 ≤ s.mem.faulty.getD line 0) ||
    (match s.mem.lineKey.get? line with
      | some k => k != (key, s.keyGenOf key)
      | none => false)

/-- n bytes of a byte string from an offset, as a number. -/
def fieldOf (bs : List Byte) (off n : Nat) : Nat := natOfBytes ((bs.drop off).take n)

namespace LaunchRec

/-- A field of the scene descriptor (R243). -/
def scn (r : LaunchRec) (off n : Nat) : Nat := fieldOf r.sceneDesc off n
/-- First stand within a die of its stream set. -/
def streamFirst (r : LaunchRec) (die : Nat) : Nat := r.scn (0x28 + 2 * die) 2 % 512
/-- Stands in a die's stream set. -/
def streamCount (r : LaunchRec) (die : Nat) : Nat := r.scn (0x28 + 2 * die) 2 / 512
/-- Whether a stand belongs to its die's stream set (R243). -/
def streams (r : LaunchRec) (stand : Nat) : Bool :=
  let d := standDie stand
  r.scene != 0 && decide (r.streamFirst d ≤ stand % 512) && decide (stand % 512 < r.streamFirst d + r.streamCount d)

end LaunchRec

namespace State

/-- Whether a stand streams (R243, R244): it is in the stream set of a launch that holds it, from the placement of its
workgroup there until the launch ends. -/
def streaming (s : State) (stand : Nat) : Bool :=
  s.launches.any fun l =>
    (l.2.phase == .pending || l.2.phase == .running || l.2.phase == .dying || l.2.phase == .preempting) &&
      l.2.r.streams stand && l.2.wgs.any fun w => w.2.placed && w.2.stand == stand

/-- A workgroup stands on a stand: placed and not retired. -/
def hasGroups (s : State) (stand : Nat) : Bool :=
  s.launches.any fun l => l.2.wgs.any fun w => w.2.placed && !w.2.retired && w.2.stand == stand

/-- Bytes of a stand's spill area (R25): what the first of its workgroups fixed, while any remains. -/
def spillSize (s : State) (stand : Nat) : Nat := if s.hasGroups stand then (s.stand stand).spill else 0

/-- A workgroup of a launch with a SPILL is about to be placed: on a stand that holds none it fixes the size of the spill
area (R25). -/
def claimSpill (s : State) (stand spill : Nat) : State :=
  if s.hasGroups stand then s else s.modStand stand fun x => { x with spill := spill * 1024 }

end State

/-- A byte of local memory that reads as zero on every path: offsets 0x03C0-0x03FF (R62), and on a streaming stand what the
Drive keeps in reserve from 0x3600 up, past the stand's spill area (R245). -/
def State.locZero (s : State) (key : Nat) : Bool :=
  let o := locOff key
  let stand := coreStand (locCore key)
  (decide (0x3C0 ≤ o) && decide (o < 0x400)) ||
    (decide (0x3600 ≤ o) && decide (o < 0x4000) && s.streaming stand && decide (0x3600 + s.spillSize stand / 128 ≤ o))

/-- One byte of local memory. -/
def State.locByte (s : State) (key : Nat) : Byte := if s.locZero key then 0 else s.mem.loc.readByte key

/-- Whether a byte of local memory lies in a poisoned word (R60). -/
def State.locBad (s : State) (key : Nat) : Bool := s.mem.locPoison.has (key / 4) && !s.locZero key

/-- n bytes of local memory. -/
def State.locBytes (s : State) (key n : Nat) : List Byte := (List.range n).map fun k => s.locByte (key + k)

/-- Read n bytes of device memory as a number. -/
def State.dramNat (s : State) (pa n : Nat) : Nat := natOfBytes (s.mem.dram.read pa n)

/-- A context's private area is powered down: it reads zero when a later thread starts there (R40, R60). -/
def State.clearPrivate (s : State) (c x : Nat) : State :=
  let lo := locKey c (0x400 + x * 0x1000)
  let p := s.mem.locPoison.filter fun w => !(decide (lo / 4 ≤ w) && decide (w < lo / 4 + 0x400))
  { s with mem := { s.mem with loc := s.mem.loc.clear lo 0x1000, locPoison := p } }

/-! ### The watchdog and thread status -/

/-- Threads of a workgroup. -/
def State.wgThreads (s : State) (l w : Nat) : Table Thread :=
  s.threads.filter fun _ th => th.launch == l && th.wg == w

/-- Whether the workgroup watchdog runs: a thread waits at a barrier, CVWAIT or SYNCW, a matrix entry waits for its
convergence register, or a PRIM.EMIT is held (R51). -/
def State.wgWaiting (s : State) (l w : Nat) : Bool :=
  ((s.wgThreads l w).any fun e =>
    (match e.2.status with
      | .syncw | .barrier .. | .converge .. => true
      | _ => false) || (match e.2.held with
      | .placing .. => true
      | _ => false)) ||
  (s.slots.any fun e => e.2.launch == l && e.2.wg == w && e.2.mq.any fun m => m.wait.isSome)

/-- The workgroup an engine's faulting access belongs to: a flume command's, a texture request's or a task's (R51, R361). -/
def State.whoWg (s : State) (who : Origin) : Option (Nat × Nat) :=
  match who with
  | .flume c => s.clusters.findSome? fun x => x.2.rings.findSome? fun r =>
      (r.2.find? fun k => k.id == c).map fun k => (k.launch, k.wg)
  | .texture q => (s.texReqs.get? q).map fun x => (x.launch, x.wg)
  | .task k => (s.tasks.get? k).map fun x => (x.launch, x.wg)
  | _ => none

/-- A thread parked on a fault record, or waiting at a pop for an access slice that is (R311). -/
def State.countsParked (s : State) (t : Nat) (th : Thread) : Bool :=
  let parked (x : Thread) : Bool := x.status matches .parked _
  match th.home with
  | .skidder _ => false
  | _ => parked th || (th.popWait && s.threads.any fun e => e.2.home == .skidder t && parked e.2)

/-- Whether a parked thread, or an operand fault of the workgroup that is being serviced, pauses the watchdog (R51, R217). -/
def State.wgParked (s : State) (l w : Nat) : Bool :=
  (s.wgThreads l w).any (fun e => s.countsParked e.1 e.2) ||
  s.recs.any fun r => r.2.pending && s.whoWg r.2.who == some (l, w)

/-- Bring a workgroup's watchdog up to date; `reset` when one of its waits has just completed (R51). -/
def State.syncWatch (s : State) (l w : Nat) (reset : Bool) : State :=
  match (s.launch? l).bind fun x => x.wgs.get? w with
  | none => s
  | some g =>
    let g := if reset then { g with watch := none, paused := none } else g
    let g' := if !s.wgWaiting l w then { g with watch := none, paused := none }
      else if s.wgParked l w then
        { g with watch := none, paused := some (g.paused.getD (g.watch.elim 0 fun b => s.gtc - b)) }
      else
        { g with watch := some (g.watch.getD (s.gtc - g.paused.getD 0)), paused := none }
    s.modWg l w fun _ => g'

/-- Set a thread's status, with the watchdog of its workgroup. -/
def State.setStatus (s : State) (t : Nat) (st : Status) : State :=
  match s.thread? t with
  | none => s
  | some th =>
    let completed := st == .ready && (match th.status with
      | .syncw | .barrier .. | .converge .. => true
      | _ => false)
    let replayed := st == .ready && (match th.status with
      | .parked _ => true
      | _ => false)
    let th := if replayed then th.fillAwaited else th
    (s.setThread t { th with status := st }).syncWatch th.launch th.wg completed

/-! ### Removing threads, aborting tasks -/

/-- The key under which a group's skidder issues (R309). -/
def skidKey : Home → Nat
  | .scalar c x => 0x100000 + ctxKey c x
  | .wave e i _ => 0x200000 + slotKey e i
  | _ => 0

/-- The home whose engine and registers a thread uses: its own, or for an access slice its main thread's (R308). -/
def State.homeOf (s : State) (t : Nat) : Home :=
  match (s.thread? t).map Thread.home with
  | some (Home.skidder m) => ((s.thread? m).map Thread.home).getD (.plist 0)
  | some h => h
  | none => .plist 0

/-- The lane mask of threads as a trace entry shows it (R394). -/
def State.laneMask (s : State) (ts : List Nat) : Nat := laneMaskOf (ts.map s.homeOf)

/-- The access slices of a thread's wave, that thread's own for a scalar context (R309). -/
def State.sliceMates (s : State) (m : Nat) : List Nat :=
  let h := s.homeOf m
  (s.threads.filter fun _ th => match th.home with
    | .skidder u => (s.homeOf u).engine == h.engine && (s.homeOf u).group == h.group
    | _ => false).keys

/-- Write a k register: a thread's own, its wave's, or the skidder's, which neither stream of the slices shares (R14,
R309). -/
def State.writeK (s : State) (t n : Nat) (v : W32) : State :=
  match s.thread? t with
  | none => s
  | some th =>
    let put (x : Thread) : Thread := { x with k := x.k.setD n {} { val := v } }
    match th.home with
    | .wave e i _ => s.modSlot e i fun x => { x with k := x.k.setD n {} { val := v } }
    | .skidder m => (s.sliceMates m).foldl (fun s u => s.modThread u put) s
    | _ => s.modThread t put

/-- The key of the issuing unit that runs a thread. -/
def State.issuerOf (s : State) (t : Nat) : Option Nat :=
  match (s.thread? t).map Thread.home with
  | some (Home.skidder _) => some (skidKey (s.homeOf t))
  | some h => h.engine
  | none => none

/-- Take a thread out of the run in progress on its engine (R134). -/
def State.leaveRun (s : State) (t : Nat) : State :=
  match s.issuerOf t with
  | none => s
  | some k =>
    match (s.engine k).run with
    | none => s
    | some r => s.modEngine k fun e => { e with run := some { r with members := r.members.filter (· != t) } }

/-- When every live thread of a wave waits at SYNCW, all are released at once (R18). -/
def State.syncRelease (s : State) (e i : Nat) : State :=
  let ts := s.groupThreads (waveKey e) i
  if ts.all fun t => (s.thread? t).any fun th => th.status == .syncw then
    ts.foldl (fun s t => s.setStatus t .ready) s
  else s

/-- Whether an operation touches a scalar context's private area alone (R60). -/
def inPrivate (h : Home) (o : MemOp) : Bool :=
  match h with
  | .scalar c x => o.parts.all fun p => match p.place with
    | .loc k => locCore k == c && decide (0x400 + 0x1000 * x ≤ locOff k) && decide (locOff k < 0x1400 + 0x1000 * x)
    | _ => false
  | _ => false

/-- Whether an operation loads a row of a slot's tile register or accumulator. -/
def MemOp.inRow (o : MemOp) : Bool :=
  match o.dest with
  | .tileRow .. | .accRow .. => true
  | _ => false

/-- The slot whose row an operation loads. -/
def MemOp.rowSlot (o : MemOp) : Option Nat :=
  match o.dest with
  | .tileRow k .. | .accRow k .. => some k
  | _ => none

/-- A group has left its context or slot: its flume commands go on without it (R156, R213). -/
def State.leaveCmds (s : State) (engine grp : Nat) : State :=
  let clusters := s.clusters.map fun c => (c.1, { c.2 with rings := c.2.rings.map fun r => (r.1, r.2.map fun x =>
    if x.engine == engine && x.group == grp then { x with left := true } else x) })
  { s with clusters := clusters }

/-- After a thread has left a wave: the slot is released when no live thread remains in it (R19, R40), with the row loads still
outstanding in it (R224), and a SYNCW that waited only for the leaver completes (R18). -/
def State.releaseSlot (s : State) (e i : Nat) : State :=
  if (s.groupThreads (waveKey e) i).isEmpty then
    { s.leaveCmds (waveKey e) i with
      slots := s.slots.del (slotKey e i), ops := s.ops.filter fun _ o => o.rowSlot != some (slotKey e i) }
  else s.syncRelease e i

/-- The access slice of a thread that leaves stops wherever it stands (R310). -/
def State.dropSlice (s : State) (t : Nat) : State :=
  (s.threads.filter fun _ th => th.home == .skidder t).keys.foldl (fun s k =>
    let s := s.leaveRun k
    { s with threads := s.threads.del k, ops := s.ops.filter fun _ o => o.tid != k || o.kind == .store }) s

/-- What a thread still asks a place for goes, with the texture request whose reply it is (R163). -/
def State.withdraw (s : State) (t : Nat) : State :=
  match s.outbound.get? t with
  | none => s
  | some m =>
    { s with outbound := s.outbound.del t
             texReqs := if m.unfilled then s.texReqs.filter fun _ q => q.msg != m.seq else s.texReqs }

/-- A thread leaves its home for good: its context or lane is free, its private area powered down unless it is kept,
and results still outstanding will be discarded (R40, R156). -/
def State.removeThread (s : State) (t : Nat) (keepArea : Bool := false) : State :=
  match s.thread? t with
  | none => s
  | some th =>
    let s := (s.leaveRun t).dropSlice t
    let producers := s.producers.filter fun _ q =>
      match q with
      | .special u .. | .laneMax u .. | .accMov u .. => u != t
      | .qxmax .. => true
    -- Stores still on their way to the private area have no effect once it is powered down.
    let ops := s.ops.filter fun _ o => o.tid != t || (o.kind == .store && !(!keepArea && inPrivate th.home o)) || o.inRow
    let s := { s.withdraw t with threads := s.threads.del t, ops := ops, producers := producers }
    match th.home with
    | .scalar c x => if keepArea then s.leaveCmds c x else (s.leaveCmds c x).clearPrivate c x
    | .wave e i _ => s.releaseSlot e i
    | _ => s

/-- The tasks reached from a set by following `next` at most n times. -/
def closure (next : Nat → List Nat) : Nat → List Nat → List Nat
  | 0, acc => acc
  | n + 1, acc => closure next n (acc ++ (acc.flatMap next).filter fun k => !acc.contains k).eraseDups

/-- The children of a task. -/
def State.taskChildren (s : State) (k : Nat) : List Nat := (s.tasks.filter fun _ x => x.parent == some k).keys

/-- The uncommitted tasks that have read a byte from a task's buffer (R273, R275). -/
def State.taskReaders (s : State) (k : Nat) : List Nat := (s.tasks.filter fun _ x => x.deps.has k).keys

/-- A task without what its attempt left: back to nothing but its record (R272). -/
def Task.cleared (x : Task) : Task :=
  { x with buf := [], written := [], pages := [], readGran := [], readBytes := [], deps := [], children := 0, msgs := [],
           dropped := false, keys := [] }

/-- A thread is inside a run of its engine. -/
def State.inRun (s : State) (t : Nat) : Bool := s.engines.any fun e => e.2.run.any fun r => r.members.contains t

/-- A task's attempt is dropped at a run boundary of its thread, which goes (R272, R275). -/
def State.endAttempt (s : State) (k : Nat) (x : Task) (phase : TaskPhase) : State :=
  let s := match x.tid with
    | some t => s.removeThread t
    | none => s
  { s with tasks := s.tasks.put k { x.cleared with phase := phase, tid := none, dead := none } }

/-- Drop one attempt of a task, with attempt + 1 (R272, R275). A thread inside a run goes on to its end, with no effect on any
other; `now` is for one that stops of itself. -/
def State.resetTask (s : State) (k : Nat) (phase : TaskPhase) (now : Bool := false) : State :=
  match s.tasks.get? k with
  | none => s
  | some x =>
    let x := { x with attempt := min 255 (x.attempt + 1) }
    if !now && x.tid.any s.inRun then { s with tasks := s.tasks.put k { x.cleared with dead := some false } }
    else s.endAttempt k x phase

/-- Remove a task entirely (R275 step 3), a running one once its thread's run has ended (R272). -/
def State.discardTask (s : State) (k : Nat) (now : Bool := false) : State :=
  match s.tasks.get? k with
  | none => s
  | some x =>
    if !now && x.tid.any s.inRun then { s with tasks := s.tasks.put k { x.cleared with dead := some true } }
    else
      let s := match x.tid with
        | some t => s.removeThread t
        | none => s
      { s with tasks := s.tasks.del k }

/-- A thread of an aborted attempt has come to its run boundary (R272). -/
def State.endDead (s : State) (k : Nat) : State :=
  match s.tasks.get? k with
  | some x => match x.dead with
    | some true => s.discardTask k true
    | some false => s.endAttempt k x .waiting
    | none => s
  | none => s

/-- A child is discarded and counted, at the core of its attempt where it has had one (R275, R395, log 117). -/
def State.discardChild (s : State) (k : Nat) (now : Bool := false) : State :=
  match s.tasks.get? k with
  | none => s
  | some x =>
    let s := if x.dead == some true || (x.phase == .waiting && x.attempt == 0) then s else s.countEvent x.core 0x2B 1
    s.discardTask k now

/-- Abort a task (R275): its attempt is dropped, every task that read from its buffer is aborted in turn, and the
children of all of them are discarded with their descendants. A committing task is past aborting (R277), and one aborted
already is not aborted again. The task itself goes at once where it has stopped of itself (`own`), and all do where a
pre-emption takes them away (`all`). One that has read a byte from the buffer of a child discarded so, which R275 does not name, is
left alone (DESIGN CHOICE, log 155). -/
def State.abortTask (s : State) (k : Nat) (phase : TaskPhase := .waiting) (src : Nat := 0x29) (own all : Bool := false) : State :=
  match s.tasks.get? k with
  | none => s
  | some x =>
    if x.phase == .committing || x.dead.isSome then s else
    let n := s.tasks.length
    let aborted := (closure (fun j => s.taskReaders j) n [k]).filter fun j => (s.tasks.get? j).all fun y => y.dead.isNone
    let gone := closure (fun j => s.taskChildren j) n (aborted.flatMap fun j => s.taskChildren j)
    let s := s.countEvent x.core src 1
    let s := gone.foldl (fun s j => s.discardChild j all) s
    aborted.foldl (fun s j =>
      if gone.contains j then s
      else if j = k then s.resetTask j phase (own || all)
      else ((s.countEvent ((s.tasks.get? j).elim 0 (·.core)) 0x2A 1)).resetTask j .waiting all) s

/-- A cause of an unclaimed cruise's discard: the first stands alone (R346). -/
def Cruise.cause (c : Cruise) (b : W32) : Cruise := if c.causes = 0 then { c with causes := b } else c

/-- A conflict of a write of bytes `ks` with a task's read set: one that is only false sharing is counted (R95, R275), and the
task aborts. A task that an earlier abort of the same write has taken already is not touched again. -/
def State.conflict (s : State) (ks : List Nat) (e : Nat × Task) : State :=
  if (s.tasks.get? e.1).all fun x => x.attempt != e.2.attempt || x.dead.isSome then s else
  let s := if ks.any e.2.readBytes.has then s else
    (s.modStand e.2.landing fun x => { x with falseShare := x.falseShare + 1 }).countEvent e.2.core 0x2C 1
  s.abortTask e.1

/-- A write by an agent that is not a task of launch `mine` has been performed at the home of these bytes, as one write:
tasks that read one of its granules abort (R274), and unclaimed cruises that read one will be discarded (R346). -/
def State.noteWrites (s : State) (ks : List Nat) (mine : Option Nat := none) : State :=
  let grans := (ks.map (· / 256)).eraseDups
  let hit := s.tasks.filter fun _ x =>
    (mine != some x.launch) && x.phase != .committing && grans.any x.readGran.has
  let cruises := s.cruises.map fun c =>
    if grans.any c.2.readGran.has then (c.1, c.2.cause 1) else c
  hit.foldl (fun s e => s.conflict ks e) { s with cruises := cruises }

/-- A write of n bytes at `pa` has been performed (R274, R346). -/
def State.noteWrite (s : State) (pa n : Nat) (mine : Option Nat := none) : State :=
  s.noteWrites ((List.range n).map fun k => pa + k) mine

/-! ### Lines at their homes -/

/-- The home slice of a line (R69, R70): in tier 0 a slice of the die that owns its stack, else any of the 256 (log 14). -/
def homeSlice (line : Nat) : Nat :=
  let pa := 64 * line
  if pa < 2 ^ 39 then 64 * bits pa 38 37 + Config.homeSlice line % 64 else Config.homeSlice line % 256

/-- The die that homes a byte of device memory. -/
def homeDie (pa : Nat) : Nat := homeSlice (pa / 64) / 64

/-- A home slice that a fence has taken out of its die, once its lines have been rehomed (R385). -/
def State.sliceGone (s : State) (slice : Nat) : Bool := s.pkg.fences.has (11 * 2 ^ 24 + slice) && !s.slicesFenced.has slice

/-- The slice that homes a line now: where its own is gone, another of the die by the hash with such slices skipped (R385). -/
def State.sliceOf (s : State) (line : Nat) : Nat :=
  let k := homeSlice line
  if !s.sliceGone k then k
  else
    let left := ((List.range 64).map fun j => k / 64 * 64 + j).filter fun j => !s.sliceGone j
    left.getD (Config.homeSlice line % left.length) k

/-- Lines from this number on are those of other packages, as `Place.copyAddr` numbers them. -/
def remoteLine : Nat := 2 ^ 45

/-- The slice of a line is being rehomed: its accesses are held (R385). -/
def State.rehoming (s : State) (line : Nat) : Bool := decide (line < remoteLine) && s.slicesFenced.has (s.sliceOf line)

/-- How long past a lease's end its home waits: the skew within a package, or for domain scope (R87, R90, R374). -/
def leaseSkew (line : Nat) : Nat := if line < remoteLine then 4 else 250

/-- A home line may change hands or be written: no owner, no awaited acknowledgement, and every lease has ended, the
exempted stand's aside (R87, R91). -/
def State.lineFree (s : State) (line : Nat) (exempt : Option Nat) : Bool :=
  let h := s.home line
  h.owner.isNone && h.awaitAck.isNone && !s.rehoming line &&
    h.leases.all fun l => some l.1 == exempt || decide (l.2 + leaseSkew line ≤ s.gtc)

/-- A unit of the part may write a line now: no lease, engine or earlier write stands in its way (R87, R91). -/
def State.unitLine (s : State) (line : Nat) : Bool :=
  s.lineFree line none && (s.home line).queue.all fun e => (s.ops.get? e.1).isNone

/-- The lines n bytes at an address lie in. -/
def linesOf (pa n : Nat) : List Nat := (List.range ((pa + n + 63) / 64 - pa / 64)).map fun k => pa / 64 + k

/-- A unit of the part may write n bytes of device memory now (R87, R91). -/
def State.unitFree (s : State) (pa n : Nat) : Bool :=
  (linesOf pa n).all s.unitLine

/-- A line about to be written in part: contents that the decoder could not deliver become poisoned words, and a rewrite that was
scheduled for it is dropped (R380, R381). -/
def State.cleanLine (s : State) (line : Nat) : State :=
  if (s.mem.faulty.get? line).isNone && !s.pkg.rewrite.has line then s else
  let p := if 2 ≤ s.mem.faulty.getD line 0 then (List.range 16).foldl (fun (p : NatSet) w => p.add (16 * line + w)) s.mem.dramPoison
    else s.mem.dramPoison
  { s with
    mem := { s.mem with dramPoison := p, faulty := s.mem.faulty.del line }
    pkg := { s.pkg with rewrite := s.pkg.rewrite.remove line } }

/-- A unit of the part writes bytes to device memory whose lines it found free, performed at their home at once (log 20). -/
def State.unitWrite (s : State) (pa : Nat) (bs : List Byte) (poison : Bool := false) : State :=
  (((linesOf pa bs.length).foldl State.cleanLine s).dramStore pa bs poison).noteWrite pa bs.length

/-- Clocks relock for a new mode: those of the engines at a boundary as it was written, or that of one whose run has ended since
(R399). -/
def State.relocks (s : State) : Bool := s.pkg.relocking || s.pkg.oldMode.any fun e => (s.engine e).run.isNone

/-! ### Event and fault records -/

/-- The bytes of an event record or a log record (R371, R393). -/
def eventBytes (seq type idx src w10 gtc : Nat) : List Byte :=
  bytesOfNat 4 seq ++ bytesOfNat 4 type ++ bytesOfNat 4 idx ++ bytesOfNat 4 src ++ bytesOfNat 8 w10 ++ bytesOfNat 8 gtc

/-- Move a die's waiting event records of a partition into its ring while there is room (R371). -/
def State.flushEvents (s : State) (part : Nat) : Nat → State
  | 0 => s
  | fuel + 1 =>
    let ctl := s.regN (partReg part 0x30)
    let size := 2 ^ (ctl / 256 % 32)
    let prod := s.regN (partReg part 0x34)
    let cons := s.regN (partReg part 0x38)
    if !bit ctl 0 || (prod + 2 ^ 32 - cons) % 2 ^ 32 = size then s else
    match sortBy (fun a => natOfBytes (a.2.2.take 4))
        (s.dies.flatMap fun d => (d.2.eventBuf.filter fun e => e.1 == part).map fun e => (d.1, e)) with
    | [] => s
    | (d, e) :: _ =>
      let pa := s.reg64 (partReg part 0x28) + 32 * (prod % size)
      if !s.unitFree pa 32 then s else
      let s := (s.modDie d fun x => { x with eventBuf := x.eventBuf.erase e }).unitWrite pa e.2
      (s.setRegN (partReg part 0x34) ((prod + 1) % 2 ^ 32)).flushEvents part fuel

/-- Write a record to a partition's event ring, through its die's buffer (R371); `w10` is the doubleword at 0x10. -/
def State.eventWord (s : State) (part die type idx src w10 : Nat) : State :=
  let seq := (s.partition part).evSeq
  let s := s.modPart part fun x => { x with evSeq := x.evSeq + 1 }
  let s := s.modDie die fun x =>
    { x with eventBuf := x.eventBuf ++ [(part, eventBytes seq type idx src w10 s.gtc)] }
  s.flushEvents part 65

/-- Whether what writes event records on a die may go on: its buffer has room for n (R371). -/
def State.eventRoom (s : State) (die : Nat) (n : Nat := 1) : Bool := decide ((s.die die).eventBuf.length + n ≤ 64)

/-- Write an event record with its source package and launch id (R371). -/
def State.eventRecord (s : State) (part die type idx src pkg launch : Nat) : State :=
  s.eventWord part die type idx src (pkg % 2 ^ 22 + launch * 2 ^ 32)

/-- A register of the physical function's log (R393). -/
def pfReg (off : Nat) : Nat := 0x6100400 + off

/-- Move waiting records into the physical function's log while there is room (R393). -/
def State.flushLog (s : State) : Nat → State
  | 0 => s
  | fuel + 1 =>
    let ctl := s.regN (pfReg 8)
    let size := 2 ^ (ctl / 256 % 32)
    let prod := s.regN (pfReg 0xC)
    if !bit ctl 0 || (prod + 2 ^ 32 - s.regN (pfReg 0x10)) % 2 ^ 32 = size then s else
    match s.pkg.pfBuf with
    | [] => s
    | e :: r =>
      let pa := s.reg64 (pfReg 0) + 32 * (prod % size)
      if !s.unitFree pa 32 then s else
      let s := { s with pkg := { s.pkg with pfBuf := r } }.unitWrite pa e
      (s.setRegN (pfReg 0xC) ((prod + 1) % 2 ^ 32)).flushLog fuel

/-- Whether what writes n records to the log may go on: as many wait as the event ring's buffer holds (R371, R393). -/
def State.logRoom (s : State) (n : Nat := 1) : Bool := decide (s.pkg.pfBuf.length + n ≤ 64)

/-- Write a record to the physical function's log (R386, R393). -/
def State.logWord (s : State) (type idx src w10 : Nat) : State :=
  let e := eventBytes s.pkg.pfSeq type idx src w10 s.gtc
  let s := { s with pkg := { s.pkg with pfSeq := s.pkg.pfSeq + 1, pfBuf := s.pkg.pfBuf ++ [e] } }
  s.flushLog (s.pkg.pfBuf.length + 1)

/-- Discard a message with its count and record (R33, R162). -/
def State.discardMsg (s : State) (m : Msg) (type : Nat) : State :=
  (s.bumpReg (partReg m.part 0x40) 1).eventRecord m.part (coreDie m.core) type m.index m.srcCore m.srcPkg
    (s.launchId m.launch)

/-- A fault record's bytes (R360). -/
def FRec.bytes (r : FRec) : List Byte :=
  let w4 := r.kind + r.source * 256 + r.auto.toNat * 2 ^ 16 + r.write.toNat * 2 ^ 17 + r.atomic.toNat * 2 ^ 18 +
    r.refused.toNat * 2 ^ 19 + r.phys.toNat * 2 ^ 20
  let pasid := match r.pasid with
    | some p => p + 2 ^ 20
    | none => 0
  let prg := match r.prg with
    | some p => p + 2 ^ 9
    | none => 0
  bytesOfNat 4 r.seq ++ bytesOfNat 4 w4 ++ bytesOfNat 8 r.page ++ bytesOfNat 8 r.addr ++ bytesOfNat 4 r.launch ++
    bytesOfNat 4 pasid ++ bytesOfNat 4 r.lanes ++ bytesOfNat 4 (r.stand + r.wave.toNat * 2 ^ 11 + r.slot * 2 ^ 12) ++
    bytesOfNat 8 r.pc.toNat ++ bytesOfNat 8 r.gtc ++ bytesOfNat 4 prg ++ bytesOfNat 4 r.count

/-- The key of record `seq` of a partition. -/
def recKey (part seq : Nat) : Nat := part * 2 ^ 32 + seq % 2 ^ 32

/-- Whether a partition's fault queue takes a record now (R359). -/
def State.fqRoom (s : State) (part : Nat) : Bool :=
  let ctl := s.regN (transReg part 0x18)
  let used := (s.regN (transReg part 0x1C) + 2 ^ 32 - s.regN (transReg part 0x20)) % 2 ^ 32
  bit ctl 0 && decide (used < 2 ^ (ctl / 256 % 32))

/-- Whether faulting instructions on a die may go on: its fault buffer has room for n records (R359). -/
def State.faultRoom (s : State) (die : Nat) (n : Nat := 1) : Bool := decide ((s.die die).faultBuf.length + n ≤ 256)

/-- Records of a partition that wait in die buffers, in SEQ order. -/
def State.bufferedRecs (s : State) (part : Nat) : List (Nat × Nat) :=
  sortBy (·.1) (s.dies.flatMap fun d => (d.2.faultBuf.filter fun k => k / 2 ^ 32 == part).map fun k => (k, d.1))

/-- Where the next record of the fault queue goes (R359). -/
def State.fqPlace (s : State) (part : Nat) : Nat :=
  let size := 2 ^ (s.regN (transReg part 0x18) / 256 % 32)
  s.reg64 (transReg part 0x10) + 64 * (s.regN (transReg part 0x1C) % size)

/-- Whether the record may be written there now (R87, R359). -/
def State.fqOpen (s : State) (part : Nat) : Bool := s.fqRoom part && s.unitFree (s.fqPlace part) 64

/-- Write one record into the fault queue and advance FQPROD (R359). -/
def State.fqWrite (s : State) (part : Nat) (r : FRec) : State :=
  let prod := s.regN (transReg part 0x1C)
  let s := s.unitWrite (s.fqPlace part) r.bytes
  s.setRegN (transReg part 0x1C) ((prod + 1) % 2 ^ 32)

/-- Move waiting records into the queue while there is room (R359). -/
def State.flushFaults (s : State) (part : Nat) : Nat → State
  | 0 => s
  | fuel + 1 =>
    if !s.fqOpen part then s else
    match s.bufferedRecs part with
    | [] => s
    | (k, d) :: _ =>
      let s := s.modDie d fun x => { x with faultBuf := x.faultBuf.erase k }
      let s := match s.recs.get? k with
        | some p => s.fqWrite part p.fr
        | none => s
      s.flushFaults part fuel

/-- The keys of faults whose Page Request still waits for a PRG index begin here (R357). -/
def waitingPageKey : Nat := 2 ^ 40

/-- The watchdog of the workgroup an engine's fault belongs to takes note of it (R51). -/
def State.watchWho (s : State) (who : Origin) : State :=
  match s.whoWg who with
  | some (l, w) => s.syncWatch l w false
  | none => s

/-- Keep a fault whose Page Request waits for a PRG index: what it stops waits on it, and its record is written when an
index is free (R357). -/
def State.keepPageFault (s : State) (part : Nat) (r : FRec) (who : Origin) : Nat × State :=
  let (k, s) := s.fresh
  let key := waitingPageKey + k
  (key, ({ s with recs := s.recs.put key { part := part, fr := { r with gtc := s.gtc }, who := who } }).watchWho who)

/-- Raise a fault record (R359-R361): it takes the next SEQ, is kept with who waits on it, and goes to the queue or
waits in its die's buffer. The key of the record is returned. A record that is to name a Page Request and has none yet is
not written now (R357). -/
def State.raiseFault (s : State) (part die : Nat) (r : FRec) (who : Origin) : Nat × State :=
  if r.auto && r.prg.isNone then s.keepPageFault part r who else
  let seq := (s.partition part).seq
  let r := { r with seq := seq % 2 ^ 32, gtc := if r.gtc = 0 then s.gtc else r.gtc }
  let key := recKey part seq
  let s := s.modPart part fun x => { x with seq := x.seq + 1 }
  let s := { s with recs := s.recs.put key { part := part, fr := r, who := who, pending := decide (r.kind < 0x10) } }
  let s := if s.fqOpen part && (s.bufferedRecs part).isEmpty then s.fqWrite part r
    else
      -- A record that only its line's leases keep waiting raises no bit of FQSTAT.
      let bitv : W32 := if s.fqRoom part then 0 else if bit (s.regN (transReg part 0x18)) 0 then 1 else 4
      (s.modDie die fun x => { x with faultBuf := x.faultBuf ++ [key] }).orReg (transReg part 0x24) bitv
  (key, s.watchWho who)

/-- Write the records of the queues, rings and the log that have waited for their lines (R87). -/
def State.flushUnits (s : State) : State :=
  let parts := (s.dies.flatMap fun d => d.2.faultBuf.map (· / 2 ^ 32) ++ d.2.eventBuf.map (·.1)).eraseDups
  let s := parts.foldl (fun (s : State) p => (s.flushFaults p 257).flushEvents p 65) s
  s.flushLog (s.pkg.pfBuf.length + 1)

/-- Report kinds 0x10-0x14: a second event of the same kind, page and origin within 1 ms coalesces (R361). -/
def State.reportFault (s : State) (part die : Nat) (r : FRec) : State :=
  let same := s.recs.find? fun _ p =>
    p.part == part && p.fr.kind == r.kind && p.fr.page == r.page && p.fr.stand == r.stand && p.fr.slot == r.slot &&
      p.fr.wave == r.wave && p.fr.source == r.source && decide (s.gtc < p.fr.gtc + 1000000)
  match same with
  | some (k, p) =>
    if r.kind ≤ 0x12 then
      let p' := { p with fr := { p.fr with count := min 65535 (p.fr.count + 1) } }
      { s with recs := s.recs.put k p' }
    else (s.raiseFault part die r .none).2
  | none => (s.raiseFault part die r .none).2

/-- The STAND, WAVE and SLOT fields of a thread's fault record (R360). -/
def Home.originFields (h : Home) : Nat × Bool × Nat :=
  match h with
  | .wave e i _ => (h.stand, true, e % 2 + i * 2)
  | .scalar c x => (h.stand, false, indexOfCore c + x * 128)
  | _ => (h.stand, false, 0)

/-! ### Traps -/

/-- The core index of a fatal trap's thread within its stand, or its slot with the engine (R360, R390). -/
def Fatal.index (f : Fatal) : Nat := if f.wave then f.slot else f.slot % 128

/-- Whether one fatal trap was detected before another (R390): by GTC, then stand, then core index or slot. -/
def Fatal.before (a b : Fatal) : Bool :=
  if a.time ≠ b.time then decide (a.time < b.time)
  else if a.stand ≠ b.stand then decide (a.stand < b.stand)
  else decide (a.index < b.index)

/-- A launch meets a fatal trap (R52): it begins to die; the one detected first is recorded, the others are counted
(R390). In an unclaimed cruise nothing is recorded but the cause of its discard (R346). -/
def State.fatalLaunch (s : State) (l : Nat) (f : Fatal) : State :=
  match (s.launch? l).bind (·.cruise) with
  | some c => { s with cruises := s.cruises.mod c fun x => x.cause 0x40 }
  | none => s.modLaunch l fun x =>
    let f := { f with time := s.gtc }
    match x.fatal with
    | some e => { x with fatal := some (if f.before e then f else e), fatalMore := min 0xFFFFFFFF (x.fatalMore + 1) }
    | none => { x with fatal := some f, phase := .dying }

/-- Whether a launch is a cruise not claimed yet (R343). -/
def State.unclaimed (s : State) (l : Nat) : Bool := ((s.launch? l).bind (·.cruise)).isSome

/-- A fatal trap of a thread (R47, R52). -/
def State.fatalTrap (s : State) (t cause : Nat) (info : W32) : State :=
  match s.thread? t with
  | none => s
  | some th =>
    let (st, wv, sl) := th.home.originFields
    let f : Fatal :=
      { cause := cause, tid := some t, wg := th.wg, stand := st, wave := wv, slot := sl, lane := th.home.lane, pc := th.pc
        info := info }
    ((s.leaveRun t).fatalLaunch th.launch f).setStatus t .stopped

/-- The ring entry of a delivered or fatal trap of a thread (R394). -/
def State.traceTrap (s : State) (th : Thread) (cause : Nat) (info : W32) : State :=
  s.trace (th.home.engine.getD 0) (th.home.group.getD 0) 6 (th.pc.toNat % 2 ^ 32) cause info.toNat (2 ^ th.home.lane)

/-- A trap inside a task (R278): the attempt is discarded; any cause but 0x05 charges the tally, and past the
launch's retry count the launch ends with that cause. -/
def State.taskTrap (s : State) (t k cause : Nat) (info : W32) : State :=
  match s.tasks.get? k, s.thread? t with
  | some x, some th =>
    if x.dead.isSome then s.endDead k else
    let tally := x.tally + 1
    if tally ≤ (s.lrec x.launch).retries then
      let s := { s with tasks := s.tasks.put k { x with tally := tally, avoid := some (coreCluster x.core) } }
      s.abortTask k .waiting 0 true
    else
      let s := ((s.thread? t).elim s fun th => s.traceTrap th cause info).fatalTrap t cause info
      let x' := { x with tally := tally, phase := .faulted, tid := some t, core := th.home.refCore }
      { s with tasks := s.tasks.put k x' }
  | _, _ => s

/-- Raise a trap for a thread (R46-R48, R164): delivered to the launch's trap handler with $epc, $ecause, $einfo and
$tstate[0] set, or fatal where R47 says so, where a handler already runs (cause 0x0E), or where the launch names no
handler; in a task the attempt is discarded instead (R278), and any trap of an unclaimed cruise discards the cruise (R346).
The thread leaves the run (R134). Cause 0x07 has
reported the lost stores (R208). -/
def State.trapMain (s : State) (t cause : Nat) (info : W32) : State :=
  match s.thread? t with
  | none => s
  | some th =>
    let key := (th.home.engine).getD 0
    let s := s.withdraw t
    let s := if cause = 4 then s.countEvent key 0x19 1 else s
    if s.unclaimed th.launch then s.fatalTrap t cause info else
    match th.taskOf with
    | some k => s.taskTrap t k cause info
    | none =>
      let handler := (s.lrec th.launch).trap
      if th.inTrap then (s.traceTrap th 0x0E info).fatalTrap t 0x0E info
      else if 0x0A ≤ cause ∨ handler = 0 then (s.traceTrap th cause info).fatalTrap t cause info
      else
        let s := (s.traceTrap th cause info).leaveRun t
        let th' : Thread :=
          { th with epc := th.pc, ecause := BitVec.ofNat 32 cause, einfo := info, inTrap := true,
                    pc := BitVec.ofNat 64 handler, lastPage := none, held := .none, awaited := []
                    lost := if cause = 7 then 0 else th.lost }
        s.setThread t th'.dropCand

/-- An access slice stops for good. Its loads into queues still outstanding fill their entries as its thread's own; those into
its own registers are discarded (R309, R310). -/
def State.stopSlice (s : State) (t : Nat) : State :=
  match (s.thread? t).map Thread.home with
  | some (Home.skidder m) =>
    let queued (o : MemOp) : Bool := match o.dest with
      | .regs d .. | .typed d _ => decide (60 ≤ d) && decide (d < 64)
      | _ => false
    let at' := (s.thread? t).elim 0 (·.pc)
    (({ s with ops := s.ops.map fun (o : Nat × MemOp) =>
        if o.2.tid == t && queued o.2 then (o.1, { o.2 with tid := m }) else o }).removeThread t).modThread m fun th =>
      { th with slicePc := at' }
  | _ => s

/-- Raise a trap for a thread. A trap of an access slice stops the skidder and is delivered to its thread, with $epc
naming the access slice's PC; ERET then resumes the execute slice (R311). -/
def State.trap (s : State) (t cause : Nat) (info : W32) : State :=
  match s.thread? t with
  | some { home := .skidder m, pc := pc, .. } =>
    let s := s.stopSlice t
    let at' := (s.thread? m).elim 0 (·.pc)
    let before := (s.thread? m).any (·.inTrap)
    let s := (s.modThread m fun th => { th with pc := pc }).trapMain m cause info
    s.modThread m fun th => if th.inTrap && !before then { th with resume := some at' } else { th with pc := at' }
  | _ => s.trapMain t cause info

/-- Return from a trap (R164): $tstate[0] is cleared and the thread resumes at $epch:$epc, after a trap of its access slice
where its execute slice stands (R311). -/
def State.eret (s : State) (t : Nat) : State :=
  s.modThread t fun th => { th with inTrap := false, pc := th.resume.getD th.epc, resume := none }

/-- A skidder parks as a whole: the slices of the other lanes wait on the record that has parked one of them (R309, R311). -/
def State.parkMates (s : State) (tids : List Nat) (key : Nat) : State :=
  match (tids.head?.bind s.thread?).map Thread.home with
  | some (Home.skidder m) =>
    let mates := (s.sliceMates m).filter fun u => !tids.contains u && (s.thread? u).any fun th => th.status == .ready
    let s := mates.foldl (fun s u => (s.leaveRun u).setStatus u (.parked key)) s
    { s with recs := s.recs.mod key fun p => match p.who with
      | .threads ts f => { p with who := .threads (ts ++ mates) f }
      | _ => p }
  | _ => s

/-- Park threads of one group on one fault record (R49); the run goes on without them. The record's page, address and
kind are given; LANES, origin and PC come from the threads. A translation fault of an unclaimed cruise writes no record: it
discards the cruise (R346). -/
def State.park (s : State) (tids : List Nat) (kind page addr source : Nat) (write atomic : Bool)
    (pasid : Option Nat := none) (auto : Bool := false) (prg : Option Nat := none) : State :=
  match tids.head?.bind s.thread? with
  | none => s
  | some th =>
    if s.unclaimed th.launch then
      tids.foldl (fun s t => (s.leaveRun t).setStatus t .stopped) (s.fatalLaunch th.launch { cause := 5 })
    else if (th.taskOf.bind s.tasks.get?).any fun x => x.dead.isSome then th.taskOf.elim s s.endDead
    else
    let (st, wv, sl) := (s.homeOf (tids.headD 0)).originFields
    let lanes := s.laneMask tids
    let fetch := source == 1
    let source := match th.home with
      | .skidder _ => if source = 0 then 4 else source
      | _ => if th.taskOf.isSome then 6 else source
    let who : Origin := match th.taskOf with
      | some k => .task k
      | none => .threads tids fetch
    let r : FRec :=
      { seq := 0, kind := kind, source := source, write := write, atomic := atomic, page := page, addr := addr,
        launch := s.launchId th.launch, pasid := pasid, lanes := lanes, stand := st, wave := wv, slot := sl,
        pc := th.pc, auto := auto, prg := prg }
    let (key, s) := s.raiseFault th.part (standDie st) r who
    (tids.foldl (fun s t =>
      let s := s.countEvent ((s.homeOf t).engine.getD 0) 0x18 1
      match (s.thread? t).bind (·.taskOf) with
      | some k => s.abortTask k .faulted 0 true
      | none => (s.leaveRun t).modThread t (fun th => th.awaited.foldl Thread.emptyG th) |>.setStatus t (.parked key)) s).parkMates
    tids key

/-! ### Launches that stop -/

/-- A render launch still has a final tile to write back, for which its pre-emption waits (R292). -/
def State.drains (s : State) (l : Nat) : Bool := s.tiles.any fun e => e.1 / 2 ^ 32 == l && e.2.final && !e.2.done

/-- A launch's threads stop at their run boundaries: it dies, or is pre-empted (R52, R338). -/
def State.stopping (s : State) (l : Nat) : Bool :=
  match (s.launch? l).map Launch.phase with
  | some LaunchPhase.dying => true
  | some LaunchPhase.preempting => !s.drains l
  | _ => false

/-- A launch is being pre-empted: its running batches finish all the same (R263). -/
def State.preempts (s : State) (l : Nat) : Bool := (s.launch? l).any fun x => x.phase == .preempting

/-- Whether a launch runs: nothing new of it starts otherwise (R338). -/
def State.launchRuns (s : State) (l : Nat) : Bool := (s.launch? l).any fun x => x.phase == .running

end Sys2Proof.Machine
end

