-- ==== Sys2Proof/Machine/Gather.lean ====
section
/-!
DEFINITION. The gatherer (01 R19-R29): pockets, the pocket list, the wave queue and the spill area; filing a thread;
releasing a wave; re-filing a thread that meets an absent feature.
-/

namespace Sys2Proof.Machine

namespace State

/-- Bytes of a stand's spill area in use (R25): pocket-list records, threads waiting for a context, released waves,
and the landing's records beyond its 512 on chip (R271). The records do not show in the area's bytes (DESIGN CHOICE, log 125). -/
def spillUsed (s : State) (stand : Nat) : Nat :=
  let st := s.stand stand
  let waiting := (s.tasks.filter fun _ x => x.landing == stand && (x.phase == .waiting || x.phase == .faulted)).length
  (st.plist.length + st.waitCtx.length) * Config.spillBytes 0 +
    (st.waveQ.filter fun w => w.engine.isNone).length * Config.spillBytes 1 + (waiting - 512) * 128

/-- Whether the spill area takes another record of a kind: 0 pocket list, 1 wave queue. -/
def spillRoom (s : State) (stand kind : Nat) : Bool :=
  decide (s.spillUsed stand + Config.spillBytes kind ≤ s.spillSize stand)

/-- Register pool of a wave engine in use, in bytes (R71). -/
def poolUsed (s : State) (e : Nat) : Nat :=
  (s.slots.filter fun k _ => k / 32 == e).foldl (fun n x => n + x.2.grant) 0

/-- A balancer move drains a stand: it takes no placement, batch, shading dispatch or task of the side it leaves (R283). -/
def standMoves (s : State) (stand : Nat) : Bool := (s.die (standDie stand)).move.any fun m => m.1 == stand

/-- Nothing new is placed on a stand: a change of its owner or side is pending, or it is fenced (R283, R370, R385). -/
def standShut (s : State) (stand : Nat) : Bool :=
  s.standMoves stand || (s.stand stand).pendingOwn.isSome || (s.stand stand).fenced

/-- A wave engine that a fence has taken out of use (R385, R386). -/
def engineFenced (s : State) (e : Nat) : Bool := bit (s.regN (0x6100200 + e / 32 * 4)) (e % 32)

/-- A wave engine is in use and has a free slot, pool room and, where asked, a tile quarter (R313, R385). -/
def engineTakes (s : State) (e grant : Nat) (tile : Bool) : Bool :=
  let slots := s.slots.filter fun k _ => k / 32 == e
  !s.engineFenced e && decide (slots.length < 32) && decide (s.poolUsed e + grant ≤ 524288) &&
    (!tile || decide ((slots.filter fun _ x => x.quarter.isSome).length < 4))

/-- A waiting wave may start: its launch goes on; of a launch that is pre-empted only shading threads start, for tiles that
are final already, and traversal threads of a running batch (R52, R263, R292, R338). -/
def waveGoes (s : State) (launch : Nat) (members : List Nat) : Bool :=
  (s.launch? launch).any fun l =>
    l.phase == .running || l.phase == .pending ||
      (l.phase == .preempting && members.any fun t => (s.thread? t).any fun th => th.isShading || th.ray.isSome)

/-- When a pocket became, or becomes, due to release a wave: when it came to hold 32 threads, or when its oldest thread
passed the age limit (R21). -/
def pocketDueAt (s : State) (p : Pocket) : Nat :=
  let limit := (s.lrec p.launch).agelimit
  let aged := p.members.map fun t => ((s.thread? t).map fun th => th.filed + limit + 1).getD 0
  let oldest := aged.foldl min (aged.headD 0)
  if 32 ≤ p.members.length then min p.full oldest else oldest

/-- A wave joins a stand's wave queue, which stands in the order in which its waves became due (R43). -/
def queueWave (s : State) (stand : Nat) (w : WaveRec) : State :=
  s.modStand stand fun x =>
    { x with waveQ := (x.waveQ.takeWhile fun o => decide (o.due ≤ w.due)) ++ w :: x.waveQ.dropWhile fun o => decide (o.due ≤ w.due) }

/-- Where the gatherer puts a member of a key: the pocket the hash and the probing of R20 choose. -/
def pocketFor (s : State) (stand launch wg : Nat) (pc : W64) : Option Nat :=
  let ps := (s.stand stand).pockets
  let h := Config.pocketHash (s.launchId launch) wg pc.toNat % 64
  let fits (i : Nat) : Bool :=
    match ps.get? i with
    | some p => p.launch == launch && p.wg == wg && p.pc == pc && decide (p.members.length < 32)
    | none => false
  if fits h || (ps.get? h).isNone then some h else
  let order := (List.range 63).map fun k => (h + 1 + k) % 64
  match order.find? fits with
  | some i => some i
  | none => order.find? fun i => (ps.get? i).isNone

/-- A pocket is due to release: it is full, or its oldest thread has waited past the age limit (R21). -/
def pocketDue (s : State) (p : Pocket) : Bool := decide (s.pocketDueAt p ≤ s.clock.arith)

/-- A pocket of a stand that has been due to release since before a time, or since then with a lower number, and still waits: what
frees is its own first (R24, R43). -/
def pocketAhead (s : State) (stand due idx : Nat) : Bool :=
  (s.stand stand).pockets.any fun e =>
    let d := s.pocketDueAt e.2
    s.pocketDue e.2 && s.waveGoes e.2.launch e.2.members && (decide (d < due) || (d == due && decide (e.1 < idx)))

/-- Whether a wave that became due at a time may be released, from a pocket of the number given: wave-queue room is free, or a slot
that no wave due before it is to take; no pocket due before it waits (R21, R24, R43). -/
def canRelease (s : State) (stand launch due : Nat) (idx : Nat := 64) : Bool :=
  let r := s.lrec launch
  let st := s.stand stand
  !s.pocketAhead stand due idx && ((!(st.waveQ.any fun w => decide (w.due ≤ due) && s.waveGoes w.launch w.members) &&
    (s.engineTakes (2 * stand) r.grant r.tile || s.engineTakes (2 * stand + 1) r.grant r.tile)) || s.spillRoom stand 1)

/-- Release a pocket as a wave: it joins the wave queue, and the pocket is free at once (R21). -/
def releasePocket (s : State) (stand idx : Nat) : State :=
  match (s.stand stand).pockets.get? idx with
  | none => s
  | some p =>
    let due := s.pocketDueAt p
    if !s.canRelease stand p.launch due idx then s else
    let w : WaveRec :=
      { launch := p.launch, wg := p.wg, pc := p.pc, members := p.members, due := due
        part := ((s.launch? p.launch).map (·.part)).getD 0 }
    let s := (s.modStand stand fun x => { x with pockets := x.pockets.del idx }).queueWave stand w
    p.members.foldl (fun s t => s.modThread t fun th => { th with home := .queued stand }) s

/-- A thread joins a pocket, which releases when it holds 32 (R20, R21). -/
def joinPocket (s : State) (stand idx t launch wg : Nat) (pc : W64) : State :=
  let s := s.modThread t fun th => { th with home := .pocket stand idx }
  let s := s.modStand stand fun x =>
    let p := x.pockets.getD idx { launch := launch, wg := wg, pc := pc, members := [] }
    let p' : Pocket := { p with members := p.members ++ [t], full := if p.members.length = 31 then s.clock.arith else p.full }
    { x with pockets := x.pockets.put idx p' }
  if ((s.stand stand).pockets.get? idx).any fun p => decide (32 ≤ p.members.length) then s.releasePocket stand idx
  else s

/-- Put a thread that has left its home into a pocket or, failing that, on the pocket list. -/
def placeInPocket (s : State) (stand t launch wg : Nat) (pc : W64) : State :=
  match s.pocketFor stand launch wg pc with
  | some i => s.joinPocket stand i t launch wg pc
  | none =>
    (s.modThread t fun th => { th with home := .plist stand }).modStand stand fun x => { x with plist := x.plist ++ [t] }

/-- Whether filing under a key can complete now: a pocket qualifies, or the pocket list has room (R20, R24). -/
def fileRoom (s : State) (stand launch wg : Nat) (pc : W64) : Bool :=
  (s.pocketFor stand launch wg pc).isSome || s.spillRoom stand 0

/-- Pockets that free are filled from the pocket list, the oldest first (R20). -/
def refillPockets (s : State) (stand : Nat) : Nat → State
  | 0 => s
  | fuel + 1 =>
    let ready := (s.stand stand).plist.find? fun t =>
      match s.thread? t with
      | some th => (s.pocketFor stand th.launch th.wg th.pc).isSome
      | none => false
    match ready with
    | none => s
    | some t =>
      match s.thread? t with
      | none => s
      | some th =>
        let s := s.modStand stand fun x => { x with plist := x.plist.erase t }
        (s.placeInPocket stand t th.launch th.wg th.pc).refillPockets stand fuel

/-- Refill after a pocket has been freed. -/
def refill (s : State) (stand : Nat) : State := s.refillPockets stand ((s.stand stand).plist.length + 1)

/-- When a group halts or leaves its home, its queued guarded commands take their slots with them: one resolved true lets its
command run, one that is false or still unresolved discards it (R222, R312). -/
def resolveGuards (s : State) (engine grp : Nat) : State :=
  let falsify (resolved : Table Bool) (c : FlumeCmd) : FlumeCmd :=
    match c.guard with
    | some g =>
      if c.engine == engine && c.group == grp then
        { c with guard := if resolved.get? g = some true then none else some (g % 16 + 16) }
      else c
    | none => c
  let resolved : Table Bool :=
    if isWaveKey engine then ((s.slot? (waveOf engine) grp).map (·.gs)).getD []
    else ((s.threadIn engine grp).bind s.thread?).elim [] (·.gs)
  let clusters := s.clusters.map fun c =>
    let rings := c.2.rings.map fun r => (r.1, r.2.map (falsify resolved))
    (c.1, { c.2 with rings := rings })
  { s with clusters := clusters }

/-- A thread leaves its context or lane to be filed: it keeps g, p, flags and generator (R26); a scalar thread's k,
mailbox and queues stay behind, as do a wave's k registers. Its last-page register is cleared (R354). -/
def leaveHome (s : State) (t : Nat) (pc : W64) : State :=
  match s.thread? t with
  | none => s
  | some th =>
    let s := s.leaveRun t
    let s := match th.home with
      | .scalar c x => s.resolveGuards c x
      | _ => s
    let th' : Thread :=
      { th with home := .queued th.home.stand, pc := pc, k := [], mb := [], oq := [], carry := false, lastPage := none,
                held := .none, gs := [], filed := s.clock.arith, status := .ready
                signed := th.signed.filter (fun k _ => decide (16 ≤ k)) }
    let s := s.setThread t th'.dropCand
    match th.home with
    | .wave e i _ => s.releaseSlot e i
    | _ => s

/-- File a thread under the key (its launch, its workgroup, pc) in a stand's gatherer (R19-R22). None when neither a
pocket nor spill room is free (R24). -/
def file (s : State) (t stand : Nat) (pc : W64) : Option State :=
  match s.thread? t with
  | none => none
  | some th =>
    if s.fileRoom stand th.launch th.wg pc then
      let old := th.home.stand
      let s := (s.leaveHome t pc).modThread t fun x => if old = stand then x else { x with moved := (old, s.nextId) :: x.moved }
      some ((s.placeInPocket stand t th.launch th.wg pc).refill stand)
    else none

/-- The feature mask of an engine (R28). -/
def fmask (s : State) (key : Nat) : W32 := (if isWaveKey key then 0x3F#32 else 0x23#32) &&& ~~~(s.engine key).fenced

/-- Whether a slot holds live tile or accumulator state (R27, R224). -/
def slotLive (s : State) (e i : Nat) : Bool :=
  match s.slot? e i with
  | some x => x.m.any (fun m => m.2.live) || x.acc.any (fun a => a.2.live)
  | none => false

/-- What becomes of a thread that meets an instruction whose feature its engine lacks (R29): the stand whose gatherer
takes it, or none when it raises the absent-feature trap. -/
def refileStand (s : State) (t feature : Nat) : Option Nat :=
  match s.thread? t with
  | none => none
  | some th =>
    let own := th.home.stand
    let translatable := !th.sliced &&
      (match th.home with
        | .wave e i _ => !s.slotLive e i
        | _ => true)
    if !translatable then none else
    let target :=
      match th.home with
      | .scalar _ _ =>
        if 2 ≤ feature ∧ feature ≤ 4 then some own
        else if (s.fmask (waveKey (2 * own))).getLsbD feature || (s.fmask (waveKey (2 * own + 1))).getLsbD feature then
          some own
        else (s.stand own).alternate
      | .wave _ _ _ => (s.stand own).alternate
      | _ => none
    match target with
    | some n => if th.ray.isSome && n != own then none else some n
    | none => none

end State

end Sys2Proof.Machine
end

