-- ==== Sys2Proof/Machine/Operands.lean ====
section
/-!
DEFINITION. Operand forms: constant-window words (02 R62-R65), register files and their ranges (05 R129), reading
sources and writing destinations with full, empty and poison bits (R125, R126), the uniform datapath (R128) and the
operand queues of sliced kernels (R127, R309, R310).
-/

namespace Sys2Proof.Machine

/-- The fields of R118 that name operands, coded as $einfo codes them (R165). -/
inductive Fld where
  | d | a | b | c | x
deriving DecidableEq, Repr

/-- The code of a field in $einfo (R165). -/
def Fld.code : Fld → Nat
  | .d => 0 | .a => 1 | .b => 2 | .c => 3 | .x => 4

/-- The FT bit of a field read as a source (R118); the mailbox registers a POST reads have none and block (R23). -/
def Fld.ft (f : Fld) (i : Ins) : Bool :=
  i.op != .post && match f with
  | .a => i.w.ft.getLsbD 0
  | .b => i.w.ft.getLsbD 1
  | .c => i.w.ft.getLsbD 2
  | .d | .x => i.w.ft.getLsbD 3

/-- The value of a field. -/
def Fld.val (f : Fld) (i : Ins) : Nat :=
  match f with
  | .d => i.d | .a => i.a | .b => i.b | .c => i.c | .x => i.x

/-- The use of a field by an instruction, after a literal or a constant word has taken a source's place (R119). -/
def Fld.use (f : Fld) (i : Ins) (wave : Bool) : Use :=
  let u := i.fields wave
  let r := u.replaced i
  match f with
  | .d => u.d | .a => u.a | .b => r.1 | .c => r.2
  | .x => if i.w.kb then .unused else u.x

/-- All the operand fields, in the order sources are read (R127: A, B, C, D, X). -/
def Fld.order : List Fld := [.a, .b, .c, .d, .x]

namespace State

/-- Identity word n (240-255) of a thread (R64). -/
def identityWord (s : State) (t n : Nat) : W32 :=
  match s.thread? t with
  | none => 0
  | some th =>
    let h := s.homeOf t
    let st := h.stand
    let v : Nat :=
      match n with
      | 240 => coreX h.refCore
      | 241 => coreY h.refCore
      | 242 => standDie st
      | 243 => if h.isWave then 0 else coreCluster h.refCore
      | 244 => st
      | 245 =>
        match h with
        | .wave e i l => l + i * 32 + e % 2 * 1024 + 2 ^ 31
        | .scalar _ x => x
        | _ => 0
      | 246 => s.launchId th.launch
      | 247 => th.wg
      | _ => th.coords.getD (n - 248) 0
    BitVec.ofNat 32 v

/-- Constant-window word n as a thread reads it: stored words of its core or slot with their poison, identity words
never poisoned (R62, R64, R65). -/
def constWord (s : State) (t n : Nat) : Reg :=
  if 240 ≤ n then { val := s.identityWord t n } else
  match s.homeOf t with
  | .wave e i _ => ((s.slot? e i).map (fun x => x.consts.getD n {})).getD {}
  | .scalar c _ =>
    let key := locKey c (4 * n)
    { val := BitVec.ofNat 32 (natOfBytes (s.locBytes key 4)), poison := s.mem.locPoison.has (key / 4) }
  | _ => {}

/-- How many registers of a file exist for a thread (R129). -/
def fileSize (s : State) (t : Nat) (f : RFile) : Nat :=
  match s.thread? t with
  | none => 0
  | some th =>
    let h := s.homeOf t
    match f, h with
    | .g, .wave e i _ => [64, 96, 128, 192, 256].getD (((s.slot? e i).map (·.genCode)).getD 0) 64
    | .g, _ => 64
    | .p, _ => 8
    | .k, _ => 64
    | .mb, .scalar _ _ => 8
    | .mb, _ => 0
    | .tile, .wave e i _ => if ((s.slot? e i).bind (·.quarter)).isSome then 8 else 0
    | .tile, _ => 0
    | .acc, .wave e i _ => ((s.slot? e i).map (·.tiles)).getD 0
    | .acc, _ => 0
    | .cv, _ => 16
    | .bar, _ => (s.lrec th.launch).bars
    | .gs, _ => 16

/-- The file a g field names: k under WU (R128). -/
def effFile (i : Ins) (f : RFile) : RFile := if i.w.wu && f == .g then .k else f

/-- Whether register n of a thread names an operand queue in this instruction's slice (R127). -/
def isQueue (s : State) (t : Nat) (i : Ins) (f : RFile) (n : Nat) : Bool :=
  match s.thread? t with
  | some th => th.sliced && f == .g && !i.w.wu && decide (60 ≤ n) && decide (n < 64)
  | none => false

/-- The main thread whose queues a thread uses. -/
def mainOf (s : State) (t : Nat) : Nat :=
  match (s.thread? t).map Thread.home with
  | some (Home.skidder m) => m
  | _ => t

/-- The general registers an instruction's source fields name, in field order: what it pops where they name queues
(R127). -/
def popsOf (i : Ins) (wave : Bool) : List (Fld × Nat) :=
  if i.w.wu then [] else
  Fld.order.flatMap fun f =>
    match f.use i wave with
    | .src .g idx n _ | .srcDst .g idx n _ => (List.range n).map fun k => (f, idx + k)
    | _ => []

/-- How many entries earlier fields of an instruction pop from the queue register n names before field `q` reads it
(R127). -/
def queuePlace (i : Ins) (wave : Bool) (q : Fld) (n : Nat) : Nat :=
  (((popsOf i wave).takeWhile fun e => e != (q, n)).filter fun e => e.2 == n).length

/-- The entry of a queue that field `q` of an instruction reads (R127, R310). -/
def queueEntry (s : State) (t : Nat) (i : Ins) (q : Fld) (n : Nat) : Option QEntry :=
  (((s.thread? t).elim [] fun th => th.oq.getD (n - 60) []).drop (queuePlace i (s.homeOf t).isWave q n)).head?

/-- One register of a file as field `q` of an instruction reads it; a queue register reads its queue's entry. -/
def readReg (s : State) (t : Nat) (i : Ins) (q : Fld) (f : RFile) (n : Nat) : Reg :=
  match s.thread? t with
  | none => {}
  | some th =>
    match effFile i f with
    | .g =>
      if s.isQueue t i f n then
        match s.queueEntry t i q n with
        | some e => { val := e.val, full := e.filled, poison := e.poison }
        | none => { full := false }
      else th.readG n
    | .k => s.readK t n
    | .mb => th.readMb n
    | .p => let p := th.readP n; { val := if p.val then 1 else 0, full := p.full, poison := p.poison }
    | _ => {}

/-- The sources of one thread: field, file, register number. Fields read only in the lowest-numbered active thread
are its sources alone; of STS the data D is every thread's own (R202). POST reads the mailbox registers (R161). -/
def sourcesOf (i : Ins) (wave : Bool) (isLeader : Bool) : List (Fld × RFile × Nat) :=
  let u := i.fields wave
  if i.op = .post then (List.range 8).map fun n => (.d, .mb, n) else
  Fld.order.flatMap fun f =>
    let once := u.leader && !(i.op == .sts && f == .d) || i.w.wu
    -- SHFL's A names a register of another lane, which its own check judges (R188).
    if once && !isLeader || i.op == .shfl && f == .a then [] else
    match f.use i wave with
    | .src file idx n _ | .srcDst file idx n _ => (List.range n).map fun k => (f, file, idx + k)
    | _ => []

/-- The destinations of an instruction: field, file, register number. -/
def destsOf (i : Ins) (wave : Bool) : List (Fld × RFile × Nat) :=
  Fld.order.flatMap fun f =>
    match f.use i wave with
    | .dst file idx n _ | .srcDst file idx n _ => (List.range n).map fun k => (f, file, idx + k)
    | _ => []

/-- The constant words an instruction reads (R62, R147, R172). -/
def constsOf (i : Ins) (wave : Bool) : List Nat :=
  if !i.w.kb then [] else
  let u := i.fields wave
  let wideFloat := u.wide && decide (0x60 ≤ i.op.major) && decide (i.op.major < 0xA0)
  if wideFloat then [i.x, i.x + 1] else [i.x]

/-- The first operand field whose value lies beyond its file (R129, R139). -/
def rangeFault (s : State) (t : Nat) (i : Ins) : Option (Nat × Fld) :=
  let wave := (s.homeOf t).isWave
  [Fld.d, .a, .b, .c, .x].findSome? fun f =>
    match f.use i wave with
    | .src file idx n _ | .dst file idx n _ | .srcDst file idx n _ =>
      if s.fileSize t (effFile i file) < idx + n ∧ 0 < n then some (idx, f) else none
    | .name file idx => if s.fileSize t file ≤ idx then some (idx, f) else none
    | _ => none

/-- The threads whose lanes share a thread's queues: its wave's, or a context's own thread (R309). -/
def queueLanes (s : State) (t : Nat) : List Nat :=
  match s.homeOf t with
  | .wave e i _ => s.groupThreads (waveKey e) i
  | _ => [s.mainOf t]

/-- The entries of a queue that a thread has still to take. -/
def queueLen (s : State) (t q : Nat) : Nat := (s.thread? t).elim 0 fun th => (th.oq.getD q []).length

/-- The entries a queue holds: those that the lane which has taken fewest has still to take (R310). -/
def queueTop (s : State) (t q : Nat) : Nat := (s.queueLanes t).foldl (fun m u => max m (s.queueLen u q)) 0

/-- A lane takes the instruction together with another: it is at the same one, in the same run. -/
def beside (s : State) (t u : Nat) : Bool :=
  decide ((s.thread? u).map Thread.pc = (s.thread? t).map Thread.pc) &&
    ((s.engine s.focus).run).all fun r => r.members.contains u

/-- The entry that field `q` of an instruction pops is at the head of its queue by then: every present lane has taken what
stood before it, or takes it in the same instruction (R310; log 134). -/
def atHead (s : State) (t : Nat) (i : Ins) (q : Fld) (n : Nat) : Bool :=
  let k := queuePlace i (s.homeOf t).isWave q n
  (s.queueLanes t).all fun u =>
    decide (s.queueLen u (n - 60) ≤ s.queueLen t (n - 60) - if s.beside t u then 0 else k)

/-- Whether a register is full for the purposes of waiting (R125): of a queue, the entry at its head (R310). -/
def isFull (s : State) (t : Nat) (i : Ins) (q : Fld) (f : RFile) (n : Nat) : Bool :=
  (s.readReg t i q f n).full && (!s.isQueue t i f n || s.atHead t i q n)

/-- Whether a thread's access slice still runs. -/
def sliceRuns (s : State) (t : Nat) : Bool := s.threads.any fun e => e.2.home == .skidder t

/-- A pop of an empty queue whose access slice has ended traps 0x03 whatever FT says (R310). -/
def queueDead (s : State) (t : Nat) (i : Ins) (q : Fld) (f : RFile) (n : Nat) : Bool :=
  s.isQueue t i f n && (s.queueEntry t i q n).isNone && !s.sliceRuns t

/-- A pop of an instruction finds its queue empty: the entry is not reserved yet (R310). -/
def popsEmpty (s : State) (t : Nat) (i : Ins) : Bool :=
  (popsOf i (s.homeOf t).isWave).any fun q => s.isQueue t i .g q.2 && (s.queueEntry t i q.1 q.2).isNone

/-- Whether a push onto a queue would find it full in some lane of the group (R309). -/
def queueFull (s : State) (t n : Nat) : Bool := decide (16 ≤ s.queueTop t (n - 60))

/-- A whole 32-bit word read as source B: register, low register of a pair, constant word, or a literal's low word
(R147). -/
def wordB (s : State) (t : Nat) (i : Ins) : W32 :=
  match i.w.lit with
  | some l => l.lo
  | none =>
    if i.w.kb then (s.constWord t i.x).val
    else
      match Fld.b.use i (s.homeOf t).isWave with
      | .src file idx _ _ => (s.readReg t i .b file idx).val
      | _ => 0

/-- The lane SHFL reads for a lane (R188): `b` the lane operand, `w` the segment width. -/
def shflLane (mode w lane b : Nat) : Nat :=
  let p := lane % w
  let base := lane - p
  match mode with
  | 0 => base + b % w
  | 1 => base + (p + b) % w
  | 2 => base + (p ^^^ (b % w))
  | _ => base + (w - 1 - p + b) % w

/-- The thread whose register SHFL gives a thread: the named lane's when it is present, live and not parked, else its
own (R188). -/
def shflFrom (s : State) (i : Ins) (t : Nat) : Nat :=
  match s.homeOf t with
  | .wave e n l =>
    let w := if i.x = 0 then 32 else 2 ^ i.x
    match s.threadAt e n (shflLane i.minor w l (s.wordB t i).toNat) with
    | some u =>
      match (s.thread? u).map Thread.status with
      | some (Status.parked _) | some Status.halting => t
      | _ => u
    | none => t
  | _ => t

/-- The registers SHFL reads. -/
def shflRegs (i : Ins) : List Nat := if i.ty = 0 then [i.a, i.a + 1] else [i.a]

/-- Whether the instruction must still wait for thread t: a block-mode source is empty, the register SHFL reads in another
lane among them (R188), or a destination is (R125), or the queue it pushes onto is full (R309). -/
def mustWait (s : State) (t : Nat) (i : Ins) (isLeader : Bool) : Bool :=
  let wave := (s.homeOf t).isWave
  (sourcesOf i wave isLeader).any (fun q =>
    !q.1.ft i && !s.isFull t i q.1 q.2.1 q.2.2 && !s.queueDead t i q.1 q.2.1 q.2.2) ||
  i.op == .shfl && !Fld.a.ft i && (shflRegs i).any (fun n =>
    let u := s.shflFrom i t
    !s.isFull u i .a .g n && !s.queueDead u i .a .g n) ||
  (destsOf i wave).any (fun q =>
    if s.isQueue t i q.2.1 q.2.2 then s.queueFull t q.2.2 else !s.isFull t i q.1 q.2.1 q.2.2)

/-- The first trap-mode source that is empty (R125, R310), as $einfo names it (R165). -/
def emptyTrap (s : State) (t : Nat) (i : Ins) (isLeader : Bool) : Option W32 :=
  let wave := (s.homeOf t).isWave
  (sourcesOf i wave isLeader).findSome? fun q =>
    if (q.1.ft i && !s.isFull t i q.1 q.2.1 q.2.2) || s.queueDead t i q.1 q.2.1 q.2.2 then
      some (BitVec.ofNat 32 (q.2.2 + q.1.code * 256 + if q.2.1 == .p then 2048 else 0))
    else none

/-- The first poisoned source or constant word (R50, R62), as $einfo names it (R165). -/
def poisonTrap (s : State) (t : Nat) (i : Ins) (isLeader : Bool) : Option W32 :=
  let wave := (s.homeOf t).isWave
  match (sourcesOf i wave isLeader).findSome? fun q =>
      if (s.readReg t i q.1 q.2.1 q.2.2).poison then
        some (BitVec.ofNat 32 (q.2.2 + q.1.code * 256 + if q.2.1 == .p then 2048 else 0))
      else none with
  | some e => some e
  | none =>
    if i.w.wu && !isLeader then none else
    (constsOf i wave).findSome? fun n =>
      if (s.constWord t n).poison then some (BitVec.ofNat 32 (n + 4096 + 2 * 256)) else none

/-! ### Values -/

/-- The value of n registers from idx of a file, low register first, as a number. -/
def regsVal (s : State) (t : Nat) (i : Ins) (q : Fld) (f : RFile) (idx : Nat) : Nat → Nat
  | 0 => 0
  | n + 1 => (s.readReg t i q f idx).val.toNat + 2 ^ 32 * s.regsVal t i q f (idx + 1) n

/-- The value of an operand field that is a register source; 0 for a field that is not read. -/
def srcVal (s : State) (t : Nat) (i : Ins) (f : Fld) : Nat :=
  match f.use i (s.homeOf t).isWave with
  | .src file idx n _ | .srcDst file idx n _ => s.regsVal t i f file idx n
  | _ => 0

/-- The 64-bit offset of a memory operand: a literal whole, else source B or the constant word sign-extended
(R199). -/
def offsetB (s : State) (t : Nat) (i : Ins) : W64 :=
  match i.w.lit with
  | some l => l
  | none => (s.wordB t i).signExtend 64

/-- base + offset of a memory operand, modulo 2^64 (R199). -/
def memEa (s : State) (t : Nat) (i : Ins) : W64 := BitVec.ofNat 64 (s.srcVal t i .a) + s.offsetB t i

/-! ### Writing -/

/-- Fill the entry of a queue that a load reserved (R309). -/
def fillQueue (s : State) (m q op : Nat) (v : W32) (poison : Bool) : State :=
  s.modThread m fun th =>
    let es := (th.oq.getD q []).map fun e => if !e.filled && e.op == op then { val := v, poison := poison } else e
    { th with oq := th.oq.put q es }

/-- Push an entry onto a queue of thread m, which no longer waits at a pop of an empty one. -/
def pushQueue (s : State) (m q : Nat) (e : QEntry) : State :=
  s.modThread m fun th => { th with oq := th.oq.put q (th.oq.getD q [] ++ [e]), popWait := false }

/-- A push of the access slice makes an entry of every present lane: of one that its guard leaves out a value that the spec
does not state, a free value (R309; log 134). -/
def pushIdle (i : Ins) (s : State) (t : Nat) : State :=
  (destsOf i (s.homeOf t).isWave).foldl (fun s q =>
    if s.isQueue t i q.2.1 q.2.2 then
      let (k, s) := s.fresh
      s.pushQueue (s.mainOf t) (q.2.2 - 60) { val := Config.guardedPush k }
    else s) s

/-- How many entries an instruction's source fields pop from a queue (R127). -/
def popCount (i : Ins) (wave : Bool) (q : Nat) : Nat := ((popsOf i wave).filter fun e => e.2 == 60 + q).length

/-- A thread's queues after the pops of an instruction's source fields (R127, R310), where the queues held `top` entries: the
lane has taken its part of those that were at the head, unless it had taken them before. -/
def popThread (i : Ins) (wave : Bool) (top : Nat → Nat) (th : Thread) : Thread :=
  { th with oq := (List.range 4).foldl (fun oq q =>
      if th.sliced && popCount i wave q != 0 then
        let es := Table.getD oq q []
        Table.put oq q (es.drop (es.length - (top q - popCount i wave q)))
      else oq) th.oq }

/-- Pop the queues an instruction's source fields name, which held `top` entries: in every lane the instruction acts for, and
in a lane that is inactive for this pop. -/
def popQueues (top : Nat → Nat → Nat) (i : Ins) (s : State) (t : Nat) : State :=
  s.modThread t (popThread i (s.homeOf t).isWave (top t))

/-- Write one destination register of a file; in an access slice g60-g63 push onto a queue (R127, R309). -/
def writeReg (s : State) (t : Nat) (i : Ins) (f : RFile) (n : Nat) (v : W32) : State :=
  match effFile i f with
  | .g =>
    if i.w.sl && s.isQueue t i f n then s.pushQueue (s.mainOf t) (n - 60) { val := v }
    else s.modThread t fun th => th.writeG n v
  | .k => s.writeK t n v
  | .mb => s.modThread t fun th => th.writeMb n v
  | _ => s

/-- Write n destination registers from idx with the low 32n bits of a number. -/
def writeRegs (s : State) (t : Nat) (i : Ins) (f : RFile) (idx v : Nat) : Nat → State
  | 0 => s
  | n + 1 => (s.writeReg t i f idx (BitVec.ofNat 32 v)).writeRegs t i f (idx + 1) (v / 2 ^ 32) n

/-- Write an instruction's D operand with the low bits of a number. -/
def writeD (s : State) (t : Nat) (i : Ins) (v : Nat) : State :=
  match Fld.d.use i (s.homeOf t).isWave with
  | .dst file idx n _ | .srcDst file idx n _ => s.writeRegs t i file idx v n
  | _ => s

/-- Mark an instruction's D operand empty (R126). -/
def emptyD (s : State) (t : Nat) (i : Ins) : State :=
  match Fld.d.use i (s.homeOf t).isWave with
  | .dst _ idx n _ | .srcDst _ idx n _ => s.modThread t fun th => th.emptyGs idx n
  | _ => s

/-- Write the predicate an instruction's D names: for one thread, or under WU for every active thread (R128). -/
def writeDP (s : State) (ts : List Nat) (i : Ins) (v : Bool) : State :=
  ts.foldl (fun s t => s.modThread t fun th => th.writeP i.d v) s

end State

end Sys2Proof.Machine
end

