-- ==== Sys2Proof/Machine/Issue.lean ====
section
/-!
DEFINITION. One issue of an instruction by the group whose run is in progress on the engine in focus, in the order of
05 R139: guards, active set, well-formedness, ranges, features, waits, traps on operands, then the instruction's own
checks and its effect. Every instruction's meaning is one call of `issue`.
-/

namespace Sys2Proof.Machine

/-- What an instruction's own checks answer for one thread of the active set (R139). -/
inductive Check where
  | ok
  | trap (cause : Nat) (info : W32)
  /-- A translation fault (R49): kind, page and address, and what the access was. -/
  | park (kind page addr : Nat) (write atomic : Bool) (pasid : Option Nat)
  /-- The run is held and the instruction tried again (R125). -/
  | hold
  /-- The thread leaves the run with its PC at the instruction and tries again at its next run (R20, R24). -/
  | stay
deriving DecidableEq, Repr

/-- An instruction's own part of R139. -/
structure Sem where
  /-- Placement the state forbids: raises 0x01. -/
  legal : Ins → State → Nat → Bool := fun _ _ _ => true
  /-- Ranges beyond those of operand fields: $einfo of a 0x02 trap. -/
  range : Ins → State → Nat → Option W32 := fun _ _ _ => none
  /-- What the instruction sets going while it is held, given the thread whose operands it reads once and the threads that hold
  it: translations its addresses still need (R402), places at targets (R158). -/
  prep : Ins → Nat → List Nat → State → State := fun _ _ _ s => s
  /-- Address checks and traps on operand values: the instruction, the lowest-numbered active thread, the state and the
  thread judged. -/
  check : Ins → Nat → State → Nat → Check := fun _ _ _ _ => .ok
  /-- What the instruction leaves for a thread that its checks park, and for one that they trap. -/
  parked : Ins → State → Nat → State := fun _ s _ => s
  trapped : Ins → State → Nat → State := fun _ s _ => s
  /-- Whether nothing further makes the group wait. -/
  ready : Ins → List Nat → State → Bool := fun _ _ _ => true
  /-- The effect: the lowest-numbered active thread, whose operands a description may read once for all, and the
  threads that perform the instruction, in lane order; the run's PCs have advanced. -/
  act : Ins → Nat → List Nat → State → State

namespace State

/-- The run in progress on the unit in focus. -/
def run? (s : State) : Option Run := (s.engine s.focus).run

/-- The guard of a thread (R121). -/
def guard (th : Thread) (i : Ins) : Bool :=
  let t1 := (th.readP i.w.g1.toNat).val ^^ i.w.g1n
  let t2 := (th.readP i.w.g2.toNat).val ^^ i.w.g2n
  if i.w.gc then t1 || t2 else t1 && t2

/-- The guard predicate of a thread that is full and poisoned (R121), as $einfo names it: a guard has no code among the fields of
R165, and shows 0 in [10:8] (DESIGN CHOICE, log 153). -/
def guardPoison (th : Thread) (i : Ins) : Option W32 :=
  if (th.readP i.w.g1.toNat).poison then some (BitVec.ofNat 32 (2048 + i.w.g1.toNat))
  else if (th.readP i.w.g2.toNat).poison then some (BitVec.ofNat 32 (2048 + i.w.g2.toNat))
  else none

/-- Whether a thread of the issuing group is live, not parked and able to issue (R121). -/
def issuing (s : State) (t : Nat) : Bool :=
  match s.thread? t with
  | some th => th.status == .ready
  | none => false

/-- The active set of R121, in lane order, each thread once: a thread whose guard predicate is poisoned is not in it. -/
def activeSet (s : State) (r : Run) (i : Ins) : List Nat :=
  distinct (r.members.filter fun t => s.issuing t && (s.thread? t).any fun th => guard th i && (guardPoison th i).isNone)

/-- Threads of the group whose guard predicate is poisoned trap before anything else happens to them (R121). -/
def trapGuards (s : State) (r : Run) (i : Ins) : State :=
  r.members.foldl (fun s t =>
    match s.thread? t with
    | some th =>
      if th.status == .ready then
        match guardPoison th i with
        | some info => s.trap t 4 info
        | none => s
      else s
    | none => s) s

/-- The placement rules of R127 and R131-R133 that need the run or the kernel. -/
def placed (s : State) (r : Run) (t : Nat) (i : Ins) : Bool :=
  let chained := i.op == .addc || i.op == .subb
  let shadow := match (s.thread? t).map Thread.home with
    | some (Home.skidder _) => true
    | _ => false
  let sliced := ((s.thread? t).map (·.sliced)).getD false
  let pushes := (destsOf i (s.homeOf t).isWave).any fun q => s.isQueue t i q.2.1 q.2.2
  decide (r.count < 24) && (!chained || (r.addFamily && r.count != 0)) &&
    (i.w.sl == shadow) && (!i.w.sl || sliced) && (!pushes || i.w.sl)

/-- Re-file a thread at an instruction whose feature its engine lacks, or trap (R29). Without room the thread keeps
its PC and tries again (R24). -/
def refileOrTrap (s : State) (t feature : Nat) (i : Ins) : State :=
  match s.refileStand t feature, s.thread? t with
  | some n, some th =>
    match s.file t n th.pc with
    | some s' => s'
    | none => s.leaveRun t
  | _, _ => s.trap t 0x0A i.word0

/-- Whether the engine of a thread lacks the feature an instruction needs (R28). -/
def lacksFeature (s : State) (i : Ins) (t : Nat) : Bool :=
  match (i.fields (s.homeOf t).isWave).feature, (s.homeOf t).engine with
  | some f, some k => !(s.fmask k).getLsbD f
  | _, _ => false

/-- The checks of R139 that precede waiting, for one thread: the state, and whether the thread goes on. -/
def precheck (sem : Sem) (r : Run) (i : Ins) (s : State) (t : Nat) : State × Bool :=
  let feature := ((i.fields (s.homeOf t).isWave).feature.getD 0)
  let lacks := s.lacksFeature i t
  -- Tile and matrix majors meet the feature test before the range test in a scalar context (R225).
  let featureFirst := decide (0xE0 ≤ i.op.major) && !(s.homeOf t).isWave
  if !(i.wellFormed && placed s r t i && sem.legal i s t) then (s.trap t 1 i.word0, false)
  else if featureFirst && lacks then (s.refileOrTrap t feature i, false)
  else
    match s.rangeFault t i with
    | some (v, f) => (s.trap t 2 (BitVec.ofNat 32 (v + f.code * 256)), false)
    | none =>
      match sem.range i s t with
      | some info => (s.trap t 2 info, false)
      | none => if lacks then (s.refileOrTrap t feature i, false) else (s, true)

/-- Apply `precheck` to the active set in lane order. -/
def precheckAll (sem : Sem) (r : Run) (i : Ins) : State → List Nat → State × List Nat
  | s, [] => (s, [])
  | s, t :: ts =>
    let p := precheck sem r i s t
    let q := precheckAll sem r i p.1 ts
    (q.1, if p.2 then t :: q.2 else q.2)

/-- What the source checks of R139 answer for one thread. -/
def sourceCheck (i : Ins) (s : State) (isLeader : Bool) (t : Nat) : Check :=
  match s.emptyTrap t i isLeader with
  | some info => .trap 3 info
  | none =>
    match s.poisonTrap t i isLeader with
    | some info => .trap 4 info
    | none => .ok

/-- The lowest-numbered thread whose sources pass: fields read once are read in it (R128, R139, R202). -/
def leaderOf (i : Ins) (s : State) (go : List Nat) : Option Nat := go.find? fun t => sourceCheck i s true t == .ok

/-- What the operand and address checks of R139 answer for the leader or a thread after it. -/
def operandCheck (sem : Sem) (i : Ins) (s : State) (leader : Option Nat) (t : Nat) : Check :=
  match leader with
  | none => sourceCheck i s true t
  | some l =>
    match sourceCheck i s (t == l) t with
    | .ok => sem.check i l s t
    | c => c

/-- The outcome of the operand checks over the active set: threads that go on, threads that trap, park, stay, and those that
hold the run. -/
structure Checked where
  go : List Nat := []
  traps : List (Nat × Nat × W32) := []
  parks : List (Nat × Nat × Nat × Nat × Bool × Bool × Option Nat) := []
  stays : List Nat := []
  holds : List Nat := []

/-- Gather the checks of the active set; `before` says that the leader has not been reached yet. -/
def gatherChecks (sem : Sem) (i : Ins) (s : State) (leader : Option Nat) : Bool → List Nat → Checked
  | _, [] => {}
  | before, t :: ts =>
    let c := gatherChecks sem i s leader (before && leader != some t) ts
    let answer := if before && leader != some t then sourceCheck i s true t else operandCheck sem i s leader t
    match answer with
    | .ok => { c with go := t :: c.go }
    | .trap cause info => { c with traps := (t, cause, info) :: c.traps }
    | .park kind page addr w a p => { c with parks := (t, kind, page, addr, w, a, p) :: c.parks }
    | .hold => { c with holds := t :: c.holds }
    | .stay => { c with stays := t :: c.stays }

/-- Park threads, one record for each faulting page and kind (R73). -/
def parkAll (s : State) : Nat → List (Nat × Nat × Nat × Nat × Bool × Bool × Option Nat) → State
  | _, [] => s
  | 0, _ => s
  | fuel + 1, (t, kind, page, addr, w, a, p) :: r =>
    let same := r.filter fun e => e.2.1 == kind && e.2.2.1 == page
    let rest := r.filter fun e => !(e.2.1 == kind && e.2.2.1 == page)
    let lowest := same.foldl (fun m e => min m e.2.2.2.1) addr
    (s.park (t :: same.map (·.1)) kind page lowest 0 w a p).parkAll fuel rest

/-- What the checks decided, as far as the die's fault buffer has room: past its 256 records, the threads of further faulting
pages hold their run (R359). -/
def fitParks (s : State) (c : Checked) : Checked :=
  match c.parks with
  | [] => c
  | e :: _ =>
    let record (p : Nat × Nat × Nat × Nat × Bool × Bool × Option Nat) : Nat := 32 * p.2.2.1 + p.2.1
    let fit := (distinct (c.parks.map record)).take (256 - (s.die (standDie (s.homeOf e.1).stand)).faultBuf.length)
    let (now, later) := c.parks.partition fun p => fit.contains (record p)
    { c with parks := now, holds := c.holds ++ later.map (·.1) }

/-- Lanes that a branch of the access slice traps beside its active ones: its guard differs between them, and no lane of it
goes on (R309). -/
def splitTraps (s : State) (i : Ins) (c : Checked) : List (Nat × Nat × W32) :=
  if i.w.sl && (i.op == .bra || i.op == .loop) && c.go.isEmpty then
    s.run?.elim [] fun r => (r.members.filter fun t => s.issuing t && !(s.activeSet r i).contains t).map fun t => (t, 1, i.word0)
  else []

/-- Deliver what the checks decided. -/
def settle (s : State) (c : Checked) : State :=
  let s := c.traps.foldl (fun s e => s.trap e.1 e.2.1 e.2.2) s
  let s := s.parkAll c.parks.length c.parks
  c.stays.foldl (fun s t => s.leaveRun t) s

/-- The program counters of the run's threads move past the instruction. -/
def advance (s : State) (i : Ins) : State :=
  match s.run? with
  | none => s
  | some r => r.members.foldl (fun s t => s.modThread t fun th => { th with pc := r.pc + BitVec.ofNat 64 i.len }) s

/-- The run after one more instruction (R131, R134, R140): it ends at E = 1, at the 25th instruction, or when no
thread is left in it; an instruction that yields marks its group from then on (R124). -/
def retireAs (s : State) (yields : Bool) (i : Ins) : State :=
  match s.run? with
  | none => s
  | some r =>
    let y := r.yield || yields
    let family := i.op == .add || i.op == .sub || i.op == .addc || i.op == .subb
    let ended := i.w.e || decide (24 ≤ r.count) || r.members.isEmpty
    s.modEngine s.focus fun e =>
      if ended then { e with run := none, yielded := if y then e.yielded.add r.group else e.yielded }
      else
        let r' : Run :=
          { r with pc := r.pc + BitVec.ofNat 64 i.len, count := r.count + 1, addFamily := family, yield := y, lead := none }
        { e with run := some r' }

/-- The run after an instruction that some thread performs: its Y bit yields, and so does YIELD (R124, R155). -/
def retire (s : State) (i : Ins) : State := s.retireAs (i.w.y || i.op == .yield) i

/-- The run passes an instruction that no thread performs: only its E, STALL and Y bits act (R134, R140). -/
def skip (s : State) (i : Ins) : State := (s.advance i).retireAs i.w.y i

/-- The run passes an instruction whose active threads have all trapped, parked or stayed: its other lanes are inactive for the
pops of its sources, which take their entries all the same (R310). -/
def passBy (s : State) (i : Ins) : State :=
  ((distinct ((s.run?.elim [] (·.members)).filter s.issuing)).foldl (popQueues s.queueTop i) s).skip i

/-- The effect of an instruction for the threads `go`, led by `lead` (R139, R140): the run's PCs move on, the effect takes
place, the queues its sources name are popped, and the entries it pushes are made, for lanes idle in this issue too (R127,
R309), the issue is counted (R395) and the run goes on or ends (R131). -/
def perform (s : State) (sem : Sem) (i : Ins) (lead : Nat) (go : List Nat) : State :=
  let idle := distinct ((s.run?.elim [] (·.members)).filter fun t => s.issuing t && !go.contains t)
  let top := s.queueTop
  let s := sem.act i lead go (s.advance i)
  let s := if i.w.sl then idle.foldl (pushIdle i) s else s
  (((go ++ idle).foldl (popQueues top i) s).countEvent s.focus 1 1).retire i

/-- Which of a sliced kernel's threads wait at a pop of an empty queue (R311). -/
def notePops (s : State) (i : Ins) (ts : List Nat) : State :=
  ts.foldl (fun s t =>
    match s.thread? t with
    | some th =>
      let w := s.popsEmpty t i
      if th.sliced && w != th.popWait then
        (s.modThread t fun x => { x with popWait := w }).syncWatch th.launch th.wg false
      else s
    | none => s) s

/-- Whether a trap has stopped a lane's access slice between two states of an issue (R311). -/
def torn (s t : State) : Bool :=
  isSkidKey s.focus && (s.run?.elim [] (·.members)).any fun u => (s.thread? u).isSome && (t.thread? u).isNone

/-- A trap of one lane's access slice stops the skidder of all (R311, log 50): `t` is what it left of the state. -/
def stopTorn (s t : State) : State :=
  if s.torn t then (s.run?.elim [] (·.members)).foldl stopSlice t else t

/-- Whether a held thread leaves its run when its launch is pre-empted (R163, R250): one whose message waits for its place, whose
ray waits for room, or whose primitive, task or block's command waits. -/
def losable (i : Ins) (th : Thread) : Bool :=
  -- A traversal thread stays: its batch is to finish (R263).
  th.ray.isNone && match th.held with
  | .asking _ _ | .resumed _ | .placing _ _ _ _ | .spawning _ _ | .unit _ => true
  | .record _ _ => i.op == .rayEnq
  | _ => false

/-- A held thread leaves its run for a pre-emption: its instruction starts anew, and of a SEND.T the time waited counts (R163). -/
def loseHeld (s : State) (t : Nat) : State :=
  let s := (s.withdraw t).modThread t fun th => { th with
    held := match th.held with
      | .asking _ (some g) => .resumed g
      | .asking _ none | .spawning _ _ | .record _ _ => .none
      | h => h }
  (s.leaveRun t).setStatus t .stopped

/-- What becomes of a held run whose launch stops: the run of one that dies ends before the instruction (R52), and a pre-emption
takes the held threads out of it (R163). -/
def endHeld (s : State) (t : Nat) (i : Ins) (holds : List Nat) : State :=
  match ((s.thread? t).bind fun th => s.launch? th.launch).map Launch.phase with
  | some LaunchPhase.dying => s.modEngine s.focus fun e => { e with run := none }
  | some LaunchPhase.preempting =>
    (holds.filter fun u => (s.thread? u).any (losable i)).foldl (fun s u => s.loseHeld u) s
  | _ => s

/-- The thread whose operands a held instruction has read once for all its threads (R128, R202): it leads the instruction to its
end, though it may be parked by now. -/
def heldLead (s : State) : Option Nat :=
  s.run?.bind fun r => r.lead.filter fun l => (s.thread? l).any fun th => th.pc == r.pc

/-- The run is held at its instruction, led by a thread. -/
def holdRun (s : State) (lead : Nat) : State :=
  s.modEngine s.focus fun e => { e with run := e.run.map fun r => { r with lead := some lead } }

/-- The operand checks and the effect for the threads `go` that passed the early checks (R139). -/
def issueThreads (s : State) (sem : Sem) (i : Ins) (go : List Nat) (first : Nat) : State :=
  let front := s.heldLead.getD first
  if go.any (fun t => s.mustWait t i (t == front)) then s.notePops i go
  else
    let leader := s.heldLead.orElse fun _ => leaderOf i s go
    let lead := leader.getD first
    let c := s.fitParks (gatherChecks sem i s leader (leader.all go.contains) go)
    -- A later thread becomes the leader when the threads below it trap: it then waits for its own sources.
    let wait := !c.holds.isEmpty || (go.contains lead && s.mustWait lead i true)
    let left := c.traps.foldl (fun s e => sem.trapped i s e.1)
      (c.parks.foldl (fun s e => sem.parked i s e.1) (if c.holds.isEmpty then s else sem.prep i lead c.holds s))
    let s' := left.settle { c with traps := c.traps ++ s.splitTraps i c }
    -- A skidder stops as a whole (R311).
    if s.torn s' then s.stopTorn (s'.passBy i) else
    let s := s'
    -- A skidder parks as a whole (R311).
    let on := if i.w.sl && !c.parks.isEmpty then [] else c.go
    if wait || !sem.ready i on s then (s.holdRun lead).endHeld first i c.holds
    else if on.isEmpty then s.passBy i
    else s.perform sem i lead on

/-- One issue by a run's group (R139, R140); a trap of an access slice stops the whole skidder (R311, log 50). -/
def issueRun (s : State) (sem : Sem) (i : Ins) (r : Run) : State :=
  let g := s.trapGuards r i
  match g.activeSet r i with
  | [] => s.stopTorn (g.skip i)
  | a :: as =>
    let p := precheckAll sem r i g (a :: as)
    match p.2 with
    | [] => s.stopTorn (p.1.passBy i)
    | first :: rest =>
      -- A trap of an early check stops the skidder of every lane (R311).
      if s.torn p.1 then s.stopTorn (p.1.skip i) else p.1.issueThreads sem i (first :: rest) first

end State

/-- One issue of an instruction (R139, R140). The next state is the instruction's effect, the traps and parks of its
threads, or the same state with the run held. -/
def issue (sem : Sem) (i : Ins) (s : State) : Host.Outcome State Fault Refusal :=
  match s.run? with
  | none => .refused .nothingIssuing
  | some r => .next (s.issueRun sem i r)

end Sys2Proof.Machine
end

