-- ==== Sys2Proof/Machine/Translate.lean ====
section
/-!
DEFINITION. Translation (19 R348-R358): the hashed page table and its walk, permissions, cached translations, and the
resolution of a thread's address to the places its bytes live in (02 R56-R61, R72, R73; 08 R199; 20 R374).
-/

namespace Sys2Proof.Machine

/-- What an access needs of its page (R352). -/
structure Need where
  r : Bool := false
  w : Bool := false
  x : Bool := false
deriving DecidableEq, Repr

/-- Whether a cached translation covers an address. -/
def Trans.covers (tr : Trans) (part va : Nat) : Bool :=
  tr.part == part && decide (tr.base ≤ va) && decide (va < tr.base + tr.size)

/-- Whether a translation grants what an access needs. -/
def Trans.grants (tr : Trans) (n : Need) : Bool := (!n.r || tr.r) && (!n.w || tr.w) && (!n.x || tr.x)

/-- The outcome of a table walk (R351). -/
inductive WalkRes where
  /-- The translation, and the physical address of the entry. -/
  | found (tr : Trans) (entry : Nat)
  | fault (kind : Nat)
deriving DecidableEq, Repr

/-- XOR of the LOG2B-bit chunks of a page number (R349). -/
def foldChunks (log : Nat) : Nat → Nat → Nat
  | 0, _ => 0
  | fuel + 1, v => if v = 0 then 0 else (v % 2 ^ log) ^^^ foldChunks log fuel (v / 2 ^ log)

/-- The bucket of an address and page size (R349). -/
def bucketOf (log va size : Nat) : Nat :=
  let vpn := if size = 0 then bits va 56 16 else bits va 56 21
  foldChunks log 41 vpn ^^^ (size * 2 ^ (log - 1))

/-- One entry of a bucket as a walk for a page size reads it. -/
inductive EntryRes where
  | skip | bad | link (pa : Nat) | hit
deriving DecidableEq, Repr

namespace State

/-- Whether a physical address lies in populated memory (R70, R363). -/
def populated (s : State) (pa : Nat) : Bool :=
  decide (pa < 0x8000000000) ||
    (decide (0x10000000000 ≤ pa) && decide (pa < 0x20000000000)) ||
    (decide (0x100000000000 ≤ pa) && decide (pa < 0x100000000000 + s.regN (cxlReg 0 8) * 2 ^ 30)) ||
    (decide (0x120000000000 ≤ pa) && decide (pa < 0x120000000000 + s.regN (cxlReg 1 8) * 2 ^ 30))

/-- Judge an entry (R350, R351). -/
def judgeEntry (s : State) (va size e w0 w1 : Nat) : EntryRes :=
  if !bit w0 63 then .skip else
  let sz := bits w0 62 61
  if bits w0 60 57 != 0 || bits w0 15 0 != 0 || sz == 3 then .bad
  else if sz == 2 then
    if e != 7 || bits w0 56 16 != 0 || bits w1 63 45 != 0 || bits w1 6 0 != 0 then .bad
    else .link (bits w1 44 7 * 128)
  else
    let kind := bits w1 1 0
    let pa := bits w1 44 16 * 65536
    let malformed := bits w1 15 2 != 0 || 2 ≤ kind || (sz == 1 && bits w0 20 16 != 0) ||
      (kind == 1 && (bits w1 63 52 != 0 || bits w1 51 49 != 0 || bit w1 46 || bits w1 44 36 != 0)) ||
      (kind == 0 && (!s.populated pa || !s.populated (pa + 65535) || (sz == 1 && bits pa 20 16 != 0)))
    if malformed then .bad
    else if sz == size && bits w0 56 16 == (if size = 0 then bits va 56 16 else bits va 56 21 * 32) then .hit
    else .skip

/-- Scan a bucket's entries from e on (R351). -/
def scanBucket (s : State) (va size base : Nat) : Nat → Nat → EntryRes × Nat
  | 0, _ => (.skip, 0)
  | fuel + 1, e =>
    let w0 := s.dramNat (base + 16 * e) 8
    let w1 := s.dramNat (base + 16 * e + 8) 8
    match s.judgeEntry va size e w0 w1 with
    | .skip => s.scanBucket va size base fuel (e + 1)
    | r => (r, base + 16 * e)

/-- Look an address up at one page size with so many links still allowed; the links left to the walk come with the answer
(R351). -/
def lookupSize (s : State) (va size : Nat) : Nat → Nat → EntryRes × Nat × Nat
  | links, base =>
    match s.scanBucket va size base 8 0 with
    | (.link next, a) => match links with
      | 0 => (.bad, a, 0)
      | n + 1 => s.lookupSize va size n next
    | (r, a) => (r, a, links)

/-- Whether a key index is allotted to a partition (R351, R369). -/
def keyAllotted (s : State) (part key : Nat) : Bool :=
  let c := s.regN (partReg part 0x10)
  decide (bits c 11 0 ≤ key) && decide (key < bits c 11 0 + bits c 24 12)

/-- The translation an entry gives (R350). -/
def entryTrans (s : State) (part va entry size : Nat) : WalkRes :=
  let w1 := s.dramNat (entry + 8) 8
  let kind := bits w1 1 0
  let span := if size = 0 then 65536 else 2097152
  let key := bits w1 63 52
  if kind = 0 ∧ !s.keyAllotted part key then .fault 8 else
  .found { part := part, base := va / span * span, size := span, host := kind == 1
           frame := if kind = 1 then 0 else bits w1 44 16 * 65536
           pasid := if kind = 1 then bits w1 35 16 else 0
           lease := bits w1 51 49, key := key, r := bit w1 48, w := bit w1 47, x := bit w1 46, m := bit w1 45 } entry

/-- The walk of R351: the 64 KiB lookup first, then the 2 MiB lookup, with four links in all. -/
def walk (s : State) (part va : Nat) : WalkRes :=
  let ctl := s.regN (transReg part 8)
  if !bit ctl 0 then .fault 1 else
  let base := (bits (s.reg64 (transReg part 0)) 44 12) * 4096
  let log := bits ctl 12 8
  match s.lookupSize va 0 4 (base + 128 * bucketOf log va 0) with
  | (.hit, a, _) => s.entryTrans part va a 0
  | (.bad, _) => .fault 7
  | (_, _, links) =>
    match s.lookupSize va 1 links (base + 128 * bucketOf log va 1) with
    | (.hit, a, _) => s.entryTrans part va a 1
    | (.bad, _) => .fault 7
    | _ => .fault 1

/-- A cluster's home walker serves: its stand is not fenced (R349, R385). -/
def walkerServes (s : State) (cluster : Nat) : Bool := !(s.stand (cluster / 8)).fenced

/-- The cluster whose home walker answers for a bucket: cluster bucket mod 16,384, or where that is fenced its buddy, at the
same position on the buddy die (R349); none where both are fenced (log 110). -/
def walkerOf (s : State) (bucket : Nat) : Option Nat :=
  let c := bucket % 16384
  [c, 4096 * buddyDie (c / 4096) + c % 4096].find? s.walkerServes

/-- Whether the home walkers of both lookups of an address can answer (R349, R351). -/
def walkable (s : State) (part va : Nat) : Bool :=
  let log := bits (s.regN (transReg part 8)) 12 8
  [0, 1].all fun size => (s.walkerOf (bucketOf log va size)).isSome

/-- The translation a unit's access of an address takes: the cached one, else what the table's home walkers answer (R349, R351);
none where they do not serve. -/
def walkVia (s : State) (cached : Option Trans) (part va : Nat) : Option WalkRes :=
  match cached with
  | some tr => some (.found tr 0)
  | none => if s.walkable part va then some (s.walk part va) else none

/-- The cache of the skidders of a stand (R354, log 111). -/
def skidCache (stand : Nat) : Nat := 4 * stand
/-- The cache of a cluster's flume. -/
def flumeCache (cluster : Nat) : Nat := 4 * cluster + 1
/-- The cache of a stand's texture unit. -/
def texCache (stand : Nat) : Nat := 4 * stand + 2
/-- The cache of a die's Drive. -/
def driveCache (die : Nat) : Nat := 4 * die + 3

/-- A unit's cached translation of an address (R354). -/
def unitCached (s : State) (key part va : Nat) : Option Trans := (s.unitTlbs.getD key []).find? (·.covers part va)

/-- Put a translation into a unit's cache. -/
def unitInsert (s : State) (key : Nat) (tr : Trans) : State :=
  { s with unitTlbs := s.unitTlbs.put key (tr :: s.unitTlbs.getD key []) }

/-- Put a translation into a stand's TLB of 2,048 entries, the oldest leaving when it is full (R354). -/
def tlbInsert (s : State) (stand : Nat) (tr : Trans) : State :=
  s.modStand stand fun x => { x with tlb := (tr :: x.tlb).take 2048 }

/-- A thread's cached translation of an address: its last-page register, then its stand's TLB; a skidder's own cache
(R354). -/
def cached (s : State) (t part va : Nat) : Option Trans :=
  match s.thread? t with
  | none => none
  | some th =>
    if th.home matches .skidder _ then s.unitCached (skidCache (s.homeOf t).stand) part va else
    match th.lastPage with
    | some tr => if tr.covers part va then some tr else (s.stand (s.homeOf t).stand).tlb.find? (·.covers part va)
    | none => (s.stand (s.homeOf t).stand).tlb.find? (·.covers part va)

end State

/-- How an address resolves. -/
inductive LocRes where
  | parts (ps : List Part)
  | trap (cause : Nat) (info : W32)
  | park (kind page addr : Nat) (pasid : Option Nat)
  /-- Addresses whose translation is not cached, with the partition whose table maps them. -/
  | miss (part : Nat) (va : Nat)
  /-- Waits for a translation, a route or room in a fault buffer. -/
  | wait
  /-- An engine's access begins to wait for a route to a package (R375). -/
  | route (pkg : Nat)
deriving DecidableEq, Repr

/-- Resolve n bytes of one line at a translated address. The part of `need` on a host page is decided by the grant; a
device page's missing permission is kind 0x02. `look` finds cached translations. -/
def State.resolveVa (s : State) (look : Nat → Nat → Option Trans) (part va n : Nat) (need : Need) (addr : Nat) : LocRes :=
  if !bit (s.regN (transReg part 8)) 0 then .park 1 (va / 65536 * 65536) addr none else
  match look part va with
  | none => .miss part va
  | some tr =>
    if tr.grants need then
      if tr.host then
        .parts [{ place := .host 0 (tr.frame + (va - tr.base)), n := n, l1 := false }]
      else
        let pa := tr.frame + (va - tr.base)
        .parts [{ place := .dram pa, n := n, lease := tr.lease, key := tr.key, migHeld := tr.m && need.w }]
    else if tr.host then .miss part va
    else .park 2 tr.base addr none

/-- The parts of n bytes at va, cut at 64-byte lines (R72, R73). -/
def linePieces (va : Nat) : Nat → Nat → List (Nat × Nat)
  | 0, _ => []
  | _, 0 => []
  | fuel + 1, n =>
    let room := 64 - va % 64
    if n ≤ room then [(va, n)] else (va, room) :: linePieces (va + room) fuel (n - room)

/-- Join the resolutions of an access's pieces: the first that is not parts decides. -/
def joinLoc : List LocRes → LocRes
  | [] => .parts []
  | .parts ps :: r =>
    match joinLoc r with
    | .parts qs => .parts (ps ++ qs)
    | e => e
  | e :: _ => e

namespace State

/-- A local-memory access of n bytes at a `Mem.loc` address: partition test (R57) and the end of the local memory
(R199). -/
def resolveLoc (s : State) (part key n : Nat) (ea : W64) : LocRes :=
  let core := locCore key
  if locOff key + n > localBytes then .trap 6 ea.lo
  else if s.coreOwner core != some part then .trap 9 (BitVec.ofNat 32 core)
  else .parts [{ place := .loc key, n := n, l1 := false }]

/-- Whether an address lies in the domain window (R374). -/
def inDomain (va : Nat) : Bool := decide (0x00F8000000000000 ≤ va) && decide (va < 0x0100000000000000)

/-- The address an access of `ea` names, where its translation is missing at `va`: in the domain window, the window's (R374). -/
def winAddr (ea va : Nat) : Nat := if inDomain ea then ea / 2 ^ 41 * 2 ^ 41 + va % 2 ^ 41 else va

/-- The domain window (R374): the accessor's own package loops back to the remote partition's table; another package is reached
by its window address (R375), which its home walkers translate first while a route reaches it (log 137). -/
def resolveDomain (s : State) (look : Nat → Nat → Option Trans) (part va n : Nat) (need : Need) : LocRes :=
  let ctl := s.regN (partReg part 0x44)
  if !bit ctl 0 then .park 4 (va / 65536 * 65536) va none else
  let idx := bits va 50 41
  let rva := bits va 40 0
  if idx = s.pkgId % 1024 then
    match s.resolveVa look (bits ctl 6 1) rva n need va with
    | .park k _ a p => .park k (va / 65536 * 65536) a p
    | r => r
  else
    let far : Part := { place := .remote (bits va 50 0), n := n }
    match look part va with
    | some tr => if tr.grants need then .parts [{ far with lease := tr.lease }] else .park 2 (va / 65536 * 65536) va none
    | none =>
      if s.pkg.links.isEmpty || (s.partition part).lost.has idx then .parts [{ far with l1 := false }] else .miss part va

/-- What the home walkers of another package answer for a window address: a fault of one of the kinds a walk meets, or a
translation (R361, R374; log 137). -/
def remoteWalk (walk part va : Nat) : WalkRes :=
  let v := Config.remoteWalk walk part (va / 65536)
  match ([1, 2, 5, 6, 7, 8] : List Nat)[v % 7]? with
  | some kind => .fault kind
  | none => .found
      { part := part, base := va / 65536 * 65536, size := 65536, host := false, frame := 0, lease := v / 7 % 8, key := 0
        r := bit (v / 56) 0, w := bit (v / 56) 1, x := false, m := false } 0

/-- The fabric windows (R374). -/
def resolveFabric (s : State) (look : Nat → Nat → Option Trans) (part va n : Nat) (need : Need) : LocRes :=
  if 0x00F0000300000000 ≤ va ∧ va < 0x00F0000300040000 then
    .parts [{ place := .reg (queueReg (64 * part) (va - 0x00F0000300000000)), n := n, l1 := false }]
  else if 0x00F0000400000000 ≤ va ∧ va < 0x00F0000400000080 then
    .parts [{ place := .doorbell ((va - 0x00F0000400000000) / 8), n := n, l1 := false }]
  else if 0x00F8000000000000 ≤ va then s.resolveDomain look part va n need
  else .park 4 (va / 65536 * 65536) va none

/-- Resolve a piece of an access that begins in translated memory or the domain window: one line (R72, R73). Where the access has
run past the region it began in, the piece faults with kind 0x04 at its own address, or 0x03 where that is non-canonical (DESIGN
CHOICE, log 139). -/
def resolvePiece (s : State) (look : Nat → Nat → Option Trans) (part va n : Nat) (need : Need) : LocRes :=
  match regionOf va with
  | .translated => s.resolveVa look part va n need va
  | .nonCanonical => .park 3 (va / 65536 * 65536) va none
  | _ => if inDomain va then s.resolveDomain look part va n need else .park 4 (va / 65536 * 65536) va none

/-- Resolve n bytes at effective address ea in a space, for an accessor of a partition at a home (R56-R61, R199). -/
def locateVia (s : State) (look : Nat → Nat → Option Trans) (part : Nat) (h : Home) (space : Nat) (ea : W64) (n : Nat)
    (need : Need) : LocRes :=
  let a := ea.toNat
  match space with
  | 1 => if localBytes ≤ a ∨ localBytes < a + n then .trap 6 ea.lo
         else .parts [{ place := .loc (locKey h.refCore a), n := n, l1 := false }]
  | 2 => if 0x400000 ≤ a ∨ localBytes < a % 2 ^ 15 + n then .trap 6 ea.lo
         else .parts [{ place := .loc (scratchKey h.stand a), n := n, l1 := false }]
  | 3 =>
    let x := (coreX h.refCore : Int) + signExt 10 (a / 2 ^ 15)
    let y := (coreY h.refCore : Int) + signExt 10 (a / 2 ^ 25)
    if 2 ^ 35 ≤ a ∨ x < 0 ∨ 511 < x ∨ y < 0 ∨ 511 < y then .trap 6 ea.lo
    else s.resolveLoc part (locKey (coreAt x.toNat y.toNat) (a % 2 ^ 15)) n ea
  | _ =>
    match regionOf a with
    | .loc key => s.resolveLoc part key n ea
    | .scratch o =>
      if localBytes < o % 2 ^ 15 + n then .trap 6 ea.lo
      else .parts [{ place := .loc (scratchKey h.stand o), n := n, l1 := false }]
    | .nonCanonical => .park 3 (a / 65536 * 65536) a none
    | region =>
      if region = .fabric ∧ !inDomain a then s.resolveFabric look part a n need
      else joinLoc ((linePieces a (n + 1) n).map fun p => s.resolvePiece look part (p.1 % 2 ^ 64) p.2 need)

/-- Resolve an access of a thread. -/
def locate (s : State) (t space : Nat) (ea : W64) (n : Nat) (need : Need) : LocRes :=
  match s.thread? t with
  | none => .wait
  | some th => s.locateVia (s.cached t) th.part (s.homeOf t) space ea n need

/-- A stand's cached translation of an address (R354). -/
def standCached (s : State) (stand part va : Nat) : Option Trans := (s.stand stand).tlb.find? (·.covers part va)

/-- Resolve an access of a unit of a stand, with its own cache, at a full address of R56. -/
def locateUnit (s : State) (cache stand part : Nat) (va n : Nat) (need : Need) : LocRes :=
  s.locateVia (s.unitCached cache) part (.plist stand) 0 (BitVec.ofNat 64 va) n need

/-- A 4 KiB page of a partition as one number. -/
def pageKey (part va : Nat) : Nat := part * 2 ^ 52 + va / 4096

/-- The partition and address that translate an access: in the domain window's own package, those of the partition named
there (R374). -/
def transAddr (s : State) (part va : Nat) : Nat × Nat :=
  if inDomain va && bits va 50 41 == s.pkgId % 1024 then (bits (s.regN (partReg part 0x44)) 6 1, bits va 40 0)
  else (part, va)

/-- A task's buffer or a cruise's shadow holds bytes of a range: the pages it was translated under are noted (R355). -/
def notePages (s : State) (task cruise : Option Nat) (part va n : Nat) : State :=
  let (p, v) := s.transAddr part va
  let add (ps : NatSet) : NatSet :=
    (List.range ((v + n - 1) / 4096 + 1 - v / 4096)).foldl (fun (q : NatSet) k => q.add (pageKey p v + k)) ps
  let s := match task with
    | some j => { s with tasks := s.tasks.mod j fun x => { x with pages := add x.pages } }
    | none => s
  match cruise with
  | some c => { s with cruises := s.cruises.mod c fun x => { x with pages := add x.pages } }
  | none => s

/-- Whether a unit's walk for a page is under way. -/
def asksUnit (s : State) (stand part va : Nat) : Bool :=
  s.walks.any fun w => w.2.who == .none && w.2.stand == stand && w.2.part == part && w.2.va / 65536 == va / 65536

/-- Ask for a translation on behalf of an engine whose access begins at `ea`, once (R351). -/
def askUnit (s : State) (who : Origin) (stand part va ea : Nat) (need : Need) (pc : W64 := 0) : State :=
  if s.walks.any fun w => w.2.who == who && w.2.va / 65536 == va / 65536 then s
  else
    let (k, s) := s.fresh
    let w : Walk :=
      { part := part, stand := stand, va := va, write := need.w, read := need.r, fetch := false, atomic := false
        who := who, pc := pc, addr := winAddr ea va }
    { s with walks := s.walks.put k w }

/-- Ask for a translation on behalf of a thread whose access begins at `ea`, joining a walk of the same 4 KiB and access already
under way (R351); a host's pages are that small (R356). -/
def askWalk (s : State) (t part va ea : Nat) (need : Need) (atomic : Bool) : State :=
  let h := s.homeOf t
  let addr := winAddr ea va
  match s.walks.find? fun _ w =>
      w.part == part && w.stand == h.stand && w.va / 4096 == va / 4096 && w.write == need.w && w.read == need.r &&
        w.fetch == need.x with
  | some (k, w) =>
    match w.who with
    | .threads ts f =>
      if ts.contains t then s else
      let w' := { w with who := .threads (ts ++ [t]) f, addr := min w.addr addr }
      { s with walks := s.walks.put k w' }
    | _ => s
  | none =>
    let (k, s) := s.fresh
    let w : Walk :=
      { part := part, stand := h.stand, va := va, write := need.w, read := need.r, fetch := need.x, atomic := atomic
        who := .threads [t] need.x, pc := ((s.thread? t).map (·.pc)).getD 0, addr := addr }
    { s with walks := s.walks.put k w }

/-- What an access check answers (R402, R359). -/
def locCheck (s : State) (t : Nat) (need : Need) (atomic : Bool) (r : LocRes) : Check :=
  match r with
  | .parts _ => .ok
  | .trap c i => .trap c i
  | .park k p a pasid =>
    if s.faultRoom (standDie (s.homeOf t).stand) then .park k p a need.w atomic pasid else .hold
  | .miss _ _ | .wait | .route _ => .hold

end State

/-! ### Instruction fetch -/

/-- The outcome of fetching at a PC (R116). -/
inductive FetchRes where
  | bytes (bs : List Byte)
  | fault (kind page addr : Nat)
  | miss (va : Nat)
  /-- The word at this physical address cannot be delivered, under this key, or is poisoned (R377, R380; log 135). -/
  | poisoned (pa key : Nat)
deriving DecidableEq, Repr

namespace State

/-- One 4-byte word of an instruction. -/
def fetchWord (s : State) (t part va : Nat) : FetchRes :=
  match regionOf va with
  | .translated =>
    if !bit (s.regN (transReg part 8)) 0 then .fault 1 (va / 65536 * 65536) va else
    match s.cached t part va with
    | none => .miss va
    | some tr =>
      if tr.host || !tr.x then .fault 2 (if tr.host then va / 4096 * 4096 else tr.base) va
      else
        let pa := tr.frame + (va - tr.base)
        if s.lineBad (pa / 64) tr.key || s.mem.dramPoison.has (pa / 4) then .poisoned pa tr.key
        else .bytes (s.mem.dram.read pa 4)
  | .nonCanonical => .fault 3 (va / 65536 * 65536) va
  | _ => .fault 9 (va / 65536 * 65536) va

/-- Fetch n words from va up (R116): the first word that fails decides. -/
def fetchWords (s : State) (t part : Nat) : Nat → Nat → FetchRes
  | 0, _ => .bytes []
  | n + 1, va =>
    match s.fetchWord t part va with
    | .bytes bs =>
      match s.fetchWords t part n (va + 4) with
      | .bytes r => .bytes (bs ++ r)
      | e => e
    | e => e

/-- Fetch the instruction at a PC: its first word fixes its length (R116). -/
def fetch (s : State) (t part : Nat) (pc : W64) : FetchRes :=
  match s.fetchWord t part pc.toNat with
  | .bytes bs =>
    match wordsOfBytes bs with
    | w0 :: _ => s.fetchWords t part (wordCount w0) pc.toNat
    | [] => .bytes []
  | e => e

end State

end Sys2Proof.Machine
end

