-- ==== Sys2Proof/Machine/TaskMem.lean ====
section
/-!
DEFINITION. What a task's accesses see and leave (11 R270, R273, R274; 03 R95), and the shadow of a cruise
(03 R95, 18 R344). A byte of translated memory goes by one number: its physical address, or above 2^64 its place in
host memory.
-/

namespace Sys2Proof.Machine

/-- Where host memory begins among byte numbers. -/
def hostBase : Nat := 2 ^ 64

/-- The number of a translated byte. -/
def Place.byteKey : Place → Nat
  | .dram pa => pa
  | .host pasid va => hostBase + pasid * 2 ^ 64 + va
  | _ => 0

/-- A byte of translated memory: device or host memory. -/
def Place.translated : Place → Bool
  | .dram _ | .host _ _ => true
  | _ => false

/-- The address by which a stand's L1 and the homes number a byte that may be held under a lease: that of device memory, or of
another package past all of those (R85, R374). -/
def Place.copyAddr : Place → Option Nat
  | .dram pa => some pa
  | .remote a => some (2 ^ 51 + a)
  | _ => none

/-- Tasks in the order of their keys, compared field by field (R266). -/
def TaskKey.lt (a b : TaskKey) : Bool :=
  if a.stamp ≠ b.stamp then decide (a.stamp < b.stamp)
  else if a.time ≠ b.time then decide (a.time < b.time)
  else if a.stand ≠ b.stand then decide (a.stand < b.stand)
  else decide (a.seq < b.seq)

/-- The 256-byte granule of a byte (R95). -/
def granule (k : Nat) : Nat := k / 256

/-- A byte with one half taken from another. -/
def withHalf (b : Byte) (h : Nat) (v : Byte) : Byte :=
  if h = 0 then (b &&& 0xF0) ||| (v &&& 0x0F) else (v &&& 0xF0) ||| (b &&& 0x0F)

/-- The half-bytes an access to a byte touches: one for a 4-bit element, else both (R200). -/
def halves : Option Nat → List Nat
  | some h => [h]
  | none => [0, 1]

/-- The stored form of an element: a 4-bit element moves to the half it is stored in (R200, R202). -/
def placeNibble (nib : Option Nat) (v : Byte) : Byte := if nib = some 1 then v <<< 4 else v

namespace State

/-- A byte of translated memory at its home. -/
def keyByte (s : State) (k : Nat) : Byte :=
  if k < hostBase then s.mem.dram.readByte k else s.mem.host.readByte (k - hostBase)

/-- Whether a byte of translated memory lies in a poisoned word. -/
def keyPoison (s : State) (k : Nat) : Bool :=
  if k < hostBase then s.mem.dramPoison.has (k / 4) else s.mem.hostPoison.has ((k - hostBase) / 4)

/-- The cruise a launch runs as, while it is unclaimed (R343). -/
def cruiseOf (s : State) (launch : Nat) : Option Nat := (s.launch? launch).bind (·.cruise)

/-- One half of a byte as a cruise reads it: its shadow first (R344). -/
def cruiseByte (s : State) (x : Cruise) (k : Nat) : Byte :=
  let half (h : Nat) : Byte := if x.written.has (2 * k + h) then x.shadow.readByte k else s.keyByte k
  withHalf (half 0) 1 (half 1)

/-- A byte as a launch's threads read memory: a cruise reads its shadow first (R95). -/
def launchByte (s : State) (l k : Nat) : Byte :=
  match (s.cruiseOf l).bind s.cruises.get? with
  | some x => s.cruiseByte x k
  | none => s.keyByte k

/-- The uncommitted task of highest key below a task's own whose buffer holds a half-byte (R273). -/
def earlierWriter (s : State) (x : Task) (half : Nat) : Option (Nat × Task) :=
  s.tasks.foldl (fun (best : Option (Nat × Task)) e =>
    if e.2.launch == x.launch && e.2.key.lt x.key && e.2.dead.isNone && e.2.written.has half then
      match best with
      | some b => if b.2.key.lt e.2.key then some e else some b
      | none => some e
    else best) none

/-- One half of a byte as a task reads it, with the task depended on and whether memory supplied it (R273). -/
def taskHalf (s : State) (x : Task) (k h : Nat) : Byte × Option Nat × Bool :=
  if x.written.has (2 * k + h) then (x.buf.readByte k, none, false)
  else
    match s.earlierWriter x (2 * k + h) with
    | some (j, y) => (y.buf.readByte k, some j, false)
    | none => (s.launchByte x.launch k, none, true)

/-- A byte as a task reads it. -/
def taskByte (s : State) (x : Task) (k : Nat) : Byte :=
  withHalf (s.taskHalf x k 0).1 1 (s.taskHalf x k 1).1

/-- A task has read bytes: they join its read set with their granules, and it depends on the tasks whose buffers gave
them (R273). -/
def noteTaskRead (s : State) (j : Nat) (ks : List Nat) (nib : Option Nat) : State :=
  match s.tasks.get? j with
  | none => s
  | some x =>
    let deps := ks.flatMap fun k => (halves nib).filterMap fun h => (s.taskHalf x k h).2.1
    let x' : Task :=
      { x with readGran := ks.foldl (fun (p : NatSet) k => p.add (granule k)) x.readGran
               readBytes := ks.foldl (fun (p : NatSet) k => p.add k) x.readBytes
               deps := deps.foldl (fun (p : NatSet) d => p.add d) x.deps }
    { s with tasks := s.tasks.put j x' }

/-- A task's write reaches its buffer alone (R270); every uncommitted task of the launch of higher key whose read set
holds a granule of it is aborted (R274). -/
def taskWrite (s : State) (j : Nat) (cells : List (Nat × Byte)) (nib : Option Nat) : State :=
  match s.tasks.get? j with
  | none => s
  | some x =>
    let put (x : Task) (c : Nat × Byte) : Task :=
      let b := (halves nib).foldl (fun b h => withHalf b h c.2) (x.buf.readByte c.1)
      { x with buf := x.buf.writeByte c.1 b
               written := (halves nib).foldl (fun (p : NatSet) h => p.add (2 * c.1 + h)) x.written }
    let x' := cells.foldl put x
    let s := { s with tasks := s.tasks.put j x' }
    let grans := (cells.map fun c => granule c.1).eraseDups
    let hit := s.tasks.filter fun _ u =>
      x.dead.isNone && u.launch == x.launch && x.key.lt u.key && u.phase != .committing && grans.any u.readGran.has
    hit.foldl (fun s e => s.conflict (cells.map (·.1)) e) s

/-- The memory keys of lines a task or a cruise writes (R377). -/
def noteKeys (s : State) (j : Option Nat) (c : Option Nat) (ps : List (Nat × Nat)) : State :=
  let add (t : Table Nat) : Table Nat := ps.foldl (fun (t : Table Nat) p => t.put p.1 p.2) t
  let s := match j with
    | some k => { s with tasks := s.tasks.mod k fun x => { x with keys := add x.keys } }
    | none => s
  match c with
  | some k => { s with cruises := s.cruises.mod k fun x => { x with keys := add x.keys } }
  | none => s

/-- Whether a task may access n bytes at a translated address: every granule of the access lies in a declared range of
the kind (R265, R270). -/
def taskRange (x : Task) (va n : Nat) (need : Need) : Bool :=
  (List.range ((va + n - 1) / 256 + 1 - va / 256)).all fun d =>
    x.ranges.any fun r =>
      decide (r.base / 256 ≤ va / 256 + d) && decide (va / 256 + d ≤ (r.base + r.len - 1) / 256) &&
        (!need.r || r.r) && (!need.w || r.w)

/-- Whether more than a limit of bytes' numbers are homed on one die. -/
def dieOverflow (limit : Nat) (ks : List Nat) : Bool :=
  decide (limit < ks.length) && (List.range 4).any fun d => decide (limit < (ks.filter fun k => homeDie k == d).length)

/-- A cruise writes its shadow alone (R95): each die's holds 1,024 lines (R344, R346). -/
def cruiseWrite (s : State) (c : Nat) (cells : List (Nat × Byte)) (nib : Option Nat) (bad : List Nat := []) : State :=
  { s with cruises := s.cruises.mod c fun x =>
      let x := cells.foldl (fun (x : Cruise) c =>
        let b := (halves nib).foldl (fun b h => withHalf b h c.2) (x.shadow.readByte c.1)
        { x with shadow := x.shadow.writeByte c.1 b, poison := x.poison.set c.1 (bad.contains c.1)
                 written := (halves nib).foldl (fun (p : NatSet) h => p.add (2 * c.1 + h)) x.written }) x
      let lines := ((x.written.map fun h => h / 128).eraseDups).map fun l => 64 * l
      if dieOverflow 1024 lines then x.cause 4 else x }

/-- A cruise has read bytes (R95): each die registers 65,536 granules (R344, R346). -/
def noteCruiseRead (s : State) (c : Nat) (ks : List Nat) : State :=
  { s with cruises := s.cruises.mod c fun x =>
      let x := { x with readGran := ks.foldl (fun (p : NatSet) k => p.add (granule k)) x.readGran }
      if dieOverflow 65536 (x.readGran.map (256 * ·)) then x.cause 2 else x }

/-- The lines of a list of bytes' numbers, each as a part at its first byte. -/
def lineParts (place : Nat → Place) (ks : List Nat) : List Part :=
  ((ks.map (· / 64)).eraseDups).map fun l => { place := place ((ks.filter fun k => k / 64 == l).foldl min (64 * l + 63)), n := 64 }

/-- An engine has read parts on behalf of a launch: an unclaimed cruise registers what it read, and is to be discarded where
that lies outside device and local memory (R344, R346). -/
def noteEngineRead (s : State) (l : Nat) (ps : List Part) : State :=
  match s.cruiseOf l with
  | none => s
  | some c => ps.foldl (fun (s : State) p =>
      match p.place with
      | .dram pa => s.noteCruiseRead c ((List.range p.n).map fun j => pa + j)
      | .loc _ => s
      | _ => { s with cruises := s.cruises.mod c fun x => x.cause 8 }) s

/-- Whether a byte comes poisoned to a cruise, given whether memory holds it poisoned. -/
def cruisePoison (x : Cruise) (k : Nat) (nib : Option Nat) (mem : Bool) : Bool :=
  x.poison.has k || (mem && (halves nib).any fun h => !x.written.has (2 * k + h))

end State

end Sys2Proof.Machine
end

