-- ==== Sys2Proof/Machine/Places.lean ====
section
/-!
DEFINITION. Reading and writing bytes where they live (02 R60, R62; 19 R363-R365; 20 R377; 21 R380-R382): poison of
words and lines, memory keys, error classes, and accesses to a failed tier 2 or a lost package.
-/

namespace Sys2Proof.Machine

namespace State

/-- The CXL port of a physical address (R363). -/
def cxlPort (pa : Nat) : Option Nat :=
  if 0x100000000000 ≤ pa ∧ pa < 0x120000000000 then some 0
  else if 0x120000000000 ≤ pa ∧ pa < 0x140000000000 then some 1
  else none

/-- Whether a place lies behind a failed CXL port or in a package declared lost (R365, R375). -/
def placeLost (s : State) (part : Nat) (p : Place) : Bool :=
  match p with
  | .dram pa =>
    match cxlPort pa with
    | some k => bit (s.regN (cxlReg k 4)) 0
    | none => false
  | .remote a => (s.partition part).lost.has (bits a 50 41)
  | _ => false

/-- Whether an access to another package waits for a link route (R375). -/
def placeWaits (s : State) (part : Nat) (p : Place) : Bool :=
  match p with
  | .remote _ => !s.placeLost part p && s.pkg.links.isEmpty
  | _ => false

/-- The key of the wait of a partition's engines for a route to a package. -/
def routeKey (part pkg : Nat) : Nat := part * 1024 + pkg

/-- A wait for a route that has begun; one that was given up earlier begins anew. -/
def routeBegun (s : State) (key : Nat) : Bool := (s.routeWait.get? key).any fun g => !g.2 || g.1 == s.gtc

/-- A wait for a route has lasted 50 µs, or has just been given up for that (R375). -/
def routeOver (s : State) (key : Nat) : Bool :=
  (s.routeWait.get? key).any fun g => if g.2 then g.1 == s.gtc else decide (g.1 + 50000 ≤ s.gtc)

/-- An engine's access has waited 50 µs for a route (R375). -/
def routeGone (s : State) (part : Nat) (p : Place) : Bool :=
  match p with
  | .remote a => s.placeWaits part p && s.routeOver (routeKey part (bits a 50 41))
  | _ => false

/-- A place an engine's access does not reach: a failed tier 2, a lost package, or one no route has reached for 50 µs (R365,
R375). -/
def unitLost (s : State) (part : Nat) (p : Place) : Bool := s.placeLost part p || s.routeGone part p

/-- An engine's access to a package without a route begins to wait (R375). -/
def beginRoute (s : State) (part pkg : Nat) : State := { s with routeWait := s.routeWait.put (routeKey part pkg) (s.gtc, false) }

/-- An engine's access has given a route up: a later one waits anew. -/
def endRoutes (s : State) (part : Nat) (ps : List Part) : State :=
  ps.foldl (fun (s : State) p => match p.place with
    | .remote a => { s with routeWait := s.routeWait.mod (routeKey part (bits a 50 41)) fun _ => (s.gtc, true) }
    | _ => s) s

/-- A unit of the part may read, or write, a place now as far as its line goes: an engine that owns it has the final bytes
still to write, and a write waits for leases and earlier writes too (R87, R91). -/
def unitLineOpen (s : State) (write : Bool) (p : Place) : Bool :=
  match p with
  | .dram pa => if write then s.unitLine (pa / 64) else (s.home (pa / 64)).owner.isNone && !s.rehoming (pa / 64)
  | _ => true

/-- Bytes at a place with the poison of each, as an access under a page's key reads them. -/
def readPlace (s : State) (p : Place) (n key : Nat) : List Byte × List Bool :=
  match p with
  | .dram pa =>
    (s.mem.dram.read pa n,
      (List.range n).map fun k => s.mem.dramPoison.has ((pa + k) / 4) || s.lineBad ((pa + k) / 64) key)
  | .loc k => (s.locBytes k n, (List.range n).map fun j => s.locBad (k + j))
  | .host d a =>
    let b := d * 2 ^ 64 + a
    (s.mem.host.read b n, (List.range n).map fun j => s.mem.hostPoison.has ((b + j) / 4))
  | .remote a => (s.mem.remote.read a n, (List.range n).map fun _ => false)
  | .reg off => (bytesOfNat n (s.regN (off / 4 * 4) / 2 ^ (8 * (off % 4))), (List.range n).map fun _ => false)
  | .doorbell _ => ((List.range n).map fun _ => 0, (List.range n).map fun _ => false)

/-- A line about to be written in part: contents that could not be delivered become poisoned words, and the line is
held under the writer's key from then on; a rewrite that was scheduled for it is dropped (R377, R380, R381). -/
def settleLine (s : State) (line key : Nat) : State :=
  let p := if s.lineBad line key then (List.range 16).foldl (fun (p : NatSet) w => p.add (16 * line + w)) s.mem.dramPoison
    else s.mem.dramPoison
  { s with
    mem := { s.mem with
      dramPoison := p, faulty := s.mem.faulty.del line, lineKey := s.mem.lineKey.put line (key, s.keyGenOf key) }
    pkg := { s.pkg with rewrite := s.pkg.rewrite.remove line } }

/-- The bytes to store in place of those there: one half of a byte for a 4-bit element. -/
def mergeNibble (old : List Byte) (bs : List Byte) : Option Nat → List Byte
  | some h => (old.zip bs).map fun p => withHalf p.1 h p.2
  | none => bs

/-- Poison each word that a poisoned byte of a write touches. -/
def addPoison (p : NatSet) (a : Nat) (flags : List Bool) : NatSet :=
  ((List.range flags.length).zip flags).foldl (fun (p : NatSet) f => if f.2 then p.add ((a + f.1) / 4) else p) p

/-- Store bytes at a place with the poison of each, under a page's key; a 4-bit element is merged there (R200). -/
def storePlace (s : State) (p : Place) (key : Nat) (bs : List Byte) (flags : List Bool) (nib : Option Nat := none) : State :=
  match p with
  | .dram pa =>
    let s := s.settleLine (pa / 64) key
    let s := if nib.isSome then
        { s with mem := { s.mem with dram := s.mem.dram.write pa (mergeNibble (s.mem.dram.read pa bs.length) bs nib) } }
      else s.dramStore pa bs
    { s with mem := { s.mem with dramPoison := addPoison s.mem.dramPoison pa flags } }
  | .loc k =>
    let keep := s.mem.locPoison
    let s := s.locStore k (mergeNibble (s.locBytes k bs.length) bs nib)
    let s := if nib.isSome then { s with mem := { s.mem with locPoison := keep } } else s
    { s with mem := { s.mem with locPoison := addPoison s.mem.locPoison k flags } }
  | .host d a =>
    let b := d * 2 ^ 64 + a
    let m := s.mem.host.write b (mergeNibble (s.mem.host.read b bs.length) bs nib)
    let q := if nib.isSome then s.mem.hostPoison else poisonWrite s.mem.hostPoison b bs.length false
    { s with mem := { s.mem with host := m, hostPoison := addPoison q b flags } }
  | .remote a => { s with mem := { s.mem with remote := s.mem.remote.write a (mergeNibble (s.mem.remote.read a bs.length) bs nib) } }
  | _ => s

/-- A write to a place: tasks and cruises that read a granule of translated memory hear of it (R95). -/
def writePlace (s : State) (p : Place) (key : Nat) (bs : List Byte) (flags : List Bool) (nib : Option Nat := none)
    (mine : Option Nat := none) : State :=
  let t := s.storePlace p key bs flags nib
  if p.translated then t.noteWrite p.byteKey bs.length mine else t

/-- A list of writes performed as one step, noted as one write (R95): place, key, bytes, poison and half. -/
def writePlaces (s : State) (ws : List (Place × Nat × List Byte × List Bool × Option Nat)) (mine : Option Nat) : State :=
  (ws.foldl (fun (s : State) w => s.storePlace w.1 w.2.1 w.2.2.1 w.2.2.2.1 w.2.2.2.2) s).noteWrites
    (ws.flatMap fun w => (List.range w.2.2.1.length).map fun k => w.1.byteKey + k) mine

/-- A number of a unit (R386): its kind and its number within the kind. -/
def unitNo (kind n : Nat) : Nat := kind * 2 ^ 24 + n

/-- A page has returned uncorrectable data within the last 24 h (R381). -/
def pageAgain (s : State) (pa : Nat) : Bool :=
  (s.pkg.pageErr.get? (pa / 65536)).any fun g => decide (s.gtc < g + 86400000000000)

/-- Reading a line may go on: the records its page's report would take have room (R371, R381, R393). -/
def eccRoom (s : State) (pa key : Nat) : Bool :=
  !(s.lineBad (pa / 64) key && s.pageAgain pa) || (s.eventRoom (homeDie pa) && s.logRoom)

/-- Reading parts may go on, as `eccRoom` says of their lines. -/
def readsFit (s : State) (ps : List Part) : Bool :=
  ps.all fun p => match p.place with
    | .dram pa => s.eccRoom pa p.key
    | _ => true

/-- A misdirected access is counted, and noted against the agent that made it (R380, R385). -/
def noteMisdirected (s : State) (unit : Option Nat) : State :=
  let s := s.bumpReg 0x610000C 1
  match unit with
  | some u => { s with pkg := { s.pkg with misdirected := s.pkg.misdirected.put u ((s.gtc :: s.pkg.misdirected.getD u []).take 2) } }
  | none => s

/-- A corrected error is counted, and noted against the SRAM structure it was found in (R380, R385, R386). -/
def noteSram (s : State) (sram unit : Nat) : State :=
  let times := (s.pkg.corrected.get? sram).elim [] Prod.snd
  { s with pkg := { s.pkg with
      corrected := s.pkg.corrected.put sram (unit, (s.gtc :: times).take 256) } }.bumpReg 0x6100004 1

/-- A line that cannot be delivered is counted, and noted against its page, which is reported at the second within 24 h
(R380, R381): to the log, and to the partition whose access returned it (R386). -/
def noteBadLine (s : State) (pa : Nat) (part unit : Option Nat) : State :=
  let s := if s.mem.faulty.getD (pa / 64) 0 = 3 then s.noteMisdirected unit else s
  let s := s.bumpReg 0x6100008 1
  let page := pa / 65536
  let again := s.pageAgain pa
  let s := { s with pkg := { s.pkg with pageErr := if again then s.pkg.pageErr.del page else s.pkg.pageErr.put page s.gtc } }
  if again then
    let idx := 0x10 * 2 ^ 24 + bits pa 44 21
    let s := part.elim s fun k => s.eventWord k (homeDie pa) 5 idx 5 (bits pa 44 16)
    s.logWord 5 idx 5 (bits pa 44 16)
  else s

/-- A corrected line is counted and scheduled for rewriting (R380, R381). -/
def noteCorrected (s : State) (line : Nat) : State :=
  { s with pkg := { s.pkg with rewrite := s.pkg.rewrite.add line } }.bumpReg 0x6100004 1

/-- What the decoder counts when an agent of a partition reads a line of device memory (R380, R381). -/
def noteEcc (s : State) (pa key part : Nat) (unit : Option Nat) : State :=
  let line := pa / 64
  if s.lineBad line key then s.noteBadLine pa (some part) unit
  else if s.mem.faulty.getD line 0 = 1 then s.noteCorrected line
  else s

/-- What the decoder counts when an engine of a partition reads parts (R380, R381). -/
def noteReads (s : State) (part : Nat) (ps : List Part) (unit : Option Nat := none) : State :=
  ps.foldl (fun (s : State) p => match p.place with
    | .dram pa => s.noteEcc pa p.key part unit
    | _ => s) s

/-- The report record of an operation, with its origin as it issued (R360). -/
def reportOrigin (s : State) (o : MemOp) (kind page addr : Nat) : FRec :=
  let (st, wv, sl) := o.home.originFields
  { seq := 0, kind := kind, source := o.source, write := o.kind != .load, atomic := o.kind == .atomic, page := page, addr := addr
    launch := s.launchId o.launch, stand := st, wave := wv, slot := sl, lanes := 2 ^ o.home.lane, pc := o.pc }

/-- The address a record of a lost access names: its physical or window address. -/
def lostAddr (p : Place) : Nat × Bool :=
  match p with
  | .dram pa => (pa, true)
  | .remote a => (0x00F8000000000000 + a, false)
  | _ => (0, false)

/-- A report record with the address of a lost access (R360, R365). -/
def lostRecord (r : FRec) (p : Place) : FRec :=
  let (a, phys) := lostAddr p
  { r with page := a / 65536 * 65536, addr := a, phys := phys }

/-- Report a load from or a store to a failed tier 2 or a lost package (R361, R365, R375). -/
def reportLost (s : State) (o : MemOp) (p : Place) (kind : Nat) : State :=
  s.reportFault o.part (standDie o.stand) (lostRecord (s.reportOrigin o kind 0 0) p)

/-- The record of such an access of an engine, by SOURCE, home of the group it works for or its stand, launch id and the PC of the
instruction behind it (R360, R361, R365). -/
def unitRecord (source : Nat) (h : Home) (launch kind : Nat) (p : Place) (pc : W64 := 0) (lanes : Nat := 0) : FRec :=
  let (st, wv, sl) := h.originFields
  lostRecord
    { seq := 0, kind := kind, source := source, write := kind == 0x11, page := 0, addr := 0, launch := launch, stand := st
      wave := wv, slot := sl, pc := pc, lanes := lanes } p


/-- A thread has lost a store (R204, R208): one of a saved launch keeps the count with its other state. -/
def countLost (s : State) (t : Nat) : State :=
  let more (x : Thread) : Thread := { x with lost := x.lost + 1 }
  { s.modThread t more with
    saved := s.saved.map fun v => (v.1, { v.2 with threads := v.2.threads.mod t more }) }

/-- A store to a failed tier 2 is counted at its port, and its launch will report it (R336, R365). -/
def countDropped (s : State) (l : Nat) (p : Place) : State :=
  let s := match p with
    | .dram pa => match cxlPort pa with
      | some k => s.bumpReg (cxlReg k 0xC) 1
      | none => s
    | _ => s
  s.modLaunch l fun x => { x with dropped := true }

end State

/-- An engine of the part that makes accesses of its own: its partition and die, and how its fault records name it: SOURCE, home,
launch, PC and lane (R360, R361). Of an access for no launch `launch` is none: the queue and collective engines, which R361 gives no SOURCE,
show 0 and no origin (DESIGN CHOICE, log 142). -/
structure Agent where
  part : Nat
  die : Nat := 0
  source : Nat := 0
  home : Home := .plist 0
  launch : Option Nat := none
  pc : W64 := 0
  lanes : Nat := 0
  /-- The unit a fence would name (R385); none of the queue and collective engines. -/
  unit : Option Nat := none

namespace State

/-- Report an engine's lost accesses, a record for each part; an unclaimed cruise leaves none (R346, R365, R375). -/
def unitReport (s : State) (u : Agent) (kind : Nat) (ps : List Part) : State :=
  if u.launch.any s.unclaimed then s else
  ps.foldl (fun (s : State) p =>
    s.reportFault u.part u.die (unitRecord u.source u.home (u.launch.elim 0 s.launchId) kind p.place u.pc u.lanes)) s

/-- Room for the records of an engine's lost parts, which coalesce page by page, and for more accesses of the same step (R359,
R361). -/
def lostFits (s : State) (u : Agent) (lost : List Part) : Bool :=
  s.faultRoom u.die (min 256 (max 32 ((lost.map fun p => (lostAddr p.place).1 / 65536).eraseDups.length)))

/-- What stands in the way of an engine's access to parts: a migration, a route, a line engaged at its home, or a record's room
(R87, R91, R359, R367, R375). -/
def unitBlock (s : State) (u : Agent) (write : Bool) (ps : List Part) : Option LocRes :=
  let fits := s.lostFits u (ps.filter fun p => s.unitLost u.part p.place)
  let open' (p : Part) : Bool :=
    !p.migHeld && (s.unitLost u.part p.place && fits ||
      !s.unitLost u.part p.place && !s.placeWaits u.part p.place && s.unitLineOpen write p.place && (write || s.readsFit [p]))
  if ps.all open' then none
  else
    let begins : Option Nat := ps.findSome? fun p => match p.place with
      | .remote a => if s.placeWaits u.part p.place && !s.routeBegun (routeKey u.part (bits a 50 41)) then
          some (bits a 50 41) else none
      | _ => none
    some (match begins with
      | some k => .route k
      | none => .wait)

/-- Bytes an engine reads, with their poison; a lost part gives poison (R365, R375). -/
def unitBytes (s : State) (u : Agent) (ps : List Part) : List Byte × List Bool :=
  ps.foldl (fun (a : List Byte × List Bool) p =>
    let (bs, qs) := s.readPlace p.place p.n p.key
    let qs := if s.unitLost u.part p.place then qs.map fun _ => true else qs
    (a.1 ++ bs, a.2 ++ qs)) ([], [])

/-- What an engine's read leaves: the errors found in its lines, and records of what is lost (R365, R375, R380, R381). -/
def unitNote (s : State) (u : Agent) (ps : List Part) : State :=
  let (lost, live) := ps.partition fun p => s.unitLost u.part p.place
  ((s.noteReads u.part live u.unit).unitReport u 0x12 lost).endRoutes u.part lost

/-- Store bytes over parts, those that are lost aside. -/
def storeParts (s : State) (lost : List Part) (src : Nat) : List Part → List Byte → List Bool → State
  | [], _, _ => s
  | p :: r, bs, qs =>
    let s := if bs.isEmpty || lost.contains p then s
      else (s.writePlace p.place p.key (bs.take p.n) (qs.take p.n)).tracePlace src p.place (bs.take p.n)
    s.storeParts lost src r (bs.drop p.n) (qs.drop p.n)

/-- Stores of an engine that are lost: each part is dropped, counted and reported (R365, R375). -/
def unitDrop (s : State) (u : Agent) (lost : List Part) : State :=
  let s := lost.foldl (fun (s : State) p => match u.launch with
    | some l => s.countDropped l p.place
    | none => match p.place with
      | .dram pa => (cxlPort pa).elim s fun k => s.bumpReg (cxlReg k 0xC) 1
      | _ => s) s
  (s.unitReport u 0x11 lost).endRoutes u.part lost

/-- Store bytes over parts as an engine does: what is lost is dropped, counted and reported (R365, R375). -/
def unitStore (s : State) (u : Agent) (ps : List Part) (bs : List Byte) (qs : List Bool := []) : State :=
  let lost := ps.filter fun p => s.unitLost u.part p.place
  (s.storeParts lost (s.unitSource u.home.stand) ps bs qs).unitDrop u lost

end State

end Sys2Proof.Machine
end

