-- ==== Sys2Proof/Machine/Arbitration.lean ====
section
/-!
DEFINITION. Run boundaries (01 R15-R18, 05 R131, R134): eligible paths, the choice of group and path, the start of a
run, fetching its next instruction, and a fetch that fails (05 R116).
-/

namespace Sys2Proof.Machine

/-- What the run in progress has next. -/
inductive Next where
  | instr (i : Instr)
  /-- Words that decode to nothing (R138). -/
  | illegal (ws : List W32)
  /-- The translation of the word at this address is still needed. -/
  | miss (va : Nat)
  | fault (kind page addr : Nat)
  /-- A word of it cannot be delivered, or is poisoned (R377, R380; log 135). -/
  | poisoned (pa key : Nat)
deriving DecidableEq, Repr

namespace State

/-- The instruction at a PC as a thread's group fetches it. -/
def nextAt (s : State) (t : Nat) (pc : W64) : Next :=
  match s.thread? t with
  | none => .illegal []
  | some th =>
    match s.fetch t th.part pc with
    | .bytes bs =>
      match decode bs with
      | .ok (i, _) => .instr i
      | .error _ => .illegal (wordsOfBytes bs)
    | .miss va => .miss va
    | .fault k p a => .fault k p a
    | .poisoned pa k => .poisoned pa k

/-! ### The regions of a sliced kernel -/

/-- A word of a kernel as the table and its home give it; none where it cannot be read now (R308, log 50). -/
def codeWord (s : State) (part va : Nat) : Option W32 :=
  if regionOf va != .translated || !s.walkable part va then none else
  match s.walk part va with
  | .found tr _ =>
    let pa := tr.frame + (va - tr.base)
    if tr.host || !tr.x || s.lineBad (pa / 64) tr.key || s.mem.dramPoison.has (pa / 4) then none
    else (wordsOfBytes (s.mem.dram.read pa 4)).head?
  | .fault _ => none

/-- The first instruction of a sliced kernel's execute region (R308): instructions are followed from the entry while SL is 1.
0 where one cannot be read now. -/
def findExecute (s : State) (part : Nat) : Nat → Nat → Nat
  | 0, _ => 0
  | fuel + 1, pc =>
    match s.codeWord part pc with
    | none => 0
    | some w0 =>
      if !w0.getLsbD 0 then pc else
      match s.codeWord part (pc + 4), s.codeWord part (pc + 8) with
      | some w1, some w2 =>
        if (X96.ofWords w0 w1 w2 none).sl then s.findExecute part fuel (pc + 4 * wordCount w0) else pc
      | _, _ => 0

/-- Where the execute region of a launch begins, 0 while that is not known: found at acceptance, or as soon as the access
region can be read (R308, log 50). -/
def execStart (s : State) (part l : Nat) : Nat :=
  let r := s.lrec l
  if r.execStart = 0 then s.findExecute part (2 ^ 20) r.entry else r.execStart

/-- A thread that was placed before its execute region could be found starts there now (R308, log 50). -/
def seekStart (s : State) (t : Nat) : State :=
  match s.thread? t with
  | none => s
  | some th =>
    let e := s.execStart th.part th.launch
    if !th.seeks || th.inTrap || e = 0 then s else
    (s.modLaunch th.launch fun x => { x with r := { x.r with execStart := e } }).modThread t fun x =>
      { x with pc := BitVec.ofNat 64 e, seeks := false }

/-- A thread may issue as far as its region is concerned: it does not wait to know where its execute region begins. -/
def inRegion (s : State) (t : Nat) : Bool := (s.thread? t).any fun th => !th.seeks || th.inTrap

/-- The threads a unit may issue for, in lane order: a context's, a slot's, or a skidder's access slices. -/
def unitThreads (s : State) (key grp : Nat) : List Nat :=
  if isSkidKey key then
    (sortBy (fun t => (s.homeOf t).lane) (s.threads.filter fun _ th =>
      match th.home with
      | .skidder m => decide (((s.thread? m).map fun x => skidKey x.home) = some key)
      | _ => false).keys)
  else s.groupThreads key grp

/-- Groups of a unit: 4 contexts, 32 slots, or the one access slice of a skidder. -/
def groupsOf (key : Nat) : List Nat := if isSkidKey key then [0] else List.range (if isWaveKey key then 32 else 4)

/-- Whether a thread's launch has its threads issuing: not before the stands it must hold are filled (R335). -/
def started (s : State) (t : Nat) : Bool :=
  (s.thread? t).any fun th => !(s.launch? th.launch).any fun l => l.phase == .pending

/-- The distinct PCs of a group's ready threads, lowest first, with the threads at each (R16). -/
def paths (s : State) (key grp : Nat) : List (W64 × List Nat) :=
  let units := s.unitThreads key grp
  -- A skidder of which one lane is parked stands still (R311).
  let held := isSkidKey key && units.any fun t => !s.issuing t
  let ready := units.filter fun t => !held && s.issuing t && s.started t && s.inRegion t
  let pcs := sortBy BitVec.toNat (ready.filterMap fun t => (s.thread? t).map (·.pc)).eraseDups
  pcs.map fun pc => (pc, ready.filter fun t => decide ((s.thread? t).map (·.pc) = some pc))

/-- Whether a guard predicate of an instruction is still empty for a thread (R121). -/
def guardEmpty (s : State) (t : Nat) (i : Ins) : Bool :=
  match s.thread? t with
  | some th => !(th.readP i.w.g1.toNat).full || !(th.readP i.w.g2.toNat).full
  | none => false

/-- Whether a path is eligible (R16, R125): nothing its next instruction reads or writes is empty in a thread it
would execute for. -/
def eligible (s : State) (p : W64 × List Nat) : Bool :=
  match p.2 with
  | [] => false
  | t :: _ =>
    match s.nextAt t p.1 with
    | .instr i =>
      match i.ins with
      | some n =>
        !n.wellFormed ||
          p.2.all fun u => !s.guardEmpty u n &&
            (!((s.thread? u).any fun th => guard th n) || !s.mustWait u n (u == t))
      | none => true
    | _ => true

/-- The runs a path of a slot has waited (R16). -/
def pathWaited (s : State) (key grp : Nat) (pc : W64) : Nat :=
  match s.slot? (waveOf key) grp with
  | some x => x.pathWait.getD pc.toNat 0
  | none => 0

/-- The better of two candidates: the greater measure, the earlier on a tie. -/
def better {α : Type} (m : α → Nat) (a b : α) : α := if m a < m b then b else a

/-- The first candidate of greatest measure. -/
def greatest {α : Type} (m : α → Nat) : List α → Option α
  | [] => none
  | a :: r => some (r.foldl (better m) a)

/-- The path a wave runs next (R16): a starved one, the longest waiting first; else the one with most threads; ties
go to the lowest PC. -/
def choosePath (s : State) (key grp : Nat) (ps : List (W64 × List Nat)) : Option (W64 × List Nat) :=
  match greatest (fun p => s.pathWaited key grp p.1) (ps.filter fun p => decide (64 ≤ s.pathWaited key grp p.1)) with
  | some p => some p
  | none => greatest (fun p => p.2.length) ps

/-- The launch priority of a group; a cruise counts as 0 (R344). -/
def groupPriority (s : State) (key grp : Nat) : Nat :=
  match (s.unitThreads key grp).head?.bind s.thread? with
  | none => 0
  | some th =>
    match s.launch? th.launch with
    | some l => if l.cruise.isSome then 0 else l.r.priority + 1
    | none => 0

/-- The runs a group of an engine has waited (R17): since it last issued, or since it became ready when it has not yet issued;
none recorded of other threads than those it has now. -/
def groupWaited (s : State) (key grp : Nat) : Option Nat :=
  match (s.engine key).wait.get? grp with
  | some (n, ts) => if (s.unitThreads key grp).any ts.contains then some n else none
  | none => none

/-- The group an engine serves next (R17), among its ready groups in rising number. -/
def chooseGroup (s : State) (key : Nat) (ready : List Nat) : Option Nat :=
  let e := s.engine key
  let limit := if isWaveKey key then 256 else 16
  let waited (g : Nat) : Nat := (s.groupWaited key g).getD 0
  match greatest waited (ready.filter fun g => decide (limit ≤ waited g)) with
  | some g => some g
  | none =>
    let open' := ready.filter fun g => !e.yielded.has g
    let cand := if open'.isEmpty then ready else open'
    let top := cand.foldl (fun m g => max m (s.groupPriority key g)) 0
    let same := cand.filter fun g => s.groupPriority key g == top
    match e.lastServed.get? top with
    | none => same.head?
    | some last =>
      match same.find? fun g => decide (last < g) with
      | some g => some g
      | none => same.head?

/-- The thread of an access slice is in a run, which may wait for the slice. -/
def mainRuns (s : State) (th : Thread) : Bool :=
  match th.home with
  | .skidder m => s.engines.any fun e => e.2.run.any fun r => r.members.contains m
  | _ => false

/-- What happens to a unit's threads at a run boundary before the choice: a pending matrix trap is delivered (R234), the
thread of an aborted task goes (R272),
and threads of a launch that stops do so, an access slice after its thread's run. -/
def boundary (s : State) (t : Nat) : State :=
  match s.thread? t with
  | none => s
  | some th =>
    match th.taskOf.filter fun k => (s.tasks.get? k).any fun x => x.dead.isSome with
    | some k => s.endDead k
    | none =>
    if th.status != .ready then s else
    if s.stopping th.launch && !s.mainRuns th && !(s.preempts th.launch && th.ray.isSome) then s.setStatus t .stopped
    else
      match th.pendingTrap with
      | some info => (s.modThread t fun x => { x with pendingTrap := none }).trap t 4 info
      | none => s

/-- Count the wait of every group and every eligible path that was not chosen (R16, R17), and record the choice. -/
def recordChoice (s : State) (key grp : Nat) (ready : List Nat) (ps : List (W64 × List Nat)) (pc : W64) : State :=
  let prio := s.groupPriority key grp
  let wait := (groupsOf key).filterMap fun g =>
    let ts := s.unitThreads key g
    if g = grp then some (g, 0, ts)
    else match s.groupWaited key g with
      | some n => some (g, n + 1, ts)
      | none => if ready.contains g then some (g, 1, ts) else none
  let s := s.modEngine key fun e =>
    { e with wait := wait, yielded := [], lastServed := e.lastServed.put prio grp }
  if isWaveKey key then
    let switched := (s.slot? (waveOf key) grp).any fun x => x.lastPath.any (· != pc)
    let s := if switched then s.countEvent key 5 1 else s
    s.modSlot (waveOf key) grp fun x =>
      let waited := ps.foldl (fun (t : Table Nat) p => if p.1 = pc then t else t.put p.1.toNat (x.pathWait.getD p.1.toNat 0 + 1)) []
      { x with pathWait := waited, lastPath := some pc }
  else s

/-- Start a run of the chosen path (R131). No carry survives the boundary (R133): what one reads that nothing in the run
has written is a free value. -/
def startRun (s : State) (key grp : Nat) (p : W64 × List Nat) : State :=
  let (k, s) := s.fresh
  let s := p.2.foldl (fun s t => s.modThread t fun th => { th with carry := Config.runCarry k t }) s
  (s.modEngine key fun e => { e with run := some { group := grp, members := p.2, pc := p.1, number := k } }).countEvent key 2 1

/-- The instruction a sliced thread waits at, where it is one that pops an empty queue (R311). -/
def noteWait (s : State) (t : Nat) : State :=
  match s.thread? t with
  | none => s
  | some th =>
    if !th.sliced then s else
    match s.nextAt t th.pc with
    | .instr i => i.ins.elim s fun n => s.notePops n [t]
    | _ => s

/-- The choice of R16 and R17 for an engine, if any group is ready. -/
def arbitrate (s : State) (key : Nat) : State :=
  let s := ((groupsOf key).flatMap (s.unitThreads key)).foldl (fun s t => ((s.boundary t).seekStart t).noteWait t) s
  let withPaths := (groupsOf key).map fun g => (g, (s.paths key g).filter s.eligible)
  let ready := (withPaths.filter fun x => !x.2.isEmpty).map (·.1)
  match s.chooseGroup key ready with
  | none => s
  | some g =>
    let ps := (withPaths.find? fun x => x.1 == g).elim [] (·.2)
    match s.choosePath key g ps with
    | none => s
    | some p => (s.recordChoice key g ready ps p.1).startRun key g p

/-- What the run in progress on the unit in focus has next. -/
def nextInstr (s : State) : Option Next :=
  match s.run? with
  | none => none
  | some r => r.members.head?.map fun t => s.nextAt t r.pc

/-- An unassigned word (R138): the threads whose guard is true raise 0x01, the others pass it by. The guard, E, Y and
length stand where every form has them (R116-R118). -/
def issueIllegal (ws : List W32) (s : State) : State :=
  match s.run? with
  | none => s
  | some r =>
    s.stopTorn <|
    let w0 := ws.headD 0
    let two := (w0.extractLsb' 0 2).toNat
    let base := X96.ofWords w0 (ws.getD 1 0) (ws.getD 2 0) (if two = 2 ∨ two = 3 then some 0 else none)
    let b32 := two = 0 ∨ two = 2
    let w := if b32 then { base with gc := false, g2n := false, g2 := 0, g1n := false, y := false } else base
    let i : Ins := { op := .nop, b32 := b32, w := w }
    let s := s.trapGuards r i
    let s := (s.activeSet r i).foldl (fun s t => s.trap t 1 w0) s
    s.skip i

/-- A run that its last thread has left is over (R134); one that has yielded marks its group (R124). -/
def closeRun (s : State) (r : Run) : State :=
  s.modEngine s.focus fun e => { e with run := none, yielded := if r.yield then e.yielded.add r.group else e.yielded }

/-- A fetch that fails parks the whole issuing group at the instruction's PC before any guard is read (R116). -/
def fetchFault (s : State) (kind page addr : Nat) : State :=
  match s.run? with
  | none => s
  | some r =>
    let live := r.members.filter s.issuing
    match live.head?.bind s.thread? with
    | none => s
    | some th =>
      if !s.faultRoom (standDie th.home.stand) then s else
      (s.park live kind page addr 1 false false).closeRun r

/-- A fetch whose words cannot be delivered or are poisoned traps the whole issuing group with cause 0x04 before any guard is
read (R50, R377, R380; log 135); it waits for room where the page is to be reported (R371, R381). -/
def fetchPoison (s : State) (pa key : Nat) : State :=
  match s.run? with
  | none => s
  | some r =>
    let live := r.members.filter s.issuing
    match live.head?.bind s.thread? with
    | none => s
    | some th =>
      if !s.eccRoom pa key then s else s.stopTorn (live.foldl (fun s t => s.trap t 4 0) (s.noteEcc pa key th.part (some (unitNo 1 th.home.stand))))

/-- Ask for the translation a fetch still needs (R351), for the whole issuing group: it parks as one where the walk fails
(R116). -/
def askFetch (s : State) (va : Nat) : State :=
  match s.run? with
  | none => s
  | some r => (r.members.filter s.issuing).foldl (fun s t =>
      match s.thread? t with
      | none => s
      | some th => s.askWalk t th.part va va { x := true } false) s

/-- The access slice of the unit in focus has reached the execute region and ends (R308). -/
def endSlice (s : State) : State :=
  match s.run? with
  | none => s
  | some r => (r.members.foldl stopSlice s).modEngine s.focus fun e => { e with run := none }

end State

/-- INSTRUCTION_FETCH_FAULT (R116): due when the next fetch of the run in progress fails. -/
def execInstructionFetchFault (s : State) : Host.Outcome State Fault Refusal :=
  match s.nextInstr with
  | some (.fault k p a) => .next (s.fetchFault k p a)
  | _ => .refused (.notDue "INSTRUCTION_FETCH_FAULT")

/-- RUN_ARBITRATION (R16, R17): at a run boundary of the unit in focus. With nothing ready the unit stays idle. While its
clock relocks no unit starts a run (R399). -/
def execRunArbitration (s : State) : Host.Outcome State Fault Refusal :=
  if s.pkg.relocking ∨ s.pkg.oldMode.has s.focus then .refused (.notDue "RUN_ARBITRATION")
  else
    match s.run? with
    | some r =>
      if r.members.isEmpty then .next ((s.closeRun r).arbitrate s.focus) else .refused (.notDue "RUN_ARBITRATION")
    | none => .next (s.arbitrate s.focus)

end Sys2Proof.Machine

namespace Sys2Proof.Machine

/-- Whether a batch's time stands still (R262): a traversal thread of it is parked, or a record of the Drive's work for
its stand is pending. -/
def State.batchPaused (s : State) (stand : Nat) : Bool :=
  (s.threads.any fun e => e.2.ray.any (fun r => r.stand == stand) && (match e.2.status with
    | .parked _ => true
    | _ => false)) ||
  s.recs.any fun r => r.2.pending && (match r.2.who with
    | .drive _ _ n => n == stand
    | _ => false)

/-- A launch's watchdogs while the clocks stand still (R399): the time does not count. -/
def shiftWatch (dt : Nat) (l : Nat × Launch) : Nat × Launch :=
  (l.1, { l.2 with wgs := l.2.wgs.map fun w => (w.1, { w.2 with watch := w.2.watch.map (· + dt) }) })

/-- Whether an entry is ready: its round has completed and no row it names is pending (R233). -/
def mmaReady (x : Slot) (e : MmaEntry) : Bool :=
  let none' (t : Tile) : Bool := t.pending.isEmpty
  e.wait.isNone && none' (x.m.getD e.a {}) && none' (x.m.getD e.b {}) && none' (x.acc.getD e.acc {}) &&
    (!e.scaled || (none' (x.m.getD e.sa {}) && none' (x.m.getD e.sb {})))

/-- The head of a slot's matrix queue, when it is ready (R233). -/
def Slot.readyHead (x : Slot) : Option MmaEntry := x.mq.head?.filter (mmaReady x)

/-- The entries that have become ready take their place in the engine's order; those of one moment share it (R233). -/
def State.noteReady (s : State) : State :=
  let due (x : Slot) : Bool := x.readyHead.any fun e => e.readyAt.isNone
  if !(s.slots.any fun e => due e.2) then s
  else
    { s with
      nextId := s.nextId + 1
      slots := s.slots.map fun e =>
        if due e.2 then
          (e.1, { e.2 with mq := e.2.mq.modifyHead fun m => { m with readyAt := some s.nextId } })
        else e }

/-- Time passes and the turn is taken off the list (log 1); what waited for a lease to end is tried again. -/
def State.pass (s : State) (turn : Turn) (rest : List Turn) : State :=
  let s := s.noteReady
  State.flushUnits { s with
    turns := rest
    batches := s.batches.map fun b =>
      if b.2.startAt.isSome && s.batchPaused b.1 then (b.1, { b.2 with paused := b.2.paused + turn.gtc }) else b
    launches := if s.relocks || s.pkg.clocksStopped then s.launches.map (shiftWatch turn.gtc) else s.launches
    clock := { gtc := s.clock.gtc + turn.gtc, arith := s.clock.arith + turn.arith
               swarm := s.clock.swarm + turn.swarm } }

/-- Whether a move needs the module's clocks (R399): an engine's issue, and the steps of the part's own units. Register
accesses, the host's and the links' messages, the governor and the end of the stop come from outside them. -/
def Act.clocked : Act → Bool
  | .issue _ => true
  | .upset _ _ | .stage _ _ => false
  | .event i =>
    match i with
    | .clocksResumeBelow95c _ | .governorTick _ | .registerWrite _ _ | .doorbellWrite _ _ | .qctlWrite _ _ | .qstatWrite _ _
    | .qpreemptWrite _ _ | .freplayWrite _ _ | .fcancelWrite _ _ | .fqconsWrite _ _ | .fqctlWrite _ _ | .invctlStart _ _
    | .migctlStart _ _ | .cxlstatWrite _ _ | .cxldropRead _ | .pctlWrite _ _ | .discardRead _ | .evconsWrite _ _
    | .pflogconsWrite _ | .balctlWrite _ _ | .standownWrite _ _ | .ctrselWrite _ _ _ | .pkglostDeclare _ _
    | .pkglostRestore _ _ | .pwrmodeWrite _ | .provisionWrite _ | .lnkreplayRead _ | .cecountRead | .uecountRead
    | .misdirRead | .parretryRead | .crstartRead _ | .crclaimRead _ | .crdiscRead _ | .crcauseRead _ | .qresvRead _
    | .qresvsRead _ | .eloaLinkDown _ | .eloaLinkUp _ _ | .cxlPortFailure _ _ => false
    | _ => true

/-- Whether the unit in focus stands at the border of the two slices: a skidder that has reached an instruction of the execute
region (R308). -/
def State.sliceBorder (s : State) (i : Instr) : Bool :=
  isSkidKey s.focus && (match i.ins with
    | some n => !n.w.sl
    | none => true)

/-- Where a program placed by hand stands: the page's address, virtual and physical. -/
def programBase : Nat := 0x400000

/-- A launch, a scalar thread, its cached executable page, its code bytes and its run (log 2): what boot, set-up, a
LAUNCH command, placement and arbitration bring about. -/
def State.placeProgram (s : State) (v : Nat) : State :=
  let code := (List.range 20).map fun k => BitVec.ofNat 8 (v / 256 ^ k)
  let page : Trans :=
    { part := 0, base := programBase, size := 65536, host := false, frame := programBase, lease := 4, key := 0
      r := true, w := true, x := true, m := false }
  let thread : Thread :=
    { part := 0, launch := 0, wg := 0, coords := [0, 0, 0, 0, 0, 0, 0, 0], home := .scalar 0 0
      pc := BitVec.ofNat 64 programBase }
  let group : Workgroup := { placed := true, stand := 0 }
  let launch : Launch := { part := 0, queue := 0, id := 0, r := {}, phase := .running, wgs := [(0, group)] }
  let s := (s.setReg (standownReg 0) 0x80).setReg (transReg 0 8) 0x0A01
  let s := s.modStand 0 fun x => { x with tlb := page :: x.tlb }
  let s := s.modCore 0 fun x => { x with owner := some 0 }
  let s := { s with
    launches := s.launches.put 0 launch
    threads := s.threads.put 0 thread
    mem := { s.mem with dram := s.mem.dram.write programBase code }
    turns := [], focus := 0, nextId := max 1 s.nextId }
  s.modEngine 0 fun e => { e with run := some { group := 0, members := [0], pc := BitVec.ofNat 64 programBase } }

end Sys2Proof.Machine
end

