-- ==== Sys2Proof/Machine/Contexts.lean ====
section
/-!
DEFINITION. Starting threads: free contexts (01 R36, R40), the constant words a core takes for a launch (02 R62, R63),
generator seeds (07 R192), moving a thread into a context (R26, R27), and the access slices of sliced kernels
(16 R308, R309).
-/

namespace Sys2Proof.Machine

namespace State

/-- A context is free: no thread lives in it and HALT.R has not reserved it (R36, R40); on a streaming stand context 3
is never started (R245). -/
def ctxFree (s : State) (c x : Nat) : Bool :=
  (s.threadIn c x).isNone && ((s.core c).reserved.get? x).isNone && !(x == 3 && s.streaming (coreStand c))

/-- A context may be taken by a message, a request, a task or a placement: it is free, and no thread that left its wave
waits for one on the stand (R27). -/
def ctxOpen (s : State) (c x : Nat) : Bool := s.ctxFree c x && (s.stand (coreStand c)).waitCtx.isEmpty

/-- The cores of a stand in core-index order. -/
def standCores (stand : Nat) : List Nat := (List.range 128).map (coreOfIndex stand)

/-- The free contexts of a stand, by core index and context (log 17). -/
def freeContexts (s : State) (stand : Nat) : List (Nat × Nat) :=
  ((standCores stand).flatMap fun c => (List.range 4).map fun x => (c, x)).filter fun p => s.ctxFree p.1 p.2

/-- Whether a launch holds a core: a context of it runs or is reserved there, or a message of it is queued (R62, R63). A message
that has been granted its place counts before it arrives (DESIGN CHOICE, log 123). -/
def holdsCore (s : State) (c l : Nat) : Bool :=
  (s.threads.any fun e => e.2.launch == l && (match e.2.home with
    | .scalar k _ => k == c
    | _ => false)) ||
  ((s.core c).reserved.any fun r => r.2.1 == l) || ((s.core c).inbound.any fun m => m.launch == l)

/-- Broadcast a launch's constant image into a core's words 0-239 (R62). -/
def broadcast (s : State) (c l : Nat) : State :=
  let r := s.lrec l
  let base := locKey c 0
  let s := { s with mem := { s.mem with
    loc := s.mem.loc.clear base 960
    locPoison := s.mem.locPoison.filter fun w => !(decide (base / 4 ≤ w) && decide (w < base / 4 + 240)) } }
  let s := r.consts.foldl (fun s w => s.locStore (base + 4 * w.1) (bytesOfWord w.2.val) w.2.poison) s
  s.modCore c fun x => { x with owner := some l }

/-- The core's constant words for a thread of launch l about to start there: taken when their owner no longer holds
the core; else the thread starts with them as they stand, and the flag is true (R63). -/
def takeConstants (s : State) (c l : Nat) : State × Bool :=
  match (s.core c).owner with
  | some m =>
    if m = l then (s, false)
    else if s.holdsCore c m then (s, true)
    else (s.broadcast c l, false)
  | none => (s.broadcast c l, false)

/-- The generator of a thread a message, POST, SPAWN or TSPAWN starts (R192). -/
def startSeed (s : State) (l core : Nat) : W64 :=
  (s.lrec l).seed ^^^ BitVec.ofNat 64 (s.gtc * 0x9E3779B97F4A7C15) ^^^ BitVec.ofNat 64 (core * 2 ^ 40)

/-- The generator of a thread a launch places, by its linear index (R192). -/
def placeSeed (seed : W64) (index : Nat) : W64 := seed ^^^ BitVec.ofNat 64 (index * 0x9E3779B97F4A7C15)

/-- A wave thread moves into a scalar context (R26, R27): g64 and above, and the wave's k, stay behind. It takes the core's
constants as a message would, and no descriptor says when they are another launch's (R63; DESIGN CHOICE, log 124). -/
def moveToContext (s : State) (t c x : Nat) (pc : W64) : State :=
  match s.thread? t with
  | none => s
  | some th =>
    let s := s.leaveRun t
    let (s, _) := s.takeConstants c th.launch
    let th' : Thread :=
      { th with home := .scalar c x, pc := pc, g := th.g.filter (fun n _ => decide (n < 64)), k := [], mb := [], oq := [],
                carry := false, lastPage := none, held := .none, gs := [], qx := 0, status := .ready
                signed := th.signed.filter (fun k _ => decide (16 ≤ k)) }
    let s := s.setThread t th'.dropCand
    match th.home with
    | .wave e i _ => s.releaseSlot e i
    | _ => s

/-- Start the access slice of a sliced thread: a copy of its g0-g59 and p0-p7 at the kernel entry (R308, R309). -/
def startSlice (s : State) (m : Nat) : State :=
  match s.thread? m with
  | none => s
  | some th =>
    if !th.sliced then s else
    let (k, s) := s.fresh
    let sh : Thread :=
      { part := th.part, launch := th.launch, wg := th.wg, coords := th.coords, home := .skidder m
        pc := BitVec.ofNat 64 (s.lrec th.launch).entry, g := th.g.filter (fun n _ => decide (n < 60)), p := th.p
        sliced := true, sc := s.gtc }
    s.setThread k sh

/-- The kernel PC a placed thread starts at: the execute region of a sliced kernel, or its entry while that region's start is
still to be found (R308). -/
def kernelStart (r : LaunchRec) : W64 := BitVec.ofNat 64 (if r.sliced && r.execStart != 0 then r.execStart else r.entry)

end State

end Sys2Proof.Machine
end

