-- ==== Sys2Proof/Machine/Flags.lean ====
section
/-!
DEFINITION. Flag computations: the carry bit of the integer adds (06 R148) and the sticky flags of $fex (04 R112).
-/

namespace Sys2Proof.Machine

/-- The flags one operation raises (R112). -/
structure FFlags where
  iv : Bool := false
  dz : Bool := false
  of : Bool := false
  uf : Bool := false
  nx : Bool := false
  gs : Bool := false
  gu : Bool := false
  ns : Bool := false
deriving DecidableEq, Repr

namespace FFlags

/-- Flags of either. -/
def or (a b : FFlags) : FFlags :=
  { iv := a.iv || b.iv, dz := a.dz || b.dz, of := a.of || b.of, uf := a.uf || b.uf, nx := a.nx || b.nx
    gs := a.gs || b.gs, gu := a.gu || b.gu, ns := a.ns || b.ns }

/-- The bits of $fex (R112). -/
def toW32 (f : FFlags) : W32 :=
  BitVec.ofNat 32 (f.iv.toNat + 2 * f.dz.toNat + 4 * f.of.toNat + 8 * f.uf.toNat + 16 * f.nx.toNat +
    32 * f.gs.toNat + 64 * f.gu.toNat + 128 * f.ns.toNat)

end FFlags

/-- OR flags into a thread's $fex (R112). -/
def State.setFlags (s : State) (t : Nat) (f : W32) : State := s.modThread t fun th => th.orFex f

/-- Count an instruction that set flags at an engine, once for each flag it set in any thread (R395, sources 0x10-0x17). -/
def State.countFlagsAt (s : State) (e : Nat) (f : W32) : State :=
  (List.range 8).foldl (fun s k => if f.getLsbD k then s.countEvent e (0x10 + k) 1 else s) s

/-- Count the flags of an instruction of the unit in focus. -/
def State.countFlags (s : State) (f : W32) : State :=
  (List.range 8).foldl (fun s k => if f.getLsbD k then s.countEvent s.focus (0x10 + k) 1 else s) s

/-- The number of the issue in progress: its run's and its place in the run. -/
def State.issueNo (s : State) : Nat := s.run?.elim 0 fun r => 32 * r.number + r.count

/-- The issue of a producer whose lanes complete one by one. -/
def Producer.issue : Producer → Option Nat
  | .special _ _ _ _ _ _ k | .laneMax _ _ _ _ k => some k
  | _ => none

/-- Lanes of an issue are still to complete. -/
def State.issueOpen (s : State) (k : Nat) : Bool :=
  (s.ops.any fun o => o.2.issue == k) || s.producers.any fun p => p.2.issue == some k

/-- A lane of an issue completes with flags: they are ORed into the thread's $fex (R112), and each is counted once for the
instruction (R395). -/
def State.raiseFlags (s : State) (t k : Nat) (fl : FFlags) : State :=
  let f := fl.toW32
  let seen := s.flagSeen.getD k 0
  let s := s.setFlags t f
  let s := (s.homeOf t).engine.elim s fun e => s.countFlagsAt e (f &&& ~~~seen)
  { s with flagSeen :=
      if !s.issueOpen k then s.flagSeen.del k else if f = 0 then s.flagSeen else s.flagSeen.put k (seen ||| f) }

/-- The carry an add writes: the carry out of bit n - 1 (R148). -/
def addCarry (n a b c : Nat) : Bool := decide (2 ^ n ≤ a % 2 ^ n + b % 2 ^ n + c)

/-- The borrow a subtract writes: a lies below b, and the borrow in, read as natural (R148). -/
def subBorrow (n a b c : Nat) : Bool := decide (a % 2 ^ n < b % 2 ^ n + c)

end Sys2Proof.Machine
end

