-- ==== Sys2Proof/Machine/Integer.lean ====
section
/-!
DEFINITION. Integer instructions (06 R147, R148): majors 0x01-0x1F. The exact result of each operation is an integer;
writing narrows it to n bits and extends it to its registers.
-/

namespace Sys2Proof.Machine

/-- Read n bits at a type's signedness (R147). -/
def intRead (ty raw : Nat) : Int := if intSigned ty then signExt (intWidth ty) raw else (raw % 2 ^ intWidth ty : Nat)

/-- The register contents of an exact result of width n: its low n bits, extended to 32 bits when n < 32 (R147). -/
def intWrite (n : Nat) (signed : Bool) (x : Int) : Nat :=
  let v := wrapTo n x
  if n < 32 ∧ signed = true then wrapTo 32 (signExt n v) else v

/-- Source B of an integer instruction as bits: register, literal, or constant word, which is extended when n = 64
(R147). -/
def State.intB (s : State) (t : Nat) (i : Ins) : Nat :=
  if intWidth i.ty = 64 then
    match i.w.lit with
    | some l => l.toNat
    | none =>
      if i.w.kb then
        let c := (s.constWord t i.x).val
        if intSigned i.ty then (c.signExtend 64).toNat else c.toNat
      else s.srcVal t i .b
  else (s.wordB t i).toNat

/-- The number of one bits among the low n bits. -/
def popCount : Nat → Nat → Nat
  | 0, _ => 0
  | n + 1, v => (v.testBit n).toNat + popCount n v

/-- Leading zeros within n bits; n for zero (R148). -/
def clzCount : Nat → Nat → Nat
  | 0, _ => 0
  | n + 1, v => if v.testBit n then 0 else 1 + clzCount n v

/-- Trailing zeros within the bits from k up to n. -/
def ctzFrom : Nat → Nat → Nat → Nat
  | 0, _, _ => 0
  | m + 1, k, v => if v.testBit k then 0 else 1 + ctzFrom m (k + 1) v

/-- The low n bits in reverse order. -/
def revBits : Nat → Nat → Nat
  | 0, _ => 0
  | n + 1, v => (v % 2) * 2 ^ n + revBits n (v / 2)

/-- Position and width of a bit field (R148, BFE). -/
def fieldPos (w : W32) : Nat := w.toNat % 256
/-- The width of a bit field, at most n. -/
def fieldWidth (n : Nat) (w : W32) : Nat := min (w.toNat / 256 % 256) n

/-- BFE (R148): bits of a at n and above read as 0; a signed field is extended from its top bit. -/
def bfeExact (n : Nat) (signed : Bool) (a : Nat) (w : W32) : Int :=
  let k := fieldWidth n w
  let f := a % 2 ^ n / 2 ^ fieldPos w % 2 ^ k
  if k = 0 then 0 else if signed then signExt k f else f

/-- BFI (R148): bits that would fall at n or above are dropped. -/
def bfiExact (n a c : Nat) (w : W32) : Nat :=
  let k := fieldWidth n w
  let p := fieldPos w
  let mask := (2 ^ k - 1) * 2 ^ p % 2 ^ n
  ((c % 2 ^ n) &&& (2 ^ n - 1 - mask)) ||| ((a % 2 ^ k) * 2 ^ p % 2 ^ n)

/-- Rotate left by k within n bits. -/
def rolBits (n a k : Nat) : Nat :=
  let v := a % 2 ^ n
  let r := k % n
  (v * 2 ^ r) % 2 ^ n + v / 2 ^ (n - r)

/-- The exact result of an integer operation (R148): raw operands a, b and c, the whole word of source B, and the
carry of the chain. -/
def intExact (op : Op) (ty a b c : Nat) (word : W32) (carry : Bool) : Int :=
  let n := intWidth ty
  let signed := intSigned ty
  let x := intRead ty a
  let y := intRead ty b
  let s := word.toNat % 256
  match op with
  | .add => x + y
  | .sub => x - y
  | .addc => x + y + carry.toNat
  | .subb => x - y - carry.toNat
  | .mulLo | .mulw => x * y
  | .mulHi => x * y / (2 ^ n : Nat)
  | .mad => x * y + intRead ty c
  | .div => if y = 0 then -1 else Int.tdiv x y
  | .rem => if y = 0 then x else Int.tmod x y
  | .neg => -x
  | .abs => if signed then x.natAbs else x
  | .min => if x ≤ y then x else y
  | .max => if x ≤ y then y else x
  | .and => ((a &&& b : Nat) : Int)
  | .or => ((a ||| b : Nat) : Int)
  | .xor => ((a ^^^ b : Nat) : Int)
  | .andn => ((a % 2 ^ n &&& (2 ^ n - 1 - b % 2 ^ n) : Nat) : Int)
  | .not => ((2 ^ n - 1 - a % 2 ^ n : Nat) : Int)
  | .shl => if n ≤ s then 0 else ((a % 2 ^ n * 2 ^ s : Nat) : Int)
  | .shr => if n ≤ s then 0 else ((a % 2 ^ n / 2 ^ s : Nat) : Int)
  | .sra => signExt n a / (2 ^ s : Nat)
  | .rol => (rolBits n a s : Nat)
  | .ror => (rolBits n a (n - s % n) : Nat)
  | .bfe => bfeExact n signed a word
  | .bfi => (bfiExact n a c word : Nat)
  | .popc => (popCount n a : Nat)
  | .clz => (clzCount n a : Nat)
  | .ctz => (ctzFrom n 0 a : Nat)
  | .brev => (revBits n a : Nat)
  | _ => 0

/-- The registers an integer instruction writes in D (R147); MULW keeps 2n bits (R148). -/
def intResult (op : Op) (ty a b c : Nat) (word : W32) (carry : Bool) : Nat :=
  let n := if op = .mulw then 2 * intWidth ty else intWidth ty
  intWrite n (intSigned ty) (intExact op ty a b c word carry)

/-- The carry an operation leaves (R148); only ADD, SUB, ADDC and SUBB write it. -/
def carryAfter (op : Op) (ty a b : Nat) (carry : Bool) : Bool :=
  let n := intWidth ty
  match op with
  | .add => addCarry n a b 0
  | .addc => addCarry n a b carry.toNat
  | .sub => subBorrow n a b 0
  | .subb => subBorrow n a b carry.toNat
  | _ => carry

/-- One thread's integer result. -/
def State.intValue (s : State) (i : Ins) (t : Nat) : Nat :=
  intResult i.op i.ty (s.srcVal t i .a) (s.intB t i) (s.srcVal t i .c) (s.wordB t i)
    (((s.thread? t).map (·.carry)).getD false)

/-- One thread's carry after the instruction. -/
def State.intCarry (s : State) (i : Ins) (t : Nat) : Bool :=
  carryAfter i.op i.ty (s.srcVal t i .a) (s.intB t i) (((s.thread? t).map (·.carry)).getD false)

/-- Apply a per-thread effect: once for the group under WU, with the lowest-numbered active thread's operands
(R128), else for each active thread. -/
def perThread (i : Ins) (f : Nat → State → State) (ts : List Nat) (s : State) : State :=
  if i.w.wu then
    match ts with
    | t :: _ => f t s
    | [] => s
  else ts.foldl (fun s t => f t s) s

/-- The effect of an integer instruction on one thread: D, and for the add family the carry. -/
def intEffect (i : Ins) (ts : List Nat) (t : Nat) (s : State) : State :=
  let v := s.intValue i t
  let c := s.intCarry i t
  let chain := i.op == .add || i.op == .sub || i.op == .addc || i.op == .subb
  let holders := if i.w.wu then ts else [t]
  let s := if chain then holders.foldl (fun s u => s.modThread u fun th => { th with carry := c }) s else s
  s.writeD t i v

/-- The meaning every integer instruction shares (R147, R148). -/
def intSem : Sem := { act := fun i _ ts s => perThread i (intEffect i ts) ts s }

/-- ADD, base form (R148). -/
def execAddB32 (w : B32) (s : State) : Host.Outcome State Fault Refusal := issue intSem (w.ins .add) s

/-- ADD, extended form (R148). -/
def execAddX96 (w : X96) (s : State) : Host.Outcome State Fault Refusal := issue intSem (w.ins .add) s

/-- SUB, base form (R148). -/
def execSubB32 (w : B32) (s : State) : Host.Outcome State Fault Refusal := issue intSem (w.ins .sub) s

/-- SUB, extended form (R148). -/
def execSubX96 (w : X96) (s : State) : Host.Outcome State Fault Refusal := issue intSem (w.ins .sub) s

/-- ADDC, base form (R148). -/
def execAddcB32 (w : B32) (s : State) : Host.Outcome State Fault Refusal := issue intSem (w.ins .addc) s

/-- ADDC, extended form (R148). -/
def execAddcX96 (w : X96) (s : State) : Host.Outcome State Fault Refusal := issue intSem (w.ins .addc) s

/-- SUBB, base form (R148). -/
def execSubbB32 (w : B32) (s : State) : Host.Outcome State Fault Refusal := issue intSem (w.ins .subb) s

/-- SUBB, extended form (R148). -/
def execSubbX96 (w : X96) (s : State) : Host.Outcome State Fault Refusal := issue intSem (w.ins .subb) s

/-- MUL.LO, base form (R148). -/
def execMulLoB32 (w : B32) (s : State) : Host.Outcome State Fault Refusal := issue intSem (w.ins .mulLo) s

/-- MUL.LO, extended form (R148). -/
def execMulLoX96 (w : X96) (s : State) : Host.Outcome State Fault Refusal := issue intSem (w.ins .mulLo) s

/-- MUL.HI, base form (R148). -/
def execMulHiB32 (w : B32) (s : State) : Host.Outcome State Fault Refusal := issue intSem (w.ins .mulHi) s

/-- MUL.HI, extended form (R148). -/
def execMulHiX96 (w : X96) (s : State) : Host.Outcome State Fault Refusal := issue intSem (w.ins .mulHi) s

/-- MULW, base form (R148). -/
def execMulwB32 (w : B32) (s : State) : Host.Outcome State Fault Refusal := issue intSem (w.ins .mulw) s

/-- MULW, extended form (R148). -/
def execMulwX96 (w : X96) (s : State) : Host.Outcome State Fault Refusal := issue intSem (w.ins .mulw) s

/-- MAD, extended form (R148). -/
def execMad (w : X96) (s : State) : Host.Outcome State Fault Refusal := issue intSem (w.ins .mad) s

/-- DIV, base form (R148). -/
def execDivB32 (w : B32) (s : State) : Host.Outcome State Fault Refusal := issue intSem (w.ins .div) s

/-- DIV, extended form (R148). -/
def execDivX96 (w : X96) (s : State) : Host.Outcome State Fault Refusal := issue intSem (w.ins .div) s

/-- REM, base form (R148). -/
def execRemB32 (w : B32) (s : State) : Host.Outcome State Fault Refusal := issue intSem (w.ins .rem) s

/-- REM, extended form (R148). -/
def execRemX96 (w : X96) (s : State) : Host.Outcome State Fault Refusal := issue intSem (w.ins .rem) s

/-- NEG, base form (R148). -/
def execNegB32 (w : B32) (s : State) : Host.Outcome State Fault Refusal := issue intSem (w.ins .neg) s

/-- NEG, extended form (R148). -/
def execNegX96 (w : X96) (s : State) : Host.Outcome State Fault Refusal := issue intSem (w.ins .neg) s

/-- ABS, base form (R148). -/
def execAbsB32 (w : B32) (s : State) : Host.Outcome State Fault Refusal := issue intSem (w.ins .abs) s

/-- ABS, extended form (R148). -/
def execAbsX96 (w : X96) (s : State) : Host.Outcome State Fault Refusal := issue intSem (w.ins .abs) s

/-- MIN, base form (R148). -/
def execMinB32 (w : B32) (s : State) : Host.Outcome State Fault Refusal := issue intSem (w.ins .min) s

/-- MIN, extended form (R148). -/
def execMinX96 (w : X96) (s : State) : Host.Outcome State Fault Refusal := issue intSem (w.ins .min) s

/-- MAX, base form (R148). -/
def execMaxB32 (w : B32) (s : State) : Host.Outcome State Fault Refusal := issue intSem (w.ins .max) s

/-- MAX, extended form (R148). -/
def execMaxX96 (w : X96) (s : State) : Host.Outcome State Fault Refusal := issue intSem (w.ins .max) s

/-- AND, base form (R148). -/
def execAndB32 (w : B32) (s : State) : Host.Outcome State Fault Refusal := issue intSem (w.ins .and) s

/-- AND, extended form (R148). -/
def execAndX96 (w : X96) (s : State) : Host.Outcome State Fault Refusal := issue intSem (w.ins .and) s

/-- OR, base form (R148). -/
def execOrB32 (w : B32) (s : State) : Host.Outcome State Fault Refusal := issue intSem (w.ins .or) s

/-- OR, extended form (R148). -/
def execOrX96 (w : X96) (s : State) : Host.Outcome State Fault Refusal := issue intSem (w.ins .or) s

/-- XOR, base form (R148). -/
def execXorB32 (w : B32) (s : State) : Host.Outcome State Fault Refusal := issue intSem (w.ins .xor) s

/-- XOR, extended form (R148). -/
def execXorX96 (w : X96) (s : State) : Host.Outcome State Fault Refusal := issue intSem (w.ins .xor) s

/-- NOT, base form (R148). -/
def execNotB32 (w : B32) (s : State) : Host.Outcome State Fault Refusal := issue intSem (w.ins .not) s

/-- NOT, extended form (R148). -/
def execNotX96 (w : X96) (s : State) : Host.Outcome State Fault Refusal := issue intSem (w.ins .not) s

/-- ANDN, base form (R148). -/
def execAndnB32 (w : B32) (s : State) : Host.Outcome State Fault Refusal := issue intSem (w.ins .andn) s

/-- ANDN, extended form (R148). -/
def execAndnX96 (w : X96) (s : State) : Host.Outcome State Fault Refusal := issue intSem (w.ins .andn) s

/-- SHL, base form (R148). -/
def execShlB32 (w : B32) (s : State) : Host.Outcome State Fault Refusal := issue intSem (w.ins .shl) s

/-- SHL, extended form (R148). -/
def execShlX96 (w : X96) (s : State) : Host.Outcome State Fault Refusal := issue intSem (w.ins .shl) s

/-- SHR, base form (R148). -/
def execShrB32 (w : B32) (s : State) : Host.Outcome State Fault Refusal := issue intSem (w.ins .shr) s

/-- SHR, extended form (R148). -/
def execShrX96 (w : X96) (s : State) : Host.Outcome State Fault Refusal := issue intSem (w.ins .shr) s

/-- SRA, base form (R148). -/
def execSraB32 (w : B32) (s : State) : Host.Outcome State Fault Refusal := issue intSem (w.ins .sra) s

/-- SRA, extended form (R148). -/
def execSraX96 (w : X96) (s : State) : Host.Outcome State Fault Refusal := issue intSem (w.ins .sra) s

/-- ROL, base form (R148). -/
def execRolB32 (w : B32) (s : State) : Host.Outcome State Fault Refusal := issue intSem (w.ins .rol) s

/-- ROL, extended form (R148). -/
def execRolX96 (w : X96) (s : State) : Host.Outcome State Fault Refusal := issue intSem (w.ins .rol) s

/-- ROR, base form (R148). -/
def execRorB32 (w : B32) (s : State) : Host.Outcome State Fault Refusal := issue intSem (w.ins .ror) s

/-- ROR, extended form (R148). -/
def execRorX96 (w : X96) (s : State) : Host.Outcome State Fault Refusal := issue intSem (w.ins .ror) s

/-- BFE, base form (R148). -/
def execBfeB32 (w : B32) (s : State) : Host.Outcome State Fault Refusal := issue intSem (w.ins .bfe) s

/-- BFE, extended form (R148). -/
def execBfeX96 (w : X96) (s : State) : Host.Outcome State Fault Refusal := issue intSem (w.ins .bfe) s

/-- BFI, extended form (R148). -/
def execBfi (w : X96) (s : State) : Host.Outcome State Fault Refusal := issue intSem (w.ins .bfi) s

/-- POPC, base form (R148). -/
def execPopcB32 (w : B32) (s : State) : Host.Outcome State Fault Refusal := issue intSem (w.ins .popc) s

/-- POPC, extended form (R148). -/
def execPopcX96 (w : X96) (s : State) : Host.Outcome State Fault Refusal := issue intSem (w.ins .popc) s

/-- CLZ, base form (R148). -/
def execClzB32 (w : B32) (s : State) : Host.Outcome State Fault Refusal := issue intSem (w.ins .clz) s

/-- CLZ, extended form (R148). -/
def execClzX96 (w : X96) (s : State) : Host.Outcome State Fault Refusal := issue intSem (w.ins .clz) s

/-- CTZ, base form (R148). -/
def execCtzB32 (w : B32) (s : State) : Host.Outcome State Fault Refusal := issue intSem (w.ins .ctz) s

/-- CTZ, extended form (R148). -/
def execCtzX96 (w : X96) (s : State) : Host.Outcome State Fault Refusal := issue intSem (w.ins .ctz) s

/-- BREV, base form (R148). -/
def execBrevB32 (w : B32) (s : State) : Host.Outcome State Fault Refusal := issue intSem (w.ins .brev) s

/-- BREV, extended form (R148). -/
def execBrevX96 (w : X96) (s : State) : Host.Outcome State Fault Refusal := issue intSem (w.ins .brev) s

end Sys2Proof.Machine
end

