-- ==== Sys2Proof/Machine/Control.lean ====
section
/-!
DEFINITION. Control transfer, reconvergence, filing and migration, yielding and waiting (06 R152-R155): NOP to WAIT
but for HALT, and the steps that end a WAIT or bring a waiting thread into a context.
-/

namespace Sys2Proof.Machine

/-- The PC of the instruction being issued. -/
def State.issuePc (s : State) : W64 := (s.run?.map (·.pc)).getD 0

/-- The branch target PC + 4 x OFS (R146). -/
def State.ofsTarget (s : State) (i : Ins) : W64 := s.issuePc + BitVec.ofInt 64 (4 * i.ofs)

/-- Where a transferring instruction takes a thread (R152). -/
def State.target (s : State) (i : Ins) (t : Nat) : W64 :=
  match i.op with
  | .brx => s.issuePc + BitVec.ofInt 64 (4 * signExt 32 (s.srcVal t i .a))
  | .jmp | .ret => BitVec.ofNat 64 (s.srcVal t i .a)
  | .loop =>
    if wrapTo 32 ((s.srcVal t i .d : Int) - 1) = 0 then s.issuePc + 12 else s.ofsTarget i
  | _ => s.ofsTarget i

/-- Whether a transfer stays within its slice of a sliced kernel (R308). A trap handler, which is outside the kernel, does not
enter the access region (log 50). -/
def State.sliceTargetOk (s : State) (t : Nat) (tgt : W64) : Bool :=
  match s.thread? t with
  | none => true
  | some th =>
    if !th.sliced then true
    else
      let start := s.execStart th.part th.launch
      let inAccess := decide ((s.lrec th.launch).entry ≤ tgt.toNat) && decide (tgt.toNat < start)
      match th.home with
      | .skidder _ => inAccess
      | _ => if th.inTrap then !inAccess else decide (start ≤ tgt.toNat)

/-- Whether a transfer waits to know where the execute region begins: its kernel cannot be read so far (R308, log 50). -/
def State.borderUnknown (s : State) (t : Nat) (tgt : W64) : Bool :=
  (s.thread? t).any fun th =>
    th.sliced && decide ((s.lrec th.launch).entry ≤ tgt.toNat) && s.execStart th.part th.launch == 0

/-- Whether a thread takes a transfer: LOOP goes on behind itself when its count comes to zero (R152). -/
def State.takes (s : State) (i : Ins) (t : Nat) : Bool := i.op != .loop || wrapTo 32 ((s.srcVal t i .d : Int) - 1) != 0

/-- Whether a branch of the access slice goes one way in every present lane: its guard, and LOOP's count (R309). -/
def State.sliceUniform (s : State) (i : Ins) (t : Nat) : Bool :=
  !i.w.sl || s.run?.all fun r => r.members.all fun u =>
    !s.issuing u || ((s.activeSet r i).contains u && s.takes i u == s.takes i t)

/-- A transfer's own checks (R152, R308, R309): a misaligned target read from a register raises 0x01. -/
def transferCheck (i : Ins) (s : State) (t : Nat) : Check :=
  let tgt := s.target i t
  if tgt.toNat % 4 != 0 || !s.sliceUniform i t then .trap 1 i.word0
  else if s.takes i t && s.borderUnknown t tgt then .hold
  else if s.takes i t && !s.sliceTargetOk t tgt then .trap 1 i.word0
  else .ok

/-- Write the link or counter of a transfer (R152). -/
def State.writeLink (s : State) (i : Ins) (t : Nat) : State :=
  match i.op with
  | .jmp => if i.d = 0 then s else s.writeD t i (s.issuePc + 12).toNat
  | .call => s.writeD t i (s.issuePc + 12).toNat
  | .loop => s.writeD t i (wrapTo 32 ((s.srcVal t i .d : Int) - 1))
  | _ => s

/-- Log a taken branch once for the instruction, with the lanes active for it (R394). -/
def State.traceBranch (s : State) (ts : List Nat) (src tgt : W64) : State :=
  match s.run? with
  | some r => s.trace s.focus r.group 1 (src.toNat % 2 ^ 32) (tgt.toNat % 2 ^ 32) (tgt.toNat / 2 ^ 32) (s.laneMask ts)
  | none => s

/-- BRA, BRX, JMP, CALL, RET and LOOP (R152). -/
def transferSem : Sem :=
  { check := fun i _ => transferCheck i
    act := fun i _ ts s =>
      let src := s.issuePc
      let first := (ts.find? fun t => s.takes i t).map fun t => s.target i t
      let s := ts.foldl (fun s t =>
        let tgt := s.target i t
        (s.writeLink i t).modThread t fun th => { th with pc := tgt }) s
      match first with
      | some tgt => s.traceBranch ts src tgt
      | none => s }

/-- NOP and YIELD: nothing beyond the slot (R155); the run's bookkeeping makes YIELD yield (R124). -/
def nopSem : Sem := { act := fun _ _ _ s => s }

/-- SYNCW (R18, R153): a wave thread waits until every live thread of its wave waits; a scalar context goes on. -/
def syncwSem : Sem :=
  { act := fun _ _ ts s =>
      let s := ts.foldl (fun s t => if (s.homeOf t).isWave then s.setStatus t .syncw else s) s
      match ts.head?.map s.homeOf with
      | some (.wave e i _) => s.syncRelease e i
      | _ => s }

/-- WAIT (R155): the deadline is GTC at issue plus b ns. -/
def waitSem : Sem :=
  { act := fun i _ ts s => ts.foldl (fun s t => s.setStatus t (.until (s.gtc + (s.wordB t i).toNat))) s }

/-- WAIT_DEADLINE_EXPIRY (R155): GTC has reached a thread's deadline. -/
def execWaitDeadlineExpiry (thread : Nat) (s : State) : Host.Outcome State Fault Refusal :=
  match (s.thread? thread).map Thread.status with
  | some (Status.until d) =>
    if d ≤ s.gtc then .next (s.setStatus thread .ready) else .refused (.notDue "WAIT_DEADLINE_EXPIRY")
  | _ => .refused (.notDue "WAIT_DEADLINE_EXPIRY")

/-- Whether a thread has a long-latency producer outstanding (R19, R126). -/
def State.producing (s : State) (t : Nat) : Bool :=
  (s.ops.any fun o => o.2.tid == t && o.2.kind != .store && !o.2.orphan) ||
    s.producers.any fun q => match q.2 with
      | .special u .. | .laneMax u .. | .accMov u .. | .qxmax u .. => u == t

/-- REFORM and REFORM.S are illegal in a sliced kernel and in a task thread (R127, R154). -/
def filingLegal (_ : Ins) (s : State) (t : Nat) : Bool :=
  match s.thread? t with
  | some th => !th.sliced && th.taskOf.isNone
  | none => false

/-- A thread that cannot complete keeps its PC at the instruction and leaves the run (R20, R24). -/
def State.stayAt (s : State) (t : Nat) (pc : W64) : State := (s.leaveRun t).modThread t fun th => { th with pc := pc }

/-- REFORM (R19-R22, R154). -/
def reformSem : Sem :=
  { legal := filingLegal
    ready := fun _ ts s => !ts.any s.producing
    act := fun i _ ts s =>
      let tgt := s.ofsTarget i
      let pc := s.issuePc
      ts.foldl (fun s t =>
        match s.file t (s.homeOf t).stand tgt with
        | some s' => s'.countEvent s'.focus 0x22 1
        | none => s.stayAt t pc) s }

/-- REFORM.S of a wave thread: into a free context of its stand that no thread waits for, or, when none is free, out of its
wave to wait for one with a record in the spill area; without room the thread stays (R27, R154). -/
def State.migrate (s : State) (t : Nat) (tgt pc : W64) : State :=
  let stand := (s.homeOf t).stand
  match (s.freeContexts stand).drop (s.stand stand).waitCtx.length with
  | (c, x) :: _ => s.moveToContext t c x tgt
  | [] =>
    if s.spillRoom stand 0 then
      let s := (s.leaveHome t tgt).modThread t fun th => { th with home := .waitCtx stand }
      s.modStand stand fun x => { x with waitCtx := x.waitCtx ++ [t] }
    else s.stayAt t pc

/-- REFORM.S (R26, R27, R154). -/
def reformSSem : Sem :=
  { legal := filingLegal
    check := fun _ _ s t =>
      match s.homeOf t with
      | .wave e i _ => if s.slotLive e i && !s.producing t then .trap 0x0B 0 else .ok
      | _ => .ok
    ready := fun _ ts s => !ts.any s.producing
    act := fun i _ ts s =>
      let tgt := s.ofsTarget i
      let pc := s.issuePc
      ts.foldl (fun s t =>
        if (s.homeOf t).isWave then s.migrate t tgt pc else s.modThread t fun th => { th with pc := tgt }) s }

/-- WAITING_THREAD_TAKES_CONTEXT (R27): a context of the stand has freed and the thread that has waited longest takes
it. -/
def execWaitingThreadTakesContext (core ctx : Nat) (s : State) : Host.Outcome State Fault Refusal :=
  let stand := coreStand core
  match (s.stand stand).waitCtx with
  | t :: rest =>
    if s.ctxFree core ctx && decide (ctx < 4) then
      match s.thread? t with
      | some th =>
        let s := s.modStand stand fun x => { x with waitCtx := rest }
        .next (s.moveToContext t core ctx th.pc)
      | none => .refused (.notDue "WAITING_THREAD_TAKES_CONTEXT")
    else .refused (.notDue "WAITING_THREAD_TAKES_CONTEXT")
  | [] => .refused (.notDue "WAITING_THREAD_TAKES_CONTEXT")

/-- NOP, base form (R155). -/
def execNopB32 (w : B32) (s : State) : Host.Outcome State Fault Refusal := issue nopSem (w.ins .nop) s

/-- NOP, extended form (R155). -/
def execNopX96 (w : X96) (s : State) : Host.Outcome State Fault Refusal := issue nopSem (w.ins .nop) s

/-- BRA (R152). -/
def execBra (w : X96) (s : State) : Host.Outcome State Fault Refusal := issue transferSem (w.ins .bra) s

/-- BRX (R152). -/
def execBrx (w : X96) (s : State) : Host.Outcome State Fault Refusal := issue transferSem (w.ins .brx) s

/-- JMP (R152). -/
def execJmp (w : X96) (s : State) : Host.Outcome State Fault Refusal := issue transferSem (w.ins .jmp) s

/-- CALL (R152). -/
def execCall (w : X96) (s : State) : Host.Outcome State Fault Refusal := issue transferSem (w.ins .call) s

/-- RET, base form (R152). -/
def execRetB32 (w : B32) (s : State) : Host.Outcome State Fault Refusal := issue transferSem (w.ins .ret) s

/-- RET, extended form (R152). -/
def execRetX96 (w : X96) (s : State) : Host.Outcome State Fault Refusal := issue transferSem (w.ins .ret) s

/-- LOOP (R152). -/
def execLoop (w : X96) (s : State) : Host.Outcome State Fault Refusal := issue transferSem (w.ins .loop) s

/-- SYNCW, base form (R153). -/
def execSyncwB32 (w : B32) (s : State) : Host.Outcome State Fault Refusal := issue syncwSem (w.ins .syncw) s

/-- SYNCW, extended form (R153). -/
def execSyncwX96 (w : X96) (s : State) : Host.Outcome State Fault Refusal := issue syncwSem (w.ins .syncw) s

/-- REFORM (R154). -/
def execReform (w : X96) (s : State) : Host.Outcome State Fault Refusal := issue reformSem (w.ins .reform) s

/-- REFORM.S (R154). -/
def execReformS (w : X96) (s : State) : Host.Outcome State Fault Refusal := issue reformSSem (w.ins .reformS) s

/-- YIELD, base form (R155). -/
def execYieldB32 (w : B32) (s : State) : Host.Outcome State Fault Refusal := issue nopSem (w.ins .yield) s

/-- YIELD, extended form (R155). -/
def execYieldX96 (w : X96) (s : State) : Host.Outcome State Fault Refusal := issue nopSem (w.ins .yield) s

/-- WAIT (R155). -/
def execWait (w : X96) (s : State) : Host.Outcome State Fault Refusal := issue waitSem (w.ins .wait) s

end Sys2Proof.Machine
end

