-- ==== Sys2Proof/Machine/Formats.lean ====
section
/-!
DEFINITION. Number formats (04 R96-R102): exact values, decoding, and the one rounding of an exact value to a format
under a rounding mode (R105-R108). A magnitude is known by its leading exponent and by the floor of any scaling of it,
which is all that rounding asks of it.
-/

namespace Sys2Proof.Machine

/-! ### Exact magnitudes -/

/-- A positive real number: the exponent of its leading bit, and for each k the floor of 2^k times it with whether that
is exact. -/
structure Mag where
  lead : Int
  fl : Int → Nat × Bool

/-- Numerator and denominator of num/den times 2^k. -/
def scaled (num den : Nat) (k : Int) : Nat × Nat :=
  if 0 ≤ k then (num * 2 ^ k.toNat, den) else (num, den * 2 ^ (-k).toNat)

/-- The exponent of the leading bit of num/den, both positive. -/
def ratLead (num den : Nat) : Int :=
  let a : Int := (Nat.log2 num : Int) - (Nat.log2 den : Int)
  let (n, d) := scaled num den (-a)
  if n < d then a - 1 else a

/-- A rational magnitude. -/
def Mag.ofRat (num den : Nat) : Mag :=
  { lead := ratLead num den
    fl := fun k => let (n, d) := scaled num den k; (n / d, n % d == 0) }

/-- The integer square root, found bit by bit from bit k down. -/
def isqrtFrom (n : Nat) : Nat → Nat → Nat
  | 0, r => r
  | k + 1, r =>
    let c := r + 2 ^ k
    isqrtFrom n k (if c * c ≤ n then c else r)

/-- The integer square root. -/
def isqrt (n : Nat) : Nat := isqrtFrom n (Nat.log2 n / 2 + 1) 0

/-- The floor of a number divided by two. -/
def floorHalf (a : Int) : Int := a / 2

/-- The square root of a rational. -/
def Mag.sqrt (num den : Nat) : Mag :=
  { lead := floorHalf (ratLead num den)
    fl := fun k =>
      let (n, d) := scaled num den (2 * k)
      let r := isqrt (n / d)
      (r, n % d == 0 && r * r == n / d) }

/-! ### Exact values -/

/-- An exact value of any format (R104): a finite nonzero one is num/den. -/
inductive Val where
  | zero (neg : Bool)
  | fin (neg : Bool) (num den : Nat)
  | inf (neg : Bool)
  | nan (signalling : Bool)
  | unreal
deriving DecidableEq, Repr

namespace Val

/-- Whether a value is a NaN or the unreal code. -/
def isNan : Val → Bool
  | .nan _ | .unreal => true
  | _ => false

/-- Whether a value is a signalling NaN. -/
def isSig : Val → Bool
  | .nan s => s
  | _ => false

/-- The sign of a value. -/
def sign : Val → Bool
  | .zero n | .fin n _ _ | .inf n => n
  | _ => false

/-- The value with its sign replaced. -/
def withSign (n : Bool) : Val → Val
  | .zero _ => .zero n
  | .fin _ a b => .fin n a b
  | .inf _ => .inf n
  | v => v

/-- The value negated. -/
def neg (v : Val) : Val := v.withSign !v.sign

/-- A value from a sign and a rational magnitude, zero keeping the sign. -/
def ofRat (n : Bool) (num den : Nat) : Val := if num = 0 then .zero n else .fin n num den

/-- A signed integer's value. -/
def ofInt (x : Int) : Val := ofRat (decide (x < 0)) x.natAbs 1

/-- The value m times 2^e. -/
def ofDyadic (n : Bool) (m : Nat) (e : Int) : Val := let (a, b) := scaled m 1 e; ofRat n a b

/-- The exact sum, with the flags of an invalid operation; `rd` selects the sign of an exact zero (R174). -/
def add (rd : Bool) (a b : Val) : Val × FFlags :=
  let iv := a.isSig || b.isSig
  match a, b with
  | .unreal, _ | _, .unreal => (.unreal, {})
  | .nan _, _ | _, .nan _ => (.nan false, { iv := iv })
  | .inf m, .inf n => if m = n then (.inf m, {}) else (.nan false, { iv := true })
  | .inf m, _ | _, .inf m => (.inf m, {})
  | .zero m, .zero n => (.zero (if m = n then m else rd), {})
  | .zero _, v | v, .zero _ => (v, {})
  | .fin m an ad, .fin n bn bd =>
    let x : Int := (if m then -1 else 1) * (an * bd : Nat) + (if n then -1 else 1) * (bn * ad : Nat)
    if x = 0 then (.zero rd, {}) else (.fin (decide (x < 0)) x.natAbs (ad * bd), {})

/-- The exact product, with the flags of an invalid operation. -/
def mul (a b : Val) : Val × FFlags :=
  let iv := a.isSig || b.isSig
  let n := a.sign ^^ b.sign
  match a, b with
  | .unreal, _ | _, .unreal => (.unreal, {})
  | .nan _, _ | _, .nan _ => (.nan false, { iv := iv })
  | .inf _, .zero _ | .zero _, .inf _ => (.nan false, { iv := true })
  | .inf _, _ | _, .inf _ => (.inf n, {})
  | .zero _, _ | _, .zero _ => (.zero n, {})
  | .fin _ an ad, .fin _ bn bd => (.fin n (an * bn) (ad * bd), {})

/-- Compare two values that are not NaN: -1, 0 or 1 times a - b. -/
def cmp (a b : Val) : Int :=
  let key : Val → Int × Nat := fun v =>
    match v with
    | .inf n => (if n then -2 else 2, 1)
    | .fin n _ _ => (if n then -1 else 1, 1)
    | _ => (0, 1)
  match a, b with
  | .fin m an ad, .fin n bn bd =>
    (if m then -1 else 1) * (an * bd : Nat) - (if n then -1 else 1) * (bn * ad : Nat)
  | _, _ => (key a).1 - (key b).1

end Val

/-! ### Formats -/

/-- An IEEE or OCP format (R97, R98): precision, exponent of the least significant bit of a subnormal, largest finite
pattern, infinity and canonical NaN where it has them, and its width. -/
structure FloatFmt where
  prec : Nat
  qmin : Int
  maxBits : Nat
  infBits : Option Nat
  nanBits : Option Nat
  width : Nat
  /-- IEEE formats overflow and quiet NaNs; OCP formats saturate. -/
  ieee : Bool

/-- The float format of a format number (R97, R98, R122). -/
def floatFmt : Nat → Option FloatFmt
  | 0 => some ⟨53, -1074, 0x7FEFFFFFFFFFFFFF, some 0x7FF0000000000000, some 0x7FF8000000000000, 64, true⟩
  | 1 => some ⟨24, -149, 0x7F7FFFFF, some 0x7F800000, some 0x7FC00000, 32, true⟩
  | 2 => some ⟨11, -24, 0x7BFF, some 0x7C00, some 0x7E00, 16, true⟩
  | 3 => some ⟨8, -133, 0x7F7F, some 0x7F80, some 0x7FC0, 16, true⟩
  | 4 => some ⟨4, -9, 0x7E, none, some 0x7F, 8, false⟩
  | 5 => some ⟨3, -16, 0x7B, some 0x7C, some 0x7E, 8, false⟩
  | 6 => some ⟨4, -3, 0x1F, none, none, 6, false⟩
  | 7 => some ⟨3, -4, 0x1F, none, none, 6, false⟩
  | _ => none

/-- Width and exponent bits of a grain format (R100). -/
def grainFmt : Nat → Option (Nat × Nat)
  | 8 => some (6, 0)
  | 9 => some (8, 1)
  | 0xA => some (16, 1)
  | _ => none

/-- Width and signedness of an integer format number (R122). -/
def intFmt : Nat → Option (Nat × Bool)
  | 0x0B => some (8, true)
  | 0x0C => some (4, true)
  | 0x0D => some (16, true)
  | 0x0E => some (32, true)
  | 0x0F => some (64, true)
  | 0x10 => some (4, false)
  | 0x11 => some (8, false)
  | 0x12 => some (16, false)
  | 0x13 => some (32, false)
  | 0x14 => some (64, false)
  | _ => none

/-- Decode a float word. -/
def FloatFmt.decode (f : FloatFmt) (raw : Nat) : Val :=
  let n := raw.testBit (f.width - 1)
  let m := raw % 2 ^ (f.width - 1)
  if m ≤ f.maxBits then
    let e := m / 2 ^ (f.prec - 1)
    let frac := m % 2 ^ (f.prec - 1)
    if e = 0 then Val.ofDyadic n frac f.qmin
    else Val.ofDyadic n (frac + 2 ^ (f.prec - 1)) (f.qmin + (e - 1 : Nat))
  else if f.infBits = some m then .inf n
  else .nan (f.ieee && !m.testBit (f.prec - 2))

/-- Leading bits equal to b among the bits from k - 1 down. -/
def runLength (b : Bool) (w : Nat) : Nat → Nat
  | 0 => 0
  | k + 1 => if w.testBit k = b then 1 + runLength b w k else 0

/-- Decode a grain word (R99). -/
def grainDecode (n es raw : Nat) : Val :=
  let w := raw % 2 ^ n
  if w = 0 then .zero false
  else if w = 2 ^ (n - 1) then .unreal
  else
    let s := w.testBit (n - 1)
    let m := if s then 2 ^ n - w else w
    let b := m.testBit (n - 2)
    let run := runLength b m (n - 1)
    let k : Int := if b then (run : Int) - 1 else -(run : Int)
    -- bits below the terminating bit
    let left := n - 1 - run - 1
    let rest := m % 2 ^ left
    let have' := min es left
    let e := rest / 2 ^ (left - have') * 2 ^ (es - have')
    let fb := left - have'
    Val.ofDyadic s (rest % 2 ^ fb + 2 ^ fb) (k * (2 ^ es : Nat) + e - fb)

/-- The exact value of an element of a format (R96-R99, R104). -/
def decodeVal (f raw : Nat) : Val :=
  match floatFmt f with
  | some ff => ff.decode raw
  | none =>
    match grainFmt f with
    | some (n, es) => grainDecode n es raw
    | none =>
      match intFmt f with
      | some (n, true) => Val.ofInt (signExt n raw)
      | some (n, false) => Val.ofInt (raw % 2 ^ n : Nat)
      | none => .zero false

/-! ### Rounding -/

/-- Round a magnitude to a multiple of 2^q (R105, R107): the multiple, and whether it is exact. Modes are those of
R105, 1 to 5; `u` is the 24-bit draw of mode 5. -/
def roundAt (mode u : Nat) (neg : Bool) (m : Mag) (q : Int) : Nat × Bool :=
  let (l, exact') := m.fl (-q)
  if exact' then (l, true)
  else
    let up := match mode with
      | 1 =>
        let (h, he) := m.fl (1 - q)
        h % 2 == 1 && (!he || l % 2 == 1)
      | 2 => false
      | 3 => !neg
      | 4 => neg
      | _ => decide (u < (m.fl (24 - q)).1 - l * 2 ^ 24)
    (if up then l + 1 else l, false)

/-- Round a magnitude to a float format (R97, R98, R107, R108, R113). An OCP format saturates a value beyond its largest
finite one; under stochastic rounding it does so whatever the draw chooses (R107). -/
def FloatFmt.round (f : FloatFmt) (mode u : Nat) (neg : Bool) (m : Mag) : Nat × FFlags :=
  let q := max f.qmin (m.lead - (f.prec - 1 : Nat))
  let (r, exact') := roundAt mode u neg m q
  let bits := (q - f.qmin).toNat * 2 ^ (f.prec - 1) + r
  let sgn := if neg then 2 ^ (f.width - 1) else 0
  let drawn := !f.ieee && mode == 5 && !exact' && bits == f.maxBits &&
    (m.fl (-q)).1 + (q - f.qmin).toNat * 2 ^ (f.prec - 1) == f.maxBits
  if f.maxBits < bits ∨ drawn = true then
    if f.ieee then
      let toInf := match mode with
        | 2 => false
        | 3 => !neg
        | 4 => neg
        | _ => true
      (sgn + (if toInf then f.infBits.getD 0 else f.maxBits), { of := true, nx := true })
    else (sgn + f.maxBits, { ns := true, nx := true })
  else
    let tiny := decide (m.lead < f.qmin + (f.prec - 1 : Nat))
    (sgn + bits, { nx := !exact', uf := tiny && !exact' })

/-- The grain bit string of a magnitude of leading exponent `lead` with 40 fraction bits, and its length (R102). -/
def grainString (es : Nat) (lead : Int) (frac : Nat) : Nat × Nat :=
  let k := lead / (2 ^ es : Nat)
  let e := (lead % (2 ^ es : Nat)).toNat
  let low := e * 2 ^ 40 + frac
  if 0 ≤ k then
    let ones := k.toNat + 1
    -- sign 0, `ones` ones, a zero, exponent, fraction
    ((2 ^ ones - 1) * 2 ^ (1 + es + 40) + low, 1 + ones + 1 + es + 40)
  else
    let zeros := (-k).toNat
    (2 ^ (es + 40) + low, 1 + zeros + 1 + es + 40)

/-- Round a magnitude to a grain format on the bit string (R102). -/
def grainRound (n es mode u : Nat) (neg : Bool) (m : Mag) : Nat × FFlags :=
  let top : Int := (n - 2 : Nat) * (2 ^ es : Nat)
  let maxpos := 2 ^ (n - 1) - 1
  let sgn (p : Nat) : Nat := if neg then 2 ^ n - p else p
  let sat : FFlags := { gs := true, nx := true }
  if top < m.lead ∨ (top = m.lead ∧ m.fl (-top) ≠ (1, true)) then (sgn maxpos, sat)
  else if m.lead < -top then (sgn 1, sat)
  else
    let (f, fe) := m.fl (40 - m.lead)
    let (str, len) := grainString es m.lead (f - 2 ^ 40)
    let cut := len - n
    let l := str / 2 ^ cut
    let t := str % 2 ^ cut
    let exact' := t == 0 && fe
    let half := 2 ^ (cut - 1)
    let up := !exact' && (match mode with
      | 1 => decide (half < t) || (t == half && (!fe || l % 2 == 1))
      | 2 => false
      | 3 => !neg
      | 4 => neg
      | _ => decide (u < t * 2 ^ 24 / 2 ^ cut))
    (sgn (min maxpos (if up then l + 1 else l)), { nx := !exact' })

/-- Round a magnitude to an integer format (R108, R181): saturation sets NS, never NX. -/
def intRound (n : Nat) (signed : Bool) (mode u : Nat) (neg : Bool) (m : Mag) : Nat × FFlags :=
  let (r, _) := roundAt mode u neg m 0
  let x : Int := if neg then -(r : Int) else r
  let lo : Int := if signed then -(2 ^ (n - 1) : Nat) else 0
  let hi : Int := if signed then (2 ^ (n - 1) : Nat) - 1 else (2 ^ n : Nat) - 1
  let c := max lo (min hi x)
  (wrapTo n c, { ns := c != x })

/-- Round a nonzero magnitude to a format (R108). -/
def roundMag (f mode u : Nat) (neg : Bool) (m : Mag) : Nat × FFlags :=
  match floatFmt f with
  | some ff => ff.round mode u neg m
  | none =>
    match grainFmt f with
    | some (n, es) => grainRound n es mode u neg m
    | none =>
      match intFmt f with
      | some (n, sg) => intRound n sg mode u neg m
      | none => (0, {})

/-- The NaN row of R108; `unreal` for an unreal source. -/
def roundNan (f : Nat) (sig unreal : Bool) : Nat × FFlags :=
  match floatFmt f with
  | some ff =>
    match ff.nanBits with
    | some b => (b, { iv := sig })
    | none => (0, { iv := true })
  | none =>
    match grainFmt f with
    | some (n, _) => (2 ^ (n - 1), { gu := !unreal, iv := sig })
    | none => (0, { iv := true })

/-- The infinity row of R108. -/
def roundInf (f : Nat) (neg : Bool) : Nat × FFlags :=
  match floatFmt f with
  | some ff =>
    let sgn := if neg then 2 ^ (ff.width - 1) else 0
    match ff.infBits with
    | some b => (sgn + b, {})
    | none => (sgn + ff.maxBits, { ns := true })
  | none =>
    match grainFmt f with
    | some (n, _) => (2 ^ (n - 1), { gu := true })
    | none =>
      match intFmt f with
      | some (n, true) => (if neg then 2 ^ (n - 1) else 2 ^ (n - 1) - 1, { ns := true })
      | some (n, false) => (if neg then 0 else 2 ^ n - 1, { ns := true })
      | none => (0, {})

/-- Round an exact value once to a format (R107, R108). -/
def roundVal (f mode u : Nat) (v : Val) : Nat × FFlags :=
  match v with
  | .zero n =>
    match floatFmt f with
    | some ff => (if n then 2 ^ (ff.width - 1) else 0, {})
    | none => (0, {})
  | .fin n a b => roundMag f mode u n (Mag.ofRat a b)
  | .inf n => roundInf f n
  | .nan sig => roundNan f sig false
  | .unreal => roundNan f false true

/-- An element as R172 reads it from a register operand. -/
def elemOf (f raw : Nat) : Nat := raw % 2 ^ fmtBits f

/-- The register contents of an element of a format (R172): the low bits; an integer below 32 bits is extended. -/
def elemWrite (f v : Nat) : Nat :=
  match intFmt f with
  | some (n, true) => if n < 32 then wrapTo 32 (signExt n v) else v
  | _ => v

/-! ### The generator (07 R191) -/

/-- One draw of the generator: the next state and the output. -/
def rngNext (st : W64) : W64 × W64 :=
  let s := if st = 0 then 1 else st
  let s := s ^^^ (s >>> 12)
  let s := s ^^^ (s <<< 25)
  let s := s ^^^ (s >>> 27)
  (s, s * 0x2545F4914F6CDD1D)

/-- The 24-bit draw of stochastic rounding (R107). -/
def drawBits (out : W64) : Nat := out.toNat / 2 ^ 40

/-- The rounding mode a selector names for a thread (R105, R106). -/
def modeOf (th : Thread) (sel : Nat) : Nat := if sel = 0 then (th.fmode.extractLsb' 0 3).toNat else sel

/-- Draw n outputs from a thread's generator, the first drawn first. -/
def State.draws (s : State) (t : Nat) : Nat → List W64 × State
  | 0 => ([], s)
  | n + 1 =>
    match s.thread? t with
    | none => ([], s)
    | some th =>
      let (st, o) := rngNext th.rng
      let (os, s) := (s.setThread t { th with rng := st }).draws t n
      (o :: os, s)

/-- The mode of an instruction for a thread, and under mode 5 one draw for each of n elements (R107). -/
def State.rounding (s : State) (t sel n : Nat) : Nat × List Nat × State :=
  match s.thread? t with
  | none => (1, [], s)
  | some th =>
    let m := modeOf th sel
    if m = 5 then
      let (os, s) := s.draws t n
      (m, os.map drawBits, s)
    else (m, [], s)

end Sys2Proof.Machine
end

