-- ==== Sys2Proof/Machine/Transcend.lean ====
section
/-!
DEFINITION. The special functions (04 R114, R115; 07 R179, R180): the exact value of the function, rounded once. The
transcendental ones are evaluated in fixed point with 640 fraction bits to within 2^40 units, which decides every
rounding of an FP32 or FP16 result (log 21).
-/

namespace Sys2Proof.Machine

/-- Fraction bits of the fixed-point evaluation. -/
def fixBits : Nat := 640

/-- The bound on the evaluation's error, in units of the last fraction bit. -/
def fixErr : Nat := 2 ^ 40

/-- The sum of z^(2i+1)/(2i+1), with alternating signs or not: `t` holds z^(2i+1) in fixed point at p bits. -/
def atanSeries (p z2 : Nat) (alternate : Bool) : Nat → Nat → Int → Nat → Int
  | 0, _, _, _ => 0
  | n + 1, i, sg, t =>
    sg * (t / (2 * i + 1) : Nat) +
      atanSeries p z2 alternate n (i + 1) (if alternate then -sg else sg) (t * z2 / 2 ^ p)

/-- Arctangent or hyperbolic arctangent of 1/n in fixed point at p bits. -/
def atanInv (p n : Nat) (alternate : Bool) : Int :=
  let z := 2 ^ p / n
  atanSeries p (z * z / 2 ^ p) alternate (p / 2 + 1) 0 1 z

/-- Pi in fixed point at p bits (Machin's formula, with 32 guard bits). -/
def piFix (p : Nat) : Nat := ((16 * atanInv (p + 32) 5 true - 4 * atanInv (p + 32) 239 true) / 2 ^ 32).toNat

/-- The natural logarithm of 2 in fixed point at p bits. -/
def ln2Fix (p : Nat) : Nat := (2 * atanInv (p + 32) 3 false / 2 ^ 32).toNat

/-- The series of exp (step 1) or of sine and cosine (step 2): `t` is the current term. -/
def powerSeries (p : Nat) (r : Nat) (step : Nat) : Nat → Nat → Int → Nat → Int
  | 0, _, _, _ => 0
  | n + 1, i, sg, t =>
    let next := if step = 1 then t * r / 2 ^ p / (i + 1) else t * r / 2 ^ p * r / 2 ^ p / ((i + 1) * (i + 2))
    sg * (t : Int) + powerSeries p r step n (i + step) (if step = 1 then sg else -sg) next

/-- e^r for 0 <= r < 1 in fixed point. -/
def expFix (r : Nat) : Nat := (powerSeries fixBits r 1 180 0 1 (2 ^ fixBits)).toNat

/-- The magnitude of a fixed-point evaluation times 2^e: the value lies within the error bound above `y - fixErr`. -/
def Mag.ofFix (y : Nat) (e : Int) : Mag :=
  let m := Mag.ofRat (y - fixErr) 1
  { lead := m.lead + e - fixBits
    fl := fun k => ((m.fl (k + e - fixBits)).1, false) }

/-- x mod 2 pi in fixed point, for x = num/den: 192 further bits carry the reduction of the largest operands. -/
def reduceFix (num den : Nat) : Nat :=
  let p := fixBits + 192
  (num * 2 ^ p / den) % (2 * piFix p) / 2 ^ 192

/-- Sine (`off` 1) or cosine (`off` 0) of a positive rational, as a signed fixed-point number. -/
def trigFix (num den off : Nat) : Int :=
  let r := reduceFix num den
  powerSeries fixBits r 2 160 off 1 (if off = 0 then 2 ^ fixBits else r)

/-- 2^(num/den) with the sign `neg` on the exponent, the exponent not an integer. -/
def exp2Mag (neg : Bool) (num den : Nat) : Mag :=
  let n : Int := if neg then -((num / den + 1 : Nat) : Int) else (num / den : Nat)
  let frac := if neg then den - num % den else num % den
  Mag.ofFix (expFix (frac * 2 ^ fixBits / den * ln2Fix fixBits / 2 ^ fixBits)) n

/-- log2 of a positive rational that is no power of two: its sign and fixed-point magnitude. -/
def log2Fix (num den : Nat) : Int :=
  let e := ratLead num den
  let (n, d) := scaled num den (-e)
  let z := (n - d) * 2 ^ fixBits / (n + d)
  let ln := 2 * atanSeries fixBits (z * z / 2 ^ fixBits) false 220 0 1 z
  e * (2 ^ fixBits : Nat) + ln * (2 ^ fixBits : Nat) / (ln2Fix fixBits : Int)

/-- tanh of a positive rational. -/
def tanhMag (num den : Nat) : Mag :=
  if 64 * den ≤ num then Mag.ofFix (2 ^ fixBits - 1 + fixErr - 1) 0
  else
    let y := 2 * num * 2 ^ fixBits / den
    let l2 := ln2Fix fixBits
    let k := y / l2
    let e := expFix (y % l2) * 2 ^ k
    Mag.ofFix ((e - 2 ^ fixBits) * 2 ^ fixBits / (e + 2 ^ fixBits)) 0

/-- The rounded result of a magnitude with a sign. -/
def rounded (f mode u : Nat) (neg : Bool) (m : Mag) : Nat × FFlags := roundMag f mode u neg m

/-- The sign and magnitude of a signed fixed-point evaluation, rounded to nearest even. -/
def roundFix (f : Nat) (y : Int) : Nat × FFlags := roundMag f 1 0 (decide (y < 0)) (Mag.ofFix y.natAbs 0)

/-- Whether a rational is an integer, and a power of two. -/
def isInteger (num den : Nat) : Bool := num % den == 0
/-- Whether num/den is a power of two. -/
def isPow2 (num den : Nat) : Bool :=
  let (n, d) := scaled num den (-(ratLead num den))
  n == d

/-- The result of a special function: operation, format, rounding mode and draw (FSQRT only), operand word. -/
def specialValue (op : Op) (f mode u raw : Nat) : Nat × FFlags :=
  let invalid := roundVal f 1 0 (.nan false)
  let iv : FFlags := { iv := true }
  match decodeVal f raw with
  | .nan sig => (invalid.1, { iv := sig })
  | .unreal => (invalid.1, iv)
  | .zero n =>
    match op with
    | .frcp | .frsq => ((roundInf f n).1, { dz := true })
    | .fexp2 | .fcos => roundVal f 1 0 (.fin false 1 1)
    | .flog2 => ((roundInf f true).1, { dz := true })
    | _ => roundVal f 1 0 (.zero n)
  | .inf n =>
    match op with
    | .frcp => roundVal f 1 0 (.zero n)
    | .frsq => if n then (invalid.1, iv) else roundVal f 1 0 (.zero false)
    | .fsqrt | .flog2 => if n then (invalid.1, iv) else roundInf f false
    | .fexp2 => if n then roundVal f 1 0 (.zero false) else roundInf f false
    | .ftanh => roundVal f 1 0 (.fin n 1 1)
    | _ => (invalid.1, iv)
  | .fin n a b =>
    match op with
    | .frcp => rounded f 1 0 n (Mag.ofRat b a)
    | .frsq => if n then (invalid.1, iv) else rounded f 1 0 false (Mag.sqrt b a)
    | .fsqrt => if n then (invalid.1, iv) else rounded f mode u false (Mag.sqrt a b)
    | .fexp2 =>
      if 1024 * b ≤ a then rounded f 1 0 false (if n then Mag.ofRat 1 (2 ^ 1024) else Mag.ofRat (2 ^ 1024) 1)
      else if isInteger a b then
        rounded f 1 0 false (if n then Mag.ofRat 1 (2 ^ (a / b)) else Mag.ofRat (2 ^ (a / b)) 1)
      else rounded f 1 0 false (exp2Mag n a b)
    | .flog2 =>
      if n then (invalid.1, iv)
      else if isPow2 a b then roundVal f 1 0 (Val.ofInt (ratLead a b))
      else roundFix f (log2Fix a b)
    | .fsin => let y := trigFix a b 1; roundFix f (if n then -y else y)
    | .fcos => roundFix f (trigFix a b 0)
    | _ => rounded f 1 0 n (tanhMag a b)

end Sys2Proof.Machine
end

