-- ==== Sys2Proof/Machine/Float.lean ====
section
/-!
DEFINITION. Floating and grain arithmetic (07 R172-R178): majors 0x60-0x6A. Each result is the exact value rounded once.
-/

namespace Sys2Proof.Machine

/-- Source B of a float instruction as bits of format f (R172): register or pair, constant word or pair, literal. The
literal of FFMA is source C. -/
def State.fltB (s : State) (i : Ins) (t f : Nat) : Nat :=
  let lit := if i.op = .ffma then none else i.w.lit
  elemOf f (match lit with
    | some l => l.toNat
    | none =>
      if i.w.kb then (s.constWord t i.x).val.toNat + 2 ^ 32 * (s.constWord t (i.x + 1)).val.toNat
      else s.srcVal t i .b)

/-- Source C of FFMA as bits of format f. -/
def State.fltC (s : State) (i : Ins) (t f : Nat) : Nat :=
  elemOf f (match i.w.lit with
    | some l => l.toNat
    | none => s.srcVal t i .c)

/-- Source A as bits of format f. -/
def State.fltA (s : State) (i : Ins) (t f : Nat) : Nat := elemOf f (s.srcVal t i .a)

/-- Apply an effect to each active thread in lane order, ORing the flags each raises into its $fex (R112) and counting
the instruction once for every flag set in any thread (R395). -/
def perFlags (f : Nat → State → State × FFlags) (ts : List Nat) (s : State) : State :=
  let (s, all) := ts.foldl (fun (p : State × W32) t =>
    let (s', fl) := f t p.1
    (s'.setFlags t fl.toW32, p.2 ||| fl.toW32)) (s, 0)
  s.countFlags all

/-- The exact value of FADD, FSUB, FMUL or FFMA with the invalid operations it meets (R97, R103, R174); `rd` is the
sign of an exact zero sum. -/
def fltExact (op : Op) (rd : Bool) (a b c : Val) : Val × FFlags :=
  match op with
  | .fadd => Val.add rd a b
  | .fsub => Val.add rd a b.neg
  | .fmul => Val.mul a b
  | _ =>
    let (p, f1) := Val.mul a b
    let (r, f2) := Val.add rd p c
    (r, f1.or { f2 with iv := f2.iv || a.isSig || b.isSig })

/-- The result of FADD, FSUB, FMUL or FFMA on raw elements. -/
def fltArith (op : Op) (f mode u a b c : Nat) : Nat × FFlags :=
  let (v, f1) := fltExact op (mode == 4) (decodeVal f a) (decodeVal f b) (decodeVal f c)
  let (r, f2) := roundVal f mode u v
  (r, f1.or f2)

/-- FADD, FSUB, FMUL and FFMA (R174). -/
def fltSem : Sem :=
  { act := fun i _ => perFlags fun t s =>
      let f := i.ty
      let a := s.fltA i t f
      let b := s.fltB i t f
      let c := s.fltC i t f
      let (m, us, s) := s.rounding t i.hint 1
      let (r, fl) := fltArith i.op f m (us.headD 0) a b c
      (s.writeD t i (elemWrite f r), fl) }

/-- FMIN and FMAX on raw elements (R101, R175). -/
def fltMinMax (isMax : Bool) (f a b : Nat) : Nat × FFlags :=
  let x := decodeVal f a
  let y := decodeVal f b
  match grainFmt f with
  | some (n, _) =>
    if x = .unreal ∨ y = .unreal then (2 ^ (n - 1), {})
    else if (signExt n a ≤ signExt n b) = (isMax = false) then (a, {}) else (b, {})
  | none =>
    let fl : FFlags := { iv := x.isSig || y.isSig }
    if x.isNan && y.isNan then ((roundNan f false false).1, fl)
    else if x.isNan then (b, fl)
    else if y.isNan then (a, fl)
    else
      let c := Val.cmp x y
      -- -0 lies below +0
      let less := c < 0 ∨ (c = 0 ∧ x.sign = true)
      if isMax then (if less then b else a, fl) else (if less then a else b, fl)

/-- FMIN and FMAX (R175). -/
def fltMinMaxSem : Sem :=
  { act := fun i _ => perFlags fun t s =>
      let (r, fl) := fltMinMax (i.op == .fmax) i.ty (s.fltA i t i.ty) (s.fltB i t i.ty)
      (s.writeD t i (elemWrite i.ty r), fl) }

/-- FABS and FNEG on a raw element (R175). -/
def fltSign (neg : Bool) (f a : Nat) : Nat × FFlags :=
  match grainFmt f with
  | some (n, _) =>
    if a = 2 ^ (n - 1) ∨ a = 0 then (a, {})
    else if neg || a.testBit (n - 1) then (2 ^ n - a, {}) else (a, {})
  | none =>
    match decodeVal f a with
    | .nan sig => ((roundNan f false false).1, { iv := sig })
    | _ =>
      let top := 2 ^ (fmtBits f - 1)
      if neg then ((a + top) % (2 * top), {}) else (a % top, {})

/-- FABS and FNEG (R175). -/
def fltSignSem : Sem :=
  { act := fun i _ => perFlags fun t s =>
      let (r, fl) := fltSign (i.op == .fneg) i.ty (s.fltA i t i.ty)
      (s.writeD t i (elemWrite i.ty r), fl) }

/-- An IEEE comparison and its flags (R176). -/
def fltCond (cond f a b : Nat) : Bool × FFlags :=
  let x := decodeVal f a
  let y := decodeVal f b
  let un := x.isNan || y.isNan
  let c := Val.cmp x y
  let quiet := cond < 2 || 6 ≤ cond
  let fl : FFlags := { iv := if quiet then x.isSig || y.isSig else un }
  let r := match cond with
    | 0 => !un && c == 0
    | 1 => un || c != 0
    | 2 => !un && decide (c < 0)
    | 3 => !un && decide (c ≤ 0)
    | 4 => !un && decide (0 < c)
    | 5 => !un && decide (0 ≤ c)
    | 6 => un
    | _ => !un
  (r, fl)

/-- FCMP (R176). -/
def fltCmpSem : Sem :=
  { act := fun i _ => perFlags fun t s =>
      let (r, fl) := fltCond i.minor i.ty (s.fltA i t i.ty) (s.fltB i t i.ty)
      (s.writeDP [t] i r, fl) }

/-- The class bit of an element (R177). -/
def fltClass (f a : Nat) : Nat :=
  let normal (n d : Nat) : Bool :=
    match floatFmt f with
    | some ff => decide (ff.qmin + (ff.prec - 1 : Nat) ≤ ratLead n d)
    | none => true
  match decodeVal f a with
  | .nan true => 0
  | .nan false | .unreal => 1
  | .inf n => if n then 2 else 9
  | .fin n x y => if n then (if normal x y then 3 else 4) else if normal x y then 8 else 7
  | .zero n => if n then 5 else 6

/-- FCLASS (R177). -/
def fltClassSem : Sem :=
  { act := fun i _ ts s => ts.foldl (fun s t => s.writeD t i (2 ^ fltClass i.ty (s.fltA i t i.ty))) s }

/-- FRND on a raw element (R178). -/
def fltRound (f mode u a : Nat) : Nat × FFlags :=
  match decodeVal f a with
  | .nan sig => ((roundNan f false false).1, { iv := sig })
  | .fin n x y =>
    let (r, exact') := roundAt mode u n (Mag.ofRat x y) 0
    ((roundVal f 1 0 (Val.ofRat n r 1)).1, { nx := !exact' })
  | _ => (a, {})

/-- FRND (R178). -/
def fltRoundSem : Sem :=
  { act := fun i _ => perFlags fun t s =>
      let a := s.fltA i t i.ty
      let (m, us, s) := s.rounding t i.hint 1
      let (r, fl) := fltRound i.ty m (us.headD 0) a
      (s.writeD t i (elemWrite i.ty r), fl) }

/-- FADD, base form (R174). -/
def execFaddB32 (w : B32) (s : State) : Host.Outcome State Fault Refusal := issue fltSem (w.ins .fadd) s

/-- FADD, extended form (R174). -/
def execFaddX96 (w : X96) (s : State) : Host.Outcome State Fault Refusal := issue fltSem (w.ins .fadd) s

/-- FSUB, base form (R174). -/
def execFsubB32 (w : B32) (s : State) : Host.Outcome State Fault Refusal := issue fltSem (w.ins .fsub) s

/-- FSUB, extended form (R174). -/
def execFsubX96 (w : X96) (s : State) : Host.Outcome State Fault Refusal := issue fltSem (w.ins .fsub) s

/-- FMUL, base form (R174). -/
def execFmulB32 (w : B32) (s : State) : Host.Outcome State Fault Refusal := issue fltSem (w.ins .fmul) s

/-- FMUL, extended form (R174). -/
def execFmulX96 (w : X96) (s : State) : Host.Outcome State Fault Refusal := issue fltSem (w.ins .fmul) s

/-- FFMA (R174). -/
def execFfma (w : X96) (s : State) : Host.Outcome State Fault Refusal := issue fltSem (w.ins .ffma) s

/-- FMIN, base form (R175). -/
def execFminB32 (w : B32) (s : State) : Host.Outcome State Fault Refusal := issue fltMinMaxSem (w.ins .fmin) s

/-- FMIN, extended form (R175). -/
def execFminX96 (w : X96) (s : State) : Host.Outcome State Fault Refusal := issue fltMinMaxSem (w.ins .fmin) s

/-- FMAX, base form (R175). -/
def execFmaxB32 (w : B32) (s : State) : Host.Outcome State Fault Refusal := issue fltMinMaxSem (w.ins .fmax) s

/-- FMAX, extended form (R175). -/
def execFmaxX96 (w : X96) (s : State) : Host.Outcome State Fault Refusal := issue fltMinMaxSem (w.ins .fmax) s

/-- FABS, base form (R175). -/
def execFabsB32 (w : B32) (s : State) : Host.Outcome State Fault Refusal := issue fltSignSem (w.ins .fabs) s

/-- FABS, extended form (R175). -/
def execFabsX96 (w : X96) (s : State) : Host.Outcome State Fault Refusal := issue fltSignSem (w.ins .fabs) s

/-- FNEG, base form (R175). -/
def execFnegB32 (w : B32) (s : State) : Host.Outcome State Fault Refusal := issue fltSignSem (w.ins .fneg) s

/-- FNEG, extended form (R175). -/
def execFnegX96 (w : X96) (s : State) : Host.Outcome State Fault Refusal := issue fltSignSem (w.ins .fneg) s

/-- FCMP, base form (R176). -/
def execFcmpB32 (w : B32) (s : State) : Host.Outcome State Fault Refusal := issue fltCmpSem (w.ins .fcmp) s

/-- FCMP, extended form (R176). -/
def execFcmpX96 (w : X96) (s : State) : Host.Outcome State Fault Refusal := issue fltCmpSem (w.ins .fcmp) s

/-- FCLASS (R177). -/
def execFclass (w : X96) (s : State) : Host.Outcome State Fault Refusal := issue fltClassSem (w.ins .fclass) s

/-- FRND (R178). -/
def execFrnd (w : X96) (s : State) : Host.Outcome State Fault Refusal := issue fltRoundSem (w.ins .frnd) s

end Sys2Proof.Machine
end

