-- ==== Sys2Proof/Machine/Memory.lean ====
section
/-!
DEFINITION. Loads, stores, prefetches, atomics and fences as they issue (08 R198-R208; 11 R270): the address of each
thread's element, its checks, the outstanding operation it becomes, the order among one thread's operations
(03 R78, R88, R93), and the stand's own copy of a line (03 R85).
-/

namespace Sys2Proof.Machine

/-- The bytes an element of so many bits takes in memory (R200, R201). -/
def memBytes (bits : Nat) : Nat := if bits ≤ 8 then 1 else bits / 8

/-- One thread's element of a memory instruction: address, bytes, half of the byte for a 4-bit element, and whether a
bank's format governs it as it issues (R201). -/
structure Acc where
  ea : W64
  n : Nat
  nib : Option Nat := none
  bank : Bool := false
deriving DecidableEq, Repr

/-- What an instruction needs of its page (R352). -/
def memNeed (op : Op) : Need :=
  match op with
  | .st | .sts => { w := true }
  | .atom => { r := true, w := true }
  | _ => { r := true }

/-- When a write's part is complete for a scope (R88, R93): the copy of the thread's own stand, given whether it is that
stand's, answers up to stand scope, the home beyond it, and the root complex at system scope. A dropped write is complete. -/
def Part.writeDone (p : Part) (own : Bool) (scope : Nat) : Bool :=
  p.dropped ||
  match p.place with
  | .dram _ | .remote _ => (decide (scope ≤ 3) && p.copy && own) || p.phase == .performed || p.phase == .acked
  | .host _ _ => if scope = 7 then p.phase == .acked else p.phase == .performed || p.phase == .acked
  | _ => p.phase == .performed || p.phase == .acked

/-- Whether a part has been read or performed. -/
def Part.taken (p : Part) : Bool :=
  p.dropped || p.phase == .value || p.phase == .performed || p.phase == .acked

/-- The bytes a part covers within its own space: a number for the space, the first byte and the count. -/
def Part.span (p : Part) : Nat × Nat × Nat :=
  match p.place with
  | .dram a => (0, a, p.n)
  | .loc k => (1, k, p.n)
  | .host d a => (2, d * 2 ^ 64 + a, p.n)
  | .remote a => (3, a, p.n)
  | .reg o => (4, o, p.n)
  | .doorbell e => (5, e, p.n)

/-- Whether two parts share a byte. -/
def Part.overlaps (p q : Part) : Bool :=
  let (a, x, n) := p.span
  let (b, y, m) := q.span
  a == b && decide (x < y + m) && decide (y < x + n)

/-- Whether two parts lie in one core's local memory (R93). -/
def Part.sameCore (p q : Part) : Bool :=
  match p.place, q.place with
  | .loc a, .loc b => locCore a == locCore b
  | _, _ => false

namespace MemOp

/-- The operation writes. -/
def writes (o : MemOp) : Bool := o.kind != .load
/-- An acquire (R76, R90). -/
def acquires (o : MemOp) : Bool := o.kind != .store && (o.ord == 2 || o.ord == 4 || o.ord == 5)
/-- A release (R76, R90). -/
def releases (o : MemOp) : Bool := o.kind != .load && (o.ord == 3 || o.ord == 4 || o.ord == 5)
/-- Every part has been read or performed. -/
def taken (o : MemOp) : Bool := o.parts.all Part.taken

end MemOp

namespace State

/-- Whether an operation's writes are complete for a scope, where its thread now stands (R88): after a move to another stand
the copy of the old one is nothing the new stand's members see. -/
def opDone (s : State) (o : MemOp) (scope : Nat) : Bool :=
  o.parts.all fun p => p.writeDone ((s.thread? o.tid).all fun _ => (s.homeOf o.tid).stand == o.stand) scope

/-- Every write issued before operation `before` that only a stand's copies show yet has been performed at its home (R83,
R85). -/
def copiesDone (s : State) (stand before : Nat) : Bool :=
  s.ops.all fun e => e.2.stand != stand || decide (before ≤ e.1) || e.2.parts.all fun p => !p.copy || p.taken

/-- What a thread has read in the stands it has left stands at its homes, as far as operation `before` follows (R78, R83). -/
def movesDone (s : State) (th : Thread) (before : Nat) : Bool :=
  th.moved.all fun m => decide (before < m.2) || s.copiesDone m.1 m.2

/-- Whether every write of a thread issued before operation `before` is complete for a scope (R88), and with it every write the
thread may have read in a stand's copies that the scope's members do not see (R83; log 136). -/
def writesDone (s : State) (t before scope : Nat) : Bool :=
  s.ops.all (fun e => e.2.tid != t || !e.2.writes || decide (before ≤ e.1) || s.opDone e.2 scope) &&
    (s.thread? t).all fun th =>
      (decide (scope ≤ 3) || s.copiesDone (s.homeOf t).stand before) && s.movesDone th before

/-- Whether every load and atomic of a thread has returned its value. -/
def loadsDone (s : State) (t : Nat) : Bool :=
  s.ops.all fun e => e.2.tid != t || e.2.orphan || e.2.kind == .store || e.2.taken

/-- Whether an earlier operation of the same thread stands in a part's way: an acquire not finished (R88), an earlier
access of the same core's local memory (R93), or an access of common bytes where one writes or both are strong (R78). -/
def blocks (j o : MemOp) (p : Part) : Bool :=
  (j.acquires && !j.taken) ||
  j.parts.any fun q => !q.taken && (q.sameCore p || (q.overlaps p && (j.writes || o.writes || (j.ord != 0 && o.ord != 0))))

/-- Whether a part may be performed now as far as its own thread's order goes (R78, R88, R93); of translated memory, not before
what the thread has read in a stand it has left stands at its home (R78). -/
def opReady (s : State) (id : Nat) (o : MemOp) (p : Part) : Bool :=
  (s.ops.all fun e => e.2.tid != o.tid || e.2.orphan || decide (id ≤ e.1) || !blocks e.2 o p) &&
    (!o.releases || s.writesDone o.tid id o.scope) &&
    ((!p.place.translated && p.place.copyAddr.isNone) || (s.thread? o.tid).all fun th => s.movesDone th id)

/-! ### The stand's copy of a line -/

/-- Whether a line a stand holds may be read: below its lease end, or with a write of the stand not yet acknowledged
(R85, R387). R85 is followed where R87 would have such a copy end as another stand's earlier write is performed (DESIGN CHOICE,
log 140). -/
def l1Valid (s : State) (l : L1Line) : Bool := decide (s.gtc < l.leaseEnd) || !l.writes.isEmpty

/-- The valid copy of the line of a byte in a stand's L1; none while the L1 sleeps (R85, R388). -/
def l1Line (s : State) (stand pa : Nat) : Option L1Line :=
  if (s.stand stand).asleep.isSome then none
  else ((s.stand stand).l1.get? (pa / 64)).filter s.l1Valid

/-- A store updates the stand's copy of one part, where a valid one is held (R85). -/
def copyPart (s : State) (stand id idx : Nat) (p : Part) : State × Part :=
  match p.place.copyAddr with
  | some pa =>
    match s.l1Line stand pa with
    | some l =>
      let data := match p.nibble with
        | some h => l.data.writeByte pa (withHalf (l.data.readByte pa) h (p.data.headD 0))
        | none => l.data.write pa p.data
      let bad := if p.nibble.isSome && !p.poison then l.poison else poisonWrite l.poison pa p.n p.poison
      let l' : L1Line := { l with data := data, poison := bad, writes := l.writes ++ [(id, idx)] }
      (s.modStand stand fun x => { x with l1 := x.l1.put (pa / 64) l' }, { p with copy := true })
    | none => (s, p)
  | _ => (s, p)

/-- Apply `copyPart` to the parts of an operation that are ready. -/
def copyParts (s : State) (id : Nat) (o : MemOp) : Nat → List Part → State × List Part
  | _, [] => (s, [])
  | idx, p :: r =>
    let take := !p.copy && !p.dropped && !p.migHeld && p.phase == .sent && s.opReady id o p
    let (s, p) := if take then s.copyPart o.stand id idx p else (s, p)
    let (s, r) := s.copyParts id o (idx + 1) r
    (s, p :: r)

/-- Update the stand's copies for a store that may be seen by its stand; not for a task's or a cruise's, which no other
agent sees (R85, R95). -/
def tryCopy (s : State) (id : Nat) : State :=
  match s.ops.get? id with
  | none => s
  | some o =>
    let own := ((s.thread? o.tid).bind (·.taskOf)).isSome || ((s.thread? o.tid).bind fun th => s.cruiseOf th.launch).isSome
    if o.kind != .store || own then s
    else
      let (s, ps) := s.copyParts id o 0 o.parts
      s.modOp id fun o => { o with parts := ps }

/-! ### Elements and addresses -/

/-- The format code of the bank a place lies in; 0 elsewhere (R68, R201). -/
def bankFmt (s : State) (p : Place) : Nat :=
  match p with
  | .loc k => (s.core (locCore k)).bfmt.toNat % 16
  | _ => 0

/-- The format code of the bank an address names (R201). -/
def bankAt (s : State) (t space : Nat) (ea : W64) : Nat :=
  match s.locate t space ea 1 {} with
  | .parts (p :: _) => s.bankFmt p.place
  | _ => 0

/-- The bits of the memory element at an address, and whether its bank's format gives them (R200, R201). -/
def elemBits (s : State) (i : Ins) (t : Nat) (ea : W64) : Nat × Bool :=
  if i.typed then
    let f := s.bankAt t i.space ea
    if f = 0 then (fmtBits i.ty, false) else (fmtBits f, true)
  else (if i.op = .pref then 8 else intWidth i.ty, false)

/-- A thread's element (R199-R202). A vector access of raw 4-bit elements packs them two to a byte; a typed one takes a byte
for each, whose low half is the element (R201). -/
def access (s : State) (i : Ins) (lead t : Nat) : Acc :=
  if i.op = .ldg ∨ i.op = .sts then
    let base := s.memEa lead i
    let w := (s.elemBits i lead base).1
    let l := (s.homeOf t).lane
    let packed := w == 4 && !i.typed
    let ea := base + BitVec.ofNat 64 (if packed then l / 2 else l * memBytes w)
    let (b, bank) := s.elemBits i t ea
    { ea := ea, n := memBytes b, nib := if b = 4 then some (if packed then l % 2 else 0) else none, bank := bank }
  else
    let ea := s.memEa t i
    let (b, bank) := s.elemBits i t ea
    { ea := ea, n := memBytes b, nib := if b = 4 then some 0 else none, bank := bank }

/-- Resolve a thread's element. -/
def locateAcc (s : State) (i : Ins) (t : Nat) (a : Acc) : LocRes := s.locate t i.space a.ea a.n (memNeed i.op)

/-! ### Checks -/

/-- Whether a task may make an access (R270): translated memory inside its ranges, its own private area, and the
constant window for reading. -/
def taskMay (s : State) (i : Ins) (t : Nat) (a : Acc) : Bool :=
  match (s.thread? t).bind fun th => th.taskOf.bind s.tasks.get? with
  | none => true
  | some x =>
    let e := a.ea.toNat
    match i.space with
    | 0 => regionOf e == .translated && regionOf ((e + a.n - 1) % 2 ^ 64) == .translated && taskRange x e a.n (memNeed i.op)
    | 1 =>
      match s.homeOf t with
      | .scalar _ c => (decide (0x400 + 0x1000 * c ≤ e) && decide (e + a.n ≤ 0x1400 + 0x1000 * c)) ||
          (!(memNeed i.op).w && decide (e + a.n ≤ 0x400))
      | _ => false
    | _ => false

/-- A task's write or atomic is issued once its own earlier reads have taken their values, and a read once its own
earlier atomics have, so that its buffer follows program order. -/
def taskWait (s : State) (i : Ins) (t : Nat) : Bool :=
  i.space == 0 && ((s.thread? t).bind (·.taskOf)).isSome &&
    s.ops.any fun e => e.2.tid == t && !e.2.orphan && !e.2.taken && ((memNeed i.op).w || e.2.kind == .atomic)

/-- An atomic in host memory is a FetchAdd, Swap or CAS of 32 or 64 bits (R207). -/
def hostAtomOk (i : Ins) : LocRes → Bool
  | .parts ps =>
    i.op != .atom || (i.ty ≤ 3 && (i.atomOp == 0 || i.atomOp == 6 || i.atomOp == 7)) ||
      !ps.any fun p => match p.place with
        | .host _ _ => true
        | _ => false
  | _ => true

/-- The checks of a memory instruction for one thread: what a task may touch (R270), address traps (R56-R59),
alignment (R72, R201), translation (R402) and the atomics host memory takes (R207). A misaligned access traps before its address
faults (DESIGN CHOICE, log 141). -/
def memCheck (i : Ins) (lead : Nat) (s : State) (t : Nat) : Check :=
  let a := s.access i lead t
  if !s.taskMay i t a then .trap 1 i.word0
  else
    let r := s.locateAcc i t a
    let aligned := (i.op != .atom && i.ordering < 2 && !a.bank) || a.ea.toNat % a.n == 0
    match r with
    | .trap c info => .trap c info
    | _ =>
      if !aligned then .trap 1 i.word0
      else
        match s.locCheck t (memNeed i.op) (i.op == .atom) r with
        | .ok => if !hostAtomOk i r then .trap 1 i.word0 else if s.taskWait i t then .hold else .ok
        | c => c

/-- Ask for the translations the threads' addresses still need (R402). -/
def memPrep (i : Ins) (lead : Nat) (ts : List Nat) (s : State) : State :=
  ts.foldl (fun s t =>
    let a := s.access i lead t
    match s.locateAcc i t a with
    | .miss part va => s.askWalk t part va a.ea.toNat (memNeed i.op) (i.op == .atom)
    | _ => s) s

/-- Orderings and operations a task may not use (R270). -/
def memLegal (i : Ins) (s : State) (t : Nat) : Bool :=
  ((s.thread? t).bind (·.taskOf)).isNone || (i.ordering < 2 && !(i.op == .atom && i.scope == 7))

/-- A sequentially consistent operation waits for the thread's earlier one (R89). -/
def scReady (i : Ins) (ts : List Nat) (s : State) : Bool :=
  i.ordering != 5 || ts.all fun t => !s.ops.any fun e =>
    e.2.tid == t && e.2.ord == 5 && !(e.2.kind == .store && s.opDone e.2 e.2.scope)

/-! ### Issue -/

/-- A thread's next stamp (R89). -/
def takeStamp (s : State) (t : Nat) : Nat × State :=
  let v := max (((s.thread? t).elim 0 (·.sc)) + 1) s.gtc
  (v, s.modThread t fun th => { th with sc := v })

/-- Word 1 of the entry an access leaves in the trace ring it arrives at: source core, package index and kind of unit
(R94, R394). -/
def sourceWord (s : State) (h : Home) : Nat := h.refCore + s.pkgId % 1024 * 2 ^ 18 + h.isWave.toNat * 2 ^ 28

/-- The parts of an access as an operation carries them: whether the L1 may hold them (R86, R123, R273). -/
def issueParts (s : State) (i : Ins) (t : Nat) (r : LocRes) : List Part :=
  let own := ((s.thread? t).bind (·.taskOf)).isSome || ((s.thread? t).bind fun th => s.cruiseOf th.launch).isSome
  match r with
  | .parts ps => ps.map fun p => { p with l1 := p.l1 && i.hint != 1 && p.lease != 0 && !own }
  | _ => []

/-- An access of an unclaimed cruise that R346 names sets its discard cause. -/
def noteCruise (s : State) (i : Ins) (t : Nat) (ps : List Part) : State :=
  match (s.thread? t).bind fun th => s.cruiseOf th.launch with
  | none => s
  | some c =>
    let out := (i.op == .atom && i.scope == 7) || ps.any fun p => match p.place with
      | .dram _ | .loc _ => false
      | _ => true
    if out then { s with cruises := s.cruises.mod c fun x => x.cause 8 } else s

/-- The page of a thread's last access becomes its last-page register (R354). -/
def rememberPage (s : State) (t : Nat) (ea : W64) : State :=
  match s.thread? t with
  | none => s
  | some th =>
    match s.cached t th.part ea.toNat with
    | some tr => s.modThread t fun th => { th with lastPage := some tr }
    | none => s

/-- The SOURCE of a fault record of a thread's data access (R361). -/
def sourceOf (s : State) (t : Nat) : Nat :=
  match s.thread? t with
  | some { home := .skidder _, .. } => 4
  | some th => if th.taskOf.isSome then 6 else 0
  | none => 0

/-- A new operation of a thread. -/
def newOp (s : State) (i : Ins) (t : Nat) (a : Acc) (kind : OpKind) (ps : List Part) : Nat × MemOp × State :=
  let h := s.homeOf t
  let s := (s.noteCruise i t ps).rememberPage t a.ea
  let (stamp, s) := if i.ordering = 5 then let (v, s) := s.takeStamp t; (some v, s) else (none, s)
  let (id, s) := s.fresh
  let o : MemOp :=
    { tid := t, part := ((s.thread? t).map (·.part)).getD 0, launch := ((s.thread? t).map (·.launch)).getD 0
      stand := h.stand, src := s.sourceWord h, pc := (s.run?.map (·.pc)).getD 0, home := h, source := s.sourceOf t, kind := kind
      ord := i.ordering, scope := i.scope, stamp := stamp, parts := ps, ty := i.ty, ea := a.ea.toNat
      issue := s.issueNo }
  (id, o, s)

/-- The general registers a load leaves empty while it is parked at translation (R126, R204); a push onto a queue is not
there before the load issues (R309). -/
def awaitedOf (s : State) (t : Nat) (i : Ins) : List Nat :=
  (destsOf i (s.homeOf t).isWave).filterMap fun q =>
    if q.2.2 = 0 || s.isQueue t i q.2.1 q.2.2 then none else some q.2.2

/-- Mark a load's destination empty; a queue register reserves the queue's next entry (R126, R309). -/
def reserveD (s : State) (t id : Nat) (i : Ins) : State :=
  let s := s.modThread t fun th => { th with awaited := [] }
  (destsOf i (s.homeOf t).isWave).foldl (fun s q =>
    if s.isQueue t i q.2.1 q.2.2 then s.pushQueue (s.mainOf t) (q.2.2 - 60) { filled := false, op := id }
    else s.modThread t fun th => th.emptyG q.2.2) s

/-- The format an element of TYPE `ty` has in a bank of format f (R68). -/
def bankElem (ty f : Nat) : Nat := if f = 0 then ty else f

/-- Whether an element of format `ty` converts to or from a bank's format: not where the bank has none, or the same (R201). -/
def bankConverts (ty f : Nat) : Bool := f != 0 && f != ty

/-- Rounding mode of a typed access, and its draw where the bank's format converts it as it issues (R107, R123, R201); an access
slice rounds under its thread's $fmode, from its thread's generator (R106). -/
def bankDraw (s : State) (i : Ins) (t : Nat) (a : Acc) : Nat × List Nat × State :=
  if i.typed then s.rounding (s.mainOf t) 0 (bankConverts i.ty (s.bankAt t i.space a.ea)).toNat else (1, [], s)

/-- The draws for n elements that convert as an access is performed: those it took at issue and, where a bank's format has
changed since, its generator's next ones (R68, R107). -/
def opDraws (s : State) (o : MemOp) (n : Nat) : List Nat × State :=
  if o.mode ≠ 5 ∨ n ≤ o.draws.length then (o.draws, s)
  else
    let (os, s) := s.draws (s.mainOf o.tid) (n - o.draws.length)
    (o.draws ++ os.map drawBits, s)

/-- LD and LDG at issue for one thread (R200-R202). -/
def issueLoad (i : Ins) (lead : Nat) (s : State) (t : Nat) : State :=
  let a := s.access i lead t
  let ps := (s.issueParts i t (s.locateAcc i t a)).map fun p => { p with nibble := a.nib }
  let (m, us, s) := s.bankDraw i t a
  let (id, o, s) := s.newOp i t a .load ps
  let dest : Dest := if i.typed then .typed i.d i.ty else .regs i.d (intWidth i.ty) (intSigned i.ty)
  let o : MemOp := { o with dest := dest, fmt := if i.typed then some i.ty else none, mode := m, draws := us }
  let s := s.reserveD t id i
  { s with ops := s.ops.put id o }

/-- Hand the bytes of a store to its parts in order. -/
def fillParts : List Byte → List Part → List Part
  | _, [] => []
  | bs, p :: r => { p with data := bs.take p.n } :: fillParts (bs.drop p.n) r

/-- The bytes of a translated access with their numbers. -/
def partCells (ps : List Part) : List (Nat × Byte) :=
  ps.flatMap fun p => (List.range p.n).zip p.data |>.map fun c => (p.place.byteKey + c.1, c.2)

/-- The lines of device memory an access touches, with their pages' keys. -/
def lineKeys (ps : List Part) : List (Nat × Nat) :=
  ps.filterMap fun p => match p.place with
    | .dram pa => some (pa / 64, p.key)
    | _ => none

/-- The flags a store raises at issue when the bank's format converts it (R112, R201). -/
def bankFlags (s : State) (i : Ins) (t : Nat) (a : Acc) (raw m : Nat) (us : List Nat) : FFlags :=
  let f := s.bankAt t i.space a.ea
  if i.typed && bankConverts i.ty f then (roundVal f m (us.headD 0) (decodeVal i.ty raw)).2 else {}

/-- A store's operation, with the flags of its conversion. -/
def putStore (s : State) (i : Ins) (t : Nat) (a : Acc) (ps : List Part) (raw : Nat) : State × FFlags :=
  let (m, us, s) := s.bankDraw i t a
  let (id, o, s) := s.newOp i t a .store ps
  let o : MemOp := { o with fmt := if i.typed then some i.ty else none, c := raw, mode := m, draws := us }
  ({ s with ops := s.ops.put id o }, s.bankFlags i t a raw m us)

/-- ST and STS at issue for one thread (R200-R202), with the flags of its conversion; a task's store goes to its buffer (R270). -/
def issueStore (i : Ins) (lead : Nat) (t : Nat) (s : State) : State × FFlags :=
  let a := s.access i lead t
  let v := s.srcVal t i .d
  let raw := if i.typed then elemOf i.ty v else v % 2 ^ intWidth i.ty
  let bs := (bytesOfNat a.n raw).map (placeNibble a.nib)
  let ps := (fillParts bs (s.issueParts i t (s.locateAcc i t a))).map fun p => { p with nibble := a.nib }
  match (s.thread? t).bind (·.taskOf) with
  | some k =>
    if i.space = 0 then
      let s := (((s.noteCruise i t ps).rememberPage t a.ea).notePages (some k) none (((s.thread? t).map (·.part)).getD 0) a.ea.toNat a.n).taskWrite k (partCells ps) a.nib
      (s.noteKeys (some k) none (lineKeys ps), {})
    else
      s.putStore i t a ps raw
  | none =>
    let r := s.putStore i t a ps raw
    (r.1.tryCopy s.nextId, r.2)

/-- ATOM at issue for one thread (R206). -/
def issueAtom (i : Ins) (lead : Nat) (s : State) (t : Nat) : State :=
  let a := s.access i lead t
  let n := 2 ^ intWidth i.ty
  let c := s.srcVal t i .c % n
  let d := s.srcVal t i .d % n
  let (id, o, s) := s.newOp i t a .atomic (s.issueParts i t (s.locateAcc i t a))
  let o : MemOp := { o with dest := .regs i.d (intWidth i.ty) false, atomOp := i.atomOp, c := c, d := d }
  let s := s.reserveD t id i
  { s with ops := s.ops.put id o }

/-- The line PREF asks for, unless it does nothing (R203): the part, or whether it is dropped for a fault. -/
def prefPart (s : State) (t : Nat) (ea : W64) : Option Part × Bool :=
  match s.thread? t with
  | none => (none, false)
  | some th =>
    match regionOf ea.toNat with
    | .nonCanonical => (none, true)
    | .fabric =>
      -- A window no unit claims faults (R56); the others PREF leaves alone.
      (none, match s.resolveFabric (fun _ _ => none) th.part ea.toNat 1 {} with
        | .park .. => true
        | _ => false)
    | .translated =>
      match s.walkVia (s.cached t th.part ea.toNat) th.part ea.toNat with
      | none => (none, false)
      | some (.fault _) => (none, true)
      | some (.found tr _) =>
        if !tr.r then (none, true)
        else if tr.host || tr.lease == 0 then (none, false)
        else (some { place := .dram (tr.frame + (ea.toNat - tr.base)), n := 1, lease := tr.lease, key := tr.key }, false)
    | _ => (none, false)

/-- A stand's TLB takes the translation that a PREF has walked for (R354). -/
def prefWalked (s : State) (t : Nat) (ea : W64) : State :=
  match s.thread? t with
  | none => s
  | some th =>
    match s.cached t th.part ea.toNat, regionOf ea.toNat, s.walkVia none th.part ea.toNat with
    | none, .translated, some (.found tr _) =>
      if tr.host then s else
      match th.home with
      | .skidder _ => s.unitInsert (skidCache (s.homeOf t).stand) tr
      | _ => s.tlbInsert (s.homeOf t).stand tr
    | _, _, _ => s

/-- PREF for one thread (R203): an operation nothing waits for, or nothing. -/
def issuePref (i : Ins) (s : State) (t : Nat) : State :=
  let ea := s.memEa t i
  let s := s.prefWalked t ea
  match s.prefPart t ea with
  | (some p, _) =>
    let own := ((s.thread? t).bind (·.taskOf)).isSome || ((s.thread? t).bind fun th => s.cruiseOf th.launch).isSome
    if own || i.hint == 1 then s
    else
      let (id, o, s) := s.newOp i t { ea := ea, n := 1 } .load [p]
      { s with ops := s.ops.put id { o with orphan := true } }
  | (none, true) => s.countEvent s.focus 0x21 1
  | (none, false) => s

/-- The trace entry of a memory instruction: the lowest active lane's address (R394). -/
def traceMem (s : State) (i : Ins) (lead : Nat) (ts : List Nat) (pc : W64) : State :=
  match ts, s.run? with
  | t :: _, some r =>
    let a := s.access i lead t
    let va := a.ea.toNat
    let w2 := bits va 56 32 + (memNeed i.op).w.toNat * 2 ^ 25 + (i.op == .atom).toNat * 2 ^ 26 + Nat.log2 a.n * 2 ^ 27
    s.trace s.focus r.group 2 (va % 2 ^ 32) w2 (pc.toNat % 2 ^ 32) (s.laneMask ts)
  | _, _ => s

/-- The issue of a memory instruction for its threads: the trace entry, then each thread's operation. -/
def memAct (f : Ins → Nat → State → Nat → State) (i : Ins) (lead : Nat) (ts : List Nat) (s : State) : State :=
  ts.foldl (f i lead) (s.traceMem i lead ts ((s.run?.map (·.pc)).getD 0))

end State

/-- A parked load or atomic leaves its destination empty until its replay (R204). -/
def loadParked (i : Ins) (s : State) (t : Nat) : State := s.modThread t fun th => { th with awaited := s.awaitedOf t i }

/-- LD and LDG (R200-R202, R204, R402). A thread that a walk may yet park keeps its destination in mind. -/
def loadSem : Sem :=
  { legal := State.memLegal, check := State.memCheck, ready := State.scReady, parked := loadParked
    prep := fun i lead ts s => ts.foldl (loadParked i) (State.memPrep i lead ts s)
    act := State.memAct State.issueLoad }

/-- ST and STS (R200-R202, R402). -/
def storeSem : Sem :=
  { legal := State.memLegal, prep := State.memPrep, check := State.memCheck, ready := State.scReady
    act := fun i lead ts s =>
      perFlags (State.issueStore i lead) ts (s.traceMem i lead ts ((s.run?.map (·.pc)).getD 0)) }

/-- ATOM (R206, R207, R402). -/
def atomSem : Sem :=
  { legal := State.memLegal, check := State.memCheck, ready := State.scReady, parked := loadParked
    prep := fun i lead ts s => ts.foldl (loadParked i) (State.memPrep i lead ts s)
    act := State.memAct State.issueAtom }

/-- PREF (R203). -/
def prefSem : Sem := { act := fun i _ ts s => ts.foldl (State.issuePref i) s }

/-- FENCE's checks for a thread (R81, R88, R208): lost stores are reported first; then the run is held until the acquire
half's loads have returned and the release half's writes are complete. -/
def fenceCheck (i : Ins) (s : State) (t : Nat) : Check :=
  let lost := (s.thread? t).elim 0 (·.lost)
  if 5 ≤ i.scope ∧ 0 < lost then .trap 7 (BitVec.ofNat 32 (min 0xFFFFFFFF lost))
  else
    let acq := i.ordering == 2 || i.ordering == 4 || i.ordering == 5
    let rel := 3 ≤ i.ordering
    if (acq && !s.loadsDone t) || (rel && !s.writesDone t s.nextId i.scope) then .hold else .ok

/-- FENCE (R81, R89, R208). -/
def fenceSem : Sem :=
  { legal := fun _ s t => ((s.thread? t).bind (·.taskOf)).isNone
    check := fun i _ => fenceCheck i, ready := State.scReady
    act := fun i _ ts s => if i.ordering = 5 then ts.foldl (fun s t => (s.takeStamp t).2) s else s }

/-- LD, base form (R200). -/
def execLdB32 (w : B32) (s : State) : Host.Outcome State Fault Refusal := issue loadSem (w.ins .ld) s

/-- LD, extended form (R200). -/
def execLdX96 (w : X96) (s : State) : Host.Outcome State Fault Refusal := issue loadSem (w.ins .ld) s

/-- ST, base form (R200). -/
def execStB32 (w : B32) (s : State) : Host.Outcome State Fault Refusal := issue storeSem (w.ins .st) s

/-- ST, extended form (R200). -/
def execStX96 (w : X96) (s : State) : Host.Outcome State Fault Refusal := issue storeSem (w.ins .st) s

/-- LDG (R202). -/
def execLdg (w : X96) (s : State) : Host.Outcome State Fault Refusal := issue loadSem (w.ins .ldg) s

/-- STS (R202). -/
def execSts (w : X96) (s : State) : Host.Outcome State Fault Refusal := issue storeSem (w.ins .sts) s

/-- PREF (R203). -/
def execPref (w : X96) (s : State) : Host.Outcome State Fault Refusal := issue prefSem (w.ins .pref) s

/-- ATOM (R206). -/
def execAtom (w : X96) (s : State) : Host.Outcome State Fault Refusal := issue atomSem (w.ins .atom) s

/-- FENCE (R208). -/
def execFence (w : X96) (s : State) : Host.Outcome State Fault Refusal := issue fenceSem (w.ins .fence) s

end Sys2Proof.Machine
end

