-- ==== Sys2Proof/Machine/Sync.lean ====
section
/-!
DEFINITION. Named barriers, convergence registers, the register boundary and the counter fold (08 R209-R212; 06 R170;
22 R396).
-/

namespace Sys2Proof.Machine

/-- The scope at which a thread synchronises with its workgroup: stand, or for a visitor the narrowest that holds both
stands (R45, R82). -/
def State.syncScope (s : State) (t : Nat) : Nat :=
  match s.thread? t with
  | none => 3
  | some th => scopeOfStands (s.homeOf t).stand (s.wg th.launch th.wg).stand

/-- Whether a thread runs as none of the kinds that may not synchronise: a task, a bound traversal thread, and for
barriers a shading thread (R210, R211, R255, R290). -/
def syncLegal (barrier : Bool) (_ : Ins) (s : State) (t : Nat) : Bool :=
  match s.thread? t with
  | some th => th.taskOf.isNone && th.ray.isNone && !(barrier && th.isShading)
  | none => false

/-- A release holds the run until the thread's earlier writes are complete for its scope (R82, R88). -/
def State.releaseHolds (s : State) (t scope : Nat) : Bool := !s.writesDone t s.nextId scope

/-! ### Barriers and scalar convergence registers -/

/-- The name under which a thread's workgroup keeps a counted register: barrier b, or scalar convergence register. -/
inductive Counted where
  | bar (n : Nat)
  | cv (n : Nat)
deriving DecidableEq, Repr

namespace State

/-- A counted register of a thread's workgroup (R209, R211). -/
def counted (s : State) (l w : Nat) (k : Counted) : Barrier :=
  match k with
  | .bar n => (s.wg l w).barriers.getD n {}
  | .cv n => (s.wg l w).cv.getD n {}

/-- Change a counted register. -/
def setCounted (s : State) (l w : Nat) (k : Counted) (b : Barrier) : State :=
  s.modWg l w fun g =>
    match k with
    | .bar n => { g with barriers := g.barriers.setD n {} b }
    | .cv n => { g with cv := g.cv.setD n {} b }

/-- Whether a thread waits on a counted register for a phase before `phase`. -/
def waitsOn (th : Thread) (k : Counted) (phase : Nat) : Bool :=
  match th.status, k with
  | .barrier n p, .bar m => n == m && decide (p < phase)
  | .converge n p, .cv m => n == m + 16 && decide (p < phase)
  | _, _ => false

/-- Release the waiters of a phase that has completed (R209). -/
def releaseWaiters (s : State) (l w : Nat) (k : Counted) (phase : Nat) : State :=
  (s.wgThreads l w).foldl (fun s e => if waitsOn e.2 k phase then s.setStatus e.1 .ready else s) s

/-- The unit that stores a fold's record, for the thread whose arrival was the phase's first (R170; log 20). -/
def foldAgent (s : State) (l w t : Nat) : Agent :=
  let h := (s.thread? t).elim (Home.plist (s.wg l w).stand) fun _ => s.homeOf t
  { part := (s.launch? l).elim 0 (·.part), die := standDie h.stand, home := h, launch := some l
    pc := (s.thread? t).elim 0 (·.pc), lanes := 2 ^ h.lane, unit := some (unitNo 1 h.stand) }

/-- The record of a fold (R396). -/
def foldRecord (s : State) (l w phase : Nat) (units : NatSet) : List Byte :=
  let sel (sh : Nat) : List Byte := (List.range 16).map fun j =>
    BitVec.ofNat 8 (s.regN (partReg (((s.launch? l).map (·.part)).getD 0) (0x60 + 4 * j)) / sh)
  let sums := (List.range 16).flatMap fun j =>
    bytesOfNat 8 (min (2 ^ 64 - 1) (units.foldl (fun n k => n + (s.ctrShown k j).toNat) 0))
  bytesOfNat 4 (s.launchId l) ++ bytesOfNat 4 w ++ bytesOfNat 4 units.length ++ bytesOfNat 4 phase ++
    bytesOfNat 8 s.gtc ++ sel 1 ++ sel 256 ++ bytesOfNat 8 0 ++ sums

/-- The counters of a completed phase are summed, recorded and, where asked, cleared (R170). -/
def foldCounters (s : State) (l w phase : Nat) (b : Barrier) : State :=
  match b.fold with
  | none => s
  | some (ps, clr, t) =>
    let u := s.foldAgent l w t
    let s := (ps.filter fun p => s.unitLost u.part p.place).foldl (fun (s : State) _ => s.countLost t)
      (s.unitStore u ps (s.foldRecord l w phase b.units))
    if clr then b.units.foldl (fun s k => s.modEngine k fun e => { e with ctr := [] }) s else s

/-- One thread arrives or signs with a count (R209): its recorded phase is the open one; the arrival that meets the
governing count completes the phase. -/
def arrive (s : State) (t : Nat) (k : Counted) (count : Nat) (fold : Option (List Part × Bool × Nat)) : State :=
  match s.thread? t with
  | none => s
  | some th =>
    let b := s.counted th.launch th.wg k
    let s := s.modThread t fun th =>
      match k with
      | .bar n => { th with arrived := th.arrived.put n b.phase }
      | .cv n => { th with signed := th.signed.put (n + 16) b.phase }
    let b : Barrier :=
      { b with tally := b.tally + 1, count := some (b.count.getD (count % 65536))
               units := b.units.add (((s.homeOf t).engine).getD 0), fold := b.fold.orElse fun _ => fold }
    if some b.tally = b.count then
      let s := s.foldCounters th.launch th.wg b.phase b
      (s.setCounted th.launch th.wg k { phase := b.phase + 1 }).releaseWaiters th.launch th.wg k (b.phase + 1)
    else s.setCounted th.launch th.wg k b

/-- A thread waits for the phase it last arrived at, or for the open one; a completed phase lets it go on (R210). -/
def awaitCounted (s : State) (t : Nat) (k : Counted) : State :=
  match s.thread? t with
  | none => s
  | some th =>
    let b := s.counted th.launch th.wg k
    match k with
    | .bar n =>
      let p := th.arrived.getD n b.phase
      if p < b.phase then s else s.setStatus t (.barrier n p)
    | .cv n =>
      let p := th.signed.getD (n + 16) b.phase
      if p < b.phase then s else s.setStatus t (.converge (n + 16) p)

end State

/-- A zero count raises 0x01 at the arriving thread; a release waits for its writes (R82, R209). -/
def arriveCheck (i : Ins) (s : State) (t : Nat) : Check :=
  if (s.wordB t i).toNat % 65536 = 0 then .trap 1 i.word0
  else if s.releaseHolds t (s.syncScope t) then .hold else .ok

/-- What stands in the way of the record that a phase's fold will write (R87, R170, R375): arrivals wait, since the record is
complete before the phase. `ps` is where the record goes when the arrival is the phase's first. -/
def State.foldHeld (s : State) (t n : Nat) (ps : List Part) : Option LocRes :=
  (s.thread? t).bind fun th =>
    let (ps, u) := match (s.counted th.launch th.wg (.bar n)).fold with
      | some (qs, _, u) => (qs, u)
      | none => (ps, t)
    s.unitBlock (s.foldAgent th.launch th.wg u) true ps

/-- An arrival whose record waits for a route to a package begins that wait (R375). -/
def State.foldRoute (s : State) (t n : Nat) (ps : List Part) : State :=
  match s.foldHeld t n ps, s.thread? t with
  | some (.route k), some th => s.beginRoute th.part k
  | _, _ => s

/-- The checks of an arrival at a barrier whose fold's record goes to `ps` (R170, R209). -/
def barCheck (ps : List Part) (i : Ins) (s : State) (t : Nat) : Check :=
  match arriveCheck i s t with
  | .ok => if (s.foldHeld t i.d ps).isSome then .hold else .ok
  | c => c

/-- BAR.ARR and BAR.SYNC (R209, R210). -/
def barArriveSem (wait : Bool) : Sem :=
  { legal := syncLegal true
    prep := fun i _ ts s => ts.foldl (fun s t => s.foldRoute t i.d []) s
    check := fun i _ => barCheck [] i
    act := fun i _ ts s => ts.foldl (fun s t =>
      let s := s.arrive t (.bar i.d) (s.wordB t i).toNat none
      if wait then s.awaitCounted t (.bar i.d) else s) s }

/-- BAR.WAIT (R210). -/
def barWaitSem : Sem :=
  { legal := syncLegal true
    act := fun i _ ts s => ts.foldl (fun s t => s.awaitCounted t (.bar i.d)) s }

/-- Where CNTR.FOLD's record goes: 192 bytes at pair(A) (R170, R396). -/
def State.foldPlace (s : State) (i : Ins) (t : Nat) : LocRes :=
  s.locate t 0 (BitVec.ofNat 64 (s.srcVal t i .a)) 192 { w := true }

/-- The parts the record goes to. -/
def State.foldParts (s : State) (i : Ins) (t : Nat) : List Part :=
  match s.foldPlace i t with
  | .parts ps => ps
  | _ => []

/-- CNTR.FOLD's checks: the record's alignment, its translation, and those of an arrival (R170, R402). -/
def foldCheck (i : Ins) (s : State) (t : Nat) : Check :=
  if s.srcVal t i .a % 64 != 0 then .trap 1 i.word0
  else
    match s.locCheck t { w := true } false (s.foldPlace i t) with
    | .ok => barCheck (s.foldParts i t) i s t
    | c => c

/-- CNTR.FOLD (R170). -/
def cntrFoldSem : Sem :=
  { legal := syncLegal true
    prep := fun i _ ts s => ts.foldl (fun s t =>
      match s.foldPlace i t with
      | .miss part va => s.askWalk t part va (s.srcVal t i .a) { w := true } false
      | _ => s.foldRoute t i.d (s.foldParts i t)) s
    check := fun i _ => foldCheck i
    act := fun i _ ts s => ts.foldl (fun s t =>
      s.arrive t (.bar i.d) (s.wordB t i).toNat (some (s.foldParts i t, i.x == 1, t))) s }

/-! ### Convergence registers of a wave slot -/

namespace State

/-- A round of a slot's convergence register completes: waiters and matrix entries that await it go on, and the
signatures clear (R211, R233). -/
def completeRound (s : State) (e i cv : Nat) : State :=
  let awaited := (s.slot? e i).any fun x => x.mq.any fun m => m.wait.any fun p => p.1 == cv
  let s := s.modSlot e i fun x =>
    let r := x.cvround.getD cv 0 + 1
    { x with cvround := x.cvround.put cv r, cvsig := x.cvsig.setD cv 0 0
             mq := x.mq.map fun m =>
               match m.wait with
               | some (c, n) => if c = cv ∧ n < r then { m with wait := none } else m
               | none => m }
  let s := if awaited then (s.slot? e i).elim s fun x => s.syncWatch x.launch x.wg true else s
  let r := ((s.slot? e i).map (fun x => x.cvround.getD cv 0)).getD 0
  (s.groupThreads (waveKey e) i).foldl (fun s t =>
    match (s.thread? t).map Thread.status with
    | some (Status.converge c p) => if c = cv ∧ p < r then s.setStatus t .ready else s
    | _ => s) s

/-- Complete a round whose whole set has signed (R211). -/
def closeRound (s : State) (e i cv : Nat) : State :=
  match s.slot? e i with
  | none => s
  | some x =>
    let set := x.cvset.getD cv 0
    if x.cvsig.getD cv 0 &&& set = set then s.completeRound e i cv else s

/-- The active threads of a wave sign: each whose lane lies in the set records the round (R211). -/
def signLanes (s : State) (e i cv : Nat) (ts : List Nat) : State :=
  match s.slot? e i with
  | none => s
  | some x =>
    let set := x.cvset.getD cv 0
    if set = 0 then s else
    let inSet := ts.filter fun t => set.getLsbD (s.homeOf t).lane
    let r := x.cvround.getD cv 0
    let sig := inSet.foldl (fun (m : W32) t => m ||| (1#32 <<< (s.homeOf t).lane)) (x.cvsig.getD cv 0)
    let s := inSet.foldl (fun s t => s.modThread t fun th => { th with signed := th.signed.put cv r }) s
    (s.modSlot e i fun x => { x with cvsig := x.cvsig.setD cv 0 sig }).closeRound e i cv

/-- CVWAIT of a wave thread (R211): an empty set lets it go on. -/
def awaitRound (s : State) (t e i cv : Nat) : State :=
  match s.slot? e i, s.thread? t with
  | some x, some th =>
    let r := x.cvround.getD cv 0
    let p := th.signed.getD cv r
    if x.cvset.getD cv 0 = 0 ∨ p < r then s else s.setStatus t (.converge cv p)
  | _, _ => s

end State

/-- CVSIGN's checks: the count of a scalar signature, and the release (R82, R211). -/
def cvsignCheck (i : Ins) (s : State) (t : Nat) : Check :=
  if (s.homeOf t).isWave then (if s.releaseHolds t 3 then .hold else .ok) else arriveCheck i s t

/-- CVSIGN (R211). -/
def cvsignSem : Sem :=
  { legal := syncLegal false
    check := fun i _ => cvsignCheck i
    act := fun i _ ts s =>
      match ts.head?.map s.homeOf with
      | some (.wave e n _) => s.signLanes e n i.d ts
      | _ => ts.foldl (fun s t => s.arrive t (.cv i.d) (s.wordB t i).toNat none) s }

/-- CVWAIT (R211). -/
def cvwaitSem : Sem :=
  { legal := syncLegal false
    act := fun i _ ts s => ts.foldl (fun s t =>
      match s.homeOf t with
      | .wave e n _ => s.awaitRound t e n i.d
      | _ => s.awaitCounted t (.cv i.d)) s }

/-! ### The register boundary -/

/-- General registers per thread of an allocation code (R71). -/
def genRegs (code : Nat) : Nat := [64, 96, 128, 192, 256].getD code 256

/-- Where BND.SET may stand: a wave thread that is no task, with every live thread of the wave active (R212). -/
def bndLegal (i : Ins) (s : State) (t : Nat) : Bool :=
  match s.thread? t, s.run? with
  | some th, some r =>
    match th.home with
    | .wave e n _ => th.taskOf.isNone && (s.activeSet r i).length == (s.groupThreads (waveKey e) n).length
    | _ => false
  | _, _ => false

/-- BND.SET's checks on its operand (R71, R212). $einfo of the 0x02 names field B with b[7:0], which R165 leaves open for an operand's
value (DESIGN CHOICE, log 148). -/
def bndCheck (i : Ins) (lead : Nat) (s : State) (t : Nat) : Check :=
  let b := (s.wordB lead i).toNat
  match s.homeOf t with
  | .wave e n _ =>
    if 4 < b % 8 ∨ 256 ≤ b then .trap 1 i.word0
    else if ((s.slot? e n).map (·.grant)).getD 0 < genRegs (b % 8) * 128 + b / 8 * 4096 then
      .trap 2 (BitVec.ofNat 32 (b % 256 + Fld.b.code * 256))
    else .ok
  | _ => .trap 1 i.word0

/-- BND.SET waits for every long-latency producer and matrix operation of the wave (R212). -/
def bndReady (_ : Ins) (ts : List Nat) (s : State) : Bool :=
  !ts.any s.producing && (match ts.head?.map s.homeOf with
    | some (.wave e n _) => ((s.slot? e n).map (·.mq.isEmpty)).getD true
    | _ => true)

/-- BND.SET (R212). -/
def bndSem : Sem :=
  { legal := bndLegal, check := bndCheck, ready := bndReady
    act := fun i lead ts s =>
      let b := (s.wordB lead i).toNat
      match s.homeOf lead with
      | .wave e n _ =>
        -- What the old allocation did not hold reads as newly granted.
        let keep := min (genRegs (b % 8)) (genRegs ((s.slot? e n).elim 0 (·.genCode)))
        let s := ts.foldl (fun s t =>
          s.modThread t fun th => { th with g := th.g.filter fun k _ => decide (k < keep) }) s
        s.modSlot e n fun x =>
          { x with genCode := b % 8, tiles := b / 8, acc := x.acc.filter fun k _ => decide (k < b / 8) }
      | _ => s }

/-- CNTR.FOLD (R170). -/
def execCntrFold (w : X96) (s : State) : Host.Outcome State Fault Refusal := issue cntrFoldSem (w.ins .cntrFold) s

/-- BAR.ARR (R210). -/
def execBarArr (w : X96) (s : State) : Host.Outcome State Fault Refusal := issue (barArriveSem false) (w.ins .barArr) s

/-- BAR.WAIT (R210). -/
def execBarWait (w : X96) (s : State) : Host.Outcome State Fault Refusal := issue barWaitSem (w.ins .barWait) s

/-- BAR.SYNC (R210). -/
def execBarSync (w : X96) (s : State) : Host.Outcome State Fault Refusal := issue (barArriveSem true) (w.ins .barSync) s

/-- CVSIGN (R211). -/
def execCvsign (w : X96) (s : State) : Host.Outcome State Fault Refusal := issue cvsignSem (w.ins .cvsign) s

/-- CVWAIT (R211). -/
def execCvwait (w : X96) (s : State) : Host.Outcome State Fault Refusal := issue cvwaitSem (w.ins .cvwait) s

/-- BND.SET (R212). -/
def execBndSet (w : X96) (s : State) : Host.Outcome State Fault Refusal := issue bndSem (w.ins .bndSet) s

end Sys2Proof.Machine
end

