-- ==== Sys2Proof/Machine/System.lean ====
section
/-!
DEFINITION. Traps and control registers, full/empty marks and TRACE (06 R164-R169; 02 R66-R68; 04 R106, R112; 09 R223).
-/

namespace Sys2Proof.Machine

/-- TRAP (R164): the trapping thread's PC stays at the TRAP. -/
def trapSem : Sem := { check := fun i _ s t => .trap 8 (s.wordB t i), act := fun _ _ _ s => s }

/-- ERET stands only in a trap handler, with an aligned $epc (R164). -/
def eretLegal (_ : Ins) (s : State) (t : Nat) : Bool :=
  match s.thread? t with
  | some th => th.inTrap && th.epc.toNat % 4 == 0
  | none => false

/-- ERET (R164). -/
def eretSem : Sem := { legal := eretLegal, act := fun _ _ ts s => ts.foldl (fun s t => s.eret t) s }

/-! ### Control registers -/

namespace State

/-- $tstate (R167). -/
def tstate (th : Thread) (h : Home) : W32 :=
  BitVec.ofNat 32 (th.inTrap.toNat + 2 * h.isWave.toNat + 4 * th.sliced.toNat + 8 * th.taskOf.isSome.toNat)

/-- $bnd (R71). -/
def bndWord (x : Slot) : W32 := BitVec.ofNat 32 (x.genCode + 8 * x.tiles)

/-- A control register held in a wave slot (R167). -/
def slotCr (x : Slot) (n : Nat) : Option W32 :=
  if 0x30 ≤ n ∧ n < 0x40 then some (x.cvset.getD (n - 0x30) 0)
  else if n = 0x48 then some (bndWord x)
  else if 0x60 ≤ n ∧ n < 0x68 then some (x.tcfg.getD (n - 0x60) 0)
  else none

/-- A control register as a thread reads it; none when the number is unassigned or not held in its home (R166,
R167). -/
def readCr (s : State) (t n : Nat) : Option W32 :=
  match s.thread? t with
  | none => none
  | some th =>
    let h := s.homeOf t
    match n with
    | 0x01 => h.engine.map s.fmask
    | 0x02 => some th.ecause
    | 0x03 => some th.epc.lo
    | 0x04 => some th.epc.hi
    | 0x05 => some th.einfo
    | 0x06 => some (tstate th h)
    | 0x08 => some (BitVec.ofNat 32 s.gtc)
    | 0x09 => some th.gtch
    | 0x20 => some th.rng.lo
    | 0x21 => some th.rng.hi
    | 0x50 => some th.fex
    | 0x51 => some th.fmode
    | _ =>
      if 0x10 ≤ n ∧ n < 0x20 then h.engine.map fun k => s.ctrShown k (n - 0x10)
      else
        match h with
        | .scalar c _ =>
          if n = 0x40 then some (s.core c).bfmt
          else if 0x41 ≤ n ∧ n < 0x45 then some ((s.cluster (coreCluster c)).dgn.getD (n - 0x41) 0)
          else none
        | .wave e i _ => (s.slot? e i).bind fun x => slotCr x n
        | _ => none

/-- Reading $gtc latches GTC's high word (R167). -/
def latchGtc (s : State) (t : Nat) : State :=
  s.modThread t fun th => { th with gtch := BitVec.ofNat 32 (s.gtc / 2 ^ 32) }

/-- A diagonal descriptor as it is taken: V is forced to 0 where a field is out of range, and reserved bits read zero
(R66). -/
def takeDgn (v : W32) : W32 :=
  let blocks := bits v.toNat 30 22
  let base := bits v.toNat 21 9
  let bad := blocks == 0 || decide (base < 256) || decide (8192 < base + 16 * blocks) || bits v.toNat 8 0 != 0
  BitVec.ofNat 32 ((if bad then 0 else v.toNat / 2 ^ 31 * 2 ^ 31) + blocks * 2 ^ 22 + base * 2 ^ 9)

/-- A tile configuration as it is taken (R223). -/
def takeTcfg (v : W32) : W32 :=
  let rb := bits v.toNat 18 12
  let rows := bits v.toNat 11 6
  let f := bits v.toNat 4 0
  let w := fmtBits f
  let bad := f == 0 || decide (0x0E < f) || rows == 0 || decide (32 < rows) || rb == 0 || decide (64 < rb) ||
    (decide (8 ≤ w) && rb % (w / 8) != 0) || bits v.toNat 30 19 != 0 || bit v.toNat 5
  BitVec.ofNat 32 ((if bad then 0 else v.toNat / 2 ^ 31 * 2 ^ 31) + rb * 2 ^ 12 + rows * 2 ^ 6 + f)

/-- Whether a round of a slot's convergence register is open: a lane has signed for it, or a thread or a matrix entry awaits it
(R211). -/
def roundOpen (s : State) (e i cv : Nat) : Bool :=
  (s.slot? e i).any (fun x => x.cvsig.getD cv 0 != 0 || x.mq.any fun m => m.wait.any fun p => p.1 == cv) ||
    (s.groupThreads (waveKey e) i).any fun t => (s.thread? t).any fun th =>
      (th.signed.get? cv).any (fun r => (s.slot? e i).any fun x => r == x.cvround.getD cv 0) || (match th.status with
        | .converge c _ => c == cv
        | _ => false)

/-- A write to $cvset arms a slot's register and clears its signatures; an open round stays open, and completes at once
when the new set is empty (R211). -/
def writeCvset (s : State) (e i cv : Nat) (v : W32) : State :=
  let opened := s.roundOpen e i cv
  let s := s.modSlot e i fun x => { x with cvset := x.cvset.setD cv 0 v, cvsig := x.cvsig.setD cv 0 0 }
  if v = 0 ∧ opened = true then s.completeRound e i cv else s

/-- A write to a control register by one thread (R166, R167); writes to read-only registers are ignored. -/
def writeCr (s : State) (t n : Nat) (v : W32) : State :=
  let own (f : Thread → Thread) : State := s.modThread t f
  let h := s.homeOf t
  match n with
  | 0x02 => own fun th => { th with ecause := v &&& 0xFF }
  | 0x03 => own fun th => { th with epc := W64.ofWords v th.epc.hi }
  | 0x04 => own fun th => { th with epc := W64.ofWords th.epc.lo v }
  | 0x05 => own fun th => { th with einfo := v }
  | 0x20 => own fun th => { th with rng := W64.ofWords v th.rng.hi }
  | 0x21 => own fun th => { th with rng := W64.ofWords th.rng.lo v }
  | 0x50 => own fun th => { th with fex := v &&& 0xFF }
  | 0x51 => own fun th => if 1 ≤ v.toNat % 8 ∧ v.toNat % 8 ≤ 5 then { th with fmode := v &&& 7 } else th
  | _ =>
    if 0x10 ≤ n ∧ n < 0x20 then
      match h.engine with
      | some k => s.modEngine k fun e => { e with ctr := e.ctr.setD (n - 0x10) 0 v }
      | none => s
    else
      match h with
      | .scalar c _ =>
        if n = 0x40 then (if v.toNat % 16 = 15 then s else s.modCore c fun x => { x with bfmt := v &&& 0xF })
        else if 0x41 ≤ n ∧ n < 0x45 then
          s.modCluster (coreCluster c) fun x => { x with dgn := x.dgn.setD (n - 0x41) 0 (takeDgn v) }
        else s
      | .wave e i _ =>
        if 0x30 ≤ n ∧ n < 0x40 then s.writeCvset e i (n - 0x30) v
        else if 0x60 ≤ n ∧ n < 0x68 then s.modSlot e i fun x => { x with tcfg := x.tcfg.setD (n - 0x60) 0 (takeTcfg v) }
        else s
      | _ => s

end State

/-- A register number that is unassigned or not held in the thread's home (R166). -/
def crRange (i : Ins) (s : State) (t : Nat) : Option W32 :=
  if (s.readCr t i.x).isNone then some (BitVec.ofNat 32 (i.x + Fld.x.code * 256)) else none

/-- RDCR (R166). -/
def rdcrSem : Sem :=
  { range := crRange
    act := fun i _ ts s => ts.foldl (fun s t =>
      let s := if i.x = 8 then s.latchGtc t else s
      s.writeD t i ((s.readCr t i.x).getD 0).toNat) s }

/-- Whether a register number is per thread. -/
def crPerThread (n : Nat) : Bool := decide (n < 0x10) || n == 0x20 || n == 0x21 || n == 0x50 || n == 0x51

/-- A task may not write the registers it shares (R270). -/
def wrcrLegal (i : Ins) (s : State) (t : Nat) : Bool :=
  ((s.thread? t).bind (·.taskOf)).isNone ||
    !((decide (0x10 ≤ i.x) && decide (i.x < 0x20)) || (decide (0x40 ≤ i.x) && decide (i.x < 0x45)))

/-- WRCR (R166): of a wave, a shared register takes the lowest-numbered active thread's value. -/
def wrcrSem : Sem :=
  { legal := wrcrLegal, range := crRange
    act := fun i _ ts s =>
      let ts := if crPerThread i.x then ts else ts.take 1
      ts.foldl (fun s t => s.writeCr t i.x (s.wordB t i)) s }

/-! ### Full/empty marks and TRACE -/

/-- Set the full bit of the register FEMARK and FEFILL name (R168). -/
def State.markReg (s : State) (i : Ins) (t : Nat) (f : Reg → Reg) : State :=
  s.modThread t fun th =>
    if i.x = 1 then { th with mb := th.mb.setD i.a {} (f (th.readMb i.a)) }
    else if i.a = 0 then th
    else { th with g := th.g.setD i.a {} (f (th.readG i.a)) }

/-- FEMARK (R168). -/
def femarkSem : Sem :=
  { act := fun i _ ts s => ts.foldl (fun s t => s.markReg i t fun r => { r with full := false, poison := false }) s }

/-- FEFILL (R168). -/
def fefillSem : Sem := { act := fun i _ ts s => ts.foldl (fun s t => s.markReg i t fun r => { r with full := true }) s }

/-- TRACE (R169, R394): one entry per instruction. -/
def traceSem : Sem :=
  { act := fun i lead ts s =>
      match s.run? with
      | none => s
      | some r =>
        let mask := ts.foldl (fun m t => m + 2 ^ (s.homeOf t).lane) 0
        let entry (s : State) (t : Nat) : State :=
          s.trace s.focus r.group 4 (r.pc.toNat % 2 ^ 32) (s.srcVal t i .a) (s.wordB t i).toNat mask
        if isWaveKey s.focus then entry s lead else ts.foldl entry s }

/-- TRAP (R164). -/
def execTrap (w : X96) (s : State) : Host.Outcome State Fault Refusal := issue trapSem (w.ins .trap) s

/-- ERET, base form (R164). -/
def execEretB32 (w : B32) (s : State) : Host.Outcome State Fault Refusal := issue eretSem (w.ins .eret) s

/-- ERET, extended form (R164). -/
def execEretX96 (w : X96) (s : State) : Host.Outcome State Fault Refusal := issue eretSem (w.ins .eret) s

/-- RDCR (R166). -/
def execRdcr (w : X96) (s : State) : Host.Outcome State Fault Refusal := issue rdcrSem (w.ins .rdcr) s

/-- WRCR (R166). -/
def execWrcr (w : X96) (s : State) : Host.Outcome State Fault Refusal := issue wrcrSem (w.ins .wrcr) s

/-- FEMARK (R168). -/
def execFemark (w : X96) (s : State) : Host.Outcome State Fault Refusal := issue femarkSem (w.ins .femark) s

/-- FEFILL (R168). -/
def execFefill (w : X96) (s : State) : Host.Outcome State Fault Refusal := issue fefillSem (w.ins .fefill) s

/-- TRACE (R169). -/
def execTrace (w : X96) (s : State) : Host.Outcome State Fault Refusal := issue traceSem (w.ins .trace) s

end Sys2Proof.Machine
end

