-- ==== Sys2Proof/Machine/Messaging.lean ====
section
/-!
DEFINITION. Messages (01 R30-R39; 06 R157-R162): SEND, SEND.T, SENDB, SPAWN and POST, the grant of a place, arrival,
and the start of a message at its target.
-/

namespace Sys2Proof.Machine

/-! ### Targets and payloads -/

/-- The target of a message: its package, none for the sender's own, and core (R157). -/
def State.msgTarget (s : State) (v : Nat) : Option Nat × Nat :=
  let pkg := v / 2 ^ 32
  (if pkg = 0xFFFFFFFF ∨ pkg % 2 ^ 22 = s.pkgId then none else some (pkg % 2 ^ 22), v % 2 ^ 18)

/-- Whether a target word names a core the sender may reach (R39, R157): of another package only where the partition's domain is
enabled (DESIGN CHOICE, log 152). -/
def State.targetOk (s : State) (part v : Nat) : Bool :=
  let pkg := v / 2 ^ 32
  let (p, core) := s.msgTarget v
  bits v 31 18 == 0 && (pkg == 0xFFFFFFFF || decide (pkg < 2 ^ 22)) &&
    match p with
    | none => s.coreOwner core == some part
    | some k => bit (s.regN (partReg part 0x44)) 0 && k / 1024 == s.pkgId / 1024

/-- Payload registers of SEND, SEND.T and SPAWN (R158). -/
def State.payload (s : State) (i : Ins) (t : Nat) : List W32 :=
  (List.range i.x).map fun k => (s.readReg t i .c .g (i.c + k)).val

/-- SENDB's payload descriptor: offset and length (R159). -/
def bargeSpan (v : Nat) : Nat × Nat := (bits v 14 0, bits v 28 16)

/-- A barge as it leaves: bytes of the reference core's local memory with the poison of each word (R159). -/
def State.readBarge (s : State) (core off len : Nat) : List Byte × List Bool :=
  (s.locBytes (locKey core off) len,
    (List.range ((len + 3) / 4)).map fun w => (List.range (min 4 (len - 4 * w))).any fun j => s.locBad (locKey core (off + 4 * w + j)))

/-- The message an instruction of a thread makes; `id` is its place in the order of the sender's operations. -/
def State.makeMsg (s : State) (i : Ins) (t id : Nat) : Msg :=
  let th := (s.thread? t).getD { part := 0, launch := 0, wg := 0, home := .plist 0, pc := 0 }
  let (pkg, core) := s.msgTarget (s.srcVal t i .a)
  let b := s.srcVal t i .b
  let h := s.homeOf t
  let span := bargeSpan (s.srcVal t i .c)
  { core := core, pkg := pkg, index := if i.op == .spawn then 0 else (s.wordB t i).toNat % 4096
    payload := if i.op == .sendb then [] else s.payload i t
    barge := if i.op == .sendb then some (s.readBarge h.refCore span.1 span.2) else none
    spawn := if i.op == .spawn then some (BitVec.ofNat 64 b) else none
    part := th.part, launch := th.launch, wg := th.wg, srcCore := h.refCore, srcPkg := s.pkgId, sender := t, seq := id }

/-- Whether a thread's own earlier stores to its reference core have been performed, so that a barge reads them. -/
def State.localDone (s : State) (t : Nat) : Bool :=
  s.ops.all fun e => e.2.tid != t || !e.2.writes || e.2.parts.all fun p =>
    p.taken || !(match p.place with
      | .loc k => locCore k == (s.homeOf t).refCore
      | _ => false)

/-- SENDB's payload descriptor is well formed, and lies in the local memory (R159). -/
def bargeCheck (i : Ins) (s : State) (t : Nat) : Check :=
  let v := s.srcVal t i .c
  let (off, len) := bargeSpan v
  if bits v 31 29 != 0 || bit v 15 || 4096 < len then .trap 1 i.word0
  else if 0x8000 < off + len then .trap 6 (BitVec.ofNat 32 off)
  else .ok

/-- Whether a task has already deferred 8 messages (R270). -/
def State.deferFull (s : State) (t : Nat) : Bool :=
  match (s.thread? t).bind fun th => th.taskOf.bind s.tasks.get? with
  | some x => decide (8 ≤ x.msgs.length)
  | none => false

/-- The checks of a sending instruction; outside a task the run is held until the target has granted a place, or a
SEND.T has given up (R37, R157-R160). -/
def sendCheck (i : Ins) (s : State) (t : Nat) : Check :=
  match s.thread? t with
  | none => .ok
  | some th =>
    let tgt := s.srcVal t i .a
    let own := if i.op == .sendb then bargeCheck i s t
      else if i.op == .spawn && s.srcVal t i .b % 4 != 0 then .trap 1 i.word0 else .ok
    -- A message its target has granted a place to is on its way.
    if th.taskOf.isNone && (th.held == .granted || th.held == .gaveUp) then .ok
    else if own != .ok then own
    else if !s.targetOk th.part tgt then .trap 9 (BitVec.ofNat 32 (tgt % 2 ^ 18))
    else if th.taskOf.isSome then
      if s.deferFull t then .trap 1 i.word0 else if i.op == .sendb && !s.localDone t then .hold else .ok
    else .hold

/-- Ask the target for a place (R37): the message waits in the sender's outbound path. -/
def State.askPlace (i : Ins) (s : State) (t : Nat) : State :=
  match s.thread? t with
  | none => s
  | some th =>
    let held := i.op == .sendb && !s.localDone t
    let (fresh, left) : Bool × Option Nat := match th.held with
      | .none => (true, none)
      | .resumed g => (true, some g)
      | _ => (false, none)
    if th.taskOf.isSome || !fresh || held || !s.targetOk th.part (s.srcVal t i .a) then s
    else
      let (id, s) := s.fresh
      let limit := if i.op == .sendT then some (left.getD (s.gtc + (s.wordB t i).toNat / 65536 * 16)) else none
      let s := { s with outbound := s.outbound.put t (s.makeMsg i t id) }
      s.modThread t fun th => { th with held := .asking id limit }

/-- SEND, SEND.T, SENDB and SPAWN as they complete (R158-R160); a task's message is deferred (R270). -/
def State.sent (i : Ins) (s : State) (t : Nat) : State :=
  match s.thread? t with
  | none => s
  | some th =>
    match th.taskOf with
    | some k =>
      let m := s.makeMsg i t 0
      { s with tasks := s.tasks.mod k fun x => { x with msgs := x.msgs ++ [m] } }
    | none =>
      let s := s.modThread t fun th => { th with held := .none }
      if i.op == .sendT then s.writeDP [t] i (th.held == .granted) else s

/-- The lanes of a held instruction that ask for their places now: in increasing order, and none past a barge whose bytes are not
all there yet (R158, R159). -/
def State.askers (i : Ins) (s : State) (ts : List Nat) : List Nat := ts.takeWhile fun t => i.op != .sendb || s.localDone t

/-- SEND, SENDB and SPAWN (R157-R160). -/
def sendSem : Sem :=
  { prep := fun i _ ts s => (s.askers i ts).foldl (State.askPlace i) s
    check := fun i _ => sendCheck i
    act := fun i _ ts s => ts.foldl (State.sent i) s }

/-- SEND.T (R158); a task may not use it (R270). -/
def sendTSem : Sem := { sendSem with legal := fun _ s t => ((s.thread? t).bind (·.taskOf)).isNone }

/-! ### Places, transit and arrival -/

/-- Whether a wave's lower lane still asks for a place (R158). -/
def State.lowerAsks (s : State) (t : Nat) : Bool :=
  match s.homeOf t with
  | .wave e i l => s.outbound.any fun o =>
      match s.homeOf o.1 with
      | .wave f j k => e == f && i == j && decide (k < l)
      | _ => false
  | _ => false

/-- Whether any Eloa link is up (R162, R375). -/
def State.routeUp (s : State) : Bool := !s.pkg.links.isEmpty

/-- Send a granted message on its way: into the target's queue, or towards another package (R37, R162). -/
def State.transit (s : State) (m : Msg) : State :=
  match m.pkg with
  | none => s.modCore m.core fun x => { x with inbound := x.inbound ++ [m] }
  | some k =>
    if (s.partition m.part).lost.has (k % 1024) then s.discardMsg m 2
    else if s.routeUp then s
    else { s with routeHeld := s.routeHeld.put m.seq m }

/-- A message may go on its way: one for a lost package is discarded with a record, which has to have room (R162, R371). -/
def State.transitRoom (s : State) (m : Msg) : Bool :=
  !(m.pkg.any fun k => (s.partition m.part).lost.has (k % 1024)) || s.eventRoom (coreDie m.core)

/-- The limit of a thread's SEND.T has passed (R158). -/
def State.limitPast (s : State) (t : Nat) : Bool :=
  match (s.thread? t).map Thread.held with
  | some (Held.asking _ (some limit)) => decide (limit < s.gtc)
  | _ => false

/-- The target takes a thread's message: its place is granted and it goes on its way (R37). -/
def State.grantPlace (s : State) (thread : Nat) (m : Msg) : State :=
  ({ s with outbound := s.outbound.del thread }.modThread thread fun th => { th with held := .granted }).transit m

/-- SEND_T_TIMEOUT (R158): the limit of a thread's SEND.T has passed without a place. -/
def execSendTTimeout (thread : Nat) (s : State) : Host.Outcome State Fault Refusal :=
  match (s.thread? thread).map Thread.held with
  | some (Held.asking _ (some limit)) =>
    if limit ≤ s.gtc then
      .next ({ s with outbound := s.outbound.del thread }.modThread thread fun th => { th with held := .gaveUp })
    else .refused (.notDue "SEND_T_TIMEOUT")
  | _ => .refused (.notDue "SEND_T_TIMEOUT")

/-- The core whose queue holds a place for message `msg` that has not arrived. -/
def State.msgCore (s : State) (msg : Nat) : Option (Nat × Msg) :=
  s.cores.findSome? fun c => (c.2.inbound.find? fun m => m.seq == msg && !m.arrived && !m.unfilled).map fun m => (c.1, m)

/-- MESSAGE_ARRIVAL (R36-R38): a message arrives once its sender's earlier writes are complete at the narrowest scope
holding both cores, and after the earlier messages of its sender to the same core. -/
def execMessageArrival (msg : Nat) (s : State) : Host.Outcome State Fault Refusal :=
  match s.msgCore msg with
  | some (c, m) =>
    let first := (s.core c).inbound.all fun o => o.arrived || o.sender != m.sender || decide (m.seq ≤ o.seq)
    let scope := scopeOfStands (coreStand m.srcCore) (coreStand m.core)
    let seen := decide (scope ≤ 3) || s.copiesDone (coreStand m.srcCore) m.seq
    if first && seen && s.writesDone m.sender m.seq scope then
      .next (s.modCore c fun x =>
        { x with inbound := (x.inbound.filter fun o => o.seq != msg) ++ [{ m with arrived := true }] })
    else .refused (.notDue "MESSAGE_ARRIVAL")
  | none => .refused (.notDue "MESSAGE_ARRIVAL")

/-- A message held for a route is for a package that its partition has declared lost since (R162). -/
def State.heldLost (s : State) (m : Msg) : Bool := m.pkg.any fun k => (s.partition m.part).lost.has (k % 1024)

/-- Discard the messages held for lost packages, as far as their records have room (R162, R371). -/
def State.dropHeld (s : State) : State :=
  s.routeHeld.foldl (fun (s : State) e =>
    if s.heldLost e.2 && s.eventRoom (coreDie e.2.core) then { s with routeHeld := s.routeHeld.del e.1 }.discardMsg e.2 2 else s) s

/-- HELD_MESSAGE_ROUTE_RETURN (R162): a route to the target package has returned and a held message leaves. One for a package that
has been declared lost, for whose record there was no room, is discarded once there is (R371). -/
def execHeldMessageRouteReturn (msg : Nat) (s : State) : Host.Outcome State Fault Refusal :=
  match s.routeHeld.get? msg with
  | some m =>
    if s.heldLost m then
      if s.eventRoom (coreDie m.core) then .next ({ s with routeHeld := s.routeHeld.del msg }.discardMsg m 2)
      else .refused (.notDue "HELD_MESSAGE_ROUTE_RETURN")
    else if s.routeUp then .next { s with routeHeld := s.routeHeld.del msg }
    else .refused (.notDue "HELD_MESSAGE_ROUTE_RETURN")
  | none => .refused (.notDue "HELD_MESSAGE_ROUTE_RETURN")

/-! ### POST -/

/-- POST's own check: its mailbox registers are sources (R161); without a pocket or spill room the thread stays (R24). -/
def postCheck (i : Ins) (s : State) (t : Nat) : Check :=
  match s.thread? t, s.run? with
  | some th, some r =>
    if s.releaseHolds t 3 then .hold
    else if s.fileRoom (s.homeOf t).stand th.launch th.wg (r.pc + BitVec.ofInt 64 (4 * i.ofs)) then .ok else .stay
  | _, _ => .ok

/-- File a thread that has not run yet; its clock begins now (R20, R23, R31, R89). -/
def State.fileNew (s : State) (stand : Nat) (th : Thread) : State :=
  let (k, s) := s.fresh
  let th := { th with home := .queued stand, filed := s.clock.arith, unstarted := true, sc := s.gtc }
  ((s.setThread k th).placeInPocket stand k th.launch th.wg th.pc).refill stand

/-- POST (R23, R161). -/
def State.post (i : Ins) (s : State) (t : Nat) : State :=
  match s.thread? t, s.homeOf t with
  | some th, .scalar c x =>
    let g : Table Reg := (List.range 8).map fun n => (n + 1, { val := (th.readMb n).val })
    let g := g.filter fun _ r => r.val != 0
    let empty := (List.range 8).foldl (fun (mb : Table Reg) n => mb.put n { val := (th.readMb n).val, full := false }) []
    let s := (s.setThread t { th with mb := empty }).countEvent s.focus 0x23 1
    let req : Thread :=
      { part := th.part, launch := th.launch, wg := th.wg, home := .plist 0, pc := s.ofsTarget i
        g := g.put 9 { val := BitVec.ofNat 32 (c + x * 2 ^ 18) }, role := .request t }
    s.fileNew (coreStand c) req
  | _, _ => s

/-- POST (R23, R161): illegal in a wave, and in a task (R270). -/
def postSem : Sem :=
  { legal := fun _ s t => !(s.homeOf t).isWave && ((s.thread? t).bind (·.taskOf)).isNone
    check := fun i _ => postCheck i
    act := fun i _ ts s => ts.foldl (State.post i) s }

/-! ### Starting a message -/

/-- A handler table entry (R31). -/
structure HEntry where
  valid : Bool
  ver : Nat
  ord : Bool
  gathered : Bool
  pc : W64
deriving DecidableEq, Repr

/-- The entry a 64-bit word holds; reserved classes and bit [55] make it invalid (R31, R33). -/
def HEntry.ofNat (v : Nat) : HEntry :=
  { valid := bit v 63 && decide (bits v 57 56 < 2) && !bit v 55, ver := bits v 62 59, ord := bit v 58
    gathered := bits v 57 56 == 1, pc := BitVec.ofInt 64 (signExt 57 (bits v 54 0 * 4)) }

/-- Read entry `idx` of a partition's handler table (R30, R32). -/
def State.handlerEntry (s : State) (part idx : Nat) : HEntry :=
  HEntry.ofNat (s.dramNat (s.reg64 (partReg part 8) + 8 * idx) 8)

/-- The entry that serves a message: its own, or entry 0 when that is invalid, or none (R33). -/
def State.servingEntry (s : State) (part idx : Nat) (barge : Bool) : Option HEntry :=
  let ok (e : HEntry) : Bool := e.valid && !(barge && e.gathered)
  let e := s.handlerEntry part idx
  if ok e then some e
  else
    let z := s.handlerEntry part 0
    if ok z then some z else none

/-- Descriptor g9 (R34). -/
def descriptor (idx ver : Nat) (barge ord : Bool) (count : Nat) (task foreign : Bool) : Nat :=
  idx + ver * 2 ^ 12 + barge.toNat * 2 ^ 16 + ord.toNat * 2 ^ 17 + count * 2 ^ 18 + task.toNat * 2 ^ 22 +
    foreign.toNat * 2 ^ 23

/-- Registers from numbered words, zeros unlisted. -/
def regsOf (ws : List (Nat × Nat)) : Table Reg :=
  ws.foldl (fun (g : Table Reg) w => g.setD w.1 {} { val := BitVec.ofNat 32 w.2 }) []

/-- The registers a message's thread starts with (R34, R35); `area` is the private area of a barge. -/
def startRegs (m : Msg) (desc area : Nat) : Table Reg :=
  let words : List (Nat × Nat) :=
    match m.barge with
    | some (bs, _) => [(1, bs.length), (2, area)]
    | none => ((List.range 8).zip m.payload).map fun p => (p.1 + 1, p.2.toNat)
  regsOf (words ++ [(9, desc), (10, m.srcCore), (11, m.srcPkg)])

/-- Whether a handler started from an index runs on a core (R36). -/
def State.handlerRuns (s : State) (core idx : Nat) : Bool :=
  s.threads.any fun e =>
    (match e.2.home with
      | .scalar c _ => c == core
      | _ => false) &&
    match e.2.role with
    | .handler n _ => n == idx
    | _ => false

/-- The context HALT.R has reserved for an index on a core (R40). -/
def State.reservedFor (s : State) (core idx : Nat) : Option Nat :=
  ((s.core core).reserved.find? fun _ r => r.2.2 == idx).map (·.1)

/-- What the scan of a core does with an arrived message (R36). -/
inductive Scan where
  /-- Cannot start now. -/
  | wait
  | discard
  /-- Files a gathered handler's thread. -/
  | gather (e : HEntry)
  /-- Starts in the context asked for. -/
  | start (e : HEntry)
  /-- Could start, in another context than the one asked for. -/
  | elsewhere
deriving DecidableEq, Repr

namespace State

/-- Judge one arrived message for a core and context (R33, R36, R40); a launch that is ending or being saved starts nothing
(R52, R338). -/
def scanMsg (s : State) (core ctx : Nat) (m : Msg) : Scan :=
  let anyFree := (List.range 4).any fun x => s.ctxOpen core x
  let begin' (e : HEntry) (idx : Option Nat) : Scan :=
    match idx.bind (s.reservedFor core) with
    | some x => if x = ctx then .start e else .elsewhere
    | none => if s.ctxOpen core ctx && decide (ctx < 4) then .start e else if anyFree then .elsewhere else .wait
  if (s.stopping m.launch && !(s.preempts m.launch && m.slot.isSome)) || (s.launch? m.launch).any fun l => l.phase == .saved then .wait else
  match m.spawn with
  | some pc => begin' { valid := true, ver := 0, ord := false, gathered := false, pc := pc } none
  | none =>
    match s.servingEntry m.part m.index m.barge.isSome with
    | none => .discard
    | some e =>
      if e.gathered then (if s.fileRoom (coreStand core) m.launch m.wg e.pc then .gather e else .wait)
      else if e.ord && s.handlerRuns core m.index then .wait
      else begin' e (some m.index)

/-- The oldest message of a core's queue that can start, with what becomes of it. -/
def scanQueue (s : State) (core ctx : Nat) : List Msg → Option (Msg × Scan)
  | [] => none
  | m :: r =>
    if !m.arrived then s.scanQueue core ctx r
    else
      match s.scanMsg core ctx m with
      | .wait => s.scanQueue core ctx r
      | a => some (m, a)

/-- Write a barge into the private area of a context (R35). -/
def placeBarge (s : State) (core ctx : Nat) (m : Msg) : State :=
  match m.barge with
  | none => s
  | some (bs, poison) =>
    let a := 0x400 + 0x1000 * ctx
    let s := s.locStore (locKey core a) bs
    -- One entry for each line of a barge that has come from another core (log 116).
    let s := if m.srcCore = core ∧ m.srcPkg = s.pkgId then s else
      (List.range ((bs.length + 63) / 64)).foldl (fun (s : State) k =>
        let b := (bs.drop (64 * k)).take 64
        s.traceArrival (m.srcCore + m.srcPkg % 1024 * 2 ^ 18) (locKey core a + 64 * k) b.length false (natOfBytes (b.take 4))) s
    let p := ((List.range poison.length).zip poison).foldl
      (fun (p : NatSet) w => if w.2 then p.add (locKey core a / 4 + w.1) else p) s.mem.locPoison
    { s with mem := { s.mem with locPoison := p } }

/-- The thread a message starts, but for its home (R34). -/
def msgThread (s : State) (m : Msg) (e : HEntry) (desc area : Nat) : Thread :=
  { part := m.part, launch := m.launch, wg := m.wg, home := .plist 0, pc := e.pc, g := startRegs m desc area, sc := s.gtc
    ray := m.slot.map fun j => { stand := coreStand m.core, batch := j }
    role := if m.spawn.isSome then .spawned else .handler m.index e.ord }

/-- Start a message in a context (R34-R36, R63). -/
def startMsg (s : State) (core ctx : Nat) (m : Msg) (e : HEntry) : State :=
  -- The reservation the message starts in still counts for the launch that made it (R63).
  let (s, foreign) := s.takeConstants core m.launch
  let s := s.modCore core fun x => { x with reserved := x.reserved.del ctx }
  let s := s.placeBarge core ctx m
  let idx := if m.spawn.isSome then 0 else m.index
  let d := descriptor idx e.ver m.barge.isSome e.ord m.payload.length false foreign
  let th := { s.msgThread m e d (0x400 + 0x1000 * ctx) with home := .scalar core ctx, rng := s.startSeed m.launch core }
  let (k, s) := s.fresh
  let s := (s.setThread k th).countEvent core 0x20 1
  s.trace core ctx 5 d m.srcCore (s.launchId m.launch)

/-- Take a message out of a core's queue. -/
def dequeue (s : State) (core : Nat) (m : Msg) : State :=
  s.modCore core fun x => { x with inbound := x.inbound.filter fun o => o != m }

end State

/-- HANDLER_START (R36): the core's scan starts, files or discards the oldest message that can start. -/
def execHandlerStart (core ctx : Nat) (s : State) : Host.Outcome State Fault Refusal :=
  match s.scanQueue core ctx (s.core core).inbound with
  | some (m, .discard) =>
    if s.eventRoom (coreDie core) then .next ((s.dequeue core m).discardMsg m 1) else .refused (.notDue "HANDLER_START")
  | some (m, .gather e) =>
    let s := s.dequeue core m
    let d := descriptor m.index e.ver false e.ord m.payload.length false false
    .next ((s.fileNew (coreStand core) (s.msgThread m e d 0)).countEvent core 0x20 1)
  | some (m, .start e) => .next ((s.dequeue core m).startMsg core ctx m e)
  | _ => .refused (.notDue "HANDLER_START")

/-- SEND (R158). -/
def execSend (w : X96) (s : State) : Host.Outcome State Fault Refusal := issue sendSem (w.ins .send) s

/-- SEND.T (R158). -/
def execSendT (w : X96) (s : State) : Host.Outcome State Fault Refusal := issue sendTSem (w.ins .sendT) s

/-- SENDB (R159). -/
def execSendb (w : X96) (s : State) : Host.Outcome State Fault Refusal := issue sendSem (w.ins .sendb) s

/-- POST (R161). -/
def execPost (w : X96) (s : State) : Host.Outcome State Fault Refusal := issue postSem (w.ins .post) s

/-- SPAWN (R160). -/
def execSpawn (w : X96) (s : State) : Host.Outcome State Fault Refusal := issue sendSem (w.ins .spawn) s

end Sys2Proof.Machine
end

