-- ==== Sys2Proof/Machine/Booms.lean ====
section
/-!
DEFINITION. Scenes, ray records, the Drive's own accesses and the booms (10 R243-R248, R403).
-/

namespace Sys2Proof.Machine

/-! ### Scene descriptors and ray records -/

namespace LaunchRec

/-- REACHTAB. -/
def reachTab (r : LaunchRec) : Nat := r.scn 0 8
/-- NREACH. -/
def nReach (r : LaunchRec) : Nat := bits (r.scn 8 4) 14 0
/-- TRAV. -/
def trav (r : LaunchRec) : Nat := bits (r.scn 8 4) 27 16
/-- LIMIT, in microseconds. -/
def limit (r : LaunchRec) : Nat := r.scn 0xC 2
/-- BOOMS. -/
def boomBase (r : LaunchRec) : Nat := r.scn 0x10 8
/-- POOL. -/
def pool (r : LaunchRec) : Nat := r.scn 0x18 8
/-- POOLBLK. -/
def poolBlk (r : LaunchRec) : Nat := r.scn 0x20 3
/-- RAYCAP. -/
def rayCap (r : LaunchRec) : Nat := r.scn 0x24 4

end LaunchRec

/-- A word of a ray record (R246). -/
def rayWord (rec : List Byte) (off : Nat) : W32 := BitVec.ofNat 32 (fieldOf rec off 4)

/-- A ray record with one of its words replaced. -/
def raySet (rec : List Byte) (off : Nat) (v : W32) : List Byte :=
  rec.take off ++ bytesOfNat 4 v.toNat ++ rec.drop (off + 4)

/-- A ray record's current reach. -/
def rayReach (rec : List Byte) : Nat := (rayWord rec 0x28).toNat / 2 ^ 18
/-- A ray record's reply core. -/
def rayCore (rec : List Byte) : Nat := (rayWord rec 0x28).toNat % 2 ^ 18
/-- A ray record's reply index. -/
def rayReply (rec : List Byte) : Nat := bits (rayWord rec 0x24).toNat 23 12
/-- Word 0x24 with a status (R247). -/
def rayStatus (rec : List Byte) (st : Nat) : W32 :=
  let v := (rayWord rec 0x24).toNat
  BitVec.ofNat 32 (v - bits v 11 8 * 256 + st * 256)

/-- Whether a record is malformed (R247). -/
def rayMalformed (nreach : Nat) (rec : List Byte) : Bool :=
  let v := (rayWord rec 0x24).toNat
  bits v 3 2 != 0 || bits v 11 8 != 0 || bits v 31 24 != 0 || decide (nreach ≤ rayReach rec)

/-- Whether a ray is invalid (R252). -/
def rayInvalid (rec : List Byte) : Bool :=
  let v (off : Nat) : Val := decodeVal 1 (rayWord rec off).toNat
  ([0, 4, 8, 0xC, 0x10, 0x14, 0x18, 0x1C].any fun o => (v o).isNan) ||
    ([0, 4, 8].any fun o => match v o with
      | .inf _ => true
      | _ => false) ||
    ([0x10, 0x14, 0x18].all fun o => match v o with
      | .zero _ => true
      | _ => false)

/-- The payload of a reply (R260). -/
def rayPayload (rec : List Byte) (st : Nat) : List W32 :=
  [rayStatus rec st, rayWord rec 0x20, rayWord rec 0x2C, rayWord rec 0x30, rayWord rec 0x34, rayWord rec 0x38,
    rayWord rec 0x3C, BitVec.ofNat 32 (rayReach rec)]

/-- A ray's reply as a message (R260). -/
def rayReplyMsg (part launch wg src pkg sender seq : Nat) (rec : List Byte) (st : Nat) : Msg :=
  { core := rayCore rec, index := rayReply rec, payload := rayPayload rec st, part := part, launch := launch, wg := wg
    srcCore := src, srcPkg := pkg, sender := sender, seq := seq }

/-- The local address of batch slot j of a stand (R245). -/
def batchSlot (stand j : Nat) : Nat :=
  let c := j % 128
  locKey (coreOfCluster (stand * 8 + c / 16) (c % 16)) (0x3400 + 64 * (j / 128))

/-- The local address of byte r of a stand's reach area (R245). -/
def reachByte (stand r : Nat) : Nat :=
  let c := r / 16384
  locKey (coreOfCluster (stand * 8 + c / 16) (c % 16)) (0x4000 + r % 16384)

/-! ### The Drive's accesses -/

namespace State

/-- What the Drive of a die waits for on account of a scene: a pending record of its work (R403). -/
def driveHeld (s : State) (die l : Nat) : Bool :=
  s.recs.any fun r => r.2.pending && (match r.2.who with
    | .drive d m _ => d == die && m == l
    | _ => false)

/-- The Drive at work for a scene and a stand (R361, R403). -/
def drive (s : State) (l stand : Nat) : Agent :=
  { part := (s.launch? l).elim 0 (·.part), die := standDie stand, source := 5, home := .plist stand, launch := some l
    unit := some (unitNo 10 stand) }

/-- Resolve an access of the Drive with its own cache, through the launch's partition as a thread's access is (R354, R403). -/
def driveLocate (s : State) (l stand va n : Nat) (need : Need) : LocRes :=
  s.locateUnit (driveCache (standDie stand)) stand (s.drive l stand).part va n need

/-- The first access of a list that cannot be made now: a route or a migration holds it, or its line, which the Drive takes,
writes and gives back in one step, is leased or engaged (R87, R91, log 102). -/
def driveStuck (s : State) (l stand : Nat) (rs : List (Nat × Nat × Need)) : Option (LocRes × Need) :=
  rs.findSome? fun r =>
    match s.driveLocate l stand r.1 r.2.1 r.2.2 with
    | .parts ps => (s.unitBlock (s.drive l stand) r.2.2.w ps).map fun e => (e, r.2.2)
    | .miss p v => some (.miss p (winAddr r.1 v), r.2.2)
    | e => some (e, r.2.2)

/-- A fault record of the Drive's work for a stand (R403). -/
def driveRecord (s : State) (l die stand : Nat) (write : Bool) (kind page addr : Nat) (pasid : Option Nat)
    (auto : Bool := false) (prg : Option Nat := none) : State :=
  if s.unclaimed l then s.fatalLaunch l { cause := 5 } else
  let r : FRec :=
    { seq := 0, kind := kind, source := 5, write := write, page := page, addr := addr, launch := s.launchId l
      pasid := pasid, stand := stand, auto := auto, prg := prg }
  (s.raiseFault (((s.launch? l).map (·.part)).getD 0) die r (.drive die l stand)).2

/-- Record a fault of the Drive's work (R403), ask for the translation it needs, or begin to wait for a route. -/
def driveFault (s : State) (l die stand : Nat) (e : LocRes × Need) : State :=
  match e.1 with
  | .miss part va => s.askUnit (.drive die l stand) stand part (s.transAddr (s.drive l stand).part va).2 va e.2
  | .route k => s.beginRoute (s.drive l stand).part k
  | .park kind page addr pasid =>
    if s.driveHeld die l || !s.faultRoom die then s else s.driveRecord l die stand e.2.w kind page addr pasid
  | _ => s

/-- What an access of the Drive that cannot be made sets going; none where it only waits. -/
def driveHold (s : State) (l die stand : Nat) (e : LocRes × Need) : Option State :=
  match e.1 with
  | .miss .. | .route _ => some (s.driveFault l die stand e)
  | .park .. => if s.driveHeld die l || !s.faultRoom die then none else some (s.driveFault l die stand e)
  | _ => none

/-- Read bytes for the Drive, with their poison. -/
def driveRead (s : State) (l stand va n : Nat) : List Byte × List Bool :=
  match s.driveLocate l stand va n { r := true } with
  | .parts ps => s.unitBytes (s.drive l stand) ps
  | _ => ([], [])

/-- What reads of the Drive leave (R365, R381). -/
def driveNote (s : State) (l stand : Nat) (rs : List (Nat × Nat)) : State :=
  rs.foldl (fun (s : State) r =>
    match s.driveLocate l stand r.1 r.2 { r := true } with
    | .parts ps => s.unitNote (s.drive l stand) ps
    | _ => s) s

/-- Make a list of writes of the Drive. -/
def driveWrite (s : State) (l stand : Nat) (ws : List (Nat × List Byte)) : State :=
  ws.foldl (fun s w =>
    match s.driveLocate l stand w.1 w.2.length { w := true } with
    | .parts ps => s.unitStore (s.drive l stand) ps w.2
    | _ => s) s

/-- The accesses a list of writes makes. -/
def writeNeeds (ws : List (Nat × List Byte)) : List (Nat × Nat × Need) := ws.map fun w => (w.1, w.2.length, { w := true })

/-- Add to ENQUEUED (0x30) or FINISHED (0x38) of a scene (R261). -/
def driveAdd (s : State) (l stand off k : Nat) : State :=
  let va := (s.lrec l).scene + off
  let v := natOfBytes (s.driveRead l stand va 8).1
  (s.driveNote l stand [(va, 8)]).driveWrite l stand [(va, bytesOfNat 8 (v + k))]

/-! ### Booms -/

/-- The key of a boom on a die. -/
def boomKey (l reach : Nat) : Nat := l * 2 ^ 32 + reach

/-- A die's boom for a reach. -/
def boom (s : State) (die l reach : Nat) : Boom := (s.die die).booms.getD (boomKey l reach) {}

/-- Replace a boom; the die's control blocks of the scene stand in memory by then. -/
def setBoom (s : State) (die l reach : Nat) (b : Boom) : State :=
  s.modDie die fun d => { d with booms := d.booms.setD (boomKey l reach) {} b, ctl := d.ctl.add l }

/-- The non-empty booms of a scene on a die, by reach number. -/
def boomsOf (s : State) (die l : Nat) : List (Nat × Boom) :=
  ((s.die die).booms.filter fun k b => k / 2 ^ 32 == l && !b.records.isEmpty).map fun e => (e.1 % 2 ^ 32, e.2)

/-- Whether the Drive has a head slot free (R248). -/
def headFree (s : State) (die : Nat) : Bool := decide ((((s.die die).booms.filter fun _ b => b.slot).length) < 1024)

/-- The lowest block of a die's part of the pool that no boom of the scene holds. -/
def freeBlock (s : State) (die l : Nat) : Nat :=
  let used := (s.boomsOf die l).flatMap fun b => b.2.blocks.map (·.1)
  ((List.range (used.length + 1)).find? fun k => !used.contains k).getD 0

/-- The address of a spill block. -/
def blockAddr (s : State) (die l k : Nat) : Nat := (s.lrec l).pool + 4096 * (die * (s.lrec l).poolBlk + k)

/-- The control block of a boom as memory holds it (R248). An empty boom's OLDEST is 0 (DESIGN CHOICE, log 144). -/
def boomBytes (s : State) (die l : Nat) (b : Boom) : List Byte :=
  let adr (x : Option (Nat × Nat)) : Nat := x.elim 0 fun k => s.blockAddr die l k.1
  bytesOfNat 4 b.records.length ++ bytesOfNat 4 b.passed ++ bytesOfNat 8 (b.records.head?.elim 0 (·.time)) ++
    bytesOfNat 8 (adr b.blocks.head?) ++ bytesOfNat 8 (adr b.blocks.getLast?) ++ bytesOfNat 32 0

/-- The write that keeps a control block current, when the boom holds no head slot (R248). -/
def controlWrite (s : State) (die l reach : Nat) (b : Boom) : List (Nat × List Byte) :=
  if b.slot then [] else [((s.lrec l).boomBase + (die * (s.lrec l).nReach + reach) * 64, s.boomBytes die l b)]

/-- The write that sets the control blocks of all booms of a scene on a die to those of empty booms: with the first record the die
takes, or where it never takes one, as the launch is saved or ends (R248; log 143). -/
def initBlocks (s : State) (die l : Nat) : List (Nat × List Byte) :=
  let r := s.lrec l
  if r.scene = 0 ∨ (s.die die).ctl.has l then [] else [(r.boomBase + die * r.nReach * 64, List.replicate (64 * r.nReach) 0)]

/-- A record joins a boom: the boom and the writes to memory (R248). -/
def joinPlan (s : State) (die l reach : Nat) (r : RayRec) : Boom × List (Nat × List Byte) :=
  let b := s.boom die l reach
  let b := if b.records.isEmpty then { b with slot := s.headFree die, head := 0, blocks := [] } else b
  let all := b.records ++ [r]
  if b.slot && b.blocks.isEmpty && decide (b.head < 16) then ({ b with records := all, head := b.head + 1 }, [])
  else
    match b.blocks.getLast? with
    | some (k, n) =>
      if n < 63 then
        let b' := { b with records := all, blocks := b.blocks.dropLast ++ [(k, n + 1)] }
        let a := s.blockAddr die l k
        (b', [(a + 64 * (n + 1), r.bytes), (a + 8, bytesOfNat 4 (n + 1))] ++ s.controlWrite die l reach b')
      else
        let j := s.freeBlock die l
        let b' := { b with records := all, blocks := b.blocks ++ [(j, 1)] }
        let a := s.blockAddr die l j
        (b', [(a, bytesOfNat 64 (2 ^ 64)), (a + 64, r.bytes), (s.blockAddr die l k, bytesOfNat 8 a)] ++
          s.controlWrite die l reach b')
    | none =>
      let j := s.freeBlock die l
      let b' := { b with records := all, blocks := [(j, 1)] }
      let a := s.blockAddr die l j
      (b', [(a, bytesOfNat 64 (2 ^ 64)), (a + 64, r.bytes)] ++ s.controlWrite die l reach b')

/-- A record joins a boom, on a die whose control blocks stand in memory (R248). -/
def appendPlan (s : State) (die l reach : Nat) (r : RayRec) : Boom × List (Nat × List Byte) :=
  let (b, ws) := s.joinPlan die l reach r
  (b, s.initBlocks die l ++ ws)

/-- A batch takes records from the chain: the blocks left, the records taken, and the writes of a block taken in part
(R248). -/
def takeBlocks (s : State) (die l : Nat) : Nat → List (Nat × Nat) → List RayRec → List (Nat × Nat) × List (Nat × List Byte)
  | _, [], _ => ([], [])
  | want, (k, n) :: rest, recs =>
    if want = 0 then ((k, n) :: rest, [])
    else if n ≤ want then s.takeBlocks die l (want - n) rest (recs.drop n)
    else
      let left := (recs.take n).drop want
      let a := s.blockAddr die l k
      ((k, n - want) :: rest,
        (a + 8, bytesOfNat 4 (n - want)) :: ((List.range left.length).zip left).map fun e => (a + 64 * (e.1 + 1), e.2.bytes))

/-- The oldest rays of a boom leave it as a batch (R248, R254): the rays, the boom left and the writes. -/
def takePlan (s : State) (die l reach : Nat) : List RayRec × Boom × List (Nat × List Byte) :=
  let b := s.boom die l reach
  let n := min 1024 b.records.length
  let fromHead := min b.head n
  let (blocks, ws) := s.takeBlocks die l (n - fromHead) b.blocks (b.records.drop b.head)
  let left := b.records.drop n
  let b' : Boom :=
    { records := left, head := b.head - fromHead, slot := b.slot && !left.isEmpty, blocks := blocks, passed := 0
      starved := none }
  (b.records.take n, b', ws ++ s.controlWrite die l reach b')

end State

end Sys2Proof.Machine
end

