-- ==== Sys2Proof/Machine/Ray.lean ====
section
/-!
DEFINITION. The ray instructions (10 R249-R260).
-/

namespace Sys2Proof.Machine

namespace State

/-- The die of a thread's stand. -/
def dieOf (s : State) (t : Nat) : Nat := standDie (s.homeOf t).stand

/-- A thread is bound to a ray whose batch still stands on its stand (R255). -/
def bound (s : State) (t : Nat) : Option (RayBind × Batch) :=
  match (s.thread? t).bind (·.ray) with
  | some r => (s.batches.get? r.stand).map fun b => (r, b)
  | none => none

/-- Change a stand's batch. -/
def modBatch (s : State) (stand : Nat) (f : Batch → Batch) : State := { s with batches := s.batches.mod stand f }

/-- The record of a bound ray, in its batch slot (R245). -/
def rayRecord (s : State) (r : RayBind) : List Byte := s.locBytes (batchSlot r.stand r.batch) 64

/-- Change a word of a bound ray's record. -/
def setRayWord (s : State) (r : RayBind) (off : Nat) (v : W32) : State :=
  s.locStore (batchSlot r.stand r.batch + off) (bytesOfWord v)

/-- Change what a thread's unit keeps for its held instruction. -/
def setHeld (s : State) (t : Nat) (h : Held) : State := s.modThread t fun th => { th with held := h }

end State

/-- No ray instruction runs in a task, or in a launch without a scene (R243, R249). -/
def rayLegal (s : State) (t : Nat) : Bool :=
  match s.thread? t with
  | some th => th.taskOf.isNone && (s.lrec th.launch).scene != 0
  | none => false

/-- The instructions of a bound thread (R255). -/
def boundLegal (_ : Ins) (s : State) (t : Nat) : Bool := rayLegal s t && (s.bound t).isSome

/-! ### RAY.ENQ -/

/-- The checks of RAY.ENQ for one thread, in the order of R250; the run is held until the Drive has taken the record. -/
def enqCheck (i : Ins) (s : State) (t : Nat) : Check :=
  match s.thread? t with
  | none => .ok
  | some th =>
    let ea := s.memEa t i
    match th.held with
    | .granted => .ok
    | .record rec bad =>
      if bad then .trap 4 (BitVec.ofNat 32 (i.a + 256))
      else if s.coreOwner (rayCore rec) != some th.part then .trap 9 (BitVec.ofNat 32 (rayCore rec))
      else .hold
    | .none =>
      if (s.lrec th.launch).streamCount (s.dieOf t) = 0 ∨ ea.toNat % 64 ≠ 0 then .trap 1 i.word0
      else
        match s.locCheck t { r := true } false (s.locate t 0 ea 64 { r := true }) with
        | .ok => .hold
        | c => c
    | _ => .hold

namespace State

/-- Begin the read of a thread's 64-byte record: a translation, or the read itself (R250, R285). -/
def readRecord (s : State) (i : Ins) (t : Nat) : State :=
  let ea := s.memEa t i
  match s.locate t 0 ea 64 { r := true } with
  | .miss part va => s.askWalk t part va ea.toNat { r := true } false
  | .parts ps =>
    let own := ((s.thread? t).bind fun th => s.cruiseOf th.launch).isSome
    let ps := ps.map fun p => { p with l1 := p.l1 && p.lease != 0 && !own }
    let (id, o, s) := s.newOp i t { ea := ea, n := 64 } .load ps
    { s with ops := s.ops.put id { o with dest := .record, ord := 0, scope := 0, stamp := none } }.setHeld t (.reading id)
  | _ => s

/-- The writes that take a valid record: ENQUEUED first, then what the boom needs (R250, R261). -/
def enqNeeds (s : State) (t : Nat) (th : Thread) (ws : List (Nat × List Byte)) : Option (LocRes × Need) :=
  let stand := (s.homeOf t).stand
  s.driveStuck th.launch stand (((s.lrec th.launch).scene + 0x30, 8, { r := true, w := true }) :: writeNeeds ws)

/-- The Drive takes a record, or answers at once with a status (R250): nothing while something is in the way. -/
def acceptRay (s : State) (t : Nat) (th : Thread) (rec : List Byte) : State :=
  let l := th.launch
  let r := s.lrec l
  let h := s.homeOf t
  let die := standDie h.stand
  if s.driveHeld die l || !s.writesDone t s.nextId 5 || decide (r.rayCap ≤ (s.die die).raysHeld.getD l 0) then s
  else
    let status := if rayMalformed r.nReach rec then 4 else if rayInvalid rec then 3 else 0
    if status = 0 then
      let rec' := raySet (raySet (raySet (raySet rec 0x24 (rayStatus rec 0)) 0x2C 0xFFFFFFFF#32) 0x30 0x7F800000#32) 0x34 0#32
      let (b, ws) := s.appendPlan die l (rayReach rec) { bytes := rec', wg := th.wg, time := s.gtc }
      match s.enqNeeds t th ws with
      | some e => s.driveFault l die h.stand e
      | none =>
        let s := ((s.driveAdd l h.stand 0x30 1).setBoom die l (rayReach rec) b).driveWrite l h.stand ws
        let s := s.modDie die fun d => { d with raysHeld := d.raysHeld.put l (d.raysHeld.getD l 0 + 1) }
        s.setHeld t .granted
    else if 16 ≤ (s.core (rayCore rec)).inbound.length then s
    else
      let fin : Nat × Nat × Need := (r.scene + 0x38, 8, { r := true, w := true })
      match s.driveStuck l h.stand [(r.scene + 0x30, 8, { r := true, w := true }), fin] with
      | some e => s.driveFault l die h.stand e
      | none =>
        let s := s.driveAdd l h.stand 0x30 1
        let (id, s) := s.fresh
        let s := s.transit (rayReplyMsg th.part l th.wg h.refCore s.pkgId t id rec status)
        (s.driveAdd l h.stand 0x38 1).setHeld t .granted

/-- RAY.ENQ in an unclaimed cruise discards the cruise (R249, R346). -/
def cruiseEnq (s : State) (th : Thread) : Option State :=
  (s.cruiseOf th.launch).map fun c =>
    { s with cruises := s.cruises.mod c fun x => x.cause 8 }

/-- What RAY.ENQ sets going, lane by lane: a lane whose record has not been taken keeps the higher lanes back (R250). -/
def enqPrep (i : Ins) : List Nat → State → State
  | [], s => s
  | t :: ts, s =>
    match s.thread? t with
    | none => enqPrep i ts s
    | some th =>
      match s.cruiseEnq th with
      | some s' => s'
      | none =>
        if enqCheck i s t == .hold then
          match th.held with
          | .record rec _ =>
            let s' := s.acceptRay t th rec
            if ((s'.thread? t).map Thread.held) = some .granted then enqPrep i ts s' else ts.foldl (beginRead i) s'
          | .none => ts.foldl (beginRead i) (beginRead i s t)
          | _ => ts.foldl (beginRead i) s
        else enqPrep i ts s
where
  /-- A thread whose record has not been asked for reads it. -/
  beginRead (i : Ins) (s : State) (t : Nat) : State :=
    if enqCheck i s t == .hold && ((s.thread? t).map Thread.held) == some .none then s.readRecord i t else s

end State

/-- RAY.ENQ (R250, R251). -/
def rayEnqSem : Sem :=
  { legal := fun _ s t => rayLegal s t
    prep := fun i _ ts s => State.enqPrep i ts s
    check := fun i _ s t => enqCheck i s t
    act := fun _ _ ts s => ts.foldl (fun s t => s.setHeld t .none) s }

/-! ### RAY.BOX4 -/

/-- Round an exact value to FP32, to nearest even. -/
def rn32 (v : Val) : Nat := (roundVal 1 1 0 v).1

/-- One over an FP32 value (R256). -/
def inv32 (x : Nat) : Nat :=
  rn32 (match decodeVal 1 x with
    | .zero n => .inf n
    | .inf n => .zero n
    | .fin n a b => .fin n b a
    | v => v)

/-- (a - b) x c with each step rounded (R256). -/
def slab (a b c : Nat) : Nat :=
  let d := rn32 ((decodeVal 1 a).add false (decodeVal 1 b).neg).1
  rn32 ((decodeVal 1 d).mul (decodeVal 1 c)).1

/-- FP32 minimum or maximum (R175, R256). -/
def mm32 (isMax : Bool) (a b : Nat) : Nat := (fltMinMax isMax 1 a b).1

/-- An FP32 word of a byte string. -/
def f32At (bs : List Byte) (off : Nat) : Nat := fieldOf bs off 4

/-- Box i of a node against a ray: its entry distance, and whether it is hit (R256). -/
def boxTest (rec node : List Byte) (i : Nat) : Nat × Bool :=
  let axis (a : Nat) : Nat × Nat :=
    let inv := inv32 (f32At rec (0x10 + 4 * a))
    let p := slab (f32At node (0x18 * i + 4 * a)) (f32At rec (4 * a)) inv
    let q := slab (f32At node (0x18 * i + 0xC + 4 * a)) (f32At rec (4 * a)) inv
    (mm32 false p q, mm32 true p q)
  let near := (List.range 3).foldl (fun m a => mm32 true m (axis a).1) (f32At rec 0xC)
  let far := (List.range 3).foldl (fun m a => mm32 false m (axis a).2) (f32At rec 0x1C)
  let v := decodeVal 1 near
  let w := decodeVal 1 far
  (near, fieldOf node (0x60 + 4 * i) 4 / 2 ^ 30 != 0 && !v.isNan && !w.isNan && decide (v.cmp w ≤ 0))

/-- Put a child into the order of hits, nearest first, ties by lower number. -/
def orderHit (near : Nat → Nat) (i : Nat) : List Nat → List Nat
  | [] => [i]
  | j :: r => if (decodeVal 1 (near i)).cmp (decodeVal 1 (near j)) < 0 then i :: j :: r else j :: orderHit near i r

/-- The result of RAY.BOX4 (R256). -/
def box4 (rec node : List Byte) : Nat :=
  let t (i : Nat) : Nat × Bool := boxTest rec node i
  let hits := (List.range 4).filter fun i => (t i).2
  let order := hits.foldl (fun acc i => orderHit (fun k => (t k).1) i acc) [] ++ (List.range 4).filter fun i => !(t i).2
  let mask := hits.foldl (fun m i => m + 2 ^ i) 0
  mask + ((List.range 4).foldl (fun v j => v + order.getD j 0 * 2 ^ (4 + 2 * j)) 0) + hits.length * 2 ^ 12

/-- n bytes of a stand's reach area, with whether a word of them is poisoned. -/
def State.reachRead (s : State) (stand off n : Nat) : List Byte × Bool :=
  ((List.range n).map fun k => s.locByte (reachByte stand (off + k)),
    (List.range n).any fun k => s.mem.locPoison.has (reachByte stand (off + k) / 4))

/-- The offset of a node or triangle: aligned and below the image size (R256, R257). -/
def reachCheck (align : Nat) (i : Ins) (s : State) (t : Nat) : Check :=
  let b := (s.wordB t i).toNat
  match s.bound t with
  | some (_, x) => if b % align ≠ 0 ∨ x.len ≤ b then .trap 6 (BitVec.ofNat 32 b) else .ok
  | none => .ok

/-- RAY.BOX4 (R256). -/
def rayBoxSem : Sem :=
  { legal := boundLegal, check := fun i _ s t => reachCheck 128 i s t
    act := fun i _ ts s => ts.foldl (fun s t =>
      match s.bound t with
      | none => s
      | some (r, _) =>
        let (node, bad) := s.reachRead r.stand (s.wordB t i).toNat 128
        let v := box4 (s.rayRecord r) node
        (s.modThread t fun th => th.writeG i.d (BitVec.ofNat 32 v) bad).countEvent s.focus 0x38 1) s }

/-! ### RAY.TRI -/

/-- A finite FP32 value times 2^149. -/
def fix149 (x : Nat) : Option Int :=
  match decodeVal 1 x with
  | .zero _ => some 0
  | .fin n a b => some ((if n then -1 else 1) * ((a * 2 ^ 149 / b : Nat) : Int))
  | _ => none

/-- Three coordinates of a byte string. -/
def vec149 (bs : List Byte) (off : Nat) : Option (Int × Int × Int) :=
  match fix149 (f32At bs off), fix149 (f32At bs (off + 4)), fix149 (f32At bs (off + 8)) with
  | some x, some y, some z => some (x, y, z)
  | _, _, _ => none

/-- Difference of two vectors. -/
def vsub (a b : Int × Int × Int) : Int × Int × Int := (a.1 - b.1, a.2.1 - b.2.1, a.2.2 - b.2.2)
/-- Cross product. -/
def vcross (a b : Int × Int × Int) : Int × Int × Int :=
  (a.2.1 * b.2.2 - a.2.2 * b.2.1, a.2.2 * b.1 - a.1 * b.2.2, a.1 * b.2.1 - a.2.1 * b.1)
/-- Dot product. -/
def vdot (a b : Int × Int × Int) : Int := a.1 * b.1 + a.2.1 * b.2.1 + a.2.2 * b.2.2

/-- The exact quotient of two integers, the divisor not zero. -/
def quot (n d : Int) : Val := Val.ofRat (decide ((n < 0) ≠ (d < 0)) && n != 0) n.natAbs d.natAbs

/-- Whether a hit at t is within the ray's interval (R257). -/
def tInside (rec : List Byte) (t : Val) : Bool :=
  let lo := decodeVal 1 (f32At rec 0xC)
  let hi := decodeVal 1 (f32At rec 0x1C)
  let c := t.cmp hi
  decide (lo.cmp t ≤ 0) && (if rayWord rec 0x2C = 0xFFFFFFFF#32 then decide (c ≤ 0) else decide (c < 0))

/-- The triangle test (R257): the sign of the determinant, and t, u and v, of a hit. -/
def triTest (rec tri : List Byte) : Option (Bool × Val × Val × Val) :=
  match vec149 rec 0, vec149 rec 0x10, vec149 tri 0, vec149 tri 0xC, vec149 tri 0x18 with
  | some o, some dir, some v0, some v1, some v2 =>
    let e1 := vsub v1 v0
    let e2 := vsub v2 v0
    let q := vsub o v0
    let det := -vdot dir (vcross e1 e2)
    let nu := -vdot dir (vcross q e2)
    let nv := -vdot dir (vcross e1 q)
    let nt := vdot q (vcross e1 e2)
    let back := decide (det < 0)
    let sg : Int := if det < 0 then -1 else 1
    let f := (rayWord rec 0x24).toNat
    let inside := det != 0 && decide (0 ≤ sg * nu) && decide (0 ≤ sg * nv) && decide (sg * (nu + nv) ≤ sg * det)
    let faces := (!bit f 0 || !back) && (!bit f 1 || back)
    if inside && faces && tInside rec (quot nt det) then some (back, quot nt det, quot nu det, quot nv det) else none
  | _, _, _, _, _ => none

/-- RAY.TRI (R257): a candidate on a hit, none on a miss. -/
def rayTriSem : Sem :=
  { legal := boundLegal, check := fun i _ s t => reachCheck 64 i s t
    act := fun i _ ts s => ts.foldl (fun s t =>
      match s.bound t with
      | none => s
      | some (r, _) =>
        let (tri, bad) := s.reachRead r.stand (s.wordB t i).toNat 64
        let s := s.countEvent s.focus 0x39 1
        match if bad then none else triTest (s.rayRecord r) tri with
        | some (back, tt, u, v) =>
          let t32 : W32 := BitVec.ofNat 32 (rn32 tt)
          let uv : W32 := BitVec.ofNat 32 ((roundVal 2 1 0 u).1 + (roundVal 2 1 0 v).1 * 2 ^ 16)
          let cand := (t32, rayWord tri 0x24, uv)
          s.modThread t fun th =>
            { (th.writeG i.d (if back then 3 else 1)).writeG (i.d + 1) t32 with ray := some { r with cand := some cand } }
        | none =>
          s.modThread t fun th =>
            { (th.writeG i.d 0 bad).writeG (i.d + 1) 0x7F800000#32 bad with ray := some { r with cand := none } }) s }

/-! ### RAY.HIT, RAY.NEXT and RAY.FIN -/

/-- RAY.HIT (R258). -/
def rayHitSem : Sem :=
  { legal := boundLegal
    act := fun _ _ ts s => ts.foldl (fun s t =>
      match s.bound t with
      | some (r, _) =>
        match r.cand with
        | some (tt, prim, uv) =>
          let s := (((s.setRayWord r 0x2C prim).setRayWord r 0x30 tt).setRayWord r 0x34 uv).setRayWord r 0x1C tt
          s.modThread t fun th => { th with ray := some { r with cand := none } }
        | none => s
      | none => s) s }

/-- RAY.NEXT's check: the reach number, then the run is held until the ray has been appended (R259, R403). -/
def nextCheck (i : Ins) (s : State) (t : Nat) : Check :=
  match s.thread? t with
  | none => .ok
  | some th =>
    if (s.lrec th.launch).nReach ≤ (s.wordB t i).toNat % 2 ^ 14 then .trap 1 i.word0
    else match th.held with
      | .granted => .ok
      | _ => .hold

/-- Append a bound ray to its next boom, once the thread's writes are complete and the Drive's memory answers (R251,
R259). -/
def State.nextPrep (i : Ins) (s : State) (t : Nat) : State :=
  match s.thread? t, s.bound t with
  | some th, some (r, _) =>
    let die := standDie r.stand
    let reach := (s.wordB t i).toNat % 2 ^ 14
    if nextCheck i s t != .hold || s.driveHeld die th.launch || !s.writesDone t s.nextId 5 then s
    else
      let rec0 := s.rayRecord r
      let rec1 := raySet rec0 0x28 (BitVec.ofNat 32 (rayCore rec0 + reach * 2 ^ 18))
      let (b, ws) := s.appendPlan die th.launch reach { bytes := rec1, wg := th.wg, time := s.gtc }
      match s.driveStuck th.launch r.stand (((s.lrec th.launch).scene, 64, { r := true }) :: State.writeNeeds ws) with
      | some e => s.driveFault th.launch die r.stand e
      | none => ((s.setBoom die th.launch reach b).driveWrite th.launch r.stand ws).setHeld t .granted
  | _, _ => s

/-- A thread lets its ray go: the slot is left, and the batch counts it (R259-R261). -/
def State.unbind (s : State) (t fin : Nat) : State :=
  match (s.thread? t).bind (·.ray) with
  | none => s
  | some r =>
    let s := s.modBatch r.stand fun b => { b with gone := b.gone + 1, fins := b.fins + fin, owner := b.owner.del r.batch }
    s.modThread t fun th => { th with ray := none, held := .none }

/-- RAY.NEXT (R259). -/
def rayNextSem : Sem :=
  { legal := boundLegal
    prep := fun i _ ts s => ts.foldl (State.nextPrep i) s
    check := fun i _ s t => nextCheck i s t
    act := fun _ _ ts s => ts.foldl (fun s t => s.unbind t 0) s }

/-- RAY.FIN holds until the reply core has granted a place (R260). -/
def finCheck (s : State) (t : Nat) : Check :=
  match (s.thread? t).map Thread.held with
  | some .granted => .ok
  | _ => .hold

/-- The reply of a bound ray asks its core for a place (R260). -/
def State.finPrep (s : State) (t : Nat) : State :=
  match s.thread? t, s.bound t with
  | some th, some (r, _) =>
    if th.held != .none || s.driveHeld (standDie r.stand) th.launch then s
    else
      let (id, s) := s.fresh
      let rec0 := s.rayRecord r
      let st := if rayWord rec0 0x2C = 0xFFFFFFFF#32 then 2 else 1
      let m := rayReplyMsg th.part th.launch th.wg (s.homeOf t).refCore s.pkgId t id rec0 st
      ({ s with outbound := s.outbound.put t m }).setHeld t (.asking id none)
  | _, _ => s

/-- RAY.FIN (R260): the die no longer holds the ray. -/
def rayFinSem : Sem :=
  { legal := boundLegal
    prep := fun _ _ ts s => ts.foldl State.finPrep s
    check := fun _ _ s t => finCheck s t
    act := fun _ _ ts s => ts.foldl (fun s t =>
      match s.thread? t, s.bound t with
      | some th, some (r, _) =>
        let rec0 := s.rayRecord r
        let s := s.setRayWord r 0x24 (rayStatus rec0 (if rayWord rec0 0x2C = 0xFFFFFFFF#32 then 2 else 1))
        let s := s.modDie (standDie r.stand) fun d =>
          { d with raysHeld := d.raysHeld.setD th.launch 0 (d.raysHeld.getD th.launch 0 - 1) }
        s.unbind t 1
      | _, _ => s) s }

/-- RAY.ENQ (R250). -/
def execRayEnq (w : X96) (s : State) : Host.Outcome State Fault Refusal := issue rayEnqSem (w.ins .rayEnq) s

/-- RAY.BOX4 (R256). -/
def execRayBox4 (w : X96) (s : State) : Host.Outcome State Fault Refusal := issue rayBoxSem (w.ins .rayBox4) s

/-- RAY.TRI (R257). -/
def execRayTri (w : X96) (s : State) : Host.Outcome State Fault Refusal := issue rayTriSem (w.ins .rayTri) s

/-- RAY.NEXT (R259). -/
def execRayNext (w : X96) (s : State) : Host.Outcome State Fault Refusal := issue rayNextSem (w.ins .rayNext) s

/-- RAY.HIT (R258). -/
def execRayHit (w : X96) (s : State) : Host.Outcome State Fault Refusal := issue rayHitSem (w.ins .rayHit) s

/-- RAY.FIN (R260). -/
def execRayFin (w : X96) (s : State) : Host.Outcome State Fault Refusal := issue rayFinSem (w.ins .rayFin) s

end Sys2Proof.Machine
end

