-- ==== Sys2Proof/Machine/Drive.lean ====
section
/-!
DEFINITION. The Drive at work (10 R253, R254, R261, R262, R403): selecting a boom, loading a reach, dispatching a batch,
ending it.
-/

namespace Sys2Proof.Machine

namespace State

/-- The running launch whose scene streams on a stand (R243). -/
def sceneOf (s : State) (stand : Nat) : Option Nat :=
  (s.launches.find? fun _ l => l.phase == .running && l.r.streams stand).map (·.1)

/-! ### Selection -/

/-- The weight of a boom (R253). -/
def boomWeight (s : State) (b : Boom) : Nat :=
  b.records.length * ((s.gtc - (b.records.head?.elim 0 (·.time))) / 64 + 1)

/-- The reach a selection takes (R253): the boom starved first, lowest reach first; else the greatest weight. -/
def selectBoom (s : State) (die l : Nat) : Option Nat :=
  let bs := s.boomsOf die l
  match sortBy (fun b => b.2.starved.getD 0) (bs.filter fun b => b.2.starved.isSome) with
  | b :: _ => some b.1
  | [] =>
    (bs.foldl (fun (best : Option (Nat × Boom)) b =>
      match best with
      | some c => if s.boomWeight c.2 < s.boomWeight b.2 then some b else best
      | none => some b) none).map (·.1)

/-- The other booms after a selection: PASSED rises, and at 63 a boom is starved (R253). A boom that is starved already stays at 63,
the field's greatest value (DESIGN CHOICE, log 145). -/
def passOver (s : State) (die l reach : Nat) : List (Nat × Boom) :=
  let n := (s.die die).selections
  ((s.boomsOf die l).filter fun b => b.1 != reach).map fun b =>
    let p := min 63 (b.2.passed + 1)
    (b.1, { b.2 with passed := p, starved := if p = 63 then some (b.2.starved.getD n) else none })

/-- Every write a selection makes: the boom's own, and the control blocks of passed booms without a head slot. -/
def selectionWrites (s : State) (die l reach : Nat) : List (Nat × List Byte) :=
  (s.takePlan die l reach).2.2 ++ (s.passOver die l reach).flatMap fun b => s.controlWrite die l b.1 b.2

/-- Whether a stand already holds a reach's image (R254). -/
def holdsReach (s : State) (stand l reach : Nat) : Option (Nat × Nat) :=
  match (s.stand stand).reach with
  | some (m, n, root, len) => if m = l ∧ n = reach then some (root, len) else none
  | none => none

/-- The accesses a selection makes: the scene descriptor (R403), the reach entry unless the stand holds the reach (R244), and its
writes. -/
def selectionNeeds (s : State) (die l reach stand : Nat) : List (Nat × Nat × Need) :=
  let entry : List (Nat × Nat × Need) :=
    if (s.holdsReach stand l reach).isSome then [] else [((s.lrec l).reachTab + 16 * reach, 16, { r := true })]
  ((s.lrec l).scene, 64, { r := true }) :: entry ++ writeNeeds (s.selectionWrites die l reach)

/-- What a reach entry says: base, root and image bytes; none when it is malformed (R244). -/
def reachEntry (bs : List Byte) : Option (Nat × Nat × Nat) :=
  let v := natOfBytes bs
  let base := bits v 63 0
  let size := bits v 80 64
  let root := bits v 116 96
  if bit v 95 && bits v 127 117 == 0 && bits v 94 81 == 0 && decide (1 ≤ size) && decide (size ≤ 32768) && base % 64 == 0 &&
      root % 128 == 0 && decide (root < size * 64) then some (base, root, size * 64)
  else none

/-- Form the batch (R244, R253, R254). -/
def select (s : State) (die l reach stand : Nat) : State :=
  let (rays, left, _) := s.takePlan die l reach
  let ws := s.selectionWrites die l reach
  let passed := s.passOver die l reach
  let held := s.holdsReach stand l reach
  let entry := if held.isSome then none else reachEntry (s.driveRead l stand ((s.lrec l).reachTab + 16 * reach) 16).1
  let s := (s.driveNote l stand (((s.lrec l).scene, 64) :: if held.isSome then [] else [((s.lrec l).reachTab + 16 * reach, 16)])).driveWrite
    l stand ws
  let s := passed.foldl (fun s b => s.setBoom die l b.1 b.2) (s.setBoom die l reach left)
  let s := s.modDie die fun d => { d with selections := d.selections + 1 }
  let numbered := (List.range rays.length).zip rays
  let s := numbered.foldl (fun s r =>
    (s.locStore (batchSlot stand r.1) r.2.bytes).tracePlace (s.unitSource stand) (.loc (batchSlot stand r.1)) r.2.bytes) s
  let b : Batch :=
    match held, entry with
    | some (root, len), _ => { launch := l, reach := reach, root := root, len := len, loaded := true }
    | none, some (base, root, len) => { launch := l, reach := reach, root := root, len := len, base := base }
    | none, none => { launch := l, reach := reach, bad := true, loaded := true }
  let b := { b with count := rays.length, owner := numbered.map fun r => (r.1, r.2.wg) }
  let s := if held.isSome || b.bad then s else s.modStand stand fun x => { x with reach := none }
  { s with batches := s.batches.put stand b }

end State

/-- BOOM_SELECTION (R253, R254): an idle streaming stand's Drive forms a batch. While a translation of a host page is
missing it is asked for. -/
def execBoomSelection (die scene reach stand : Nat) (s : State) : Host.Outcome State Fault Refusal :=
  if standDie stand = die ∧ s.sceneOf stand = some scene ∧ (s.batches.get? stand).isNone ∧ !s.driveHeld die scene ∧ !s.standShut stand ∧
      s.selectBoom die scene = some reach then
    match s.driveStuck scene stand (s.selectionNeeds die scene reach stand) with
    | none => .next (s.select die scene reach stand)
    | some (.miss p v, need) => .next (s.driveFault scene die stand (.miss p v, need))
    | some (.route k, need) => .next (s.driveFault scene die stand (.route k, need))
    | some _ => .refused (.notDue "BOOM_SELECTION")
  else .refused (.notDue "BOOM_SELECTION")

/-! ### Loading and dispatch -/

namespace State

/-- Copy a reach image into the reach area, with its poison (R254). -/
def loadReach (s : State) (l stand base : Nat) : Nat → Nat → State
  | 0, _ => s
  | fuel + 1, off =>
    let (bs, qs) := s.driveRead l stand (base + off) 64
    let p := Place.loc (reachByte stand off)
    let s := s.driveNote l stand [(base + off, 64)]
    ((s.writePlace p 0 bs qs).tracePlace (s.unitSource stand) p bs).loadReach l stand base fuel (off + 64)

/-- Dispatch slot j of a batch as a message at the traversal handler (R254). -/
def dispatchRay (s : State) (stand j : Nat) (b : Batch) : State :=
  let rec0 := s.locBytes (batchSlot stand j) 64
  let (id, s) := s.fresh
  let words : List W32 :=
    [BitVec.ofNat 32 j, BitVec.ofNat 32 b.reach, BitVec.ofNat 32 b.root, rayWord rec0 0x24, rayWord rec0 0x20]
  let m : Msg :=
    { core := coreOfCluster (stand * 8 + j % 128 / 16) (j % 16), index := (s.lrec b.launch).trav, payload := words
      part := ((s.launch? b.launch).map (·.part)).getD 0, launch := b.launch, wg := b.owner.getD j 0
      srcCore := coreOfIndex stand 0, srcPkg := s.pkgId, seq := id, arrived := true, slot := some j }
  s.transit m

/-- The reply of slot j of a batch whose reach entry is malformed (R244, R260). -/
def replyRay (s : State) (stand j : Nat) (b : Batch) : State :=
  let rec0 := s.locBytes (batchSlot stand j) 64
  let (id, s) := s.fresh
  let part := ((s.launch? b.launch).map (·.part)).getD 0
  let m := rayReplyMsg part b.launch (b.owner.getD j 0) (coreOfIndex stand 0) s.pkgId 0 id rec0 4
  let s := s.transit { m with arrived := true }
  let s := s.modDie (standDie stand) fun d =>
    { d with raysHeld := d.raysHeld.setD b.launch 0 (d.raysHeld.getD b.launch 0 - 1) }
  s.modBatch stand fun x => { x with gone := x.gone + 1, fins := x.fins + 1, owner := x.owner.del j }

/-- The core the next message of a batch goes to. -/
def nextRayCore (s : State) (stand : Nat) (b : Batch) : Nat :=
  if b.bad then rayCore (s.locBytes (batchSlot stand b.sent) 64)
  else coreOfCluster (stand * 8 + b.sent % 128 / 16) (b.sent % 16)

/-- Whether the next message of a batch can be sent. -/
def rayRoom (s : State) (stand : Nat) : Bool :=
  match s.batches.get? stand with
  | some b => b.loaded && decide (b.sent < b.count) && decide ((s.core (s.nextRayCore stand b)).inbound.length < 16)
  | none => false

/-- Send a batch's messages in increasing slot order while their cores have room (R254). -/
def sendRays (s : State) (stand : Nat) : Nat → State
  | 0 => s
  | fuel + 1 =>
    match s.batches.get? stand with
    | none => s
    | some b =>
      if !s.rayRoom stand then s else
      let s := if b.bad then s.replyRay stand b.sent b else s.dispatchRay stand b.sent b
      let s := s.modBatch stand fun x =>
        { x with sent := x.sent + 1, startAt := if b.bad then none else some (x.startAt.getD s.gtc) }
      s.sendRays stand fuel

/-- The accesses a load makes, line by line. -/
def loadNeeds (b : Batch) : List (Nat × Nat × Need) :=
  (List.range (b.len / 64)).map fun k => (b.base + 64 * k, 64, { r := true })

end State

/-- REACH_LOAD_COMPLETE (R254): the image stands in the reach area, and the batch is dispatched as far as its cores have
room; the step is due again for the rest. -/
def execReachLoadComplete (stand : Nat) (s : State) : Host.Outcome State Fault Refusal :=
  match s.batches.get? stand with
  | none => .refused (.notDue "REACH_LOAD_COMPLETE")
  | some b =>
    if s.driveHeld (standDie stand) b.launch then .refused (.notDue "REACH_LOAD_COMPLETE")
    else if b.loaded then
      if s.rayRoom stand then .next (s.sendRays stand 1024) else .refused (.notDue "REACH_LOAD_COMPLETE")
    else
      match s.driveStuck b.launch stand (State.loadNeeds b) with
      | none =>
        let s := s.loadReach b.launch stand b.base (b.len / 64) 0
        let s := s.modStand stand fun x => { x with reach := some (b.launch, b.reach, b.root, b.len) }
        .next ((s.modBatch stand fun x => { x with loaded := true }).sendRays stand 1024)
      | some (.miss p v, need) => .next (s.driveFault b.launch (standDie stand) stand (.miss p v, need))
      | some (.route k, need) => .next (s.driveFault b.launch (standDie stand) stand (.route k, need))
      | some _ => .refused (.notDue "REACH_LOAD_COMPLETE")

/-! ### The end of a batch -/

/-- The access a batch's end makes: FINISHED (R261). -/
def State.endNeeds (s : State) (b : Batch) : List (Nat × Nat × Need) :=
  [((s.lrec b.launch).scene + 0x38, 8, { r := true, w := true })]

/-- BATCH_END (R261): every ray has left the batch; FINISHED rises by its RAY.FINs and the stand may select again. -/
def execBatchEnd (stand : Nat) (s : State) : Host.Outcome State Fault Refusal :=
  match s.batches.get? stand with
  | none => .refused (.notDue "BATCH_END")
  | some b =>
    if b.gone = b.count ∧ b.loaded ∧ b.sent = b.count ∧ !s.driveHeld (standDie stand) b.launch then
      match s.driveStuck b.launch stand (s.endNeeds b) with
      | none => .next { s.driveAdd b.launch stand 0x38 b.fins with batches := s.batches.del stand }
      | some (.miss p v, need) => .next (s.driveFault b.launch (standDie stand) stand (.miss p v, need))
      | some (.route k, need) => .next (s.driveFault b.launch (standDie stand) stand (.route k, need))
      | some _ => .refused (.notDue "BATCH_END")
    else .refused (.notDue "BATCH_END")

/-- BATCH_LIMIT_EXPIRY (R262): the unpaused time of a batch has reached LIMIT; its launch ends with cause 0x0C. -/
def execBatchLimitExpiry (stand : Nat) (s : State) : Host.Outcome State Fault Refusal :=
  match s.batches.get? stand with
  | none => .refused (.notDue "BATCH_LIMIT_EXPIRY")
  | some b =>
    match b.startAt with
    | some g =>
      if (s.lrec b.launch).limit * 1000 ≤ s.gtc - g - b.paused ∧ b.gone < b.count ∧
          ((s.launch? b.launch).any fun l => l.phase == .running || l.phase == .preempting) then
        .next (s.fatalLaunch b.launch { cause := 0x0C, wg := (b.owner.head?.elim 0 (·.2)), stand := stand })
      else .refused (.notDue "BATCH_LIMIT_EXPIRY")
    | none => .refused (.notDue "BATCH_LIMIT_EXPIRY")

/-- What the Drive of a stand has to access next: the scene, and the accesses (R403). -/
def State.driveNext (s : State) (die stand : Nat) : Option (Nat × List (Nat × Nat × Need)) :=
  match s.batches.get? stand with
  | some b =>
    if !b.loaded then some (b.launch, State.loadNeeds b)
    else if b.gone = b.count ∧ b.sent = b.count then some (b.launch, s.endNeeds b) else none
  | none =>
    match s.sceneOf stand with
    | none => none
    | some l => (s.selectBoom die l).map fun n => (l, s.selectionNeeds die l n stand)

/-- DRIVE_ACCESS_FAULT (R403): an access of the Drive for a stand meets a translation fault; a record of SOURCE 5 is
written, and the Drive's work for that scene on that die waits. -/
def execDriveAccessFault (die stand : Nat) (s : State) : Host.Outcome State Fault Refusal :=
  match s.driveNext die stand with
  | some (l, needs) =>
    match s.driveStuck l stand needs with
    | some (.park k p a pasid, need) =>
      if standDie stand = die ∧ !s.driveHeld die l ∧ s.faultRoom die then
        .next (s.driveFault l die stand (.park k p a pasid, need))
      else .refused (.notDue "DRIVE_ACCESS_FAULT")
    | _ => .refused (.notDue "DRIVE_ACCESS_FAULT")
  | none => .refused (.notDue "DRIVE_ACCESS_FAULT")

end Sys2Proof.Machine
end

