-- ==== Sys2Proof/Machine/Blocks.lean ====
section
/-!
DEFINITION. The colour blocks of a compressed render target (12 R294): decoding and encoding, with poison.
-/

namespace Sys2Proof.Machine

/-- A pixel word with its poison. -/
abbrev Pixel := Nat × Bool

/-- Channel c of a pixel word: R, G, B, A. -/
def channel (v c : Nat) : Nat := v / 2 ^ (8 * c) % 256

/-- A pixel word from its channels. -/
def pixelOf (r g b a : Nat) : Nat := r + g * 2 ^ 8 + b * 2 ^ 16 + a * 2 ^ 24

/-- A slot as it is read: 256 bytes, and the poison of each of its 64 words. -/
structure BlockSlot where
  bytes : List Nat
  poison : List Bool

/-- A byte of a slot. -/
def BlockSlot.byte (b : BlockSlot) (n : Nat) : Nat := b.bytes.getD n 0

/-- A word of a slot. -/
def BlockSlot.word (b : BlockSlot) (n : Nat) : Nat :=
  b.byte (4 * n) + b.byte (4 * n + 1) * 2 ^ 8 + b.byte (4 * n + 2) * 2 ^ 16 + b.byte (4 * n + 3) * 2 ^ 24

/-- Whether the word of a byte is poisoned. -/
def BlockSlot.bad (b : BlockSlot) (n : Nat) : Bool := b.poison.getD (n / 4) false

/-- The mode a mode byte names: one with nonzero bits [7:2] is mode 0 (R294). -/
def blockMode (m : Nat) : Nat := if m < 4 then m else 0

/-- Pixel p of a block (R294); a poisoned CLEAR poisons what it gives (R295). -/
def decodePixel (mode : Nat) (clear : Pixel) (b : BlockSlot) (p : Nat) : Pixel :=
  let base := b.word 0
  let delta (f : Nat → Nat × Nat) : Pixel :=
    let c (k : Nat) : Nat := (channel base k + (f k).2) % 256
    (pixelOf (c 0) (c 1) (c 2) (channel base 3), b.bad 0 || (List.range 3).any fun k => b.bad (f k).1)
  match mode with
  | 1 => clear
  | 2 => delta fun k =>
      let n := 3 * p + k
      let v := b.byte (4 + n / 2) / 16 ^ (n % 2) % 16
      (4 + n / 2, wrapTo 8 (signExt 4 v))
  | 3 => delta fun k => (4 + 3 * p + k, b.byte (4 + 3 * p + k))
  | _ => (b.word p, b.bad (4 * p))

/-- The 64 pixels of a block; a poisoned mode byte poisons them all (R294). -/
def decodeBlock (mode : Nat) (modePoison : Bool) (clear : Pixel) (b : BlockSlot) : List Pixel :=
  (List.range 64).map fun p =>
    let (v, q) := decodePixel (blockMode mode) clear b p
    (v, q || modePoison)

/-- The difference of a channel from the base, as a signed byte. -/
def channelDelta (base v c : Nat) : Int := (channel v c : Int) - channel base c

/-- The mode the write-back gives a block (R294). -/
def encodeMode (clear : Nat) (ps : List Pixel) : Nat :=
  let base := (ps.headD (0, false)).1
  let alpha := ps.all fun p => channel p.1 3 == channel base 3
  if ps.any (·.2) then 0
  else if ps.all (fun p => p.1 == clear) then 1
  else if alpha && ps.all (fun p => (List.range 3).all fun c =>
      decide (-8 ≤ channelDelta base p.1 c) && decide (channelDelta base p.1 c ≤ 7)) then 2
  else if alpha then 3
  else 0

/-- The bytes the write-back stores in a slot (R294). -/
def encodeBytes (mode : Nat) (ps : List Pixel) : List Byte :=
  let vs := ps.map (·.1)
  let base := vs.headD 0
  let deltas := vs.flatMap fun v => (List.range 3).map fun c => wrapTo 8 (channelDelta base v c)
  match mode with
  | 0 => vs.flatMap (bytesOfNat 4)
  | 1 => []
  | 2 => bytesOfNat 4 base ++ (List.range 96).map fun n =>
      BitVec.ofNat 8 (deltas.getD (2 * n) 0 % 16 + deltas.getD (2 * n + 1) 0 % 16 * 16)
  | _ => bytesOfNat 4 base ++ deltas.map (BitVec.ofNat 8)

end Sys2Proof.Machine
end

