-- ==== Sys2Proof/Machine/Packed.lean ====
section
/-!
DEFINITION. Packed 128-bit forms (07 R185-R187) and the exact group sum of DOT4 and the matrix forms (04 R110, R111):
majors 0x88-0x8E.
-/

namespace Sys2Proof.Machine

/-- Lane i of width w of a packed operand (R185). -/
def laneOf (w v i : Nat) : Nat := v / 2 ^ (w * i) % 2 ^ w

/-- The packed value of lanes, lane 0 lowest. -/
def packLanes (w : Nat) : List Nat → Nat
  | [] => 0
  | x :: r => x + 2 ^ w * packLanes w r

/-- The value of an integer lane: signed, or natural under .nat (R186). -/
def intLane (nat : Bool) (w v : Nat) : Int := if nat then (v % 2 ^ w : Nat) else signExt w v

/-- An exact integer lane result narrowed to w bits: clamped under .sat, else modulo 2^w (R186, R187). -/
def narrowLane (nat sat : Bool) (w : Nat) (x : Int) : Nat :=
  let lo : Int := if nat then 0 else -(2 ^ (w - 1) : Nat)
  let hi : Int := if nat then (2 ^ w : Nat) - 1 else (2 ^ (w - 1) : Nat) - 1
  wrapTo w (if sat then max lo (min hi x) else x)

/-- One integer lane of a V form (R186). -/
def vecInt (op : Op) (nat sat : Bool) (w a b c : Nat) : Nat :=
  let x := intLane nat w a
  let y := intLane nat w b
  narrowLane nat sat w (match op with
    | .vadd => x + y
    | .vsub => x - y
    | .vmul => x * y
    | .vmad => x * y + intLane nat w c
    | .vmin => if x ≤ y then x else y
    | _ => if x ≤ y then y else x)

/-- One float lane of a V form (R186). -/
def vecFlt (op : Op) (f mode u a b c : Nat) : Nat × FFlags :=
  match op with
  | .vadd => fltArith .fadd f mode u a b 0
  | .vsub => fltArith .fsub f mode u a b 0
  | .vmul => fltArith .fmul f mode u a b 0
  | .vmad => fltArith .ffma f mode u a b c
  | .vmin => fltMinMax false f a b
  | _ => fltMinMax true f a b

/-- The result and flags of a V form for one thread; `us` are its draws, one for each lane. -/
def vecResult (i : Ins) (mode : Nat) (us : List Nat) (a b c : Nat) : Nat × FFlags :=
  let w := fmtBits i.ty
  let lanes := List.range (128 / w)
  if i.ty < 4 then
    let rs := lanes.map fun k => vecFlt i.op i.ty mode (us.getD k 0) (laneOf w a k) (laneOf w b k) (laneOf w c k)
    (packLanes w (rs.map (·.1)), rs.foldl (fun f r => f.or r.2) {})
  else
    let one := fun k =>
      vecInt i.op (i.minor.testBit 1) (i.minor.testBit 0) w (laneOf w a k) (laneOf w b k) (laneOf w c k)
    (packLanes w (lanes.map one), {})

/-- The V forms (R186): every float lane passes the one rounding, VMIN and VMAX's too, so under stochastic rounding each
draws once. -/
def vecSem : Sem :=
  { act := fun i _ => perFlags fun t s =>
      let a := s.srcVal t i .a
      let b := s.srcVal t i .b
      let c := s.srcVal t i .c
      let (m, us, s) := if i.ty < 4 then s.rounding t i.hint (128 / fmtBits i.ty) else (1, [], s)
      let (r, fl) := vecResult i m us a b c
      (s.writeD t i r, fl) }

/-- Add num/den, den a power of two, to an exact running sum (R110). -/
def addDyadic (acc : Int × Nat) (x : Int) (den : Nat) : Int × Nat :=
  if den ≤ acc.2 then (acc.1 + x * (acc.2 / den : Nat), acc.2) else (acc.1 * (den / acc.2 : Nat) + x, den)

/-- The exact sum of a group of products with its specials and flags (R110, R111): each row of R111's table that the group
meets raises its flag. -/
def groupSum (ps : List (Val × Val)) : Val × FFlags :=
  let sig := ps.any fun p => p.1.isSig || p.2.isSig
  let nans := ps.any fun p => p.1.isNan || p.2.isNan
  let prods := ps.map fun p => Val.mul p.1 p.2
  let zinf := prods.any fun r => r.2.iv
  let pos := prods.any fun r => r.1 == .inf false
  let neg := prods.any fun r => r.1 == .inf true
  if nans || zinf || (pos && neg) then (.nan false, { iv := sig || zinf || (pos && neg) })
  else if pos || neg then (.inf neg, {})
  else
    let (n, d) := prods.foldl (fun acc r =>
      match r.1 with
      | .fin sg a b => addDyadic acc (if sg then -(a : Int) else a) b
      | _ => acc) ((0, 1) : Int × Nat)
    if n = 0 then (.zero (prods.all fun r => r.1 == .zero true), {})
    else (.fin (decide (n < 0)) n.natAbs d, {})

/-- An FP32 accumulator plus a group sum, rounded to nearest even; a NaN sum makes it the canonical NaN, and a signalling
NaN accumulator is invalid beside it too (R97, R110, R111). -/
def accumulate (acc : Nat) (s : Val × FFlags) : Nat × FFlags :=
  if s.1.isNan then ((roundNan 1 false false).1, s.2.or { iv := (decodeVal 1 acc).isSig })
  else
    let (v, f1) := Val.add false (decodeVal 1 acc) s.1
    let (r, f2) := roundVal 1 1 0 v
    (r, (s.2.or f1).or f2)

/-- One output of DOT4 (R187). -/
def dotOutput (i : Ins) (a b c j : Nat) : Nat × FFlags :=
  let w := fmtBits i.ty
  let ks := (List.range 4).map fun k => 4 * j + k
  let cj := laneOf 32 c j
  if i.ty < 0x0B then
    accumulate cj (groupSum (ks.map fun k => (decodeVal i.ty (laneOf w a k), decodeVal i.ty (laneOf w b k))))
  else
    let nat := i.minor.testBit 1
    let sum := ks.foldl (fun (x : Int) k => x + intLane nat w (laneOf w a k) * intLane nat w (laneOf w b k)) 0
    (narrowLane nat (i.minor.testBit 0) 32 (intLane nat 32 cj + sum), {})

/-- DOT4 (R187). -/
def dotSem : Sem :=
  { act := fun i _ => perFlags fun t s =>
      let q := 128 / fmtBits i.ty / 4
      let rs := (List.range q).map fun j => dotOutput i (s.srcVal t i .a) (s.srcVal t i .b) (s.srcVal t i .c) j
      (s.writeD t i (packLanes 32 (rs.map (·.1))), rs.foldl (fun f r => f.or r.2) {}) }

/-- DOT4 (R187). -/
def execDot4 (w : X96) (s : State) : Host.Outcome State Fault Refusal := issue dotSem (w.ins .dot4) s

/-- VADD (R186). -/
def execVadd (w : X96) (s : State) : Host.Outcome State Fault Refusal := issue vecSem (w.ins .vadd) s

/-- VSUB (R186). -/
def execVsub (w : X96) (s : State) : Host.Outcome State Fault Refusal := issue vecSem (w.ins .vsub) s

/-- VMUL (R186). -/
def execVmul (w : X96) (s : State) : Host.Outcome State Fault Refusal := issue vecSem (w.ins .vmul) s

/-- VMAD (R186). -/
def execVmad (w : X96) (s : State) : Host.Outcome State Fault Refusal := issue vecSem (w.ins .vmad) s

/-- VMIN (R186). -/
def execVmin (w : X96) (s : State) : Host.Outcome State Fault Refusal := issue vecSem (w.ins .vmin) s

/-- VMAX (R186). -/
def execVmax (w : X96) (s : State) : Host.Outcome State Fault Refusal := issue vecSem (w.ins .vmax) s

end Sys2Proof.Machine
end

