-- ==== Sys2Proof/Machine/Flume.lean ====
section
/-!
DEFINITION. The flume (08 R213-R222; 03 R91; 12 R295): its commands as they issue, guard slots, the head of a ring,
ownership of destination lines, beats, and completion.
-/

namespace Sys2Proof.Machine

/-! ### Commands and their beats -/

/-- A beat: source bytes, the destinations they go to, and for a conversion the elements moved. -/
structure Beat where
  src : Nat
  n : Nat
  dsts : List Nat
  m : Nat
  /-- Conversion: source and destination format and elements. -/
  cvt : Option (Nat × Nat × Nat) := none
deriving DecidableEq, Repr

/-- Bits an element takes in memory: a 6-bit element takes a byte (R96). -/
def packBits (f : Nat) : Nat := if fmtBits f = 6 then 8 else fmtBits f

/-- Elements of a conversion moved in one beat. -/
def cvtPer (sf df : Nat) : Nat := 512 / max (packBits sf) (packBits df)

/-- The destinations of a multicast walk: the cluster bits replaced by each cluster of the mask (R215). -/
def multicast (dst mask : Nat) : List Nat :=
  ((List.range 8).filter fun c => bit mask c).map fun c => dst / 2 ^ 22 * 2 ^ 22 + c * 2 ^ 19 + dst % 2 ^ 19

/-- How many beats a command takes (R214, R219). -/
def FlumeKind.beats : FlumeKind → Nat
  | .copy _ _ len => (len + 63) / 64
  | .tile _ _ rows rb _ _ _ _ => rows * ((rb + 63) / 64)
  | .cvt _ _ count sf df => (count + cvtPer sf df - 1) / cvtPer sf df
  | .dcmp .. => 1

/-- Beat k of a command, in the order of R214 and R215. -/
def FlumeKind.beat (c : FlumeKind) (k : Nat) : Beat :=
  match c with
  | .copy d a len => { src := a + 64 * k, n := min 64 (len - 64 * k), dsts := [d + 64 * k], m := min 64 (len - 64 * k) }
  | .tile d a _ rb sp dp mask mc =>
    let per := (rb + 63) / 64
    let row := k / per
    let j := k % per
    let n := min 64 (rb - 64 * j)
    let dst := d + row * dp + 64 * j
    { src := a + row * sp + 64 * j, n := n, dsts := if mc then multicast dst mask else [dst], m := n }
  | .cvt d a count sf df =>
    let per := cvtPer sf df
    let e := min per (count - per * k)
    { src := a + per * k * packBits sf / 8, n := (e * packBits sf + 7) / 8, dsts := [d + per * k * packBits df / 8]
      m := (e * packBits df + 7) / 8, cvt := some (sf, df, e) }
  | .dcmp .. => { src := 0, n := 0, dsts := [], m := 0 }

/-- How many units a beat moves: bytes, or the elements of a conversion. -/
def Beat.units (b : Beat) : Nat :=
  match b.cvt with
  | some (_, _, e) => e
  | none => b.n

/-- Units lo to hi of a beat. -/
def Beat.part (b : Beat) (lo hi : Nat) : Beat :=
  match b.cvt with
  | none => { b with src := b.src + lo, n := hi - lo, dsts := b.dsts.map (· + lo), m := hi - lo }
  | some (sf, df, _) =>
    { src := b.src + lo * packBits sf / 8, n := ((hi - lo) * packBits sf + 7) / 8
      dsts := b.dsts.map (· + lo * packBits df / 8), m := ((hi - lo) * packBits df + 7) / 8, cvt := some (sf, df, hi - lo) }

/-- The 4 KiB frames a beat touches, source and destinations. -/
def Beat.frames (b : Beat) : List Nat :=
  (b.src :: (b.src + b.n - 1) :: b.dsts.flatMap fun d => [d, d + b.m - 1]).map (· / 4096)

/-- The pieces of units lo to hi of a beat that lie in different pages, the smallest of which holds 4 KiB (R73, R350, R356). -/
def Beat.cut (b : Beat) (lo : Nat) : Nat → List (Nat × Nat)
  | 0 => []
  | n + 1 =>
    let even := match b.cvt with
      | some (sf, df, _) => packBits sf != 4 && packBits df != 4 || (lo + n) % 2 == 0
      | none => true
    match b.cut lo n with
    | [] => [(lo + n, lo + n + 1)]
    | p :: r =>
      if even && (b.part (lo + n) (lo + n + 1)).frames != (b.part (lo + n - 1) (lo + n)).frames then
        (lo + n, lo + n + 1) :: p :: r
      else (p.1, lo + n + 1) :: r

/-- The whole of a command's beat. -/
def FlumeKind.whole (c : FlumeKind) (k : Nat) : Piece := { beat := k, lo := 0, hi := (c.beat k).units }

/-- A piece of a command's beat. -/
def FlumeKind.piece (c : FlumeKind) (p : Piece) : Beat := (c.beat p.beat).part p.lo p.hi

namespace State

/-! ### Rings, permits and statuses -/

/-- The cluster and ring a home queues flume commands on (R213). -/
def ringOf (h : Home) : Nat × Nat :=
  match h with
  | .scalar c _ => (coreCluster c, coreInCluster c)
  | .wave e i _ => (slotCluster e i, 16)
  | _ => (0, 0)

/-- Commands a ring holds. -/
def ringCap (ring : Nat) : Nat := if ring = 16 then 32 else 16

/-- A ring's commands. -/
def ring (s : State) (c r : Nat) : List FlumeCmd := (s.cluster c).rings.getD r []

/-- Replace a ring's commands. -/
def setRing (s : State) (c r : Nat) (q : List FlumeCmd) : State :=
  s.modCluster c fun x => { x with rings := x.rings.setD r [] q }

/-- Commands a group has outstanding (R213, R218). -/
def flumeOut (s : State) (engine grp : Nat) : Nat :=
  s.clusters.foldl (fun n c => c.2.rings.foldl (fun n r =>
    n + (r.2.filter fun x => x.engine == engine && x.group == grp && !x.left).length) n) 0

/-- Whether a group has a permit and its ring a place (R213). -/
def flumeRoom (s : State) (h : Home) : Bool :=
  match h.engine, h.group with
  | some k, some g =>
    let (c, r) := ringOf h
    decide (s.flumeOut k g < 8) && decide ((s.ring c r).length < ringCap r)
  | _, _ => false

/-- Change what a group keeps of its flume: the thread's of a scalar context, the slot's of a wave. -/
def modGroup (s : State) (engine grp : Nat) (f : Thread → Thread) (g : Slot → Slot) : State :=
  if isWaveKey engine then s.modSlot (waveOf engine) grp g
  else match s.threadIn engine grp with
    | some t => s.modThread t f
    | none => s

/-- A command's completion is remembered for the group's next FLUME.WAIT (R216, R218). -/
def noteStatus (s : State) (engine grp : Nat) (st fl : W32) : State :=
  s.modGroup engine grp
    (fun th => { th with flumeStatus := th.flumeStatus ||| st, flumeFlags := th.flumeFlags ||| fl })
    (fun x => { x with flumeStatus := x.flumeStatus ||| st, flumeFlags := x.flumeFlags ||| fl })

/-- A group's guard slots resolved so far (R221). -/
def guards (s : State) (engine grp : Nat) : Table Bool :=
  if isWaveKey engine then ((s.slot? (waveOf engine) grp).map (·.gs)).getD []
  else ((s.threadIn engine grp).bind s.thread?).elim [] (·.gs)

/-- Queue a command of a thread's group on its flume (R213). -/
def pushCmd (s : State) (t : Nat) (ts : List Nat) (kind : FlumeKind) (guard : Option Nat) : Nat × State :=
  let h := s.homeOf t
  let (c, r) := ringOf h
  let (id, s) := s.fresh
  match s.thread? t with
  | none => (id, s)
  | some th =>
    let cmd : FlumeCmd :=
      { id := id, kind := kind, tid := t, engine := (h.engine).getD 0, group := (h.group).getD 0, part := th.part
        launch := th.launch, wg := th.wg, guard := guard, priority := (s.lrec th.launch).priority, threads := ts
        pc := (s.run?.map (·.pc)).getD th.pc }
    (id, s.setRing c r (s.ring c r ++ [cmd]))

/-- A window range of n bytes checked at issue (R214): the trap it raises. -/
def windowTrap (s : State) (part addr n : Nat) : Option (Nat × W32) :=
  match regionOf addr with
  | .loc k =>
    let last := 0x00F0000200000000
    if last < addr + n then some (6, BitVec.ofNat 32 addr)
    else
      let first := locCore k
      let cores := (List.range ((k + n - 1) / localBytes + 1 - first)).map fun d => first + d
      (cores.find? fun c => s.coreOwner c != some part).map fun c => (9, BitVec.ofNat 32 c)
  | .scratch _ => if 0x00F0000200400000 < addr + n then some (6, BitVec.ofNat 32 addr) else none
  | _ => none

/-- The first trap among ranges. -/
def rangesTrap (s : State) (part : Nat) (rs : List (Nat × Nat)) : Option (Nat × W32) :=
  rs.findSome? fun r => s.windowTrap part r.1 r.2

end State

/-! ### FLUME.COPY, FLUME.TILE and FLUME.CVT at issue -/

/-- The command an instruction names, or none where a field is out of its range (R214-R216). -/
def flumeKind (i : Ins) (s : State) (t : Nat) : Option FlumeKind :=
  let d := s.srcVal t i .d
  let a := s.srcVal t i .a
  match i.op with
  | .flumeCopy =>
    let n := (s.wordB t i).toNat
    if 1 ≤ n ∧ n ≤ 16777216 then some (.copy d a n) else none
  | .flumeTile =>
    let q := s.srcVal t i .c
    let rows := bits q 15 0
    let rb := bits q 31 16
    let sp := bits q 63 32
    let dp := bits q 95 64
    let mask := bits q 103 96
    let mc := bit q 104
    let inScr := match regionOf d with
      | .scratch _ => true
      | _ => false
    if rows = 0 ∨ 4096 < rows ∨ rb = 0 ∨ 4096 < rb ∨ bits q 127 105 ≠ 0 ∨ (mc = true ∧ (mask = 0 ∨ inScr = false)) then none
    else some (.tile d a rows rb sp dp mask mc)
  | _ =>
    let n := (s.wordB t i).toNat
    let c := s.srcVal t i .c
    let sf := bits c 4 0
    let df := bits c 12 8
    if n = 0 ∨ 16777216 < n ∨ bits c 7 5 ≠ 0 ∨ bits c 31 13 ≠ 0 ∨ 0x14 < sf ∨ 0x14 < df then none
    else some (.cvt d a n sf df)

/-- The ranges a command reads and writes, row by row (R214, R215). -/
def FlumeKind.ranges : FlumeKind → List (Nat × Nat)
  | .copy d a n => [(a, n), (d, n)]
  | .tile d a rows rb sp dp _ _ => (List.range rows).flatMap fun k => [(a + k * sp, rb), (d + k * dp, rb)]
  | .cvt d a n sf df => [(a, (n * packBits sf + 7) / 8), (d, (n * packBits df + 7) / 8)]
  | .dcmp .. => []

/-- A multicast walk whose destination offsets change bits [21:19] (R215). -/
def FlumeKind.strays : FlumeKind → Bool
  | .tile d _ rows rb _ dp _ true =>
    (List.range rows).any fun k => (d + k * dp) / 2 ^ 19 != d / 2 ^ 19 || (d + k * dp + rb - 1) / 2 ^ 19 != d / 2 ^ 19
  | _ => false

/-- The checks of a flume instruction, made for the lowest-numbered active thread (R213-R217). -/
def flumeCheck (i : Ins) (lead : Nat) (s : State) (t : Nat) : Check :=
  if t != lead then .ok
  else
    match s.thread? t with
    | none => .ok
    | some th =>
      match flumeKind i s t with
      | none => .trap 1 i.word0
      | some k =>
        if k.strays then .trap 6 (BitVec.ofNat 32 (s.srcVal t i .d))
        else
          match s.rangesTrap th.part k.ranges with
          | some (c, info) => .trap c info
          | none => if s.flumeRoom (s.homeOf t) then .ok else .hold

/-- No task thread may command a flume (R217, R270, R295). -/
def flumeLegal (_ : Ins) (s : State) (t : Nat) : Bool := ((s.thread? t).bind (·.taskOf)).isNone

/-- FLUME.COPY, FLUME.TILE and FLUME.CVT (R213-R216): queued once, with the lowest-numbered active thread's operands. -/
def flumeSem : Sem :=
  { legal := flumeLegal, check := flumeCheck
    act := fun i lead ts s =>
      if !ts.contains lead then s else
      match flumeKind i s lead with
      | some k => (s.pushCmd lead ts k (if 16 ≤ i.x then some (i.x % 16) else none)).2
      | none => s }

/-- The group of a thread: engine key and number. -/
def State.groupOf (s : State) (t : Nat) : Nat × Nat := (((s.homeOf t).engine).getD 0, ((s.homeOf t).group).getD 0)

/-- FLUME.WAIT holds the run until at most b[2:0] commands of the group are outstanding (R218). -/
def flumeWaitCheck (i : Ins) (lead : Nat) (s : State) (_ : Nat) : Check :=
  let (k, g) := s.groupOf lead
  if s.flumeOut k g ≤ (s.wordB lead i).toNat % 8 then .ok else .hold

/-- FLUME.WAIT (R216, R218): the statuses since the last one, and to the lowest-numbered active thread the flags. -/
def flumeWaitSem : Sem :=
  { check := flumeWaitCheck
    act := fun i lead ts s =>
      let (k, g) := s.groupOf lead
      let (st, fl) : W32 × W32 :=
        if isWaveKey k then ((s.slot? (waveOf k) g).map fun x => (x.flumeStatus, x.flumeFlags)).getD (0, 0)
        else ((s.thread? lead).map fun th => (th.flumeStatus, th.flumeFlags)).getD (0, 0)
      let s := s.modGroup k g (fun th => { th with flumeStatus := 0, flumeFlags := 0 })
        (fun x => { x with flumeStatus := 0, flumeFlags := 0 })
      let s := ts.foldl (fun s t => s.writeD t i st.toNat) s
      (s.setFlags (ts.headD lead) fl).countFlags fl }

/-- GSET (R221): the lowest-numbered active thread's predicate resolves the slot. -/
def gsetSem : Sem :=
  { act := fun i lead ts s =>
      if !ts.contains lead then s else
      let (k, g) := s.groupOf lead
      let v := (s.thread? lead).any fun th => (th.readP i.a).val
      s.modGroup k g (fun th => { th with gs := th.gs.put i.d v }) (fun x => { x with gs := x.gs.put i.d v }) }

/-- GCLR waits until every earlier guarded command of the group that names the slot has left its queue head (R221). -/
def gclrCheck (i : Ins) (s : State) (t : Nat) : Check :=
  let (k, g) := s.groupOf t
  if s.clusters.any fun c => c.2.rings.any fun r => r.2.any fun x =>
      x.engine == k && x.group == g && !x.left && !x.running && x.guard.any fun n => n % 16 == i.d then .hold
  else .ok

/-- GCLR (R221). -/
def gclrSem : Sem :=
  { check := fun i _ => gclrCheck i
    act := fun i lead _ s =>
      let (k, g) := s.groupOf lead
      s.modGroup k g (fun th => { th with gs := th.gs.del i.d }) (fun x => { x with gs := x.gs.del i.d }) }

/-! ### Blocks of a compressed target -/

namespace State

/-- Bytes of a part as a launch's engines read them, with the poison of each: an unclaimed cruise's through its shadow (R344). -/
def viewPart (s : State) (l : Nat) (p : Part) : List Byte × List Bool :=
  let (bs, qs) := s.readPlace p.place p.n p.key
  match (s.cruiseOf l).bind s.cruises.get? with
  | some x => if !p.place.translated then (bs, qs) else
    ((List.range p.n).map fun k => s.cruiseByte x (p.place.byteKey + k),
      ((List.range p.n).zip qs).map fun q => cruisePoison x (p.place.byteKey + q.1) none q.2)
  | none => (bs, qs)

/-- A number that lies where a resolution says, as a launch reads it, and whether it is poisoned; none while its translation is
missing. -/
def natAt (s : State) (l : Nat) : LocRes → Option (Nat × Bool)
  | .parts ps =>
    some (natOfBytes (ps.flatMap fun p => (s.viewPart l p).1), ps.any fun p => (s.viewPart l p).2.any id)
  | _ => none

/-- A number of n bytes at a full address as a command's flume reads it. -/
def unitNat (s : State) (c : Nat) (cmd : FlumeCmd) (va n : Nat) : Option (Nat × Bool) :=
  s.natAt cmd.launch (s.locateUnit (flumeCache c) (c / 8) cmd.part va n { r := true })

/-- The address of a block's slot and mode byte, and the pass's CLEAR with its poison (R284). -/
def blockAddrs (s : State) (c : Nat) (cmd : FlumeCmd) (pass block : Nat) : Option (Nat × Nat × Nat × Bool) :=
  match s.unitNat c cmd pass 8, s.unitNat c cmd (pass + 8) 8, s.unitNat c cmd (pass + 0x18) 4 with
  | some color, some modes, some clear => some (color.1 + 256 * block, modes.1 + block, clear.1, clear.2)
  | _, _, _ => none

end State

/-- BLK.DCMP's checks (R295): the descriptor's alignment, translation, COMP bit and block count; then the run is held
until the command has completed. -/
def dcmpCheck (i : Ins) (lead : Nat) (s : State) (t : Nat) : Check :=
  if t != lead then .ok
  else
    match s.thread? t with
    | none => .ok
    | some th =>
      match th.held with
      | .record _ _ => .ok
      | .unit _ => .hold
      | _ =>
        let a := s.srcVal t i .a
        if a % 64 != 0 then .trap 1 i.word0
        else
          match s.locCheck t { r := true } false (s.locate t 0 (BitVec.ofNat 64 a) 64 { r := true }) with
          | .ok =>
            match s.natAt th.launch (s.locate t 0 (BitVec.ofNat 64 (a + 0x10)) 4 { r := true }) with
            | none => .hold
            | some (v, _) =>
              let blocks := (bits v 14 0 + 7) / 8 * ((bits v 30 16 + 7) / 8)
              if !bit v 31 || decide (blocks ≤ (s.wordB t i).toNat) then .trap 1 i.word0 else .hold
          | c => c

/-- BLK.DCMP asks for the descriptor's translation, then queues its command once there is room (R213, R295). -/
def dcmpPrep (i : Ins) (t : Nat) (ts : List Nat) (s : State) : State :=
  match ts with
  | [] => s
  | _ :: _ =>
    match s.thread? t with
    | none => s
    | some th =>
      let a := s.srcVal t i .a
      if th.held != .none || a % 64 != 0 then s
      else
        match s.locate t 0 (BitVec.ofNat 64 a) 64 { r := true } with
        | .miss part va => s.askWalk t part va a { r := true } false
        | .parts _ =>
          if s.flumeRoom (s.homeOf t) && dcmpCheck i t s t == .hold then
            let (id, s) := s.pushCmd t ts (.dcmp a (s.wordB t i).toNat i.d) none
            s.modThread t fun th => { th with held := .unit id }
          else s
        | _ => s

/-- BLK.DCMP (R295): the old mode goes to D. -/
def dcmpSem : Sem :=
  { legal := flumeLegal, check := dcmpCheck, prep := dcmpPrep
    act := fun i lead ts s =>
      match (s.thread? lead).map Thread.held with
      | some (Held.record bs q) =>
        let s := s.modThread lead fun th => { th with held := .none }
        ts.foldl (fun s t => s.modThread t fun th => th.writeG i.d (BitVec.ofNat 32 (natOfBytes bs)) q) s
      | _ => s }

/-! ### The head of a ring -/

/-- Remove a ring's head; it counts as completed with a status (R218). -/
def State.endHead (s : State) (c r : Nat) (cmd : FlumeCmd) (st : W32) : State :=
  let s := s.setRing c r ((s.ring c r).drop 1)
  if cmd.left then s else s.noteStatus cmd.engine cmd.group (cmd.status ||| st) cmd.flags

/-- A thread that waits for its decompression, which the flume will not make, gets a poisoned mode (R92, R384). -/
def State.dropDcmp (s : State) (cmd : FlumeCmd) : State :=
  match cmd.kind with
  | .dcmp .. => s.modThread cmd.tid fun th =>
      { th with held := if th.held = Held.unit cmd.id then Held.record (bytesOfNat 4 0) true else th.held }
  | _ => s

/-! ### Beats -/

namespace State

/-- The stand of a cluster's flume. -/
def flumeStand (c : Nat) : Nat := c / 8

/-- The parts of a beat's range, with what stands in the way. -/
def beatParts (s : State) (c : Nat) (cmd : FlumeCmd) (va n : Nat) (need : Need) : LocRes :=
  s.locateVia (s.unitCached (flumeCache c)) cmd.part (.plist (flumeStand c)) 0 (BitVec.ofNat 64 va) n need

/-- The pieces of a window range, which may run on from one local memory into the next (R214). -/
def windowPieces (va n : Nat) : List (Nat × Nat) :=
  let room := localBytes - va % localBytes
  match regionOf va with
  | .loc _ | .scratch _ => if n ≤ room then [(va, n)] else [(va, room), (va + room, n - room)]
  | _ => [(va, n)]

/-- The parts of a range of a command. -/
def cmdParts (s : State) (c : Nat) (cmd : FlumeCmd) (va n : Nat) (need : Need) : LocRes :=
  joinLoc ((windowPieces va n).map fun p => s.beatParts c cmd p.1 p.2 need)

/-- What a running command serves next: the beats in order, then the pieces of those passed over (R73). -/
def beatNo (cmd : FlumeCmd) : Option Piece :=
  if cmd.done < cmd.kind.beats then some (cmd.kind.whole cmd.done) else cmd.again.head?

/-- What a command may serve now: the beats ahead, and the pieces of those passed over. -/
def beatsAhead (cmd : FlumeCmd) : List Piece :=
  (List.range (cmd.kind.beats - cmd.done)).map (fun k => cmd.kind.whole (cmd.done + k)) ++ cmd.again

/-- The source and destination ranges of a piece of a command. -/
def rangesAt (s : State) (c : Nat) (cmd : FlumeCmd) (n : Piece) : List (Nat × Nat × Need) :=
  match cmd.kind with
  | .dcmp pass block _ =>
    let desc : List (Nat × Nat × Need) := [(pass, 64, { r := true })]
    match s.blockAddrs c cmd pass block with
    | some (slot, mode, _, _) => desc ++ [(slot, 256, { r := true, w := true }), (mode, 1, { r := true, w := true })]
    | none => desc
  | k =>
    let b := k.piece n
    (b.src, b.n, { r := true }) :: b.dsts.map fun d => (d, b.m, { w := true })

/-- The source and destination ranges of a command's next beat. -/
def nextRanges (s : State) (c : Nat) (cmd : FlumeCmd) : List (Nat × Nat × Need) :=
  s.rangesAt c cmd ((beatNo cmd).getD (cmd.kind.whole cmd.done))

/-- Destination lines of a piece of a command, in device memory. -/
def beatLines (s : State) (c : Nat) (cmd : FlumeCmd) (n : Piece) : List Nat :=
  ((s.rangesAt c cmd n).filter fun r => r.2.2.w).flatMap fun r =>
    match s.cmdParts c cmd r.1 r.2.1 r.2.2 with
    | .parts ps => ps.filterMap fun p => match p.place with
      | .dram pa => some (pa / 64)
      | _ => none
    | _ => []

/-- Destination lines of the beats a command may serve now, in device memory. -/
def destLines (s : State) (c : Nat) (cmd : FlumeCmd) : List Nat := ((beatsAhead cmd).flatMap (s.beatLines c cmd)).eraseDups

/-- A command stands at a boundary between destination lines: no line that a beat has written is one that a piece still to be
served writes, pieces held by a fault aside (R220). -/
def cmdAtLine (s : State) (c : Nat) (cmd : FlumeCmd) : Bool :=
  !cmd.running || cmd.done = 0 ||
    (let left := s.destLines c cmd
     let served := (List.range cmd.done).filter fun k =>
       !(cmd.again.any fun p => p.beat == k) && !cmd.heldBeats.any fun h => h.1.beat == k
     (cmd.again.all fun p => p == cmd.kind.whole p.beat) &&
       served.all fun k => (s.beatLines c cmd (cmd.kind.whole k)).all fun l => !left.contains l)

/-- A command's launch is being pre-empted: it starts no more, and stops where a destination line ends (R220). -/
def cmdStops (s : State) (cmd : FlumeCmd) : Bool := (s.launch? cmd.launch).any fun l => l.phase == .preempting

/-- A command by its number: cluster, ring and the command. -/
def findCmd (s : State) (id : Nat) : Option (Nat × Nat × FlumeCmd) :=
  s.clusters.findSome? fun c => c.2.rings.findSome? fun r =>
    (r.2.find? fun x => x.id == id).map fun x => (c.1, r.1, x)

/-- Change a command by its number. -/
def modCmd (s : State) (id : Nat) (f : FlumeCmd → FlumeCmd) : State :=
  match s.findCmd id with
  | some (c, r, _) => s.setRing c r ((s.ring c r).map fun x => if x.id == id then f x else x)
  | none => s

/-- A line's bytes and poisoned words at its home. -/
def lineValue (s : State) (line : Nat) : List Byte × NatSet :=
  (s.mem.dram.read (64 * line) 64, ((List.range 16).map fun w => 16 * line + w).filter s.mem.dramPoison.has)

end State

/-- ENGINE_OWNERSHIP_GRANT (R91): a running command takes a destination line of its own at the line's home. -/
def execEngineOwnershipGrant (cmd line : Nat) (s : State) : Host.Outcome State Fault Refusal :=
  match s.findCmd cmd with
  | some (c, _, x) =>
    if x.running && !x.owned.has line && (s.destLines c x).contains line && s.lineFree line none &&
        (s.home line).queue.isEmpty then
      let s := s.modHome line fun h => { h with owner := some cmd, before := some (s.lineValue line), final := false }
      .next (s.modCmd cmd fun x => { x with owned := x.owned.add line })
    else .refused (.notDue "ENGINE_OWNERSHIP_GRANT")
  | none => .refused (.notDue "ENGINE_OWNERSHIP_GRANT")

/-- Give a line back to its home (R91). -/
def State.releaseLine (s : State) (line : Nat) : State :=
  s.modHome line fun h => { h with owner := none, before := none, final := false, recallAt := none }

/-- ENGINE_RECALL_COMPLETE (R91): the owner has written the line's final bytes and gives it back. -/
def execEngineRecallComplete (line : Nat) (s : State) : Host.Outcome State Fault Refusal :=
  let h := s.home line
  match h.owner with
  | some cmd =>
    if h.final then .next ((s.releaseLine line).modCmd cmd fun x => { x with owned := x.owned.remove line })
    else .refused (.notDue "ENGINE_RECALL_COMPLETE")
  | none => .refused (.notDue "ENGINE_RECALL_COMPLETE")

namespace State

/-- Whether a place may be touched by a command now: its line is the command's own where it is written, and no other
engine's where it is read; no migration holds it, and a route exists (R91, R367, R375). -/
def cmdMay (s : State) (cmd : FlumeCmd) (need : Need) (p : Part) : Bool :=
  let cruising := (s.cruiseOf cmd.launch).isSome
  !p.migHeld && (cmd.giveUp || !s.placeWaits cmd.part p.place) &&
    match p.place with
    | .dram pa =>
      let o := (s.home (pa / 64)).owner
      cruising || !s.rehoming (pa / 64) && (if need.w then o == some cmd.id else o.isNone || o == some cmd.id)
    | _ => true

/-- A place a command's access does not reach: a failed tier 2, a lost package, or one no route has reached for 50 µs (R365,
R375). -/
def cmdLost (s : State) (cmd : FlumeCmd) (p : Place) : Bool :=
  s.placeLost cmd.part p || (cmd.giveUp && s.placeWaits cmd.part p)

/-- A cluster's flume is fenced (R384, R385). -/
def flumeFenced (s : State) (c : Nat) : Bool := s.pkg.fences.has (7 * 2 ^ 24 + c)

/-- Whether a head command can run its next beat (R219, R220): its parts stand open, and the records of what it finds lost or
uncorrectable have room (R359, R371). -/
def canRun (s : State) (c : Nat) (cmd : FlumeCmd) : Bool :=
  cmd.running && !s.flumeFenced c && (beatNo cmd).isSome && !(s.cmdStops cmd && s.cmdAtLine c cmd) &&
    (s.nextRanges c cmd).all fun r =>
      match s.cmdParts c cmd r.1 r.2.1 r.2.2 with
      | .parts ps => (ps.all fun p => s.placeLost cmd.part p.place || s.cmdMay cmd r.2.2 p) && s.readsFit ps &&
          (s.faultRoom (standDie (flumeStand c)) 32 || !ps.any fun p => s.cmdLost cmd p.place)
      | _ => false

/-- Bytes a command reads, with the poison of each; a failed tier 2 gives poison (R365). -/
def cmdRead (s : State) (cmd : FlumeCmd) (ps : List Part) : List Byte × List Bool :=
  ps.foldl (fun (acc : List Byte × List Bool) p =>
    let (bs, qs) := s.viewPart cmd.launch p
    let qs := if s.cmdLost cmd p.place then qs.map fun _ => true else qs
    (acc.1 ++ bs, acc.2 ++ qs)) ([], [])

/-- The home a command's fault records name: that of the group that issued it (R217, R360). -/
def cmdHome (cmd : FlumeCmd) : Home :=
  if isWaveKey cmd.engine then .wave (waveOf cmd.engine) cmd.group 0 else .scalar cmd.engine cmd.group

/-- Report a lost access of a command (R217, R361, R365, R375); an unclaimed cruise leaves no record (R346). -/
def cmdReport (s : State) (cmd : FlumeCmd) (kind : Nat) (p : Place) : State :=
  if s.unclaimed cmd.launch then s
  else s.reportFault cmd.part (standDie (cmdHome cmd).originFields.1) (unitRecord 2 (cmdHome cmd) (s.launchId cmd.launch) kind p cmd.pc)

/-- Store bytes of a command at one part (R217): a failed tier 2 drops them, a cruise keeps them in its shadow (R344). -/
def cmdWrite (s : State) (c : Nat) (cmd : FlumeCmd) (p : Part) (bs : List Byte) (qs : List Bool) : State :=
  if s.cmdLost cmd p.place && (s.cruiseOf cmd.launch).isNone then
    ((s.countDropped cmd.launch p.place).cmdReport cmd 0x11 p.place).modCmd cmd.id fun x => { x with status := x.status ||| 4 }
  else
    let s := if qs.any id then s.modCmd cmd.id fun x => { x with status := x.status ||| 2 } else s
    match s.cruiseOf cmd.launch, p.place with
    | _, .loc key => (s.writePlace (.loc key) 0 bs qs).traceArrival
        (s.unitSource (flumeStand c)) key bs.length false (natOfBytes (bs.take 4))
    | some k, .dram pa => (s.cruiseWrite k ((List.range bs.length).zip bs |>.map fun b => (pa + b.1, b.2)) none
        (((List.range qs.length).zip qs).filterMap fun q => if q.2 then some (pa + q.1) else none)).noteKeys none (some k)
        [(pa / 64, p.key)]
    | some k, _ => { s with cruises := s.cruises.mod k fun x => x.cause 8 }
    | none, pl => s.writePlace pl p.key bs qs

/-- Store bytes over the parts of a destination range. -/
def cmdWrites (s : State) (c : Nat) (cmd : FlumeCmd) : List Part → List Byte → List Bool → State
  | [], _, _ => s
  | p :: r, bs, qs => (s.cmdWrite c cmd p (bs.take p.n) (qs.take p.n)).cmdWrites c cmd r (bs.drop p.n) (qs.drop p.n)

/-- The parts of a range known to resolve. -/
def partsOf (r : LocRes) : List Part :=
  match r with
  | .parts ps => ps
  | _ => []

/-- The bytes a beat stores, with their poison and the flags of a conversion (R214, R216). -/
def beatBytes (s : State) (c : Nat) (cmd : FlumeCmd) (b : Beat) (dst : Nat) : List Byte × List Bool × FFlags :=
  let (bs, qs) := s.cmdRead cmd (partsOf (s.cmdParts c cmd b.src b.n { r := true }))
  match b.cvt with
  | none => (bs, qs, {})
  | some (sf, df, e) =>
    let v := natOfBytes bs
    let conv := (List.range e).map fun j =>
      let raw := laneOf (packBits sf) v j
      let bad := qs.getD (j * packBits sf / 8) false
      let (r, fl) := roundVal df 1 0 (decodeVal sf (elemOf sf raw))
      (r, bad, fl)
    let w := packBits df
    let out := ((List.range e).zip conv).foldl (fun n p => n + p.2.1 * 2 ^ (w * p.1)) 0
    -- An odd count of 4-bit elements leaves the high nibble of the last byte as it is (R216).
    let old := (s.cmdRead cmd (partsOf (s.cmdParts c cmd (dst + b.m - 1) 1 { w := true }))).1.headD 0
    let out := if w = 4 ∧ e % 2 = 1 then out + old.toNat / 16 * 2 ^ (4 * e) else out
    let bad := (List.range b.m).map fun k =>
      (List.range e).any fun j => ((conv.getD j (0, false, {})).2.1) && j * w / 8 ≤ k && k ≤ (j * w + w - 1) / 8
    (bytesOfNat b.m out, bad, conv.foldl (fun f p => f.or p.2.2) {})

/-- Decompress a block in place (R294, R295): all words and the mode byte as one step. The old mode goes to the issuing
thread. -/
def dcmpBeat (s : State) (c : Nat) (cmd : FlumeCmd) (pass block : Nat) : State :=
  match s.blockAddrs c cmd pass block with
  | none => s
  | some (slot, mode, clear, cq) =>
    let need : Need := { r := true, w := true }
    let (ms, mq) := s.cmdRead cmd (partsOf (s.cmdParts c cmd mode 1 need))
    let (bs, qs) := s.cmdRead cmd (partsOf (s.cmdParts c cmd slot 256 need))
    let old := (ms.headD 0).toNat
    let sl : BlockSlot := { bytes := bs.map BitVec.toNat, poison := (List.range 64).map fun w => qs.getD (4 * w) false }
    let px := decodeBlock old (mq.headD false) (clear, cq) sl
    let s := if blockMode old = 0 && !(mq.headD false) then s
      else
        let s := s.cmdWrites c cmd (partsOf (s.cmdParts c cmd slot 256 need)) (px.flatMap fun p => bytesOfNat 4 p.1)
          (px.flatMap fun p => List.replicate 4 p.2)
        s.cmdWrites c cmd (partsOf (s.cmdParts c cmd mode 1 need)) [0] [false]
    s.modThread cmd.tid fun th => { th with held := .record (bytesOfNat 4 (blockMode old)) (mq.headD false) }

/-- Lines a command has written for the last time: owned, and no longer among those it still has to write. -/
def finishLines (s : State) (c id : Nat) : State :=
  match s.findCmd id with
  | none => s
  | some (_, _, cmd) =>
    let left := s.destLines c cmd ++ cmd.heldBeats.flatMap fun h => s.beatLines c cmd h.1
    cmd.owned.foldl (fun s l => if left.contains l then s else s.modHome l fun h => { h with final := true }) s

/-- A command's next beat has been served or is passed over. -/
def takeBeat (cmd : FlumeCmd) : FlumeCmd :=
  if cmd.done < cmd.kind.beats then { cmd with done := cmd.done + 1 } else { cmd with again := cmd.again.drop 1 }

/-- The parts a command's next beat reads. -/
def beatReads (s : State) (c : Nat) (cmd : FlumeCmd) : List Part :=
  ((s.nextRanges c cmd).filter fun r => r.2.2.r).flatMap fun r => partsOf (s.cmdParts c cmd r.1 r.2.1 r.2.2)

/-- What a beat's reads leave: the errors found in their lines, and a record of each that is lost (R365, R380, R381). -/
def noteBeat (s : State) (c : Nat) (cmd : FlumeCmd) : State :=
  let read := s.beatReads c cmd
  let lost := read.filter fun p => s.cmdLost cmd p.place
  (lost.foldl (fun (s : State) p => s.cmdReport cmd 0x12 p.place) (s.noteReads cmd.part (read.filter fun p => !lost.contains p) (some (unitNo 7 c))))

/-- One beat of a head command (R214-R219). -/
def doBeat (s : State) (c : Nat) (cmd : FlumeCmd) : State :=
  let read := s.beatReads c cmd
  let s := match cmd.kind with
    | .dcmp pass block _ => s.dcmpBeat c cmd pass block
    | k =>
      let b := k.piece ((beatNo cmd).getD (k.whole cmd.done))
      let (bs, qs, fl) := s.beatBytes c cmd b (b.dsts.headD 0)
      let s := s.modCmd cmd.id fun x => { x with flags := x.flags ||| fl.toW32 }
      b.dsts.foldl (fun s d => s.cmdWrites c cmd (partsOf (s.cmdParts c cmd d b.m { w := true })) bs qs) s
  let s := (s.noteBeat c cmd).noteEngineRead cmd.launch read
  let s := (s.modCmd cmd.id takeBeat).finishLines c cmd.id
  s.countEvent cmd.engine 0x31 1

/-- What a command serves next is held by a fault record where it touches the faulting address's 4 KiB; its other pieces and the
beats after it go on (R73, R217). The lines it owns stay its own until they have their final bytes (R91). -/
def holdBeat (s : State) (cmd : FlumeCmd) (key addr : Nat) : State :=
  let n := (beatNo cmd).getD (cmd.kind.whole cmd.done)
  let all := ((cmd.kind.beat n.beat).cut n.lo (n.hi - n.lo)).map fun p => { n with lo := p.1, hi := p.2 }
  let bad := all.filter fun p => (cmd.kind.piece p).frames.contains (addr / 4096)
  let held := if bad.isEmpty then [n] else bad
  let free := if bad.isEmpty then [] else all.filter fun p => !bad.contains p
  let next := takeBeat cmd
  s.modCmd cmd.id fun _ => { next with heldBeats := next.heldBeats ++ held.map fun p => (p, key), again := next.again ++ free }

/-- A fault of a command's next beat: one record for each faulting page (R73, R217, R361). -/
def cmdFault (s : State) (cmd : FlumeCmd) (write : Bool) (kind page addr : Nat) (pasid : Option Nat) (auto : Bool := false)
    (prg : Option Nat := none) : State :=
  if s.unclaimed cmd.launch then s.fatalLaunch cmd.launch { cause := 5 } else
  let (st, wv, sl) := (cmdHome cmd).originFields
  let r : FRec :=
    { seq := 0, kind := kind, source := 2, write := write, page := page, addr := addr
      launch := s.launchId cmd.launch, pasid := pasid, stand := st, wave := wv, slot := sl
      pc := cmd.pc, auto := auto, prg := prg }
  match cmd.heldBeats.find? fun b => (s.recs.get? b.2).any fun p => p.fr.page == page with
  | some b => s.holdBeat cmd b.2 addr
  | none =>
    let (key, s) := s.raiseFault cmd.part (standDie st) r (.flume cmd.id)
    s.holdBeat cmd key addr

/-- What a held head still needs: a translation, a route, or a record for a fault (R217, R375, R402). -/
def nudge (s : State) (c : Nat) (cmd : FlumeCmd) : State :=
  if !cmd.running || (beatNo cmd).isNone then s else
  match (s.nextRanges c cmd).findSome? fun r =>
      match s.cmdParts c cmd r.1 r.2.1 r.2.2 with
      | .parts ps => if ps.any fun p => s.placeWaits cmd.part p.place then some (.wait, r) else none
      | e => some (e, r) with
  | some (.wait, _) => s.modCmd cmd.id fun x => { x with waitFrom := some (x.waitFrom.getD s.gtc) }
  | some (.miss part va, r) => s.askUnit (.flume cmd.id) (flumeStand c) part va r.1 r.2.2
  | some (.park kind page addr pasid, r) =>
    if s.faultRoom (standDie (flumeStand c)) then s.cmdFault cmd r.2.2.w kind page addr pasid else s
  | _ => s

/-- The priority a command counts with: its launch's, of an unclaimed cruise the lowest (R219, R344). -/
def cmdPriority (s : State) (cmd : FlumeCmd) : Nat := if s.unclaimed cmd.launch then 0 else cmd.priority

/-- The ring a flume serves next (R219): the one in turn while its deficit lasts, else the next whose head can run, whose
deficit grows by 4 x (priority + 1); rings passed over lose theirs. -/
def nextRing (s : State) (c : Nat) : Option (Nat × Nat) :=
  let x := s.cluster c
  let runs (r : Nat) : Bool := (s.ring c r).head?.any fun cmd => s.canRun c cmd
  if runs x.turn && decide (1 ≤ x.deficit.getD x.turn 0) then some (x.turn, x.deficit.getD x.turn 0)
  else
    let order := (List.range 17).map fun k => (x.turn + 1 + k) % 17
    (order.find? runs).map fun r =>
      (r, x.deficit.getD r 0 + 4 * (((s.ring c r).head?.elim 0 s.cmdPriority) + 1))

end State

/-- FLUME_COMMAND_AT_HEAD (R82, R222): the head of a ring leaves its place and runs once its guard slot is true and the
writes before its issue are complete for package scope; a false slot discards it, and a fenced flume ends it with status
agent-fenced (R384). A head that runs and cannot go on asks for what it needs, whatever the other rings do. -/
def execFlumeCommandAtHead (cluster ring : Nat) (s : State) : Host.Outcome State Fault Refusal :=
  match s.ring cluster ring with
  | [] => .refused (.notDue "FLUME_COMMAND_AT_HEAD")
  | cmd :: rest =>
    if s.flumeFenced cluster then .next ((s.dropDcmp cmd).endHead cluster ring cmd 1)
    else if cmd.running then
      if (State.beatNo cmd).isSome && !s.canRun cluster cmd then .next (s.nudge cluster cmd)
      else .refused (.notDue "FLUME_COMMAND_AT_HEAD")
    else
      let run : Host.Outcome State Fault Refusal :=
        if !s.cmdStops cmd && cmd.threads.all fun t => s.writesDone t cmd.id 5 then
          .next (s.setRing cluster ring ({ cmd with running := true, guard := none } :: rest))
        else .refused (.notDue "FLUME_COMMAND_AT_HEAD")
      match cmd.guard with
      | none => run
      | some g =>
        if 16 ≤ g then .next (s.endHead cluster ring cmd 8)
        else
          match (s.guards cmd.engine cmd.group).get? g with
          | some true => run
          | some false => .next (s.endHead cluster ring cmd 8)
          | none => .refused (.notDue "FLUME_COMMAND_AT_HEAD")

/-- FLUME_BEAT_SERVICE (R219): a cluster's flume serves one beat of the ring in turn; a ring whose head cannot run loses its
deficit. With no head able to run, the heads ask for the translations they need or report their faults. -/
def execFlumeBeatService (cluster : Nat) (s : State) : Host.Outcome State Fault Refusal :=
  match s.nextRing cluster with
  | some (r, d) =>
    match s.ring cluster r with
    | cmd :: _ =>
      let s := s.doBeat cluster cmd
      .next (s.modCluster cluster fun x =>
        let idle := (List.range 17).filter fun k => k != r && !(s.ring cluster k).head?.any fun h => s.canRun cluster h
        { x with turn := r, deficit := (idle.foldl (fun (t : Table Nat) k => t.del k) x.deficit).setD r 0 (d - 1) })
    | [] => .refused (.notDue "FLUME_BEAT_SERVICE")
  | none =>
    if (s.cluster cluster).rings.any fun r => r.2.head?.any fun h => h.running && (State.beatNo h).isSome then
      .next (((s.cluster cluster).rings.foldl (fun s r => match r.2.head? with
        | some h => s.nudge cluster h
        | none => s) s).modCluster cluster fun x => { x with deficit := [] })
    else .refused (.notDue "FLUME_BEAT_SERVICE")

/-- FLUME_COMMAND_COMPLETE (R82, R218): a head command that has made its last beat leaves the ring, and its lines go back
to their homes; a beat held by a fault holds it (R73). -/
def execFlumeCommandComplete (cluster ring : Nat) (s : State) : Host.Outcome State Fault Refusal :=
  match s.ring cluster ring with
  | cmd :: _ =>
    if cmd.running && decide (cmd.kind.beats ≤ cmd.done) && cmd.heldBeats.isEmpty && cmd.again.isEmpty then
      .next (cmd.owned.foldl (fun s l => s.releaseLine l) (s.endHead cluster ring cmd 0))
    else .refused (.notDue "FLUME_COMMAND_COMPLETE")
  | [] => .refused (.notDue "FLUME_COMMAND_COMPLETE")

/-- FLUME.COPY (R214). -/
def execFlumeCopy (w : X96) (s : State) : Host.Outcome State Fault Refusal := issue flumeSem (w.ins .flumeCopy) s

/-- FLUME.TILE (R215). -/
def execFlumeTile (w : X96) (s : State) : Host.Outcome State Fault Refusal := issue flumeSem (w.ins .flumeTile) s

/-- FLUME.WAIT (R218). -/
def execFlumeWait (w : X96) (s : State) : Host.Outcome State Fault Refusal := issue flumeWaitSem (w.ins .flumeWait) s

/-- FLUME.CVT (R216). -/
def execFlumeCvt (w : X96) (s : State) : Host.Outcome State Fault Refusal := issue flumeSem (w.ins .flumeCvt) s

/-- GSET (R221). -/
def execGset (w : X96) (s : State) : Host.Outcome State Fault Refusal := issue gsetSem (w.ins .gset) s

/-- GCLR (R221). -/
def execGclr (w : X96) (s : State) : Host.Outcome State Fault Refusal := issue gclrSem (w.ins .gclr) s

/-- BLK.DCMP (R295). -/
def execBlkDcmp (w : X96) (s : State) : Host.Outcome State Fault Refusal := issue dcmpSem (w.ins .blkDcmp) s

end Sys2Proof.Machine
end

