-- ==== Sys2Proof/Machine/Graphics.lean ====
section
/-!
DEFINITION. Rendering (12 R284-R293, R405): emission and binning, visibility, shading, write-back, and texture requests.
-/

namespace Sys2Proof.Machine

/-! ### The render pass descriptor -/

namespace LaunchRec

/-- A field of the render pass descriptor (R284). -/
def psd (r : LaunchRec) (off n : Nat) : Nat := fieldOf r.passDesc off n
/-- WIDTH. -/
def passWidth (r : LaunchRec) : Nat := bits (r.psd 0x10 4) 14 0
/-- HEIGHT. -/
def passHeight (r : LaunchRec) : Nat := bits (r.psd 0x10 4) 30 16
/-- COMP. -/
def passComp (r : LaunchRec) : Bool := bit (r.psd 0x10 4) 31
/-- CLEAR. -/
def passClear (r : LaunchRec) : Nat := r.psd 0x18 4
/-- CLEARZ. -/
def passClearZ (r : LaunchRec) : W32 := BitVec.ofNat 32 (r.psd 0x1C 4)
/-- SHADE. -/
def passShade (r : LaunchRec) : Nat := bits (r.psd 0x20 4) 11 0
/-- CLOSES. -/
def passCloses (r : LaunchRec) : Nat := r.psd 0x22 2
/-- BINS. -/
def passBins (r : LaunchRec) : Nat := r.psd 0x28 8
/-- BINBLK. -/
def passBinBlk (r : LaunchRec) : Nat := r.psd 0x30 4
/-- Tiles in a row of the target (R286). -/
def tilesX (r : LaunchRec) : Nat := (r.passWidth + 31) / 32
/-- Rows of tiles. -/
def tilesY (r : LaunchRec) : Nat := (r.passHeight + 31) / 32
/-- The die that owns a tile (R286). -/
def tileDie (r : LaunchRec) (tile : Nat) : Nat := (tile % r.tilesX + tile / r.tilesX) % 4
/-- Whether a die owns a tile of the pass. -/
def diePasses (r : LaunchRec) (die : Nat) : Bool := decide (die + 2 ≤ r.tilesX + r.tilesY)

end LaunchRec

/-- The key of a tile of a launch's pass. -/
def tileKey (l tile : Nat) : Nat := l * 2 ^ 32 + tile

/-! ### Primitives -/

/-- The three vertices of a primitive, x, y and z each times 2^149; none when one is a NaN or infinite (R285). -/
def primVerts (p : List Byte) : Option ((Int × Int × Int) × (Int × Int × Int) × (Int × Int × Int)) :=
  match vec149 p 0, vec149 p 0xC, vec149 p 0x18 with
  | some a, some b, some c => some (a, b, c)
  | _, _, _ => none

/-- The area of a primitive (R287), times 2^298. -/
def primArea (v0 v1 v2 : Int × Int × Int) : Int :=
  (v1.1 - v0.1) * (v2.2.1 - v0.2.1) - (v2.1 - v0.1) * (v1.2.1 - v0.2.1)

/-- Whether a primitive is discarded whatever die it reaches (R285). -/
def primDiscarded (p : List Byte) : Bool :=
  match primVerts p with
  | none => true
  | some (v0, v1, v2) =>
    let d := primArea v0 v1 v2
    let f := fieldOf p 0x28 4
    fieldOf p 0x24 4 == 0xFFFFFFFF || d == 0 || (bit f 0 && decide (d < 0)) || (bit f 1 && decide (0 < d))

/-- Whether a reserved field of a primitive record is nonzero (R285). -/
def primReserved (p : List Byte) : Bool := bits (fieldOf p 0x28 4) 31 2 != 0 || fieldOf p 0x2C 4 != 0 || fieldOf p 0x38 8 != 0

/-- The least and greatest of three numbers. -/
def span3 (a b c : Int) : Int × Int := (min a (min b c), max a (max b c))

/-- Tile coordinates a span of one axis meets, within the target (R286). -/
def tileSpan (lo hi : Int) (tiles : Nat) : List Nat :=
  let unit : Int := 32 * (2 ^ 149 : Nat)
  let a := max 0 (lo / unit)
  let b := min ((tiles : Int) - 1) (hi / unit)
  if b < a then [] else (List.range ((b - a).toNat + 1)).map fun k => a.toNat + k

/-- The tiles a primitive is binned into (R286). -/
def primTiles (r : LaunchRec) (p : List Byte) : List Nat :=
  match primVerts p with
  | none => []
  | some (v0, v1, v2) =>
    let (x0, x1) := span3 v0.1 v1.1 v2.1
    let (y0, y1) := span3 v0.2.1 v1.2.1 v2.2.1
    (tileSpan y0 y1 r.tilesY).flatMap fun ty => (tileSpan x0 x1 r.tilesX).map fun tx => ty * r.tilesX + tx

/-! ### Bins -/

namespace State

/-- The entries of a tile's bin on its die. -/
def bin (s : State) (die l tile : Nat) : List BinEntry := (s.die die).bins.getD (tileKey l tile) []

/-- Bin entries a die holds on chip, for every render launch together (R286). -/
def binsOnChip (s : State) (die : Nat) : Nat :=
  (s.die die).bins.foldl (fun n e => n + (e.2.filter fun b => b.spill.isNone).length) 0

/-- Places of the pool of a pass that entries hold on a die. -/
def binSpills (s : State) (die l : Nat) : List Nat :=
  ((s.die die).bins.filter fun k _ => k / 2 ^ 32 == l).flatMap fun e => e.2.filterMap (·.spill)

/-- The address of a block of a pass's pool on a die. -/
def binBlock (s : State) (die l b : Nat) : Nat := (s.lrec l).passBins + 4096 * (die * (s.lrec l).passBinBlk + b)

/-- The header of a pool block: the next block that holds entries, and the count of its own. -/
def binHeader (s : State) (die l b : Nat) : List Byte :=
  let used := s.binSpills die l
  let later := (used.map (· / 63)).filter fun k => decide (b < k)
  let next := match later with
    | [] => 0
    | k :: r => s.binBlock die l (r.foldl min k)
  bytesOfNat 8 next ++ bytesOfNat 4 (used.filter fun k => k / 63 == b).length ++ bytesOfNat 52 0

/-- The headers a change of a block rewrites: its own and its predecessor's. -/
def binHeaders (s : State) (die l b : Nat) : List (Nat × List Byte) :=
  let before := ((s.binSpills die l).map (· / 63)).filter fun k => decide (k < b)
  let bs := match before with
    | [] => [b]
    | k :: r => [r.foldl max k, b]
  bs.map fun k => (s.binBlock die l k, s.binHeader die l k)

/-- Replace a tile's bin. -/
def setBin (s : State) (die l tile : Nat) (es : List BinEntry) : State :=
  s.modDie die fun d => { d with bins := d.bins.setD (tileKey l tile) [] es }

/-- The lowest free place of a pass's pool on a die. -/
def binFree (s : State) (die l : Nat) : Option Nat :=
  let used := s.binSpills die l
  (List.range (min (used.length + 1) (63 * (s.lrec l).passBinBlk))).find? fun k => !used.contains k

/-- The launches of the primitives that arrived before the one of this order and still have copies to place on a die (R286). -/
def binsAhead (s : State) (die order : Nat) : List Nat :=
  s.threads.filterMap fun e => match e.2.held with
    | .placing _ tiles _ o =>
      if decide (o < order) && tiles.any fun t => (s.lrec e.2.launch).tileDie t == die then some e.2.launch else none
    | _ => none

/-- Put a copy of a primitive into a tile's bin: on chip while a place is free, else in the pass's pool, else nowhere
yet; a primitive that arrived earlier and waits comes first (R286). With the writes to the pool this makes. -/
def binCopy (s : State) (l tile order : Nat) (p : List Byte) : Option (State × List (Nat × List Byte)) :=
  let die := (s.lrec l).tileDie tile
  let es := s.bin die l tile
  let ahead := s.binsAhead die order
  if ahead.isEmpty && decide (s.binsOnChip die < 4096) then some (s.setBin die l tile (es ++ [{ bytes := p, spill := none }]), [])
  else if ahead.contains l then none
  else (s.binFree die l).map fun k =>
    let s := s.setBin die l tile (es ++ [{ bytes := p, spill := some k }])
    (s, (s.binBlock die l (k / 63) + 64 * (k % 63 + 1), p) :: s.binHeaders die l (k / 63))

/-- Whether a die has counted all closes of a pass. -/
def closed (s : State) (die l : Nat) : Bool := decide ((s.lrec l).passCloses ≤ (s.die die).closes.getD l 0)

/-- Whether DROPPED can be written now. -/
def dropStuck (s : State) (l stand : Nat) : Option (LocRes × Need) :=
  s.driveStuck l stand [((s.lrec l).pass + 0x38, 8, { r := true, w := true })]

/-- Add to DROPPED (R285). -/
def addDropped (s : State) (l stand : Nat) : State :=
  let va := (s.lrec l).pass + 0x38
  (s.driveNote l stand [(va, 8)]).driveWrite l stand [(va, bytesOfNat 8 (natOfBytes (s.driveRead l stand va 8).1 + 1))]

/-- Of the tiles of a primitive that arrives, those whose dies have counted their closes already (R285). -/
def lateTiles (s : State) (l : Nat) (tiles : List Nat) : List Nat := tiles.filter fun t => s.closed ((s.lrec l).tileDie t) l

/-- Place the copies of a primitive that has been taken, tile by tile (R286): the tiles left for lack of room, and the first
access to the pool that cannot be made now. -/
def placeCopies (s : State) (l stand order : Nat) (p : List Byte) : List Nat → State × List Nat × Option (LocRes × Need)
  | [] => (s, [], none)
  | t :: r =>
    let leave (e : Option (LocRes × Need)) : State × List Nat × Option (LocRes × Need) :=
      let (s, left, e') := s.placeCopies l stand order p r
      (s, t :: left, e.or e')
    match s.binCopy l t order p with
    | none => leave none
    | some (s', ws) =>
      match s.driveStuck l stand (writeNeeds ws) with
      | none => (s'.driveWrite l stand ws).placeCopies l stand order p r
      | some e => leave (some e)

end State

/-! ### PRIM.EMIT -/

/-- Who may emit: a launch with a render pass, outside tasks and shading threads, before its close (R285). -/
def primLegal (_ : Ins) (s : State) (t : Nat) : Bool :=
  match s.thread? t with
  | some th => th.taskOf.isNone && !th.isShading && !th.closed && (s.lrec th.launch).pass != 0
  | none => false

/-- The checks of the emit form for one thread (R285). -/
def primCheck (i : Ins) (s : State) (t : Nat) : Check :=
  match s.thread? t with
  | none => .ok
  | some th =>
    match th.held with
    | .granted => .ok
    | .record p bad =>
      if bad then .trap 4 (BitVec.ofNat 32 (i.a + 256)) else if primReserved p then .trap 1 i.word0 else .hold
    | .none =>
      let ea := s.memEa t i
      if ea.toNat % 64 ≠ 0 then .trap 1 i.word0
      else
        match s.locCheck t { r := true } false (s.locate t 0 ea 64 { r := true }) with
        | .ok => .hold
        | c => c
    | _ => .hold

namespace State

/-- Place what a primitive still has to place; it is accepted when its last copy is placed, which ends its wait where it was `held`
for room (R51, R286). -/
def placeHeld (s : State) (t : Nat) (th : Thread) (p : List Byte) (tiles : List Nat) (late : Bool) (order : Nat) (held : Bool) : State :=
  let stand := (s.homeOf t).stand
  let (s, left, e) := s.placeCopies th.launch stand order p tiles
  let s := s.setHeld t (if left.isEmpty then .granted else .placing p left late order)
  let s := match e with
    | some e => s.driveFault th.launch (standDie stand) stand e
    | none => s
  s.syncWatch th.launch th.wg (held && left.isEmpty)

/-- A primitive arrives (R285, R286): it is discarded, or what of it is not late is taken; either is counted in DROPPED at once,
and waits until it can be. -/
def primArrives (s : State) (t : Nat) (th : Thread) (p : List Byte) : State :=
  let stand := (s.homeOf t).stand
  let (n, s) := s.fresh
  let tiles := if primDiscarded p then [] else primTiles (s.lrec th.launch) p
  let late := s.lateTiles th.launch tiles
  if primDiscarded p || !late.isEmpty then
    match s.dropStuck th.launch stand with
    | some e => s.driveFault th.launch (standDie stand) stand e
    | none => (s.addDropped th.launch stand).placeHeld t th p (tiles.filter fun x => !late.contains x) true n false
  else s.placeHeld t th p tiles false n false

/-- What PRIM.EMIT sets going for one thread. -/
def primPrep (i : Ins) (s : State) (t : Nat) : State :=
  match s.thread? t with
  | none => s
  | some th =>
    if primCheck i s t != .hold then s
    else
      match th.held with
      | .none => s.readRecord i t
      | .record p _ => s.primArrives t th p
      | .placing p tiles late order => s.placeHeld t th p tiles late order true
      | _ => s

end State

/-- PRIM.EMIT (R285, R286). -/
def primEmitSem : Sem :=
  { legal := primLegal
    prep := fun i _ ts s => ts.foldl (State.primPrep i) s
    check := fun i _ s t => primCheck i s t
    act := fun _ _ ts s => ts.foldl (fun s t => s.setHeld t .none) s }

/-- Whether the last of so many closes that reach the dies now is beyond CLOSES at one of them (R285). -/
def State.lateClose (s : State) (l : Nat) (n : Nat := 1) : Bool :=
  (List.range 4).any fun d => decide ((s.lrec l).passCloses < (s.die d).closes.getD l 0 + n)

/-- The closes that an instruction makes: one for each of its threads that may emit (R285). -/
def State.closesNow (s : State) (i : Ins) : Nat :=
  (s.run?.elim [] fun r => (s.activeSet r i).filter (primLegal i s)).length

/-- One close reaches every die; one beyond CLOSES is ignored and counted in DROPPED (R285, R286). -/
def State.close (s : State) (t : Nat) : State :=
  match s.thread? t with
  | none => s
  | some th =>
    let l := th.launch
    let late := s.lateClose l
    let s := (List.range 4).foldl (fun s d =>
      if s.closed d l then s else s.modDie d fun x => { x with closes := x.closes.put l (x.closes.getD l 0 + 1) }) s
    let s := if late then s.addDropped l (s.homeOf t).stand else s
    s.modThread t fun th => { th with closed := true }

/-- PRIM.EMIT.close (R285); a late one waits until DROPPED can be written. -/
def primCloseSem : Sem :=
  { legal := primLegal
    prep := fun i _ ts s => ts.foldl (fun s t =>
      match s.thread? t with
      | some th =>
        if !s.lateClose th.launch (s.closesNow i) then s
        else match s.dropStuck th.launch (s.homeOf t).stand with
          | some e => s.driveFault th.launch (s.dieOf t) (s.homeOf t).stand e
          | none => s
      | none => s) s
    check := fun i _ s t =>
      match s.thread? t with
      | some th =>
        if s.lateClose th.launch (s.closesNow i) && (s.dropStuck th.launch (s.homeOf t).stand).isSome then .hold
        else .ok
      | none => .ok
    act := fun _ _ ts s => ts.foldl State.close s }

/-! ### VIS.READ -/

/-- VIS.READ (R291). -/
def visReadSem : Sem :=
  { legal := fun _ s t => (s.thread? t).any Thread.isShading
    check := fun i _ s t =>
      let b := (s.wordB t i).toNat
      if bits b 15 5 ≠ 0 ∨ bits b 31 21 ≠ 0 then .trap 1 i.word0 else .ok
    act := fun i _ ts s => ts.foldl (fun s t =>
      match s.thread? t with
      | none => s
      | some th =>
        match th.role with
        | .shading tile _ _ =>
          let b := (s.wordB t i).toNat
          let e := (s.tiles.get? (tileKey th.launch tile)).bind fun p => p.vis.get? (bits b 20 16 * 32 + bits b 4 0)
          let ws : List W32 := match e with
            | some v => [v.prim, v.depth, v.u, v.v]
            | none => [0xFFFFFFFF#32, (s.lrec th.launch).passClearZ, 0, 0]
          s.modThread t fun th => th.writeGs i.d ws
        | _ => s) s }

/-! ### TEX.REQ -/

/-- TEX.REQ's checks: b's reserved bits, then the run is held until the reply core has granted a place (R293). -/
def texCheck (i : Ins) (s : State) (t : Nat) : Check :=
  if 4096 ≤ (s.wordB t i).toNat then .trap 1 i.word0
  else match (s.thread? t).map Thread.held with
    | some .granted => .ok
    | _ => .hold

namespace State

/-- A texture request asks its reference core for the place of its reply, once its writes are complete (R293). -/
def texPrep (i : Ins) (s : State) (t : Nat) : State :=
  match s.thread? t with
  | none => s
  | some th =>
    if th.held != .none || texCheck i s t != .hold || !s.writesDone t s.nextId 5 then s
    else
      let (id, s) := s.fresh
      let core := (s.homeOf t).refCore
      let m : Msg :=
        { core := core, index := (s.wordB t i).toNat, part := th.part, launch := th.launch, wg := th.wg, srcCore := core
          srcPkg := s.pkgId, sender := t, seq := id, unfilled := true }
      let c := s.srcVal t i .c
      let q : TexReq :=
        { tid := t, part := th.part, launch := th.launch, wg := th.wg, core := core, index := (s.wordB t i).toNat, msg := id
          descAddr := s.srcVal t i .a, u := BitVec.ofNat 32 c, v := BitVec.ofNat 32 (c / 2 ^ 32)
          lod := BitVec.ofNat 32 (c / 2 ^ 64), stateAddr := s.srcVal t i .x, pc := th.pc }
      ({ s with outbound := s.outbound.put t m, texReqs := s.texReqs.put id q }).setHeld t (.asking id none)

end State

/-- TEX.REQ (R293): in a task it is illegal. -/
def texReqSem : Sem :=
  { legal := fun _ s t => ((s.thread? t).bind (·.taskOf)).isNone
    prep := fun i _ ts s => ts.foldl (State.texPrep i) s
    check := fun i _ s t => texCheck i s t
    act := fun _ _ ts s => ts.foldl (fun s t => s.setHeld t .none) s }

/-- PRIM.EMIT (R285). -/
def execPrimEmit (w : X96) (s : State) : Host.Outcome State Fault Refusal := issue primEmitSem (w.ins .primEmit) s

/-- PRIM.EMIT.CLOSE (R285). -/
def execPrimEmitClose (w : X96) (s : State) : Host.Outcome State Fault Refusal := issue primCloseSem (w.ins .primEmitClose) s

/-- VIS.READ (R291). -/
def execVisRead (w : X96) (s : State) : Host.Outcome State Fault Refusal := issue visReadSem (w.ins .visRead) s

/-- TEX.REQ (R293). -/
def execTexReq (w : X96) (s : State) : Host.Outcome State Fault Refusal := issue texReqSem (w.ins .texReq) s

/-! ### Rasterising -/

/-- The coefficients of the edge function of an edge from p to q, times 2^149 and 2^298 (R287). -/
def edgeOf (sg : Int) (p q : Int × Int × Int) : Int × Int × Int :=
  (sg * (p.2.1 - q.2.1), sg * (q.1 - p.1), sg * (p.1 * q.2.1 - q.1 * p.2.1))

/-- What a primitive leaves at a pixel (R287): depth, u and v; none where it does not cover it. -/
def coverAt (p : List Byte) (px py : Nat) : Option (W32 × W32 × W32) :=
  match primVerts p with
  | none => none
  | some (v0, v1, v2) =>
    let d := primArea v0 v1 v2
    let sg : Int := if d < 0 then -1 else 1
    -- Twice the pixel centre, so that it is whole: edge values come out doubled too.
    let cx : Int := (2 * px + 1 : Nat) * (2 ^ 149 : Nat)
    let cy : Int := (2 * py + 1 : Nat) * (2 ^ 149 : Nat)
    let at' (e : Int × Int × Int) : Int := e.1 * cx + e.2.1 * cy + 2 * e.2.2
    let inside (e : Int × Int × Int) : Bool :=
      decide (0 < at' e) || (at' e == 0 && (decide (0 < e.1) || (e.1 == 0 && decide (0 < e.2.1))))
    let e0 := edgeOf sg v1 v2
    let e1 := edgeOf sg v2 v0
    let e2 := edgeOf sg v0 v1
    if inside e0 && inside e1 && inside e2 then
      let den := 2 * d.natAbs
      let zn := at' e0 * v0.2.2 + at' e1 * v1.2.2 + at' e2 * v2.2.2
      let z := rn32 (Val.ofRat (decide (zn < 0)) zn.natAbs (den * 2 ^ 149))
      let val := decodeVal 1 z
      if val.cmp (.zero false) < 0 ∨ 0 < val.cmp (.fin false 1 1) then none
      else some (BitVec.ofNat 32 z, BitVec.ofNat 32 (rn32 (quot (at' e1) den)), BitVec.ofNat 32 (rn32 (quot (at' e2) den)))
    else none

/-- Whether a new value replaces a stored entry (R288). -/
def visWins (z id : W32) (old : W32 × W32) : Bool :=
  let c := (decodeVal 1 z.toNat).cmp (decodeVal 1 old.1.toNat)
  decide (c < 0) || (c == 0 && decide (id.toNat < old.2.toNat))

/-- Rasterise a primitive into a tile's store (R287, R288). -/
def rasterise (r : LaunchRec) (tile : Nat) (p : List Byte) (store : Table VisEntry) : Table VisEntry :=
  let tx := tile % r.tilesX
  let ty := tile / r.tilesX
  let id : W32 := BitVec.ofNat 32 (fieldOf p 0x24 4)
  (List.range 1024).foldl (fun (st : Table VisEntry) k =>
    let x := 32 * tx + k % 32
    let y := 32 * ty + k / 32
    if r.passWidth ≤ x ∨ r.passHeight ≤ y then st
    else
      match coverAt p x y with
      | none => st
      | some (z, u, v) =>
        let old : W32 × W32 := match st.get? k with
          | some e => (e.depth, e.prim)
          | none => (r.passClearZ, 0xFFFFFFFF#32)
        if visWins z id old then
          st.put k { prim := id, depth := z, u := u, v := v, attr := BitVec.ofNat 64 (fieldOf p 0x30 8) }
        else st) store

/-- A launch runs and renders. -/
def State.passRuns (s : State) (l : Nat) : Bool :=
  (s.launch? l).any fun x => (x.phase == .running || x.phase == .preempting) && x.r.pass != 0

/-- BIN_ENTRY_RASTERIZE (R286-R288, R405): a die's resolver takes the oldest bin entry of a tile. -/
def execBinEntryRasterize (launch die tile : Nat) (s : State) : Host.Outcome State Fault Refusal :=
  match s.bin die launch tile with
  | e :: rest =>
    if s.passRuns launch && !(e.spill.isSome && s.driveHeld die launch) then
      let key := tileKey launch tile
      let p : PassTile := s.tiles.getD key {}
      let s' := { s with tiles := s.tiles.put key { p with vis := rasterise (s.lrec launch) tile e.bytes p.vis } }
      let s' := s'.setBin die launch tile rest
      let ws := (e.spill.map fun k => s'.binHeaders die launch (k / 63)).getD []
      match s.driveStuck launch (512 * die) (State.writeNeeds ws) with
      | none => .next (s'.driveWrite launch (512 * die) ws)
      | some e => match s.driveHold launch die (512 * die) e with
        | some t => .next t
        | none => .refused (.notDue "BIN_ENTRY_RASTERIZE")
    else .refused (.notDue "BIN_ENTRY_RASTERIZE")
  | [] => .refused (.notDue "BIN_ENTRY_RASTERIZE")

/-! ### Shading -/

namespace State

/-- The stands of a die that hold a workgroup of a launch, rising, with the lowest such workgroup (R290). -/
def dieStands (s : State) (l die : Nat) : List (Nat × Nat) :=
  match s.launch? l with
  | none => []
  | some x =>
    let ws := x.wgs.filter fun _ w => w.placed && !w.retired && standDie w.stand == die
    let stands := ws.foldl (fun (p : NatSet) w => p.add w.2.stand) []
    stands.filterMap fun n => (ws.find? fun _ w => w.stand == n).map fun w => (n, w.1)

/-- The stand and workgroup that shade a tile (R290), of the stands that are not changing side: where there is none, the rows
wait (R283). -/
def shadeStand (s : State) (l tile : Nat) : Option (Nat × Nat) :=
  let ns := (s.dieStands l ((s.lrec l).tileDie tile)).filter fun n => !s.standMoves n.1
  if ns.isEmpty then none else ns[tile % ns.length]?

/-- The registers of a shading thread (R290). -/
def shadeRegs (tile x y : Nat) (e : VisEntry) : Table Reg :=
  regsOf [(1, x), (2, y), (3, e.prim.toNat), (4, e.depth.toNat), (5, tile), (6, e.attr.lo.toNat), (7, e.attr.hi.toNat),
    (8, e.u.toNat), (9, e.v.toNat)]

/-- Make the shading threads of one row: the state and their numbers in lane order. -/
def rowThreads (s : State) (l tile row stand wg : Nat) (pc : W64) (p : PassTile) : State × List Nat :=
  let r := s.lrec l
  let part := ((s.launch? l).map (·.part)).getD 0
  (List.range 32).foldl (fun (acc : State × List Nat) c =>
    match p.vis.get? (32 * row + c) with
    | none => acc
    | some e =>
      let x := 32 * (tile % r.tilesX) + c
      let y := 32 * (tile / r.tilesX) + row
      let (k, s) := acc.1.fresh
      let th : Thread :=
        { part := part, launch := l, wg := wg, home := .queued stand, pc := pc, g := shadeRegs tile x y e
          role := .shading tile x y, filed := s.clock.arith, unstarted := true, sc := s.gtc }
      (s.setThread k th, acc.2 ++ [k])) (s, [])

/-- File the rows of a final tile as waves, as far as there is room (R21, R290). -/
def fileRows (s : State) (l tile : Nat) : Nat → State
  | 0 => s
  | fuel + 1 =>
    match s.tiles.get? (tileKey l tile), s.shadeStand l tile with
    | some p, some (stand, wg) =>
      match p.toFile, p.shade with
      | row :: rest, some pc =>
        if !s.canRelease stand l s.clock.arith then s else
        let (s, ks) := s.rowThreads l tile row stand wg pc p
        let w : WaveRec :=
          { launch := l, wg := wg, pc := pc, members := ks, due := s.clock.arith
            part := ((s.launch? l).map (·.part)).getD 0 }
        let s := s.queueWave stand w
        let p' := { p with toFile := rest, shading := p.shading + ks.length }
        ({ s with tiles := s.tiles.put (tileKey l tile) p' }).fileRows l tile fuel
      | _, _ => s
    | _, _ => s

/-- A primitive that arrived before the closes still has a copy of a tile to place (R286, R288). -/
def tileAwaits (s : State) (l tile : Nat) : Bool :=
  s.threads.any fun e => e.2.launch == l && (match e.2.held with
    | .placing _ tiles _ _ => tiles.contains tile
    | _ => false)

/-- Rows of a tile with a covered pixel. -/
def coveredRows (p : PassTile) : List Nat := (List.range 32).filter fun r => p.vis.any fun e => e.1 / 32 == r

/-- A tile becomes final: entry SHADE is read once; with no valid gathered entry the tile is not shaded (R290). -/
def finalise (s : State) (l tile : Nat) (p : PassTile) : State :=
  let part := ((s.launch? l).map (·.part)).getD 0
  let idx := (s.lrec l).passShade
  let e := s.handlerEntry part idx
  let key := tileKey l tile
  if e.valid && e.gathered then
    { s with tiles := s.tiles.put key { p with final := true, shade := some e.pc, toFile := coveredRows p } }
  else
    let core := coreOfIndex (512 * (s.lrec l).tileDie tile) 0
    let m : Msg := { core := core, index := idx, part := part, launch := l, wg := 0, srcCore := 0, srcPkg := s.pkgId }
    ({ s with tiles := s.tiles.put key { p with final := true } }).discardMsg m 3

end State

/-- TILE_VISIBILITY_FINAL (R288, R290): a tile whose die has counted the closes and rasterised its entries is final, and
its rows are filed as waves of shading threads; the step is due again for rows that found no room. -/
def execTileVisibilityFinal (launch tile : Nat) (s : State) : Host.Outcome State Fault Refusal :=
  let r := s.lrec launch
  let die := r.tileDie tile
  let p : PassTile := s.tiles.getD (tileKey launch tile) {}
  if !s.passRuns launch || decide (r.tilesX * r.tilesY ≤ tile) then .refused (.notDue "TILE_VISIBILITY_FINAL")
  else if p.final then
    if !p.toFile.isEmpty && (s.shadeStand launch tile).any (fun n => s.canRelease n.1 launch s.clock.arith) then
      .next (s.fileRows launch tile 32)
    else .refused (.notDue "TILE_VISIBILITY_FINAL")
  else if s.closed die launch && (s.bin die launch tile).isEmpty && !s.tileAwaits launch tile && s.launchRuns launch && s.eventRoom die then
    .next ((s.finalise launch tile p).fileRows launch tile 32)
  else .refused (.notDue "TILE_VISIBILITY_FINAL")

/-- Whether anything of a launch could still emit: a thread, a message or a task (R289). -/
def State.launchBusy (s : State) (l : Nat) : Bool :=
  (s.threads.any fun e => e.2.launch == l) || (s.outbound.any fun e => e.2.launch == l) ||
    (s.cores.any fun c => c.2.inbound.any fun m => m.launch == l) || (s.routeHeld.any fun e => e.2.launch == l) ||
    s.tasks.any fun e => e.2.launch == l

/-- EMISSION_FORCED_CLOSE (R289): a die short of closes, with nothing left to emit, closes emission, and says so in an
event record. -/
def execEmissionForcedClose (launch die : Nat) (s : State) : Host.Outcome State Fault Refusal :=
  let r := s.lrec launch
  let n := (s.die die).closes.getD launch 0
  let placed := (s.launch? launch).any fun x => decide ((x.wgs.filter fun _ w => w.placed).length = x.grid)
  if s.passRuns launch && placed && decide (die < 4) && r.diePasses die && !s.closed die launch && !s.launchBusy launch &&
      s.eventRoom die then
    let s := s.modDie die fun d => { d with closes := d.closes.put launch r.passCloses }
    let s := s.modLaunch launch fun l => { l with short := true }
    .next (s.eventRecord (((s.launch? launch).map (·.part)).getD 0) die 7 n (r.passCloses - n) s.pkgId (s.launchId launch))
  else .refused (.notDue "EMISSION_FORCED_CLOSE")

/-! ### Write-back -/

namespace State

/-- Pixels of a tile that lie in a block of the target: the block's index, and its pixel numbers with their place in the
tile. -/
def tileBlocks (r : LaunchRec) (tile : Nat) : List (Nat × List (Nat × Nat)) :=
  let tx := tile % r.tilesX
  let ty := tile / r.tilesX
  let per := (r.passWidth + 7) / 8
  (List.range 16).filterMap fun b =>
    let bx := 4 * tx + b % 4
    let by' := 4 * ty + b / 4
    if r.passWidth ≤ 8 * bx ∨ r.passHeight ≤ 8 * by' then none
    else some (by' * per + bx, (List.range 64).map fun k => (k, (b / 4 * 8 + k / 8) * 32 + b % 4 * 8 + k % 8))

/-- The written pixels of a block of a target that is not compressed: where each lies, and its colour. -/
def backPixels (r : LaunchRec) (tile : Nat) (p : PassTile) (b : Nat × List (Nat × Nat)) : List (Nat × List Byte) :=
  b.2.filterMap fun k => (p.colour.get? k.2).map fun c =>
    (r.psd 0 8 + (32 * (tile / r.tilesX) + k.2 / 32) * r.psd 0x14 4 + 4 * (32 * (tile % r.tilesX) + k.2 % 32),
      bytesOfNat 4 c.toNat)

/-- The accesses the write-back of a tile's next block makes (R292). -/
def backNeeds (s : State) (l tile : Nat) (p : PassTile) : List (Nat × Nat × Need) :=
  let r := s.lrec l
  match (tileBlocks r tile)[p.blocks]? with
  | none => []
  | some b =>
    if r.passComp then
      [(r.psd 0 8 + 256 * b.1, 256, { r := true, w := true }), (r.psd 8 8 + b.1, 1, { r := true, w := true })]
    else writeNeeds (backPixels r tile p b)

/-- Decode, update and encode one block (R292, R294); bytes of its slot beyond the mode's content are not written. -/
def backBlock (s : State) (l stand : Nat) (p : PassTile) (b : Nat × List (Nat × Nat)) : State :=
  let r := s.lrec l
  let slot := r.psd 0 8 + 256 * b.1
  let mode := r.psd 8 8 + b.1
  let (ms, mq) := s.driveRead l stand mode 1
  let (bs, qs) := s.driveRead l stand slot 256
  let sl : BlockSlot := { bytes := bs.map BitVec.toNat, poison := (List.range 64).map fun w => qs.getD (4 * w) false }
  let old := decodeBlock (ms.headD 0).toNat (mq.headD false) (r.passClear, false) sl
  let px := (b.2.zip old).map fun e =>
    match p.colour.get? e.1.2 with
    | some c => (c.toNat, false)
    | none => e.2
  let s := s.driveNote l stand [(mode, 1), (slot, 256)]
  let m := encodeMode r.passClear px
  let flags := if m = 0 then px.flatMap fun q => List.replicate 4 q.2 else []
  let s := match s.driveLocate l stand slot 256 { w := true } with
    | .parts ps => s.unitStore (s.drive l stand) ps (encodeBytes m px) flags
    | _ => s
  s.driveWrite l stand [(mode, [BitVec.ofNat 8 m])]

/-- Write a tile's next block back (R292); in a target that is not compressed, its written pixels. -/
def writeBack (s : State) (l tile stand : Nat) (p : PassTile) : State :=
  let r := s.lrec l
  let bs := tileBlocks r tile
  let s := match bs[p.blocks]? with
    | none => s
    | some b => if r.passComp then s.backBlock l stand p b else s.driveWrite l stand (backPixels r tile p b)
  let p' := { p with blocks := p.blocks + 1, done := decide (bs.length ≤ p.blocks + 1) }
  { s with tiles := s.tiles.put (tileKey l tile) p' }

end State

/-- TILE_WRITE_BACK (R292): the next block of a final tile whose shading threads have all halted is written back, once its lines
are free (R87, R91). -/
def execTileWriteBack (launch tile : Nat) (s : State) : Host.Outcome State Fault Refusal :=
  match s.tiles.get? (tileKey launch tile) with
  | some p =>
    let die := (s.lrec launch).tileDie tile
    if s.passRuns launch && p.final && p.toFile.isEmpty && p.shading == 0 && !p.done && !s.driveHeld die launch then
      let stand := ((s.shadeStand launch tile).map (·.1)).getD (512 * die)
      match s.driveStuck launch stand (s.backNeeds launch tile p) with
      | none => .next (s.writeBack launch tile stand p)
      | some e => match s.driveHold launch die stand e with
        | some t => .next t
        | none => .refused (.notDue "TILE_WRITE_BACK")
    else .refused (.notDue "TILE_WRITE_BACK")
  | none => .refused (.notDue "TILE_WRITE_BACK")

/-! ### Texture requests -/

/-- A texture descriptor's fields (R293). -/
structure Texture where
  base : Nat
  width : Nat
  height : Nat
  levels : Nat
  fmt : Nat
  linear : Bool
  wrap : Bool

/-- A descriptor's 32 bytes; none when it is malformed. -/
def textureOf (addr : Nat) (d : List Byte) : Option Texture :=
  let a := fieldOf d 8 4
  let b := fieldOf d 0xC 4
  let w := bits a 14 0
  let h := bits a 30 16
  let n := bits b 3 0
  if addr % 32 ≠ 0 ∨ w = 0 ∨ 16384 < w ∨ h = 0 ∨ 16384 < h ∨ n = 0 ∨ bits b 5 4 = 3 ∨ bit a 15 ∨ bit a 31 ∨
      bits b 31 8 ≠ 0 ∨ fieldOf d 0x10 16 ≠ 0 ∨ fieldOf d 0 8 % 256 ≠ 0 then none
  else some { base := fieldOf d 0 8, width := w, height := h, levels := n, fmt := bits b 5 4, linear := bit b 6
              wrap := bit b 7 }

namespace Texture

/-- Bytes of a texel. -/
def texelBytes (x : Texture) : Nat := if x.fmt = 1 then 8 else 4

/-- Width and height of a level. -/
def dims (x : Texture) (n : Nat) : Nat × Nat := (max 1 (x.width / 2 ^ n), max 1 (x.height / 2 ^ n))

/-- The base of a level. -/
def levelBase (x : Texture) : Nat → Nat
  | 0 => x.base
  | n + 1 =>
    let (w, h) := x.dims n
    (x.levelBase n + w * h * x.texelBytes + 255) / 256 * 256

/-- The level a lod selects. -/
def level (x : Texture) (lod : W32) : Nat :=
  match decodeVal 1 lod.toNat with
  | .fin false a b =>
    let q := a / b
    let r2 := 2 * (a % b)
    min (x.levels - 1) (if r2 < b ∨ (r2 = b ∧ q % 2 = 0) then q else q + 1)
  | .inf false => x.levels - 1
  | _ => 0

/-- A texel index under the wrap mode. -/
def wrapIdx (x : Texture) (k : Int) (n : Nat) : Nat :=
  if x.wrap then (k % n).toNat else (max 0 (min k ((n : Int) - 1))).toNat

end Texture

/-- A coordinate times a size less a half: its floor, and the fraction as a rational. -/
def texCoord (c : W32) (n : Nat) : Option (Int × Nat × Nat) :=
  let make (neg : Bool) (a b : Nat) : Int × Nat × Nat :=
    let num : Int := (if neg then -1 else 1) * ((2 * a * n : Nat) : Int) - b
    let den : Nat := 2 * b
    (num / den, (num % den).toNat, den)
  match decodeVal 1 c.toNat with
  | .zero _ => some (make false 0 1)
  | .fin s a b => some (make s a b)
  | _ => none

/-- The texels a sample takes and their weights: x, y, weight (R293). -/
def texTaps (x : Texture) (lvl : Nat) (u v : Int × Nat × Nat) : List (Nat × Nat × Nat × Nat) :=
  let (w, h) := x.dims lvl
  let (i, un, ud) := u
  let (j, vn, vd) := v
  if x.linear then
    ([(0, 0, (ud - un) * (vd - vn)), (1, 0, un * (vd - vn)), (0, 1, (ud - un) * vn), (1, 1, un * vn)].filter
      fun t => t.2.2 != 0).map fun t => (x.wrapIdx (i + (t.1 : Nat)) w, x.wrapIdx (j + (t.2.1 : Nat)) h, t.2.2, ud * vd)
  else
    let near (k : Int) (n d : Nat) : Int := if d ≤ 2 * n then k + 1 else k
    [(x.wrapIdx (near i un ud) w, x.wrapIdx (near j vn vd) h, 1, 1)]

/-- The four channels of a texel. -/
def texelChannels (fmt : Nat) (bs : List Byte) : List Val :=
  match fmt with
  | 0 => (List.range 4).map fun k => Val.ofRat false (fieldOf bs k 1) 255
  | 1 => (List.range 4).map fun k => decodeVal 2 (fieldOf bs (2 * k) 2)
  | _ => [decodeVal 1 (fieldOf bs 0 4), .zero false, .zero false, .fin false 1 1]

/-- One filtered channel: exact, then rounded once (R293); a value the spec does not state stays free. -/
def blendChannel (req k : Nat) (taps : List (Val × Nat × Nat)) : W32 :=
  match taps with
  | [(v, _, _)] => BitVec.ofNat 32 (rn32 v)
  | _ =>
    if taps.any fun t => match t.1 with
        | .inf _ | .nan _ | .unreal => true
        | _ => false then Config.texelBlend req k
    else
      BitVec.ofNat 32 (rn32 (taps.foldl (fun a t => (a.add false (t.1.mul (Val.ofRat false t.2.1 t.2.2)).1).1) (.zero false)))

namespace State

/-- The texel reads of a request. -/
def texNeeds (q : TexReq) : Option (Texture × List (Nat × Nat × Nat)) :=
  match q.desc with
  | none => none
  | some d =>
    match textureOf q.descAddr d with
    | none => none
    | some x =>
      let lvl := x.level q.lod
      let (w, h) := x.dims lvl
      match texCoord q.u w, texCoord q.v h with
      | some u, some v =>
        some (x, (texTaps x lvl u v).map fun t => (x.levelBase lvl + (t.2.1 * w + t.1) * x.texelBytes, t.2.2.1, t.2.2.2))
      | _, _ => none

/-- The stand of a request's thread. -/
def texStand (q : TexReq) : Nat := coreStand q.core

/-- A texture unit at work for a request (R361). -/
def texAgent (s : State) (q : TexReq) : Agent :=
  let h := s.homeOf q.tid
  { part := q.part, die := standDie (texStand q), source := 3, home := h, launch := some q.launch, pc := q.pc, lanes := 2 ^ h.lane
    unit := some (unitNo 1 (texStand q)) }

/-- The first access of a request that cannot be made now. -/
def texStuck (s : State) (q : TexReq) (va n : Nat) : Option LocRes :=
  match s.locateUnit (texCache (texStand q)) (texStand q) q.part va n { r := true } with
  | .parts ps => s.unitBlock (s.texAgent q) false ps
  | .miss p v => some (.miss p (winAddr va v))
  | e => some e

/-- Read bytes for a request, with whether one is poisoned. -/
def texRead (s : State) (q : TexReq) (va n : Nat) : List Byte × Bool :=
  match s.locateUnit (texCache (texStand q)) (texStand q) q.part va n { r := true } with
  | .parts ps => ps.foldl (fun (a : List Byte × Bool) p =>
      let (bs, qs) := s.unitBytes (s.texAgent q) [p]
      let (bs, qs) : List Byte × List Bool := match (s.cruiseOf q.launch).bind s.cruises.get? with
        | some c => if !p.place.translated then (bs, qs) else
          ((List.range p.n).map fun k => s.cruiseByte c (p.place.byteKey + k),
            ((List.range p.n).zip qs).map fun b => cruisePoison c (p.place.byteKey + b.1) none b.2)
        | none => (bs, qs)
      (a.1 ++ bs, a.2 || qs.any id)) ([], false)
  | _ => ([], false)

/-- A request is held by a fault record (R293, R361). -/
def texFault (s : State) (req : Nat) (q : TexReq) (kind page addr : Nat) (pasid : Option Nat) (auto : Bool := false)
    (prg : Option Nat := none) : State :=
  if s.unclaimed q.launch then s.fatalLaunch q.launch { cause := 5 } else
  let h := s.homeOf q.tid
  let (st, wv, sl) := h.originFields
  let r : FRec :=
    { seq := 0, kind := kind, source := 3, page := page, addr := addr, launch := s.launchId q.launch, pasid := pasid
      lanes := 2 ^ h.lane, stand := st, wave := wv, slot := sl, pc := q.pc, auto := auto, prg := prg }
  let (k, s) := s.raiseFault q.part (standDie (texStand q)) r (.texture req)
  { s with texReqs := s.texReqs.mod req fun x => { x with fault := some k } }

/-- A request waits for a translation, or reports its fault (R293, R361). -/
def texHold (s : State) (req : Nat) (q : TexReq) (e : LocRes) : State :=
  match e with
  | .miss part va => s.askUnit (.texture req) (texStand q) part (s.transAddr q.part va).2 va { r := true } q.pc
  | .route k => s.beginRoute q.part k
  | .park kind page addr pasid =>
    if !s.faultRoom (standDie (texStand q)) then s else s.texFault req q kind page addr pasid
  | _ => s

/-- Fill the place a request holds with its reply (R293). -/
def texReply (s : State) (req : Nat) (q : TexReq) (ch : List W32) (status : Nat) : State :=
  let words : List W32 := ch ++ [BitVec.ofNat 32 status, BitVec.ofNat 32 q.stateAddr, BitVec.ofNat 32 (q.stateAddr / 2 ^ 32)]
  let s := s.modCore q.core fun c =>
    let m := c.inbound.find? fun m => m.seq == q.msg
    let rest := c.inbound.filter fun m => m.seq != q.msg
    match m with
    | some m => { c with inbound := rest ++ [{ m with payload := words, arrived := true, unfilled := false }] }
    | none => c
  { s with texReqs := s.texReqs.del req }

/-- The parts of memory a list of a request's accesses reaches. -/
def texParts (s : State) (q : TexReq) (rs : List (Nat × Nat)) : List Part :=
  rs.flatMap fun r => partsOf (s.locateUnit (texCache (texStand q)) (texStand q) q.part r.1 r.2 { r := true })

/-- Whether a request waits for a walk or for its fault to be answered. -/
def texWaits (s : State) (req : Nat) (q : TexReq) : Bool :=
  (q.fault.any fun k => (s.recs.get? k).any (·.pending)) || s.walks.any fun w => w.2.who == .texture req

/-- The texture unit accepts a request: it reads the descriptor (R293). -/
def texAccept (s : State) (req : Nat) (q : TexReq) : State :=
  let (d, bad) := s.texRead q q.descAddr 32
  let ps := s.texParts q [(q.descAddr, 32)]
  ({ s with texReqs := s.texReqs.put req { q with desc := some (if bad then [] else d) } }.unitNote (s.texAgent q) ps).noteEngineRead
    q.launch ps

/-- The first access of an accepted request that cannot be made now. -/
def texBlock (s : State) (q : TexReq) : Option LocRes :=
  match texNeeds q with
  | none => none
  | some (x, taps) => taps.findSome? fun t => s.texStuck q t.1 x.texelBytes

/-- An accepted request reads its texels and replies (R293). -/
def texSample (s : State) (req : Nat) (q : TexReq) : State :=
  match texNeeds q with
  | none => s.texReply req q [0, 0, 0, 0] 3
  | some (x, taps) =>
    let got := taps.map fun t => (s.texRead q t.1 x.texelBytes, t.2)
    let ps := s.texParts q (taps.map fun t => (t.1, x.texelBytes))
    let s := (s.unitNote (s.texAgent q) ps).noteEngineRead q.launch ps
    if got.any fun g => g.1.2 then s.texReply req q (List.replicate 4 0x7FC00000#32) 1
    else
      let ch := (List.range 4).map fun k =>
        blendChannel req k (got.map fun g => ((texelChannels x.fmt g.1.1).getD k (.zero false), g.2))
      s.texReply req q ch 0

/-- The texture request a message is the reply of. -/
def texOf (s : State) (m : Msg) : Option (Nat × TexReq) :=
  if m.unfilled then s.texReqs.find? fun _ q => q.msg == m.seq else none

end State

/-- MESSAGE_PLACE_GRANT (R37): the target has room for a thread's message, no lower lane of its wave still asks, and a SEND.T's
limit has not passed (R158). With the place of its reply a texture request is accepted, and its descriptor read (R293). -/
def execMessagePlaceGrant (thread : Nat) (s : State) : Host.Outcome State Fault Refusal :=
  match s.outbound.get? thread with
  | some m =>
    if (m.pkg.isNone && decide (16 ≤ (s.core m.core).inbound.length)) || s.lowerAsks thread || s.limitPast thread || !s.transitRoom m then
      .refused (.notDue "MESSAGE_PLACE_GRANT")
    else
      match s.texOf m with
      | none => .next (s.grantPlace thread m)
      | some (req, q) =>
        if s.texWaits req q then .refused (.notDue "MESSAGE_PLACE_GRANT")
        else
          match s.texStuck q q.descAddr 32 with
          | none => .next ((s.texAccept req q).grantPlace thread m)
          | some .wait => .refused (.notDue "MESSAGE_PLACE_GRANT")
          | some e => .next (s.texHold req q e)
  | none => .refused (.notDue "MESSAGE_PLACE_GRANT")

/-- TEXTURE_REPLY (R293): the texture unit samples for an accepted request and replies; a translation that is missing or faults
holds the request, and a line an engine owns holds it behind the recall (R91). -/
def execTextureReply (req : Nat) (s : State) : Host.Outcome State Fault Refusal :=
  match s.texReqs.get? req with
  | some q =>
    if q.desc.isNone || s.texWaits req q then .refused (.notDue "TEXTURE_REPLY")
    else
      match s.texBlock q with
      | none => .next (s.texSample req q)
      | some .wait => .refused (.notDue "TEXTURE_REPLY")
      | some e => .next (s.texHold req q e)
  | none => .refused (.notDue "TEXTURE_REPLY")

end Sys2Proof.Machine
end

