-- ==== Sys2Proof/Machine/Task.lean ====
section
/-!
DEFINITION. Timestamped tasks (11 R264-R278): the task instructions, dispatch, the reduction and the commit flight.
-/

namespace Sys2Proof.Machine

namespace State

/-- The task a thread runs. -/
def taskAt (s : State) (t : Nat) : Option Nat := (s.thread? t).bind (·.taskOf)

/-! ### Ranges -/

/-- The first and last granule of a range. -/
def rangeGrans (r : TRange) : Nat × Nat := (r.base / 256, (r.base + r.len - 1) / 256)

/-- The distinct granules of the ranges a test accepts, or none when one range alone passes the limit (R266). -/
def countGrans (rs : List TRange) (limit : Nat) : Option Nat :=
  if rs.any fun r => decide (limit < (rangeGrans r).2 + 1 - (rangeGrans r).1) then none
  else
    let gs := rs.flatMap fun r => (List.range ((rangeGrans r).2 + 1 - (rangeGrans r).1)).map fun k => (rangeGrans r).1 + k
    some gs.eraseDups.length

/-- Granules of the ranges a task may write. -/
def writeGrans (rs : List TRange) : Nat := (countGrans (rs.filter (·.w)) (2 ^ 16)).getD (2 ^ 16)

/-- Whether declared sets keep to their limits (R266). -/
def setsFit (rs : List TRange) : Bool :=
  ((countGrans (rs.filter (·.r)) 256).any fun n => decide (n ≤ 256)) &&
    ((countGrans (rs.filter (·.w)) 64).any fun n => decide (n ≤ 64))

end State

/-- TRANGE's checks (R265). -/
def trangeCheck (i : Ins) (s : State) (t : Nat) : Check :=
  let base := s.srcVal t i .a
  let n := (s.wordB t i).toNat
  let ok (a : Nat) : Bool := match regionOf a with
    | .translated => decide (a < 2 ^ 64)
    | _ => false
  let inside := ok base && ok (base + n - 1) && decide (base < 0x00F0000000000000 ↔ base + n - 1 < 0x00F0000000000000)
  if i.x = 0 ∨ 3 < i.x ∨ n = 0 ∨ 16777216 < n ∨ !inside ∨ ((s.thread? t).any fun th => decide (4 ≤ th.staged.length)) then
    .trap 1 i.word0
  else .ok

/-- TRANGE (R265). -/
def trangeSem : Sem :=
  { check := fun i _ s t => trangeCheck i s t
    act := fun i _ ts s => ts.foldl (fun s t =>
      let r : TRange := { base := s.srcVal t i .a, len := (s.wordB t i).toNat, r := i.x % 2 == 1, w := 2 ≤ i.x }
      s.modThread t fun th => { th with staged := th.staged ++ [r] }) s }

/-! ### TSPAWN -/

namespace State

/-- The stands that hold workgroups of a launch, rising (R266). -/
def launchStands (s : State) (l : Nat) : List Nat :=
  match s.launch? l with
  | some x => (x.wgs.foldl (fun (p : NatSet) w => if w.2.placed then p.add w.2.stand else p) [])
  | none => []

/-- The landing a placement code chooses (R266). -/
def landingOf (s : State) (t l code : Nat) (rs : List TRange) : Nat :=
  let own := (s.homeOf t).stand
  let stands := s.launchStands l
  match code with
  | 1 => match rs with
    | r :: _ => if stands.isEmpty then own else stands.getD ((rangeGrans r).1 % stands.length) own
    | [] => own
  | 2 =>
    let q : Table Nat := ((s.launch? l).map (·.queuedAt)).getD []
    stands.foldl (fun best n => if q.getD n 0 < q.getD best 0 then n else best) (stands.headD own)
  | _ => own

/-- Tasks queued on a stand. -/
def queuedTasks (s : State) (stand : Nat) : Nat :=
  (s.tasks.filter fun _ x => x.landing == stand && (x.phase == .waiting || x.phase == .faulted)).length

/-- Whether a landing takes so many more records: on chip, or in the spill area (R271), and not while its stand changes side
(R283). -/
def landingRoom (s : State) (stand more : Nat) : Bool :=
  let n := s.queuedTasks stand
  !s.standMoves stand && (decide (n + more ≤ 512) ||
    decide (s.spillUsed stand + 128 * ((n + more - 512) - (n - 512)) ≤ s.spillSize stand))

end State

/-- TSPAWN's traps (R266). -/
def tspawnBad (i : Ins) (s : State) (t : Nat) : Bool :=
  match s.thread? t with
  | none => false
  | some th =>
    let ts := s.srcVal t i .a
    let b := (s.wordB t i).toNat
    let late : Bool := match th.taskOf.bind s.tasks.get? with
      | some x => decide (ts < x.key.stamp) || decide (8 ≤ x.children)
      | none => match (s.launch? th.launch).bind (·.begun) with
        | some (v, _) => decide (ts < v)
        | none => false
    bits b 13 12 != 0 || bits b 31 16 != 0 || bits b 15 14 == 3 || decide (8 < i.x) || (i.x == 0 && i.c != 0) ||
      !State.setsFit th.staged || late

/-- The landing a thread's TSPAWN names. -/
def State.spawnLanding (i : Ins) (s : State) (t : Nat) : Nat :=
  match s.thread? t with
  | some th => s.landingOf t th.launch (bits (s.wordB t i).toNat 15 14) th.staged
  | none => 0

/-- The threads of the issuing group that spawn with a TSPAWN and have not been served, in lane order (R266); one that traps, on
its sources or by R266, spawns nothing. -/
def State.spawners (i : Ins) (s : State) : List Nat :=
  (s.run?.elim [] fun r => s.activeSet r i).filter fun t =>
    sourceCheck i s true t == .ok && !tspawnBad i s t && (s.thread? t).any fun th => th.held != .granted

/-- Whether the landing takes a thread's record after those of the lanes below it, and its thread's writes are complete
(R266). -/
def State.spawnReady (i : Ins) (s : State) (t : Nat) : Bool :=
  let l := s.spawnLanding i t
  let below := (s.spawners i).filter fun u => decide ((s.homeOf u).lane < (s.homeOf t).lane) && s.spawnLanding i u == l
  s.landingRoom l (below.length + 1) && ((s.taskAt t).isSome || s.writesDone t s.nextId 5)

/-- TSPAWN's checks (R266): a record its landing has taken is done. -/
def tspawnCheck (i : Ins) (s : State) (t : Nat) : Check :=
  if ((s.thread? t).map (·.held)) = some .granted then .ok
  else if tspawnBad i s t then .trap 1 i.word0
  else if s.spawnReady i t then .ok
  else .hold

/-- One thread's task is accepted by its landing (R266). -/
def State.tspawn (i : Ins) (s : State) (t : Nat) : State :=
  match s.thread? t with
  | none => s
  | some th =>
    let ts := s.srcVal t i .a
    let b := (s.wordB t i).toNat
    let own := (s.homeOf t).stand
    let landing := s.landingOf t th.launch (bits b 15 14) th.staged
    let issued := match th.held with
      | .spawning _ g => g
      | _ => s.gtc
    let parent := th.taskOf
    -- An aborted attempt spawns nothing more (R272).
    if (parent.bind s.tasks.get?).any fun x => x.dead.isSome then s.modThread t fun th => { th with staged := [], held := .none } else
    let time := match parent.bind s.tasks.get? with
      | some x => max issued (x.key.time + 1)
      | none => match (s.launch? th.launch).bind (·.begun) with
        | some (v, g) => if v = ts then max issued (g + 1) else issued
        | none => issued
    let x : Task :=
      { key := { stamp := ts, time := time, stand := own, seq := (s.stand own).landingSeq }, part := th.part
        launch := th.launch, wg := th.wg, index := b % 4096, payload := s.payload i t, ranges := th.staged
        parent := parent, landing := landing, srcCore := (s.homeOf t).refCore }
    let s := s.modStand own fun n => { n with landingSeq := (n.landingSeq + 1) % 2 ^ 21 }
    let (k, s) := s.fresh
    let s := { s with tasks := s.tasks.put k x }
    let s := match parent with
      | some j => { s with tasks := s.tasks.mod j fun y => { y with children := y.children + 1 } }
      | none => s
    s.modThread t fun th => { th with staged := [], held := .none }

/-- While TSPAWN is held, its lanes are served in increasing order as their landings have room; those that wait count as
issued but not yet accepted (R266, R276). -/
def State.tspawnPrep (i : Ins) : List Nat → State → State
  | [], s => s
  | t :: r, s =>
    if s.spawnReady i t then State.tspawnPrep i r ((s.tspawn i t).modThread t fun th => { th with held := .granted })
    else
      let note (s : State) (u : Nat) : State := s.modThread u fun th =>
        if th.held matches .spawning .. then th else { th with held := .spawning (s.srcVal u i .a) s.gtc }
      (t :: r).foldl note s

/-- TSPAWN (R266): in increasing lane order. -/
def tspawnSem : Sem :=
  { prep := fun i _ _ s => State.tspawnPrep i (s.spawners i) s
    check := fun i _ s t => tspawnCheck i s t
    act := fun i _ ts s => ts.foldl (fun s t =>
      if ((s.thread? t).map (·.held)) = some .granted then s.modThread t fun th => { th with held := .none } else s.tspawn i t) s }

/-! ### TDONE, TABORT and TSTAMP -/

/-- Only a task finishes (R268). -/
def inTask (_ : Ins) (s : State) (t : Nat) : Bool := (s.taskAt t).isSome

/-- A task finishes once its own atomics have been performed on its view: its buffer is then whole. -/
def doneCheck (s : State) (t : Nat) : Check :=
  if s.ops.any fun e => e.2.tid == t && e.2.kind == .atomic && !e.2.taken then .hold else .ok

/-- A task's thread leaves; the task waits for the commit flight (R268). -/
def State.finishTask (s : State) (k : Nat) (keep : Bool) : State :=
  match s.tasks.get? k with
  | none => s
  | some x =>
    if x.dead.isSome then s.endDead k else
    let s := match x.tid with
      | some t => s.removeThread t
      | none => s
    if keep then { s with tasks := s.tasks.put k { x with phase := .finished, tid := none } }
    else
      let gone := closure (fun j => s.taskChildren j) s.tasks.length (s.taskChildren k)
      let s := gone.foldl (fun s j => s.discardChild j) s
      let x' : Task :=
        { x with phase := .finished, tid := none, buf := [], written := [], pages := [], keys := [], msgs := []
                 children := 0, dropped := true }
      { s with tasks := s.tasks.put k x' }

/-- TDONE and TABORT (R268). -/
def tdoneSem (keep : Bool) : Sem :=
  { legal := inTask
    check := fun _ _ s t => if keep then doneCheck s t else .ok
    act := fun _ _ ts s => ts.foldl (fun s t =>
      match s.taskAt t with
      | some k => s.finishTask k keep
      | none => s) s }

/-- TSTAMP (R269). -/
def tstampSem : Sem :=
  { act := fun i _ ts s => ts.foldl (fun s t =>
      match s.thread? t with
      | none => s
      | some th =>
        let v := match th.taskOf.bind s.tasks.get? with
          | some x => x.key.stamp
          | none => ((s.launch? th.launch).map (·.committed)).getD 0
        s.writeD t i v) s }

/-- TSPAWN (R266). -/
def execTspawn (w : X96) (s : State) : Host.Outcome State Fault Refusal := issue tspawnSem (w.ins .tspawn) s

/-- TRANGE (R265). -/
def execTrange (w : X96) (s : State) : Host.Outcome State Fault Refusal := issue trangeSem (w.ins .trange) s

/-- TDONE (R268). -/
def execTdone (w : X96) (s : State) : Host.Outcome State Fault Refusal := issue (tdoneSem true) (w.ins .tdone) s

/-- TABORT (R268). -/
def execTabort (w : X96) (s : State) : Host.Outcome State Fault Refusal := issue (tdoneSem false) (w.ins .tabort) s

/-- TSTAMP (R269). -/
def execTstamp (w : X96) (s : State) : Host.Outcome State Fault Refusal := issue tstampSem (w.ins .tstamp) s

/-! ### Dispatch -/

namespace State

/-- Granules of a cluster's buffer that tasks hold (R271). -/
def bufferUsed (s : State) (cluster : Nat) : Nat :=
  s.tasks.foldl (fun n e =>
    match e.2.phase with
    | .running | .finished | .committing =>
      if coreCluster e.2.core = cluster ∧ e.2.dead.isNone then n + writeGrans e.2.ranges else n
    | _ => n) 0

/-- A cluster has a free context and buffer room for a task (R271). -/
def clusterFits (s : State) (cluster : Nat) (x : Task) : Bool :=
  ((List.range 16).any fun n => (List.range 4).any fun c => s.ctxOpen (coreOfCluster cluster n) c) &&
    decide (s.bufferUsed cluster + writeGrans x.ranges ≤ 256)

/-- The cluster a task is placed in: the lowest that fits, another than the one it trapped in where there is one (R271,
R278). -/
def clusterFor (s : State) (x : Task) : Option Nat :=
  let fits := ((List.range 8).map fun k => x.landing * 8 + k).filter fun c => s.clusterFits c x
  match fits.find? fun c => x.avoid != some c with
  | some c => some c
  | none => fits.head?

/-- The queued task a landing dispatches next: the lowest key that fits (R271). -/
def nextTask (s : State) (stand : Nat) : Option Nat :=
  (s.tasks.foldl (fun (best : Option (Nat × Task)) e =>
    if e.2.landing == stand && e.2.phase == .waiting && s.launchRuns e.2.launch && (s.clusterFor e.2).isSome then
      match best with
      | some b => if e.2.key.lt b.2.key then some e else best
      | none => some e
    else best) none).map (·.1)

/-- The registers a task starts with (R267). -/
def taskRegs (x : Task) (ver : Nat) (foreign : Bool) : Table Reg :=
  regsOf (((List.range 8).zip x.payload).map (fun p => (p.1 + 1, p.2.toNat)) ++
    [(9, descriptor x.index ver false false x.payload.length true foreign), (10, x.srcCore), (11, x.attempt),
      (12, x.key.stamp % 2 ^ 32), (13, x.key.stamp / 2 ^ 32)])

/-- Start a task in a context (R267); an invalid entry makes the start trap. -/
def startTask (s : State) (k core ctx : Nat) : State :=
  match s.tasks.get? k with
  | none => s
  | some x =>
    let (s, foreign) := s.takeConstants core x.launch
    let e := s.handlerEntry x.part x.index
    let (t, s) := s.fresh
    let th : Thread :=
      { part := x.part, launch := x.launch, wg := x.wg, home := .scalar core ctx, pc := e.pc
        g := taskRegs x e.ver foreign, sc := s.gtc, role := .task k, rng := s.startSeed x.launch core }
    let s := ((s.setThread t th).countEvent core 0x20 1).trace core ctx 5 ((th.readG 9).val.toNat) x.srcCore (s.launchId x.launch)
    let s := { s with tasks := s.tasks.put k { x with phase := .running, tid := some t, core := core, avoid := none } }
    if e.valid && !e.gathered then s else s.trap t 1 0

end State

/-- TASK_DISPATCH (R267, R271): a landing starts its lowest queued task that fits, in a free context of its cluster. -/
def execTaskDispatch (stand task core ctx : Nat) (s : State) : Host.Outcome State Fault Refusal :=
  match s.tasks.get? task with
  | some x =>
    if s.nextTask stand = some task ∧ s.clusterFor x = some (coreCluster core) ∧ ctx < 4 ∧ core < coreCount ∧
        s.ctxOpen core ctx then
      .next (s.startTask task core ctx)
    else .refused (.notDue "TASK_DISPATCH")
  | none => .refused (.notDue "TASK_DISPATCH")

/-! ### The reduction -/

namespace State

/-- The tasks of a launch. -/
def launchTasks (s : State) (l : Nat) : Table Task := s.tasks.filter fun _ x => x.launch == l

/-- The lesser of two keys. -/
def minKey (a : Option TaskKey) (b : TaskKey) : Option TaskKey :=
  match a with
  | some k => if b.lt k then some b else some k
  | none => some b

/-- The lowest key among unfinished tasks and root TSPAWNs not yet accepted (R276). -/
def lowestKey (s : State) (l : Nat) : Option TaskKey :=
  let a := (s.launchTasks l).foldl (fun m e =>
    match e.2.phase with
    | .waiting | .running | .faulted => if e.2.dead = some true then m else minKey m e.2.key
    | _ => m) none
  s.threads.foldl (fun m e =>
    match e.2.held with
    | .spawning v g => if e.2.launch = l ∧ e.2.taskOf.isNone then minKey m { stamp := v, time := g, stand := (s.homeOf e.1).stand, seq := 0 } else m
    | _ => m) a

/-- Insert a task by its key. -/
def insertTask (x : Nat × Task) : List (Nat × Task) → List (Nat × Task)
  | [] => [x]
  | y :: r => if x.2.key.lt y.2.key then x :: y :: r else y :: insertTask x r

/-- Finished tasks below a key, in key order. -/
def finishedBelow (s : State) (l : Nat) (bound : Option TaskKey) : List Nat :=
  (((s.launchTasks l).filter fun _ x => x.phase == .finished && (match bound with
    | some b => x.key.lt b
    | none => true)).foldl (fun acc e => insertTask e acc) []).map (·.1)

end State

/-- COMMIT_REDUCTION (R276): 256 swarm cycles after the one before, the landings of a launch settle which finished tasks
commit. -/
def execCommitReduction (launch : Nat) (s : State) : Host.Outcome State Fault Refusal :=
  match s.launch? launch with
  | some l =>
    if l.reducedAt + 256 ≤ s.clock.swarm ∧ (l.phase = .running ∨ l.phase = .preempting) then
      let ok := s.finishedBelow launch (s.lowestKey launch)
      let counts : Table Nat := (s.launchStands launch).map fun n => (n, s.queuedTasks n)
      .next (s.modLaunch launch fun l => { l with reducedAt := s.clock.swarm, approved := ok, queuedAt := counts })
    else .refused (.notDue "COMMIT_REDUCTION")
  | none => .refused (.notDue "COMMIT_REDUCTION")

/-! ### The commit flight -/

namespace State

/-- The bytes a task has written, with the half where only one half was (R200, R277). -/
def taskCells (x : Task) : List (Nat × Byte × Option Nat) :=
  ((x.written.map (· / 2)).eraseDups).map fun k =>
    let lo := x.written.has (2 * k)
    let hi := x.written.has (2 * k + 1)
    (k, x.buf.readByte k, if lo && hi then none else if lo then some 0 else some 1)

/-- The place a byte number names. -/
def keyPlace (k : Nat) : Place :=
  if k < hostBase then .dram k else .host ((k - hostBase) / 2 ^ 64) ((k - hostBase) % 2 ^ 64)

/-- Device lines a task has written. -/
def taskLines (x : Task) : List Nat := ((x.written.map (· / 2)).filter (· < hostBase)).map (· / 64) |>.eraseDups

/-- Whether writes to a line are held by a migration of its page (R367). -/
def lineMigrates (s : State) (line : Nat) : Bool :=
  s.migs.any fun m => m.2.holds && decide (m.2.src / 64 ≤ line) && decide (line < (m.2.src + m.2.size) / 64)

/-- The commit of a task as an engine that stores: its records of dropped lines are a task's, of its home stand (R361; log 142). -/
def commitAgent (x : Task) : Agent :=
  { part := x.part, die := standDie x.landing, source := 6, home := .plist x.landing, launch := some x.launch
    unit := some (unitNo 9 x.landing) }

/-- The lines a commit drops: those of a failed tier 2 (R365). -/
def commitLost (s : State) (x : Task) : List Part :=
  (lineParts keyPlace ((taskCells x).map (·.1))).filter fun p => s.placeLost x.part p.place

/-- Whether the flight may write a task's lines now: none is engaged elsewhere (R87, R277) or migrates (R367), and the records of
those it drops have room (R359); a cruise has no homes to wait for. -/
def linesReady (s : State) (x : Task) : Bool :=
  (s.cruiseOf x.launch).isSome ||
    ((taskLines x).all fun l => s.lineFree l none && (s.home l).queue.isEmpty && !s.lineMigrates l) &&
      ((s.commitLost x).isEmpty || s.lostFits (commitAgent x) (s.commitLost x))

/-- Write a task's buffered bytes as one step (R277): to memory, or in a cruise to its shadow (R282). -/
def commitBytes (s : State) (k : Nat) (x : Task) : State :=
  let s := match s.cruiseOf x.launch with
    | some c =>
      let s := (taskCells x).foldl (fun (s : State) (c' : Nat × Byte × Option Nat) => s.cruiseWrite c [(c'.1, c'.2.1)] c'.2.2) s
      let s := (s.noteKeys none (some c) x.keys).noteCruiseRead c (x.readGran.map (256 * ·))
      { s with cruises := s.cruises.mod c fun y =>
          let y := { y with pages := x.pages.foldl (fun (p : NatSet) g => p.add g) y.pages }
          if x.written.any fun h => decide (hostBase ≤ h / 2) then y.cause 8 else y }
    | none =>
      let kept := (taskCells x).filter fun (c : Nat × Byte × Option Nat) => !s.placeLost x.part (keyPlace c.1)
      let s := s.unitDrop (commitAgent x) (s.commitLost x)
      s.writePlaces (kept.map fun (c : Nat × Byte × Option Nat) => (keyPlace c.1, x.keys.getD (c.1 / 64) 0, [c.2.1], [false], c.2.2)) (some x.launch)
  { s with tasks := s.tasks.put k { x with buf := [], written := [], pages := [], keys := [] } }

/-- Whether a deferred message can be sent now (R37). -/
def msgRoom (s : State) (m : Msg) : Bool := if m.pkg.isSome then s.transitRoom m else decide ((s.core m.core).inbound.length < 16)

/-- Send a committing task's deferred messages in program order, as far as there is room (R277). -/
def sendDeferred (s : State) (k : Nat) : Nat → State
  | 0 => s
  | fuel + 1 =>
    match s.tasks.get? k with
    | none => s
    | some x =>
      match x.msgs with
      | [] => s
      | m :: r =>
        if !s.msgRoom m then s else
        let (id, s) := s.fresh
        let s := { s with tasks := s.tasks.put k { x with msgs := r } }
        (s.transit { m with seq := id, sender := k, arrived := m.pkg.isNone }).sendDeferred k fuel

/-- A committing task with nothing left to write or send has committed, and its record is freed (R272). -/
def endCommit (s : State) (k : Nat) : State :=
  match s.tasks.get? k with
  | some x =>
    if x.written.isEmpty && x.msgs.isEmpty then
      let s := { s with tasks := s.tasks.del k }
      (s.modLaunch x.launch fun l => { l with committed := x.key.stamp }).countEvent x.core 0x28 1
    else s
  | none => s

/-- Whether a committing task can go on. -/
def commitDue (s : State) (x : Task) : Bool :=
  if x.written.isEmpty then x.msgs.isEmpty || s.msgRoom (x.msgs.headD { core := 0, index := 0, part := 0, launch := 0, wg := 0, srcCore := 0 })
  else s.linesReady x

/-- The committing tasks of a launch, lowest key first. -/
def committing (s : State) (l : Nat) : List (Nat × Task) :=
  ((s.launchTasks l).filter fun _ x => x.phase == .committing).foldl (fun acc e => insertTask e acc) []

/-- Whether an earlier committing task shares a line with a task: commits that share one are performed in key order. -/
def sharesEarlier (s : State) (l : Nat) (x : Task) : Bool :=
  (s.committing l).any fun e => e.2.key.lt x.key && (taskLines e.2).any (taskLines x).contains

/-- The next approved task that begins to commit: the lowest of those finished still, once its parent has committed, and not
while a task of lower key is unfinished again, its attempt aborted since the reduction, or has finished since and is not
approved yet (R276); none once a pre-emption is asked for (R280). -/
def nextCommit (s : State) (l : Nat) : Option (Nat × Task) :=
  if !s.launchRuns l then none else
  match ((s.launch? l).elim [] (·.approved)).findSome? (fun k => ((s.tasks.get? k).filter fun x => x.phase == .finished).map fun x => (k, x)) with
  | some (k, x) =>
    if (x.parent.all fun p => (s.tasks.get? p).isNone) && ((s.lowestKey l).all fun b => x.key.lt b) &&
        (s.launchTasks l).all fun y => y.2.phase != .finished || !y.2.key.lt x.key then some (k, x) else none
  | none => none

end State

/-- TASK_COMMIT (R276, R277): the flight carries a commit on, or begins the next approved one. Once begun, nothing aborts
it; its bytes become visible in one step. -/
def execTaskCommit (launch : Nat) (s : State) : Host.Outcome State Fault Refusal :=
  match (s.committing launch).find? fun e => s.commitDue e.2 && !s.sharesEarlier launch e.2 with
  | some (k, x) => .next (((s.commitBytes k x).sendDeferred k 8).endCommit k)
  | none =>
    match s.nextCommit launch with
    | some (k, x) =>
      let s := s.modLaunch launch fun l => { l with begun := some (x.key.stamp, x.key.time) }
      .next { s with tasks := s.tasks.put k { x with phase := .committing } }
    | none => .refused (.notDue "TASK_COMMIT")

end Sys2Proof.Machine
end

