-- ==== Sys2Proof/Machine/Halt.lean ====
section
/-!
DEFINITION. Ending a thread (01 R23, R40; 06 R156; 12 R290; 16 R312): HALT and HALT.R, and what a thread leaves when it
has halted.
-/

namespace Sys2Proof.Machine

namespace State

/-- The writes a halting thread waits for: complete for package scope, or for system scope in host memory (R156). -/
def haltWrites (s : State) (t : Nat) : Bool :=
  s.ops.all fun e => e.2.tid != t || !e.2.writes || e.2.parts.all fun p =>
    p.writeDone true (match p.place with
      | .host _ _ => 7
      | _ => 5)

/-- Whether g1-g8 of a request thread are full, so that its reply can be formed (R156). -/
def replyReady (th : Thread) : Bool :=
  match th.role with
  | .request _ => (List.range 8).all fun n => (th.readG (n + 1)).full
  | _ => true

/-- The reply of a request: its g1-g8 fill its poster's mailbox, with their poison (R23, R156). -/
def reply (s : State) (th : Thread) : State :=
  match th.role with
  | .request p => s.modThread p fun x =>
      (List.range 8).foldl (fun x n =>
        { x with mb := x.mb.setD n {} { val := (th.readG (n + 1)).val, poison := (th.readG (n + 1)).poison } }) x
  | _ => s

/-- A shading thread's colour goes to its tile's store (R290). -/
def shaded (s : State) (th : Thread) : State :=
  match th.role with
  | .shading tile x y =>
    let key := th.launch * 2 ^ 32 + tile
    { s with tiles := s.tiles.mod key fun p =>
        let c := if (th.readG 2).val.getLsbD 0 then p.colour.put (y % 32 * 32 + x % 32) (th.readG 1).val else p.colour
        { p with shading := p.shading - 1, colour := c } }
  | _ => s

/-- HALT.R's context waits for its successor, its private area kept (R40). -/
def reserve (s : State) (th : Thread) : State :=
  match th.home, th.successor with
  | .scalar c x, some idx =>
    s.modCore c fun k => { k with reserved := k.reserved.put x (th.launch, th.wg, idx) }
  | _, _ => s

/-- When a group halts, its unresolved guard slots resolve false (R312). -/
def haltGuards (s : State) (h : Home) : State :=
  match h with
  | .scalar c x => s.resolveGuards c x
  | .wave e i _ => if (s.groupThreads (waveKey e) i).length ≤ 1 then s.resolveGuards (waveKey e) i else s
  | _ => s

/-- A thread has halted. -/
def finishHalt (s : State) (t : Nat) : State :=
  match s.thread? t with
  | none => s
  | some th =>
    let s := (((s.reply th).shaded th).haltGuards th.home).removeThread t th.successor.isSome
    s.reserve th

/-- Every halting thread that has nothing left to wait for has halted; asked after each completion of a write or of a
register. -/
def settleHalts (s : State) : State :=
  (s.threads.filter fun _ th => th.status == .halting).foldl (fun s e =>
    if s.haltWrites e.1 && replyReady e.2 then s.finishHalt e.1 else s) s

end State

/-- HALT is illegal in a task and in a bound thread; HALT.R in a wave and in a shading thread too (R156, R255, R290). -/
def haltLegal (i : Ins) (s : State) (t : Nat) : Bool :=
  match s.thread? t with
  | some th => th.taskOf.isNone && th.ray.isNone && (i.op == .halt || (!(s.homeOf t).isWave && !th.isShading))
  | none => false

/-- A shading thread's g1 and g2 are taken once they are full, and a poisoned colour that is to be written traps
(R290). -/
def haltCheck (s : State) (t : Nat) : Check :=
  match s.thread? t with
  | some th =>
    if !th.isShading then .ok
    else
      let c := th.readG 1
      let w := th.readG 2
      if !c.full || !w.full then .hold
      else if w.poison then .trap 4 2
      else if c.poison && w.val.getLsbD 0 then .trap 4 1 else .ok
  | none => .ok

/-- HALT and HALT.R (R40, R156): the thread leaves the run at once; it has halted when its writes are complete. -/
def haltSem : Sem :=
  { legal := haltLegal
    check := fun _ _ s t => haltCheck s t
    act := fun i _ ts s =>
      (ts.foldl (fun s t =>
        let idx := if i.op = .haltR then some ((s.wordB t i).toNat % 4096) else none
        ((s.leaveRun t).modThread t fun th => { th with successor := idx }).setStatus t .halting) s).settleHalts }

/-- HALT, base form (R156). -/
def execHaltB32 (w : B32) (s : State) : Host.Outcome State Fault Refusal := issue haltSem (w.ins .halt) s

/-- HALT, extended form (R156). -/
def execHaltX96 (w : X96) (s : State) : Host.Outcome State Fault Refusal := issue haltSem (w.ins .halt) s

/-- HALT.R (R156). -/
def execHaltR (w : X96) (s : State) : Host.Outcome State Fault Refusal := issue haltSem (w.ins .haltR) s

end Sys2Proof.Machine
end

