-- ==== Sys2Proof/Machine/Special.lean ====
section
/-!
DEFINITION. Special functions as long-latency producers (07 R179, R180): majors 0x70-0x77 and their completion.
-/

namespace Sys2Proof.Machine

/-- FRCP to FTANH (R179): D is marked empty and a producer remembers operand, rounding mode and draw; only FSQRT rounds
under its selector (R114). -/
def specialSem : Sem :=
  { act := fun i _ ts s => ts.foldl (fun s t =>
      let x := s.fltA i t i.ty
      let (m, us, s) := if i.op = .fsqrt then s.rounding t i.hint 1 else (1, [], s)
      let (k, s) := (s.emptyD t i).fresh
      { s with producers := s.producers.put k (.special t i.op i.d i.ty x (m + 8 * us.headD 0) s.issueNo) }) s }

/-- A producer that does not access memory delivers a register value: the destination completes full (R126), and the
flags are ORed then (R112); of an instruction of one thread alone no issue needs to be told apart, and 31 names none. -/
def State.deliver (s : State) (t d n v : Nat) (fl : FFlags) (poison : Bool := false) (issue : Nat := 31) : State :=
  let s := s.modThread t fun th =>
    (List.range n).foldl (fun th k => th.writeG (d + k) (BitVec.ofNat 32 (v / 2 ^ (32 * k))) poison) th
  (s.raiseFlags t issue fl).settleHalts

/-- SPECIAL_FUNCTION_COMPLETION (R179). -/
def execSpecialFunctionCompletion (prod : Nat) (s : State) : Host.Outcome State Fault Refusal :=
  match s.producers.get? prod with
  | some (.special t op d f x mode k) =>
    let (r, fl) := specialValue op f (mode % 8) (mode / 8) x
    .next ({ s with producers := s.producers.del prod }.deliver t d (fmtRegs f) (elemWrite f r) fl false k)
  | _ => .refused (.notDue "SPECIAL_FUNCTION_COMPLETION")

/-- FRCP, base form (R115). -/
def execFrcpB32 (w : B32) (s : State) : Host.Outcome State Fault Refusal := issue specialSem (w.ins .frcp) s

/-- FRCP, extended form (R115). -/
def execFrcpX96 (w : X96) (s : State) : Host.Outcome State Fault Refusal := issue specialSem (w.ins .frcp) s

/-- FRSQ, base form (R179). -/
def execFrsqB32 (w : B32) (s : State) : Host.Outcome State Fault Refusal := issue specialSem (w.ins .frsq) s

/-- FRSQ, extended form (R179). -/
def execFrsqX96 (w : X96) (s : State) : Host.Outcome State Fault Refusal := issue specialSem (w.ins .frsq) s

/-- FSQRT, base form (R179). -/
def execFsqrtB32 (w : B32) (s : State) : Host.Outcome State Fault Refusal := issue specialSem (w.ins .fsqrt) s

/-- FSQRT, extended form (R179). -/
def execFsqrtX96 (w : X96) (s : State) : Host.Outcome State Fault Refusal := issue specialSem (w.ins .fsqrt) s

/-- FEXP2, base form (R179). -/
def execFexp2B32 (w : B32) (s : State) : Host.Outcome State Fault Refusal := issue specialSem (w.ins .fexp2) s

/-- FEXP2, extended form (R179). -/
def execFexp2X96 (w : X96) (s : State) : Host.Outcome State Fault Refusal := issue specialSem (w.ins .fexp2) s

/-- FLOG2, base form (R179). -/
def execFlog2B32 (w : B32) (s : State) : Host.Outcome State Fault Refusal := issue specialSem (w.ins .flog2) s

/-- FLOG2, extended form (R179). -/
def execFlog2X96 (w : X96) (s : State) : Host.Outcome State Fault Refusal := issue specialSem (w.ins .flog2) s

/-- FSIN, base form (R179). -/
def execFsinB32 (w : B32) (s : State) : Host.Outcome State Fault Refusal := issue specialSem (w.ins .fsin) s

/-- FSIN, extended form (R179). -/
def execFsinX96 (w : X96) (s : State) : Host.Outcome State Fault Refusal := issue specialSem (w.ins .fsin) s

/-- FCOS, base form (R179). -/
def execFcosB32 (w : B32) (s : State) : Host.Outcome State Fault Refusal := issue specialSem (w.ins .fcos) s

/-- FCOS, extended form (R179). -/
def execFcosX96 (w : X96) (s : State) : Host.Outcome State Fault Refusal := issue specialSem (w.ins .fcos) s

/-- FTANH, base form (R179). -/
def execFtanhB32 (w : B32) (s : State) : Host.Outcome State Fault Refusal := issue specialSem (w.ins .ftanh) s

/-- FTANH, extended form (R179). -/
def execFtanhX96 (w : X96) (s : State) : Host.Outcome State Fault Refusal := issue specialSem (w.ins .ftanh) s

end Sys2Proof.Machine
end

