-- ==== Sys2Proof/Machine/Tile.lean ====
section
/-!
DEFINITION. Tile and matrix instructions (09 R223-R241): tile shapes and rows, row loads and stores, scans and gathers,
the matrix queue, and accumulators.
-/

namespace Sys2Proof.Machine

/-! ### Shapes and rows -/

/-- The shape a tile register takes from its configuration (R223). -/
structure Shape where
  valid : Bool
  fmt : Nat
  rows : Nat
  rowBytes : Nat
deriving DecidableEq, Repr

/-- Bits an element takes in a row: a 6-bit element a byte (R223, R224). -/
def elemStep (f : Nat) : Nat := if fmtBits f = 6 then 8 else fmtBits f

/-- The shape a configuration word gives. -/
def shapeOf (w : W32) : Shape :=
  let v := w.toNat
  { valid := bit v 31, fmt := bits v 4 0, rows := bits v 11 6, rowBytes := bits v 18 12 }

/-- Elements in a row. -/
def Shape.n (h : Shape) : Nat := h.rowBytes * 8 / elemStep h.fmt

namespace Tile

/-- Row i of a tile register as a number. -/
def row (m : Tile) (i : Nat) : Nat := natOfBytes (m.data.read (64 * i) 64)

/-- Element k of row i under a shape. -/
def elem (m : Tile) (h : Shape) (i k : Nat) : Nat := elemOf h.fmt (laneOf (elemStep h.fmt) (m.row i) k)

/-- Replace the elements of row i. -/
def setRow (m : Tile) (h : Shape) (i : Nat) (es : List Nat) (poison : Bool) : Tile :=
  { m with data := m.data.write (64 * i) (bytesOfNat h.rowBytes (packLanes (elemStep h.fmt) (es.map (elemOf h.fmt))))
           poison := m.poison.set i poison }

/-- Word j of row i of an accumulator. -/
def word (a : Tile) (i j : Nat) : Nat := natOfBytes (a.data.read (128 * i + 4 * j) 4)

/-- Replace word j of row i of an accumulator. -/
def setWord (a : Tile) (i j v : Nat) : Tile := { a with data := a.data.write (128 * i + 4 * j) (bytesOfNat 4 v) }

end Tile

namespace State

/-- The wave slot of a thread: its engine, number and state. -/
def slotOf (s : State) (t : Nat) : Option (Nat × Nat × Slot) :=
  match s.homeOf t with
  | .wave e i _ => (s.slot? e i).map fun x => (e, i, x)
  | _ => none

/-- The shape of a tile register of a thread's slot. -/
def shape (s : State) (t n : Nat) : Shape :=
  match s.slotOf t with
  | some (_, _, x) => shapeOf (x.tcfg.getD n 0)
  | none => shapeOf 0

/-- A tile register of a slot. -/
def tile (s : State) (e i n : Nat) : Tile := ((s.slot? e i).map fun x => x.m.getD n {}).getD {}

/-- Change a tile register. -/
def modTile (s : State) (e i n : Nat) (f : Tile → Tile) : State :=
  s.modSlot e i fun x => { x with m := x.m.setD n {} (f (x.m.getD n {})) }

/-- An accumulator of a slot. -/
def accum (s : State) (e i n : Nat) : Tile := ((s.slot? e i).map fun x => x.acc.getD n {}).getD {}

/-- Change an accumulator. -/
def modAcc (s : State) (e i n : Nat) (f : Tile → Tile) : State :=
  s.modSlot e i fun x => { x with acc := x.acc.setD n {} (f (x.acc.getD n {})) }

/-- Whether a queued matrix entry names a tile register (R235). -/
def mmaNamesTile (s : State) (t n : Nat) : Bool :=
  match s.slotOf t with
  | some (_, _, x) => x.mq.any fun m => m.a == n || m.b == n || (m.scaled && (m.sa == n || m.sb == n))
  | none => false

/-- Whether a queued matrix entry names an accumulator (R235). -/
def mmaNamesAcc (s : State) (t n : Nat) : Bool :=
  match s.slotOf t with
  | some (_, _, x) => x.mq.any fun m => m.acc == n
  | none => false

/-- Whether a row of a tile register of a thread's slot is pending. -/
def tilePending (s : State) (t n : Nat) (row : Option Nat) : Bool :=
  match s.slotOf t with
  | some (_, _, x) =>
    let p := (x.m.getD n {}).pending
    match row with
    | some r => p.has r
    | none => !p.isEmpty
  | none => false

/-- Whether a row of an accumulator of a thread's slot is pending. -/
def accPending (s : State) (t n : Nat) (row : Option Nat) : Bool :=
  match s.slotOf t with
  | some (_, _, x) =>
    let p := (x.acc.getD n {}).pending
    match row with
    | some r => p.has r
    | none => !p.isEmpty
  | none => false

end State

/-- No task may use tiles (R225). -/
def tileLegal (_ : Ins) (s : State) (t : Nat) : Bool := ((s.thread? t).bind (·.taskOf)).isNone

/-- The tile registers an instruction names, with the field value and code of each (R223, R226). -/
def namedTiles (i : Ins) : List (Nat × Nat × Nat) :=
  match i.op with
  | .tld | .tldt | .tst | .tgather | .accCvt => [(i.d, i.d, 0)]
  | .nzscan => (i.a, i.a, 1) :: if 8 ≤ i.x then [(i.x % 8, i.x, 4)] else []
  | .mma => [(i.a, i.a, 1), (i.b, i.b, 2)]
  | .mmaS => [(i.a, i.a, 1), (i.b, i.b, 2), (i.x % 8, i.x, 4), (i.x / 16 % 8, i.x, 4)]
  | _ => []

/-- A named register whose configuration is not valid raises 0x02 (R223). -/
def tileRange (i : Ins) (s : State) (t : Nat) : Option W32 :=
  (namedTiles i).findSome? fun n =>
    if (s.shape t n.1).valid then none else some (BitVec.ofNat 32 (n.2.1 % 256 + n.2.2 * 256))

/-! ### Conversions of rows -/

/-- Convert elements in increasing order; those whose format differs take the next draw each (R107, R227). Each source
element is its format and value, and the factor of a scaled row. A scaled element follows the rules of GCVT (R182, R231) where the
block's scale is infinite or a NaN too, though R109 calls every product of such a block invalid (DESIGN CHOICE, log 150). -/
def convertRow (fmt mode : Nat) : List Nat → List (Nat × Nat × Option Val) → List Nat × FFlags
  | _, [] => ([], {})
  | us, (fm, raw, scale) :: r =>
    if fm = fmt ∧ scale = none then
      let (vs, fl) := convertRow fmt mode us r
      (elemOf fmt raw :: vs, fl)
    else
      let v := decodeVal fm (elemOf fm raw)
      let (x, f0) : Val × FFlags := match scale with
        | some w => v.mul w
        | none => (v, {})
      let (y, f1) := roundVal fmt mode (us.headD 0) x
      let (vs, fl) := convertRow fmt mode (us.drop 1) r
      (y :: vs, (f0.or f1).or fl)

/-- Round every element of a row, one draw each, those of the row's own format too (R238). -/
def roundRow (fmt mode src : Nat) (us raws : List Nat) : List Nat × FFlags :=
  let rs := ((List.range raws.length).zip raws).map fun x =>
    roundVal fmt mode (us.getD x.1 0) (decodeVal src (elemOf src x.2))
  (rs.map (·.1), rs.foldl (fun f r => f.or r.2) {})

/-- The source elements of a memory row at one format, with the scale words of a gathered one (R227, R231). -/
def rowElems (fm n : Nat) (bs : List Byte) (scales : List Byte) : List (Nat × Nat × Option Val) :=
  let v := natOfBytes bs
  (List.range n).map fun k =>
    (fm, laneOf (elemStep fm) v k,
      if scales.isEmpty then none else some (decodeVal 1 (natOfBytes ((scales.drop (k / 32 * 4)).take 4))))

/-- The source elements of 16 words, each at its own bank's format (R228). -/
def wordElems (n : Nat) (ws : List (Nat × Nat)) : List (Nat × Nat × Option Val) :=
  (ws.flatMap fun w => (List.range (32 / elemStep w.1)).map fun k => (w.1, laneOf (elemStep w.1) w.2 k, (none : Option Val))).take n

/-- Bytes of a memory row of n elements. -/
def rowLen (fm n : Nat) : Nat := (n * elemStep fm + 7) / 8

/-! ### Row addresses -/

namespace State

/-- The lane of a thread. -/
def laneAt (s : State) (t : Nat) : Nat := (s.homeOf t).lane

/-- Where lane t's memory row lies for TLD, TST, ACC.LD and ACC.ST (R227, R236). -/
def rowEa (s : State) (i : Ins) (t : Nat) : W64 :=
  s.memEa t i + BitVec.ofNat 64 (s.laneAt t * s.srcVal t i .c)

/-- The index of TGATHER's row, and where the row and its scale words lie (R231). -/
def gatherEa (s : State) (i : Ins) (t : Nat) : W32 × W64 × W64 :=
  let idx := s.wordB t i
  let c := s.srcVal t i .c
  (idx, BitVec.ofNat 64 (s.srcVal t i .a + idx.toNat * (c % 2 ^ 32)),
    BitVec.ofNat 64 (s.srcVal t i .x + idx.toNat * (c / 2 ^ 32)))

/-- The memory format of a typed row as it issues: its bank's, or the instruction's (R68, R227). -/
def rowFmt (s : State) (i : Ins) (t : Nat) (ea : W64) : Nat :=
  let f := s.bankAt t 0 ea
  if f = 0 then i.ty else f

/-- Whether a thread's row takes part: its lane lies below ROWS. -/
def rowActive (s : State) (i : Ins) (t : Nat) : Bool :=
  match i.op with
  | .accLd | .accSt => true
  | _ => decide (s.laneAt t < (s.shape t i.d).rows)

/-- The address ranges of a row instruction for a thread (R227, R231, R236). -/
def rowRanges (s : State) (i : Ins) (t : Nat) : List (W64 × Nat) :=
  match i.op with
  | .tgather =>
    let (idx, ea, sc) := s.gatherEa i t
    let n := (s.shape t i.d).n
    if idx = 0xFFFFFFFF#32 then []
    else (ea, rowLen (s.rowFmt i t ea) n) :: if i.x = 0 then [] else [(sc, 4 * ((n + 31) / 32))]
  | .accLd | .accSt => [(s.rowEa i t, 128)]
  | _ => let ea := s.rowEa i t
         [(ea, rowLen (s.rowFmt i t ea) (s.shape t i.d).n)]

/-- What a row instruction needs of its pages. -/
def rowNeed (i : Ins) : Need :=
  match i.op with
  | .tst | .accSt => { w := true }
  | _ => { r := true }

/-- Resolve a thread's row. -/
def rowParts (s : State) (i : Ins) (t : Nat) : LocRes :=
  joinLoc ((s.rowRanges i t).map fun r => s.locate t 0 r.1 r.2 (rowNeed i))

end State

namespace State

/-- The row a load of a thread goes to. -/
def rowDest (s : State) (i : Ins) (t : Nat) : Option Dest :=
  match s.slotOf t, i.op with
  | some (e, sl, _), .accLd => some (.accRow (slotKey e sl) i.d (s.laneAt t))
  | some (e, sl, _), .tld | some (e, sl, _), .tgather => some (.tileRow (slotKey e sl) i.d (s.laneAt t))
  | _, _ => none

/-- Whether the fetch of a thread's own row waits for a translation or has faulted (R240). -/
def rowFaulted (s : State) (i : Ins) (t : Nat) : Bool :=
  (s.thread? t).any fun th => th.rowHeld.isSome && th.rowHeld == s.rowDest i t

/-- Set a thread's row of what it loads pending, or not. -/
def setRowPending (s : State) (i : Ins) (t : Nat) (b : Bool) : State :=
  let s := s.modThread t fun th => { th with rowHeld := if b then s.rowDest i t else none }
  match s.slotOf t with
  | none => s
  | some (e, sl, _) =>
    let row := s.laneAt t
    match i.op with
    | .accLd => s.modAcc e sl i.d fun a => { a with pending := a.pending.set row b }
    | .tld | .tgather => s.modTile e sl i.d fun m => { m with pending := m.pending.set row b }
    | _ => s

/-- The waits of R235: a queued entry names the tile that will be written, or the accumulator touched. A row whose fetch
has faulted was issued before the entry, which waits for it (R240; log 100). -/
def rowWaits (s : State) (i : Ins) (t : Nat) : Bool :=
  match i.op with
  | .tld | .tgather => s.mmaNamesTile t i.d && !s.rowFaulted i t
  | .tldt => s.mmaNamesTile t i.d
  | .accLd => s.mmaNamesAcc t i.d && !s.rowFaulted i t
  | .accSt => s.mmaNamesAcc t i.d
  | _ => false

end State

/-- The checks of a row instruction for one thread (R227, R236, R240, R402); a store waits for its row, and no row is
fetched before the waits of R235 are over. -/
def rowCheck (i : Ins) (s : State) (t : Nat) : Check :=
  if !s.rowActive i t then .ok
  else
    match s.locCheck t (State.rowNeed i) false (s.rowParts i t) with
    | .ok =>
      let waits := match i.op with
        | .tst => s.tilePending t i.d (some (s.laneAt t))
        | .accSt => s.accPending t i.d (some (s.laneAt t))
        | _ => false
      if waits then .hold else .ok
    | .park kind page addr w a p => if s.rowWaits i t then .hold else .park kind page addr w a p
    | c => c

/-- Ask for the translations a thread's row still needs. The row is pending from then on (R227, R240). -/
def State.rowPrep (i : Ins) (s : State) (t : Nat) : State :=
  if !s.rowActive i t || s.rowWaits i t then s
  else
    match s.rowParts i t with
    | .miss part va => 
      let from' := ((s.rowRanges i t).find? fun r => !(s.locate t 0 r.1 r.2 (State.rowNeed i) matches .parts _)).elim 0 (·.1.toNat)
      (s.setRowPending i t true).askWalk t part va from' (State.rowNeed i) false
    | _ => s

/-- A row whose fetch faults is pending from then on (R240). -/
def rowParked (i : Ins) (s : State) (t : Nat) : State := s.setRowPending i t true

/-- A row whose fetch traps is not (R46, R240). -/
def rowTrapped (i : Ins) (s : State) (t : Nat) : State :=
  if s.rowFaulted i t && !(s.ops.any fun o => some o.2.dest == s.rowDest i t) then s.setRowPending i t false
  else s.modThread t fun th => { th with rowHeld := none }

/-- No row is held back by R235. -/
def rowReady (i : Ins) (ts : List Nat) (s : State) : Bool := ts.all fun t => !s.rowWaits i t

namespace State

/-- Begin a row load into a tile register: the row is pending (R227). `fm` is TYPE for a row of one bank. -/
def beginRow (s : State) (i : Ins) (t e sl : Nat) (ps : List Part) (fm : Option Nat) (draws : Nat) : State :=
  let h := s.shape t i.d
  let row := s.laneAt t
  let (mode, us, s) := s.rounding t 0 draws
  let (id, o, s) := s.newOp i t { ea := (s.rowRanges i t).headD (0, 0) |>.1, n := 0 } .load ps
  let o : MemOp :=
    { o with ord := 0, scope := 0, stamp := none, dest := .tileRow (slotKey e sl) i.d row, fmt := fm
             row := some (h.fmt, h.n), ty := i.ty, c := h.n, mode := mode, draws := us
             also := ((s.rowRanges i t)[1]?).map fun r => (r.1.toNat, r.2) }
  let s := { s with ops := s.ops.put id o }.modThread t fun th => { th with rowHeld := none }
  s.modTile e sl i.d fun m => { m with pending := m.pending.add row }

/-- The parts of a thread's row as an operation carries them. -/
def rowIssue (s : State) (i : Ins) (t : Nat) : List Part :=
  let ps := s.issueParts i t (s.rowParts i t)
  ps

/-- Put elements into a row of a tile register, after the loads of the row that are still outstanding (R235): the row stays
pending until they have landed. -/
def putRow (s : State) (i : Ins) (t e sl n row : Nat) (h : Shape) (es : List Nat) : State :=
  let s := s.modThread t fun th => { th with rowHeld := none }
  let held := s.threads.any fun x => x.2.rowHeld == some (.tileRow (slotKey e sl) n row)
  if s.ops.any fun o => o.2.dest == .tileRow (slotKey e sl) n row then
    let bs := bytesOfNat h.rowBytes (packLanes (elemStep h.fmt) (es.map (elemOf h.fmt)))
    let (id, o, s) := s.newOp i t { ea := 0, n := 0 } .load
      [{ place := .doorbell 0, n := h.rowBytes, data := bs, phase := .value, l1 := false }]
    let o : MemOp :=
      { o with ord := 0, scope := 0, stamp := none, dest := .tileRow (slotKey e sl) n row, fmt := some h.fmt
               row := some (h.fmt, h.n), ty := h.fmt, c := h.n }
    { s with ops := s.ops.put id o }
  else s.modTile e sl n fun m => { m.setRow h row es false with live := true, pending := m.pending.set row held }

/-- TLD and TGATHER for one thread (R227, R231). -/
def loadRow (i : Ins) (s : State) (t : Nat) : State :=
  match s.slotOf t with
  | none => s
  | some (e, sl, _) =>
    if !s.rowActive i t then s
    else
      let h := s.shape t i.d
      match s.rowRanges i t with
      | [] => s.putRow i t e sl i.d (s.laneAt t) h (List.replicate h.n 0)
      | (ea, _) :: _ =>
        let fm := s.rowFmt i t ea
        let scaled := i.op == .tgather && i.x != 0
        s.beginRow i t e sl (s.rowIssue i t) (some i.ty) (if fm = h.fmt ∧ !scaled then 0 else h.n)

/-- TST for one thread: its row's elements, converted in increasing order to the format its bank has as it issues; at the bank
they take the format it has then (R68, R227). -/
def storeRow (i : Ins) (s : State) (t : Nat) : State × FFlags :=
  match s.slotOf t with
  | none => (s, {})
  | some (e, sl, _) =>
    if !s.rowActive i t then (s, {})
    else
      let h := s.shape t i.d
      let row := s.laneAt t
      let m := s.tile e sl i.d
      let ea := s.rowEa i t
      let fm := s.rowFmt i t ea
      let (mode, us, s) := s.rounding t 0 (if fm = h.fmt then 0 else h.n)
      let (es, fl) := convertRow fm mode us ((List.range h.n).map fun k => (h.fmt, m.elem h row k, none))
      let bs := bytesOfNat (rowLen fm h.n) (packLanes (elemStep fm) es)
      let odd := elemStep fm = 4 ∧ h.n % 2 = 1
      let locs (a : W64) (n : Nat) : List Part := s.issueParts i t (s.locate t 0 a n { w := true })
      let whole := fillParts bs (locs ea bs.length)
      let bank := whole.any fun p => match p.place with
        | .loc _ => true
        | _ => false
      let ps := if !odd || bank then whole
        else
          let full := bs.length - 1
          fillParts bs (if full = 0 then [] else locs ea full) ++ (locs (ea + BitVec.ofNat 64 full) 1).map fun p =>
            { p with data := bs.drop full, nibble := some 0 }
      let ps := ps.map fun p => { p with poison := m.poison.has row }
      let (id, o, s) := s.newOp i t { ea := ea, n := 0 } .store ps
      let o : MemOp :=
        { o with ord := 0, scope := 0, stamp := none, fmt := if bank then some i.ty else none, row := some (h.fmt, h.n)
                 c := packLanes (elemStep h.fmt) ((List.range h.n).map fun k => m.elem h row k), mode := mode, draws := us }
      (({ s with ops := s.ops.put id o }).tryCopy id, fl)

end State

/-- TLD and TGATHER (R227, R231). -/
def tldSem : Sem :=
  { legal := tileLegal, range := tileRange, ready := rowReady
    prep := fun i _ ts s => ts.foldl (State.rowPrep i) s
    check := fun i _ s t => rowCheck i s t
    parked := rowParked, trapped := rowTrapped
    act := fun i _ ts s => ts.foldl (State.loadRow i) s }

/-- TST (R227). -/
def tstSem : Sem :=
  { legal := tileLegal, range := tileRange, ready := rowReady
    prep := fun i _ ts s => ts.foldl (State.rowPrep i) s
    check := fun i _ s t => rowCheck i s t
    act := fun i _ => perFlags fun t s => State.storeRow i s t }

/-! ### TLDT -/

/-- The words of a thread's row of a diagonal region: the cluster's core and the offset of each (R67, R228). -/
def diagWords (s : State) (i : Ins) (t : Nat) : List Nat :=
  let b := (s.wordB t i).toNat
  let cl := (s.homeOf t).stand * 8 + bits b 11 9
  let dg := ((s.cluster cl).dgn.getD (bits b 13 12) 0).toNat
  let lane := s.laneAt t
  let block := bits b 8 0 + lane / 16
  (List.range 16).map fun j =>
    let r := if bit b 14 then j else lane % 16
    let c := if bit b 14 then lane % 16 else j
    locKey (coreOfCluster cl ((r + c) % 16)) ((bits dg 21 9 + 16 * block + r) * 4)

/-- The format of a word: its bank's, or the instruction's (R228). -/
def State.wordFmt (s : State) (ty key : Nat) : Nat :=
  let f := (s.core (locCore key)).bfmt.toNat % 16
  if f = 0 then ty else f

/-- TLDT's checks for one thread (R228). -/
def tldtCheck (i : Ins) (s : State) (t : Nat) : Check :=
  let b := (s.wordB t i).toNat
  let cl := (s.homeOf t).stand * 8 + bits b 11 9
  let dg := ((s.cluster cl).dgn.getD (bits b 13 12) 0).toNat
  if b / 2 ^ 15 ≠ 0 then .trap 1 i.word0
  else if !s.rowActive i t then .ok
  else
    let have' := (diagWords s i t).foldl (fun n k => n + 32 / elemStep (s.wordFmt i.ty k)) 0
    if have' < (s.shape t i.d).n then .trap 1 i.word0
    else if !bit dg 31 || decide (bits dg 30 22 ≤ bits b 8 0 + s.laneAt t / 16) then
      .trap 2 (BitVec.ofNat 32 (i.b % 256 + 512))
    else .ok

/-- TLDT for one thread (R228). -/
def State.loadDiag (i : Ins) (s : State) (t : Nat) : State :=
  match s.slotOf t with
  | none => s
  | some (e, sl, _) =>
    if !s.rowActive i t then s
    else
      let h := s.shape t i.d
      let ks := diagWords s i t
      let ps : List Part := ks.map fun k => { place := .loc k, n := 4, l1 := false }
      let es := wordElems h.n (ks.map fun k => (s.wordFmt i.ty k, 0))
      s.beginRow i t e sl ps none ((es.filter fun x => x.1 != h.fmt).length)

/-- TLDT (R228). -/
def tldtSem : Sem :=
  { legal := tileLegal, range := tileRange, ready := rowReady
    check := fun i _ s t => tldtCheck i s t
    act := fun i _ ts s => ts.foldl (State.loadDiag i) s }

/-! ### TZERO and NZSCAN -/

/-- TZERO (R229). -/
def tzeroSem : Sem :=
  { legal := tileLegal
    ready := fun i ts s => ts.all fun t => !s.mmaNamesTile t i.d && !s.tilePending t i.d none
    act := fun i lead _ s =>
      match s.slotOf lead with
      | some (e, sl, _) => s.modTile e sl i.d fun _ => {}
      | none => s }

/-- Whether an element counts as zero (R230). -/
def elemZero (fmt raw : Nat) : Bool :=
  match decodeVal fmt raw with
  | .zero _ => true
  | _ => false

/-- NZSCAN's checks, made on the scan word of the lowest-numbered active thread (R230). -/
def nzscanCheck (i : Ins) (lead : Nat) (s : State) (t : Nat) : Check :=
  let b := (s.wordB lead i).toNat
  let a := s.shape t i.a
  let x := s.shape t (i.x % 8)
  let row := bits b 12 8
  let bad := bits b 31 21 ≠ 0 ∨ bits b 15 13 ≠ 0 ∨ bit b 7 ∨ a.rows ≤ row ∨ a.n ≤ bits b 6 0 ∨ i.ty ≠ a.fmt ∨
    (8 ≤ i.x ∧ (x.fmt ≠ a.fmt ∨ x.rows ≤ bits b 20 16))
  if bad then .trap 1 i.word0
  else if s.tilePending t i.a (some row) then .hold
  else
    match s.slotOf t with
    | some (_, _, y) => if (y.m.getD i.a {}).poison.has row then .trap 4 (BitVec.ofNat 32 (i.a + 256)) else .ok
    | none => .ok

/-- NZSCAN (R230). -/
def nzscanSem : Sem :=
  { legal := tileLegal, range := tileRange, check := nzscanCheck
    ready := fun i ts s => i.x < 8 || ts.all fun t => !s.mmaNamesTile t (i.x % 8)
    act := fun i lead ts s =>
      match s.slotOf lead with
      | none => s
      | some (e, sl, _) =>
        let b := (s.wordB lead i).toNat
        let h := s.shape lead i.a
        let m := s.tile e sl i.a
        let row := bits b 12 8
        let start := bits b 6 0
        let cols := ((List.range (min (start + 32) h.n - start)).map fun k => start + k).filter fun k =>
          !elemZero h.fmt (m.elem h row k)
        let s := ts.foldl (fun s t => s.writeD t i (cols.getD (s.laneAt t) 0xFFFFFFFF)) s
        if i.x < 8 then s
        else
          let hx := s.shape lead (i.x % 8)
          let es := (List.range hx.n).map fun k =>
            match cols[k]? with
            | some c => m.elem h row c
            | none => 0
          s.putRow i lead e sl (i.x % 8) (bits b 20 16) hx es }

/-! ### The matrix queue -/

/-- The class of a matrix operand's format (R232). -/
def mmaClass (f : Nat) : Option Nat :=
  match f with
  | 1 => some 0
  | 2 | 3 | 0xA => some 1
  | 4 | 5 | 9 => some 2
  | 6 | 7 | 8 => some 3
  | 0xB => some 4
  | 0xC => some 5
  | _ => none

/-- Whether a scale tile holds words 0 to n - 1, sixteen to a row (R234). -/
def scaleFits (h : Shape) (n : Nat) : Bool :=
  h.fmt == 1 && (List.range n).all fun j => decide (j / 16 < h.rows) && decide (j % 16 < h.n)

/-- The rules of R232 and R234 a matrix issue checks. -/
def mmaCheck (i : Ins) (s : State) (t : Nat) : Check :=
  let a := s.shape t i.a
  let b := s.shape t i.b
  let int := i.ty == 0x0E
  let ok := mmaClass a.fmt == mmaClass b.fmt && (match mmaClass a.fmt with
    | some k => if 4 ≤ k then int else !int
    | none => false) && a.n == b.rows && decide (b.n ≤ 32) &&
    (i.op == .mma || (scaleFits (s.shape t (i.x % 8)) a.rows && scaleFits (s.shape t (i.x / 16 % 8)) b.n))
  if ok then .ok else .trap 1 i.word0

namespace State

/-- The round of its convergence register that a matrix issue awaits (R211, R233). -/
def mmaRound (s : State) (i : Ins) (lead : Nat) (x : Slot) : Nat :=
  ((s.thread? lead).map fun th => th.signed.getD i.c (x.cvround.getD i.c 0)).getD 0

/-- The key of a matrix issue: PC, convergence register and round (R233). -/
def mmaKey (s : State) (i : Ins) (lead : Nat) (x : Slot) (pc : W64) : Nat :=
  (s.mmaRound i lead x * 16 + i.c) * 2 ^ 64 + pc.toNat

/-- Queue a matrix entry, or join the one of the same key (R233). -/
def queueMma (s : State) (i : Ins) (lead : Nat) (ts : List Nat) : State :=
  match s.slotOf lead, s.run? with
  | some (e, sl, x), some r =>
    let key := s.mmaKey i lead x r.pc
    let round := s.mmaRound i lead x
    if x.mqDone.contains key then s
    else if x.mq.any fun m => m.key == key then
      s.modSlot e sl fun y =>
        { y with mq := y.mq.map fun m => if m.key == key then { m with threads := (m.threads ++ ts).eraseDups } else m }
    else
      let waits := x.cvset.getD i.c 0 != 0 && decide (x.cvround.getD i.c 0 ≤ round)
      let m : MmaEntry :=
        { key := key, int := i.ty == 0x0E, scaled := i.op == .mmaS, acc := i.d, a := i.a, b := i.b, sa := i.x % 8
          sb := i.x / 16 % 8, cfgA := x.tcfg.getD i.a 0, cfgB := x.tcfg.getD i.b 0, cfgSa := x.tcfg.getD (i.x % 8) 0
          cfgSb := x.tcfg.getD (i.x / 16 % 8) 0, wait := if waits then some (i.c, round) else none, threads := ts }
      (s.modSlot e sl fun y => { y with mq := y.mq ++ [m] }).syncWatch x.launch x.wg false
  | _, _ => s

/-- A fifth new entry holds the run (R233). -/
def mmaRoom (s : State) (i : Ins) (ts : List Nat) : Bool :=
  match s.slotOf (ts.headD 0), s.run? with
  | some (_, _, x), some r =>
    let key := s.mmaKey i (ts.headD 0) x r.pc
    x.mqDone.contains key || (x.mq.any fun m => m.key == key) || decide (x.mq.length < 4)
  | _, _ => true

end State

/-- MMA and MMA.S at issue (R232, R233). -/
def mmaSem : Sem :=
  { legal := tileLegal, range := tileRange
    check := fun i _ s t => mmaCheck i s t
    ready := fun i ts s => s.mmaRoom i ts
    act := fun i lead ts s => s.queueMma i lead ts }

/-! ### Accumulators -/

/-- ACC.LD for one thread (R236). -/
def State.loadAcc (i : Ins) (s : State) (t : Nat) : State :=
  match s.slotOf t with
  | none => s
  | some (e, sl, _) =>
    let row := s.laneAt t
    let (id, o, s) := s.newOp i t { ea := s.rowEa i t, n := 0 } .load (s.rowIssue i t)
    let o : MemOp := { o with ord := 0, scope := 0, stamp := none, dest := .accRow (slotKey e sl) i.d row }
    let s := { s with ops := s.ops.put id o }.modThread t fun th => { th with rowHeld := none }
    s.modAcc e sl i.d fun a => { a with pending := a.pending.add row }

/-- ACC.ST for one thread (R236). -/
def State.storeAcc (i : Ins) (s : State) (t : Nat) : State :=
  match s.slotOf t with
  | none => s
  | some (e, sl, _) =>
    let row := s.laneAt t
    let a := s.accum e sl i.d
    let bs := a.data.read (128 * row) 128
    let ps := (fillParts bs (s.rowIssue i t)).map fun p => { p with poison := a.poison.has row }
    let (id, o, s) := s.newOp i t { ea := s.rowEa i t, n := 0 } .store ps
    ({ s with ops := s.ops.put id { o with ord := 0, scope := 0, stamp := none } }).tryCopy id

/-- ACC.LD (R236). -/
def accLdSem : Sem :=
  { legal := tileLegal, ready := rowReady
    prep := fun i _ ts s => ts.foldl (State.rowPrep i) s
    check := fun i _ s t => rowCheck i s t
    parked := rowParked, trapped := rowTrapped
    act := fun i _ ts s => ts.foldl (State.loadAcc i) s }

/-- ACC.ST (R236). -/
def accStSem : Sem :=
  { legal := tileLegal, ready := rowReady
    prep := fun i _ ts s => ts.foldl (State.rowPrep i) s
    check := fun i _ s t => rowCheck i s t
    act := fun i _ ts s => ts.foldl (State.storeAcc i) s }

/-- ACC.MOV (R237): D is empty until the row is no longer pending. -/
def accMovSem : Sem :=
  { legal := tileLegal
    check := fun i _ s t => if 32 ≤ (s.wordB t i).toNat then .trap 1 i.word0 else .ok
    ready := fun i ts s => ts.all fun t => !s.mmaNamesAcc t i.a
    act := fun i _ ts s => ts.foldl (fun s t =>
      match s.slotOf t with
      | none => s
      | some (e, sl, _) =>
        let c := (s.wordB t i).toNat
        let row := s.laneAt t
        let a := s.accum e sl i.a
        let wait := if a.pending.has row then some (slotKey e sl, i.a, row, c) else none
        let (k, s) := (s.emptyD t i).fresh
        let q := Producer.accMov t i.d (BitVec.ofNat 32 (a.word row c)) (a.poison.has row) wait
        { s with producers := s.producers.put k q }) s }

/-- ACC.CVT's check (R238). -/
def accCvtCheck (i : Ins) (s : State) (t : Nat) : Check := if 32 < (s.shape t i.d).n then .trap 1 i.word0 else .ok

/-- ACC.CVT (R238): once for the wave, row by row; the lowest-numbered active thread's generator and mode serve it. -/
def accCvtSem : Sem :=
  { legal := tileLegal, range := tileRange
    check := fun i _ s t => accCvtCheck i s t
    ready := fun i ts s => ts.all fun t =>
      !s.mmaNamesAcc t i.a && !s.mmaNamesTile t i.d && !s.accPending t i.a none && !s.tilePending t i.d none
    act := fun i lead ts s =>
      match s.slotOf lead with
      | none => s
      | some (e, sl, _) =>
        let h := s.shape lead i.d
        let a := s.accum e sl i.a
        let (mode, us, s) := s.rounding lead i.hint (h.rows * h.n)
        let conv := (List.range h.rows).map fun r =>
          roundRow h.fmt mode i.ty (us.drop (r * h.n)) ((List.range h.n).map fun k => a.word r k)
        let fl := conv.foldl (fun (f : FFlags) (x : List Nat × FFlags) => f.or x.2) ({} : FFlags)
        let s := s.modTile e sl i.d fun m =>
          let m := ((List.range h.rows).zip conv).foldl (fun (m : Tile) x => m.setRow h x.1 x.2.1 (a.poison.has x.1)) m
          { m with live := true }
        let s := ts.foldl (fun s t => s.setFlags t fl.toW32) s
        s.countFlags fl.toW32 }

/-- ACC.ZERO (R239). -/
def accZeroSem : Sem :=
  { legal := tileLegal
    ready := fun i ts s => ts.all fun t => !s.mmaNamesAcc t i.d && !s.accPending t i.d none
    act := fun i lead _ s =>
      match s.slotOf lead with
      | some (e, sl, _) => s.modAcc e sl i.d fun _ => {}
      | none => s }

/-- TLD (R227). -/
def execTld (w : X96) (s : State) : Host.Outcome State Fault Refusal := issue tldSem (w.ins .tld) s

/-- TLDT (R228). -/
def execTldt (w : X96) (s : State) : Host.Outcome State Fault Refusal := issue tldtSem (w.ins .tldt) s

/-- TST (R227). -/
def execTst (w : X96) (s : State) : Host.Outcome State Fault Refusal := issue tstSem (w.ins .tst) s

/-- TZERO (R229). -/
def execTzero (w : X96) (s : State) : Host.Outcome State Fault Refusal := issue tzeroSem (w.ins .tzero) s

/-- TGATHER (R231). -/
def execTgather (w : X96) (s : State) : Host.Outcome State Fault Refusal := issue tldSem (w.ins .tgather) s

/-- NZSCAN (R230). -/
def execNzscan (w : X96) (s : State) : Host.Outcome State Fault Refusal := issue nzscanSem (w.ins .nzscan) s

/-- MMA (R233). -/
def execMma (w : X96) (s : State) : Host.Outcome State Fault Refusal := issue mmaSem (w.ins .mma) s

/-- MMA.S (R234). -/
def execMmaS (w : X96) (s : State) : Host.Outcome State Fault Refusal := issue mmaSem (w.ins .mmaS) s

/-- ACC.MOV (R237). -/
def execAccMov (w : X96) (s : State) : Host.Outcome State Fault Refusal := issue accMovSem (w.ins .accMov) s

/-- ACC.LD (R236). -/
def execAccLd (w : X96) (s : State) : Host.Outcome State Fault Refusal := issue accLdSem (w.ins .accLd) s

/-- ACC.ST (R236). -/
def execAccSt (w : X96) (s : State) : Host.Outcome State Fault Refusal := issue accStSem (w.ins .accSt) s

/-- ACC.CVT (R238). -/
def execAccCvt (w : X96) (s : State) : Host.Outcome State Fault Refusal := issue accCvtSem (w.ins .accCvt) s

/-- ACC.ZERO (R239). -/
def execAccZero (w : X96) (s : State) : Host.Outcome State Fault Refusal := issue accZeroSem (w.ins .accZero) s

/-! ### Completing rows -/

namespace State

/-- Whether another load into the same row is outstanding, or the fetch of one waits or has faulted (R240). -/
def rowBusy (s : State) (op : Nat) (d : Dest) : Bool :=
  s.ops.any (fun e => e.1 != op && e.2.dest == d) || s.threads.any fun e => e.2.rowHeld == some d

/-- The ACC.MOVs that wait for a row take their values, those issued after a load still outstanding aside (R237). -/
def settleMovs (s : State) (slot acc row : Nat) (a : Tile) : State :=
  let open' := (s.ops.filter fun _ o => o.dest == .accRow slot acc row).keys
  { s with producers := s.producers.map fun q =>
      match q.2 with
      | .accMov t d _ _ (some (sl, n, r, c)) =>
        if sl = slot ∧ n = acc ∧ r = row ∧ open'.all fun o => decide (q.1 < o) then
          (q.1, .accMov t d (BitVec.ofNat 32 (a.word row c)) (a.poison.has row) none)
        else q
      | _ => q }

/-- The shape a row load carries: format, elements, and the bytes they take. -/
def loadShape (o : MemOp) : Shape :=
  let r := o.row.getD (0, 0)
  { valid := true, fmt := r.1, rows := 32, rowBytes := r.2 * elemStep r.1 / 8 }

/-- The source elements of a completed row load (R227, R228, R231). -/
def loadElems (o : MemOp) (bs : List Byte) : List (Nat × Nat × Option Val) :=
  match o.fmt with
  | some ty =>
    -- A row in a bank is one part, in the format the bank had; the scale words follow it.
    let (fm, n) := match o.parts.map fun p => (p.place, p.key, p.n) with
      | (.loc _, f, n) :: _ => (bankElem ty f, n)
      | _ => (ty, rowLen ty o.c)
    rowElems fm o.c (bs.take n) (bs.drop n)
  | none =>
    wordElems o.c (((List.range o.parts.length).zip o.parts).map fun w =>
      (bankElem o.ty w.2.key, natOfBytes ((bs.drop (4 * w.1)).take 4)))

/-- A row load's bytes have come: they are converted into the row, which is no longer pending (R227, R236, R240), and the flags of
the conversion are raised (R112; when, DESIGN CHOICE, log 128). -/
def finishRow (s : State) (op : Nat) (o : MemOp) (bs : List Byte) (poison : Bool) : State :=
  let s := { s with ops := s.ops.del op }
  match o.dest with
  | .tileRow sl n row =>
    let fmt := (o.row.getD (0, 0)).1
    let src := loadElems o bs
    let (us, s) := s.opDraws o (src.filter fun x => x.1 != fmt || x.2.2.isSome).length
    let (es, fl) := convertRow fmt o.mode us src
    let busy := s.rowBusy op o.dest
    let s := s.modTile (sl / 32) (sl % 32) n fun m =>
      { m.setRow (loadShape o) row es poison with live := true, pending := m.pending.set row busy }
    s.raiseFlags o.tid o.issue fl
  | .accRow sl n row =>
    let busy := s.rowBusy op o.dest
    let s := s.modAcc (sl / 32) (sl % 32) n fun a =>
      { a with data := a.data.write (128 * row) bs, poison := a.poison.set row poison, live := true
               pending := a.pending.set row busy }
    s.settleMovs sl n row (s.accum (sl / 32) (sl % 32) n)
  | _ => s

end State

/-- ACC_MOV_COMPLETION (R237): the awaited row is no longer pending. -/
def execAccMovCompletion (prod : Nat) (s : State) : Host.Outcome State Fault Refusal :=
  match s.producers.get? prod with
  | some (.accMov t d v poison none) =>
    .next ({ s with producers := s.producers.del prod }.deliver t d 1 v.toNat {} poison)
  | _ => .refused (.notDue "ACC_MOV_COMPLETION")

/-! ### Performing an entry -/

/-- The poisoned register among those an entry reads, as $einfo names it: mA, mB, aD, then the scale tiles (R165,
R234). -/
def mmaPoison (x : Slot) (m : MmaEntry) : Option W32 :=
  let a := shapeOf m.cfgA
  let rows (t : Tile) (n : Nat) : Bool := t.poison.any fun r => decide (r < n)
  let name (reg f : Nat) : W32 := BitVec.ofNat 32 (reg + f * 256 + 2 ^ 13)
  if rows (x.m.getD m.a {}) a.rows then some (name m.a 1)
  else if rows (x.m.getD m.b {}) (shapeOf m.cfgB).rows then some (name m.b 2)
  else if rows (x.acc.getD m.acc {}) a.rows then some (name m.acc 0)
  else if m.scaled && rows (x.m.getD m.sa {}) ((a.rows + 15) / 16) then some (name m.sa 4)
  else if m.scaled && rows (x.m.getD m.sb {}) (((shapeOf m.cfgB).n + 15) / 16) then some (name m.sb 4)
  else none

/-- Scale word j of a scale tile (R234). -/
def scaleWord (m : Tile) (cfg : W32) (j : Nat) : Val := decodeVal 1 (m.elem (shapeOf cfg) (j / 16) (j % 16))

/-- Whether a block scale is finite. -/
def Val.isFinite : Val → Bool
  | .zero _ | .fin .. => true
  | _ => false

/-- The exact sum of a scaled group (R110, R111): an infinite or NaN block scale makes its products invalid, and a zero sum
is +0 unless every scaled product is -0. -/
def scaledSum (ps : List (Val × Val)) (wa wb : Val) : Val × FFlags :=
  if !wa.isFinite || !wb.isFinite then (.nan false, { iv := true })
  else
    let w := (wa.mul wb).1
    let x := groupSum ps
    let (v, f) := x.1.mul w
    (match v with
      | .zero _ => .zero (ps.all fun p => ((p.1.mul p.2).1.mul w).1 == .zero true)
      | _ => v, f.or x.2)

/-- One element of aD after an entry (R110, R111, R234). -/
def mmaElem (x : Slot) (e : MmaEntry) (m n : Nat) : Nat × FFlags :=
  let a := shapeOf e.cfgA
  let b := shapeOf e.cfgB
  let ta := x.m.getD e.a {}
  let tb := x.m.getD e.b {}
  let old := (x.acc.getD e.acc {}).word m n
  let ks := List.range a.n
  if e.int then
    let sum := ks.foldl (fun (v : Int) k =>
      v + signExt (fmtBits a.fmt) (ta.elem a m k) * signExt (fmtBits b.fmt) (tb.elem b k n)) 0
    (wrapTo 32 (signExt 32 old + sum), {})
  else
    let ps := ks.map fun k => (decodeVal a.fmt (ta.elem a m k), decodeVal b.fmt (tb.elem b k n))
    accumulate old (if e.scaled then
        scaledSum ps (scaleWord (x.m.getD e.sa {}) e.cfgSa m) (scaleWord (x.m.getD e.sb {}) e.cfgSb n)
      else groupSum ps)

/-- aD after an entry, with the flags raised. -/
def mmaResult (x : Slot) (e : MmaEntry) : Tile × FFlags :=
  let old := x.acc.getD e.acc {}
  let cells := (List.range (shapeOf e.cfgA).rows).flatMap fun m => (List.range (shapeOf e.cfgB).n).map fun n => (m, n)
  let (t, fl) := cells.foldl (fun (acc : Tile × FFlags) (c : Nat × Nat) =>
    let (v, f) : Nat × FFlags := mmaElem x e c.1 c.2
    (acc.1.setWord c.1 c.2 v, acc.2.or f)) (old, ({} : FFlags))
  ({ t with live := true }, fl)

/-- Whether another slot of the engine has an entry that became ready before this one, or with it in a lower slot (R233). -/
def State.readyBefore (s : State) (engine slot : Nat) (e : MmaEntry) : Bool :=
  let at' (m : MmaEntry) : Nat := m.readyAt.getD s.nextId
  s.slots.any fun x => x.1 / 32 == engine && x.2.readyHead.any fun m =>
    decide (at' m < at' e) || (at' m == at' e && decide (x.1 % 32 < slot))

/-- MMA_ENTRY_PERFORM (R233, R234): the oldest entry of a slot's matrix queue, once it is ready and its turn at the engine has
come. A poisoned operand discards it and leaves a trap for each of its threads. -/
def execMmaEntryPerform (engine slot : Nat) (s : State) : Host.Outcome State Fault Refusal :=
  match s.slot? engine slot with
  | none => .refused (.notDue "MMA_ENTRY_PERFORM")
  | some x =>
    match x.mq with
    | [] => .refused (.notDue "MMA_ENTRY_PERFORM")
    | e :: rest =>
      if !mmaReady x e || s.readyBefore engine slot e then .refused (.notDue "MMA_ENTRY_PERFORM")
      else
        let done := (x.mqDone ++ [e.key]).drop ((x.mqDone.length + 1) - 16)
        match mmaPoison x e with
        | some info =>
          let s := s.modSlot engine slot fun y => { y with mq := rest, mqDone := done }
          .next (e.threads.foldl (fun s t =>
            s.modThread t fun th => { th with pendingTrap := some (th.pendingTrap.getD info) }) s)
        | none =>
          let (t, fl) : Tile × FFlags := mmaResult x e
          let s := s.modSlot engine slot fun y => { y with mq := rest, mqDone := done, acc := y.acc.put e.acc t }
          let s := (e.threads.foldl (fun s t => s.setFlags t fl.toW32) s).countFlagsAt (waveKey engine) fl.toW32
          .next (s.countEvent (waveKey engine) 0x30 1)

end Sys2Proof.Machine
end

