-- ==== Sys2Proof/Machine/Placement.lean ====
section
/-!
DEFINITION. Where launches place their workgroups and how waves start (01 R21, R22, R25, R41-R43; 02 R62, R65, R71;
16 R313; 18 R334, R335), and the watchdog of a workgroup (01 R51).
-/

namespace Sys2Proof.Machine

/-! ### Levels -/

/-- The digits of a linear index over levels, innermost first (R192). -/
def levelDigits : List Level → Nat → List Nat
  | [], _ => []
  | l :: r, i => i % l.extent :: levelDigits r (i / l.extent)

namespace LaunchRec

/-- Levels below stand (R43). -/
def low (r : LaunchRec) : List Level := r.levels.takeWhile fun l => decide (l.domain < 4)
/-- Levels from stand upwards (R43). -/
def high (r : LaunchRec) : List Level := r.levels.dropWhile fun l => decide (l.domain < 4)
/-- Threads a workgroup places. -/
def wgSize (r : LaunchRec) : Nat := r.low.foldl (fun n l => n * l.extent) 1
/-- Workgroups of the launch (R42). -/
def gridSize (r : LaunchRec) : Nat := r.high.foldl (fun n l => n * l.extent) 1
/-- Whether placed threads are wave threads (R43). -/
def waves (r : LaunchRec) : Bool := r.levels.any fun l => l.domain == 1
/-- Lanes of a placed wave: the extent of level 0. -/
def lanes (r : LaunchRec) : Nat := (r.levels.head?.elim 1 (·.extent))
/-- The eight level coordinates of the thread with a linear index (R64). -/
def coordsOf (r : LaunchRec) (i : Nat) : List Nat :=
  let c := levelDigits r.levels i
  c ++ List.replicate (8 - c.length) 0
/-- The core and context of the placed scalar thread with a linear index within its workgroup (R43). -/
def scalarHome (r : LaunchRec) (stand i : Nat) : Nat × Nat :=
  let c := levelDigits r.low i
  let a := c.headD 0
  let b := c.getD 1 0
  match r.low.map (·.domain) with
  | [_, 2] => (coreOfIndex stand b, a)
  | [_, 3] => (coreOfCluster (stand * 8 + b) (a % 16), a / 16)
  | [_, 2, 3] => (coreOfCluster (stand * 8 + c.getD 2 0) b, a)
  | _ => (coreOfIndex stand (a % 128), a / 128)
/-- The stands PIN names for a workgroup (R332). -/
def pinStand (r : LaunchRec) (w : Nat) : Nat := r.firstStand + w % (r.nStand + 1)
/-- The instance of the die level a workgroup belongs to, when a level binds die (R43). -/
def dieInstance (r : LaunchRec) (w : Nat) : Option Nat :=
  if r.levels.any fun l => l.domain == 5 then
    some (w / (r.levels.find? fun l => l.domain == 4).elim 1 (·.extent))
  else none

end LaunchRec

/-! ### Which stand a workgroup may take -/

namespace State




/-- A workgroup of a launch has been placed on a stand and not retired. -/
def onStand (l : Launch) (stand : Nat) : Bool := l.wgs.any fun w => w.2.placed && !w.2.retired && w.2.stand == stand

/-- The launches with a workgroup on a stand. -/
def standLaunches (s : State) (stand : Nat) : List (Nat × Launch) := s.launches.filter fun _ l => onStand l stand

/-- A stand is idle: it holds no workgroup of a real launch (R343). -/
def standIdle (s : State) (stand : Nat) : Bool := (s.standLaunches stand).all fun e => e.2.cruise.isSome

/-- The feature masks of the stand's wave engines in use cover REQ (R322). -/
def coversReq (s : State) (stand req : Nat) : Bool :=
  let ok (e : Nat) : Bool := s.engineFenced e || s.fmask (waveKey e) &&& BitVec.ofNat 32 req == BitVec.ofNat 32 req
  ok (2 * stand) && ok (2 * stand + 1)

/-- A stand accepts placements of a launch: of its partition and side, with its features, with no change of owner or side
pending (R283, R322, R370). -/
def permits (s : State) (l : Launch) (stand : Nat) : Bool :=
  decide (stand < 2048) && s.standOwner stand == some l.part && (s.stand stand).graphics == (l.r.pass != 0) &&
    s.coversReq stand l.r.req && !s.standShut stand

/-- A core takes scalar threads that launch l places (R42, R62): no context of another launch runs or is reserved there,
and no message of another launch is queued. -/
def coreClear (s : State) (c l : Nat) : Bool :=
  (s.threads.all fun e => e.2.launch == l || (match e.2.home with
    | .scalar k _ => k != c
    | _ => true)) &&
  ((s.core c).reserved.all fun r => r.2.1 == l) && ((s.core c).inbound.all fun m => m.launch == l)

/-- The spill area of a stand suits a launch (R25): its size stays fixed while a workgroup remains, and is bounded on a
streaming stand. -/
def spillSuits (s : State) (l : Launch) (stand : Nat) : Bool :=
  ((s.standLaunches stand).isEmpty || decide (l.r.spill * 1024 ≤ s.spillSize stand)) &&
    (!s.streaming stand || decide (l.r.spill ≤ 320))

/-- A stand that a scene is about to stream on is free of what would conflict: of another scene's stream set, of threads
in contexts 3, and of a spill area too large (R25, R245, R335). -/
def streamSuits (s : State) (k : Nat) (l : Launch) (stand : Nat) : Bool :=
  !l.r.streams stand ||
    ((s.standLaunches stand).all (fun e => e.1 == k || (!e.2.r.streams stand && decide (e.2.r.spill ≤ 320))) &&
      decide (s.spillSize stand ≤ 320 * 1024) &&
      (standCores stand).all fun c => (s.threadIn c 3).isNone && ((s.core c).reserved.get? 3).isNone)

/-- A stand has room for a whole workgroup of a launch (R42, R43, R62). -/
def fits (s : State) (k : Nat) (l : Launch) (stand : Nat) : Bool :=
  s.spillSuits l stand && s.streamSuits k l stand &&
    (l.r.waves || (List.range l.r.wgSize).all fun i =>
      let h := l.r.scalarHome stand i
      s.ctxOpen h.1 h.2 && !(h.2 == 3 && l.r.streams stand) && s.coreClear h.1 k)

/-- The stands a launch must occupy by name (R335): its stream-set stands, in rising order. -/
def streamStands (r : LaunchRec) : List Nat := if r.scene = 0 then [] else (List.range 2048).filter r.streams

/-- The dies a render launch must occupy (R335): those that own a tile. -/
def tileDies (r : LaunchRec) : List Nat := if r.pass = 0 then [] else (List.range 4).filter r.diePasses

/-- Stream-set stands without a workgroup of the launch. -/
def missingStands (l : Launch) : List Nat := (streamStands l.r).filter fun n => !l.wgs.any fun w => w.2.placed && w.2.stand == n

/-- Tile-owning dies without a workgroup of the launch. -/
def missingDies (l : Launch) : List Nat :=
  (tileDies l.r).filter fun d => !l.wgs.any fun w => w.2.placed && standDie w.2.stand == d

/-- Every stand and die the launch must occupy holds a workgroup of it (R335). -/
def namedFilled (l : Launch) : Bool := (missingStands l).isEmpty && (missingDies l).isEmpty

/-- Workgroups not placed yet, in rising number. -/
def unplaced (l : Launch) : List Nat := (List.range l.grid).filter fun w => !(l.wgs.getD w {}).placed

/-- The workgroups of one instance of the die level lie on one die (R43). -/
def dieSuits (l : Launch) (w stand : Nat) : Bool :=
  (l.r.dieInstance w).all fun d =>
    (List.range l.grid).all fun v => l.r.dieInstance v != some d || !(l.wgs.getD v {}).placed ||
      standDie (l.wgs.getD v {}).stand == standDie stand

/-- A stand takes a launch's workgroup, if need be once the cruises on it have been discarded (R335, R346). -/
def wouldFit (s : State) (k : Nat) (l : Launch) (stand : Nat) : Bool :=
  s.fits k l stand ||
    (l.cruise.isNone && !(s.standLaunches stand).isEmpty && (s.standLaunches stand).all fun e => e.2.cruise.isSome)

/-- The workgroup of a launch that goes to a stand next, if one may (R43, R332, R335): with PIN the first it names; else in
rising number, the named stands and dies first, where one that may not lie on such a die is passed over (log 109). -/
def nextFor (s : State) (k : Nat) (l : Launch) (stand : Nat) : Option Nat :=
  let first := (unplaced l).find? fun w => dieSuits l w stand
  if !s.permits l stand then none
  else if l.r.pin then (unplaced l).find? fun w => l.r.pinStand w == stand
  else
    match missingStands l, missingDies l with
    | n :: _, _ => if n = stand then first else none
    | [], d :: _ =>
      let room := (List.range 512).find? fun j => s.permits l (512 * d + j) && s.wouldFit k l (512 * d + j)
      if room = some (stand % 512) ∧ standDie stand = d then first else none
    | [], [] => (unplaced l).head?.filter fun w => dieSuits l w stand

/-- A waiting launch contends for a stand (R334, R335): it needs it by name or by its die, or may take it next. -/
def wants (s : State) (l : Launch) (stand : Nat) : Bool :=
  s.permits l stand &&
    (if l.r.pin then (unplaced l).any fun w => l.r.pinStand w == stand
    else match missingStands l, missingDies l with
      | [], [] => (unplaced l).head?.any fun w => dieSuits l w stand
      | [], ds => ds.contains (standDie stand)
      | ns, _ => ns.contains stand)

/-- The order of launches in placement (R334, R344): priority, ring order within a queue, the earliest doorbell across
queues; a cruise comes after every real launch. -/
def placedBefore (a b : Nat × Launch) : Bool :=
  let p (l : Launch) : Nat := if l.cruise.isSome then 0 else l.r.priority + 1
  if p a.2 ≠ p b.2 then decide (p b.2 < p a.2)
  else if a.2.queue = b.2.queue then decide (a.2.index < b.2.index)
  else if a.2.doorbell ≠ b.2.doorbell then decide (a.2.doorbell < b.2.doorbell)
  else decide (a.1 < b.1)

/-- A launch waits for placement. -/
def placing (l : Launch) : Bool := (l.phase == .pending || l.phase == .running) && !(unplaced l).isEmpty

/-- An earlier launch contends for the stand (R334). -/
def contended (s : State) (k : Nat) (l : Launch) (stand : Nat) : Bool :=
  s.launches.any fun m => m.1 != k && placing m.2 && placedBefore m (k, l) && s.wants m.2 stand

/-! ### Placing -/

/-- A thread a launch places, but for its home (R43, R192). -/
def placedThread (s : State) (k : Nat) (l : Launch) (w i : Nat) (home : Home) : Thread :=
  { part := l.part, launch := k, wg := w, coords := l.r.coordsOf (w * l.r.wgSize + i), home := home
    pc := kernelStart l.r, rng := placeSeed l.r.seed (w * l.r.wgSize + i), sliced := l.r.sliced, sc := s.gtc
    seeks := l.r.sliced && l.r.execStart == 0 }

/-- Place the scalar threads of a workgroup (R43, R62, R308). -/
def placeScalar (s : State) (k : Nat) (l : Launch) (w stand : Nat) : State :=
  (List.range l.r.wgSize).foldl (fun (s : State) (i : Nat) =>
    let h := l.r.scalarHome stand i
    let s := (s.takeConstants h.1 k).1
    let (t, s) := s.fresh
    (s.setThread t (s.placedThread k l w i (.scalar h.1 h.2))).startSlice t) s

/-- Place one wave of a workgroup: it waits for a slot of its engine (R43). -/
def placeWave (s : State) (k : Nat) (l : Launch) (w stand n : Nat) : State :=
  let (s, ts) : State × List Nat := (List.range l.r.lanes).foldl (fun (acc : State × List Nat) (a : Nat) =>
    let (t, s) := acc.1.fresh
    (s.setThread t (s.placedThread k l w (n * l.r.lanes + a) (.queued stand)), acc.2 ++ [t])) (s, [])
  let rec' : WaveRec :=
    { launch := k, wg := w, pc := kernelStart l.r, members := ts, engine := some (2 * stand + n % 2), due := s.clock.arith
      part := l.part }
  s.queueWave stand rec'

/-- Place a workgroup on a stand (R42, R43). Threads of a launch that must hold named stands issue once it holds them
all (R335). -/
def placeWg (s : State) (k : Nat) (l : Launch) (w stand : Nat) : State :=
  let s := s.claimSpill stand l.r.spill
  let s := if l.r.waves then
      (List.range (l.r.wgSize / l.r.lanes)).foldl (fun (s : State) (n : Nat) => s.placeWave k l w stand n) s
    else s.placeScalar k l w stand
  s.modLaunch k fun x =>
    let x := { x with wgs := x.wgs.put w { placed := true, stand := stand } }
    if namedFilled x then { x with phase := .running } else x

/-- A real launch needs a stand on which a cruise runs: the cruise is to be discarded (R346). -/
def displaceCruise (s : State) (stand : Nat) : State :=
  (s.standLaunches stand).foldl (fun (s : State) (e : Nat × Launch) =>
    match e.2.cruise with
    | some c => { s with cruises := s.cruises.mod c fun x => x.cause 0x10 }
    | none => s) s

/-! ### Waves -/

/-- The engine a wave starts in: a placed wave's own, or the stand's other where that one is fenced (R385); for a released wave the one with more free pool (R21, R43). -/
def waveEngine (s : State) (stand : Nat) (w : WaveRec) : Option Nat :=
  let r := s.lrec w.launch
  let ok (e : Nat) : Bool := s.engineTakes e r.grant r.tile
  let a := 2 * stand
  match w.engine with
  | some e =>
    let e := if s.engineFenced e then 2 * stand + (1 - e % 2) else e
    if ok e then some e else none
  | none =>
    if ok a && (!ok (a + 1) || decide (s.poolUsed a ≤ s.poolUsed (a + 1))) then some a
    else if ok (a + 1) then some (a + 1) else none

/-- The lane of a thread of a new wave: a placed thread's coordinate, a shading thread's pixel, else filing order (R22,
R43, R290). -/
def waveLane (w : WaveRec) (n : Nat) (th : Thread) : Nat :=
  match th.role with
  | .shading _ x _ => x % 32
  | _ => if w.engine.isSome then th.coords.headD 0 else n

/-- Start a wave in a slot (R22, R65, R71, R192). -/
def startWave (s : State) (stand e slot : Nat) (quarter : Option Nat) (w : WaveRec) : State :=
  let r := s.lrec w.launch
  let home (t n : Nat) : Nat := ((s.thread? t).map (waveLane w n)).getD n
  let seats := ((List.range w.members.length).zip w.members).map fun m => (m.2, home m.2 m.1)
  let x : Slot :=
    { part := w.part, launch := w.launch, wg := w.wg, consts := r.consts, genCode := r.gregs, tiles := r.acc
      grant := r.grant, quarter := quarter, present := seats.foldl (fun (p : NatSet) m => p.add m.2) [] }
  let s := { s with slots := s.slots.put (slotKey e slot) x }
  let s := s.modStand stand fun y => { y with waveQ := y.waveQ.filter (· != w) }
  seats.foldl (fun (s : State) (m : Nat × Nat) =>
    let rng := s.startSeed w.launch (coreOfIndex stand 0)
    let s := s.modThread m.1 fun th =>
      { th with home := .wave e slot m.2, pc := w.pc, rng := if th.unstarted then rng else th.rng, unstarted := false }
    if w.engine.isSome then s.startSlice m.1 else s) s

/-- The wave of a stand that starts next: the one due first of those that may start, and not while a pocket that was due before
waits for its release (R24, R43). -/
def nextWave (s : State) (stand : Nat) : Option WaveRec :=
  ((s.stand stand).waveQ.find? fun w => s.waveGoes w.launch w.members).filter fun w => !s.pocketAhead stand w.due 0

end State

/-- POCKET_AGE_EXPIRY (R21, R24): a pocket that is due releases a wave once there is room. -/
def execPocketAgeExpiry (stand pocket : Nat) (s : State) : Host.Outcome State Fault Refusal :=
  match (s.stand stand).pockets.get? pocket with
  | some p =>
    if s.pocketDue p && s.canRelease stand p.launch (s.pocketDueAt p) pocket && s.waveGoes p.launch p.members then
      .next ((s.releasePocket stand pocket).refill stand)
    else .refused (.notDue "POCKET_AGE_EXPIRY")
  | none => .refused (.notDue "POCKET_AGE_EXPIRY")

/-- WAVE_QUEUE_START (R21, R22, R43, R313): the wave due first starts in a free slot of its engine, with a free tile
quarter where its launch uses tiles. -/
def execWaveQueueStart (stand engine slot quarter : Nat) (s : State) : Host.Outcome State Fault Refusal :=
  match s.nextWave stand with
  | some w =>
    let tile := (s.lrec w.launch).tile
    let free := (s.slots.filter fun k x => k / 32 == engine && x.quarter == some quarter).isEmpty
    if s.waveEngine stand w = some engine ∧ slot < 32 ∧ (s.slot? engine slot).isNone ∧ (!tile ∨ (quarter < 4 ∧ free)) then
      .next ((s.startWave stand engine slot (if tile then some quarter else none) w).refill stand)
    else .refused (.notDue "WAVE_QUEUE_START")
  | none => .refused (.notDue "WAVE_QUEUE_START")

/-- WORKGROUP_PLACEMENT (R42, R43, R334, R335): a waiting workgroup is placed whole on a stand with room. A cruise that
stands in a real launch's way is marked for its discard first (R346). -/
def execWorkgroupPlacement (launch wg stand : Nat) (s : State) : Host.Outcome State Fault Refusal :=
  match s.launch? launch with
  | some l =>
    if !State.placing l || s.nextFor launch l stand != some wg || s.contended launch l stand then
      .refused (.notDue "WORKGROUP_PLACEMENT")
    else if l.cruise.isSome && !s.standIdle stand then .refused (.notDue "WORKGROUP_PLACEMENT")
    else if l.cruise.isNone && (s.standLaunches stand).any (fun e => e.2.cruise.isSome) then .next (s.displaceCruise stand)
    else if s.fits launch l stand then .next (s.placeWg launch l wg stand)
    else .refused (.notDue "WORKGROUP_PLACEMENT")
  | none => .refused (.notDue "WORKGROUP_PLACEMENT")

/-- WORKGROUP_WATCHDOG_EXPIRY (R51): a workgroup has waited as long as its limit; the launch ends with cause 0x0C. -/
def execWorkgroupWatchdogExpiry (launch wg : Nat) (s : State) : Host.Outcome State Fault Refusal :=
  match s.launch? launch with
  | some l =>
    match (l.wgs.getD wg {}).watch with
    | some b =>
      if b + l.r.watchdog * 1000 ≤ s.gtc ∧ l.phase = .running ∧ s.wgWaiting launch wg ∧ !s.wgParked launch wg ∧
          !s.relocks then
        let s := s.modWg launch wg fun g => { g with watch := none, paused := none }
        .next (s.fatalLaunch launch { cause := 0x0C, wg := wg, stand := (s.wg launch wg).stand })
      else .refused (.notDue "WORKGROUP_WATCHDOG_EXPIRY")
    | none => .refused (.notDue "WORKGROUP_WATCHDOG_EXPIRY")
  | none => .refused (.notDue "WORKGROUP_WATCHDOG_EXPIRY")

end Sys2Proof.Machine
end

