-- ==== Sys2Proof/Machine/Ending.lean ====
section
/-!
DEFINITION. The queue engine's own accesses to memory, and how a launch ends: the retirement of workgroups, the signal
word, and what is cleared with a launch (01 R52, R53; 18 R336).
-/

namespace Sys2Proof.Machine

namespace State

/-! ### The queue engine's accesses -/

/-- The place among the stands' caches where the queue engine keeps its own translations (R354). -/
def unitStand : Nat := 2048

/-- Resolve an access of the queue engine for a partition, through the partition's page table. A scratchpad address
names no stand here, and no window claims it. -/
def unitLocate (s : State) (part va n : Nat) (need : Need) : LocRes :=
  let look (p v : Nat) : Option Trans :=
    match s.standCached unitStand p v with
    | some tr => some tr
    | none => match s.walkVia none p v with
      | some (.found tr _) => if tr.host then none else some tr
      | _ => none
  match regionOf va with
  | .scratch _ => .park 4 (va / 65536 * 65536) va none
  | _ =>
    match s.locateVia look part (.plist unitStand) 0 (BitVec.ofNat 64 va) n need with
    | .miss p v =>
      if inDomain v then .miss p v
      else match s.walkVia none p v with
      | some (.fault k) => .park k (winAddr va v / 65536 * 65536) (winAddr va v) none
      | some (.found _ _) => .miss p v
      | none => .wait
    | r => r

/-- The queue engine and the collective engines of a partition. -/
def queueAgent (part : Nat) : Agent := { part := part }

/-- The first access of a list that cannot be made now. -/
def unitStuck (s : State) (part : Nat) (rs : List (Nat × Nat × Need)) : Option (LocRes × Need) :=
  rs.findSome? fun r =>
    match s.unitLocate part r.1 r.2.1 r.2.2 with
    | .parts ps => (s.unitBlock (queueAgent part) r.2.2.w ps).map fun e => (e, r.2.2)
    | e => some (e, r.2.2)

/-- Ask for the translation an access still needs. A translation that the host has denied is forgotten first. -/
def unitAsk (s : State) (part va : Nat) (need : Need) : State :=
  let s := s.modStand unitStand fun x => { x with tlb := x.tlb.filter fun t => !(t.covers part va && t.host) }
  s.askUnit .none unitStand part va va need

/-- What an access that cannot be made sets going: the walk it needs, or its wait for a route; none where it only waits. -/
def unitHold (s : State) (part : Nat) (e : LocRes × Need) : Option State :=
  match e.1 with
  | .miss p va => some (s.unitAsk p va e.2)
  | .route k => some (s.beginRoute part k)
  | _ => none

/-- Bytes the queue engine reads, with their poison; a failed tier 2 gives poison (R365). -/
def unitRead (s : State) (part va n : Nat) : List Byte × List Bool :=
  match s.unitLocate part va n { r := true } with
  | .parts ps => s.unitBytes (queueAgent part) ps
  | _ => ([], [])

/-- What the queue engine's reads leave (R365, R381). -/
def unitReads (s : State) (part : Nat) (rs : List (Nat × Nat)) : State :=
  rs.foldl (fun (s : State) r =>
    match s.unitLocate part r.1 r.2 { r := true } with
    | .parts ps => s.unitNote (queueAgent part) ps
    | _ => s) s

/-- Write bytes for the queue engine. -/
def unitPut (s : State) (part va : Nat) (bs : List Byte) (qs : List Bool := []) : State :=
  match s.unitLocate part va bs.length { w := true } with
  | .parts ps => s.unitStore (queueAgent part) ps bs qs
  | _ => s

/-! ### The signal word -/

/-- The value of a signal word (R336). -/
def signalWord (sigval : W64) (status : Nat) : Nat := sigval.toNat / 256 * 256 + status

/-- What stands in the way of a launch's signal write. -/
def signalStuck (s : State) (l : Launch) : Option (LocRes × Need) :=
  if l.r.sigaddr = 0 then none else s.unitStuck l.part [(l.r.sigaddr, 8, { w := true })]

/-- A command of a queue has completed (R331). -/
def completeCmd (s : State) (q index : Nat) : State := s.modQueue q fun x => { x with active := x.active.remove index }

/-- A launch has ended: its signal word is written and its command completes (R336). -/
def endLaunch (s : State) (k : Nat) (l : Launch) (status : Nat) : State :=
  let s := if l.r.sigaddr = 0 then s else s.unitPut l.part l.r.sigaddr (bytesOfNat 8 (signalWord l.r.sigval status))
  (s.modLaunch k fun x => { x with phase := .ended }).completeCmd l.queue l.index

/-! ### Clearing a launch -/

/-- Members of pockets and the pocket list, and queued waves, of a launch (R390). -/
def pocketCount (s : State) (k : Nat) : Nat :=
  (s.threads.filter fun _ th => th.launch == k && (match th.home with
    | .pocket .. | .plist _ => true
    | _ => false)).length +
  (s.stands.flatMap fun x => x.2.waveQ.filter fun w => w.launch == k).length

/-- Inbound messages of a launch (R390). -/
def inboundCount (s : State) (k : Nat) : Nat := (s.cores.flatMap fun c => c.2.inbound.filter fun m => m.launch == k).length

/-- Take a launch's flume commands away; the lines they own go back (R91, R312). -/
def clearCmds (s : State) (k : Nat) : State :=
  let ids := s.clusters.flatMap fun c => c.2.rings.flatMap fun r => (r.2.filter fun x => x.launch == k).map (·.id)
  let homes := s.homes.map fun h =>
    if h.2.owner.any ids.contains then (h.1, { h.2 with owner := none, before := none, final := false, recallAt := none }) else h
  let clusters := s.clusters.map fun c =>
    (c.1, { c.2 with rings := c.2.rings.map fun r => (r.1, r.2.filter fun x => x.launch != k) })
  { s with homes := homes.filter (fun h => h.2 != ({} : HomeLine)), clusters := clusters }

/-- Everything of a launch leaves the machine: threads, pockets, waves, messages, reserved contexts, tasks, batches, rays,
tiles and commands; its stands are free (R52, R335). Stores already issued go on. The private area of a context that HALT.R had
reserved keeps its bytes (DESIGN CHOICE, log 122). -/
def clearLaunch (s : State) (k : Nat) : State :=
  let ts := (s.threads.filter fun _ th => th.launch == k).keys
  let s := ts.foldl (fun (s : State) (t : Nat) => s.removeThread t) s
  let stands := s.stands.map fun x =>
    (x.1, { x.2 with
      pockets := x.2.pockets.filter (fun _ p => p.launch != k), plist := x.2.plist.filter fun t => !ts.contains t
      waitCtx := x.2.waitCtx.filter fun t => !ts.contains t, waveQ := x.2.waveQ.filter fun w => w.launch != k
      reach := x.2.reach.filter fun r => r.1 != k })
  let cores := s.cores.map fun c =>
    (c.1, { c.2 with inbound := c.2.inbound.filter fun m => m.launch != k
                     reserved := c.2.reserved.filter fun _ r => r.1 != k })
  let dies := s.dies.map fun d =>
    (d.1, { d.2 with booms := d.2.booms.filter (fun n _ => n / 2 ^ 32 != k), bins := d.2.bins.filter (fun n _ => n / 2 ^ 32 != k)
                     raysHeld := d.2.raysHeld.del k, closes := d.2.closes.del k, ctl := d.2.ctl.remove k })
  let s := { s with
    ops := s.ops.filter (fun _ o => !ts.contains o.tid || o.kind == OpKind.store)
    producers := s.producers.filter fun _ q =>
      match q with
      | .special t .. | .laneMax t .. | .accMov t .. => !ts.contains t
      | .qxmax _ _ _ x .. => x != k
    stands := stands, cores := cores.filter (fun c => c.2 != ({} : Core)), dies := dies
    routeHeld := s.routeHeld.filter fun _ m => m.launch != k
    saved := s.saved.filter (fun _ x => x.launch != k)
    tasks := s.tasks.filter (fun _ x => x.launch != k), batches := s.batches.filter (fun _ b => b.launch != k)
    texReqs := s.texReqs.filter (fun _ x => x.launch != k), tiles := s.tiles.filter fun n _ => n / 2 ^ 32 != k }
  let s := s.clearCmds k
  let s := s.modLaunch k fun l => { l with wgs := l.wgs.map fun (w : Nat × Workgroup) => (w.1, { w.2 with retired := true, watch := none }) }
  s.stands.keys.foldl (fun (s : State) (n : Nat) => s.refill n) s

/-- With no launch of a queue still to be saved, its pre-emption is done (R338). -/
def settlePreempt (s : State) (q : Nat) : State :=
  if bit (s.regN (queueReg q 0x24)) 0 && !s.launches.any fun l => l.2.queue == q && l.2.phase == .preempting then
    (s.setReg (queueReg q 0x24) 0).orReg (queueReg q 0x20) 4
  else s

/-! ### Retirement -/

/-- A workgroup of a render launch must stay: its die owns a tile that is not written back, and no other workgroup of the
launch is left on that die to which the tile's shading waves could go (R290, R292; log 101, DEDUCED). -/
def shadeHold (s : State) (l w : Nat) : Bool :=
  match s.launch? l with
  | none => false
  | some x =>
    let die := standDie (x.wgs.getD w {}).stand
    x.r.pass != 0 &&
      !(x.wgs.any fun o => o.1 != w && o.2.placed && !o.2.retired && standDie o.2.stand == die) &&
      (List.range (x.r.tilesX * x.r.tilesY)).any fun t => x.r.tileDie t == die && !(s.tiles.getD (tileKey l t) {}).done

/-- The control blocks that a scene's dies have never set, by die (R248; log 143). -/
def openBlocks (s : State) (k : Nat) : List (Nat × List (Nat × List Byte)) := (List.range 4).map fun d => (d, s.initBlocks d k)

/-- The first write of control blocks that cannot be made now, with its die. -/
def blocksStuck (s : State) (k : Nat) (ws : List (Nat × List (Nat × List Byte))) : Option (Nat × LocRes × Need) :=
  ws.findSome? fun d => (s.driveStuck k (512 * d.1) (writeNeeds d.2)).map fun e => (d.1, e)

/-- Write control blocks, by die. -/
def writeBlocks (s : State) (k : Nat) (ws : List (Nat × List (Nat × List Byte))) : State :=
  ws.foldl (fun (s : State) d => (s.driveWrite k (512 * d.1) d.2).modDie d.1 fun x => { x with ctl := x.ctl.add k }) s

/-- Something a workgroup created or owns still stands (R53): a thread, a message, a request, a task, a reserved context, a
ray, a texture request, or a tile to shade. -/
def wgBusy (s : State) (l w : Nat) : Bool :=
  (s.threads.any fun e => e.2.launch == l && e.2.wg == w) ||
    (s.outbound.any fun e => e.2.launch == l && e.2.wg == w) || (s.routeHeld.any fun e => e.2.launch == l && e.2.wg == w) ||
    (s.cores.any fun c => (c.2.inbound.any fun m => m.launch == l && m.wg == w) ||
      c.2.reserved.any fun r => r.2.1 == l && r.2.2.1 == w) ||
    (s.tasks.any fun e => e.2.launch == l && e.2.wg == w) || (s.texReqs.any fun e => e.2.launch == l && e.2.wg == w) ||
    (s.batches.any fun b => b.2.launch == l && b.2.owner.any fun o => o.2 == w) ||
    (s.dies.any fun d => d.2.booms.any fun b => b.1 / 2 ^ 32 == l && b.2.records.any fun r => r.wg == w) || s.shadeHold l w

/-- A tile of a render launch is not yet written back (R292). -/
def tilesOpen (s : State) (k : Nat) (r : LaunchRec) : Bool :=
  r.pass != 0 && (List.range (r.tilesX * r.tilesY)).any fun t => !(s.tiles.getD (tileKey k t) {}).done

/-- A flume command of a launch is still queued. -/
def cmdsOpen (s : State) (k : Nat) : Bool := s.clusters.any fun c => c.2.rings.any fun r => r.2.any fun x => x.launch == k

/-- The status of a launch that has completed (R336). -/
def doneStatus (l : Launch) : Nat := if l.dropped then 1 else if l.short then 3 else 0

/-- The last workgroup has retired: the signal is written, and what the launch retained is released (R53). A cruise that
is not claimed yet only finishes (R344). -/
def finishLaunch (s : State) (k : Nat) (l : Launch) : State :=
  match l.cruise with
  | some c =>
    let s := { s with cruises := s.cruises.mod c fun x => { x with finished := some s.gtc } }
    s.modLaunch k fun x => { x with phase := .ended }
  | none => s.endLaunch k l (doneStatus l)

end State

/-- WORKGROUP_RETIRE (R53, R336): a workgroup of which nothing is left retires; the last one ends the launch, once its
dirty lines are flushed and its tiles written back. -/
def execWorkgroupRetire (launch wg : Nat) (s : State) : Host.Outcome State Fault Refusal :=
  match s.launch? launch with
  | none => .refused (.notDue "WORKGROUP_RETIRE")
  | some l =>
    let g := l.wgs.getD wg {}
    if !g.placed || g.retired || l.phase != .running || s.wgBusy launch wg then .refused (.notDue "WORKGROUP_RETIRE")
    else
      let retire (s : State) : State := s.modLaunch launch fun x =>
        { x with wgs := x.wgs.put wg { g with retired := true }, retired := x.retired + 1 }
      if l.retired + 1 < l.grid then .next (retire s)
      else if s.cmdsOpen launch || s.tilesOpen launch l.r then .refused (.notDue "WORKGROUP_RETIRE")
      else if l.cruise.isSome then .next ((retire s).finishLaunch launch l)
      else
        match s.blocksStuck launch (s.openBlocks launch), s.signalStuck l with
        | some (d, e), _ => match s.driveHold launch d (512 * d) e with
          | some t => .next t
          | none => .refused (.notDue "WORKGROUP_RETIRE")
        | none, none => .next ((retire (s.writeBlocks launch (s.openBlocks launch))).finishLaunch launch l)
        | none, some e => match s.unitHold l.part e with
          | some t => .next t
          | none => .refused (.notDue "WORKGROUP_RETIRE")

end Sys2Proof.Machine
end

