-- ==== Sys2Proof/Machine/Accept.lean ====
section
/-!
DEFINITION. Acceptance of a launch record (18 R332, R333, R335): the record, the kernel descriptor (17 R323), its levels
(01 R41, R43), a scene descriptor (10 R243) and a render pass descriptor (12 R284).
-/

namespace Sys2Proof.Machine

/-- The outcome of a reading that may be refused or may have to wait. -/
inductive Got (α : Type) where
  | ok (a : α)
  /-- Malformed: a rule is broken, a translation fails, or a read returns poison. -/
  | bad
  /-- A translation is still to be asked for, or a wait for a route begins. -/
  | hold (e : LocRes)
  | wait
deriving DecidableEq, Repr

namespace Got

/-- Go on with a reading's result. -/
def andThen {α β : Type} (x : Got α) (f : α → Got β) : Got β :=
  match x with
  | .ok a => f a
  | .bad => .bad
  | .hold e => .hold e
  | .wait => .wait

/-- A rule that must hold. -/
def need {β : Type} (b : Bool) (x : Got β) : Got β := if b then x else .bad

end Got

namespace State

/-- Read bytes for acceptance (R332): through the partition's page table; it parks nothing and records nothing. -/
def acceptRead (s : State) (part va n : Nat) : Got (List Byte) :=
  match s.unitLocate part va n { r := true } with
  | .parts ps =>
    if ps.any fun p => s.unitLost part p.place then .bad
    else match s.unitBlock (queueAgent part) false ps with
      | some (.route k) => .hold (.route k)
      | some _ => .wait
      | none =>
        let (bs, qs) := s.unitRead part va n
        if qs.any fun q => q then .bad else .ok bs
  | .miss p v => if (s.standCached unitStand p v).isSome then .bad else .hold (.miss p v)
  | .wait => .wait
  | _ => .bad

/-- Every page of a pool is mapped writable for the partition, of KIND 0, with its frame in tier 0 (R243, R284). -/
def poolMapped (s : State) (part base bytes : Nat) : Bool :=
  (List.range ((base % 65536 + bytes + 65535) / 65536)).all fun k =>
    match s.walk part (base / 65536 * 65536 + 65536 * k) with
    | .found tr _ => tr.w && !tr.host && decide (tr.frame + (base / 65536 * 65536 + 65536 * k - tr.base) < 2 ^ 39)
    | .fault _ => false

end State

/-! ### Levels -/

/-- A level word (R323, R332): domain, scope and extent; none when V is 0. -/
def levelOf (w : Nat) : Option Level :=
  if bit w 7 then some { domain := bits w 2 0, scope := if bit w 6 then none else some (bits w 5 3), extent := bits w 31 8 }
  else none

/-- The levels of eight words: a run of valid ones from level 0. -/
def levelsOf (ws : List Nat) : List Level := (ws.map levelOf).takeWhile Option.isSome |>.filterMap id

/-- Each domain is strictly wider than the one before. -/
def widening : List Level → Bool
  | a :: b :: r => decide (a.domain < b.domain) && widening (b :: r)
  | _ => true

/-- The rules of R41 for one level. A level wider than thread may declare no scope, which counts as narrower than its domain
(DEDUCED, log 121). -/
def levelOk (l : Level) : Bool :=
  decide (1 ≤ l.extent) && (match l.scope with
    | none => true
    | some c => decide (c < l.domain)) && (decide (l.domain < 6) || l.extent == 1)

/-- The extents R43 allows below stand. -/
def homesOk (low : List Level) : Bool :=
  match low with
  | [t] => t.domain == 0 && decide (t.extent ≤ 512)
  | t :: w :: rest =>
    if w.domain = 1 then decide (t.extent ≤ 32)
    else match w.domain, rest with
      | 2, [] => decide (t.extent ≤ 4) && decide (w.extent ≤ 128)
      | 3, [] => decide (t.extent ≤ 64) && decide (w.extent ≤ 8)
      | 2, [k] => decide (t.extent ≤ 4) && decide (w.extent ≤ 16) && decide (k.extent ≤ 8)
      | _, _ => false
  | [] => false

/-- The rules of R41 and R43 for a launch's levels, given all eight words. -/
def levelsOk (ws : List Nat) : Bool :=
  let ls := levelsOf ws
  decide (2 ≤ ls.length) && ls.length == (ws.filter fun w => bit w 7).length && (ls.headD { domain := 1, scope := none, extent := 0 }).domain == 0 &&
    widening ls && ls.all levelOk && (ls.any fun l => l.domain == 4) && homesOk (ls.takeWhile fun l => decide (l.domain < 4))

/-! ### The record and the descriptor -/

/-- A launch record with what it names: the descriptor, its constant image and further argument words. -/
structure Inputs where
  rec' : List Byte
  desc : List Byte
  image : List Byte := []
  argx : List Byte := []
  scene : List Byte := []
  pass : List Byte := []
deriving DecidableEq, Repr

namespace Inputs

/-- A word of the record. -/
def rw (x : Inputs) (off : Nat) : Nat := fieldOf x.rec' off 4
/-- A doubleword of the record. -/
def rd (x : Inputs) (off : Nat) : Nat := fieldOf x.rec' off 8
/-- A word of the descriptor. -/
def dw (x : Inputs) (off : Nat) : Nat := fieldOf x.desc off 4
/-- A doubleword of the descriptor. -/
def dd (x : Inputs) (off : Nat) : Nat := fieldOf x.desc off 8
/-- GREGS, ACC and POOL after OVR3. -/
def regs (x : Inputs) : Nat := if bit (x.rw 0x68) 31 then bits (x.rw 0x68) 15 0 else bits (x.dw 0x10) 15 0
/-- Descriptor word 0x18 after OVR1. -/
def word18 (x : Inputs) : Nat := if bit (x.rw 0x60) 31 then bits (x.rw 0x60) 29 0 else x.dw 0x18
/-- Descriptor word 0x1C after OVR2. -/
def word1C (x : Inputs) : Nat := if bit (x.rw 0x64) 31 then bits (x.rw 0x64) 28 0 else x.dw 0x1C
/-- The level words that apply. -/
def levels (x : Inputs) : List Nat :=
  let own := (List.range 8).map fun i => x.rw (0x40 + 4 * i)
  if own.any fun w => bit w 7 then own else (List.range 8).map fun i => x.dw (0x50 + 4 * i)
/-- NARG. -/
def nArg (x : Inputs) : Nat := bits (x.dw 0x28) 15 8
/-- ARGBASE. -/
def argBase (x : Inputs) : Nat := bits (x.dw 0x28) 7 0
/-- Argument word n. -/
def arg (x : Inputs) (n : Nat) : Nat := if n < 32 then x.rw (0x80 + 4 * n) else fieldOf x.argx (4 * (n - 32)) 4
/-- The grant in bytes: POOL, or the smallest that R71 allows. -/
def grant (x : Inputs) : Nat :=
  let least := (genRegs (bits x.regs 2 0) * 128 + bits x.regs 7 3 * 4096 + 4095) / 4096 * 4096
  if bits x.regs 15 8 = 0 then least else bits x.regs 15 8 * 4096

/-- The rules of the record alone (R332). -/
def recordOk (x : Inputs) : Bool :=
  x.rd 8 % 64 == 0 && x.rd 0x10 % 8 == 0 && (x.rd 0x20 == 0 || x.rd 0x28 == 0) && x.rd 0x20 % 64 == 0 && x.rd 0x28 % 64 == 0 &&
    x.rd 0x38 % 64 == 0 && !bit (x.rw 0x60) 30 && bits (x.rw 0x64) 30 29 == 0 && bits (x.rw 0x68) 30 16 == 0 &&
    bits (x.rw 0x6C) 31 23 == 0 && x.rd 0x78 == 0

/-- The ranges of GREGS, ACC and POOL (R323). -/
def regsOk (w : Nat) : Bool := decide (bits w 2 0 ≤ 4) && decide (bits w 7 3 ≤ 16) && decide (bits w 15 8 ≤ 128)

/-- The ranges and reserved bits of descriptor word 0x18 (R323). -/
def ok18 (w : Nat) : Bool :=
  (bits w 15 0 == 0 || decide (64 ≤ bits w 15 0)) && decide (bits w 22 16 ≤ 64) && bits w 31 30 == 0

/-- The ranges and reserved bits of descriptor word 0x1C (R323). -/
def ok1C (w : Nat) : Bool := decide (1 ≤ bits w 15 0) && decide (bits w 28 16 ≤ 1920) && bits w 31 29 == 0

/-- The rules of the descriptor's own words (R11, R323), whatever the record puts over them. -/
def descWordsOk (x : Inputs) : Bool :=
  regsOk (x.dw 0x10) && bits (x.dw 0x10) 31 19 == 0 && bits (x.dw 0x14) 31 6 == 0 && ok18 (x.dw 0x18) && ok1C (x.dw 0x1C) &&
    decide (x.nArg ≤ 64) && decide (x.argBase + x.nArg ≤ 240) && decide (bits (x.dw 0x28) 19 16 ≤ 8) &&
    bits (x.dw 0x28) 31 20 == 0 && x.dw 0x2C == 0 && x.dd 0x78 == 0 &&
    ((List.range 8).all fun i =>
      let w := x.dw (0x30 + 4 * i)
      bits w 31 18 == 0 && (decide (bits (x.dw 0x28) 19 16 ≤ i) || bits w 17 16 != 0)) &&
    (List.range 8).all fun i => (levelOf (x.dw (0x50 + 4 * i))).all fun l => decide (1 ≤ l.extent)

/-- The rules of the descriptor, and of what applies with the record's overrides (R71, R323, R332). -/
def descOk (x : Inputs) : Bool :=
  x.descWordsOk && regsOk x.regs && decide (genRegs (bits x.regs 2 0) * 128 + bits x.regs 7 3 * 4096 ≤ x.grant) &&
    ok18 x.word18 && ok1C x.word1C && (decide (32 < x.nArg) || x.rd 0x38 == 0) && levelsOk x.levels

/-- The declared ranges (R323). -/
def ranges (x : Inputs) : List TRange :=
  (List.range (bits (x.dw 0x28) 19 16)).map fun i =>
    let w := x.dw (0x30 + 4 * i)
    { base := x.arg (bits w 7 0) + x.arg (bits w 7 0 + 1) * 2 ^ 32, len := x.arg (bits w 15 8), r := bit w 16, w := bit w 17 }

/-- The constant image: the descriptor's, with the argument words over it from ARGBASE (R332). -/
def consts (x : Inputs) : Table Reg :=
  regsOf ((List.range 240).map fun n =>
    (n, if x.argBase ≤ n ∧ n < x.argBase + x.nArg then x.arg (n - x.argBase) else fieldOf x.image (4 * n) 4))

/-- The launch's fields (R323, R332). -/
def fields (x : Inputs) : LaunchRec :=
  { entry := x.dd 0, trap := if x.rd 0x70 = 0 then x.dd 8 else x.rd 0x70, gregs := bits x.regs 2 0, acc := bits x.regs 7 3
    grant := x.grant, tile := bit (x.dw 0x10) 16, sliced := bit (x.dw 0x10) 17, cruise := bit (x.dw 0x10) 18, desc := x.desc
    req := bits (x.dw 0x14) 5 0, agelimit := if bits x.word18 15 0 = 0 then 2048 else bits x.word18 15 0
    bars := bits x.word18 22 16, retries := bits x.word18 26 23, priority := bits x.word18 29 27
    watchdog := bits x.word1C 15 0, spill := bits x.word1C 28 16, dcarg := x.dd 0x20, argbase := x.argBase, narg := x.nArg
    ranges := x.ranges, levels := levelsOf x.levels, consts := x.consts, scene := x.rd 0x20, pass := x.rd 0x28
    sceneDesc := x.scene, passDesc := x.pass, seed := BitVec.ofNat 64 (x.rd 0x30), sigaddr := x.rd 0x10
    sigval := BitVec.ofNat 64 (x.rd 0x18), firstStand := bits (x.rw 0x6C) 10 0, nStand := bits (x.rw 0x6C) 21 11
    pin := bit (x.rw 0x6C) 22 }

end Inputs

/-! ### Scenes, passes and named stands -/

namespace State

/-- The rules of a scene descriptor (R243, R335). -/
def sceneOk (s : State) (part : Nat) (r : LaunchRec) : Bool :=
  r.scene == 0 ||
    (r.reachTab % 16 == 0 && decide (1 ≤ r.nReach) && decide (r.nReach ≤ 16384) && !bit (r.scn 8 4) 15 &&
      bits (r.scn 8 4) 31 28 == 0 && decide (1 ≤ r.limit) && r.scn 0xE 2 == 0 && r.boomBase % 64 == 0 && r.pool % 4096 == 0 &&
      r.scn 0x23 1 == 0 && decide (1 ≤ r.rayCap) && decide (r.rayCap ≤ 2 ^ 31) &&
      decide (r.nReach + (r.rayCap + 62) / 63 ≤ r.poolBlk) &&
      ((List.range 4).all fun d => decide (r.streamCount d ≤ 64) && decide (r.streamFirst d + r.streamCount d ≤ 512)) &&
      s.poolMapped part r.pool (4 * r.poolBlk * 4096) &&
      (streamStands r).all fun n => s.standOwner n == some part && !(s.stand n).graphics)

/-- The rules of a render pass descriptor (R284). -/
def passOk (s : State) (part : Nat) (r : LaunchRec) : Bool :=
  let z := r.passClearZ.toNat
  r.pass == 0 ||
    (r.psd 0 8 % (if r.passComp then 256 else 4) == 0 && decide (1 ≤ r.passWidth) && decide (r.passWidth ≤ 16384) &&
      !bit (r.psd 0x10 4) 15 && decide (1 ≤ r.passHeight) && decide (r.passHeight ≤ 16384) &&
      (if r.passComp then r.psd 0x14 4 == 0 else r.psd 0x14 4 % 4 == 0 && decide (4 * r.passWidth ≤ r.psd 0x14 4)) &&
      (decide (z ≤ 0x3F800000) || z == 0x80000000) && bits (r.psd 0x20 4) 15 12 == 0 && decide (1 ≤ r.passCloses) &&
      r.psd 0x24 4 == 0 && r.passBins % 4096 == 0 && decide (1 ≤ r.passBinBlk) && r.psd 0x34 4 == 0 &&
      s.poolMapped part r.passBins (4 * r.passBinBlk * 4096))

/-- Whether the instances of the die level can each lie on one die (R43): with PIN those it names, else the named stands of
different dies need instances of their own (log 109). -/
def diesOk (r : LaunchRec) : Bool :=
  let ws := List.range r.gridSize
  let size := (r.levels.find? fun l => l.domain == 4).elim 1 (·.extent)
  (r.dieInstance 0).isNone ||
    (if r.pin then ws.all fun w => standDie (r.pinStand w) == standDie (r.pinStand (w - w % size))
    else
      let need (d : Nat) : Nat := max ((streamStands r).filter fun n => standDie n == d).length (if (tileDies r).contains d then 1 else 0)
      decide (((List.range 4).map fun d => (need d + size - 1) / size).foldl (· + ·) 0 ≤ (r.gridSize + size - 1) / size))

/-- The rules of R335 and of PIN at acceptance: the grid can hold the named stands and dies, their limits are met, and a
pinned placement lies on stands of the partition and side and covers them. -/
def placementOk (s : State) (part : Nat) (r : LaunchRec) : Bool :=
  let named := streamStands r
  let dies := tileDies r
  let pinned := (List.range (min r.gridSize (r.nStand + 1))).map r.pinStand
  decide (named.length ≤ r.gridSize) && decide (dies.length ≤ r.gridSize) &&
    (named.isEmpty || (decide (r.spill ≤ 320) &&
      (r.waves || (List.range r.wgSize).all fun i => decide ((r.scalarHome 0 i).2 ≠ 3)))) &&
    (!r.pin || (decide (r.firstStand + r.nStand ≤ 2047) &&
      ((List.range (r.nStand + 1)).all fun k =>
        s.standOwner (r.firstStand + k) == some part && (s.stand (r.firstStand + k)).graphics == (r.pass != 0)) &&
      named.all pinned.contains && dies.all fun d => pinned.any fun n => standDie n == d)) && diesOk r

/-- What acceptance reads for a record: the descriptor, and where that is well formed the image, the further arguments, and the scene
and pass descriptors (R332). -/
def acceptReads (s : State) (part : Nat) (rec' : List Byte) : List (Nat × Nat) :=
  let x : Inputs := { rec' := rec', desc := [] }
  if !x.recordOk then []
  else (x.rd 8, 128) :: match s.acceptRead part (x.rd 8) 128 with
    | .ok d =>
      let x := { x with desc := d }
      if !x.descOk then []
      else [(x.dd 0x70, 960)] ++ (if 32 < x.nArg then [(x.rd 0x38, 4 * (x.nArg - 32))] else []) ++
        (if x.rd 0x20 = 0 then [] else [(x.rd 0x20, 64)]) ++ if x.rd 0x28 = 0 then [] else [(x.rd 0x28, 64)]
    | _ => []

/-- The parts those reads reach. -/
def acceptParts (s : State) (part : Nat) (rec' : List Byte) : List Part :=
  (s.acceptReads part rec').flatMap fun r => partsOf (s.unitLocate part r.1 r.2 { r := true })

/-- What acceptance leaves, though it records no fault: errors found in the lines it read (R332, R380). -/
def noteAccept (s : State) (part : Nat) (rec' : List Byte) : State :=
  let (lost, live) := (s.acceptParts part rec').partition fun p => s.unitLost part p.place
  (s.noteReads part live).endRoutes part lost

/-- Acceptance of a launch record for a partition (R332, R335). -/
def accept (s : State) (part : Nat) (rec' : List Byte) : Got LaunchRec :=
  let x : Inputs := { rec' := rec', desc := [] }
  Got.need x.recordOk <|
    (s.acceptRead part (x.rd 8) 128).andThen fun desc =>
      let x := { x with desc := desc }
      Got.need x.descOk <|
        (s.acceptRead part (x.dd 0x70) 960).andThen fun image =>
          (if 32 < x.nArg then s.acceptRead part (x.rd 0x38) (4 * (x.nArg - 32)) else .ok []).andThen fun argx =>
            (if x.rd 0x20 = 0 then .ok [] else s.acceptRead part (x.rd 0x20) 64).andThen fun scene =>
              (if x.rd 0x28 = 0 then .ok [] else s.acceptRead part (x.rd 0x28) 64).andThen fun pass =>
                let r := { x with image := image, argx := argx, scene := scene, pass := pass }.fields
                Got.need (s.sceneOk part r && s.passOk part r && s.placementOk part r) (.ok r)

end State

end Sys2Proof.Machine
end

