-- ==== Sys2Proof/Machine/Queues.lean ====
section
/-!
DEFINITION. Command queues (18 R329-R334, R336, R342, R343): registers, reservation, doorbells, and the commands LAUNCH,
SIGNAL, WAIT, MESSAGE and BIND.
-/

namespace Sys2Proof.Machine

namespace State

/-! ### Registers of a queue -/

/-- The partition of a queue (R329). -/
def queuePart (q : Nat) : Nat := q / 64

/-- QCTL of a queue. -/
def qctl (s : State) (q : Nat) : Nat := s.regN (queueReg q 8)

/-- A queue is enabled. -/
def qEnabled (s : State) (q : Nat) : Bool := bit (s.qctl q) 0

/-- Entries of a queue's ring. -/
def ringSize (s : State) (q : Nat) : Nat := 2 ^ bits (s.qctl q) 12 8

/-- An index as software sees it. -/
def shownIndex (n : Nat) : Nat := n % 2 ^ 31

/-- Reserved indices not yet below the consumer index (R330). -/
def occupancy (s : State) (q : Nat) : Nat := (s.queue q).reserved - (s.queue q).read

/-- The index below which every entry is published (R329). -/
def publishedTo (x : Queue) : Nat → Nat → Nat
  | 0, n => n
  | fuel + 1, n => if (x.published.get? n).isSome then publishedTo x fuel (n + 1) else n

/-- The cruise of a queue (R343). -/
def queueCruise (s : State) (q : Nat) : Option (Nat × Cruise) := s.cruises.find? fun _ c => c.queue == q

/-- A command as an event takes it: its index, doorbell time and bytes. -/
abbrev Cmd := Nat × Nat × List Byte

/-- The operation of a command (R331). -/
def Cmd.op (c : Cmd) : Nat := fieldOf c.2.2 0 1

/-- B of a command. -/
def Cmd.barrier (c : Cmd) : Bool := bit (fieldOf c.2.2 0 8) 16

/-- A command may start (R331): without B once read, with B when every earlier command of the queue has completed. -/
def mayStart (s : State) (q : Nat) (c : Cmd) : Bool := !Cmd.barrier c || (s.queue q).active.all fun n => decide (c.1 ≤ n)

/-- The real command a cruise may be claimed by, at its issue point (R345). -/
def claimant (s : State) (x : Cruise) : Option Cmd :=
  (s.queue x.queue).waiting.find? fun c => x.claim == some c.1 && s.mayStart x.queue c

/-- CRSTAT (R347); a cruise commits while its claim waits for the homes (R345). -/
def crStat (s : State) (q : Nat) : Nat :=
  let x := s.queue q
  let c := match s.queueCruise q with
    | none => 0
    | some c => if (s.claimant c.2).isSome && c.2.causes == 0 then 3 else if c.2.finished.isSome then 2 else 1
  x.confidence + x.predicted.isSome.toNat * 4 + x.period * 8 + c * 64

/-- A queue register as a read without effects shows it (R329, R347). -/
def queueShow (s : State) (q off : Nat) : W32 :=
  let x := s.queue q
  if off = 0x18 then BitVec.ofNat 32 (shownIndex (publishedTo x (x.published.length + 1) x.read))
  else if off = 0x1C then BitVec.ofNat 32 (shownIndex x.read)
  else if off = 0x40 then BitVec.ofNat 32 (s.crStat q)
  else if off = 0x54 then BitVec.ofNat 32 ((s.queueCruise q).elim 0 fun c => c.2.readGran.length)
  else if off = 0x58 then
    BitVec.ofNat 32 ((s.queueCruise q).elim 0 fun c => ((c.2.written.map fun k => k / 128).eraseDups).length)
  else if off = 0x10 ∨ off = 0x14 then 0
  else s.reg (queueReg q off)

/-- What a reservation that began at a time answers now (R330); none while it waits. -/
def reserve? (s : State) (q : Nat) (signal : Bool) (begun : Nat) : Option (W32 × State) :=
  let x := s.queue q
  let room := if signal then s.ringSize q else s.ringSize q - 4
  if !s.qEnabled q then some (2, s)
  else if s.occupancy q < room then
    some (BitVec.ofNat 32 (2 ^ 31 + shownIndex x.reserved), s.modQueue q fun x => { x with reserved := x.reserved + 1 })
  else if signal then (if begun + 20000 ≤ s.gtc then some (3, s) else none)
  else if begun + s.regN (queueReg q 0xC) * 1000 ≤ s.gtc then some (1, s) else none

/-- Read a queue register with its effect (R10, R329, R330): none while a reservation waits. -/
def queueRead (s : State) (q off begun : Nat) : Option (W32 × State) :=
  if off = 0x10 then s.reserve? q false begun
  else if off = 0x14 then s.reserve? q true begun
  else if 0x44 ≤ off ∧ off ≤ 0x50 then some (s.reg (queueReg q off), s.setReg (queueReg q off) 0)
  else some (s.queueShow q off, s)

/-- The unwrapped index a doorbell names, when it is reserved and unread (R330). -/
def doorbellIndex (s : State) (q v : Nat) : Option Nat :=
  let x := s.queue q
  let n := x.read + (v % 2 ^ 31 + 2 ^ 31 - shownIndex x.read) % 2 ^ 31
  if n < x.reserved then some n else none

/-- Publish an entry (R330). -/
def publish (s : State) (q v : Nat) : State :=
  (s.doorbellIndex q v).elim s fun n => s.modQueue q fun (x : Queue) => { x with published := x.published.put n s.gtc }

/-- The bytes of an entry of a queue's ring (R329). -/
def entryBytes (s : State) (q n : Nat) : List Byte :=
  let a := s.reg64 (queueReg q 0) + 256 * (n % s.ringSize q)
  if bit (s.qctl q) 2 then s.mem.dram.read a 256 else s.mem.host.read a 256

/-- Write a signal of a queue, or keep it for later while its translation is awaited. -/
def signalOrKeep (s : State) (q addr value : Nat) : State :=
  match s.unitStuck (queuePart q) [(addr, 8, { w := true })] with
  | none => s.unitPut (queuePart q) addr (bytesOfNat 8 value)
  | some e => ((s.unitHold (queuePart q) e).getD s).modQueue q fun x => { x with late := x.late ++ [(addr, value)] }

/-- The signal words that tell of the unread launches of a queue as cancelled: address and word (R336). -/
def cancelSignals (s : State) (q : Nat) : List (Nat × Nat) :=
  (s.queue q).published.keys.filterMap fun n =>
    let b := s.entryBytes q n
    if fieldOf b 0 1 = 1 ∧ fieldOf b 0x10 8 ≠ 0 ∧ fieldOf b 0x10 8 % 8 = 0 then
      some (fieldOf b 0x10 8, signalWord (BitVec.ofNat 64 (fieldOf b 0x18 8)) 4)
    else none

/-- Clearing EN completes each unread command with status 0x04 (R329, R336). -/
def cancelUnread (s : State) (q : Nat) : State :=
  ((s.cancelSignals q).foldl (fun (s : State) e => s.signalOrKeep q e.1 e.2) s).modQueue q fun x =>
    { x with read := x.reserved, published := [] }

/-- Write QCTL (R329): LOC and LOG2S are kept while EN is 1. -/
def writeQctl (s : State) (q v : Nat) : State :=
  let old := s.qctl q
  let ring := if bit old 0 then old - old % 4 else bits v 12 8 * 256 + bits v 2 2 * 4
  let s := if bit old 0 && !bit v 0 then s.cancelUnread q else s
  s.setRegN (queueReg q 8) (ring + v % 4)

/-- Write QSTAT (R329, R331): clearing the timeout of a WAIT skips it. -/
def writeQstat (s : State) (q : Nat) (v : W32) : State :=
  let s := s.setReg (queueReg q 0x20) (s.reg (queueReg q 0x20) &&& ~~~v)
  let x := s.queue q
  if v.getLsbD 1 && x.halted then
    let s := s.modQueue q fun x => { x with halted := false, wait := none }
    x.wait.elim s fun w => s.completeCmd q w.index
  else s

/-- A launch holds stands (R338). -/
def holdsStands (l : Launch) : Bool :=
  (l.phase == .running || l.phase == .pending) && l.wgs.any fun w => w.2.placed && !w.2.retired

/-- Begin to pre-empt a queue (R338): its launches that hold stands stop, and its cruise is to be discarded. -/
def startPreempt (s : State) (q : Nat) : State :=
  let mine (l : Launch) : Bool := l.queue == q && l.cruise.isNone && holdsStands l
  let s := { s with cruises := s.cruises.map fun (c : Nat × Cruise) =>
    if c.2.queue == q then (c.1, c.2.cause 0x10) else c }
  if s.launches.any fun l => mine l.2 then
    let ls := s.launches.map fun (l : Nat × Launch) => if mine l.2 then (l.1, { l.2 with phase := .preempting }) else l
    { s with launches := ls }.setReg (queueReg q 0x24) 1
  else s.orReg (queueReg q 0x20) 4

/-- Write a queue register (R10, R329). -/
def queueWrite (s : State) (q off : Nat) (v : W32) : State :=
  let n := v.toNat
  match off with
  | 0x00 => if s.qEnabled q then s else s.setRegN (queueReg q 0) (n / 256 * 256)
  | 0x04 => if s.qEnabled q then s else s.setReg (queueReg q 4) v
  | 0x08 => s.writeQctl q n
  | 0x0C => if n % 65536 ≤ 1000 then s.setRegN (queueReg q 0xC) (n % 65536) else s
  | 0x18 => s.publish q n
  | 0x20 => s.writeQstat q v
  | 0x24 => if v.getLsbD 0 && !(s.reg (queueReg q 0x24)).getLsbD 0 then s.startPreempt q else s
  | 0x28 => s.setRegN (queueReg q 0x28) (n / 4096 * 4096)
  | 0x2C => s.setReg (queueReg q 0x2C) v
  | 0x30 => s.setReg (queueReg q 0x30) v
  | _ => s

/-! ### The Cruiser's history -/

/-- A launch record as its 32 fields (R342). -/
def recordFields (b : List Byte) : List W64 := (List.range 32).map fun f => BitVec.ofNat 64 (fieldOf b (8 * f) 8)

/-- The bytes of 32 fields. -/
def recordBytes (fs : List W64) : List Byte := fs.flatMap fun f => bytesOfNat 8 f.toNat

/-- The argument fields the descriptor of a record marks don't-care (R323, R342). -/
def dontCare (s : State) (part : Nat) (fs : List W64) : NatSet :=
  match s.acceptRead part (fs.getD 1 0).toNat 128 with
  | .ok d => ((List.range 32).filter fun n => bit (fieldOf d 0x20 8) n).foldl (fun (p : NatSet) n => p.add (16 + n / 2)) []
  | _ => []

/-- What the first of a list of descriptors that cannot be read yet waits for. A page that is denied has nothing to wait for. -/
def descAwaits (s : State) (part : Nat) (vas : List Nat) : Option LocRes :=
  vas.findSome? fun va => match s.acceptRead part va 128 with
    | .hold e => some e
    | .wait => some .wait
    | _ => none

/-- The descriptors the Cruiser reads with a launch (R342, R343): the launch's own, and that of the launch predicted. -/
def cruiserReads (s : State) (q : Nat) (b : List Byte) : List Nat :=
  fieldOf b 8 8 :: ((s.queue q).predicted.map fun fs => (fs.getD 1 0).toNat).toList

/-- Step k of a stride: twice the middle field less the first (R342). -/
def strideOf (a b : W64) : W64 := b + (b - a)

/-- Whether a period explains the newest record of a history of n records (R342). -/
def periodFits (h : List (List W64)) (dc : NatSet) (p : Nat) : Bool :=
  let n := h.length
  decide (2 * p + 1 ≤ n) && (List.range 32).all fun f =>
    let at' (k : Nat) : W64 := (h.getD (n - 1 - k) []).getD f 0
    dc.has f || at' 0 == strideOf (at' (2 * p)) (at' p)

/-- The prediction of the next record, with its period (R342). -/
def predict (h : List (List W64)) (dc : NatSet) : Option (Nat × List W64) :=
  ((List.range 7).map (· + 1)).findSome? fun p =>
    if periodFits h dc p then
      let at' (k f : Nat) : W64 := (h.getD (h.length - 1 - k) []).getD f 0
      some (p, (List.range 32).map fun f => strideOf (at' (2 * p - 1) f) (at' (p - 1) f))
    else none

/-- Whether a record matches a prediction (R343). -/
def recordMatches (dc : NatSet) (a b : List W64) : Bool := (List.range 32).all fun f => dc.has f || a.getD f 0 == b.getD f 0

/-- A launch has been read (R342, R343): it is compared with the prediction held, joins the history, and a prediction is
formed for the next. A cruise of the queue is matched by it or is to be discarded (R345, R346). -/
def noteLaunchRead (s : State) (q index : Nat) (b : List Byte) : State :=
  let x := s.queue q
  let fs := recordFields b
  let pdc := x.predicted.elim [] fun p => s.dontCare (queuePart q) p
  let same := x.predicted.any fun p => recordMatches pdc p fs
  let conf := if x.predicted.isNone then x.confidence else if same then min (x.confidence + 1) 3 else 0
  let cruises := s.cruises.map fun c =>
    if c.2.queue != q then c
    else if c.2.claim.isNone && recordMatches pdc (((s.launch? c.2.launch).map (·.record)).getD []) fs then
      (c.1, { c.2 with claim := some index })
    else if c.2.claim.isNone then (c.1, c.2.cause 0x20) else c
  let h := (x.history ++ [fs]).drop (x.history.length + 1 - 16)
  let next := predict h (s.dontCare (queuePart q) fs)
  { s with cruises := cruises }.modQueue q fun x =>
    { x with confidence := conf, history := h, predicted := next.map (fun (p : Nat × List W64) => p.2)
             period := next.elim 0 (fun (p : Nat × List W64) => p.1), lastRead := s.gtc }

/-! ### Reading commands -/

/-- The header is well formed (R331). -/
def headerOk (c : Cmd) : Bool := fieldOf c.2.2 1 1 == 0 && fieldOf c.2.2 0 8 / 2 ^ 17 == 0

/-- Bytes from an offset to the end of an entry are zero. -/
def zeroFrom (b : List Byte) (off : Nat) : Bool := (b.drop off).all fun x => x == 0

/-- The entry a queue reads next, if it is published and the queue reads (R330, R331). -/
def nextEntry (s : State) (q : Nat) : Option Cmd :=
  let x := s.queue q
  if !s.qEnabled q || x.halted || x.wait.isSome then none
  else (x.published.get? x.read).map fun t => (x.read, t, s.entryBytes q x.read)

/-- The entry has been read: its slot is free (R330). -/
def noteRead (s : State) (q : Nat) (c : Cmd) : State :=
  let s := s.modQueue q fun x =>
    { x with read := x.read + 1, published := x.published.del c.1, active := x.active.add c.1 }
  if Cmd.op c = 1 then
    let s := s.noteLaunchRead q c.1 c.2.2
    s.noteReads (queuePart q) ((s.cruiserReads q c.2.2).flatMap fun va => partsOf (s.unitLocate (queuePart q) va 128 { r := true }))
  else s

/-- Keep a command that has been read and cannot be carried out yet. -/
def keepCmd (s : State) (q : Nat) (c : Cmd) : State := s.modQueue q fun x => { x with waiting := x.waiting ++ [c] }

/-- Refuse a malformed command (R11, R331). -/
def refuseCmd (s : State) (q : Nat) (c : Cmd) : State := (s.orReg (queueReg q 0x20) 1).completeCmd q c.1

/-- What carrying out a command comes to. -/
inductive Done where
  | done (s : State)
  /-- Asks for a translation and is tried again. -/
  | ask (s : State)
  /-- Cannot be carried out yet. -/
  | hold

/-- Take a kept command away. -/
def dropKept (s : State) (q : Nat) (c : Cmd) : State := s.modQueue q fun x => { x with waiting := x.waiting.filter (· != c) }

/-- Carry out the oldest kept command of an operation that can be, or read the next entry if it is of that operation: it
is carried out, or kept until it can be. A LAUNCH is read with the descriptors the Cruiser compares (R342, R343). An entry of
no known operation is refused by whichever command step meets it. -/
def command (s : State) (q op : Nat) (name : String) (run : State → Cmd → Done) : Host.Outcome State Fault Refusal :=
  let kept := (s.queue q).waiting.findSome? fun c =>
    if Cmd.op c == op && s.mayStart q c then
      (match run (s.dropKept q c) c with
        | .done t => some t
        | .ask _ => (match run s c with
          | .ask t => some t
          | _ => none)
        | .hold => none)
    else none
  match kept with
  | some t => .next t
  | none =>
    match s.nextEntry q with
    | none => .refused (.notDue name)
    | some c =>
      if Cmd.op c = 0 ∨ 6 < Cmd.op c then .next ((s.noteRead q c).refuseCmd q c)
      else if Cmd.op c ≠ op then .refused (.notDue name)
      else match if op = 1 then s.descAwaits (queuePart q) (s.cruiserReads q c.2.2) else none with
      | some e => (match s.unitHold (queuePart q) (e, { r := true }) with
        | some t => .next t
        | none => .refused (.notDue name))
      | none =>
        let s := s.noteRead q c
        if op ≠ 1 ∧ !headerOk c then .next (s.refuseCmd q c)
        else if s.mayStart q c then
          (match run s c with
            | .done t => .next t
            | .ask t => .next (t.keepCmd q c)
            | .hold => .next (s.keepCmd q c))
        else .next (s.keepCmd q c)

/-! ### The commands -/

/-- The launch id of a queue's entry (R333). -/
def launchIdOf (q index : Nat) : Nat := q % 64 * 2 ^ 26 + index % 2 ^ 26

/-- A launch whose record has been accepted. -/
def newLaunch (s : State) (q : Nat) (c : Cmd) (r : LaunchRec) : Launch :=
  let part := queuePart q
  { part := part, queue := q, id := launchIdOf q c.1
    r := { r with execStart := if r.sliced then s.findExecute part (2 ^ 20) r.entry else r.entry }
    grid := r.gridSize, record := recordFields c.2.2, doorbell := c.2.1, index := c.1 }

/-- A kernel descriptor accepted for a partition is measured from then on (R379). -/
def noteKernel (s : State) (part : Nat) (desc : List Byte) : State :=
  s.modPart part fun x => if x.kernels.contains desc then x else { x with kernels := x.kernels ++ [desc] }

/-- LAUNCH as it starts (R332): accepted, it waits for placement; malformed, it is refused and its signal word says so
(R336). While a cruise that matches it stands, the claim decides (R345). -/
def runLaunch (q : Nat) (s : State) (c : Cmd) : Done :=
  let part := queuePart q
  let claimed := (s.queueCruise q).any fun e => e.2.claim == some c.1
  if claimed then .hold
  else
    match if headerOk c then s.accept part c.2.2 else .bad with
    | .ok r =>
      let (k, s) := (s.noteAccept part c.2.2).fresh
      .done ({ s with launches := s.launches.put k (s.newLaunch q c r) }.noteKernel part r.desc)
    | .hold e => (s.unitHold part (e, { r := true })).elim .hold .ask
    | .wait => .hold
    | .bad =>
      let addr := fieldOf c.2.2 0x10 8
      let s := ((if headerOk c then s.noteAccept part c.2.2 else s)).refuseCmd q c
      .done (if addr = 0 ∨ addr % 8 ≠ 0 then s
        else s.signalOrKeep q addr (signalWord (BitVec.ofNat 64 (fieldOf c.2.2 0x18 8)) 2))

/-- SIGNAL (R331): a store, or an add, of 8 bytes. A poisoned word takes no add (R207). -/
def runSignal (q : Nat) (s : State) (c : Cmd) : Done :=
  let part := queuePart q
  let addr := fieldOf c.2.2 8 8
  let add := bit (fieldOf c.2.2 0x18 1) 0
  if addr % 8 ≠ 0 ∨ 1 < fieldOf c.2.2 0x18 8 ∨ !zeroFrom c.2.2 0x20 then .done (s.refuseCmd q c)
  else
    match s.unitStuck part [(addr, 8, { r := add, w := true })] with
    | some e => (s.unitHold part e).elim .hold .ask
    | none =>
      let (old, bad) := s.unitRead part addr 8
      let v := fieldOf c.2.2 0x10 8
      let s := if add then s.unitReads part [(addr, 8)] else s
      let s := if add && bad.any (fun b => b) then s
        else s.unitPut part addr (bytesOfNat 8 (if add then natOfBytes old + v else v))
      .done (s.completeCmd q c.1)

/-- The condition of a WAIT on the value read (R331). -/
def waitHolds (cond value v : Nat) : Bool :=
  match cond with
  | 0 => v == value
  | 1 => decide (value ≤ v)
  | _ => v != value

/-- Whether a WAIT's word can be read now. -/
def waitStuck (s : State) (q addr : Nat) : Option (LocRes × Need) := s.unitStuck (queuePart q) [(addr, 8, { r := true })]

/-- Read a WAIT's word and judge it; a poisoned word meets no condition. -/
def waitTrue (s : State) (q : Nat) (w : QWait) : Bool :=
  let (b, bad) := s.unitRead (queuePart q) w.addr 8
  !(bad.any fun x => x) && waitHolds w.cond w.value (natOfBytes b)

/-- WAIT as it starts (R331): it reads at once, and again until the condition holds or its limit comes. One kept for B starts when
no WAIT read after it is in progress (log 119). -/
def runWait (q : Nat) (s : State) (c : Cmd) : Done :=
  let f := fieldOf c.2.2 0x18 4
  if bits f 1 0 = 3 ∨ bits f 15 2 ≠ 0 ∨ !zeroFrom c.2.2 0x1C then .done (s.refuseCmd q c)
  else if (s.queue q).wait.isSome then .hold
  else
    let w : QWait :=
      { index := c.1, addr := fieldOf c.2.2 8 8, value := fieldOf c.2.2 0x10 8, cond := bits f 1 0
        deadline := if bits f 31 16 = 0 then none else some (s.gtc + bits f 31 16 * 1000), last := s.gtc }
    match s.waitStuck q w.addr with
    | none =>
      let t := s.unitReads (queuePart q) [(w.addr, 8)]
      if s.waitTrue q w then .done (t.completeCmd q c.1) else .done (t.modQueue q fun x => { x with wait := some w })
    | some e => .done (((s.unitHold (queuePart q) e).getD s).modQueue q fun x => { x with wait := some w })

/-- The launch of a partition with an id that has not ended; the youngest (R53, R333). -/
def launchById (s : State) (part id : Nat) : Option (Nat × Launch) :=
  (s.launches.filter fun _ l => l.part == part && l.id == id && l.cruise.isNone && l.phase != .ended).getLast?

/-- Whether a launch of an id is still to start in a partition (R331, R333): a LAUNCH not yet read, or read and kept. -/
def launchAwaited (s : State) (part id : Nat) : Bool :=
  (List.range 64).any fun k =>
    let q := 64 * part + k
    let x := s.queue q
    (x.waiting.any fun c => Cmd.op c == 1 && launchIdOf q c.1 == id) ||
      x.published.any fun e => decide (x.read ≤ e.1) && launchIdOf q e.1 == id && fieldOf (s.entryBytes q e.1) 0 1 == 1

/-- The workgroup a host message belongs to (R53); of several at home on the target's stand, the lowest-numbered (DESIGN CHOICE,
log 120). -/
def hostWg (l : Launch) (core : Nat) : Nat :=
  match l.wgs.find? fun _ w => w.placed && !w.retired && w.stand == coreStand core with
  | some w => w.1
  | none => ((List.range l.grid).find? fun w => !(l.wgs.getD w {}).retired).getD 0

/-- MESSAGE (R53, R331): accepted by the target's inbound queue, or discarded with a record; it waits for a launch that has not
started. -/
def runMessage (q : Nat) (s : State) (c : Cmd) : Done :=
  let part := queuePart q
  let tgt := fieldOf c.2.2 8 8
  let f := fieldOf c.2.2 0x10 8
  let count := bits f 47 44
  if 8 < count ∨ f / 2 ^ 48 ≠ 0 ∨ !zeroFrom c.2.2 0x38 then .done (s.refuseCmd q c)
  else
    let (_, core) := s.msgTarget tgt
    let payload := (List.range count).map fun n => BitVec.ofNat 32 (fieldOf c.2.2 (0x18 + 4 * n) 4)
    let m : Msg :=
      { core := core, index := bits f 43 32, payload := payload, part := part, launch := 0, wg := 0, srcCore := 0
        srcPkg := s.pkgId, arrived := true }
    let s := { s with cruises := s.cruises.map fun (e : Nat × Cruise) =>
      if (s.launch? e.2.launch).any fun (l : Launch) => l.part == part && l.id == bits f 31 0 then
        (e.1, e.2.cause 8) else e }
    match s.launchById part (bits f 31 0) with
    | some (k, l) =>
      if (s.msgTarget tgt).1.isSome ∨ !s.targetOk part tgt then
        if !s.eventRoom (coreDie core) then .hold else
        .done ((s.eventRecord part (coreDie core) 4 m.index m.srcCore m.srcPkg (s.launchId k)).completeCmd q c.1)
      else if 16 ≤ (s.core core).inbound.length then .hold
      else
        let (id, s) := s.fresh
        let m := { m with launch := k, wg := hostWg l core, sender := id, seq := id }
        .done ((s.modCore core fun x => { x with inbound := x.inbound ++ [m] }).completeCmd q c.1)
    | none =>
      if s.launchAwaited part (bits f 31 0) || !s.eventRoom (coreDie core) then .hold
      else .done ((s.eventRecord part (coreDie core) 4 (bits f 43 32) 0 s.pkgId (bits f 31 0)).completeCmd q c.1)

/-- BIND (R32, R331): one entry of the handler table, with one single-copy atomic store. -/
def runBind (q : Nat) (s : State) (c : Cmd) : Done :=
  let idx := fieldOf c.2.2 0x10 8
  if 4096 ≤ idx ∨ !zeroFrom c.2.2 0x18 then .done (s.refuseCmd q c)
  else
    let a := s.reg64 (partReg (queuePart q) 8) + 8 * idx
    if !s.unitFree a 8 then .hold else
    .done ((s.unitWrite a (bytesOfNat 8 (fieldOf c.2.2 8 8))).completeCmd q c.1)

end State

/-- QRESV_READ (R330): a host read of QRESV; with no room it waits. -/
def execQresvRead (queue : Nat) (s : State) : Host.Outcome State Fault Refusal :=
  let begun := (s.queue queue).resv
  match s.reserve? queue false (begun.getD s.gtc) with
  | some (v, t) =>
    if 4096 ≤ queue ∨ (begun.isSome ∧ v = 1) then .refused (.notDue "QRESV_READ")
    else .next { t.modQueue queue fun x => { x with resv := none } with busRead := v }
  | none =>
    if 4096 ≤ queue ∨ begun.isSome then .refused (.notDue "QRESV_READ")
    else .next (s.modQueue queue fun x => { x with resv := some s.gtc })

/-- QRESV_TIMEOUT (R330): a waiting QRESV read returns full after QWAIT. -/
def execQresvTimeout (queue : Nat) (s : State) : Host.Outcome State Fault Refusal :=
  match (s.queue queue).resv with
  | some b =>
    match s.reserve? queue false b with
    | some (1, t) => .next { t.modQueue queue fun x => { x with resv := none } with busRead := 1 }
    | _ => .refused (.notDue "QRESV_TIMEOUT")
  | none => .refused (.notDue "QRESV_TIMEOUT")

/-- QRESVS_READ (R330): a host read of QRESVS; at full occupancy it waits. -/
def execQresvsRead (queue : Nat) (s : State) : Host.Outcome State Fault Refusal :=
  let begun := (s.queue queue).resvs
  match s.reserve? queue true (begun.getD s.gtc) with
  | some (v, t) =>
    if 4096 ≤ queue ∨ (begun.isSome ∧ v = 3) then .refused (.notDue "QRESVS_READ")
    else .next { t.modQueue queue fun x => { x with resvs := none } with busRead := v }
  | none =>
    if 4096 ≤ queue ∨ begun.isSome then .refused (.notDue "QRESVS_READ")
    else .next (s.modQueue queue fun x => { x with resvs := some s.gtc })

/-- QRESVS_BUSY_TIMEOUT (R330): a waiting QRESVS read returns busy after 20 µs. -/
def execQresvsBusyTimeout (queue : Nat) (s : State) : Host.Outcome State Fault Refusal :=
  match (s.queue queue).resvs with
  | some b =>
    match s.reserve? queue true b with
    | some (3, t) => .next { t.modQueue queue fun x => { x with resvs := none } with busRead := 3 }
    | _ => .refused (.notDue "QRESVS_BUSY_TIMEOUT")
  | none => .refused (.notDue "QRESVS_BUSY_TIMEOUT")

/-- DOORBELL_WRITE (R330). -/
def execDoorbellWrite (queue : Nat) (val : W32) (s : State) : Host.Outcome State Fault Refusal :=
  if queue < 4096 then .next (s.queueWrite queue 0x18 val) else .refused (.notDue "DOORBELL_WRITE")

/-- QCTL_WRITE (R329, R336). -/
def execQctlWrite (queue : Nat) (val : W32) (s : State) : Host.Outcome State Fault Refusal :=
  if queue < 4096 then .next (s.queueWrite queue 8 val) else .refused (.notDue "QCTL_WRITE")

/-- QSTAT_WRITE (R329, R331). -/
def execQstatWrite (queue : Nat) (val : W32) (s : State) : Host.Outcome State Fault Refusal :=
  if queue < 4096 then .next (s.queueWrite queue 0x20 val) else .refused (.notDue "QSTAT_WRITE")

/-- LAUNCH (R331-R335, R342). -/
def execLaunch (queue : Nat) (s : State) : Host.Outcome State Fault Refusal :=
  s.command queue 1 "LAUNCH" (State.runLaunch queue)

/-- SIGNAL_COMMAND (R331); signals of refused and cancelled commands that had to wait are written first, each as soon as it can be
(R336). -/
def execSignalCommand (queue : Nat) (s : State) : Host.Outcome State Fault Refusal :=
  let part := State.queuePart queue
  let late := (s.queue queue).late
  let stuck (e : Nat × Nat) : Option (LocRes × Need) := s.unitStuck part [(e.1, 8, { w := true })]
  match late.find? fun e => (stuck e).isNone with
  | some e => .next ((s.modQueue queue fun x => { x with late := x.late.erase e }).unitPut part e.1 (bytesOfNat 8 e.2))
  | none =>
    match late.findSome? fun e => match stuck e with
        | some (.miss p va, need) => if s.asksUnit State.unitStand p va then none else s.unitHold part (.miss p va, need)
        | some e => s.unitHold part e
        | none => none with
    | some t => .next t
    | none => s.command queue 2 "SIGNAL_COMMAND" (State.runSignal queue)

/-- QUEUE_WAIT_COMMAND (R331). -/
def execQueueWaitCommand (queue : Nat) (s : State) : Host.Outcome State Fault Refusal :=
  s.command queue 3 "QUEUE_WAIT_COMMAND" (State.runWait queue)

/-- QUEUE_WAIT_POLL (R331): a WAIT reads its word again. -/
def execQueueWaitPoll (queue : Nat) (s : State) : Host.Outcome State Fault Refusal :=
  let x := s.queue queue
  match x.wait with
  | some w =>
    if x.halted then .refused (.notDue "QUEUE_WAIT_POLL")
    else
      match s.waitStuck queue w.addr with
      | none =>
        let t := s.unitReads (State.queuePart queue) [(w.addr, 8)]
        if s.waitTrue queue w then .next ((t.modQueue queue fun x => { x with wait := none }).completeCmd queue w.index)
        else .next (t.modQueue queue fun x => { x with wait := some { w with last := s.gtc } })
      | some e => match s.unitHold (State.queuePart queue) e with
        | some t => .next t
        | none => .refused (.notDue "QUEUE_WAIT_POLL")
  | none => .refused (.notDue "QUEUE_WAIT_POLL")

/-- QUEUE_WAIT_TIMEOUT (R331): a WAIT reaches its limit, and the queue halts. -/
def execQueueWaitTimeout (queue : Nat) (s : State) : Host.Outcome State Fault Refusal :=
  let x := s.queue queue
  match x.wait.bind (·.deadline) with
  | some d =>
    if d ≤ s.gtc ∧ !x.halted then
      .next ((s.modQueue queue fun x => { x with halted := true }).orReg (queueReg queue 0x20) 2)
    else .refused (.notDue "QUEUE_WAIT_TIMEOUT")
  | none => .refused (.notDue "QUEUE_WAIT_TIMEOUT")

/-- MESSAGE_COMMAND (R53, R331). -/
def execMessageCommand (queue : Nat) (s : State) : Host.Outcome State Fault Refusal :=
  s.command queue 4 "MESSAGE_COMMAND" (State.runMessage queue)

/-- BIND (R32, R331). -/
def execBind (queue : Nat) (s : State) : Host.Outcome State Fault Refusal :=
  s.command queue 5 "BIND" (State.runBind queue)

end Sys2Proof.Machine
end

