-- ==== Sys2Proof/Machine/Homes.lean ====
section
/-!
DEFINITION. Memory operations at their homes and ports (03 R85-R94; 08 R200, R201, R206, R207; 19 R365; 20 R374-R376;
21 R387, R388): reads with their leases, writes, atomics, sequentially consistent operations, acknowledgements, and the
sweeping and sleeping of an L1.
-/

namespace Sys2Proof.Machine

/-- The new value of an atomic (R206). -/
def atomNew (op ty old c d : Nat) : Nat :=
  let n := intWidth ty
  let less : Bool := if intSigned ty then decide (signExt n c < signExt n old) else decide (c < old)
  match op with
  | 0 => (old + c) % 2 ^ n
  | 1 => if less then c else old
  | 2 => if less then old else c
  | 3 => old &&& c
  | 4 => old ||| c
  | 5 => old ^^^ c
  | 6 => c
  | 7 => if old = d then c else old
  | _ => (fltArith .fadd (if ty = 0 then 1 else if ty = 2 then 0 else 2) 1 0 old c 0).1

/-- The flags of an atomic: those of .fadd (R206). -/
def atomFlags (op ty old c : Nat) : FFlags :=
  if op = 8 then (fltArith .fadd (if ty = 0 then 1 else if ty = 2 then 0 else 2) 1 0 old c 0).2 else {}

namespace State

/-! ### Parts of operations -/

/-- A part of an outstanding operation. -/
def opPart (s : State) (op idx : Nat) : Option (MemOp × Part) := do
  let o ← s.ops.get? op
  let p ← o.parts[idx]?
  return (o, p)

/-- Replace a part. -/
def setPart (s : State) (op idx : Nat) (p : Part) : State := s.modOp op fun o => { o with parts := o.parts.set idx p }

/-- A part of a store is finished: nothing of it is still to come. -/
def partEnded (p : Part) : Bool :=
  p.dropped || (if p.copy || (match p.place with
    | .host _ _ => true
    | _ => false) then p.phase == .acked else p.phase == .performed || p.phase == .acked)

/-- An operation nothing waits for any longer is forgotten: a store all of whose parts are finished, or a prefetch that has
been served. -/
def reapOp (s : State) (op : Nat) : State :=
  match s.ops.get? op with
  | some o =>
    if (o.kind == .store && o.parts.all partEnded) || (o.orphan && o.taken) then { s with ops := s.ops.del op } else s
  | none => s

/-- The task an operation's thread runs. -/
def opTask (s : State) (o : MemOp) : Option Nat := (s.thread? o.tid).bind (·.taskOf)

/-- The unclaimed cruise an operation's thread belongs to. -/
def opCruise (s : State) (o : MemOp) : Option Nat := (s.thread? o.tid).bind fun th => s.cruiseOf th.launch

/-- Report on an access; an unclaimed cruise leaves no record, and is to be discarded (R346; log 118). -/
def opReport (s : State) (o : MemOp) (report : State → State) : State :=
  match s.opCruise o with
  | some c => { s with cruises := s.cruises.mod c fun x => x.cause 0x40 }
  | none => report s

/-- Bytes of a part as its thread reads them, with their poison: a task through its buffers (R273), a cruise through its
shadow (R95). -/
def opBytes (s : State) (o : MemOp) (p : Part) : List Byte × List Bool :=
  let (bs, qs) := s.readPlace p.place p.n p.key
  if !p.place.translated then (bs, qs)
  else
    let k := p.place.byteKey
    match (s.opTask o).bind s.tasks.get? with
    | some x =>
      ((List.range p.n).map fun j => s.taskByte x (k + j),
        ((List.range p.n).zip qs).map fun q =>
          q.2 && (halves p.nibble).any fun h => (s.taskHalf x (k + q.1) h).2.2)
    | none =>
      match (s.opCruise o).bind s.cruises.get? with
      | some x =>
        ((List.range p.n).map fun j => s.cruiseByte x (k + j),
          ((List.range p.n).zip qs).map fun q => cruisePoison x (k + q.1) p.nibble q.2)
      | none => (bs, qs)

/-- A part's bytes have been read: they join the reader's read set (R95). -/
def noteOpRead (s : State) (o : MemOp) (p : Part) : State :=
  if !p.place.translated then s
  else
    let ks := (List.range p.n).map fun j => p.place.byteKey + j
    match s.opTask o with
    | some j => s.noteTaskRead j ks p.nibble
    | none => (s.opCruise o).elim s fun c => s.noteCruiseRead c ks

/-- The stand's own L1 copy of a line holds writes that have not been acknowledged: what the stand reads or updates there
is the copy (R85, R88). -/
def copyPends (s : State) (stand pa : Nat) : Bool := (s.l1Line stand pa).any fun l => !l.writes.isEmpty

/-- A part read at a failed tier 2, in a lost package, or unreachable for 50 µs: full and poisoned, with a record (R365,
R375). -/
def readLost (s : State) (op idx : Nat) (o : MemOp) (p : Part) : State :=
  let s := s.setPart op idx { p with data := List.replicate p.n 0, poison := true, phase := .value }
  if o.orphan then s.reapOp op else s.opReport o fun s => s.reportLost o p.place 0x12

/-- A write that will not be performed leaves its line's queue and its stand's copy (R87, R365). -/
def forgetWrite (s : State) (op idx : Nat) (o : MemOp) (p : Part) : State :=
  match p.place.copyAddr with
  | some pa =>
    let e := (op, idx)
    let s := if s.homes.get? (pa / 64) = none then s else s.modHome (pa / 64) fun h =>
      { h with queue := h.queue.filter (· != e), awaitAck := if h.awaitAck = some e then none else h.awaitAck }
    if p.copy then s.modStand o.stand fun x =>
      { x with l1 := x.l1.mod (pa / 64) fun l => { l with writes := l.writes.filter (· != e) } }
    else s
  | _ => s

/-- A store or atomic that a failed tier 2 or a lost package drops (R204, R365, R375): counted once for its thread and
launch, with a record. -/
def dropWrite (s : State) (op idx : Nat) (o : MemOp) (p : Part) : State :=
  let first := o.parts.all fun q => !q.dropped
  let s := (s.forgetWrite op idx o p).setPart op idx
    { p with dropped := true, phase := .performed, data := if o.kind = .atomic then List.replicate p.n 0 else p.data
             poison := p.poison || o.kind == .atomic }
  let s := if first then
      let s := (s.countLost o.tid).countDropped o.launch p.place
      s.opReport o fun s => (if o.kind = .atomic then s.reportLost o p.place 0x12 else s).reportLost o p.place 0x11
    else s
  (s.reapOp op).settleHalts

/-! ### Queue registers and doorbells -/

/-- The words of a register window an access touches, as offsets. -/
def regWords (off n : Nat) : List Nat := (List.range ((off % 4 + n + 3) / 4)).map fun k => off / 4 * 4 + 4 * k

/-- Read registers through the queue window (R374), each with its effect; none while a reservation waits. -/
def windowRead (s : State) (begun : Nat) : List Nat → Option (List Byte × State)
  | [] => some ([], s)
  | w :: r =>
    match s.queueRead ((w - 0x100000) / 0x1000) (w % 0x1000) begun with
    | none => none
    | some (v, s) => (s.windowRead begun r).map fun x => (bytesOfWord v ++ x.1, x.2)

/-- Write registers through the queue window; a word written in part keeps its other bytes as they read. -/
def windowWrite (s : State) (off : Nat) (bs : List Byte) : State :=
  (regWords off bs.length).foldl (fun (s : State) (w : Nat) =>
    let q := (w - 0x100000) / 0x1000
    let old := bytesOfWord (s.queueShow q (w % 0x1000))
    let new := (List.range 4).map fun k =>
      if off ≤ w + k ∧ w + k < off + bs.length then bs.getD (w + k - off) 0 else old.getD k 0
    s.queueWrite q (w % 0x1000) (BitVec.ofNat 32 (natOfBytes new))) s

/-- The number of a collective engine of a partition (R376). -/
def collKey (part g : Nat) : Nat := part * 16 + g

/-- A store of 8 bytes at a collective doorbell as ST.rel.dom makes it starts the engine; any other has no effect
(R376). -/
def ringCollective (s : State) (o : MemOp) (p : Part) (g : Nat) : State :=
  if o.kind = .store ∧ o.ord = 3 ∧ o.scope = 6 ∧ p.n = 8 then
    { s with collectives := s.collectives.put (collKey o.part g) [BitVec.ofNat 64 (natOfBytes p.data)] }
  else s

/-! ### Performing a part -/

/-- A part of a typed access at a bank, with the bytes it takes there in the format the bank has as it is performed (R68, R201,
R227): of one element, or of a row. An access in several parts keeps its own TYPE, and bytes past the bank's end are left
out (log 106). -/
def bankPart (s : State) (o : MemOp) (idx : Nat) (p : Part) : Part :=
  match p.place, o.fmt with
  | .loc k, some ty =>
    let f := bankElem ty (s.bankFmt p.place)
    let room := localBytes - locOff k
    match o.row with
    | some r => if idx = 0 then { p with n := min (rowLen f r.2) room } else p
    | none =>
      if o.parts.length ≠ 1 then p
      else { p with n := min (memBytes (fmtBits f)) room, nibble := if fmtBits f = 4 then some 0 else none }
  | _, _ => p

/-- The elements a typed store or a row's store writes at a bank, in the bank's format, with the rounding's draws (R68, R201,
R227). -/
def bankElems (o : MemOp) (f : Nat) (us : List Nat) : List Nat :=
  let ty := o.fmt.getD 0
  match o.row with
  | some (fm, n) => (convertRow f o.mode us ((List.range n).map fun k => (fm, laneOf (elemStep fm) o.c k, none))).1
  | none => [if bankConverts ty f then (roundVal f o.mode (us.headD 0) (decodeVal ty o.c)).1 else o.c]

/-- How many elements of a store convert at a bank of a format. -/
def bankConversions (o : MemOp) (f : Nat) : Nat :=
  match o.row with
  | some (fm, n) => if fm = f then 0 else n
  | none => (bankConverts (o.fmt.getD 0) f).toNat

/-- Whether a store converts at its bank as it is performed. -/
def atBank (o : MemOp) : Bool := o.fmt.isSome && (o.row.isSome || o.parts.length == 1)

/-- The runs of bytes a store puts into a local memory, from the part's first byte on, each with the half of the byte that a
4-bit element takes: a typed element converts to the bank's format as it is performed (R68, R201, R227). -/
def portRuns (s : State) (o : MemOp) (p : Part) : List (Nat × List Byte × Option Nat) × State :=
  if !atBank o then ([(0, p.data, p.nibble)], s)
  else
    let f := bankElem (o.fmt.getD 0) (s.bankFmt p.place)
    let (us, s) := s.opDraws o (bankConversions o f)
    let es := bankElems o f us
    let bs := (bytesOfNat (rowLen f es.length) (packLanes (elemStep f) es)).take p.n
    -- The high half of a last byte that holds one 4-bit element stays.
    let odd := elemStep f == 4 && es.length % 2 == 1 && bs.length == rowLen f es.length
    (if odd then
      [(0, bs.dropLast, none), (bs.length - 1, bs.drop (bs.length - 1), some 0)]
    else [(0, bs, none)], s)

/-- The ring entry of a store or atomic that arrives from another core or an engine (R94, R394). -/
def portTrace (s : State) (o : MemOp) (p : Part) (data : Nat) : State :=
  match p.place with
  | .loc k =>
    if o.src % 2 ^ 18 = locCore k ∧ ¬ bit o.src 28 then s
    else s.traceArrival o.src k p.n (o.kind == .atomic) data
  | _ => s

/-- Bytes of an access's first range. -/
def opLen (o : MemOp) : Nat := o.parts.foldl (fun n p => n + p.n) 0 - o.also.elim 0 (·.2)

/-- Perform a store's part at its place. -/
def storeAt (s : State) (op idx : Nat) (o : MemOp) (p : Part) : State :=
  let flags := List.replicate p.n p.poison
  let cells := ((List.range p.n).zip p.data).map fun c => (p.place.byteKey + c.1, c.2)
  let s := if p.place.translated then s.notePages none (s.opCruise o) o.part o.ea (opLen o) else s
  let s := match p.place, s.opCruise o with
    | .loc k, _ =>
      let (runs, s) := s.portRuns o p
      let s := runs.foldl (fun (s : State) (r : Nat × List Byte × Option Nat) =>
        if r.2.1.isEmpty then s else s.writePlace (.loc (k + r.1)) 0 r.2.1 (r.2.1.map fun _ => p.poison) r.2.2) s
      s.portTrace o p (natOfBytes ((runs.flatMap fun (r : Nat × List Byte × Option Nat) => r.2.1).take 4))
    | .dram pa, some c =>
      (s.cruiseWrite c cells p.nibble (if p.poison then (List.range p.n).map (pa + ·) else [])).noteKeys none (some c) [(pa / 64, p.key)]
    | .host _ _, some c => s.cruiseWrite c cells p.nibble
    | _, some _ => s
    | .reg off, none => s.windowWrite off p.data
    | .doorbell g, none => s.ringCollective o p g
    | pl, none => s.writePlace pl p.key p.data flags p.nibble
  s.setPart op idx { p with phase := .performed }

/-- The task or cruise that keeps an atomic's new value, or the place that takes it. -/
def atomStore (s : State) (o : MemOp) (p : Part) (bs : List Byte) : State :=
  let cells := ((List.range p.n).zip bs).map fun c => (p.place.byteKey + c.1, c.2)
  let keys := match p.place with
    | .dram pa => [(pa / 64, p.key)]
    | _ => []
  let s := if p.place.translated then s.notePages (s.opTask o) (s.opCruise o) o.part o.ea (opLen o) else s
  match s.opTask o, s.opCruise o with
  | some j, _ =>
    if p.place.translated then (s.taskWrite j cells none).noteKeys (some j) none keys else s.writePlace p.place 0 bs []
  | none, some c =>
    if p.place.translated then (s.cruiseWrite c cells none).noteKeys none (some c) keys
    else match p.place with
      | .loc _ => s.writePlace p.place 0 bs []
      | _ => s
  | none, none =>
    match p.place with
    | .reg off => s.windowWrite off bs
    | pl => s.writePlace pl p.key bs []

/-- Perform an atomic's part: old value read and new value written at one point; a poisoned location is left as it is,
with a record when D is g0 (R206, R207). -/
def atomAt (s : State) (op idx : Nat) (o : MemOp) (p : Part) : State :=
  let (bs, qs) := s.opBytes o p
  let bad := p.poison || qs.any fun b => b
  let s := s.noteOpRead o p
  let s := (s.portTrace o p o.c).setPart op idx { p with data := bs, poison := bad, phase := .performed }
  -- Issued under a fourth parity failure, it writes its words poisoned (R383).
  let s := if p.poison && (s.opTask o).isNone && (s.opCruise o).isNone then
      s.writePlace p.place p.key bs (bs.map fun _ => true) else s
  if bad then
    match o.dest with
    | .regs 0 _ _ =>
      s.opReport o fun s =>
        s.reportFault o.part (standDie o.stand) (s.reportOrigin o 0x10 (o.ea / 65536 * 65536) o.ea)
    | _ => s
  else
    s.atomStore o p (bytesOfNat p.n (atomNew o.atomOp o.ty (natOfBytes bs) o.c o.d))

/-- Perform a load's part: it takes its value. -/
def loadAt (s : State) (op idx : Nat) (o : MemOp) (p : Part) : State :=
  let (bs, qs) := s.opBytes o p
  let key := match p.place with
    | .loc _ => s.bankFmt p.place
    | _ => p.key
  let s := (s.noteOpRead o p).setPart op idx { p with data := bs, poison := qs.any fun b => b, phase := .value, key := key }
  s.reapOp op

/-- Perform a part at its place. -/
def performAt (s : State) (op idx : Nat) (o : MemOp) (p : Part) : State :=
  let p := s.bankPart o idx p
  let s := match p.place with
    | .dram pa => if o.kind = OpKind.store then s else s.noteEcc pa p.key o.part (some (unitNo 1 o.stand))
    | _ => s
  match o.kind with
  | .load => s.loadAt op idx o p
  | .store => s.storeAt op idx o p
  | .atomic => s.atomAt op idx o p

/-- What performing a part would report has room: an access that is lost or an atomic without a destination that meets poison
(R359), and a page that returns uncorrectable data again (R371). -/
def partFits (s : State) (o : MemOp) (p : Part) : Bool :=
  let meets := o.kind == .atomic && (match o.dest with
    | .regs 0 _ _ => p.poison || (s.opBytes o p).2.any id
    | _ => false)
  (!(s.placeLost o.part p.place || meets) || s.faultRoom (standDie o.stand) 2) && (o.kind == .store || s.readsFit [p])

/-! ### Leases -/

/-- The lease end for a page class, a multiple of 16 ns (R85, R86). -/
def leaseEndOf (now code : Nat) : Nat := (now + 250 * 2 ^ (code - 1) + 15) / 16 * 16

/-- Writes that wait at a line whose operation still stands. -/
def lineQueue (s : State) (line : Nat) : List (Nat × Nat) := (s.home line).queue.filter fun e => (s.ops.get? e.1).isSome

/-- A write to a line waits: in its queue, an engine for ownership, or a committing task (R87, R91, R277). -/
def writeWaits (s : State) (line : Nat) : Bool :=
  !(s.lineQueue line).isEmpty ||
    (s.clusters.any fun c => c.2.rings.any fun r => r.2.any fun x =>
      x.running && !x.owned.has line && (s.destLines c.1 x).contains line) ||
    s.tasks.any fun t => t.2.phase == .committing && (taskLines t.2).contains line

/-- The lease a home grants a stand now (R86, R87): none for class 0, and while a write waits it ends no later than the
recorded end. -/
def grantEnd (s : State) (line code : Nat) : Option Nat :=
  if code = 0 then none
  else
    let e := leaseEndOf s.gtc code
    let e := if s.writeWaits line then min e ((s.home line).leases.foldl (fun m l => max m l.2) 0) else e
    if s.gtc < e then some e else none

/-- Make room for a line in an L1 of 512 KiB (R4): a full one gives up a line that holds no write of the stand, or takes none
(log 107). -/
def l1Room (s : State) (stand line : Nat) : Option State :=
  let l1 := (s.stand stand).l1
  if (l1.get? line).isSome ∨ l1.length < 8192 then some s
  else (l1.find? fun _ l => l.writes.isEmpty).map fun v =>
    s.modStand stand fun x => { x with l1 := x.l1.del v.1 }

/-- Grant the reader's stand a lease of the line, and fill its L1 (R85-R87, R123). -/
def grantLease (s : State) (o : MemOp) (p : Part) (pa : Nat) : State :=
  if !p.l1 || (s.stand o.stand).asleep.isSome then s
  else
    match s.grantEnd (pa / 64) p.lease, s.l1Room o.stand (pa / 64) with
    | none, _ | _, none => s
    | some e, some s =>
      let base := pa / 64 * 64
      let bad := (List.range 16).filter fun w => s.mem.dramPoison.has (base / 4 + w) || s.lineBad (pa / 64) p.key
      let bytes := if pa / 64 < remoteLine then s.mem.dram.read base 64 else s.mem.remote.read (base - 2 ^ 51) 64
      let l : L1Line :=
        { data := Memory.write [] base bytes, leaseEnd := e, cls := Config.l1Class o.stand (pa / 64) s.gtc % 4
          poison := bad.foldl (fun (q : NatSet) w => q.add (base / 4 + w)) [] }
      let s := s.modHome (pa / 64) fun h => { h with leases := h.leases.put o.stand (max e (h.leases.getD o.stand 0)) }
      s.modStand o.stand fun x => { x with l1 := x.l1.put (pa / 64) l }

/-- A load that would hit a copy whose error the decoder cannot correct: the copy goes, and the line is fetched again from its
home (R380, R381). -/
def dropBadHit (s : State) (o : MemOp) (p : Part) (pa : Nat) : State :=
  match if p.l1 && p.phase == .sent then s.l1Line o.stand pa else none with
  | some l =>
    if l.cls < 2 then s
    else
      let unit := unitNo 1 o.stand
      let s := s.modStand o.stand fun x => { x with l1 := x.l1.del (pa / 64) }
      (if l.cls = 3 then s.noteMisdirected (some unit) else s).bumpReg 0x6100008 1
  | none => s

/-- An access meets a line that an engine owns: it is held, and the home recalls the line (R91). -/
def recallLine (s : State) (op idx : Nat) (p : Part) (line : Nat) : State :=
  (s.setPart op idx { p with phase := .queued }).modHome line fun h => { h with recallAt := some (h.recallAt.getD s.gtc) }

/-- An access begins to wait for a route to its package, or a queue register's reservation to end. -/
def beginWait (s : State) (op idx : Nat) (p : Part) : State := s.setPart op idx { p with phase := .queued, key := s.gtc }

end State

/-- HOME_READ_LEASE_GRANT (R85-R87, R204): a load's part is read at its home, in host memory, another package or a
register; the home grants a lease. A line an engine owns is recalled first (R91). -/
def execHomeReadLeaseGrant (op part : Nat) (s : State) : Host.Outcome State Fault Refusal :=
  match s.opPart op part with
  | none => .refused (.notDue "HOME_READ_LEASE_GRANT")
  | some (o, p) =>
    if o.kind ≠ .load ∨ o.ord = 5 ∨ ¬ (p.phase = .sent ∨ p.phase = .queued) ∨ !s.opReady op o p ∨ !s.partFits o p then
      .refused (.notDue "HOME_READ_LEASE_GRANT")
    else if s.placeLost o.part p.place then .next (s.readLost op part o p)
    else
      match p.place with
      | .loc _ => .refused (.notDue "HOME_READ_LEASE_GRANT")
      | .dram pa =>
        if s.rehoming (pa / 64) || s.copyPends o.stand pa then .refused (.notDue "HOME_READ_LEASE_GRANT")
        else if (s.home (pa / 64)).owner.isSome then
          if p.phase = .sent then .next (s.recallLine op part p (pa / 64)) else .refused (.notDue "HOME_READ_LEASE_GRANT")
        else
          let s := match (s.homeOf o.tid).engine with
            | some e => if p.l1 then s.countEvent e 9 1 else s
            | none => s
          .next (((s.dropBadHit o p pa).grantLease o p pa).performAt op part o p)
      | .remote a =>
        if s.placeWaits o.part p.place then
          if p.phase = .sent then .next (s.beginWait op part p) else .refused (.notDue "HOME_READ_LEASE_GRANT")
        else if s.copyPends o.stand (2 ^ 51 + a) then .refused (.notDue "HOME_READ_LEASE_GRANT")
        else .next (((s.dropBadHit o p (2 ^ 51 + a)).grantLease o p (2 ^ 51 + a)).performAt op part o p)
      | .reg off =>
        let begun := if p.phase = .queued then p.key else s.gtc
        (match s.windowRead begun (State.regWords off p.n) with
          | some (bs, t) =>
            .next (t.setPart op part { p with data := (bs.drop (off % 4)).take p.n, phase := .value })
          | none =>
            if p.phase = .sent then .next (s.beginWait op part p) else .refused (.notDue "HOME_READ_LEASE_GRANT"))
      | _ => .next (s.performAt op part o p)

namespace State

/-- Whether a write that its stand's copy holds is the next of that copy's to reach the home. -/
def copyTurn (s : State) (op idx : Nat) (o : MemOp) (p : Part) (pa : Nat) : Bool :=
  !p.copy || p.phase != .sent ||
    match ((s.stand o.stand).l1.get? (pa / 64)).bind fun l => l.writes.find? fun w =>
      (s.opPart w.1 w.2).any fun q => q.2.phase == .sent with
    | some w => w == (op, idx)
    | none => true

/-- A part takes its place among the writes that wait at a line: at the end, a sequentially consistent one before those of
higher stamps (R87, R90). -/
def enqueueWrite (s : State) (op idx : Nat) (o : MemOp) (p : Part) (line : Nat) : State :=
  let later (e : Nat × Nat) : Bool := o.ord == 5 && (s.ops.get? e.1).any fun x =>
    x.ord == 5 && (decide (o.stamp.getD 0 < x.stamp.getD 0) || (x.stamp == o.stamp && decide (o.tid < x.tid)))
  let s := s.setPart op idx { p with phase := .queued, key := if line < remoteLine then p.key else s.gtc }
  s.modHome line fun h =>
    { h with queue := h.queue.takeWhile (fun e => !later e) ++ [(op, idx)] ++ h.queue.dropWhile fun e => !later e }

/-- A part may be performed at its line's home now: it is the first in the line's queue and no lease stands in its way
(R87). -/
def mayPerform (s : State) (op idx : Nat) (o : MemOp) (p : Part) (line : Nat) : Bool :=
  s.lineFree line (if p.copy then some o.stand else none) &&
    (match s.lineQueue line with
      | [] => true
      | e :: _ => e == (op, idx))

/-- Perform a write's part at its line's home: it leaves the queue, and where the writer's stand holds it the next write
waits for its acknowledgement (R87). -/
def performWrite (s : State) (op idx : Nat) (o : MemOp) (p : Part) (line : Nat) : State :=
  let s := s.modHome line fun h =>
    { h with queue := h.queue.filter (· != (op, idx)), awaitAck := if p.copy then some (op, idx) else h.awaitAck }
  ((s.performAt op idx o p).reapOp op).settleHalts

/-- A write's part stands at the home of its line: it is performed there, or takes its place among those that wait (R87, R91);
none where it waits already. -/
def homeWrite (s : State) (op idx : Nat) (o : MemOp) (p : Part) (pa : Nat) : Option State :=
  let line := pa / 64
  let s := if p.phase = .sent then s.tryCopy op else s
  let p := ((s.opPart op idx).map (·.2)).getD p
  if !s.copyTurn op idx o p pa || (o.kind == .atomic && s.copyPends o.stand pa) then none
  else if (s.home line).owner.isSome && p.phase == .sent then
    some ((s.enqueueWrite op idx o p line).recallLine op idx p line)
  else if s.mayPerform op idx o p line then some (s.performWrite op idx o p line)
  else if (s.home line).queue.contains (op, idx) then none
  else some (s.enqueueWrite op idx o p line)

end State

/-- HOME_WRITE_PERFORMED (R87, R91, R204, R206): a store's or atomic's part arrives at its home and is performed, or
waits there for leases, an engine or earlier writes; a failed tier 2 drops it. -/
def execHomeWritePerformed (op part : Nat) (s : State) : Host.Outcome State Fault Refusal :=
  match s.opPart op part with
  | none => .refused (.notDue "HOME_WRITE_PERFORMED")
  | some (o, p) =>
    if o.kind = .load ∨ o.ord = 5 ∨ p.dropped ∨ p.migHeld ∨ ¬ (p.phase = .sent ∨ p.phase = .queued) ∨
        (p.phase = .sent ∧ !s.opReady op o p) ∨ !s.partFits o p then
      .refused (.notDue "HOME_WRITE_PERFORMED")
    else
      let own := (s.opTask o).isSome || (s.opCruise o).isSome
      if s.placeLost o.part p.place && !(own && o.kind == .store) then .next (s.dropWrite op part o p)
      else
        match p.place with
        | .loc _ => .refused (.notDue "HOME_WRITE_PERFORMED")
        | .dram pa =>
          let line := pa / 64
          if s.rehoming line then .refused (.notDue "HOME_WRITE_PERFORMED")
          else if own then
            if o.kind = .atomic ∧ (s.home line).owner.isSome then
              (if p.phase = .sent then .next (s.recallLine op part p line) else .refused (.notDue "HOME_WRITE_PERFORMED"))
            else .next (((s.performAt op part o p).reapOp op).settleHalts)
          else match s.homeWrite op part o p pa with
            | some t => .next t
            | none => .refused (.notDue "HOME_WRITE_PERFORMED")
        | .remote a =>
          if own then .next (((s.performAt op part o p).reapOp op).settleHalts)
          else if s.placeWaits o.part p.place then
            if p.phase = .sent then .next (s.beginWait op part p) else .refused (.notDue "HOME_WRITE_PERFORMED")
          else match s.homeWrite op part o p (2 ^ 51 + a) with
            | some t => .next t
            | none => .refused (.notDue "HOME_WRITE_PERFORMED")
        | .doorbell g =>
          if (s.collectives.get? (State.collKey o.part g)).isSome then .refused (.notDue "HOME_WRITE_PERFORMED")
          else .next (((s.performAt op part o p).reapOp op).settleHalts)
        | _ => .next (((s.performAt op part o p).reapOp op).settleHalts)

/-- WRITE_ACK_AT_STAND (R85, R87): the acknowledgement of a performed write reaches the stand whose copy holds it. -/
def execWriteAckAtStand (op part : Nat) (s : State) : Host.Outcome State Fault Refusal :=
  match s.opPart op part with
  | some (o, p) =>
    match p.place.copyAddr with
    | some pa =>
      if p.copy && p.phase == .performed && s.placeLost o.part p.place then
        if s.partFits o p then .next (s.dropWrite op part o p) else .refused (.notDue "WRITE_ACK_AT_STAND")
      else if p.copy && p.phase == .performed then
        let s := s.modStand o.stand fun x =>
          { x with l1 := x.l1.mod (pa / 64) fun l => { l with writes := l.writes.filter (· != (op, part)) } }
        let s := s.modHome (pa / 64) fun h =>
          { h with awaitAck := if h.awaitAck = some (op, part) then none else h.awaitAck }
        .next (((s.setPart op part { p with phase := .acked }).reapOp op).settleHalts)
      else .refused (.notDue "WRITE_ACK_AT_STAND")
    | _ => .refused (.notDue "WRITE_ACK_AT_STAND")
  | none => .refused (.notDue "WRITE_ACK_AT_STAND")

/-- ROOT_COMPLEX_WRITE_ACK (R88): the host's root complex acknowledges a performed write. -/
def execRootComplexWriteAck (op part : Nat) (s : State) : Host.Outcome State Fault Refusal :=
  match s.opPart op part with
  | some (o, p) =>
    match p.place with
    | .host _ _ =>
      if o.kind ≠ .load ∧ p.phase = .performed then
        .next (((s.setPart op part { p with phase := .acked }).reapOp op).settleHalts)
      else .refused (.notDue "ROOT_COMPLEX_WRITE_ACK")
    | _ => .refused (.notDue "ROOT_COMPLEX_WRITE_ACK")
  | none => .refused (.notDue "ROOT_COMPLEX_WRITE_ACK")

/-- MEMORY_PORT_ARRIVAL (R93, R94, R207): an access of local memory arrives at its core's port and is performed there. -/
def execMemoryPortArrival (op part : Nat) (s : State) : Host.Outcome State Fault Refusal :=
  match s.opPart op part with
  | some (o, p) =>
    match p.place with
    | .loc _ =>
      if o.ord ≠ 5 ∧ p.phase = .sent ∧ s.opReady op o p ∧ s.partFits o p then
        .next (((s.performAt op part o p).reapOp op).settleHalts)
      else .refused (.notDue "MEMORY_PORT_ARRIVAL")
    | _ => .refused (.notDue "MEMORY_PORT_ARRIVAL")
  | none => .refused (.notDue "MEMORY_PORT_ARRIVAL")

/-! ### Stamped sequential consistency -/

namespace State

/-- The number under which a line keeps its stamp: that of its home, port, host page or package. -/
def stampLine : Place → Nat
  | .dram pa => pa / 64
  | .loc k => 2 ^ 60 + k / 64
  | .host d a => 2 ^ 61 + (d * 2 ^ 64 + a) / 64
  | .remote a => remoteLine + a / 64
  | .reg o => 2 ^ 101 + o / 64
  | .doorbell g => 2 ^ 102 + g

/-- The skew bound of a scope (R90). -/
def skew (scope : Nat) : Nat := if 6 ≤ scope then 250 else 4

/-- The line holds a sequentially consistent operation of a lower stamp, or of an equal one and a lower agent (R90). An agent's
number is that of its thread in this model (DESIGN CHOICE, log 126). -/
def lowerStamp (s : State) (op : Nat) (o : MemOp) (line : Nat) : Bool :=
  s.ops.any fun e => e.1 != op && e.2.ord == 5 && (e.2.parts.any fun q => q.phase == .queued && stampLine q.place == line) &&
    (decide (e.2.stamp.getD 0 < o.stamp.getD 0) || (e.2.stamp == o.stamp && decide (e.2.tid < o.tid)))

/-- Perform a sequentially consistent part, with its final stamp (R90). A restamp on local, host or remote memory counts at slice 0
(DESIGN CHOICE, log 127). -/
def performSc (s : State) (op idx : Nat) (o : MemOp) (p : Part) : State :=
  let line := stampLine p.place
  let last := (s.home line).stamp
  let st := o.stamp.getD 0
  let late := decide (st ≤ last) && decide (0 < last)
  let final := if late then last + 1 else st
  let s := s.modHome line fun h =>
    { h with stamp := final, queue := h.queue.filter (· != (op, idx))
             awaitAck := if p.copy then some (op, idx) else h.awaitAck }
  let s := if late then
      let k := match p.place with
        | .dram pa => s.sliceOf (pa / 64)
        | _ => 0
      { s with restamps := s.restamps.put k (s.restamps.getD k 0 + 1) }
    else s
  let s := (s.modThread o.tid fun th => { th with sc := max th.sc final }).modOp op fun x => { x with stamp := some final }
  ((s.performAt op idx o p).reapOp op).settleHalts

end State

/-- SC_OPERATION_PERFORMED (R89, R90): a sequentially consistent operation arrives at its home; then it is performed once
GTC has reached its stamp and the skew bound, after those of lower stamps held there, or at once when its stamp is not
above the line's last. A write waits under R87 besides, and a store updates its stand's copy as any other (R85). -/
def execScOperationPerformed (op part : Nat) (s : State) : Host.Outcome State Fault Refusal :=
  match s.opPart op part with
  | none => .refused (.notDue "SC_OPERATION_PERFORMED")
  | some (o, p) =>
    if o.ord ≠ 5 ∨ p.dropped ∨ p.migHeld ∨ !s.partFits o p then .refused (.notDue "SC_OPERATION_PERFORMED")
    else if p.phase = .sent then
      if !s.opReady op o p then .refused (.notDue "SC_OPERATION_PERFORMED")
      else
        match p.place with
        | .dram pa =>
          let s := s.tryCopy op
          let p := ((s.opPart op part).map (·.2)).getD p
          if !s.copyTurn op part o p pa then .refused (.notDue "SC_OPERATION_PERFORMED") else
          let s := if (s.home (pa / 64)).owner.isSome then s.recallLine op part p (pa / 64) else s
          .next (if o.kind = .load then s.setPart op part { p with phase := .queued } else s.enqueueWrite op part o p (pa / 64))
        | .remote _ => .next (let s := s.tryCopy op; s.beginWait op part (((s.opPart op part).map (·.2)).getD p))
        | _ => .next (s.setPart op part { p with phase := .queued })
    else if p.phase ≠ .queued then .refused (.notDue "SC_OPERATION_PERFORMED")
    else if s.placeLost o.part p.place then .next (if o.kind = .load then s.readLost op part o p else s.dropWrite op part o p)
    else
      let line := State.stampLine p.place
      let last := (s.home line).stamp
      let due := (decide (o.stamp.getD 0 ≤ last) && decide (0 < last)) ||
        (decide (o.stamp.getD 0 + State.skew o.scope ≤ s.gtc) && !s.lowerStamp op o line)
      let free := match p.place with
        | .dram pa =>
          (p.copy || !s.copyPends o.stand pa) &&
            (if o.kind = .load then (s.home line).owner.isNone && !s.rehoming line
            else s.mayPerform op part o p line)
        | .remote a =>
          !s.placeWaits o.part p.place && (p.copy || !s.copyPends o.stand (2 ^ 51 + a)) &&
            (o.kind == .load || s.mayPerform op part o p line)
        | .doorbell g => (s.collectives.get? (State.collKey o.part g)).isNone
        | _ => true
      if due && free then .next (s.performSc op part o p) else .refused (.notDue "SC_OPERATION_PERFORMED")

/-! ### Sweeping and sleeping -/

namespace State

/-- Invalidate the lines of an L1 whose lease has ended and that hold no write of the stand (R85, R387). -/
def sweepL1 (s : State) (stand : Nat) : State :=
  s.modStand stand fun x => { x with l1 := x.l1.filter fun _ l => s.l1Valid l }

/-- Drop the records of leases granted to a stand that have ended (R387). -/
def sweepHomes (s : State) (stand : Nat) : State :=
  let keep (skew : Nat) (h : HomeLine) : HomeLine :=
    { h with leases := h.leases.filter fun n e => n != stand || decide (s.gtc < e + skew) }
  let homes : Table HomeLine := s.homes.map fun h => (h.1, keep (leaseSkew h.1) h.2)
  { s with homes := homes.filter fun _ h => h != ({} : HomeLine) }

end State

/-- LEASE_SWEEP (R387): an awake L1 and the homes sweep the leases of a stand. -/
def execLeaseSweep (stand : Nat) (s : State) : Host.Outcome State Fault Refusal :=
  if 2048 ≤ stand ∨ (s.stand stand).asleep.isSome then .refused (.notDue "LEASE_SWEEP")
  else .next ((s.sweepL1 stand).sweepHomes stand)

/-- L1_RETENTION_SLEEP (R388): an L1 that holds no unacknowledged write goes to sleep; its lines stay. -/
def execL1RetentionSleep (stand : Nat) (s : State) : Host.Outcome State Fault Refusal :=
  let x := s.stand stand
  if 2048 ≤ stand ∨ x.asleep.isSome ∨ (x.l1.any fun l => !l.2.writes.isEmpty) then .refused (.notDue "L1_RETENTION_SLEEP")
  else .next (s.modStand stand fun x => { x with asleep := some s.gtc })

/-- L1_RETENTION_WAKE (R388): after 2^23 stamp units every line is invalidated; else one sweep completes before the first
read. -/
def execL1RetentionWake (stand : Nat) (s : State) : Host.Outcome State Fault Refusal :=
  match (s.stand stand).asleep with
  | none => .refused (.notDue "L1_RETENTION_WAKE")
  | some t =>
    let s := s.modStand stand fun x => { x with asleep := none }
    .next (if t + 134217728 ≤ s.gtc then s.modStand stand fun x => { x with l1 := [] } else s.sweepL1 stand)

end Sys2Proof.Machine
end

