-- ==== Sys2Proof/Machine/Completion.lean ====
section
/-!
DEFINITION. The results of loads and atomics (04 R112; 05 R126; 08 R200, R201, R206; 09 R227, R236): bytes read at the home
or in the stand's L1, delivered to registers, queues, tile rows or a waiting instruction.
-/

namespace Sys2Proof.Machine

namespace State

/-- The stand's copy that serves a load's part: one under its lease (R85) whose errors the decoder finds none or corrects
(R380, R381). -/
def hitLine (s : State) (op : Nat) (o : MemOp) (p : Part) : Option (Nat × L1Line) :=
  p.place.copyAddr.bind fun pa =>
    if o.ord != 5 && !p.taken && p.l1 && p.phase == .sent && s.opReady op o p then
      ((s.l1Line o.stand pa).filter fun l => decide (l.cls < 2)).map fun l => (pa, l)
    else none

/-- What a load's part returns: the value read at its home or port, or the stand's own copy (R85); none while neither is
there. -/
def partValue (s : State) (op : Nat) (o : MemOp) (p : Part) : Option (List Byte × Bool × Bool) :=
  if p.taken then some (p.data, p.poison, false)
  else (s.hitLine op o p).map fun h => (h.2.data.read h.1 p.n, (touchedWords h.1 p.n).any h.2.poison.has, true)

/-- The parts' values joined: bytes, whether any is poisoned (R72), and whether the L1 served one. -/
def joinValues : List (Option (List Byte × Bool × Bool)) → Option (List Byte × Bool × Bool)
  | [] => some ([], false, false)
  | none :: _ => none
  | some v :: r => (joinValues r).map fun w => (v.1 ++ w.1, v.2.1 || w.2.1, v.2.2 || w.2.2)

/-- A load's value, once every part has one. -/
def loadValue (s : State) (op : Nat) (o : MemOp) : Option (List Byte × Bool × Bool) :=
  joinValues (o.parts.map (s.partValue op o))

/-- Deliver n registers from d: those a queue has reserved for the operation fill its entries, the others their registers
(R126, R309). -/
def deliverRegs (s : State) (op t d n v : Nat) (poison : Bool) : State :=
  (List.range n).foldl (fun (s : State) (k : Nat) =>
    let w := BitVec.ofNat 32 (v / 2 ^ (32 * k))
    let m := s.mainOf t
    let queued := decide (60 ≤ d + k) && (s.thread? m).any fun th =>
      (th.oq.getD (d + k - 60) []).any fun e => !e.filled && e.op == op
    if queued then s.fillQueue m (d + k - 60) op w poison else s.modThread t fun th => th.writeG (d + k) w poison) s

/-- An element's bits from the bytes an access returned, and the half of the byte a 4-bit element stands in (R200). -/
def elemBitsOf (w : Nat) (nib : Option Nat) (bs : List Byte) : Nat :=
  let v := natOfBytes bs
  if w = 4 then v / 16 ^ nib.getD 0 % 16 else v % 2 ^ w

/-- The format of the bank a typed load read, as it was performed; 0 where its element has TYPE (R68, R201). -/
def loadBank (o : MemOp) : Nat :=
  match o.parts with
  | [p] => match p.place with
    | .loc _ => p.key
    | _ => 0
  | _ => 0

/-- The value of a typed load and its flags: an element of a formatted bank converts to TYPE (R201). -/
def typedValue (o : MemOp) (ty : Nat) (us : List Nat) (bs : List Byte) : Nat × FFlags :=
  let bank := loadBank o
  let nib := o.parts.head?.bind (·.nibble)
  let raw := elemBitsOf (fmtBits (bankElem ty bank)) nib bs
  if bankConverts ty bank then roundVal ty o.mode (us.headD 0) (decodeVal bank raw) else (raw, {})

/-- An integer element extended to its registers (R147, R200). -/
def extended (w : Nat) (signed : Bool) (v : Nat) : Nat := if signed ∧ w < 32 then wrapTo 32 (signExt w v) else v

/-- The registers an element of a width takes. -/
def widthRegs (w : Nat) : Nat := if w = 128 then 4 else if w = 64 then 2 else 1

/-- A load's value goes where the instruction named (R200, R201, R250, R285). -/
def deliverLoad (s : State) (op : Nat) (o : MemOp) (bs : List Byte) (poison : Bool) : State :=
  let s := { s with ops := s.ops.del op }
  match o.dest with
  | .regs d w signed =>
    let nib := o.parts.head?.bind (·.nibble)
    s.deliverRegs op o.tid d (widthRegs w) (extended w signed (elemBitsOf w nib bs)) poison
  | .typed d ty =>
    let (us, s) := s.opDraws o (bankConverts ty (loadBank o)).toNat
    let (v, fl) := typedValue o ty us bs
    (s.deliverRegs op o.tid d (fmtRegs ty) (elemWrite ty v) poison).raiseFlags (s.mainOf o.tid) o.issue fl
  | .record => s.modThread o.tid fun th => { th with held := .record bs poison }
  | _ => s

/-- An earlier load of the same row is still outstanding: rows land in issue order (R235). -/
def rowBehind (s : State) (op : Nat) (o : MemOp) : Bool := s.ops.any fun e => decide (e.1 < op) && e.2.dest == o.dest

/-- The structure number of a stand's L1 (R385). -/
def l1Structure (stand : Nat) : Nat := stand

/-- An L1 hit is counted at the thread's engine (R395), and each copy whose error was corrected as it was read (R380, log 138). -/
def countHit (s : State) (op : Nat) (o : MemOp) (hit : Bool) : State :=
  let hits := o.parts.filter fun p => (s.hitLine op o p).any fun h => h.2.cls == 1
  let s := hits.foldl (fun (s : State) _ => s.noteSram (l1Structure o.stand) (unitNo 1 o.stand)) s
  match (s.homeOf o.tid).engine with
  | some e => if hit then s.countEvent e 8 1 else s
  | none => s

end State

/-- LOAD_COMPLETION (R85, R126, R200): a load whose bytes have all been read completes its destination. -/
def execLoadCompletion (op : Nat) (s : State) : Host.Outcome State Fault Refusal :=
  match s.ops.get? op with
  | some o =>
    if o.kind ≠ .load ∨ o.orphan ∨ o.inRow then .refused (.notDue "LOAD_COMPLETION")
    else
      match s.loadValue op o with
      | some (bs, bad, hit) => .next (((s.countHit op o hit).deliverLoad op o bs bad).settleHalts)
      | none => .refused (.notDue "LOAD_COMPLETION")
  | none => .refused (.notDue "LOAD_COMPLETION")

/-- TILE_ROW_LOAD_COMPLETION (R227, R228, R231, R235, R236): a row whose bytes have all been read, after the loads of the same
row issued before it. -/
def execTileRowLoadCompletion (op : Nat) (s : State) : Host.Outcome State Fault Refusal :=
  match s.ops.get? op with
  | some o =>
    if o.kind ≠ .load ∨ !o.inRow ∨ s.rowBehind op o then .refused (.notDue "TILE_ROW_LOAD_COMPLETION")
    else
      match s.loadValue op o with
      | some (bs, bad, hit) => .next ((s.countHit op o hit).finishRow op o bs bad)
      | none => .refused (.notDue "TILE_ROW_LOAD_COMPLETION")
  | none => .refused (.notDue "TILE_ROW_LOAD_COMPLETION")

/-- ATOM_COMPLETION (R206, R207): the old value of a performed atomic completes D, with the flags of .fadd. -/
def execAtomCompletion (op : Nat) (s : State) : Host.Outcome State Fault Refusal :=
  match s.ops.get? op with
  | some o =>
    if o.kind ≠ .atomic ∨ !o.taken then .refused (.notDue "ATOM_COMPLETION")
    else
      let old := natOfBytes (o.parts.flatMap (·.data))
      let bad := o.parts.any (·.poison)
      let s := { s with ops := s.ops.del op }
      let s := match o.dest with
        | .regs d w _ => s.deliverRegs op o.tid d (State.widthRegs w) old bad
        | _ => s
      let s := s.raiseFlags o.tid o.issue (if bad then {} else atomFlags o.atomOp o.ty old o.c)
      .next s.settleHalts
  | none => .refused (.notDue "ATOM_COMPLETION")

end Sys2Proof.Machine
end

