-- ==== Sys2Proof/Machine/Dump.lean ====
section
/-!
DEFINITION. The dump of a launch that ends with a fatal trap, its metadata records, and that end (01 R52; 22 R389-R393).
-/

namespace Sys2Proof.Machine

/-- A record of n bytes with byte strings at offsets; the rest is zero. -/
def layoutBytes (n : Nat) (ps : List (Nat × List Byte)) : List Byte :=
  Memory.read (ps.foldl (fun (m : Memory) p => m.write p.1 p.2) []) 0 n

/-- Words as bytes. -/
def wordBytes (ws : List W32) : List Byte := ws.flatMap bytesOfWord

/-- n bits, bit k given by a test. -/
def bitField (n : Nat) (f : Nat → Bool) : Nat := (List.range n).foldl (fun v k => v + (f k).toNat * 2 ^ k) 0

/-- p0-p7: values, full bits and poison bits (R391). -/
def predWord (th : Thread) : Nat :=
  bitField 8 (fun k => (th.readP k).val) + bitField 8 (fun k => (th.readP k).full) * 2 ^ 8 +
    bitField 8 (fun k => (th.readP k).poison) * 2 ^ 16

/-- Guard slots, 2 bits each (R391). -/
def guardWord (gs : Table Bool) : Nat :=
  (List.range 16).foldl (fun v k => v + (match gs.get? k with
    | none => 0
    | some false => 1
    | some true => 2) * 4 ^ k) 0

/-- The state word of a thread (R391). -/
def threadState (th : Thread) (trapping : Bool) : Nat :=
  (match th.status with
    | .parked _ => 1
    | _ => 0) + 2 * trapping.toNat + 4 * th.taskOf.isSome.toNat + 8 * th.sliced.toNat

namespace State

/-- The threads of a launch's workgroup in scalar contexts, by core and context. -/
def dumpScalars (s : State) (k w : Nat) : List (Nat × Nat × Thread) :=
  sortBy (fun e => ctxKey e.1 e.2.1) (s.threads.filterMap fun e =>
    if e.2.launch = k ∧ e.2.wg = w then
      (match e.2.home with
        | .scalar c x => some (c, x, e.2)
        | _ => none)
    else none)

/-- The wave slots that hold threads of a launch's workgroup. -/
def dumpSlots (s : State) (k w : Nat) : List (Nat × Slot) :=
  s.slots.filter fun key _ => s.threads.any fun e => e.2.launch == k && e.2.wg == w && (match e.2.home with
    | .wave g i _ => slotKey g i == key
    | _ => false)

/-- The PC of a thread's skidder, or where it stopped; zero when the kernel is not sliced (R391). -/
def skidderPc (s : State) (c x : Nat) : W64 :=
  match s.threadIn c x with
  | some t => ((s.threads.find? fun _ th => th.home == .skidder t).map (·.2.pc)).getD ((s.thread? t).elim 0 (·.slicePc))
  | none => 0

/-- TYPE 1, a scalar context (R391). -/
def scalarRecord (s : State) (f : Fatal) (c x : Nat) (th : Thread) : List Byte :=
  let trapping := f.tid.isSome && f.tid == s.threadIn c x
  layoutBytes 1024
    [(0, bytesOfNat 4 (c + x * 2 ^ 18)), (4, bytesOfNat 4 (threadState th trapping)), (8, bytesOfNat 8 th.pc.toNat),
     (0x10, wordBytes ((List.range 64).map fun n => (th.readG n).val)),
     (0x110, bytesOfNat 8 (bitField 64 fun n => (th.readG n).full)),
     (0x118, bytesOfNat 8 (bitField 64 fun n => (th.readG n).poison)),
     (0x120, bytesOfNat 4 (predWord th)),
     (0x124, bytesOfNat 4 (bitField 8 (fun n => (th.readMb n).full) + bitField 8 (fun n => (th.readMb n).poison) * 256)),
     (0x128, wordBytes [th.ecause, th.epc.lo, th.epc.hi, th.einfo, tstate th th.home, th.fex, th.fmode, th.rng.lo, th.rng.hi,
       BitVec.ofNat 32 th.lost]),
     (0x150, wordBytes ((List.range 8).map fun n => (th.readMb n).val)),
     (0x170, wordBytes ((List.range 64).map fun n => (th.k.getD n {}).val)),
     (0x270, bytesOfNat 4 (guardWord th.gs)), (0x278, bytesOfNat 8 (s.skidderPc c x).toNat)]

/-- Row bits of eight tile registers and sixteen accumulators (R391). -/
def rowBits (x : Slot) (f : Tile → Nat → Bool) : List Byte :=
  ((List.range 8).flatMap fun n => bytesOfNat 4 (bitField 32 (f (x.m.getD n {})))) ++
    (List.range 16).flatMap fun n => bytesOfNat 4 (bitField 32 (f (x.acc.getD n {})))

/-- TYPE 2, a wave slot (R391). -/
def slotRecord (s : State) (f : Fatal) (e i : Nat) (x : Slot) : List Byte :=
  let n := genRegs x.genCode
  let lane (l : Nat) : Option Nat := s.threadAt e i l
  let th (l : Nat) : Option Thread := (lane l).bind s.thread?
  let mask (q : Thread → Bool) : Nat := bitField 32 fun l => (th l).any q
  let parked (t : Thread) : Bool := match t.status with
    | .parked _ => true
    | _ => false
  let perThread (l : Nat) : List (Nat × List Byte) :=
    match th l with
    | none => []
    | some t =>
      [(0x400 + 64 * l, bytesOfNat 8 t.pc.toNat ++ bytesOfNat 4 (predWord t) ++ wordBytes [t.fex, t.fmode, t.ecause, t.einfo,
          tstate t t.home, t.epc.lo, t.epc.hi, t.rng.lo, t.rng.hi, BitVec.ofNat 32 t.lost] ++
          bytesOfNat 4 (threadState t (f.tid.isSome && f.tid == lane l))),
       (0xC00 + l * (4 * n + n / 4), wordBytes ((List.range n).map fun k => (t.readG k).val) ++
          bytesOfNat (n / 8) (bitField n fun k => (t.readG k).full) ++ bytesOfNat (n / 8) (bitField n fun k => (t.readG k).poison))]
  let tail := 0xC00 + 32 * (4 * n + n / 4)
  layoutBytes (tail + 16384 + 4096 * x.tiles)
    ([(0, bytesOfNat 4 (e + i * 2 ^ 12)), (4, bytesOfNat 4 (bndWord x).toNat),
      (8, bytesOfNat 4 (bitField 32 x.present.has) ++ bytesOfNat 4 (mask fun _ => true) ++ bytesOfNat 4 (mask parked)),
      (0x100, wordBytes ((List.range 64).map fun k => (x.k.getD k {}).val)),
      (0x200, wordBytes ((List.range 8).map fun k => x.tcfg.getD k 0)),
      (0x220, wordBytes ((List.range 16).map fun k => x.cvset.getD k 0)),
      (0x260, wordBytes ((List.range 16).map fun k => x.cvsig.getD k 0)),
      (0x2A0, bytesOfNat 4 (guardWord x.gs)), (0x2B0, rowBits x fun t r => t.poison.has r),
      (0x310, bytesOfNat 4 (bitField 8 (fun k => (x.m.getD k {}).live) + bitField 16 (fun k => (x.acc.getD k {}).live) * 256)),
      (0x320, rowBits x fun t r => t.pending.has r)] ++
     (List.range 32).flatMap perThread ++
     (List.range 8).map (fun k => (tail + 2048 * k, (x.m.getD k {}).data.read 0 2048)) ++
     (List.range x.tiles).map fun k => (tail + 16384 + 4096 * k, (x.acc.getD k {}).data.read 0 4096))

/-- A barrier as a dump holds it (R391). -/
def barrierBytes (b : Barrier) : List Byte :=
  bytesOfNat 8 (b.phase % 2 ^ 16 + b.tally % 2 ^ 16 * 2 ^ 16 + b.count.getD 0 % 2 ^ 16 * 2 ^ 32)

/-- TYPE 4, the barriers of a workgroup (R391). -/
def barrierRecord (w : Nat) (g : Workgroup) : List Byte :=
  layoutBytes 1024
    [(0, bytesOfNat 4 w), (0x40, (List.range 64).flatMap fun j => barrierBytes (g.barriers.getD j {})),
     (0x240, (List.range 16).flatMap fun j => barrierBytes (g.cv.getD j {}))]

/-- TYPE 7, unit controls (R391). -/
def controlsRecord (s : State) (key : Nat) : List Byte :=
  let wave := isWaveKey key
  layoutBytes 128
    [(0, bytesOfNat 4 (if wave then waveOf key + 2 ^ 31 else key)), (4, if wave then [] else bytesOfWord (s.core key).bfmt),
     (8, if wave then [] else wordBytes ((List.range 4).map fun n => (s.cluster (coreCluster key)).dgn.getD n 0)),
     (0x40, wordBytes ((List.range 16).map fun n => s.ctrShown key n))]

/-- TYPE 5 and 6, a trace ring, oldest entry first (R391, R394). -/
def ringRecord (s : State) (key : Nat) : List Byte :=
  let wave := isWaveKey key
  let cap := if wave then 256 else 64
  let size := if wave then 32 else 16
  let e := s.engine key
  layoutBytes (64 + cap * size)
    [(0, bytesOfNat 4 (if wave then waveOf key else key)), (4, bytesOfNat 4 (e.written % cap)),
     (64 + (cap - e.ring.length) * size, e.ring.reverse.flatMap wordBytes)]

/-- TYPE 3, a local memory (R391). -/
def localRecord (s : State) (c : Nat) : List Byte :=
  layoutBytes 34816
    [(0, s.locBytes (locKey c 0) localBytes),
     (0x8000, bytesOfNat 1024 (bitField 8192 fun w => s.locBad (locKey c 0 + 4 * w))), (0x8400, bytesOfNat 4 c)]

/-- The cores whose batch areas hold the slots of a launch's batches (R245, R262). -/
def batchCores (s : State) (k : Nat) : List Nat :=
  (s.batches.filter fun _ b => b.launch == k).flatMap fun b =>
    (List.range (min 128 b.2.count)).map fun j => locCore (batchSlot b.1 j)

/-- The sections of a dump in their order (R391): type, record size and records; the slots of running batches stand in the
records of the local memories that hold them (R262, log 113). Wave slots whose records differ in size stand in sections of
their own. -/
def dumpSections (s : State) (k : Nat) (f : Fatal) : List (Nat × Nat × List (List Byte)) :=
  let home := (s.wg k f.wg).stand
  let ctx := s.dumpScalars k f.wg
  let cores := ((ctx.map (·.1)).filter fun c => coreStand c == home).eraseDups
  let engines := [waveKey (2 * home), waveKey (2 * home + 1)]
  let slots := (s.dumpSlots k f.wg).map fun x => s.slotRecord f (x.1 / 32) (x.1 % 32) x.2
  let sizes := (slots.map (·.length)).eraseDups
  [(1, 1024, ctx.map fun c => s.scalarRecord f c.1 c.2.1 c.2.2)] ++
    (sizes.map fun n => (2, n, slots.filter fun b => b.length == n)) ++
    [(4, 1024, [barrierRecord f.wg (s.wg k f.wg)]), (7, 128, (cores ++ engines).map s.controlsRecord),
     (5, 1088, cores.map s.ringRecord), (6, 8256, engines.map s.ringRecord),
     (3, 34816, (cores ++ s.batchCores k).eraseDups.map s.localRecord)]

/-- Keep whole records while they fit (R392). -/
def keepRecords : Nat → List (Nat × Nat × List (List Byte)) → List (Nat × Nat × List (List Byte))
  | _, [] => []
  | room, (ty, size, rs) :: rest =>
    let n := min rs.length (room / max size 1)
    (ty, size, rs.take n) :: (if n < rs.length then [] else keepRecords (room - n * size) rest)

/-- The section entries of a header, with the offsets of their records (R390). -/
def sectionEntries : Nat → Nat → List (Nat × Nat × List (List Byte)) → List (Nat × List Byte)
  | _, _, [] => []
  | i, off, (ty, size, rs) :: rest =>
    (0x100 + 16 * i, bytesOfNat 4 (ty + rs.length % 2 ^ 16 * 2 ^ 16) ++ bytesOfNat 4 size ++ bytesOfNat 8 off) ::
      sectionEntries (i + 1) (off + rs.length * size) rest

/-- The origin word of a fatal trap (R360, R390). -/
def Fatal.origin (f : Fatal) : Nat := f.stand + f.wave.toNat * 2 ^ 11 + f.slot * 2 ^ 12

/-- The bytes of a whole dump (R389, R391). -/
def dumpTotal (s : State) (k : Nat) (f : Fatal) : Nat :=
  (s.dumpSections k f).foldl (fun n x => n + x.2.1 * x.2.2.length) 512

/-- A dump's bytes (R390-R392), within `room` bytes. -/
def dumpBytes (s : State) (k : Nat) (l : Launch) (f : Fatal) (room : Nat) : List Byte :=
  let all := s.dumpSections k f
  let total := s.dumpTotal k f
  let kept := ((if total ≤ room then all else keepRecords (room - 512) all).filter fun x => !x.2.2.isEmpty).take 16
  let size := kept.foldl (fun n x => n + x.2.1 * x.2.2.length) 512
  let flags := l.part + (decide (room < total)).toNat * 2 ^ 8 + (decide (0 < l.fatalMore)).toNat * 2 ^ 9
  let header := layoutBytes 512
    ([(0, bytesOfNat 8 0x4C59444D00000001), (8, bytesOfNat 8 size), (0x10, bytesOfNat 4 l.id), (0x14, bytesOfNat 4 flags),
      (0x18, bytesOfNat 4 f.cause), (0x1C, bytesOfNat 4 (Fatal.origin f)), (0x20, bytesOfNat 8 f.time),
      (0x28, bytesOfNat 8 f.pc.toNat), (0x30, bytesOfWord f.info), (0x34, bytesOfNat 4 f.lane),
      (0x38, bytesOfNat 4 l.fatalMore), (0x3C, bytesOfNat 4 (s.pocketCount k)), (0x40, bytesOfNat 4 (s.inboundCount k)),
      (0x80, f.frec.take 64), (0xC0, bytesOfNat 1 kept.length)] ++ sectionEntries 0 512 kept)
  header ++ kept.flatMap fun x => x.2.2.flatten

/-- Store bytes at a physical address line by line under a key, as an engine's writes at their homes (R91, R389). -/
def dumpStore (s : State) (pa key : Nat) : Nat → List Byte → State
  | 0, _ => s
  | _, [] => s
  | fuel + 1, bs =>
    let n := 64 - pa % 64
    (s.writePlace (.dram pa) key (bs.take n) []).dumpStore (pa + n) key fuel (bs.drop n)

/-- Where in its partition's dump area a dump of so many bytes begins (R389). -/
def dumpOffset (s : State) (part n : Nat) : Nat :=
  let next := s.regN (partReg part 0x54)
  if next + n ≤ s.regN (partReg part 0x20) * 2 ^ 20 then next else 0

/-- The lines a dump takes are free to be written (R87, R389). -/
def dumpFree (s : State) (k : Nat) (l : Launch) (f : Fatal) : Bool :=
  let area := s.regN (partReg l.part 0x20) * 2 ^ 20
  area == 0 || s.unitFree (s.reg64 (partReg l.part 0x18) + s.dumpOffset l.part (s.dumpTotal k f)) (s.dumpBytes k l f area).length

/-- Write a launch's dump into its partition's dump area, and move DUMPNEXT on (R389, R392). -/
def writeDump (s : State) (k : Nat) (l : Launch) (f : Fatal) : State :=
  let area := s.regN (partReg l.part 0x20) * 2 ^ 20
  if area = 0 then s else
  let bs := s.dumpBytes k l f area
  let at' := s.dumpOffset l.part (s.dumpTotal k f)
  let s := s.dumpStore (s.reg64 (partReg l.part 0x18) + at') (s.regN (partReg l.part 0x14)) (bs.length + 1) bs
  s.setRegN (partReg l.part 0x54) ((at' + bs.length + 65535) / 65536 * 65536)

/-- The metadata of a dump, in the physical function's log and the partition's event ring (R393). -/
def dumpRecords (s : State) (l : Launch) (f : Fatal) : State :=
  let idx := f.cause % 256 + l.part * 2 ^ 24
  (s.logWord 6 idx f.stand (l.id * 2 ^ 32)).eventWord l.part (standDie f.stand) 6 idx f.stand (l.id * 2 ^ 32)

/-- Control blocks of booms that hold a head slot, as an end or a save of their launch brings them up to date, by die (R248,
R262, R263). -/
def headBlocks (s : State) (k : Nat) : List (Nat × List (Nat × List Byte)) :=
  (List.range 4).map fun d => (d, s.initBlocks d k ++ ((s.die d).booms.filter fun n b => n / 2 ^ 32 == k && b.slot).flatMap fun b =>
    s.controlWrite d k (b.1 % 2 ^ 32) { b.2 with slot := false })

/-- The control blocks of a fatal end that memory takes: one whose page faults is left as it stands (log 114). -/
def endBlocks (s : State) (k : Nat) : List (Nat × List (Nat × List Byte)) :=
  (s.headBlocks k).map fun d => (d.1, d.2.filter fun w =>
    match s.driveLocate k (512 * d.1) w.1 w.2.length { w := true } with
    | .park .. => false
    | .miss .. => !s.driveHeld d.1 k
    | _ => true)

/-- Every thread of a launch has come to a run boundary, its commits have ended, the rows its running lanes await have landed,
and its writes are complete at system scope (R52, R53, R82, R277, R391). A run held at an instruction that waits has not
issued it. -/
def launchStopped (s : State) (k : Nat) : Bool :=
  (s.tasks.all fun t => t.2.launch != k || t.2.phase != .committing) &&
  (s.ops.all fun o => o.2.launch != k || !o.2.writes || s.opDone o.2 7) &&
  (s.engines.all fun e => match e.2.run with
    | some r => r.members.all fun t => (s.thread? t).all fun th => th.launch != k || th.held != .none
    | none => true) &&
  s.ops.all fun o => (match o.2.dest with
    | .tileRow .. | .accRow .. => false
    | _ => true) || (s.thread? o.2.tid).all fun th => th.launch != k || (match th.status with
    | .parked _ => true
    | _ => false)

end State

/-- A launch whose fatal trap was detected earlier is still to be dumped (R390). -/
def State.dumpedLater (s : State) (launch : Nat) (f : Fatal) : Bool :=
  s.launches.any fun e => e.1 != launch && e.2.phase == .dying && !e.2.dumped && e.2.fatal.any fun g => g.before f

/-- LAUNCH_FATAL_END (R52, R389-R393): with every thread stopped, the dump is written, and its records; then, in a step of its own,
what the launch holds is cleared and its signal word written with the cause. -/
def execLaunchFatalEnd (launch : Nat) (s : State) : Host.Outcome State Fault Refusal :=
  match s.launch? launch with
  | none => .refused (.notDue "LAUNCH_FATAL_END")
  | some l =>
    match l.fatal with
    | none => .refused (.notDue "LAUNCH_FATAL_END")
    | some f =>
      if l.phase != .dying || !s.launchStopped launch then .refused (.notDue "LAUNCH_FATAL_END")
      else if !l.dumped then
        if !s.dumpFree launch l f || s.dumpedLater launch f || !s.logRoom || !s.eventRoom (standDie f.stand) then
          .refused (.notDue "LAUNCH_FATAL_END")
        else .next (((s.writeDump launch l f).dumpRecords l f).modLaunch launch fun x => { x with dumped := true })
      else
        match s.signalStuck l with
        | some e => match s.unitHold l.part e with
          | some t => .next t
          | none => .refused (.notDue "LAUNCH_FATAL_END")
        | none =>
          let ws := s.endBlocks launch
          match s.blocksStuck launch ws with
          | some (d, e) => match s.driveHold launch d (512 * d) e with
            | some t => .next t
            | none => .refused (.notDue "LAUNCH_FATAL_END")
          | none =>
          let s := (s.writeBlocks launch ws).clearLaunch launch
          .next ((s.endLaunch launch l (0x80 + f.cause)).settlePreempt l.queue)

end Sys2Proof.Machine
end

