-- ==== Sys2Proof/Machine/Faults.lean ====
section
/-!
DEFINITION. Translation in flight and its faults (19 R351-R368): walks, host translations and page requests, replay and
cancellation, invalidations, page migration, and the failure of a tier-2 port.
-/

namespace Sys2Proof.Machine

/-- What a walk's access needs of its page. -/
def Walk.need (w : Walk) : Need := { r := w.read, w := w.write, x := w.fetch }

namespace State

/-! ### Delivering a fault -/

/-- The threads of a walk that still wait, one list for each group and PC. -/
def waiters (s : State) (ts : List Nat) : List (List Nat) :=
  let same (a b : Nat) : Bool := s.issuerOf a == s.issuerOf b && (s.thread? a).map (·.pc) == (s.thread? b).map (·.pc)
  (ts.filter fun t => (s.thread? t).any fun th => th.status == .ready).foldl (fun (gs : List (List Nat)) t =>
    if gs.any fun g => same (g.headD t) t then gs.map fun g => if same (g.headD t) t then g ++ [t] else g
    else gs ++ [[t]]) []

/-- Page Request indices that are free (R357). -/
def freePrgs (s : State) : List Nat := (List.range 512).filter fun n => (s.prgs.get? n).isNone

/-- The records a fault of a walk makes: one for each group of threads, else one where something still waits. -/
def faultRecords (s : State) (w : Walk) : Nat :=
  match w.who with
  | .threads ts _ => (s.waiters ts).length
  | .none => 0
  | _ => 1

/-- The bytes of the page that a walk's fault names: those of the entry whose key is not allotted, else 64 KiB (R351, R360). -/
def faultSpan (s : State) (w : Walk) (kind : Nat) : Nat :=
  let log := bits (s.regN (transReg w.part 8)) 12 8
  let base := bits (s.reg64 (transReg w.part 0)) 44 12 * 4096
  if kind ≠ 8 ∨ State.inDomain w.va then 65536
  else match (s.lookupSize w.va 0 4 (base + 128 * bucketOf log w.va 0)).1 with
    | .hit => 65536
    | _ => 2097152

/-- The page a record of a walk names: of a fabric window, the window's; a host page is 4 KiB (R360, R374). -/
def walkPage (w : Walk) (host : Bool) (size : Nat := 65536) : Nat :=
  if regionOf w.addr = .fabric then w.addr / 65536 * 65536
  else if host then w.va / 4096 * 4096 else w.va / size * size

/-- A translation that answers for a denied access of the part's own units: nothing is allowed (log 41). -/
def deniedTrans (w : Walk) : Trans :=
  { part := w.part, base := w.va / 4096 * 4096, size := 4096, host := true, frame := 0, lease := 0, key := 0, r := false
    w := false, x := false, m := false }

/-- The cache that a walk's translation goes to, where it is not its stand's TLB (R354). -/
def walkCache (s : State) (w : Walk) : Option Nat :=
  match w.who with
  | .threads ts _ =>
    if (s.thread? (ts.headD 0)).any fun th => th.home matches .skidder _ then some (skidCache w.stand) else none
  | .flume id => (s.findCmd id).map fun x => flumeCache x.1
  | .texture _ => some (texCache w.stand)
  | .drive d _ _ => some (driveCache d)
  | .none => if w.stand = unitStand then none else some (driveCache (standDie w.stand))
  | _ => none

/-- A walk's translation is cached by the unit that asked for it (R354). -/
def cacheFor (s : State) (w : Walk) (tr : Trans) : State :=
  match s.walkCache w with
  | some k => s.unitInsert k tr
  | none => s.tlbInsert w.stand tr

/-- One record of a walk's fault, for the group given where threads wait. -/
def faultOne (s : State) (w : Walk) (g : List Nat) (kind : Nat) (host : Bool) (pasid : Option Nat) (auto : Bool)
    (prg : Option Nat) : State :=
  let page := walkPage w host (s.faultSpan w kind)
  match w.who with
  | .threads _ fetch => s.park g kind page w.addr fetch.toNat w.write w.atomic pasid auto prg
  | .flume c => match s.findCmd c with
    | some (c, _, cmd) =>
      -- The beat that asked is still the next one.
      let asks := (beatNo cmd).isSome && (s.nextRanges c cmd).any fun r =>
        [r.1, r.1 + r.2.1 - 1].any fun a => (s.transAddr cmd.part a).2 / 4096 == w.va / 4096
      if asks then s.cmdFault cmd w.write kind page w.addr pasid auto prg else s
    | none => s
  | .texture q => match s.texReqs.get? q with
    | some x => if x.fault.isSome then s else s.texFault q x kind page w.addr pasid auto prg
    | none => s
  | .drive d l st =>
    if s.driveHeld d l || (s.launch? l).isNone then s else s.driveRecord l d st w.write kind page w.addr pasid auto prg
  | _ => s.cacheFor w (deniedTrans w)

/-- The groups a fault's records name; one empty list where no thread waits. -/
def faultGroups (s : State) (w : Walk) : List (List Nat) :=
  match w.who with
  | .threads ts _ => s.waiters ts
  | _ => [[]]

/-- Whether the fault buffer of the die takes a walk's records (R359). -/
def walkRoom (s : State) (w : Walk) : Bool :=
  let die := match w.who with
    | .drive d _ _ => d
    | _ => standDie w.stand
  decide ((s.die die).faultBuf.length + s.faultRecords w ≤ 256)

/-- The other walks of threads for the device page, of so many bytes, and access of a walk. -/
def siblings (s : State) (k : Nat) (w : Walk) (span : Nat) : List (Nat × Walk) :=
  match w.who with
  | .threads _ _ => s.walks.filter fun j x =>
      j != k && x.part == w.part && x.stand == w.stand && x.va / span == w.va / span && x.write == w.write &&
        x.read == w.read && x.fetch == w.fetch && x.ats.isNone && (match x.who with
          | .threads _ _ => true
          | _ => false)
  | _ => []

/-- A walk with the threads of its siblings, whose fault is the same one (R73, R351). -/
def joinedWalk (w : Walk) (js : List (Nat × Walk)) : Walk :=
  js.foldl (fun (w : Walk) j => match w.who, j.2.who with
    | .threads ts f, .threads us _ => { w with who := .threads (ts ++ us.filter (!ts.contains ·)) f, addr := min w.addr j.2.addr }
    | _, _ => w) w

/-- A walk ends in a fault (R351, R356). -/
def walkFault (s : State) (k : Nat) (w : Walk) (kind : Nat) (host : Bool) (pasid : Option Nat) : State :=
  let s := { s with walks := s.walks.del k }
  (s.faultGroups w).foldl (fun (s : State) g => s.faultOne w g kind host pasid false none) s

/-- A Page Request as sent (R357): the page, its low bits R, W, Last and the PRG index. -/
def pageRequestWord (page : Nat) (r w : Bool) (prg : Nat) : Nat := page + r.toNat + 2 * w.toNat + 4 + 8 * prg

/-- A walk ends in a denied host page that the Yallos asks for by itself (R357): a Page Request for each record, or, while
no PRG index is free, a fault that waits for one. -/
def pageRequests (s : State) (k : Nat) (w : Walk) (pasid : Nat) : State :=
  let s := { s with walks := s.walks.del k }
  (s.faultGroups w).foldl (fun (s : State) (g : List Nat) =>
    let prg := s.freePrgs.head?
    let t := s.faultOne w g 5 true (some pasid) true prg
    match prg, t.recs.keys.find? fun r => (s.recs.get? r).isNone with
    | some n, some key =>
      { t with
        prgs := t.prgs.put n { part := (t.recs.get? key).elim 0 (·.part), frec := key, addr := walkPage w true, pasid := pasid }
        hostOut := t.hostOut ++ [(2, pasid, pageRequestWord (walkPage w true) w.read w.write n)] }
    | _, _ => t) s

/-- Send a Translation Request for a walk: the page's address, with bit 0 set for No Write, which only a load's request
carries (R356). -/
def askHost (s : State) (k : Nat) (w : Walk) (pasid : Nat) : State :=
  let load := (w.who matches .threads _ false) && !w.write && !w.atomic
  { s with
    walks := s.walks.put k { w with ats := some pasid, stale := false }
    hostOut := s.hostOut ++ [(1, pasid, w.va / 4096 * 4096 + load.toNat)] }

/-- The last-page registers of a walk's threads drop the page, so that the new translation is found (R354). -/
def dropLastPage (s : State) (w : Walk) : State :=
  match w.who with
  | .threads ts _ => ts.foldl (fun (s : State) t => s.modThread t fun th =>
      { th with lastPage := th.lastPage.filter fun tr => !tr.covers w.part w.va }) s
  | _ => s

end State

/-- TRANSLATION_WALK (R351, R352, R356, R374): a home walker reads the table for a walk, or another package's answers. A device page is cached by the stand that
asked; for a host page a Translation Request goes to the host; what fails faults, once the die's fault buffer has room
(R359). -/
def execTranslationWalk (walk : Nat) (s : State) : Host.Outcome State Fault Refusal :=
  match s.walks.get? walk with
  | none => .refused (.notDue "TRANSLATION_WALK")
  | some w =>
    if w.ats.isSome || (!State.inDomain w.va && !s.walkable w.part w.va) then .refused (.notDue "TRANSLATION_WALK")
    else if State.inDomain w.va && s.pkg.links.isEmpty then
      -- No route reaches the package any longer: the access waits for one (R375).
      .next { s with walks := s.walks.del walk }
    else
      match if State.inDomain w.va then State.remoteWalk walk w.part w.va else s.walk w.part w.va with
      | .found tr _ =>
        if tr.host then
          if w.fetch || !tr.grants w.need then
            if s.walkRoom w then .next (s.walkFault walk w 2 true (some tr.pasid)) else .refused (.notDue "TRANSLATION_WALK")
          else .next (s.askHost walk w tr.pasid)
        else .next ({ s with walks := s.walks.del walk }.dropLastPage w |>.cacheFor w tr)
      | .fault kind =>
        let js := s.siblings walk w (s.faultSpan w kind)
        let w' := State.joinedWalk w js
        if !s.walkRoom w' then .refused (.notDue "TRANSLATION_WALK")
        else .next ({ s with walks := s.walks.filter fun j _ => !(js.any fun x => x.1 == j) }.walkFault walk w' kind false none)

/-! ### Host translations -/

namespace State

/-- The bytes a Translation Completion grants: 4 KiB x 2^n, of which at most 2 MiB are cached (R356). -/
def grantSize (perms : BitVec 8) : Nat := 4096 * 2 ^ (bits perms.toNat 5 2)

/-- The translation a completion gives a walk, under the permissions of its table entry (R356). -/
def hostTrans (w : Walk) (tr : Trans) (addr : Nat) (perms : BitVec 8) : Trans :=
  let full := grantSize perms
  let size := min full 2097152
  { part := w.part, base := w.va / size * size, size := size, host := true
    frame := addr / full * full + w.va % full / size * size, pasid := tr.pasid, lease := 0, key := 0
    r := perms.getLsbD 0 && tr.r, w := perms.getLsbD 1 && tr.w, x := false, m := false }

/-- A denied host page: the Yallos asks for it by itself, unless a Response Failure has disabled that (R357). -/
def hostDenied (s : State) (k : Nat) (w : Walk) (pasid : Nat) : State :=
  if s.pkg.priOff then s.walkFault k w 5 true (some pasid) else s.pageRequests k w pasid

end State

/-- ATS_TRANSLATION_COMPLETION (R356-R358): the host answers a Translation Request: the translated address, and in the
permissions R, W, the size as a power of two above 4 KiB, and in bit 7 Unsupported Request or Completer Abort. One that an
Invalidate Request has overtaken is discarded and asked for anew. -/
def execAtsTranslationCompletion (walk : Nat) (addr : W64) (perms : BitVec 8) (s : State) : Host.Outcome State Fault Refusal :=
  match s.walks.get? walk with
  | some w =>
    match w.ats with
    | none => .refused (.notDue "ATS_TRANSLATION_COMPLETION")
    | some pasid =>
      if w.stale then .next (s.askHost walk w pasid)
      else if perms.getLsbD 7 then
        if s.walkRoom w then .next (s.walkFault walk w 6 true (some pasid)) else .refused (.notDue "ATS_TRANSLATION_COMPLETION")
      else
        match s.walk w.part w.va with
        | .found tr _ =>
          if !tr.host || tr.pasid != pasid then .next { s with walks := s.walks.put walk { w with ats := none } }
          else
            let g := State.hostTrans w tr addr.toNat perms
            if (g.r || g.w) && g.grants w.need then
              .next ({ s with walks := s.walks.del walk }.dropLastPage w |>.cacheFor w g)
            else if s.walkRoom w then .next (s.hostDenied walk w pasid)
            else .refused (.notDue "ATS_TRANSLATION_COMPLETION")
        | .fault _ => .next { s with walks := s.walks.put walk { w with ats := none } }
  | none => .refused (.notDue "ATS_TRANSLATION_COMPLETION")

/-- ATS_COMPLETION_TIMEOUT (R356): a Translation Request's completion timeout passes. -/
def execAtsCompletionTimeout (walk : Nat) (s : State) : Host.Outcome State Fault Refusal :=
  match s.walks.get? walk with
  | some w =>
    match w.ats with
    | some pasid =>
      if s.walkRoom w then .next (s.walkFault walk w 6 true (some pasid)) else .refused (.notDue "ATS_COMPLETION_TIMEOUT")
    | none => .refused (.notDue "ATS_COMPLETION_TIMEOUT")
  | none => .refused (.notDue "ATS_COMPLETION_TIMEOUT")

/-! ### Replay and cancellation -/

namespace State

/-- A record is serviced: what waits on it goes on (R361). -/
def replayRecord (s : State) (key : Nat) : State :=
  match s.recs.get? key with
  | none => s
  | some p =>
    let s := ({ s with recs := s.recs.put key { p with pending := false } }).watchWho p.who
    match p.who with
    | .threads ts _ => ts.foldl (fun (s : State) t =>
        if (s.thread? t).any fun th => th.status == .parked key then s.setStatus t .ready else s) s
    | .flume c => s.modCmd c fun x => { x with
        heldBeats := x.heldBeats.filter fun b => b.2 != key
        again := x.again ++ (x.heldBeats.filter fun b => b.2 == key).map (·.1) }
    | .texture q => { s with texReqs := s.texReqs.mod q fun x => { x with fault := if x.fault = some key then none else x.fault } }
    | .task k => { s with tasks := s.tasks.mod k fun x => if x.phase == .faulted then { x with phase := .waiting } else x }
    | _ => s

/-- Records pending for the driver at or below a SEQ and below FQPROD, in SEQ order (R362). -/
def replayable (s : State) (part v : Nat) : List Nat :=
  let span (n : Nat) : Nat := (v + 2 ^ 32 - n) % 2 ^ 32
  let prod := s.regN (transReg part 0x1C)
  let mine := s.recs.filter fun _ p => p.part == part && p.pending && !p.fr.auto && decide (span p.fr.seq < 2 ^ 31) &&
    decide ((prod + 2 ^ 32 - 1 - p.fr.seq % 2 ^ 32) % 2 ^ 32 < 2 ^ 31)
  (sortBy (fun (e : Nat × Pending) => 2 ^ 32 - span e.2.fr.seq) mine).map (·.1)

/-- The launch a record belongs to, and what the dump records of its origin; what waits on it may have been saved with its
launch. -/
def recordFatal (s : State) (p : Pending) : Option (Nat × Fatal) :=
  let f : Fatal :=
    { cause := 0x0D, stand := p.fr.stand, wave := p.fr.wave, slot := p.fr.slot, pc := p.fr.pc, frec := p.fr.bytes }
  let live : Option (Nat × Fatal) := match p.who with
    | .threads ts _ => (ts.find? fun t => (s.thread? t).isSome).bind fun t => (s.thread? t).map fun th =>
        (th.launch, { f with tid := some t, wg := th.wg, lane := (s.homeOf t).lane })
    | .flume c => (s.findCmd c).map fun x => (x.2.2.launch, { f with tid := some x.2.2.tid, wg := x.2.2.wg })
    | .texture q => (s.texReqs.get? q).map fun x => (x.launch, { f with tid := some x.tid, wg := x.wg })
    | .drive _ l _ => some (l, f)
    | .task k => (s.tasks.get? k).map fun x => (x.launch, { f with wg := x.wg })
    | _ => none
  match live with
  | some x => some x
  | none => (s.launches.find? fun _ l => l.part == p.part && l.id == p.fr.launch && l.phase == .saved).map fun l => (l.1, f)

/-- Cancel a record pending for the driver: fatal with cause 0x0D (R362). -/
def cancelRecord (s : State) (key : Nat) : State :=
  match s.recs.get? key with
  | some p =>
    if p.pending && !p.fr.auto then
      let s := { s with recs := s.recs.put key { p with pending := false } }
      match s.recordFatal p with
      | some (l, f) => s.fatalLaunch l f
      | none => s
    else s
  | none => s

/-- What waits on one record waits on another from now on. -/
def moveWaiters (s : State) (old new : Nat) (who : Origin) : State :=
  match who with
  | .threads ts _ => ts.foldl (fun (s : State) t => s.modThread t fun th =>
      { th with status := if th.status = .parked old then .parked new else th.status }) s
  | .flume c => s.modCmd c fun x => { x with
      heldBeats := x.heldBeats.map fun b => if b.2 == old then (b.1, new) else b }
  | .texture q => { s with texReqs := s.texReqs.mod q fun x => { x with fault := if x.fault = some old then some new else x.fault } }
  | _ => s

/-- Replace a refused record by its second one (R357): what waited on the first waits on the second. -/
def refuseRecord (s : State) (key : Nat) : State :=
  match s.recs.get? key with
  | none => s
  | some p =>
    let s := { s with recs := s.recs.put key { p with pending := false } }
    let (k, s) := s.raiseFault p.part (standDie p.fr.stand) { p.fr with gtc := 0, auto := false, refused := true } p.who
    s.moveWaiters key k p.who

/-- Something still waits on a fault. -/
def waitedOn (s : State) (key : Nat) (who : Origin) : Bool :=
  match who with
  | .threads ts _ => ts.any fun t => (s.thread? t).any fun th => th.status == .parked key
  | .flume c => (s.findCmd c).any fun x => x.2.2.heldBeats.any fun b => b.2 == key
  | .texture q => (s.texReqs.get? q).any fun x => x.fault == some key
  | .task k => (s.tasks.get? k).any fun x => x.phase == .faulted
  | .drive _ l _ => (s.launch? l).isSome
  | _ => false

/-- Faults whose Page Request waits for a PRG index, the oldest first (R357). -/
def waitingPages (s : State) : List Nat := (s.recs.filter fun k p => decide (waitingPageKey ≤ k) && p.pending).keys

/-- Send the Page Request of a fault that has waited for a PRG index, and write its record, where an index is free and the
die's fault buffer has room; once PRI is disabled the record is left to the driver (R357, R359). -/
def sendWaitingPage (s : State) (key : Nat) : State :=
  match s.recs.get? key with
  | none => s
  | some p =>
    let off := s.pkg.priOff
    let prg := if off then none else s.freePrgs.head?
    if !s.waitedOn key p.who then { s with recs := s.recs.del key }
    else if !s.faultRoom (standDie p.fr.stand) || (!off && prg.isNone) then s
    else
      let s := { s with recs := s.recs.del key }
      let (k, s) := s.raiseFault p.part (standDie p.fr.stand) { p.fr with auto := !off, prg := prg } p.who
      let s := s.moveWaiters key k p.who
      let pasid := p.fr.pasid.getD 0
      match prg with
      | some n => { s with
          prgs := s.prgs.put n { part := p.part, frec := k, addr := p.fr.page, pasid := pasid }
          hostOut := s.hostOut ++ [(2, pasid, pageRequestWord p.fr.page (!p.fr.write || p.fr.atomic) p.fr.write n)] }
      | none => s

/-- Send the Page Requests that wait, as far as they can go (R357). -/
def sendWaitingPages (s : State) : State := s.waitingPages.foldl (fun (s : State) k => s.sendWaitingPage k) s

end State

/-- FREPLAY_WRITE (R362): every record pending for the driver at or below the SEQ written is replayed once, in order. -/
def execFreplayWrite (part : Nat) (val : W32) (s : State) : Host.Outcome State Fault Refusal :=
  if part < 64 then
    .next ((s.replayable part val.toNat).foldl (fun (s : State) k => s.replayRecord k) (s.setReg (transReg part 0x28) val))
  else .refused (.notDue "FREPLAY_WRITE")

/-- FCANCEL_WRITE (R362): the pending record named becomes fatal. -/
def execFcancelWrite (part : Nat) (val : W32) (s : State) : Host.Outcome State Fault Refusal :=
  if part < 64 then .next ((s.setReg (transReg part 0x2C) val).cancelRecord (recKey part val.toNat))
  else .refused (.notDue "FCANCEL_WRITE")

/-- FQCONS_WRITE (R359): the driver has consumed records; those that waited follow. -/
def execFqconsWrite (part : Nat) (val : W32) (s : State) : Host.Outcome State Fault Refusal :=
  if part < 64 then .next ((s.setReg (transReg part 0x20) val).flushFaults part 1025).sendWaitingPages
  else .refused (.notDue "FQCONS_WRITE")

/-- FQCTL_WRITE (R348, R359): EN, and while EN is 0 the size; records that waited follow. -/
def execFqctlWrite (part : Nat) (val : W32) (s : State) : Host.Outcome State Fault Refusal :=
  if part < 64 then
    let old := s.regN (transReg part 0x18)
    let size := bits (if bit old 0 then old else val.toNat) 12 8
    .next ((s.setRegN (transReg part 0x18) (size * 256 + val.toNat % 2)).flushFaults part 1025).sendWaitingPages
  else .refused (.notDue "FQCTL_WRITE")

/-- PRG_RESPONSE (R357): Success replays the record; Invalid Request (1) and Response Failure write a second record, and
Response Failure disables PRI. -/
def execPrgResponse (prg code : Nat) (s : State) : Host.Outcome State Fault Refusal :=
  match s.prgs.get? prg with
  | none => .refused (.notDue "PRG_RESPONSE")
  | some q =>
    let s := { s with prgs := s.prgs.del prg }
    if code = 0 then .next (s.replayRecord q.frec).sendWaitingPages
    else if !s.faultRoom (((s.recs.get? q.frec).map fun p => standDie p.fr.stand).getD 0) then
      .refused (.notDue "PRG_RESPONSE")
    else
      let s := s.refuseRecord q.frec
      if code = 1 then .next s.sendWaitingPages
      else .next (({ s with pkg := { s.pkg with priOff := true } }).orReg (transReg q.part 0x24) 2).sendWaitingPages

/-! ### Invalidation -/

namespace State

/-- Whether a range of addresses meets what an invalidation covers. -/
def invHits (base : Nat) (size : Option Nat) (lo n : Nat) : Bool :=
  match size with
  | none => true
  | some z => decide (lo < base + z) && decide (base < lo + n)

/-- Whether an invalidation removes a cached translation (R355, R358). -/
def invRemoves (v : Inval) (tr : Trans) : Bool :=
  v.parts.contains tr.part && invHits v.base v.size tr.base tr.size &&
    (v.byHost.isNone || (tr.host && (v.pasid.isNone || v.pasid == some tr.pasid)))

/-- Whether a part's access counts as performed for an invalidation (R355): a load's value read, a write performed, a write
of host memory acknowledged; a write that a migration holds has not been translated yet (R367). -/
def invDone (o : MemOp) (p : Part) : Bool :=
  !p.place.translated || p.migHeld || p.dropped ||
    (match o.kind with
      | .load => p.taken
      | _ => match p.place with
        | .host _ _ => p.phase == .acked
        | _ => p.phase == .performed || p.phase == .acked)

/-- Whether an operation holds an unperformed part under a translation an invalidation covers. -/
def invWaits (s : State) (v : Inval) (o : MemOp) : Bool :=
  let hit (r : Nat × Nat) : Bool :=
    let (part, va) := s.transAddr o.part r.1
    v.parts.contains part && invHits v.base v.size va r.2
  (hit (o.ea, opLen o) || o.also.any hit) && o.parts.any fun p =>
    !invDone o p && (v.byHost.isNone || (match p.place with
      | .host _ _ => true
      | _ => false))

/-- Whether bytes kept apart from memory were translated under a translation an invalidation covers: the pages they were
written through, and the half-bytes held. -/
def invHolds (v : Inval) (pages written : NatSet) : Bool :=
  (pages.any fun k => v.parts.contains (k / 2 ^ 52) && invHits v.base v.size (k % 2 ^ 52 * 4096) 4096) &&
    written.any fun h => v.byHost.isNone || decide (hostBase ≤ h / 2)

/-- Start an invalidation (R355): every cache is swept, walks it covers start afresh, and what was translated before it is
noted. -/
def startInval (s : State) (v : Inval) : Nat × State :=
  let waits := (s.ops.filter fun _ o => s.invWaits v o).keys
  let tasks := (s.tasks.filter fun _ x => invHolds v x.pages x.written).map fun e => (e.1, e.2.attempt)
  let cruises := (s.cruises.filter fun _ x => invHolds v x.pages x.written).keys
  let (k, s) := s.fresh
  (k, { s with
    stands := s.stands.map fun x => (x.1, { x.2 with tlb := x.2.tlb.filter fun tr => !invRemoves v tr })
    unitTlbs := s.unitTlbs.map fun x => (x.1, x.2.filter fun tr => !invRemoves v tr)
    threads := s.threads.map fun e => (e.1, { e.2 with lastPage := e.2.lastPage.filter fun tr => !invRemoves v tr })
    walks := s.walks.map fun w =>
      if v.parts.contains w.2.part && invHits v.base v.size w.2.va 1 && w.2.ats.isSome then
        (match v.byHost with
          | none => (w.1, { w.2 with ats := none, stale := false })
          | some _ => if v.pasid.isNone || v.pasid == w.2.ats then (w.1, { w.2 with stale := true }) else w)
      else w
    invals := s.invals.put k { v with waits := waits, tasks := tasks, cruises := cruises } })

/-- Whether everything translated before an invalidation has been performed (R355). -/
def invReady (s : State) (v : Inval) : Bool :=
  (v.waits.all fun o => (s.ops.get? o).all fun x => x.parts.all (invDone x)) &&
    (v.tasks.all fun t => (s.tasks.get? t.1).all fun x => x.attempt != t.2 || x.written.isEmpty) &&
    v.cruises.all fun c => (s.cruises.get? c).isNone

/-! ### Migration -/

/-- An invalidation of a migrating page. -/
def migInval (k : Nat) (m : Migration) : Inval :=
  { parts := [m.part], base := m.va, size := some m.size, waits := [], byMig := some k }

/-- Whether a byte lies in a migration's source. -/
def inSource (m : Migration) (pa : Nat) : Bool := decide (m.src ≤ pa) && decide (pa < m.src + m.size)

/-- Where a byte of the source lies afterwards. -/
def movedTo (m : Migration) (pa : Nat) : Nat := if inSource m pa then pa - m.src + m.dst else pa

/-- The flume that carries a migration out: that of the entry's home cluster, or where it is fenced its buddy's; none where both
are (R349, R367; log 110). -/
def migFlume (s : State) (m : Migration) : Option Nat :=
  [m.cluster, 4096 * buddyDie (m.cluster / 4096) + m.cluster % 4096].find? fun c => s.walkerServes c && !s.flumeFenced c

/-- The source line of a migration's next beat, and its destination. -/
def migLines (m : Migration) : Nat × Nat := (m.src / 64 + m.copied, m.dst / 64 + m.copied)

/-- Copy a line of a page to its new frame (R367): its bytes and poison, under the page's key; a line that cannot be delivered is
written poisoned. -/
def copyLine (s : State) (m : Migration) : State :=
  let (a, b) := migLines m
  let hurt := (List.range 16).map fun w => s.lineBad a m.key || s.mem.dramPoison.has (16 * a + w)
  s.storePlace (.dram (64 * b)) m.key (s.mem.dram.read (64 * a) 64) (hurt.flatMap fun q => List.replicate 4 q)

/-- What is held for the source moves to the new frame: held writes, buffered and shadowed bytes, read sets, and lines an
engine owns (R367). -/
def moveHeld (s : State) (m : Migration) : State :=
  let mk (k : Nat) : Nat := if k < hostBase then movedTo m k else k
  let half (p : NatSet) : NatSet := p.foldl (fun (q : NatSet) h => q.add (2 * mk (h / 2) + h % 2)) []
  let gran (p : NatSet) : NatSet := p.foldl (fun (q : NatSet) g => q.add (mk (256 * g) / 256)) []
  let byte (p : NatSet) : NatSet := p.foldl (fun (q : NatSet) k => q.add (mk k)) []
  let cells (b : Memory) : Memory := b.foldl (fun (x : Memory) c => x.writeByte (mk c.1) c.2) []
  let lines (t : Table Nat) : Table Nat := t.foldl (fun (x : Table Nat) e => x.put (mk (64 * e.1) / 64) e.2) []
  let part (p : Part) : Part :=
    match p.place with
    | .dram pa => if p.migHeld && inSource m pa then { p with place := .dram (movedTo m pa), migHeld := false } else p
    | _ => p
  let owned := s.homes.filter fun l h => inSource m (64 * l) && h.owner.isSome
  let homes := owned.foldl (fun (t : Table HomeLine) e =>
      let d := movedTo m (64 * e.1) / 64
      let t := t.setD e.1 {} { e.2 with owner := none, before := none, final := false, recallAt := none }
      t.put d { t.getD d {} with
        owner := e.2.owner, final := e.2.final, recallAt := e.2.recallAt
        before := e.2.before.map fun b => (b.1, b.2.map fun w => movedTo m (4 * w) / 4) }) s.homes
  { s with
    ops := s.ops.map fun o => (o.1, { o.2 with parts := o.2.parts.map part })
    homes := homes
    clusters := s.clusters.map fun c => (c.1, { c.2 with rings := c.2.rings.map fun r =>
      (r.1, r.2.map fun x => { x with owned := x.owned.foldl (fun (q : NatSet) l => q.add (mk (64 * l) / 64)) [] }) })
    tasks := s.tasks.map fun e => (e.1, { e.2 with
      buf := cells e.2.buf, written := half e.2.written, readGran := gran e.2.readGran, readBytes := byte e.2.readBytes
      keys := lines e.2.keys })
    cruises := s.cruises.map fun e => (e.1, { e.2 with
      shadow := cells e.2.shadow, written := half e.2.written, poison := byte e.2.poison, readGran := gran e.2.readGran, keys := lines e.2.keys }) }

/-- Writes held at a page whose migration is given up go to the source (R368). -/
def freeHeld (s : State) (m : Migration) : State :=
  let part (p : Part) : Part :=
    match p.place with
    | .dram pa => if inSource m pa then { p with migHeld := false } else p
    | _ => p
  { s with ops := s.ops.map fun o => (o.1, { o.2 with parts := o.2.parts.map part }) }

/-- Rewrite word 1 of a migrating page's entry: its frame and M (R367). -/
def writeEntry (s : State) (m : Migration) (frame : Nat) (held : Bool) : State :=
  let w := s.dramNat m.entry 8
  let v := w / 2 ^ 46 * 2 ^ 46 + held.toNat * 2 ^ 45 + frame / 65536 * 65536 + w % 65536
  s.unitWrite m.entry (bytesOfNat 8 v)

/-- Cached translations of a page leave at once. -/
def sweepPage (s : State) (m : Migration) : State :=
  let v := migInval 0 m
  { s with
    stands := s.stands.map fun x => (x.1, { x.2 with tlb := x.2.tlb.filter fun tr => !invRemoves v tr })
    unitTlbs := s.unitTlbs.map fun x => (x.1, x.2.filter fun tr => !invRemoves v tr)
    threads := s.threads.map fun e => (e.1, { e.2 with lastPage := e.2.lastPage.filter fun tr => !invRemoves v tr }) }

/-- A frame that has failed cannot be copied (R365, R368). -/
def frameLost (s : State) (m : Migration) : Bool := s.placeLost m.part (.dram m.src) || s.placeLost m.part (.dram m.dst)

/-- The cluster whose flume reports on a migration. -/
def migCluster (s : State) (m : Migration) : Nat := (s.migFlume m).getD m.cluster

/-- A fault record of a migration's flume (R360, R368). -/
def migReport (s : State) (m : Migration) (kind page addr : Nat) (phys : Bool) : State :=
  let c := s.migCluster m
  s.reportFault m.part (standDie (c / 8))
    { seq := 0, kind := kind, source := 7, phys := phys, page := page, addr := addr, stand := c / 8 }

/-- A migration goes on at a stage, with a further invalidation where one is called for. -/
def migNext (s : State) (k : Nat) (m : Migration) (again : Bool) : State :=
  let s := { s with migs := s.migs.put k m }
  if again then (s.startInval (migInval k m)).2 else s

/-- The next stage of a migration once an invalidation of it has completed (R367, R368). -/
def migStep (s : State) (k : Nat) (m : Migration) : State :=
  match m.stage with
  | .first => s.migNext k { m with stage := .copy } false
  | .abort =>
    ((((s.writeEntry m m.src false).sweepPage m).freeHeld m).migReport m 0x14 m.va m.va false).migNext k { m with stage := .leases } false
  | .second => s.migNext k { m with stage := .leases } false
  | .mark | .copy | .leases => s

/-- The last beat of a copy is the next one. -/
def migLast (m : Migration) : Bool := m.copied + 1 == m.size / 64

/-- One beat of a copy (R367, R368): a failed tier aborts it; a source line that cannot be delivered is reported. After the last one
the entry names the new frame, and the second invalidation starts. -/
def migBeat (s : State) (k : Nat) (m : Migration) : State :=
  if s.frameLost m then s.migNext k { m with stage := .abort, result := 2 } true
  else
    let (a, _) := migLines m
    let bad := s.lineBad a m.key
    let s := (s.noteEcc (64 * a) m.key m.part ((s.migFlume m).map (unitNo 7))).copyLine m
    let s := if bad then s.migReport m 0x13 m.src (64 * a) true else s
    let m' := { m with copied := m.copied + 1, result := if bad then 1 else m.result }
    if migLast m then ((s.moveHeld m).writeEntry m m.dst false).migNext k { m' with stage := .second } true
    else s.migNext k m' false

/-- Whether the next beat can be made: a flume serves, its records have room, and for the last one the entry's line is free (R87,
R359, R381). -/
def migReady (s : State) (m : Migration) : Bool :=
  (s.migFlume m).any fun c => s.faultRoom (standDie (c / 8)) && s.eccRoom (64 * (migLines m).1) m.key &&
    (!migLast m || s.unitFree m.entry 8)

/-- A migration begins: M is set and the first invalidation starts (R367). -/
def migMark (s : State) (k : Nat) (m : Migration) : State :=
  let s := { s with migs := s.migs.put k { m with stage := .first } }.writeEntry m m.src true
  (s.startInval (migInval k m)).2

end State

/-- INVCTL_START (R355): the driver starts an invalidation; while one runs the write is ignored. -/
def execInvctlStart (part : Nat) (val : W32) (s : State) : Host.Outcome State Fault Refusal :=
  if 64 ≤ part then .refused (.notDue "INVCTL_START")
  else if bit (s.regN (transReg part 0x38)) 0 then .next s
  else
    let s := s.setRegN (transReg part 0x38) (val.toNat % 8)
    if !val.getLsbD 0 then .next s
    else
      let size := if val.getLsbD 2 then 2097152 else 65536
      let va := bits (s.reg64 (transReg part 0x30)) 56 16 * 65536 / size * size
      let v : Inval := { parts := [part], base := va, size := if val.getLsbD 1 then none else some size, waits := [] }
      .next (s.startInval v).2

/-- ATS_INVALIDATE_REQUEST (R358): the host invalidates a range of a PASID, or with a PASID of 2^20 or more of every one;
`size` bytes, 0 for every address. At most 32 are outstanding. -/
def execAtsInvalidateRequest (pasid : Nat) (addr : W64) (size tag : Nat) (s : State) : Host.Outcome State Fault Refusal :=
  if 32 ≤ (s.invals.filter fun _ v => v.byHost.isSome).length then .refused (.notDue "ATS_INVALIDATE_REQUEST")
  else
    let v : Inval :=
      { parts := List.range 64, base := addr.toNat, size := if size = 0 then none else some size
        pasid := if pasid < 2 ^ 20 then some pasid else none, waits := [], byHost := some tag }
    .next (s.startInval v).2

/-- INVALIDATION_COMPLETE (R355, R358, R367): everything translated before it has been performed. -/
def execInvalidationComplete (inval : Nat) (s : State) : Host.Outcome State Fault Refusal :=
  match s.invals.get? inval with
  | none => .refused (.notDue "INVALIDATION_COMPLETE")
  | some v =>
    if !s.invReady v then .refused (.notDue "INVALIDATION_COMPLETE")
    else
      -- A migration that is given up rewrites its entry next, once that line is free (R87) and its record has room (R359).
      let free := (v.byMig.bind s.migs.get?).all fun m =>
        m.stage != .abort || (s.unitFree m.entry 8 && s.faultRoom (standDie (s.migCluster m / 8)))
      if !free then .refused (.notDue "INVALIDATION_COMPLETE") else
      let s := { s with invals := s.invals.del inval }
      match v.byHost, v.byMig with
      | some tag, _ => .next { s with hostOut := s.hostOut ++ [(3, tag, v.base)] }
      | none, some k => match s.migs.get? k with
        | some m => .next (s.migStep k m)
        | none => .next s
      | none, none =>
        let off := transReg (v.parts.headD 0) 0x38
        .next (s.setRegN off (s.regN off / 2 * 2))

namespace State

/-- The valid entries that walks of a partition can reach (R349-R351): those of its buckets, and of the overflow buckets that
at most four links lead to. -/
def tableEntries (s : State) (part : Nat) : List Nat :=
  let ctl := s.regN (transReg part 8)
  let base := bits (s.reg64 (transReg part 0)) 44 12 * 4096
  let valid := s.mem.dram.filterMap fun c => if c.1 % 16 = 7 ∧ 128 ≤ c.2.toNat then some (c.1 - 7) else none
  let links (es : List Nat) : List Nat := es.filterMap fun e =>
    if e % 128 = 112 ∧ bits (s.dramNat e 8) 62 61 = 2 then some (bits (s.dramNat (e + 8) 8) 44 7) else none
  let more (es : List Nat) : List Nat :=
    let bs := links es
    (es ++ valid.filter fun e => bs.contains (e / 128)).eraseDups
  if !bit ctl 0 then []
  else more (more (more (more (valid.filter fun e => decide (base ≤ e) && decide (e < base + 2 ^ (bits ctl 12 8 + 7))))))

/-- An entry of some partition's table maps a byte of a range of device memory (R366). -/
def mapped (s : State) (lo n : Nat) : Bool :=
  (List.range 64).any fun part => (s.tableEntries part).any fun e =>
    let w0 := s.dramNat e 8
    let w1 := s.dramNat (e + 8) 8
    let pa := bits w1 44 16 * 65536
    let size := if bits w0 62 61 = 1 then 2097152 else 65536
    decide (bits w0 62 61 < 2) && bits w1 1 0 == 0 && decide (lo < pa + size) && decide (pa < lo + n)

/-- The ranges of device memory that the registers of a partition name: its page table, fault queue, handler table, dump area, event
ring, and of its queues the rings and save pools (R329, R348, R369). -/
def partRanges (s : State) (part : Nat) : List (Nat × Nat) :=
  let t (off : Nat) : Nat := s.regN (transReg part off)
  let p (off : Nat) : Nat := s.regN (partReg part off)
  let log (v : Nat) : Nat := 2 ^ bits v 12 8
  [(s.reg64 (transReg part 0), if bit (t 8) 0 then 128 * log (t 8) else 0),
    (s.reg64 (transReg part 0x10), if bit (t 0x18) 0 then 64 * log (t 0x18) else 0),
    (s.reg64 (partReg part 8), if bit (p 0) 0 then 32768 else 0), (s.reg64 (partReg part 0x18), p 0x20 * 2 ^ 20),
    (s.reg64 (partReg part 0x28), if bit (p 0x30) 0 then 32 * log (p 0x30) else 0)] ++
  (List.range 64).flatMap fun n =>
    let q (off : Nat) : Nat := s.regN (queueReg (64 * part + n) off)
    [(s.reg64 (queueReg (64 * part + n) 0), if bit (q 8) 0 && bit (q 8) 2 then 256 * log (q 8) else 0),
      (s.reg64 (queueReg (64 * part + n) 0x28), q 0x30 * 65536)]

/-- A range of device memory is a driver's own, as far as the package can tell: no other partition's registers name a byte of it, nor
is it a frame of a migration (R12, R366; log 146). -/
def frameOwned (s : State) (part lo n : Nat) : Bool :=
  let meets (r : Nat × Nat) : Bool := decide (lo < r.1 + r.2) && decide (r.1 < lo + n)
  ((List.range 64).all fun k => k == part || !(s.partRanges k).any meets) &&
    s.migs.all fun m => !meets (m.2.dst, m.2.size) && !meets (m.2.src, m.2.size)

end State

/-- MIGCTL_START (R366-R368): the driver starts a migration; while one runs the write is ignored. A request that R366
forbids ends at once with RESULT 3. -/
def execMigctlStart (part : Nat) (val : W32) (s : State) : Host.Outcome State Fault Refusal :=
  if 64 ≤ part then .refused (.notDue "MIGCTL_START")
  else if bit (s.regN (transReg part 0x50)) 0 then .next s
  else
    let s := s.setRegN (transReg part 0x50) (val.toNat / 2 % 2 * 2)
    if !val.getLsbD 0 then .next s
    else
      let size := if val.getLsbD 1 then 2097152 else 65536
      let va := bits (s.reg64 (transReg part 0x40)) 56 16 * 65536
      let dst := bits (s.reg64 (transReg part 0x48)) 44 16 * 65536
      let refuse : Host.Outcome State Fault Refusal := .next (s.setRegN (transReg part 0x54) (1 + 3 * 2))
      match s.walk part va with
      | .found tr entry =>
        if tr.host || tr.m || tr.size != size || va % size != 0 || dst % size != 0 || !s.populated dst ||
            !s.populated (dst + size - 1) || s.mapped dst size || !s.frameOwned part dst size then refuse
        else
          let (k, s) := s.fresh
          let m : Migration :=
            { part := part, va := va, size := size, src := tr.frame, dst := dst, key := tr.key, entry := entry + 8
              cluster := bucketOf (bits (s.regN (transReg part 8)) 12 8) va (if size = 65536 then 0 else 1) % 16384 }
          let s := s.setRegN (transReg part 0x50) (val.toNat % 4)
          .next (if s.unitFree m.entry 8 then s.migMark k m else { s with migs := s.migs.put k { m with stage := .mark } })
      | .fault _ => refuse

/-- MIGRATION_COMPLETE (R367): every lease granted on the source lines has ended. The step is due before, too, for each beat of the
copy, and where M could not be set at once: it is set when the entry's line is free. -/
def execMigrationComplete (mig : Nat) (s : State) : Host.Outcome State Fault Refusal :=
  match s.migs.get? mig with
  | some m =>
    let ended := s.homes.all fun h => !State.inSource m (64 * h.1) || h.2.leases.all fun l => decide (l.2 + 4 ≤ s.gtc)
    if m.stage == .mark && s.unitFree m.entry 8 then .next (s.migMark mig m)
    else if m.stage == .copy && s.migReady m then .next (s.migBeat mig m)
    else if m.stage == .leases && ended then
      let s := { s with migs := s.migs.del mig }
      let off := transReg m.part 0x50
      .next ((s.setRegN off (s.regN off / 2 * 2)).setRegN (transReg m.part 0x54) (1 + 2 * m.result))
    else .refused (.notDue "MIGRATION_COMPLETE")
  | none => .refused (.notDue "MIGRATION_COMPLETE")

/-! ### Tier 2 and other packages -/

namespace State

/-- Complete as lost every part a test picks: a load full and poisoned, a write dropped (R365, R375). -/
def loseParts (s : State) (pick : Nat → MemOp → Part → Bool) : State :=
  s.ops.foldl (fun (s : State) e =>
    (List.range e.2.parts.length).foldl (fun (s : State) idx =>
      match s.opPart e.1 idx with
      | some (o, p) =>
        if pick e.1 o p && s.partFits o p then (if o.kind = .load then s.readLost e.1 idx o p else s.dropWrite e.1 idx o p) else s
      | none => s) s) s

/-- An outstanding part of an operation behind a port (R365): a load not yet read that no valid copy serves, or a write
not yet acknowledged. -/
def behindPort (s : State) (port : Nat) (o : MemOp) (p : Part) : Bool :=
  match p.place with
  | .dram pa => cxlPort pa == some port && !p.dropped &&
      (if o.kind = .load then (p.phase == .sent || p.phase == .queued) && !(p.l1 && (s.l1Line o.stand pa).isSome)
      else p.phase == .sent || p.phase == .queued || (p.copy && p.phase == .performed))
  | _ => false

/-- A part that has waited 50 µs for a route to a package (R375). -/
def waitedOut (s : State) (part pkg : Nat) (o : MemOp) (p : Part) : Bool :=
  match p.place with
  | .remote a => o.part == part && bits a 50 41 == pkg && p.phase == .queued && !p.dropped && s.placeWaits part p.place &&
      decide (p.key + 50000 ≤ s.gtc)
  | _ => false

/-- A flume command that has waited 50 µs for a route to a package (R375). -/
def cmdWaitedOut (s : State) (part pkg c : Nat) (cmd : FlumeCmd) : Bool :=
  cmd.part == part && !cmd.giveUp && (cmd.waitFrom.any fun g => decide (g + 50000 ≤ s.gtc)) &&
    (s.nextRanges c cmd).any fun r => (partsOf (s.cmdParts c cmd r.1 r.2.1 r.2.2)).any fun p => match p.place with
      | .remote a => bits a 50 41 == pkg && s.placeWaits part p.place
      | _ => false

end State

/-- CXL_PORT_FAILURE (R365): a port's link goes down, or a request passes its completion timeout. Everything outstanding
behind it is lost. -/
def execCxlPortFailure (port : Nat) (timeout : Bool) (s : State) : Host.Outcome State Fault Refusal :=
  if 2 ≤ port then .refused (.notDue "CXL_PORT_FAILURE")
  else
    let s := s.orReg (cxlReg port 4) (if timeout then 5 else 3)
    .next (s.loseParts fun _ o p => s.behindPort port o p)

/-- CXLSTAT_WRITE (R364): write one to clear. -/
def execCxlstatWrite (port : Nat) (val : W32) (s : State) : Host.Outcome State Fault Refusal :=
  if port < 2 then .next (s.setReg (cxlReg port 4) (s.reg (cxlReg port 4) &&& ~~~val))
  else .refused (.notDue "CXLSTAT_WRITE")

/-- CXLDROP_READ (R364): the count is read and cleared. -/
def execCxldropRead (port : Nat) (s : State) : Host.Outcome State Fault Refusal :=
  if port < 2 then .next { s.setReg (cxlReg port 0xC) 0 with busRead := s.reg (cxlReg port 0xC) }
  else .refused (.notDue "CXLDROP_READ")

/-- PACKAGE_UNREACHABLE_TIMEOUT (R375): accesses that have waited 50 µs for a route complete as lost. -/
def execPackageUnreachableTimeout (part pkg : Nat) (s : State) : Host.Outcome State Fault Refusal :=
  let ops := s.ops.any fun e => e.2.parts.any (s.waitedOut part pkg e.2)
  let cmds := s.clusters.any fun c => c.2.rings.any fun r => r.2.any (s.cmdWaitedOut part pkg c.1)
  if ops || cmds then
    let clusters := s.clusters.map fun c => (c.1, { c.2 with rings := c.2.rings.map fun r =>
      (r.1, r.2.map fun x => if s.cmdWaitedOut part pkg c.1 x then { x with giveUp := true } else x) })
    .next ({ s with clusters := clusters }.loseParts fun _ o p => s.waitedOut part pkg o p)
  else .refused (.notDue "PACKAGE_UNREACHABLE_TIMEOUT")

end Sys2Proof.Machine
end

