-- ==== Sys2Proof/Machine/Partitions.lean ====
section
/-!
DEFINITION. Partitions, stand ownership and the balancer (12 R283; 18 R335; 20 R369-R372), the Eloa fabric and its
collectives (20 R373-R376), keys (R377), boot and attestation (R378, R379), and the writes of memory-mapped registers (00
R10, R11; 18 R329; 19 R348, R364; 20 R369).
-/

namespace Sys2Proof.Machine

namespace State

/-! ### What a stand holds -/

/-- A stand holds a thread, queued wave, pocket member, reserved context, task or batch of a launch a test picks (R283,
R370). -/
def standHolds (s : State) (stand : Nat) (mine : Nat → Bool) : Bool :=
  let x := s.stand stand
  (s.threads.any fun e => mine e.2.launch && (s.homeOf e.1).stand == stand) || (x.waveQ.any fun w => mine w.launch) ||
    (x.pockets.any fun p => mine p.2.launch) ||
    (s.cores.any fun c => coreStand c.1 == stand && c.2.reserved.any fun r => mine r.2.1) ||
    (s.tasks.any fun t => t.2.landing == stand && mine t.2.launch) || (s.batches.get? stand).any fun b => mine b.launch

/-- A stand has drained: it holds nothing of any launch, nor a reach of the Drive (R370). -/
def drained (s : State) (stand : Nat) : Bool :=
  !s.standHolds stand (fun _ => true) &&
    (s.stand stand).reach.all fun r => (s.launch? r.1).all fun l => l.phase == .ended

/-- A launch ends before any of its threads has issued (R335): what it placed is released, and its signal word says why. -/
def dropLaunch (s : State) (k : Nat) (l : Launch) (status : Nat) : State :=
  let s := s.clearLaunch k
  let s := if l.r.sigaddr = 0 then s else s.signalOrKeep l.queue l.r.sigaddr (signalWord l.r.sigval status)
  (s.modLaunch k fun x => { x with phase := .ended }).completeCmd l.queue l.index

/-- A stand has left a partition or a side: a launch that must still occupy it by name ends (R335). -/
def loseNamed (s : State) (stand : Nat) : State :=
  s.launches.foldl (fun (s : State) (e : Nat × Launch) =>
    let lost := e.2.phase == .pending && (missingStands e.2).contains stand &&
      (s.standOwner stand != some e.2.part || (s.stand stand).graphics)
    if !lost then s
    else match e.2.cruise with
      | some c => { s with cruises := s.cruises.mod c fun x => x.cause 0x10 }
      | none => s.dropLaunch e.1 e.2 2) s

/-- Every trace ring of a stand is cleared (R394). -/
def clearRings (s : State) (stand : Nat) : State :=
  (s.engines.keys.filter fun k => !isSkidKey k && engineStand k == stand).foldl (fun (s : State) (k : Nat) =>
    s.modEngine k fun e => { e with ring := [], written := 0 }) s

/-- A change of a stand's owner takes effect (R335, R370, R394). -/
def takeOwner (s : State) (stand : Nat) (v : W32) : State :=
  let old := s.standOwner stand
  let s := (s.modStand stand fun x => { x with pendingOwn := none }).setReg (standownReg stand) (v &&& 0xBF)
  let s := if s.standOwner stand = old then s else s.clearRings stand
  s.loseNamed stand

/-- A write of STANDOWN (R370): taken at once on a drained stand, else held with PENDING set; a second one replaces the
value held. A move of the stand that began earlier goes first (R372). -/
def writeStandown (s : State) (stand : Nat) (v : W32) : State :=
  if s.drained stand && !s.standMoves stand then s.takeOwner stand v
  else
    let (o, s) := s.fresh
    let s := s.modStand stand fun x => { x with pendingOwn := some (v &&& 0xBF, x.pendingOwn.elim o (·.2)) }
    s.orReg (standownReg stand) 0x100

end State

/-- STANDOWN_WRITE (R370). -/
def execStandownWrite (stand : Nat) (val : W32) (s : State) : Host.Outcome State Fault Refusal :=
  if stand < 2048 then .next (s.writeStandown stand val) else .refused (.notDue "STANDOWN_WRITE")

/-- STANDOWN_TAKE_EFFECT (R335, R370, R372, R394): the stand of a held write has drained. -/
def execStandownTakeEffect (stand : Nat) (s : State) : Host.Outcome State Fault Refusal :=
  match (s.stand stand).pendingOwn with
  | some (v, o) =>
    let behind := (s.die (standDie stand)).move.any fun m => m.1 == stand && decide (m.2.2 < o)
    if s.drained stand && !behind then .next (s.takeOwner stand v) else .refused (.notDue "STANDOWN_TAKE_EFFECT")
  | none => .refused (.notDue "STANDOWN_TAKE_EFFECT")

/-! ### The balancer -/

namespace State

/-- G of a die (R283, R372). -/
def balG (s : State) (die : Nat) : Nat := s.regN (balReg die 0) % 1024

/-- A launch belongs on graphics stands (R283). -/
def rendering (l : Launch) : Bool := l.r.pass != 0

/-- The last graphics stand of a die, which is not moved while a render launch holds a workgroup there (R283). -/
def lastGraphics (s : State) (die : Nat) : Bool :=
  s.balG die == 1 && s.launches.any fun l => rendering l.2 && l.2.wgs.any fun w =>
    w.2.placed && !w.2.retired && standDie w.2.stand == die

/-- Whether the balancer may move a stand towards graphics, or away from it. -/
def canMove (s : State) (die : Nat) (toG : Bool) : Bool :=
  if toG then decide (s.balG die < 512) else decide (0 < s.balG die) && !s.lastGraphics die

/-- The stand at the boundary that a move takes (R283). -/
def boundaryStand (s : State) (die : Nat) (toG : Bool) : Nat := 512 * die + (if toG then s.balG die else s.balG die - 1)

/-- The direction in which manual mode moves next (R372). -/
def manualWant (s : State) (die : Nat) : Option Bool :=
  let c := s.regN (balReg die 4)
  let t := min (max (bits c 9 0) (bits c 19 10)) (bits c 29 20)
  if bit c 30 then none else if s.balG die < t then some true else if t < s.balG die then some false else none

/-- A move begins: the boundary stand starts to drain (R283, R372). -/
def beginMove (s : State) (die : Nat) (toG : Bool) : State :=
  let (o, s) := s.fresh
  let n := s.boundaryStand die toG
  (s.modDie die fun d => { d with move := some (n, toG, o) }).setRegN (balReg die 0) (s.balG die + 1024)

/-- A drained stand changes side in one step (R283). -/
def finishMove (s : State) (die stand : Nat) (toG : Bool) : State :=
  let g := if toG then s.balG die + 1 else s.balG die - 1
  let s := (s.modDie die fun d => { d with move := none }).setRegN (balReg die 0) g
  (s.modStand stand fun x => { x with graphics := toG }).loseNamed stand

/-- Workgroups that wait for placement where a die may take them, of render launches or of the others (R372). -/
def waitingWgs (s : State) (die : Nat) (render : Bool) : Nat :=
  s.launches.foldl (fun n l =>
    let here := (List.range 512).any fun k => s.standOwner (512 * die + k) == some l.2.part
    if placing l.2 && rendering l.2 == render && here then n + (unplaced l.2).length else n) 0

/-- The direction in which AUTO mode moves (R372). -/
def autoWant (s : State) (die : Nat) : Option Bool :=
  let c := s.regN (balReg die 4)
  let r := s.waitingWgs die true
  let k := s.waitingWgs die false
  let g := s.balG die
  if 0 < r ∧ k = 0 ∧ g < bits c 29 20 then some true else if 0 < k ∧ r = 0 ∧ bits c 19 10 < g then some false else none

/-- A write of BALCTL (R372). -/
def writeBalctl (s : State) (die : Nat) (v : W32) : State :=
  let n := v.toNat
  if bits n 29 20 < bits n 19 10 ∨ 512 < bits n 29 20 ∨ 512 < bits n 9 0 then s
  else s.setRegN (balReg die 4) (n % 2 ^ 31)

end State

/-- BALCTL_WRITE (R372). -/
def execBalctlWrite (die : Nat) (val : W32) (s : State) : Host.Outcome State Fault Refusal :=
  if die < 4 then .next (s.writeBalctl die val) else .refused (.notDue "BALCTL_WRITE")

/-- BALANCER_STAND_MOVE (R283, R372): in manual mode the boundary stand begins to drain; a stand that has drained of the
side it leaves changes side. -/
def execBalancerStandMove (stand : Nat) (s : State) : Host.Outcome State Fault Refusal :=
  let die := standDie stand
  if 2048 ≤ stand then .refused (.notDue "BALANCER_STAND_MOVE")
  else
    match (s.die die).move with
    | none =>
      (match s.manualWant die with
        | some toG =>
          if s.canMove die toG && s.boundaryStand die toG == stand then .next (s.beginMove die toG)
          else .refused (.notDue "BALANCER_STAND_MOVE")
        | none => .refused (.notDue "BALANCER_STAND_MOVE"))
    | some (n, toG, o) =>
      let leaving (k : Nat) : Bool := (s.launch? k).any fun l => State.rendering l != toG
      let behind := (s.stand stand).pendingOwn.any fun p => decide (p.2 < o)
      if n = stand ∧ !s.standHolds stand leaving ∧ !behind ∧ s.canMove die toG then .next (s.finishMove die stand toG)
      else .refused (.notDue "BALANCER_STAND_MOVE")

/-- BALANCER_AUTO_TICK (R372): every 100 µs in AUTO mode the balancer compares the workgroups that wait, and begins a
move. -/
def execBalancerAutoTick (die : Nat) (s : State) : Host.Outcome State Fault Refusal :=
  if die < 4 ∧ bit (s.regN (balReg die 4)) 30 = true ∧ (s.die die).tick + 100000 ≤ s.gtc then
    let s := s.modDie die fun d => { d with tick := s.gtc }
    match s.autoWant die with
    | some toG => if (s.die die).move.isNone && s.canMove die toG then .next (s.beginMove die toG) else .next s
    | none => .next s
  else .refused (.notDue "BALANCER_AUTO_TICK")

/-! ### The partition block -/

namespace State

/-- A partition is enabled (R369). -/
def partEnabled (s : State) (part : Nat) : Bool := bit (s.regN (partReg part 0)) 0

/-- First key and key count of a partition. -/
def keyRange (s : State) (part : Nat) : Nat × Nat :=
  let c := s.regN (partReg part 0x10)
  (bits c 11 0, bits c 24 12)

/-- The key registers let a partition be enabled (R369). -/
def keysOk (s : State) (part : Nat) : Bool :=
  let (a, n) := s.keyRange part
  decide (a + n ≤ 4096) && s.keyAllotted part (s.regN (partReg part 0x14) % 4096) &&
    (List.range 64).all fun k => k == part || !s.partEnabled k ||
      (let (b, m) := s.keyRange k
       decide (a + n ≤ b) || decide (b + m ≤ a))

/-- A launch of a partition is placed, or queued: accepted, or in a queue still (R369). -/
def partBusy (s : State) (part : Nat) : Bool :=
  (s.launches.any fun l => l.2.part == part && (l.2.phase == .pending || l.2.phase == .running || l.2.phase == .dying ||
    l.2.phase == .preempting)) ||
  s.queues.any fun q => queuePart q.1 == part &&
    ((q.2.published.keys.any fun n => fieldOf (s.entryBytes q.1 n) 0 1 == 1) || q.2.waiting.any fun c => Cmd.op c == 1)

/-- A write of PCTL (R369). -/
def writePctl (s : State) (part : Nat) (v : W32) : State :=
  let on := v.getLsbD 0
  if on && !s.partEnabled part then (if s.keysOk part then s.setReg (partReg part 0) 1 else s)
  else if !on && s.partEnabled part then (if s.partBusy part then s else s.setReg (partReg part 0) 0)
  else s

/-- A write of EVCONS (R371): records that waited follow. -/
def writeEvcons (s : State) (part : Nat) (v : W32) : State := (s.setReg (partReg part 0x38) v).flushEvents part 257

/-- A write of EVCTL (R369): the size is fixed while EN is 1. -/
def writeEvctl (s : State) (part : Nat) (v : W32) : State :=
  let old := s.regN (partReg part 0x30)
  let size := bits (if bit old 0 then old else v.toNat) 12 8
  (s.setRegN (partReg part 0x30) (size * 256 + v.toNat % 2)).flushEvents part 257

/-- A write of CTRSELn (R395). -/
def writeCtrsel (s : State) (part idx : Nat) (v : W32) : State := s.setReg (partReg part (0x60 + 4 * idx)) (v &&& 0xFFFF)

/-- A write of PFLOGCONS (R393). -/
def writeLogCons (s : State) (v : W32) : State := (s.setReg (pfReg 0x10) v).flushLog (s.pkg.pfBuf.length + 1)

/-- Read a register that the read clears (R10). -/
def readClear (s : State) (off : Nat) : State := { s.setReg off 0 with busRead := s.reg off }

end State

/-- PCTL_WRITE (R369). -/
def execPctlWrite (part : Nat) (val : W32) (s : State) : Host.Outcome State Fault Refusal :=
  if part < 64 then .next (s.writePctl part val) else .refused (.notDue "PCTL_WRITE")

/-- DISCARD_READ (R369). -/
def execDiscardRead (part : Nat) (s : State) : Host.Outcome State Fault Refusal :=
  if part < 64 then .next (s.readClear (partReg part 0x40)) else .refused (.notDue "DISCARD_READ")

/-- EVCONS_WRITE (R371). -/
def execEvconsWrite (part : Nat) (val : W32) (s : State) : Host.Outcome State Fault Refusal :=
  if part < 64 then .next (s.writeEvcons part val) else .refused (.notDue "EVCONS_WRITE")

/-- PFLOGCONS_WRITE (R393). -/
def execPflogconsWrite (val : W32) (s : State) : Host.Outcome State Fault Refusal := .next (s.writeLogCons val)

/-- CTRSEL_WRITE (R395): the counts are left as they stand. -/
def execCtrselWrite (part idx : Nat) (val : W32) (s : State) : Host.Outcome State Fault Refusal :=
  if part < 64 ∧ idx < 16 then .next (s.writeCtrsel part idx val) else .refused (.notDue "CTRSEL_WRITE")

/-! ### Keys -/

namespace State

/-- A write of KEYCMD (R377): ignored while a command runs. -/
def writeKeycmd (s : State) (part : Nat) (v : W32) : State :=
  if bit (s.regN (partReg part 0x50)) 31 then s else s.setReg (partReg part 0x50) ((v &&& 0x3FFF) ||| 0x80000000)

/-- A key command of an operation is running: its index. -/
def keyCmd (s : State) (part op : Nat) : Option Nat :=
  let v := s.regN (partReg part 0x50)
  if part < 64 ∧ bit v 31 ∧ bits v 13 12 = op then some (bits v 11 0) else none

/-- A key slot holds another key from now on (R377, log 8). -/
def newKey (s : State) (key : Nat) : State :=
  { s with mem := { s.mem with keyGen := s.mem.keyGen.put key (s.mem.keyCount + 1), keyCount := s.mem.keyCount + 1 } }

/-- A key command has completed (R377); an index outside the partition's range has no effect. -/
def endKey (s : State) (part key : Nat) (f : State → State) : State :=
  let s := if s.keyAllotted part key then f s else s
  s.setReg (partReg part 0x50) (s.reg (partReg part 0x50) &&& 0x3FFF)

end State

/-- KEY_GENERATE (R377). -/
def execKeyGenerate (part : Nat) (s : State) : Host.Outcome State Fault Refusal :=
  match s.keyCmd part 0 with
  | some k => .next (s.endKey part k fun s => s.newKey k)
  | none => .refused (.notDue "KEY_GENERATE")

/-- KEY_INSTALL (R377, R379): the key the partition's session has delivered; without one there is no effect. -/
def execKeyInstall (part : Nat) (s : State) : Host.Outcome State Fault Refusal :=
  match s.keyCmd part 1 with
  | some k => .next (s.endKey part k fun s =>
      if (s.partition part).delivered.isSome then (s.newKey k).modPart part fun x => { x with delivered := none } else s)
  | none => .refused (.notDue "KEY_INSTALL")

/-- KEY_ERASE (R377); OP 3 completes here with no effect. -/
def execKeyErase (part : Nat) (s : State) : Host.Outcome State Fault Refusal :=
  match s.keyCmd part 2 with
  | some k => .next (s.endKey part k fun s => s.newKey k)
  | none =>
    match s.keyCmd part 3 with
    | some k => .next (s.endKey part k fun s => s)
    | none => .refused (.notDue "KEY_ERASE")

/-! ### The fabric -/

namespace State

/-- With no link left an access that is on its way to another package begins to wait for a route (R375). -/
def beginWaits (s : State) : State :=
  if !s.pkg.links.isEmpty then s else
  { s with ops := s.ops.map fun o => (o.1, { o.2 with parts := o.2.parts.map fun p => match p.place with
      | .remote _ => if p.phase == .queued then { p with key := s.gtc } else p
      | _ => p }) }

/-- A link leaves the spread (R373). -/
def linkDown (s : State) (l : Nat) : State :=
  ({ s with pkg := { s.pkg with links := s.pkg.links.remove l } }.setReg (linkReg l 0) (s.reg (linkReg l 0) &&& 0xFFFFFFFE)).beginWaits

/-- The package index a write of PKGLOST names. -/
def lostIndex (v : W32) : Nat := v.toNat % 1024

/-- A package is declared lost (R162, R375): accesses that wait for it complete as lost, and messages held for it are
discarded, both as far as their records have room (R359, R371). -/
def declareLost (s : State) (part : Nat) (v : W32) : State :=
  let pkg := lostIndex v
  let s := (s.setReg (partReg part 0x48) (v &&& 0x800003FF)).modPart part fun x => { x with lost := x.lost.add pkg }
  let s := s.loseParts fun _ o p => o.part == part && p.phase == .queued && !p.dropped && (match p.place with
    | .remote a => bits a 50 41 == pkg
    | _ => false)
  s.dropHeld

/-- Normal sending to a package is restored (R375). -/
def restoreLost (s : State) (part : Nat) (v : W32) : State :=
  { (s.setReg (partReg part 0x48) (v &&& 0x800003FF)).modPart part fun x => { x with lost := x.lost.remove (lostIndex v) } with
    routeWait := s.routeWait.filter fun k _ => k % 1024 != lostIndex v }

end State

/-- PKGLOST_DECLARE (R162, R375). -/
def execPkglostDeclare (part : Nat) (val : W32) (s : State) : Host.Outcome State Fault Refusal :=
  if part < 64 ∧ val.getLsbD 31 then .next (s.declareLost part val) else .refused (.notDue "PKGLOST_DECLARE")

/-- PKGLOST_RESTORE (R375). -/
def execPkglostRestore (part : Nat) (val : W32) (s : State) : Host.Outcome State Fault Refusal :=
  if part < 64 ∧ !val.getLsbD 31 then .next (s.restoreLost part val) else .refused (.notDue "PKGLOST_RESTORE")

/-- ELOA_LINK_DOWN (R373). -/
def execEloaLinkDown (link : Nat) (s : State) : Host.Outcome State Fault Refusal :=
  if s.pkg.links.has link then .next (s.linkDown link) else .refused (.notDue "ELOA_LINK_DOWN")

/-- ELOA_LINK_UP (R373): a link trains with a peer and joins the spread, unless it has been fenced (R385). -/
def execEloaLinkUp (link peer : Nat) (s : State) : Host.Outcome State Fault Refusal :=
  if link < 18 ∧ peer < 1024 ∧ !s.pkg.links.has link ∧ !s.pkg.fences.has (State.unitNo 0xD link) then
    .next ({ s with pkg := { s.pkg with links := s.pkg.links.add link }, routeWait := [] }.setRegN (linkReg link 0) (3 + peer * 1024))
  else .refused (.notDue "ELOA_LINK_UP")

/-- FLIT_CRC_REPLAY (R373). -/
def execFlitCrcReplay (link : Nat) (s : State) : Host.Outcome State Fault Refusal :=
  if s.pkg.links.has link then .next (s.bumpReg (linkReg link 4) 1) else .refused (.notDue "FLIT_CRC_REPLAY")

/-- LNKREPLAY_READ (R373). -/
def execLnkreplayRead (link : Nat) (s : State) : Host.Outcome State Fault Refusal :=
  if link < 18 then .next (s.readClear (linkReg link 4)) else .refused (.notDue "LNKREPLAY_READ")

/-! ### Collectives -/

/-- Formats a collective takes (R376). -/
def collFormats : List Nat := [0x00, 0x01, 0x02, 0x03, 0x0E, 0x0F, 0x13, 0x14]

/-- The combination of two elements in an all-reduce (R376). -/
def collCombine (red f a b : Nat) : Nat :=
  match intFmt f with
  | some (w, signed) =>
    let less := if signed then decide (signExt w a < signExt w b) else decide (a < b)
    if red = 0 then (a + b) % 2 ^ w else if (red = 1) = (less = true) then a else b
  | none => if red = 0 then (fltArith .fadd f 1 0 a b 0).1 else (fltMinMax (red == 2) f a b).1

/-- One level of the tree: neighbours are combined, an odd one passes up. -/
def pairUp (f : Nat → Nat → Nat) : List Nat → List Nat
  | a :: b :: r => f a b :: pairUp f r
  | l => l

/-- A binary tree over elements in their order (R376). -/
def reduceTree (f : Nat → Nat → Nat) : Nat → List Nat → Nat
  | 0, l => l.headD 0
  | n + 1, l => if l.length ≤ 1 then l.headD 0 else reduceTree f n (pairUp f l)

namespace State

/-- A collective that has read its descriptor: its run number and status, then the descriptor and mask as words. -/
structure Coll where
  run : Nat
  status : Nat
  desc : List Byte
  mask : List Byte

/-- The words a busy engine keeps (R376). -/
def Coll.words (c : Coll) (addr : W64) : List W64 :=
  addr :: BitVec.ofNat 64 c.run :: BitVec.ofNat 64 c.status ::
    (List.range 24).map fun k => BitVec.ofNat 64 (fieldOf (c.desc ++ c.mask) (8 * k) 8)

/-- Read back what a busy engine keeps; none before its descriptor has been read. -/
def collOf : List W64 → Option Coll
  | _ :: run :: st :: ws =>
    let b := ws.flatMap fun w => bytesOfNat 8 w.toNat
    some { run := run.toNat, status := st.toNat, desc := b.take 64, mask := b.drop 64 }
  | _ => none

namespace Coll

/-- OP, RED and format. -/
def head (c : Coll) : Nat := fieldOf c.desc 0 4
/-- OP. -/
def op (c : Coll) : Nat := bits c.head 3 0
/-- RED. -/
def red (c : Coll) : Nat := bits c.head 7 4
/-- The format number. -/
def fmt (c : Coll) : Nat := bits c.head 12 8
/-- COUNT. -/
def count (c : Coll) : Nat := fieldOf c.desc 4 4
/-- SRC. -/
def src (c : Coll) : Nat := fieldOf c.desc 8 8
/-- DST. -/
def dst (c : Coll) : Nat := fieldOf c.desc 0x10 8
/-- MEMBERS. -/
def members (c : Coll) : Nat := fieldOf c.desc 0x18 8
/-- SIGNAL. -/
def signal (c : Coll) : Nat := fieldOf c.desc 0x20 8
/-- SEQ. -/
def seq (c : Coll) : Nat := fieldOf c.desc 0x28 8
/-- Package indices of the mask, rising. -/
def indices (c : Coll) : List Nat := (List.range 1024).filter fun i => (c.mask.getD (i / 8) 0).getLsbD (i % 8)
/-- Bytes an element takes. -/
def elemBytes (c : Coll) : Nat := fmtBits c.fmt / 8

/-- The descriptor's fields are well formed (R376). -/
def headOk (c : Coll) : Bool :=
  (c.op == 1 || c.op == 2) && decide (c.red ≤ 2) && (c.op == 1 || c.red == 0) && collFormats.contains c.fmt && c.head / 2 ^ 13 == 0 &&
    decide (1 ≤ c.count) && decide (c.count ≤ 16777216) && c.members % 128 == 0 && c.signal % 8 == 0 && fieldOf c.desc 0x30 16 == 0 &&
    regionOf c.members == .translated

end Coll

/-- A doorbell's descriptor is read, and its mask (R376): what the engine keeps, or what stands in the way. -/
def collRead (s : State) (part addr : Nat) : Coll × Option (LocRes × Need) :=
  match s.unitStuck part [(addr, 64, { r := true })] with
  | some e => ({ run := 0, status := 0, desc := [], mask := [] }, some e)
  | none =>
    let (b, bad) := s.unitRead part addr 64
    let c : Coll := { run := s.nextId, status := 0, desc := b, mask := [] }
    if !c.headOk || bad.any id then ({ c with status := 3, mask := List.replicate 128 0 }, none)
    else
      match s.unitStuck part [(c.members, 128, { r := true })] with
      | some e => (c, some e)
      | none =>
        let (m, bad) := s.unitRead part c.members 128
        let c := { c with mask := m }
        (if bad.any id || !c.indices.contains (s.pkgId % 1024) then { c with status := 3 } else c, none)

/-- A collective engine reads its descriptor and mask once, at the doorbell (R376). A descriptor that cannot be one, at no
64-byte boundary of translated memory, names no signal, and the engine is free again. -/
def collStart (s : State) (part engine : Nat) (gather : Bool) (name : String) : Host.Outcome State Fault Refusal :=
  let key := collKey part engine
  match s.collectives.get? key with
  | some [a] =>
    if a.toNat % 64 ≠ 0 ∨ regionOf a.toNat ≠ .translated then
      if gather then .refused (.notDue name) else .next { s with collectives := s.collectives.del key }
    else
      (match s.collRead part a.toNat with
        | (_, some e) => (match s.unitHold part e with
          | some t => .next t
          | none => .refused (.notDue name))
        | (c, none) =>
          if (c.op == 2) != gather then .refused (.notDue name)
          else
            let s := s.fresh.2.unitReads part ((a.toNat, 64) :: if c.headOk then [(c.members, 128)] else [])
            .next { s with collectives := s.collectives.put key (c.words a) })
  | _ => .refused (.notDue name)

/-- Element j that a member contributes: its own package's from SRC, another's a free value (R376, log 45). -/
def collElem (s : State) (c : Coll) (own : List Byte) (m j : Nat) : Nat :=
  if m = s.pkgId % 1024 then fieldOf own (j * c.elemBytes) c.elemBytes
  else Config.memberElem c.run m j % 2 ^ fmtBits c.fmt

/-- The bytes a collective writes to DST, with their poison (R376). -/
def collResult (s : State) (c : Coll) (own : List Byte) (bad : List Bool) : List Byte × List Bool :=
  let n := c.elemBytes
  let hurt (j : Nat) : List Bool := List.replicate n ((List.range n).any fun k => bad.getD (j * n + k) false)
  if c.op = 2 then
    (c.indices.flatMap fun m => (List.range c.count).flatMap fun j => bytesOfNat n (s.collElem c own m j),
      c.indices.flatMap fun m => (List.range c.count).flatMap fun j =>
        if m = s.pkgId % 1024 then hurt j else List.replicate n false)
  else
    ((List.range c.count).flatMap fun j =>
        bytesOfNat n (reduceTree (collCombine c.red c.fmt) 11 (c.indices.map fun m => s.collElem c own m j)),
      (List.range c.count).flatMap hurt)

/-- The accesses the end of a collective makes. -/
def collNeeds (c : Coll) (status : Nat) : List (Nat × Nat × Need) :=
  let sig : List (Nat × Nat × Need) := if c.signal % 8 = 0 then [(c.signal, 8, { w := true })] else []
  let n := c.count * c.elemBytes
  if status = 0 then (c.src, n, { r := true }) :: (c.dst, if c.op = 2 then n * c.indices.length else n, { w := true }) :: sig
  else sig

/-- A collective ends: the result, then SIGNAL (R376). -/
def collEnd (s : State) (part engine : Nat) (c : Coll) (status : Nat) : State :=
  let n := c.count * c.elemBytes
  let s := if status = 0 then
      let (own, bad) := s.unitRead part c.src n
      let (bs, qs) := s.collResult c own bad
      (s.unitReads part [(c.src, n)]).unitPut part c.dst bs qs
    else s
  let s := if c.signal % 8 = 0 then s.unitPut part c.signal (bytesOfNat 8 (c.seq * 256 + status)) else s
  { s with collectives := s.collectives.del (collKey part engine) }

end State

/-- COLLECTIVE_ALL_REDUCE (R376): a doorbell's engine reads a descriptor that names an all-reduce, or no operation. -/
def execCollectiveAllReduce (part engine : Nat) (s : State) : Host.Outcome State Fault Refusal :=
  s.collStart part engine false "COLLECTIVE_ALL_REDUCE"

/-- COLLECTIVE_ALL_GATHER (R376). -/
def execCollectiveAllGather (part engine : Nat) (s : State) : Host.Outcome State Fault Refusal :=
  s.collStart part engine true "COLLECTIVE_ALL_GATHER"

/-- The key of the wait of a collective engine for a route to a member. -/
def State.collWait (part engine m : Nat) : Nat := (64 + 16 * part + engine) * 1024 + m

/-- COLLECTIVE_SIGNAL (R376): every member has joined, or one is lost, which a member is when no route has reached it for 50 µs
(R375): the step first begins that wait. An engine number of 16 or more says that the other
packages' descriptors disagree with this one (log 45). -/
def execCollectiveSignal (part engine : Nat) (s : State) : Host.Outcome State Fault Refusal :=
  match (s.collectives.get? (State.collKey part (engine % 16))).bind State.collOf with
  | none => .refused (.notDue "COLLECTIVE_SIGNAL")
  | some c =>
    let others := c.indices.filter fun m => m != s.pkgId % 1024
    let keys := others.map (State.collWait part (engine % 16))
    let away := s.pkg.links.isEmpty && !others.isEmpty
    let gone := away && keys.any s.routeOver
    let status := if c.status = 3 then 3
      else if gone || others.any (s.partition part).lost.has then 2
      else if 16 ≤ engine ∧ !others.isEmpty then 1 else 0
    if status < 2 ∧ away then
      if keys.any fun k => !s.routeBegun k then
        .next { s with routeWait := keys.foldl (fun (t : Table (Nat × Bool)) k => if s.routeBegun k then t else t.put k (s.gtc, false)) s.routeWait }
      else .refused (.notDue "COLLECTIVE_SIGNAL")
    else
      match s.unitStuck part (State.collNeeds c status) with
      | none =>
        let s := s.collEnd part (engine % 16) c status
        .next { s with routeWait := s.routeWait.filter fun k _ => !keys.contains k }
      | some e => match s.unitHold part e with
        | some t => .next t
        | none => .refused (.notDue "COLLECTIVE_SIGNAL")

/-! ### Boot and attestation -/

namespace State

/-- BOOTSTAT (R378). -/
def bootReg : Nat := 0x6000000

/-- The state of the boot (R378). -/
def bootState (s : State) : Nat := s.regN bootReg % 16

/-- The memories are trained: every SRAM and its poison bits are clear (R378): local memories, L1s, the registers of threads and
waves, tile registers and accumulators. -/
def clearSram (s : State) : State :=
  { s with
    mem := { s.mem with loc := [], locPoison := [] }
    stands := s.stands.map fun x => (x.1, { x.2 with l1 := [] })
    threads := s.threads.map fun x => (x.1, { x.2 with g := [], p := [], mb := [], k := [] })
    slots := s.slots.map fun x => (x.1, { x.2 with k := [], m := [], acc := [] }) }

/-- The next step of the boot (R364, R373, R378): CXL sizes come from enumeration, the package identifier from firmware. -/
def bootStep (s : State) (size0 size1 id : Nat) : State :=
  match s.bootState with
  | 0 => s.setReg bootReg 1
  | 1 => s.clearSram.setReg bootReg 2
  | 2 => (((s.setRegN (cxlReg 0 8) size0).setRegN (cxlReg 1 8) size1).setRegN pkgidReg (id % 2 ^ 22)).setReg bootReg 3
  | _ => s.setReg bootReg 4

/-- A write of PROVISION in RECOVERY (R378): the ROM starts over with the image that stands in the staging window. -/
def writeProvision (s : State) (v : W32) : State :=
  if s.bootState = 8 ∧ v = 1 then { s with pkg := { s.pkg with image := s.pkg.staging } }.setReg bootReg 0 else s

/-- The host writes the staging window, which takes an image in RECOVERY alone (R378; log 156). -/
def stage (s : State) (off : Nat) (bs : List Byte) : State :=
  if s.bootState = 8 then { s with pkg := { s.pkg with staging := s.pkg.staging.write off bs } } else s

/-- What a measurement block of a partition measures (R379): its index, and for the image, the partition configuration and a
partition's kernels what they are. -/
def measured (s : State) (part idx : Nat) : List Nat :=
  idx :: (if idx = 2 then s.pkg.image.flatMap fun c => [c.1, c.2.toNat]
    else if idx = 4 then
      ((List.range 64).flatMap fun k => [s.regN (partReg k 0), s.regN (partReg k 0x10)]) ++
        (List.range 2048).map fun n => s.regN (standownReg n)
    else if idx = 0x10 + part then
      s.reg64 (partReg part 8) :: (s.partition part).kernels.flatMap fun d => d.map BitVec.toNat
    else [])

/-- The measurement blocks of a partition's reply (R379). -/
def measurements (s : State) (part : Nat) : List W64 :=
  [1, 2, 3, 4, 0x10 + part].flatMap fun idx => (List.range 8).map fun j => Config.digest (s.measured part idx) j

/-- Words of a reply (R379). -/
def spdmReply (s : State) (req part n : Nat) : State :=
  let (k, s) := s.fresh
  { s with spdmOut := s.spdmOut ++ [(req, part, (List.range n).map fun j => Config.spdmWord k j)] }

/-- Answer a request of a partition's session (R379) with a response of this code: from a step on, and leading to another; out of
its order it is answered with an error (log 15). -/
def spdm (s : State) (req part need next n : Nat) (name : String) : Host.Outcome State Fault Refusal :=
  if 64 ≤ part then .refused (.notDue name)
  else if (s.partition part).spdm < need then .next (s.spdmReply 0x7F part 1)
  else .next ((s.spdmReply req part n).modPart part fun x => { x with spdm := if next = 0 then x.spdm else next })

end State

/-- POWER_ON_BOOT (R364, R373, R378): one step of the boot; `fail` is a failure code, 0 for none, the sizes are those of the
CXL ports in GiB, `id` the package identifier. -/
def execPowerOnBoot (fail size0 size1 id : Nat) (s : State) : Host.Outcome State Fault Refusal :=
  if 4 ≤ s.bootState ∨ 256 ≤ fail ∨ 2048 < size0 ∨ 2048 < size1 then .refused (.notDue "POWER_ON_BOOT")
  else if fail = 0 then .next (s.bootStep size0 size1 id)
  else .next (s.setRegN State.bootReg (8 + fail * 256))

/-- PROVISION_WRITE (R378). -/
def execProvisionWrite (val : W32) (s : State) : Host.Outcome State Fault Refusal := .next (s.writeProvision val)

/-- GET_VERSION (R379): begins a session's exchange anew. -/
def execGetVersion (part : Nat) (s : State) : Host.Outcome State Fault Refusal := s.spdm 0x04 part 0 1 1 "GET_VERSION"

/-- GET_CAPABILITIES (R379). -/
def execGetCapabilities (part : Nat) (s : State) : Host.Outcome State Fault Refusal := s.spdm 0x61 part 1 2 1 "GET_CAPABILITIES"

/-- NEGOTIATE_ALGORITHMS (R379). -/
def execNegotiateAlgorithms (part : Nat) (s : State) : Host.Outcome State Fault Refusal :=
  s.spdm 0x63 part 2 3 1 "NEGOTIATE_ALGORITHMS"

/-- GET_DIGESTS (R379). -/
def execGetDigests (part : Nat) (s : State) : Host.Outcome State Fault Refusal := s.spdm 0x01 part 3 0 8 "GET_DIGESTS"

/-- GET_CERTIFICATE (R379). -/
def execGetCertificate (part : Nat) (s : State) : Host.Outcome State Fault Refusal := s.spdm 0x02 part 3 0 1 "GET_CERTIFICATE"

/-- CHALLENGE (R379). -/
def execChallenge (part : Nat) (s : State) : Host.Outcome State Fault Refusal := s.spdm 0x03 part 3 0 1 "CHALLENGE"

/-- GET_MEASUREMENTS (R379): five blocks of 64 bytes, the last of the partition itself. -/
def execGetMeasurements (part : Nat) (s : State) : Host.Outcome State Fault Refusal :=
  if 64 ≤ part then .refused (.notDue "GET_MEASUREMENTS")
  else if (s.partition part).spdm < 3 then .next (s.spdmReply 0x7F part 1)
  else .next { s with spdmOut := s.spdmOut ++ [(0x60, part, s.measurements part)] }

/-- KEY_EXCHANGE (R379). -/
def execKeyExchange (part : Nat) (s : State) : Host.Outcome State Fault Refusal := s.spdm 0x64 part 3 4 1 "KEY_EXCHANGE"

/-- FINISH (R379): the secure session is open. -/
def execFinish (part : Nat) (s : State) : Host.Outcome State Fault Refusal := s.spdm 0x65 part 4 5 1 "FINISH"

/-- WRAPPED_KEY_DELIVERY (R379): an open session delivers a wrapped key, one at a time. -/
def execWrappedKeyDelivery (part : Nat) (s : State) : Host.Outcome State Fault Refusal :=
  if part < 64 ∧ (s.partition part).spdm = 5 then
    if (s.partition part).delivered.isSome then .next (s.spdmReply 0x7F part 1)
    else .next ((s.spdmReply 0x7E part 1).modPart part fun x => { x with delivered := some s.nextId })
  else .refused (.notDue "WRAPPED_KEY_DELIVERY")

end Sys2Proof.Machine
end

