-- ==== Sys2Proof/Machine/Bar0.lean ====
section
/-!
DEFINITION. A write of any memory-mapped register through the physical or a virtual function (00 R10, R11; 18 R329; 19 R348, R364; 20
R369-R373, R377, R378; 22 R393, R395, R397): reserved bits stay zero, read-only registers keep their value, and a register
whose write has an effect of its own takes it.
-/

namespace Sys2Proof.Machine

namespace State

/-- Write the bits of a mask. -/
def setMasked (s : State) (off mask : Nat) (v : W32) : State := s.setReg off (v &&& BitVec.ofNat 32 mask)

/-- Clear the bits written as one (R10). -/
def clearOnes (s : State) (off : Nat) (v : W32) : State := s.setReg off (s.reg off &&& ~~~v)

/-- A write of a plain register of a translation block (R348). -/
def transWrite (s : State) (part o : Nat) (v : W32) : State :=
  let r := transReg part
  let ptOn := bit (s.regN (r 8)) 0
  let fqOn := bit (s.regN (r 0x18)) 0
  match o with
  | 0x00 => if ptOn then s else s.setMasked (r 0) 0xFFFFF000 v
  | 0x04 => if ptOn then s else s.setMasked (r 4) 0x1FFF v
  | 0x08 => s.setRegN (r 8) (bits (if ptOn then s.regN (r 8) else v.toNat) 12 8 * 256 + v.toNat % 2)
  | 0x10 => if fqOn then s else s.setMasked (r 0x10) 0xFFFFFFC0 v
  | 0x14 => if fqOn then s else s.setReg (r 0x14) v
  | 0x24 => s.clearOnes (r 0x24) v
  | 0x30 => s.setMasked (r 0x30) 0xFFFF0000 v
  | 0x34 => s.setMasked (r 0x34) 0x1FFFFFF v
  | 0x40 => s.setMasked (r 0x40) 0xFFFF0000 v
  | 0x44 => s.setMasked (r 0x44) 0x1FFFFFF v
  | 0x48 => s.setMasked (r 0x48) 0xFFFF0000 v
  | 0x4C => s.setMasked (r 0x4C) 0x1FFF v
  | 0x54 => s.clearOnes (r 0x54) v
  | _ => s

/-- A write of a register of a CXL port's block (R364): a timeout of 0 leaves that field. -/
def cxlWrite (s : State) (port o : Nat) (v : W32) : State :=
  match o with
  | 0x00 =>
    let t := if v.toNat % 1024 = 0 then s.regN (cxlReg port 0) % 1024 else v.toNat % 1024
    s.setRegN (cxlReg port 0) (bits v.toNat 16 16 * 65536 + t)
  | 0x04 => s.clearOnes (cxlReg port 4) v
  | _ => s

/-- A write of a register of a partition's control block (R369, R371, R377, R395). -/
def partWrite (s : State) (part o : Nat) (v : W32) : State :=
  let r := partReg part
  let on := s.partEnabled part
  let evOn := bit (s.regN (r 0x30)) 0
  match o with
  | 0x00 => s.writePctl part v
  | 0x08 => if on then s else s.setMasked (r 8) 0xFFFF8000 v
  | 0x0C => if on then s else s.setReg (r 0xC) v
  | 0x10 => if on then s else s.setMasked (r 0x10) 0x1FFFFFF v
  | 0x14 => if on then s else s.setMasked (r 0x14) 0xFFF v
  | 0x18 => if on then s else s.setMasked (r 0x18) 0xFFFF0000 v
  | 0x1C => if on then s else s.setReg (r 0x1C) v
  | 0x20 => if on then s else s.setReg (r 0x20) v
  | 0x28 => if evOn then s else s.setMasked (r 0x28) 0xFFFFFFE0 v
  | 0x2C => if evOn then s else s.setReg (r 0x2C) v
  | 0x30 => s.writeEvctl part v
  | 0x38 => s.writeEvcons part v
  | 0x44 => s.setRegN (r 0x44) (bits (if on then s.regN (r 0x44) else v.toNat) 6 1 * 2 + v.toNat % 2)
  | 0x48 => if v.getLsbD 31 then s.declareLost part v else s.restoreLost part v
  | 0x50 => s.writeKeycmd part v
  | _ => if 0x60 ≤ o ∧ o < 0xA0 ∧ o % 4 = 0 then s.writeCtrsel part ((o - 0x60) / 4) v else s

/-- A write of PWRMODE (R397, R399): another mode than the one in force takes effect at each engine's next run boundary, where its
clock relocks. -/
def writePwrmode (s : State) (v : W32) : State :=
  let s := s.setMasked (powerReg 0) 3 v
  if s.regN (powerReg 0) = s.regN (powerReg 4) % 4 ∧ !s.relocks then s
  else
    let inside := (s.engines.filter fun _ e => e.run.isSome).keys
    { s with pkg := { s.pkg with relocking := true, oldMode := inside } }.orReg (powerReg 4) 4

/-- A write of a register outside the repeated blocks (R373, R378, R393, R397). -/
def loneWrite (s : State) (off : Nat) (v : W32) : State :=
  if off = pkgidReg then (if s.bootState = 4 then s else s.setMasked pkgidReg 0x3FFFFF v)
  else if off = 0x6000004 then s.writeProvision v
  else if off = pfReg 0 then s.setMasked (pfReg 0) 0xFFFFFFE0 v
  else if off = pfReg 4 then s.setReg (pfReg 4) v
  else if off = pfReg 8 then (s.setMasked (pfReg 8) 0x1F01 v).flushLog (s.pkg.pfBuf.length + 1)
  else if off = pfReg 0x10 then s.writeLogCons v
  else if off = powerReg 0 then s.writePwrmode v
  else s

end State

/-- A write of 32 bits through the physical function (R10, R11). -/
def physicalWrite (off : Nat) (val : W32) (s : State) : Host.Outcome State Fault Refusal :=
  if 0x100000 ≤ off ∧ off < 0x1100000 then .next (s.queueWrite ((off - 0x100000) / 0x1000) (off % 0x1000) val)
  else if 0x2000000 ≤ off ∧ off < 0x2040000 then
    let part := (off - 0x2000000) / 0x1000
    match off % 0x1000 with
    | 0x18 => execFqctlWrite part val s
    | 0x20 => execFqconsWrite part val s
    | 0x28 => execFreplayWrite part val s
    | 0x2C => execFcancelWrite part val s
    | 0x38 => execInvctlStart part val s
    | 0x50 => execMigctlStart part val s
    | o => .next (s.transWrite part o val)
  else if 0x3000000 ≤ off ∧ off < 0x3000200 then .next (s.cxlWrite ((off - 0x3000000) / 0x100) (off % 0x100) val)
  else if 0x3800000 ≤ off ∧ off < 0x3802000 ∧ off % 4 = 0 then .next (s.writeStandown ((off - 0x3800000) / 4) val)
  else if 0x3810000 ≤ off ∧ off < 0x3810040 then
    .next (if off % 0x10 = 4 then s.writeBalctl ((off - 0x3810000) / 0x10) val else s)
  else if 0x4000000 ≤ off ∧ off < 0x4040000 then .next (s.partWrite ((off - 0x4000000) / 0x1000) (off % 0x1000) val)
  else .next (s.loneWrite off val)

/-- Whether virtual function k + 1 writes an offset: its queue blocks and its translation block, and of its control block
EVCONS, PKGLOST and KEYCMD alone (R369). -/
def virtualMay (k off : Nat) : Bool :=
  decide (queueReg (64 * k) 0 ≤ off ∧ off < queueReg (64 * k + 64) 0) ||
  decide (transReg k 0 ≤ off ∧ off < transReg k 0x1000) ||
  off == partReg k 0x38 || off == partReg k 0x48 || off == partReg k 0x50

/-- REGISTER_WRITE (R10, R11, R369): a write of 32 bits at a BAR0 offset, through the physical function below 2^32; through
virtual function n at n x 2^32 and above, which reaches its own partition n - 1 only (log 99). -/
def execRegisterWrite (off : Nat) (val : W32) (s : State) : Host.Outcome State Fault Refusal :=
  if off < 2 ^ 32 then physicalWrite off val s
  else if off / 2 ^ 32 ≤ 64 then
    if virtualMay (off / 2 ^ 32 - 1) (off % 2 ^ 32) then physicalWrite (off % 2 ^ 32) val s else .next s
  else .refused (.notDue "REGISTER_WRITE")

end Sys2Proof.Machine
end

