-- ==== Sys2Proof/Machine/Convert.lean ====
section
/-!
DEFINITION. Conversions and grain tests (07 R181-R184): majors 0x80-0x83.
-/

namespace Sys2Proof.Machine

/-- CVT: the source value rounded once to the target (R181). -/
def cvtSem : Sem :=
  { act := fun i _ => perFlags fun t s =>
      let sf := i.minor % 32
      let df := i.x % 32
      let v := decodeVal sf (s.fltA i t sf)
      let (m, us, s) := s.rounding t i.hint 1
      let (r, fl) := roundVal df m (us.headD 0) v
      (s.writeD t i (elemWrite df r), fl) }

/-- GCVT's exact scaled value (R182): an unreal source stays unreal whatever the scale. -/
def gcvtValue (sf a scale : Nat) : Val × FFlags :=
  match decodeVal sf a with
  | .unreal => (.unreal, {})
  | v => Val.mul v (decodeVal 1 scale)

/-- GCVT (R182). -/
def gcvtSem : Sem :=
  { act := fun i _ => perFlags fun t s =>
      let sf := i.minor % 32
      let df := i.x % 32
      let (v, f1) := gcvtValue sf (s.fltA i t sf) (s.wordB t i).toNat
      let (m, us, s) := s.rounding t i.hint 1
      let (r, f2) := roundVal df m (us.headD 0) v
      (s.writeD t i (elemWrite df r), f1.or f2) }

/-- GCMP: words compare as signed integers of the format's width (R101, R183). -/
def gcmpSem : Sem :=
  { act := fun i _ ts s => ts.foldl (fun s t =>
      let n := fmtBits i.ty
      let a := signExt n (s.fltA i t i.ty)
      let b := signExt n (s.fltB i t i.ty)
      s.writeDP [t] i (match i.minor with
        | 0 => a == b
        | 1 => a != b
        | 2 => decide (a < b)
        | 3 => decide (a ≤ b)
        | 4 => decide (b < a)
        | _ => decide (b ≤ a))) s }

/-- The class mask of a grain word (R184). -/
def grainClass (n a : Nat) : Nat :=
  let v := signExt n a
  let unreal := a == 2 ^ (n - 1)
  let big := v.natAbs == 2 ^ (n - 1) - 1
  unreal.toNat + 2 * (!unreal && decide (v < 0)).toNat + 4 * (v == 0).toNat + 8 * (decide (0 < v)).toNat +
    16 * big.toNat + 32 * (v.natAbs == 1).toNat

/-- GCLASS (R184). -/
def gclassSem : Sem :=
  { act := fun i _ ts s => ts.foldl (fun s t => s.writeD t i (grainClass (fmtBits i.ty) (s.fltA i t i.ty))) s }

/-- CVT (R181). -/
def execCvt (w : X96) (s : State) : Host.Outcome State Fault Refusal := issue cvtSem (w.ins .cvt) s

/-- GCVT (R182). -/
def execGcvt (w : X96) (s : State) : Host.Outcome State Fault Refusal := issue gcvtSem (w.ins .gcvt) s

/-- GCMP (R183). -/
def execGcmp (w : X96) (s : State) : Host.Outcome State Fault Refusal := issue gcmpSem (w.ins .gcmp) s

/-- GCLASS (R184). -/
def execGclass (w : X96) (s : State) : Host.Outcome State Fault Refusal := issue gclassSem (w.ins .gclass) s

end Sys2Proof.Machine
end

