-- ==== Sys2Proof/Machine/Preempt.lean ====
section
/-!
DEFINITION. Pre-emption and restoring (18 R338-R341; 05 R131; 06 R154, R155, R163, R167; 08 R205, R220; 09 R242; 10 R263;
11 R280; 12 R292; 16 R311).
-/

namespace Sys2Proof.Machine

namespace State

/-! ### When a launch can be saved -/

/-- No run of a launch is in progress (R15, R338); task threads are about to be aborted. -/
def runsEnded (s : State) (k : Nat) : Bool :=
  s.engines.all fun e => match e.2.run with
    | some r => r.members.all fun t => (s.thread? t).all fun th => th.launch != k || th.taskOf.isSome
    | none => true

/-- Every load and atomic of a launch's threads has returned, and every ACC.MOV, special function and wave maximum; of a thread that
has halted, every load of a row (R179, R205, R242). The load a parked thread is parked at has not issued, and is replayed; those it
issued before return like any other (DEDUCED, log 147). -/
def loadsReturned (s : State) (k : Nat) : Bool :=
  let mine (t : Nat) : Bool := (s.thread? t).any fun th => th.launch == k && th.taskOf.isNone
  (s.ops.all fun o => o.2.orphan || o.2.kind == .store || !(mine o.2.tid || (o.2.inRow && o.2.launch == k))) &&
    s.producers.all fun p => match p.2 with
      | .special t .. | .laneMax t .. | .accMov t .. => !mine t
      | .qxmax .. => true

/-- Everything a launch's pre-emption waits for has come to its end (R205, R220, R242, R263, R280, R292). -/
def savable (s : State) (k : Nat) : Bool :=
  s.runsEnded k && s.loadsReturned k && !s.drains k && s.batches.all (fun b => b.2.launch != k) &&
    s.tasks.all (fun t => t.2.launch != k || t.2.phase != .committing) &&
    s.clusters.all fun c => c.2.rings.all fun r => r.2.all fun x => x.launch != k || s.cmdAtLine c.1 x

/-! ### The save area -/

/-- Workgroups of a launch that are placed and not retired. -/
def heldWgs (l : Launch) : Table Workgroup := l.wgs.filter fun _ w => w.placed && !w.retired

/-- Bytes a launch needs in the pool (R339): reserved contexts are in use (R40), and a placed wave that still waits needs no
saved state (R43). -/
def saveBytes (s : State) (k : Nat) (l : Launch) : Nat :=
  let wg (w : Nat) : Nat :=
    let ctx := (s.threads.filter fun _ th => th.launch == k && th.wg == w && (match th.home with
      | .scalar _ _ => true
      | _ => false)).length
    let kept := s.cores.foldl (fun n c => n + (c.2.reserved.filter fun _ r => r.1 == k && r.2.1 == w).length) 0
    let waves := (s.slots.filter fun _ x => x.launch == k && x.wg == w).length +
      s.stands.foldl (fun n x => n + (x.2.waveQ.filter fun y => y.launch == k && y.wg == w && y.engine.isNone).length) 0
    65536 + 5120 * (ctx + kept) + waves * (l.r.grant + 17408) + l.r.spill * 1024
  let dies := if l.r.scene = 0 then 0 else ((List.range 4).filter fun d => decide (0 < l.r.streamCount d)).length
  4096 + (heldWgs l).foldl (fun n w => n + wg w.1) 0 + 65536 * dies

/-- Where a save area of some bytes fits in a queue's pool: at its base or behind another area (R339). -/
def saveArea (s : State) (q bytes : Nat) : Option Nat :=
  let base := s.reg64 (queueReg q 0x28)
  let top := base + 65536 * s.regN (queueReg q 0x30)
  let size := (bytes + 65535) / 65536 * 65536
  let ends := s.saved.map fun x => x.1 + (x.2.bytes + 65535) / 65536 * 65536
  (sortBy id (base :: ends)).find? fun a => decide (base ≤ a) && decide (a + size ≤ top) &&
    s.saved.all fun x => decide (a + size ≤ x.1) || decide (x.1 + (x.2.bytes + 65535) / 65536 * 65536 ≤ a)

/-- The header of a save area (R340). -/
def saveHeader (l : Launch) (bytes : Nat) : List Byte :=
  bytesOfNat 8 0x4C59535600000001 ++ bytesOfNat 8 bytes ++ bytesOfNat 4 l.id ++ bytesOfNat 4 1 ++ bytesOfNat 8 0 ++
    List.replicate 0xE0 0 ++ recordBytes l.record

/-! ### Saving -/

/-- A thread as it is saved (R131, R154, R163, R354): a held ray or task is started over. -/
def savedThread (th : Thread) : Thread :=
  { th with
    carry := false, lastPage := none
    held := match th.held with
      | .spawning _ _ | .record _ _ => .none
      | h => h }

/-- Scalar contexts a launch holds: running or reserved. -/
def heldContexts (s : State) (k : Nat) : List (Nat × Nat) :=
  (s.threads.filterMap fun e => if e.2.launch != k then none else match e.2.home with
    | .scalar c x => some (c, x)
    | _ => none) ++
  s.cores.flatMap fun c => (c.2.reserved.filter fun _ r => r.1 == k).map fun r => (c.1, r.1)

/-- The private area of a context: its bytes and poisoned words by their place in the core's memory (R60). -/
def savedArea (s : State) (c x : Nat) : Memory × NatSet :=
  let lo := locKey c (0x400 + x * 0x1000)
  let inside (a : Nat) : Bool := decide (lo ≤ a) && decide (a < lo + 0x1000)
  ((s.mem.loc.filter fun b => inside b.1).map fun b => (b.1 - locKey c 0, b.2),
    (s.mem.locPoison.filter fun w => inside (4 * w)).map fun w => w - locKey c 0 / 4)

/-- What of a launch is saved (R338, R341). -/
def saveOf (s : State) (k : Nat) (l : Launch) (bytes : Nat) : Saved :=
  let mine := s.threads.filter fun _ th => th.launch == k
  let ctxs := s.heldContexts k
  let cores := (ctxs.map (·.1)).eraseDups
  let clusters := (cores.map coreCluster).eraseDups
  let slots := s.slots.filter fun _ x => x.launch == k
  { launch := k, queue := l.queue, bytes := bytes, header := saveHeader l bytes, gtc := s.gtc, arith := s.clock.arith
    wgs := heldWgs l, threads := mine.map fun e => (e.1, savedThread e.2), slots := slots
    pockets := s.stands.flatMap fun x => (x.2.pockets.filter fun _ p => p.launch == k).map fun p => (x.1, p.2)
    plist := s.stands.flatMap fun x => (x.2.plist.filter fun t => (mine.get? t).isSome).map fun t => (x.1, t)
    waitCtx := s.stands.flatMap fun x => (x.2.waitCtx.filter fun t => (mine.get? t).isSome).map fun t => (x.1, t)
    waves := s.stands.flatMap fun x => (x.2.waveQ.filter fun w => w.launch == k).map fun w => (x.1, w)
    msgs := s.cores.flatMap fun c => (c.2.inbound.filter fun m => m.launch == k).map fun m => (c.1, m)
    reserved := s.cores.flatMap fun c => (c.2.reserved.filter fun _ r => r.1 == k).map fun r => ((c.1, r.1), r.2.2)
    areas := ctxs.map fun c => (c, s.savedArea c.1 c.2)
    producers := s.producers.filter fun _ p => match p with
      | .qxmax _ _ _ x .. => x == k
      | _ => false
    tasks := s.tasks.filter fun _ x => x.launch == k
    texReqs := s.texReqs.filter fun _ x => x.launch == k
    cmds := s.clusters.flatMap fun c => c.2.rings.flatMap fun r => r.2.filter fun x => x.launch == k
    cores := cores.map fun c => (c, ((s.core c).bfmt, (s.engine c).ctr))
    waveCtr := ((slots.map fun x => x.1 / 32).eraseDups).map fun e => (e, (s.engine (waveKey e)).ctr)
    dgns := clusters.map fun c => (c, (s.cluster c).dgn) }

/-- Take a launch off the machine without ending it: its stands are free, its booms, bins and tiles stay (R338). -/
def takeOff (s : State) (k : Nat) : State :=
  let ts := (s.threads.filter fun _ th => th.launch == k).keys
  let ctxs := s.heldContexts k
  let s := ts.foldl (fun (s : State) t => s.leaveRun t) s
  let s := s.clearCmds k
  let s := { s with
    threads := s.threads.filter fun _ th => th.launch != k
    slots := s.slots.filter fun _ x => x.launch != k
    outbound := s.outbound.filter fun t _ => !ts.contains t
    producers := s.producers.filter fun _ p => match p with
      | .qxmax _ _ _ x .. => x != k
      | _ => true
    tasks := s.tasks.filter fun _ x => x.launch != k
    texReqs := s.texReqs.filter fun _ x => x.launch != k
    stands := s.stands.map fun x => (x.1, { x.2 with
      pockets := x.2.pockets.filter (fun _ p => p.launch != k), plist := x.2.plist.filter fun t => !ts.contains t
      waitCtx := x.2.waitCtx.filter fun t => !ts.contains t, waveQ := x.2.waveQ.filter fun w => w.launch != k
      reach := x.2.reach.filter fun r => r.1 != k })
    cores := s.cores.map fun c => (c.1, { c.2 with
      inbound := c.2.inbound.filter fun m => m.launch != k, reserved := c.2.reserved.filter fun _ r => r.1 != k })
    dies := s.dies.map fun d => (d.1, { d.2 with booms := d.2.booms.map fun b =>
      if b.1 / 2 ^ 32 = k then (b.1, { b.2 with slot := false }) else b }) }
  let s := ctxs.foldl (fun (s : State) c => s.clearPrivate c.1 c.2) s
  let s := s.modLaunch k fun l => { l with
    phase := .saved, wgs := l.wgs.map fun w => if w.2.placed && !w.2.retired then (w.1, { w.2 with placed := false }) else w }
  s.stands.keys.foldl (fun (s : State) n => s.refill n) s

/-- Elapsed time of a workgroup's watchdog at a save (R51). -/
def pauseWatch (s : State) (k : Nat) : State :=
  s.modLaunch k fun l => { l with wgs := l.wgs.map fun w =>
    (w.1, { w.2 with paused := (w.2.watch.map fun b => s.gtc - b).orElse fun _ => w.2.paused, watch := none }) }

/-- Save a launch at an address of its pool (R338-R340). -/
def saveLaunch (s : State) (k : Nat) (a bytes : Nat) : State :=
  let s := ((s.tasks.filter fun _ x => x.launch == k && (x.phase == .running || x.phase == .finished)).keys).foldl
    (fun (s : State) t =>
      if (s.tasks.get? t).any fun x => x.phase == .running || x.phase == .finished then s.abortTask t .waiting 0 true true else s) s
  let s := s.pauseWatch k
  match s.launch? k with
  | none => s
  | some l =>
    let v := s.saveOf k l bytes
    let s := s.writeBlocks k (s.headBlocks k)
    let s := (s.takeOff k).unitWrite a v.header
    { s with saved := s.saved.put a v }.settlePreempt l.queue

/-- A launch for which the pool has no room goes on running (R339). -/
def keepRunning (s : State) (k : Nat) (l : Launch) : State :=
  let s := (s.threads.filter fun _ th => th.launch == k && th.status == .stopped).foldl
    (fun (s : State) e => s.setStatus e.1 .ready) s
  let s := s.modLaunch k fun l => { l with phase := if namedFilled l then .running else .pending }
  (s.orReg (queueReg l.queue 0x20) 16).settlePreempt l.queue

/-! ### Restoring -/

/-- Where the items of a restore go: those of one workgroup on its home stand, to a stand; or what is left, each stand to
the one its workgroups went to. -/
structure Move where
  /-- Whether an item of a workgroup on a stand is meant. -/
  sel : Nat → Nat → Bool
  dest : Nat → Nat

/-- A core's counterpart on the stand it moves to. -/
def Move.core (m : Move) (c : Nat) : Nat := coreOfIndex (m.dest (coreStand c)) (indexOfCore c)

/-- An engine's counterpart. -/
def Move.wave (m : Move) (e : Nat) : Nat := 2 * m.dest (e / 2) + e % 2

/-- A home's counterpart. -/
def Move.home (m : Move) : Home → Home
  | .scalar c x => .scalar (m.core c) x
  | .wave e i l => .wave (m.wave e) i l
  | .pocket n _ => .plist (m.dest n)
  | .plist n => .plist (m.dest n)
  | .waitCtx n => .waitCtx (m.dest n)
  | .queued n => .queued (m.dest n)
  | .skidder t => .skidder t

/-- The stand of a saved thread. -/
def savedStand (v : Saved) (t : Nat) : Nat :=
  match (v.threads.get? t).map Thread.home with
  | some (.skidder u) => ((v.threads.get? u).map fun th => th.home.stand).getD 0
  | some h => h.stand
  | none => 0

/-- The saved threads a move takes. -/
def moveThreads (v : Saved) (m : Move) : Table Thread := v.threads.filter fun t th => m.sel th.wg (savedStand v t)

/-- Saved slots a move takes. -/
def moveSlots (v : Saved) (m : Move) : Table Slot := v.slots.filter fun k x => m.sel x.wg (k / 64)

/-- A stand has room for what a move takes: the same contexts and slots, pool, quarters and inbound places (R341). -/
def moveFits (s : State) (v : Saved) (m : Move) : Bool :=
  let k := v.launch
  ((moveThreads v m).all fun e => match e.2.home with
    | .scalar c x => s.ctxFree (m.core c) x && s.coreClear (m.core c) k
    | _ => true) &&
  (v.reserved.all fun r => !m.sel r.2.1 (coreStand r.1.1) || (s.ctxFree (m.core r.1.1) r.1.2 && s.coreClear (m.core r.1.1) k)) &&
  ((moveSlots v m).all fun x =>
    let e := m.wave (x.1 / 32)
    let here := (moveSlots v m).filter fun j _ => m.wave (j / 32) == e
    let used := s.slots.filter fun j y => j / 32 == e && y.quarter.isSome
    !s.engineFenced e && (s.slot? e (x.1 % 32)).isNone &&
      decide (s.poolUsed e + here.foldl (fun n y => n + y.2.grant) 0 ≤ 524288) &&
      decide (used.length + (here.filter fun _ y => y.quarter.isSome).length ≤ 4)) &&
  v.msgs.all fun c => !m.sel c.2.wg (coreStand c.1) ||
    decide ((s.core (m.core c.1)).inbound.length + (v.msgs.filter fun d => d.1 == c.1).length ≤ 16)

/-- A row of a tile or accumulator on the engine it moves to. -/
def Move.dest' (m : Move) : Dest → Dest
  | .tileRow k n r => .tileRow (slotKey (m.wave (k / 32)) (k % 32)) n r
  | .accRow k n r => .accRow (slotKey (m.wave (k / 32)) (k % 32)) n r
  | d => d

/-- A restored thread (R154, R155, R163, R341): parked threads replay, and the time a SEND.T has waited still counts. On another
stand it still answers for what it saw in the copies of the one before (R78). -/
def restoredThread (s : State) (v : Saved) (m : Move) (th : Thread) : Thread :=
  let th := match th.status with
    | .parked _ => th.fillAwaited
    | _ => th
  let status := match th.status with
    | .parked _ | .stopped => .ready
    | x => x
  let held := match th.held with
    | .resumed g => .resumed (g + (s.gtc - v.gtc))
    | h => h
  let stays := (th.home matches .skidder _) || (m.home th.home).stand == th.home.stand
  { th with home := m.home th.home, status := status, held := held, popWait := false, rowHeld := th.rowHeld.map m.dest'
            moved := if stays then th.moved else (th.home.stand, s.nextId) :: th.moved, filed := s.clock.arith - (v.arith - th.filed) }

/-- The lowest free tile quarter of an engine. -/
def freeQuarter (s : State) (e : Nat) : Nat :=
  ((List.range 4).find? fun q => (s.slots.filter fun j x => j / 32 == e && x.quarter == some q).isEmpty).getD 0

/-- Put back what a move takes (R341). -/
def moveIn (s : State) (v : Saved) (m : Move) : State :=
  let k := v.launch
  let here (wg n : Nat) : Bool := m.sel wg n
  let ts := moveThreads v m
  let cores := (ts.filterMap fun e => match e.2.home with
    | .scalar c _ => some (m.core c)
    | _ => none) ++ (v.reserved.filter fun r => here r.2.1 (coreStand r.1.1)).map fun r => m.core r.1.1
  let s := cores.foldl (fun (s : State) c => (s.takeConstants c k).1) s
  let s := ts.foldl (fun (s : State) e => s.setThread e.1 (s.restoredThread v m e.2)) s
  let s := (moveSlots v m).foldl (fun (s : State) x =>
    let e := m.wave (x.1 / 32)
    { s with slots := s.slots.put (slotKey e (x.1 % 32)) { x.2 with quarter := x.2.quarter.map fun _ => s.freeQuarter e } }) s
  let s := v.reserved.foldl (fun (s : State) r =>
    if here r.2.1 (coreStand r.1.1) then
      s.modCore (m.core r.1.1) fun c => { c with reserved := c.reserved.put r.1.2 (k, r.2.1, r.2.2) }
    else s) s
  let mine (c x : Nat) : Bool :=
    (ts.any fun e => e.2.home == .scalar c x) || v.reserved.any fun r => r.1 == (c, x) && here r.2.1 (coreStand c)
  let s := v.areas.foldl (fun (s : State) a =>
    if mine a.1.1 a.1.2 then
      let base := locKey (m.core a.1.1) 0
      let s := s.clearPrivate (m.core a.1.1) a.1.2
      { s with mem := { s.mem with
        loc := a.2.1.foldl (fun (x : Memory) b => x.writeByte (base + b.1) b.2) s.mem.loc
        locPoison := a.2.2.foldl (fun (p : NatSet) w => p.add (base / 4 + w)) s.mem.locPoison } }
    else s) s
  let s := v.cores.foldl (fun (s : State) c =>
    if v.areas.any fun a => a.1.1 == c.1 && mine a.1.1 a.1.2 then
      (s.modCore (m.core c.1) fun x => { x with bfmt := c.2.1 }).modEngine (m.core c.1) fun e => { e with ctr := c.2.2 }
    else s) s
  let s := v.dgns.foldl (fun (s : State) d =>
    let core := (v.areas.find? fun a => coreCluster a.1.1 == d.1 && mine a.1.1 a.1.2).map (·.1.1)
    match core with
    | some c => s.modCluster (coreCluster (m.core c)) fun x => { x with dgn := d.2 }
    | none => s) s
  let s := v.waveCtr.foldl (fun (s : State) e =>
    if (moveSlots v m).any fun x => x.1 / 32 == e.1 then s.modEngine (waveKey (m.wave e.1)) fun x => { x with ctr := e.2 }
    else s) s
  let s := v.msgs.foldl (fun (s : State) c =>
    if here c.2.wg (coreStand c.1) then
      s.modCore (m.core c.1) fun x => { x with inbound := x.inbound ++ [{ c.2 with core := m.core c.1 }] }
    else s) s
  let s := v.waitCtx.foldl (fun (s : State) w =>
    if (ts.get? w.2).isSome then s.modStand (m.dest w.1) fun x => { x with waitCtx := x.waitCtx ++ [w.2] } else s) s
  let s := v.waves.foldl (fun (s : State) w =>
    if here w.2.wg w.1 then
      let n := m.dest w.1
      s.queueWave n { w.2 with engine := w.2.engine.map m.wave, due := s.clock.arith }
    else s) s
  let filed := v.pockets.flatMap (fun p => if here p.2.wg p.1 then p.2.members.map fun t => (p.1, p.2.pc, t) else []) ++
    v.plist.filterMap fun p => (ts.get? p.2).map fun th => (p.1, th.pc, p.2)
  let s := filed.foldl (fun (s : State) f =>
    match v.threads.get? f.2.2 with
    | some th => s.placeInPocket (m.dest f.1) f.2.2 k th.wg f.2.1
    | none => s) s
  let s := v.tasks.foldl (fun (s : State) t =>
    if here t.2.wg t.2.landing then
      { s with tasks := s.tasks.put t.1 { t.2 with
          landing := m.dest t.2.landing, srcCore := if here t.2.wg (coreStand t.2.srcCore) then m.core t.2.srcCore else t.2.srcCore
          phase := if t.2.phase == .faulted then .waiting else t.2.phase } }
    else s) s
  let s := v.texReqs.foldl (fun (s : State) q =>
    if here q.2.wg (coreStand q.2.core) then
      { s with texReqs := s.texReqs.put q.1 { q.2 with core := m.core q.2.core, fault := none } }
    else s) s
  let s := v.producers.foldl (fun (s : State) p => match p.2 with
    | .qxmax t c x l d i r w =>
      -- One of a thread that has halted goes with a workgroup of its stand.
      let home := ((v.wgs.find? fun _ g => g.stand == coreStand c).map (·.1)).getD 0
      if here (((v.threads.get? t).map (·.wg)).getD home) (coreStand c) then
        { s with producers := s.producers.put p.1 (.qxmax t (m.core c) x l d i r w) } else s
    | _ => s) s
  v.cmds.foldl (fun (s : State) x =>
    let old := if isWaveKey x.engine then Home.wave (waveOf x.engine) x.group 0 else .scalar x.engine x.group
    if here x.wg old.stand then
      let h := m.home old
      let (c, r) := ringOf h
      let x' := { x with engine := (h.engine).getD 0, running := false, heldBeats := [], owned := [], waitFrom := none
                         again := x.again ++ x.heldBeats.map (·.1) }
      s.setRing c r (s.ring c r ++ [x'])
    else s) s

/-- Whether the right stand is any other than a workgroup's own: not for a launch that names its stands (R332, R335), and
only on the die it held for one that must hold dies or whose die instances share one. -/
def restoreStands (l : Launch) (w n : Nat) : List Nat :=
  if l.r.pin || l.r.streams n then [n]
  else if l.r.pass != 0 || (l.r.dieInstance w).isSome then n :: (List.range 512).map fun j => 512 * standDie n + j
  else n :: List.range 2048

/-- Restore the saved workgroups one after another, each on its former stand if that takes it, else on the lowest-numbered
that does (log 43): the state, and where each stand's workgroups went. -/
def restoreWgs (s : State) (v : Saved) (l : Launch) : List (Nat × Workgroup) → List (Nat × Nat) →
    Option (State × List (Nat × Nat))
  | [], went => some (s, went)
  | (w, g) :: r, went =>
    let mv (n : Nat) : Move := { sel := fun x y => x == w && y == g.stand, dest := fun y => if y = g.stand then n else y }
    match (restoreStands l w g.stand).find? fun n =>
        s.permits l n && s.spillSuits l n && s.streamSuits v.launch l n && s.moveFits v (mv n) with
    | none => none
    | some n =>
      let s := (s.claimSpill n l.r.spill).moveIn v (mv n)
      let s := s.modLaunch v.launch fun x => { x with wgs := x.wgs.put w { g with placed := true, stand := n } }
      s.restoreWgs v l r (went ++ [(g.stand, n)])

/-- Take the head slots back that a launch's booms held (R263). -/
def restoreHeads (s : State) (k : Nat) : Option State :=
  (List.range 4).foldl (fun (o : Option State) d =>
    o.bind fun s => (s.die d).booms.foldl (fun (o : Option State) b =>
      o.bind fun s =>
        if b.1 / 2 ^ 32 = k ∧ 0 < b.2.head then
          if s.headFree d then some (s.modDie d fun x => { x with booms := x.booms.put b.1 { b.2 with slot := true } }) else none
        else some s) (some s)) (some s)

/-- A scene's stream sets are taken from its descriptor again, as it now stands in memory (R263); one that cannot be read keeps
what it said before (log 115). -/
def retakeStreams (s : State) (k : Nat) (l : Launch) : State :=
  if l.r.scene = 0 ∨ (s.unitStuck l.part [(l.r.scene, 64, { r := true })]).isSome then s
  else
    let bs := (s.unitRead l.part l.r.scene 64).1
    (s.unitReads l.part [(l.r.scene, 64)]).modLaunch k fun x =>
      { x with r := { x.r with sceneDesc := x.r.sceneDesc.take 0x28 ++ (bs.drop 0x28).take 8 ++ x.r.sceneDesc.drop 0x30 } }

/-- Restore a saved launch (R341); none while it cannot be placed whole. -/
def restore (s : State) (a : Nat) (v : Saved) : Option State :=
  let s := match s.launch? v.launch with
    | some l => s.retakeStreams v.launch l
    | none => s
  match s.launch? v.launch with
  | none => none
  | some l =>
    match s.restoreWgs v l v.wgs [] with
    | none => none
    | some (s, went) =>
      let dest (n : Nat) : Nat := ((went.find? fun e => e.1 == n).map (·.2)).getD n
      let rest : Move := { sel := fun w n => !(v.wgs.any fun g => g.1 == w && g.2.stand == n), dest := dest }
      if !s.moveFits v rest then none
      else
        let s := s.moveIn v rest
        let s := { s with
          saved := s.saved.del a
          recs := s.recs.map fun (r : Nat × Pending) => match r.2.who with
            | .threads ts _ => if r.2.pending && ts.any fun t => (v.threads.get? t).isSome then (r.1, { r.2 with pending := false }) else r
            | .flume c => if r.2.pending && v.cmds.any fun x => x.id == c then (r.1, { r.2 with pending := false }) else r
            | .texture q => if r.2.pending && (v.texReqs.get? q).isSome then (r.1, { r.2 with pending := false }) else r
            | .task t => if r.2.pending && (v.tasks.get? t).isSome then (r.1, { r.2 with pending := false }) else r
            | _ => r }
        let s := s.modLaunch v.launch fun x => { x with phase := if namedFilled x then .running else .pending }
        let s := v.wgs.foldl (fun (s : State) g => s.syncWatch v.launch g.1 false) s
        s.restoreHeads v.launch

/-- The saved launch of an area whose header stands as it was written (R340). -/
def savedAt (s : State) (part a : Nat) : Option Saved :=
  match s.saved.get? a with
  | some v =>
    if (s.launch? v.launch).any (fun l => l.part == part) && s.mem.dram.read a v.header.length == v.header then some v
    else none
  | none => none

/-- RESUME as it starts (R331, R340, R341). -/
def runResume (q : Nat) (s : State) (c : Cmd) : Done :=
  let a := fieldOf c.2.2 8 8
  if !zeroFrom c.2.2 0x10 then .done (s.refuseCmd q c)
  else
    match s.savedAt (queuePart q) a with
    | none => .done (s.refuseCmd q c)
    | some v =>
      match s.restore a v with
      | some s => .done ((s.orReg (queueReg q 0x20) 8).completeCmd q c.1)
      | none => .hold

end State

/-- QPREEMPT_WRITE (R338): the queue's launches that hold stands are to be saved. -/
def execQpreemptWrite (queue : Nat) (val : W32) (s : State) : Host.Outcome State Fault Refusal :=
  if queue < 4096 then .next (s.queueWrite queue 0x24 val) else .refused (.notDue "QPREEMPT_WRITE")

/-- PREEMPTION_COMPLETE (R338, R339): a launch that has come to rest is saved, or goes on where the pool lacks room. -/
def execPreemptionComplete (launch : Nat) (s : State) : Host.Outcome State Fault Refusal :=
  match s.launch? launch with
  | some l =>
    if l.phase != .preempting || !s.savable launch then .refused (.notDue "PREEMPTION_COMPLETE")
    else
      let bytes := s.saveBytes launch l
      match s.saveArea l.queue bytes with
      | none => .next (s.keepRunning launch l)
      | some a =>
        let ws := s.headBlocks launch
        match s.blocksStuck launch ws with
        | some (d, e) => match s.driveHold launch d (512 * d) e with
          | some t => .next t
          | none => .refused (.notDue "PREEMPTION_COMPLETE")
        | none =>
          if s.unitFree a 512 then .next (s.saveLaunch launch a bytes) else .refused (.notDue "PREEMPTION_COMPLETE")
  | none => .refused (.notDue "PREEMPTION_COMPLETE")

/-- RESUME (R331, R341). -/
def execResume (queue : Nat) (s : State) : Host.Outcome State Fault Refusal :=
  s.command queue 6 "RESUME" (State.runResume queue)

end Sys2Proof.Machine
end

