-- ==== Sys2Proof/Machine/Cruiser.lean ====
section
/-!
DEFINITION. The Cruiser (18 R343-R347): cruises of a predicted launch, their claim and their discard.
-/

namespace Sys2Proof.Machine

namespace State

/-- The bytes a cruise has written, with the half where only one half was, and their poison. -/
def shadowCells (x : Cruise) : List (Nat × Byte × Option Nat × Bool) :=
  ((x.written.map (· / 2)).eraseDups).map fun k =>
    let lo := x.written.has (2 * k)
    let hi := x.written.has (2 * k + 1)
    (k, x.shadow.readByte k, if lo && hi then none else if lo then some 0 else some 1, x.poison.has k)

/-- Device lines of a cruise's shadow. -/
def shadowLines (x : Cruise) : List Nat := ((x.written.map (· / 128)).filter (· < hostBase / 64)).eraseDups

/-- The claim of a cruise as an engine that stores: R361 gives it no SOURCE (DESIGN CHOICE, log 142). -/
def claimAgent (x : Cruise) : Agent := { queueAgent (queuePart x.queue) with launch := some x.launch }

/-- The lines a claim drops: those of a failed tier 2 (R365). -/
def claimLost (s : State) (x : Cruise) : List Part :=
  (lineParts keyPlace ((shadowCells x).map (·.1))).filter fun p => s.placeLost (queuePart x.queue) p.place

/-- Every line of a shadow can be taken at its home (R91, R345), and the records of those that are dropped have room (R359). -/
def shadowReady (s : State) (x : Cruise) : Bool :=
  ((shadowLines x).all fun l => s.lineFree l none && (s.home l).queue.isEmpty && !s.lineMigrates l) &&
    ((s.claimLost x).isEmpty || s.lostFits (claimAgent x) (s.claimLost x))

/-- All lines of a shadow become memory in one step (R345). -/
def commitShadow (s : State) (x : Cruise) : State :=
  let part := queuePart x.queue
  let kept := (shadowCells x).filter fun (c : Nat × Byte × Option Nat × Bool) => !s.placeLost part (keyPlace c.1)
  s.writePlaces (kept.map fun (c : Nat × Byte × Option Nat × Bool) => (keyPlace c.1, x.keys.getD (c.1 / 64) 0, [c.2.1], [c.2.2.2], c.2.2.1)) (some x.launch)

/-- A stand is idle for a cruise of a partition (R343). -/
def idleStand (s : State) (part : Nat) : Bool :=
  (List.range 2048).any fun n => s.standOwner n == some part && s.standIdle n

/-- The cruise of a launch registers what acceptance read for it (R332, R344). -/
def noteAcceptance (s : State) (part k : Nat) (b : List Byte) : State :=
  (s.noteAccept part b).noteEngineRead k (s.acceptParts part b)

/-- The launch of a cruise takes the place of the real one (R345). -/
def becomeReal (s : State) (q : Nat) (k : Nat) (c : Cmd) : State :=
  s.modLaunch k fun l => { l with
    cruise := none, id := launchIdOf q c.1, index := c.1, doorbell := c.2.1, record := recordFields c.2.2 }

/-- A cruise leaves the machine: its threads, what they have outstanding, and its shadow (R346). -/
def dropCruise (s : State) (k : Nat) (x : Cruise) : State :=
  let s := { s with ops := s.ops.filter fun _ o => (s.thread? o.tid).all fun (th : Thread) => th.launch != x.launch }
  let s := s.clearLaunch x.launch
  { s with launches := s.launches.mod x.launch (fun l => { l with phase := .ended }), cruises := s.cruises.del k }

end State

/-- CRUISE_START (R343, R344): a cruise of the prediction a queue holds. -/
def execCruiseStart (queue : Nat) (s : State) : Host.Outcome State Fault Refusal :=
  let x := s.queue queue
  let part := State.queuePart queue
  match x.predicted with
  | none => .refused (.notDue "CRUISE_START")
  | some fs =>
    if x.confidence ≠ 3 ∨ !bit (s.qctl queue) 1 ∨ (s.queueCruise queue).isSome ∨ !s.idleStand part ∨
        8 ≤ (s.cruises.filter fun _ c => c.finished.isNone).length then
      .refused (.notDue "CRUISE_START")
    else
      let b := State.recordBytes fs
      let c : State.Cmd := (x.read, s.gtc, b)
      if State.Cmd.op c ≠ 1 ∨ !State.headerOk c then .refused (.notDue "CRUISE_START")
      else
        match s.accept part b with
        | .ok r =>
          if !r.cruise then .refused (.notDue "CRUISE_START")
          else
            let (k, s) := s.fresh
            let (j, s) := s.fresh
            let l := { s.newLaunch queue c r with cruise := some j }
            let s := { s with launches := s.launches.put k l, cruises := s.cruises.put j { queue := queue, launch := k } }
            .next ((s.noteAcceptance part k b).bumpReg (queueReg queue 0x44) 1)
        | .hold e => (match s.unitHold part (e, { r := true }) with
          | some t => .next t
          | none => .refused (.notDue "CRUISE_START"))
        | _ => .refused (.notDue "CRUISE_START")

/-- CRUISE_CLAIM (R345): the real launch reaches its issue point, and the cruise that matches it becomes it: the shadow
becomes memory in one step, and the launch goes on or, if the cruise has finished, ends. -/
def execCruiseClaim (queue : Nat) (s : State) : Host.Outcome State Fault Refusal :=
  match s.queueCruise queue with
  | none => .refused (.notDue "CRUISE_CLAIM")
  | some (j, x) =>
    match s.claimant x, s.launch? x.launch with
    | some c, some l =>
      if x.causes ≠ 0 ∨ !s.shadowReady x then .refused (.notDue "CRUISE_CLAIM")
      else
        let claim (s : State) : State :=
          let s := (s.commitShadow x).dropKept queue c
          let lost := s.claimLost x
          let s := ({ s with cruises := s.cruises.del j }.becomeReal queue x.launch c).unitDrop (State.claimAgent x) lost
          (s.noteKernel l.part l.r.desc).bumpReg (queueReg queue 0x48) 1
        if x.finished.isNone then .next (claim s)
        else
          match s.signalStuck l with
          | some e => (match s.unitHold l.part e with
            | some t => .next t
            | none => .refused (.notDue "CRUISE_CLAIM"))
          | none =>
            let s := claim s
            match s.launch? x.launch with
            | some l => .next (s.endLaunch x.launch l (State.doneStatus l))
            | none => .next s
    | _, _ => .refused (.notDue "CRUISE_CLAIM")

/-- CRUISE_DISCARD (R346): a cruise that has met a cause is dropped. -/
def execCruiseDiscard (cruise : Nat) (s : State) : Host.Outcome State Fault Refusal :=
  match s.cruises.get? cruise with
  | some x =>
    if x.causes = 0 then .refused (.notDue "CRUISE_DISCARD")
    else
      let s := s.dropCruise cruise x
      .next ((s.bumpReg (queueReg x.queue 0x4C) 1).orReg (queueReg x.queue 0x50) x.causes)
  | none => .refused (.notDue "CRUISE_DISCARD")

/-- CRUISE_IDLE_TIMEOUT (R346): no launch has been read within 10 ms of a cruise's finish. -/
def execCruiseIdleTimeout (cruise : Nat) (s : State) : Host.Outcome State Fault Refusal :=
  match s.cruises.get? cruise with
  | some x =>
    match x.finished with
    | some t =>
      if t + 10000000 ≤ s.gtc ∧ (s.queue x.queue).lastRead ≤ t ∧ x.causes = 0 then
        .next { s with cruises := s.cruises.put cruise { x with causes := 0x80 } }
      else .refused (.notDue "CRUISE_IDLE_TIMEOUT")
    | none => .refused (.notDue "CRUISE_IDLE_TIMEOUT")
  | none => .refused (.notDue "CRUISE_IDLE_TIMEOUT")

/-- A host read of a queue register that clears it (R10, R347). -/
def State.cruiseRead (s : State) (name : String) (q off : Nat) : Host.Outcome State Fault Refusal :=
  if 4096 ≤ q then .refused (.notDue name)
  else
    match s.queueRead q off s.gtc with
    | some (v, s) => .next { s with busRead := v }
    | none => .refused (.notDue name)

/-- CRSTART_READ (R347). -/
def execCrstartRead (queue : Nat) (s : State) : Host.Outcome State Fault Refusal := s.cruiseRead "CRSTART_READ" queue 0x44

/-- CRCLAIM_READ (R347). -/
def execCrclaimRead (queue : Nat) (s : State) : Host.Outcome State Fault Refusal := s.cruiseRead "CRCLAIM_READ" queue 0x48

/-- CRDISC_READ (R347). -/
def execCrdiscRead (queue : Nat) (s : State) : Host.Outcome State Fault Refusal := s.cruiseRead "CRDISC_READ" queue 0x4C

/-- CRCAUSE_READ (R347). -/
def execCrcauseRead (queue : Nat) (s : State) : Host.Outcome State Fault Refusal := s.cruiseRead "CRCAUSE_READ" queue 0x50

end Sys2Proof.Machine
end

