-- ==== Sys2Proof/Machine/Lane.lean ====
section
/-!
DEFINITION. Lanes of a wave, the generator and quantisation (07 R188-R197): majors 0x90-0x9A, and the completion of
QXMAX.
-/

namespace Sys2Proof.Machine

/-- SHFL's source in the other lane counts as a source of the thread (R188). -/
def shflCheck (i : Ins) (s : State) (t : Nat) : Check :=
  let u := s.shflFrom i t
  match (State.shflRegs i).find? fun n => !s.isFull u i .a .g n with
  | some n =>
    if i.w.ft.getLsbD 0 || s.queueDead u i .a .g n then .trap 3 (BitVec.ofNat 32 (n + 256)) else .hold
  | none =>
    match (State.shflRegs i).find? fun n => (s.readReg u i .a .g n).poison with
    | some n => .trap 4 (BitVec.ofNat 32 (n + 256))
    | none => .ok

/-- SHFL: every source is read before any destination is written (R188). -/
def shflSem : Sem :=
  { check := fun i _ => shflCheck i
    act := fun i _ ts s =>
      let vs := ts.map fun t =>
        let u := s.shflFrom i t
        (t, (State.shflRegs i).map fun n => (s.readReg u i .a .g n).val)
      vs.foldl (fun s p => s.modThread p.1 fun th => th.writeGs i.d p.2) s }

/-- The predicate A of a thread. -/
def State.predA (s : State) (i : Ins) (t : Nat) : Bool := (s.thread? t).any fun th => (th.readP i.a).val

/-- BALLOT (R189). -/
def ballotSem : Sem :=
  { act := fun i _ ts s =>
      let mask := ts.foldl (fun m t => if s.predA i t then m + 2 ^ (s.homeOf t).lane else m) 0
      ts.foldl (fun s t => s.writeD t i mask) s }

/-- VOTE (R190). -/
def voteSem : Sem :=
  { act := fun i _ ts s =>
      let ps := ts.map (s.predA i)
      let n := (ps.filter id).length
      s.writeDP ts i (match i.minor with
        | 0 => n == ps.length
        | 1 => n != 0
        | 2 => n == 0 || n == ps.length
        | _ => n % 2 == 1) }

/-- RAND's result from one output (R193). -/
def randValue (ty : Nat) (o : W64) : Nat :=
  match ty with
  | 0x0F => o.toNat
  | 0x0E => o.toNat / 2 ^ 32
  | 1 => (roundVal 1 1 0 (Val.ofRat false (o.toNat / 2 ^ 40) (2 ^ 24))).1
  | _ => (roundVal 0 1 0 (Val.ofRat false (o.toNat / 2 ^ 11) (2 ^ 53))).1

/-- RAND (R193). -/
def randSem : Sem :=
  { act := fun i _ ts s => ts.foldl (fun s t =>
      let (os, s) := s.draws t 1
      s.writeD t i (randValue i.ty (os.headD 0))) s }

/-- The maximum of QXMAX over values (R194): FMAX for FP32, signed order for integers. A value alone is its own maximum,
taken as FMAX takes it (R175). -/
def maxOf (int : Bool) : List W32 → W32 × FFlags
  | [] => (0, {})
  | v :: r =>
    r.foldl (fun (p : W32 × FFlags) x =>
      if int then (if p.1.toInt < x.toInt then x else p.1, p.2)
      else
        let (m, f) := fltMinMax true 1 p.1.toNat x.toNat
        (BitVec.ofNat 32 m, p.2.or f))
      (if int then (v, {}) else
        let (m, f) := fltMinMax true 1 v.toNat v.toNat
        (BitVec.ofNat 32 m, f))

/-- The cores of a scalar QXMAX.g4 group: the four of the cluster that share y (R194). -/
def quadCores (core : Nat) : List Nat := (List.range 4).map fun k => coreAt (coreX core / 4 * 4 + k) (coreY core)

/-- Whether a thread's context has an exchange outstanding, be it one that an earlier thread of the context began (R195). -/
def State.exchanging (s : State) (t : Nat) : Bool :=
  s.producers.any fun q =>
    match q.2, s.homeOf t with
    | .qxmax _ c x .., .scalar d y => c == d && x == y
    | _, _ => false

/-- QXMAX at issue (R194, R195). -/
def qxmaxSem : Sem :=
  { check := fun _ _ s t => if s.exchanging t then .hold else .ok
    act := fun i _ ts s =>
      let int := i.ty == 0x0E
      let val (t : Nat) : W32 := BitVec.ofNat 32 (s.srcVal t i .a)
      let w := if i.x = 0 then 4 else 16
      let grp (t : Nat) : Nat := (s.homeOf t).lane / w
      let maxes := ts.map fun t => (t, maxOf int ((ts.filter fun u => grp u == grp t).map val))
      maxes.foldl (fun s p =>
        match s.homeOf p.1, s.thread? p.1 with
        | .scalar c x, some th =>
          let (k, s) := (s.emptyD p.1 i).fresh
          let s := s.modThread p.1 fun th => { th with qx := th.qx + 1 }
          { s with producers := s.producers.put k (.qxmax p.1 c x th.launch i.d int th.qx (val p.1)) }
        | _, _ =>
          let (k, s) := (s.emptyD p.1 i).fresh
          { s with producers := s.producers.put k (.laneMax p.1 i.d p.2.1 p.2.2.iv s.issueNo) }) s }

/-- The contribution a core's context made to a round of an exchange, the oldest first (R195). -/
def State.contribution (s : State) (core ctx launch round : Nat) : Option (Nat × Producer) :=
  s.producers.find? fun _ q =>
    match q with
    | .qxmax _ c x l _ _ r _ => c == core && x == ctx && l == launch && r == round
    | _ => false

/-- Complete one participant of an exchange with the maximum of all four. -/
def State.endExchange (s : State) (vals : List W32) (e : Nat × Producer) : State :=
  let s := { s with producers := s.producers.del e.1 }
  match e.2 with
  | .qxmax t _ _ _ d int _ _ =>
    let (m, fl) := maxOf int vals
    s.deliver t d 1 m.toNat fl
  | _ => s

/-- QXMAX_EXCHANGE_COMPLETION (R194, R195): due for a scalar exchange when all four contributions of its round have
arrived; a wave's group needs no other party. -/
def execQxmaxExchangeCompletion (prod : Nat) (s : State) : Host.Outcome State Fault Refusal :=
  match s.producers.get? prod with
  | some (.laneMax t d v iv k) =>
    .next ({ s with producers := s.producers.del prod }.deliver t d 1 v.toNat { iv := iv } false k)
  | some (.qxmax _ c x l _ _ r _) =>
    let cs := (quadCores c).filterMap fun k => s.contribution k x l r
    if cs.length = 4 then
      let vals := cs.filterMap fun e =>
        match e.2 with
        | .qxmax _ _ _ _ _ _ _ v => some v
        | _ => none
      .next (cs.foldl (fun s e => s.endExchange vals e) s)
    else .refused (.notDue "QXMAX_EXCHANGE_COMPLETION")
  | _ => .refused (.notDue "QXMAX_EXCHANGE_COMPLETION")

/-- The largest finite value of a QSCALE target, as a rational (R196). -/
def scaleMax (f : Nat) : Nat × Nat :=
  match intFmt f with
  | some (n, _) => (2 ^ (n - 1) - 1, 1)
  | none =>
    let top := match floatFmt f with
      | some ff => ff.maxBits
      | none => 2 ^ (fmtBits f - 1) - 1
    match decodeVal f top with
    | .fin _ a b => (a, b)
    | _ => (1, 1)

/-- The scale QSCALE forms from |a| (R196). -/
def quantScale (f : Nat) (pow2 : Bool) (a : Nat) : Nat × FFlags :=
  match decodeVal 1 a with
  | .zero _ => roundVal 1 1 0 (.fin false 1 1)
  | .fin _ n d =>
    let (p, q) := scaleMax f
    let num := n * q
    let den := d * p
    if pow2 then
      let e := ratLead num den
      let c := if isPow2 num den then e else e + 1
      ((roundVal 1 1 0 (Val.ofDyadic false 1 (max (-149) (min 127 c)))).1, {})
    else ((roundVal 1 3 0 (.fin false num den)).1, {})
  | _ => ((roundNan 1 false false).1, { iv := true })

/-- QSCALE (R196). -/
def qscaleSem : Sem :=
  { act := fun i _ => perFlags fun t s =>
      let (r, fl) := quantScale (i.x % 32) (i.x.testBit 5) (s.fltA i t 1)
      (s.writeD t i r, fl) }

/-- QCVT's exact quotient (R197). -/
def quantValue (f a scale : Nat) : Val × FFlags :=
  match decodeVal 1 scale with
  | .fin bn n d =>
    match decodeVal f a with
    | .fin an x y => (.fin (an ^^ bn) (x * d) (y * n), {})
    | v => if v.isNan then (v, {}) else (v.withSign (v.sign ^^ bn), {})
  | _ => (.nan false, { iv := true })

/-- Replace lane L, of the target's width, of a word (R197). -/
def mergeLane (f lane d e : Nat) : Nat :=
  let w := if fmtBits f = 6 then 8 else fmtBits f
  d - laneOf w d lane * 2 ^ (w * lane) + e * 2 ^ (w * lane)

/-- QCVT (R197). -/
def qcvtSem : Sem :=
  { act := fun i _ => perFlags fun t s =>
      let f := i.x % 32
      let (v, f1) := quantValue i.ty (s.fltA i t i.ty) (s.wordB t i).toNat
      let d := s.srcVal t i .d
      let (m, us, s) := s.rounding t i.hint 1
      let (r, f2) := roundVal f m (us.headD 0) v
      (s.writeD t i (mergeLane f (i.x / 32) d r), f1.or f2) }

/-- SHFL (R188). -/
def execShfl (w : X96) (s : State) : Host.Outcome State Fault Refusal := issue shflSem (w.ins .shfl) s

/-- BALLOT (R189). -/
def execBallot (w : X96) (s : State) : Host.Outcome State Fault Refusal := issue ballotSem (w.ins .ballot) s

/-- VOTE (R190). -/
def execVote (w : X96) (s : State) : Host.Outcome State Fault Refusal := issue voteSem (w.ins .vote) s

/-- RAND (R193). -/
def execRand (w : X96) (s : State) : Host.Outcome State Fault Refusal := issue randSem (w.ins .rand) s

/-- QXMAX (R194). -/
def execQxmax (w : X96) (s : State) : Host.Outcome State Fault Refusal := issue qxmaxSem (w.ins .qxmax) s

/-- QSCALE (R196). -/
def execQscale (w : X96) (s : State) : Host.Outcome State Fault Refusal := issue qscaleSem (w.ins .qscale) s

/-- QCVT (R197). -/
def execQcvt (w : X96) (s : State) : Host.Outcome State Fault Refusal := issue qcvtSem (w.ins .qcvt) s

end Sys2Proof.Machine
end

