-- ==== Sys2Proof/Machine/Move.lean ====
section
/-!
DEFINITION. Moves, addresses, compares and predicate logic (06 R149-R151): majors 0x20-0x33.
-/

namespace Sys2Proof.Machine

/-- SEL's choice: C[2:0] names the predicate, C[3] inverts it (R149). -/
def State.selTakes (s : State) (i : Ins) (t : Nat) : Bool :=
  (((s.thread? t).map fun th => (th.readP (i.c % 8)).val).getD false) ^^ decide (8 ≤ i.c)

/-- SEL (R149). -/
def selSem : Sem :=
  { act := fun i _ ts s => perThread i (fun t s =>
      let v := if s.selTakes i t then s.srcVal t i .a else s.intB t i
      s.writeD t i (intWrite (intWidth i.ty) (intSigned i.ty) v)) ts s }

/-- MOV between general registers, or to or from the mailbox (R149); a mailbox named in a wave is out of range
(R129). -/
def movSem : Sem :=
  { act := fun i _ ts s => perThread i (fun t s =>
      s.writeD t i (intWrite (intWidth i.ty) (intSigned i.ty) (s.intB t i))) ts s }

/-- MOVK between the g and k files (R149): a wave's k takes the lowest-numbered active thread's value. -/
def movkSem : Sem :=
  { act := fun i _ ts s =>
      if i.x = 0 then
        match ts with
        | t :: _ => s.writeD t i (s.srcVal t i .a)
        | [] => s
      else ts.foldl (fun s t => s.writeD t i (s.srcVal t i .a)) s }

/-- LIT (R149). -/
def litSem : Sem :=
  { act := fun i _ ts s => perThread i (fun t s =>
      s.writeD t i (intWrite (intWidth i.ty) (intSigned i.ty) ((i.w.lit.map (·.toNat)).getD 0))) ts s }

/-- LEA: base pair plus a shifted operand (R150). -/
def State.leaValue (s : State) (i : Ins) (t : Nat) : Nat :=
  let sh := if i.w.kb then 0 else i.x
  wrapTo 64 ((s.srcVal t i .a : Int) + intRead i.ty (s.intB t i) * (2 ^ sh : Nat))

/-- LEA (R150). -/
def leaSem : Sem := { act := fun i _ ts s => perThread i (fun t s => s.writeD t i (s.leaValue i t)) ts s }

/-- The mesh coordinates LEAM names: absolute, or relative to the reference core (R150). -/
def State.leamXY (s : State) (i : Ins) (t : Nat) : Int × Int :=
  let a := s.srcVal t i .a
  if i.x = 0 then ((bits a 8 0 : Nat), (bits a 24 16 : Nat))
  else
    let c := (s.homeOf t).refCore
    ((coreX c : Int) + signExt 10 a, (coreY c : Int) + signExt 10 (a / 65536))

/-- LEAM and LEAM.rel (R150): a relative target off the mesh raises 0x06. -/
def leamSem : Sem :=
  { check := fun i _ s t =>
      let (x, y) := s.leamXY i t
      if x < 0 ∨ 511 < x ∨ y < 0 ∨ 511 < y then .trap 6 (BitVec.ofNat 32 (s.srcVal t i .a)) else .ok
    act := fun i _ ts s => perThread i (fun t s =>
      let (x, y) := s.leamXY i t
      s.writeD t i (meshAddress x.toNat y.toNat ((s.wordB t i).toNat % 2 ^ 15))) ts s }

/-- The conditions of R136 on integers. -/
def intCond (cond : Nat) (a b : Int) : Bool :=
  match cond with
  | 0 => decide (a = b) | 1 => decide (a ≠ b) | 2 => decide (a < b) | 3 => decide (a ≤ b) | 4 => decide (b < a)
  | _ => decide (b ≤ a)

/-- Write predicate D: for one thread, or under WU for every active thread (R128). -/
def predPerThread (i : Ins) (f : State → Nat → Bool) (ts : List Nat) (s : State) : State :=
  perThread i (fun t s => s.writeDP (if i.w.wu then ts else [t]) i (f s t)) ts s

/-- CMP (R151). -/
def cmpSem : Sem :=
  { act := fun i _ ts s => predPerThread i (fun s t =>
      intCond i.minor (intRead i.ty (s.srcVal t i .a)) (intRead i.ty (s.intB t i))) ts s }

/-- The value of a predicate logic operation (R151). -/
def predLogic (op : Op) (a b : Bool) : Bool :=
  match op with
  | .pand => a && b
  | .por => a || b
  | .pxor => a ^^ b
  | _ => !a

/-- PAND, POR, PXOR and PNOT (R151). -/
def predSem : Sem :=
  { act := fun i _ ts s => predPerThread i (fun s t =>
      predLogic i.op (s.srcVal t i .a != 0) (s.srcVal t i .b != 0)) ts s }

/-- SEL (R149). -/
def execSel (w : X96) (s : State) : Host.Outcome State Fault Refusal := issue selSem (w.ins .sel) s

/-- MOV, base form (R149). -/
def execMovB32 (w : B32) (s : State) : Host.Outcome State Fault Refusal := issue movSem (w.ins .mov) s

/-- MOV, extended form (R149). -/
def execMovX96 (w : X96) (s : State) : Host.Outcome State Fault Refusal := issue movSem (w.ins .mov) s

/-- MOVK (R149). -/
def execMovk (w : X96) (s : State) : Host.Outcome State Fault Refusal := issue movkSem (w.ins .movk) s

/-- LIT, either form (R149). -/
def execLit (w : Form) (s : State) : Host.Outcome State Fault Refusal := issue litSem (w.ins .lit) s

/-- LEA, base form (R150). -/
def execLeaB32 (w : B32) (s : State) : Host.Outcome State Fault Refusal := issue leaSem (w.ins .lea) s

/-- LEA, extended form (R150). -/
def execLeaX96 (w : X96) (s : State) : Host.Outcome State Fault Refusal := issue leaSem (w.ins .lea) s

/-- LEAM (R150). -/
def execLeam (w : X96) (s : State) : Host.Outcome State Fault Refusal := issue leamSem (w.ins .leam) s

/-- CMP, base form (R151). -/
def execCmpB32 (w : B32) (s : State) : Host.Outcome State Fault Refusal := issue cmpSem (w.ins .cmp) s

/-- CMP, extended form (R151). -/
def execCmpX96 (w : X96) (s : State) : Host.Outcome State Fault Refusal := issue cmpSem (w.ins .cmp) s

/-- PAND, base form (R151). -/
def execPandB32 (w : B32) (s : State) : Host.Outcome State Fault Refusal := issue predSem (w.ins .pand) s

/-- PAND, extended form (R151). -/
def execPandX96 (w : X96) (s : State) : Host.Outcome State Fault Refusal := issue predSem (w.ins .pand) s

/-- POR, base form (R151). -/
def execPorB32 (w : B32) (s : State) : Host.Outcome State Fault Refusal := issue predSem (w.ins .por) s

/-- POR, extended form (R151). -/
def execPorX96 (w : X96) (s : State) : Host.Outcome State Fault Refusal := issue predSem (w.ins .por) s

/-- PXOR, base form (R151). -/
def execPxorB32 (w : B32) (s : State) : Host.Outcome State Fault Refusal := issue predSem (w.ins .pxor) s

/-- PXOR, extended form (R151). -/
def execPxorX96 (w : X96) (s : State) : Host.Outcome State Fault Refusal := issue predSem (w.ins .pxor) s

/-- PNOT, base form (R151). -/
def execPnotB32 (w : B32) (s : State) : Host.Outcome State Fault Refusal := issue predSem (w.ins .pnot) s

/-- PNOT, extended form (R151). -/
def execPnotX96 (w : X96) (s : State) : Host.Outcome State Fault Refusal := issue predSem (w.ins .pnot) s

end Sys2Proof.Machine
end

