-- ==== Sys2Proof/Machine/Power.lean ====
section
/-!
DEFINITION. Power modes, the governor and the thermal limit (22 R397-R399). Clocks are not counted here: a step says which
of them run and at which step.
-/

namespace Sys2Proof.Machine

namespace State

/-- The module's sensors as the governor samples them (R397): power over the last 1 ms in W, a die's hottest junction and
the coolant's inlet temperature in 1/8 °C, and its flow in mL/min. -/
def sample (s : State) (power : Nat) : State :=
  let s := s.setRegN (powerReg 8) (bits power 15 0)
  let s := s.setRegN (powerReg (0x10 + 4 * bits power 33 32)) (bits power 31 16)
  (s.setRegN (powerReg 0x20) (bits power 49 34)).setRegN (powerReg 0x24) (bits power 65 50)

/-- The hottest junction of the module in 1/8 °C. -/
def hottest (s : State) : Nat := (List.range 4).foldl (fun m d => max m (s.regN (powerReg (0x10 + 4 * d)))) 0

/-- The steps of the arithmetic, swarm and matrix clocks (R397). -/
def clockSteps (s : State) : Nat × Nat × Nat :=
  let v := s.regN (powerReg 4)
  (bits v 11 8, bits v 15 12, bits v 19 16)

/-- Set the steps; the governor is active while any is not zero. -/
def setSteps (s : State) (a w m : Nat) : State :=
  let v := s.regN (powerReg 4)
  let on := decide (0 < a + w + m)
  s.setRegN (powerReg 4) (bits v 2 0 + on.toNat * 8 + bits v 4 4 * 16 + a * 256 + w * 4096 + m * 65536)

/-- Slow down by one step (R399): the matrix clock first, then in Matrix mode the swarm clock, else the arithmetic one. -/
def stepUp (s : State) : State :=
  let (a, w, m) := s.clockSteps
  if m < 15 then s.setSteps a w (m + 1)
  else if s.regN (powerReg 4) % 4 = 0 then (if w < 15 then s.setSteps a (w + 1) m else s)
  else if a < 15 then s.setSteps (a + 1) w m else s

/-- Speed up by one step, the clocks in the reverse order (log 46). -/
def stepDown (s : State) : State :=
  let (a, w, m) := s.clockSteps
  if 0 < a then s.setSteps (a - 1) w m else if 0 < w then s.setSteps a (w - 1) m else if 0 < m then s.setSteps a w (m - 1) else s

/-- A unit's record of TYPE 0x05 goes to the event ring of a partition (R371, R386). -/
def unitEvent (s : State) (part die unit cause : Nat) : State := s.eventRecord part die 5 unit cause s.pkgId 0

/-- A record of TYPE 0x05 goes to the physical function's log (R386, R393). -/
def unitLog (s : State) (unit cause : Nat) : State := s.logWord 5 unit cause s.pkgId

end State

/-- PWRMODE_WRITE (R397, R399). -/
def execPwrmodeWrite (val : W32) (s : State) : Host.Outcome State Fault Refusal := .next (s.writePwrmode val)

/-- CLOCK_RELOCK_COMPLETE (R399): the clocks that were relocking have relocked; with no engine left inside a run begun before the
write, the mode is in force. -/
def execClockRelockComplete (s : State) : Host.Outcome State Fault Refusal :=
  if s.relocks then
    let v := s.regN (powerReg 4)
    let inside := s.pkg.oldMode.filter fun e => (s.engine e).run.isSome
    let s := { s with pkg := { s.pkg with relocking := false, oldMode := inside } }
    .next (if inside.isEmpty then s.setRegN (powerReg 4) (v / 8 * 8 + s.regN (powerReg 0) % 4) else s)
  else .refused (.notDue "CLOCK_RELOCK_COMPLETE")

/-- GOVERNOR_TICK (R397, R399): each 1 ms the sensors are sampled, and a step is raised or lowered. `power` holds the
samples: power in [15:0], a die's junction in [31:16] and the die in [33:32], inlet in [49:34], flow in [65:50]. -/
def execGovernorTick (power : Nat) (s : State) : Host.Outcome State Fault Refusal :=
  if s.pkg.govTick + 1000000 ≤ s.gtc then
    let s := ({ s with pkg := { s.pkg with govTick := s.gtc } }).sample power
    let p := s.regN (powerReg 8)
    .next (if 3200 < p ∨ 800 ≤ s.hottest then s.stepUp else if p < 3100 ∧ s.hottest < 760 then s.stepDown else s)
  else .refused (.notDue "GOVERNOR_TICK")

/-- THERMAL_LIMIT (R386, R399): a die's junction reaches 110 °C; every clock stops, and the record goes to the physical
function's log and to every enabled partition. `temp` holds the junction in 1/8 °C in [15:0] and the die in [17:16]. -/
def execThermalLimit (temp : Nat) (s : State) : Host.Outcome State Fault Refusal :=
  let parts := (List.range 64).filter s.partEnabled
  if 880 ≤ bits temp 15 0 ∧ !s.pkg.clocksStopped ∧ s.logRoom ∧ s.eventRoom (bits temp 17 16) parts.length then
    let die := bits temp 17 16
    let unit := 0xE * 2 ^ 24 + die
    let s := s.setRegN (powerReg (0x10 + 4 * die)) (bits temp 15 0)
    let s := ({ s with pkg := { s.pkg with clocksStopped := true } }.orReg (powerReg 4) 16).unitLog unit 6
    .next (parts.foldl (fun (s : State) k => s.unitEvent k die unit 6) s)
  else .refused (.notDue "THERMAL_LIMIT")

/-- CLOCKS_RESUME_BELOW_95C (R399): every junction has fallen below 95 °C; running work goes on. `temp` is the hottest
junction in 1/8 °C. -/
def execClocksResumeBelow95c (temp : Nat) (s : State) : Host.Outcome State Fault Refusal :=
  if temp < 760 ∧ s.pkg.clocksStopped then
    let s := (List.range 4).foldl (fun (s : State) d =>
      s.setRegN (powerReg (0x10 + 4 * d)) (min (s.regN (powerReg (0x10 + 4 * d))) temp)) s
    .next ({ s with pkg := { s.pkg with clocksStopped := false } }.setReg (powerReg 4) (s.reg (powerReg 4) &&& 0xFFFFFFEF))
  else .refused (.notDue "CLOCKS_RESUME_BELOW_95C")

end Sys2Proof.Machine
end

