-- ==== Sys2Proof/Machine/Ras.lean ====
section
/-!
DEFINITION. Errors, buddies and fenced units (03 R92; 11 R279; 21 R380-R386): the scrubber and rewrites, parity retries,
takeover of a failed flume, and what a fence does.
-/

namespace Sys2Proof.Machine

namespace State

/-! ### Units -/

/-- The stands a unit belongs to (R385, log 47): stands, gatherers, landings and Drives go by stand number, wave engines and
matrix units by wave engine number, other execution units by engine key, flumes by cluster number. -/
def unitStands (kind n : Nat) : List Nat :=
  match kind with
  | 1 | 8 | 9 | 10 => [n]
  | 2 | 3 => [n / 2]
  | 4 | 5 | 6 => [engineStand n]
  | 7 => [n / 8]
  | _ => []

/-- A unit number names a unit of its kind. -/
def unitOk (kind n : Nat) : Bool :=
  match kind with
  | 1 | 8 | 9 | 10 => decide (n < 2048)
  | 2 | 3 => decide (n < 4096)
  | 4 | 5 | 6 => decide (n < coreCount + 4096)
  | 7 => decide (n < 16384)
  | 11 => decide (n < 256)
  | 12 => decide (n < 2 ^ 24)
  | 13 => decide (n < 18)
  | _ => false

/-- Set a bit of a register array of 32-bit words. -/
def setBitReg (s : State) (base n : Nat) : State := s.orReg (base + n / 32 * 4) (BitVec.ofNat 32 (2 ^ (n % 32)))

/-- The features a stand's wave engines in service have between them (R28). -/
def standMask (s : State) (stand : Nat) : W32 :=
  let m (e : Nat) : W32 := if s.engineFenced e then 0 else s.fmask (waveKey e)
  m (2 * stand) ||| m (2 * stand + 1)

/-- How far two stands of a die lie apart, in stands (log 47). -/
def standGap (a b : Nat) : Nat :=
  let d (x y : Nat) : Nat := (x - y) + (y - x)
  d (a % 16) (b % 16) + d (a % 512 / 16) (b % 512 / 16)

/-- Firmware names the nearest stand of the die that has what a stand now lacks (R29). -/
def nameAlternate (s : State) (stand : Nat) : State :=
  let lacks := 0x3F#32 &&& ~~~s.standMask stand
  if lacks = 0 then s
  else
    let has (n : Nat) : Bool := n != stand && !(s.stand n).fenced && (s.standMask n &&& lacks) == lacks
    let cand := ((List.range 512).map fun k => 512 * standDie stand + k).filter has
    let best := cand.foldl (fun (b : Option Nat) n =>
      match b with
      | some m => if standGap stand n < standGap stand m then some n else b
      | none => some n) none
    s.modStand stand fun x => { x with alternate := best }

/-! ### A flume that fails -/

/-- A line that a failed engine owned goes back (R92, R384): with its final bytes where they are written, else as it was
before the command, or poisoned where no buddy held its copy. -/
def returnLine (s : State) (line : Nat) (lost : Bool) : State :=
  let h := s.home line
  let words := (List.range 16).map fun w => 16 * line + w
  let s := match h.final, lost, h.before with
    | true, _, _ => s
    | false, true, _ =>
      { s with mem := { s.mem with dramPoison := words.foldl (fun (p : NatSet) w => p.add w) s.mem.dramPoison } }
    | false, false, some (bs, ps) =>
      let clear := words.foldl (fun (p : NatSet) w => p.remove w) s.mem.dramPoison
      { s with mem := { s.mem with
          dram := s.mem.dram.write (64 * line) bs, dramPoison := ps.foldl (fun (p : NatSet) w => p.add w) clear } }
    | false, false, none => s
  s.releaseLine line

/-- Every command of a failed flume ends with status agent-fenced (R92, R218, R384). A thread that waits for its
decompression gets a poisoned mode. -/
def failFlume (s : State) (cluster : Nat) (lost : Bool) : State :=
  let cmds := (s.cluster cluster).rings.flatMap fun r => r.2
  let s := s.modCluster cluster fun x => { x with rings := [] }
  cmds.foldl (fun (s : State) (c : FlumeCmd) =>
    let s := c.owned.foldl (fun (s : State) (l : Nat) => s.returnLine l lost) s
    let s := s.dropDcmp c
    if c.left then s else s.noteStatus c.engine c.group (c.status ||| 1) c.flags) s

/-- A flume of a die serves still. -/
def flumeServes (s : State) (die : Nat) : Bool :=
  (List.range 4096).any fun k =>
    !s.pkg.fences.has (unitNo 7 (4096 * die + k)) && !(s.stand ((4096 * die + k) / 8)).fenced

/-! ### Fences -/

/-- A task runs or has finished, and has not been aborted already. -/
def Task.open' (x : Task) : Bool := (x.phase == .running || x.phase == .finished) && x.dead.isNone

/-- The tasks running or finished where a fence strikes are aborted without a charge (R279), each once, and one inside a run at
its next run boundary (R272). -/
def abortTasksAt (s : State) (here : Nat → Bool) : State :=
  (s.tasks.filter fun _ x => Task.open' x && here x.core).foldl (fun (s : State) (e : Nat × Task) =>
    if (s.tasks.get? e.1).any fun x => Task.open' x && x.attempt == e.2.attempt then s.abortTask e.1 .waiting 0 else s) s

/-- What every fence writes and sets (R346, R386). -/
def reportFence (s : State) (kind n cause : Nat) : State :=
  let stands := unitStands kind n
  let unit := unitNo kind n
  let s := ({ s with pkg := { s.pkg with fences := s.pkg.fences.add unit } }).orReg 0x6100000 3
  let s := s.unitLog unit cause
  let parts := (List.range 64).filter fun k => s.partEnabled k && stands.any fun x => s.standOwner x == some k
  let s := parts.foldl (fun (s : State) (k : Nat) => s.unitEvent k (standDie (stands.headD 0)) unit cause) s
  { s with cruises := s.cruises.map fun (c : Nat × Cruise) =>
      if (s.launch? c.2.launch).any fun l => stands.any (onStand l) then (c.1, c.2.cause 0x40)
      else c }

/-- A stand is fenced (R385): it takes nothing new, and what runs on it drains. -/
def fenceStand (s : State) (stand cause : Nat) : State :=
  if (s.stand stand).fenced then s
  else
    let s := (s.modStand stand fun x => { x with fenced := true }).setBitReg 0x6100100 stand
    -- The count of fenced stands stays in its field (R386).
    (if bits (s.regN 0x6100000) 12 2 = 2047 then s else s.setRegN 0x6100000 (s.regN 0x6100000 + 4)).reportFence 1 stand cause

/-- A feature of an engine is fenced (R28, R385); on a core, with its tasks (R279). -/
def fenceFeature (s : State) (key feature : Nat) : State :=
  let s := s.modEngine key fun e => { e with fenced := e.fenced ||| BitVec.ofNat 32 (2 ^ feature) }
  let s := if isWaveKey key then s else s.abortTasksAt (· == key)
  s.nameAlternate (engineStand key)

/-- The dirty lines of a home slice that a fence could not write back are written poisoned; which those are the spec leaves open
(R385, log 149). -/
def poisonUnsaved (s : State) (slice : Nat) : State :=
  ((Config.unsavedLines slice s.gtc).filter fun l => s.populated (64 * l) && s.sliceOf l == slice).foldl (fun (s : State) (l : Nat) =>
    let s := s.cleanLine l
    { s with mem := { s.mem with
        dramPoison := (List.range 16).foldl (fun (p : NatSet) w => p.add (16 * l + w)) s.mem.dramPoison } }) s

/-- What a fence of a unit does (R385). A gatherer, landing or Drive owns no line and has no command with a status between two
steps: leaving the protocol changes nothing but what its stand's fence does (log 47). -/
def fenceEffect (s : State) (kind n : Nat) : State :=
  match kind with
  | 2 => (s.setBitReg 0x6100200 n).nameAlternate (n / 2)
  | 3 => s.fenceFeature (waveKey n) 4
  | 4 => s.fenceFeature n 5
  | 5 => s.fenceFeature n 1
  | 6 => s.fenceFeature n 0
  | 7 => (s.failFlume n (!s.flumeServes (buddyDie (n / 4096)))).abortTasksAt fun c => coreCluster c == n
  | 11 => let s := s.poisonUnsaved n
    { s with slicesFenced := s.slicesFenced.add n }
  | 13 => s.linkDown n
  | _ => s

/-- Fence a unit (R385, R386); with a flume, gatherer, landing or Drive its stand too. -/
def fence (s : State) (kind n cause : Nat) : State :=
  if kind = 1 then s.fenceStand n cause
  else
    let s := (s.fenceEffect kind n).reportFence kind n cause
    if 7 ≤ kind ∧ kind ≤ 10 then ((unitStands kind n).foldl (fun (s : State) (x : Nat) => s.fenceStand x cause) s) else s

/-- A time lies within the last 24 h. -/
def withinDay (s : State) (t : Nat) : Bool := decide (s.gtc < t + 86400000000000)

/-- What makes firmware fence a unit has occurred (R385): 256 corrected errors of one SRAM structure, or two misdirected accesses,
within 24 h. Takeovers and parity failures fence in steps of their own. -/
def fenceDue (s : State) (unit cause : Nat) : Bool :=
  if cause = 3 then s.pkg.corrected.any fun e => e.2.1 == unit && e.2.2.length == 256 && e.2.2.all s.withinDay
  else cause == 4 && ((s.pkg.misdirected.get? unit).any fun ts => ts.length == 2 && ts.all s.withinDay)

/-- The records of a fence have room in their buffers (R371, R393). -/
def fenceRoom (s : State) (kind n : Nat) : Bool :=
  s.logRoom 2 && (unitStands kind n).all fun x => s.eventRoom (standDie x) 2

end State

/-- UNIT_FENCE (R279, R384-R386): firmware fences a unit: its kind in [31:24], its number in [23:0], and the cause. -/
def execUnitFence (unit cause : Nat) (s : State) : Host.Outcome State Fault Refusal :=
  let kind := unit / 2 ^ 24
  let n := unit % 2 ^ 24
  if State.unitOk kind n ∧ s.fenceDue unit cause ∧ !s.pkg.fences.has unit ∧ s.fenceRoom kind n then .next (s.fence kind n cause)
  else .refused (.notDue "UNIT_FENCE")

/-- L2_REHOMING_COMPLETE (R385): accesses held at the slice go on, in their arrival order. -/
def execL2RehomingComplete (slice : Nat) (s : State) : Host.Outcome State Fault Refusal :=
  if s.slicesFenced.has slice then .next { s with slicesFenced := s.slicesFenced.remove slice }
  else .refused (.notDue "L2_REHOMING_COMPLETE")

/-- BUDDY_TAKEOVER (R92, R384): a recall has waited 50 µs; the buddy supplies its copies, and the failed flume is fenced.
With no flume left in service on the buddy die the lines are poisoned. -/
def execBuddyTakeover (line : Nat) (s : State) : Host.Outcome State Fault Refusal :=
  let h := s.home line
  match h.owner.bind s.findCmd, h.recallAt with
  | some (c, _, _), some g =>
    if h.final ∨ s.gtc < g + 50000 ∨ !s.fenceRoom 7 c then .refused (.notDue "BUDDY_TAKEOVER")
    else .next ((s.failFlume c (!s.flumeServes (buddyDie (c / 4096)))).fence 7 c 1)
  | _, _ => .refused (.notDue "BUDDY_TAKEOVER")

/-! ### Memory errors -/

/-- DRAM_SCRUB (R380, R381): the scrubber reads a line, which the decoder finds clean (0), corrected (1), uncorrectable (2)
or misdirected (3); a line found clean stays as it is known. -/
def execDramScrub (line cls : Nat) (s : State) : Host.Outcome State Fault Refusal :=
  if 3 < cls ∨ !s.populated (64 * line) ∨ 0x20000000000 ≤ 64 * line then .refused (.notDue "DRAM_SCRUB")
  else
    let s := if cls = 0 then s else { s with mem := { s.mem with faulty := s.mem.faulty.put line cls } }
    let found := s.mem.faulty.getD line 0
    if 2 ≤ found ∧ s.pageAgain (64 * line) ∧ !s.logRoom then .refused (.notDue "DRAM_SCRUB")
    else .next (if 2 ≤ found then s.noteBadLine (64 * line) none none else if found = 1 then s.noteCorrected line else s)

/-- CORRECTED_LINE_REWRITE (R381): the home rewrites a corrected line, behind every write to it. -/
def execCorrectedLineRewrite (line : Nat) (s : State) : Host.Outcome State Fault Refusal :=
  if s.pkg.rewrite.has line && (s.lineQueue line).isEmpty && (s.home line).owner.isNone then
    .next { s with
      mem := { s.mem with faulty := if s.mem.faulty.getD line 0 = 1 then s.mem.faulty.del line else s.mem.faulty }
      pkg := { s.pkg with rewrite := s.pkg.rewrite.remove line } }
  else .refused (.notDue "CORRECTED_LINE_REWRITE")

/-- CECOUNT_READ (R386). -/
def execCecountRead (s : State) : Host.Outcome State Fault Refusal := .next (s.readClear 0x6100004)

/-- UECOUNT_READ (R386). -/
def execUecountRead (s : State) : Host.Outcome State Fault Refusal := .next (s.readClear 0x6100008)

/-- MISDIR_READ (R386). -/
def execMisdirRead (s : State) : Host.Outcome State Fault Refusal := .next (s.readClear 0x610000C)

/-- PARRETRY_READ (R386). -/
def execParretryRead (s : State) : Host.Outcome State Fault Refusal := .next (s.readClear 0x6100010)

/-! ### Parity -/

namespace State

/-- The unit that a fourth parity failure in a row fences (R383): a wave engine, or the stand of a core (log 48). -/
def parityUnit (key : Nat) : Nat × Nat := if isWaveKey key then (2, waveOf key) else (1, coreStand key)

/-- The fence of an engine after its fourth parity failure in a row (R383), with a core's tasks (R279). -/
def parityFence (s : State) (key : Nat) : State :=
  (if isWaveKey key then s else s.abortTasksAt (· == key)).fence (parityUnit key).1 (parityUnit key).2 2

/-- The records of such a fence have room (R371, R393). -/
def parityRoom (s : State) (key : Nat) : Bool := s.fenceRoom (parityUnit key).1 (parityUnit key).2

end State

/-- PARITY_RETRY (R382, R383): a parity error cancels the instruction an engine is about to perform, which is reissued in the same
run; on a fourth failure in a row it is performed with poisoned results as it next issues. Between runs it is a pocket or a queue
of the engine that is read again, and a fourth failure fences the unit. -/
def execParityRetry (unit : Nat) (s : State) : Host.Outcome State Fault Refusal :=
  let n := s.pkg.retry.getD unit 0
  if coreCount + 4096 ≤ unit ∨ 4 ≤ n ∨ (n = 3 ∧ !s.parityRoom unit) then .refused (.notDue "PARITY_RETRY")
  else
    let t := { s with pkg := { s.pkg with retry := s.pkg.retry.put unit (n + 1) } }
    .next (if n < 3 then (t.bumpReg 0x6100010 1).countEvent unit 0x1A 1
      else if (s.engine unit).run.isSome then t
      else { s with pkg := { s.pkg with retry := s.pkg.retry.del unit } }.parityFence unit)

namespace State

/-- All rows of a tile register or accumulator full and poisoned. -/
def Tile.spoiled (x : Tile) : Tile := { x with pending := [], poison := List.range 32 }

/-- One row of a tile register or accumulator full and poisoned (R382). -/
def Tile.spoilRow (x : Tile) (row : Nat) : Tile :=
  if 32 ≤ row then x else { x with pending := x.pending.remove row, poison := x.poison.add row }

/-- A k register of a thread's home full and poisoned. -/
def spoilK (s : State) (m n : Nat) : State :=
  let r : Reg := { val := (s.readK m n).val, poison := true }
  match s.homeOf m with
  | .wave e j _ => s.modSlot e j fun x => { x with k := x.k.setD n {} r }
  | _ => s.modThread m fun th => { th with k := th.k.setD n {} r }

/-- Complete one destination register full and poisoned (R383). -/
def spoilReg (s : State) (t : Nat) (i : Ins) (f : RFile) (n : Nat) : State :=
  let m := s.mainOf t
  match effFile i f with
  | .g =>
    if s.isQueue t i f n then s.modThread m fun th =>
      let q := th.oq.getD (n - 60) []
      { th with oq := th.oq.put (n - 60) (q.take (q.length - 1) ++ (q.drop (q.length - 1)).map fun e => { e with filled := true, poison := true }) }
    else s.modThread t fun th => th.writeG n (th.readG n).val true
  | .p => s.modThread t fun th => if n = 0 then th else { th with p := th.p.setD n {} { val := (th.readP n).val, poison := true } }
  | .mb => s.modThread t fun th => th.writeMb n (th.readMb n).val true
  | .k => s.spoilK m n
  | .tile => match s.homeOf m with
    | .wave e j _ => s.modSlot e j fun x => { x with m := x.m.setD n {} (Tile.spoiled (x.m.getD n {})) }
    | _ => s
  | .acc => match s.homeOf m with
    | .wave e j _ => s.modSlot e j fun x => { x with acc := x.acc.setD n {} (Tile.spoiled (x.acc.getD n {})) }
    | _ => s
  | _ => s

/-- The words that a stored part has put into its stand's copy hold poison (R383). -/
def spoilCopy (s : State) (stand : Nat) (p : Part) : State :=
  match if p.copy then p.place.copyAddr else none with
  | some pa => s.modStand stand fun x => { x with l1 := x.l1.mod (pa / 64) fun l => { l with poison := poisonWrite l.poison pa p.n true } }
  | none => s

/-- The operations and producers that an instruction has just set going: its loads are not wanted any more, its stores and
atomics write poison, in their stand's copies too. -/
def spoilOps (s old : State) : State :=
  let new (k : Nat) : Bool := (old.ops.get? k).isNone
  let s := s.ops.foldl (fun (s : State) e =>
    if new e.1 then e.2.parts.foldl (fun (s : State) p => s.spoilCopy e.2.stand p) s else s) s
  let ops := (s.ops.filter fun k o => !new k || o.kind != .load).map fun (e : Nat × MemOp) =>
    if new e.1 then (e.1, { e.2 with dest := .none, parts := e.2.parts.map fun p => { p with poison := true } }) else e
  { s with ops := ops, producers := s.producers.filter fun k _ => (old.producers.get? k).isSome }

/-- Matrix entries an instruction has just queued are not performed: their accumulators are full and poisoned. -/
def spoilMma (s old : State) (e j : Nat) : State :=
  let before := ((old.slot? e j).map (·.mq)).getD []
  s.modSlot e j fun x =>
    let new := x.mq.filter fun q => !before.contains q
    { x with
      mq := x.mq.filter before.contains, mqDone := x.mqDone ++ new.map (·.key)
      acc := new.foldl (fun (t : Table Tile) q => t.setD q.acc {} (Tile.spoiled (t.getD q.acc {}))) x.acc }

/-- What an instruction has done, with every destination full and poisoned and every word it writes poisoned (R383). -/
def spoil (s old : State) (i : Ins) : State :=
  let ts := (old.run?.elim [] fun r => old.activeSet r i).filter fun t =>
    (s.thread? t).any fun th => th.status == .ready && !(old.thread? t).any fun o => o.pc == th.pc || o.inTrap != th.inTrap
  let s := s.spoilOps old
  let s := ts.foldl (fun (s : State) (t : Nat) =>
    (destsOf i (s.homeOf t).isWave).foldl (fun (s : State) (q : Fld × RFile × Nat) => s.spoilReg t i q.2.1 q.2.2) s) s
  match ts.head?.map s.homeOf with
  | some (.wave e j _) => s.spoilMma old e j
  | _ => s

/-- Once an instruction has issued, its engine's parity failures in a row are over; after a fourth its results are poisoned
and the unit is fenced (R383): a wave engine, or the stand of a core with the core's tasks (R279, log 48). -/
def settleParity (old : State) (i : Instr) (s : State) : State :=
  match old.pkg.retry.get? old.focus with
  | none => s
  | some n =>
    if (s.engine old.focus).run = (old.engine old.focus).run then s
    else
      let s := { s with pkg := { s.pkg with retry := s.pkg.retry.del old.focus } }
      if n < 4 then s else (i.ins.elim s fun x => s.spoil old x).parityFence old.focus

/-- The outcome of an issue, once parity failures have been settled; an instruction whose fence's records find no room holds its
run (R371). -/
def issued (old : State) (i : Instr) : Host.Outcome State Fault Refusal → Host.Outcome State Fault Refusal
  | .next s =>
    .next (if old.pkg.retry.getD old.focus 0 = 4 ∧ !old.parityRoom old.focus then old else old.settleParity i s)
  | o => o

/-! ### SRAM words in error -/

/-- The SRAM structure a word stands in, and the unit that a fence of it names (R385, log 85). -/
def sramPlace (s : State) : SramWord → Nat × Nat
  | .loc w => (2 ^ 20 + locCore (4 * w), unitNo 1 (coreStand (locCore (4 * w))))
  | .g t _ | .mb t _ | .k t _ =>
    ((s.homeOf t).engine.elim (2 ^ 31 + (s.homeOf t).stand) (2 ^ 30 + ·), unitNo 1 (s.homeOf t).stand)
  | .tile e _ _ _ => (2 ^ 32 + e, unitNo 2 e)
  | .acc e _ _ _ => (2 ^ 33 + e, unitNo 2 e)
  | .unit kind n => (2 ^ 34 + unitNo kind n, unitNo kind n)

/-- A double error: the word or register is poisoned, the row full and poisoned (R382). -/
def spoilWord (s : State) : SramWord → State
  | .loc w =>
    if w < coreCount * 8192 then { s with mem := { s.mem with locPoison := s.mem.locPoison.add w } } else s
  | .g t n => s.modThread t fun th => th.writeG n (th.readG n).val true
  | .mb t n => s.modThread t fun th => th.writeMb n (th.readMb n).val true
  | .k t n => s.spoilK t n
  | .tile e j n row => s.modSlot e j fun x => { x with m := x.m.setD n {} (Tile.spoilRow (x.m.getD n {}) row) }
  | .acc e j n row => s.modSlot e j fun x => { x with acc := x.acc.setD n {} (Tile.spoilRow (x.acc.getD n {}) row) }
  | .unit _ _ => s

/-- A word found in error (R382): a single error is corrected and counted, a double one poisons what it holds. -/
def upset (s : State) (w : SramWord) (double : Bool) : State :=
  if double then s.spoilWord w else let (k, u) := s.sramPlace w
    s.noteSram k u

end State

end Sys2Proof.Machine
end

