-- ==== Sys2Proof/Machine/Dispatch.lean ====
section
/-!
DEFINITION. One arm for every row of the opcode table: the instruction's meaning.
-/

namespace Sys2Proof.Machine

def exec (i : Instr) (s : State) : Host.Outcome State Fault Refusal :=
  match i with
  | .addB32 w => Sys2Proof.Machine.execAddB32 w s
  | .addX96 w => Sys2Proof.Machine.execAddX96 w s
  | .subB32 w => Sys2Proof.Machine.execSubB32 w s
  | .subX96 w => Sys2Proof.Machine.execSubX96 w s
  | .addcB32 w => Sys2Proof.Machine.execAddcB32 w s
  | .addcX96 w => Sys2Proof.Machine.execAddcX96 w s
  | .subbB32 w => Sys2Proof.Machine.execSubbB32 w s
  | .subbX96 w => Sys2Proof.Machine.execSubbX96 w s
  | .mulLoB32 w => Sys2Proof.Machine.execMulLoB32 w s
  | .mulLoX96 w => Sys2Proof.Machine.execMulLoX96 w s
  | .mulHiB32 w => Sys2Proof.Machine.execMulHiB32 w s
  | .mulHiX96 w => Sys2Proof.Machine.execMulHiX96 w s
  | .mulwB32 w => Sys2Proof.Machine.execMulwB32 w s
  | .mulwX96 w => Sys2Proof.Machine.execMulwX96 w s
  | .mad w => Sys2Proof.Machine.execMad w s
  | .divB32 w => Sys2Proof.Machine.execDivB32 w s
  | .divX96 w => Sys2Proof.Machine.execDivX96 w s
  | .remB32 w => Sys2Proof.Machine.execRemB32 w s
  | .remX96 w => Sys2Proof.Machine.execRemX96 w s
  | .negB32 w => Sys2Proof.Machine.execNegB32 w s
  | .negX96 w => Sys2Proof.Machine.execNegX96 w s
  | .absB32 w => Sys2Proof.Machine.execAbsB32 w s
  | .absX96 w => Sys2Proof.Machine.execAbsX96 w s
  | .minB32 w => Sys2Proof.Machine.execMinB32 w s
  | .minX96 w => Sys2Proof.Machine.execMinX96 w s
  | .maxB32 w => Sys2Proof.Machine.execMaxB32 w s
  | .maxX96 w => Sys2Proof.Machine.execMaxX96 w s
  | .andB32 w => Sys2Proof.Machine.execAndB32 w s
  | .andX96 w => Sys2Proof.Machine.execAndX96 w s
  | .orB32 w => Sys2Proof.Machine.execOrB32 w s
  | .orX96 w => Sys2Proof.Machine.execOrX96 w s
  | .xorB32 w => Sys2Proof.Machine.execXorB32 w s
  | .xorX96 w => Sys2Proof.Machine.execXorX96 w s
  | .notB32 w => Sys2Proof.Machine.execNotB32 w s
  | .notX96 w => Sys2Proof.Machine.execNotX96 w s
  | .andnB32 w => Sys2Proof.Machine.execAndnB32 w s
  | .andnX96 w => Sys2Proof.Machine.execAndnX96 w s
  | .shlB32 w => Sys2Proof.Machine.execShlB32 w s
  | .shlX96 w => Sys2Proof.Machine.execShlX96 w s
  | .shrB32 w => Sys2Proof.Machine.execShrB32 w s
  | .shrX96 w => Sys2Proof.Machine.execShrX96 w s
  | .sraB32 w => Sys2Proof.Machine.execSraB32 w s
  | .sraX96 w => Sys2Proof.Machine.execSraX96 w s
  | .rolB32 w => Sys2Proof.Machine.execRolB32 w s
  | .rolX96 w => Sys2Proof.Machine.execRolX96 w s
  | .rorB32 w => Sys2Proof.Machine.execRorB32 w s
  | .rorX96 w => Sys2Proof.Machine.execRorX96 w s
  | .bfeB32 w => Sys2Proof.Machine.execBfeB32 w s
  | .bfeX96 w => Sys2Proof.Machine.execBfeX96 w s
  | .bfi w => Sys2Proof.Machine.execBfi w s
  | .popcB32 w => Sys2Proof.Machine.execPopcB32 w s
  | .popcX96 w => Sys2Proof.Machine.execPopcX96 w s
  | .clzB32 w => Sys2Proof.Machine.execClzB32 w s
  | .clzX96 w => Sys2Proof.Machine.execClzX96 w s
  | .ctzB32 w => Sys2Proof.Machine.execCtzB32 w s
  | .ctzX96 w => Sys2Proof.Machine.execCtzX96 w s
  | .brevB32 w => Sys2Proof.Machine.execBrevB32 w s
  | .brevX96 w => Sys2Proof.Machine.execBrevX96 w s
  | .sel w => Sys2Proof.Machine.execSel w s
  | .movB32 w => Sys2Proof.Machine.execMovB32 w s
  | .movX96 w => Sys2Proof.Machine.execMovX96 w s
  | .movk w => Sys2Proof.Machine.execMovk w s
  | .lit w => Sys2Proof.Machine.execLit w s
  | .leaB32 w => Sys2Proof.Machine.execLeaB32 w s
  | .leaX96 w => Sys2Proof.Machine.execLeaX96 w s
  | .leam w => Sys2Proof.Machine.execLeam w s
  | .cmpB32 w => Sys2Proof.Machine.execCmpB32 w s
  | .cmpX96 w => Sys2Proof.Machine.execCmpX96 w s
  | .pandB32 w => Sys2Proof.Machine.execPandB32 w s
  | .pandX96 w => Sys2Proof.Machine.execPandX96 w s
  | .porB32 w => Sys2Proof.Machine.execPorB32 w s
  | .porX96 w => Sys2Proof.Machine.execPorX96 w s
  | .pxorB32 w => Sys2Proof.Machine.execPxorB32 w s
  | .pxorX96 w => Sys2Proof.Machine.execPxorX96 w s
  | .pnotB32 w => Sys2Proof.Machine.execPnotB32 w s
  | .pnotX96 w => Sys2Proof.Machine.execPnotX96 w s
  | .nopB32 w => Sys2Proof.Machine.execNopB32 w s
  | .nopX96 w => Sys2Proof.Machine.execNopX96 w s
  | .bra w => Sys2Proof.Machine.execBra w s
  | .brx w => Sys2Proof.Machine.execBrx w s
  | .jmp w => Sys2Proof.Machine.execJmp w s
  | .call w => Sys2Proof.Machine.execCall w s
  | .retB32 w => Sys2Proof.Machine.execRetB32 w s
  | .retX96 w => Sys2Proof.Machine.execRetX96 w s
  | .loop w => Sys2Proof.Machine.execLoop w s
  | .syncwB32 w => Sys2Proof.Machine.execSyncwB32 w s
  | .syncwX96 w => Sys2Proof.Machine.execSyncwX96 w s
  | .reform w => Sys2Proof.Machine.execReform w s
  | .reformS w => Sys2Proof.Machine.execReformS w s
  | .yieldB32 w => Sys2Proof.Machine.execYieldB32 w s
  | .yieldX96 w => Sys2Proof.Machine.execYieldX96 w s
  | .haltB32 w => Sys2Proof.Machine.execHaltB32 w s
  | .haltX96 w => Sys2Proof.Machine.execHaltX96 w s
  | .haltR w => Sys2Proof.Machine.execHaltR w s
  | .wait w => Sys2Proof.Machine.execWait w s
  | .send w => Sys2Proof.Machine.execSend w s
  | .sendT w => Sys2Proof.Machine.execSendT w s
  | .sendb w => Sys2Proof.Machine.execSendb w s
  | .post w => Sys2Proof.Machine.execPost w s
  | .spawn w => Sys2Proof.Machine.execSpawn w s
  | .trap w => Sys2Proof.Machine.execTrap w s
  | .eretB32 w => Sys2Proof.Machine.execEretB32 w s
  | .eretX96 w => Sys2Proof.Machine.execEretX96 w s
  | .rdcr w => Sys2Proof.Machine.execRdcr w s
  | .wrcr w => Sys2Proof.Machine.execWrcr w s
  | .femark w => Sys2Proof.Machine.execFemark w s
  | .fefill w => Sys2Proof.Machine.execFefill w s
  | .trace w => Sys2Proof.Machine.execTrace w s
  | .cntrFold w => Sys2Proof.Machine.execCntrFold w s
  | .faddB32 w => Sys2Proof.Machine.execFaddB32 w s
  | .faddX96 w => Sys2Proof.Machine.execFaddX96 w s
  | .fsubB32 w => Sys2Proof.Machine.execFsubB32 w s
  | .fsubX96 w => Sys2Proof.Machine.execFsubX96 w s
  | .fmulB32 w => Sys2Proof.Machine.execFmulB32 w s
  | .fmulX96 w => Sys2Proof.Machine.execFmulX96 w s
  | .ffma w => Sys2Proof.Machine.execFfma w s
  | .fminB32 w => Sys2Proof.Machine.execFminB32 w s
  | .fminX96 w => Sys2Proof.Machine.execFminX96 w s
  | .fmaxB32 w => Sys2Proof.Machine.execFmaxB32 w s
  | .fmaxX96 w => Sys2Proof.Machine.execFmaxX96 w s
  | .fabsB32 w => Sys2Proof.Machine.execFabsB32 w s
  | .fabsX96 w => Sys2Proof.Machine.execFabsX96 w s
  | .fnegB32 w => Sys2Proof.Machine.execFnegB32 w s
  | .fnegX96 w => Sys2Proof.Machine.execFnegX96 w s
  | .fcmpB32 w => Sys2Proof.Machine.execFcmpB32 w s
  | .fcmpX96 w => Sys2Proof.Machine.execFcmpX96 w s
  | .fclass w => Sys2Proof.Machine.execFclass w s
  | .frnd w => Sys2Proof.Machine.execFrnd w s
  | .frcpB32 w => Sys2Proof.Machine.execFrcpB32 w s
  | .frcpX96 w => Sys2Proof.Machine.execFrcpX96 w s
  | .frsqB32 w => Sys2Proof.Machine.execFrsqB32 w s
  | .frsqX96 w => Sys2Proof.Machine.execFrsqX96 w s
  | .fsqrtB32 w => Sys2Proof.Machine.execFsqrtB32 w s
  | .fsqrtX96 w => Sys2Proof.Machine.execFsqrtX96 w s
  | .fexp2B32 w => Sys2Proof.Machine.execFexp2B32 w s
  | .fexp2X96 w => Sys2Proof.Machine.execFexp2X96 w s
  | .flog2B32 w => Sys2Proof.Machine.execFlog2B32 w s
  | .flog2X96 w => Sys2Proof.Machine.execFlog2X96 w s
  | .fsinB32 w => Sys2Proof.Machine.execFsinB32 w s
  | .fsinX96 w => Sys2Proof.Machine.execFsinX96 w s
  | .fcosB32 w => Sys2Proof.Machine.execFcosB32 w s
  | .fcosX96 w => Sys2Proof.Machine.execFcosX96 w s
  | .ftanhB32 w => Sys2Proof.Machine.execFtanhB32 w s
  | .ftanhX96 w => Sys2Proof.Machine.execFtanhX96 w s
  | .cvt w => Sys2Proof.Machine.execCvt w s
  | .gcvt w => Sys2Proof.Machine.execGcvt w s
  | .gcmp w => Sys2Proof.Machine.execGcmp w s
  | .gclass w => Sys2Proof.Machine.execGclass w s
  | .dot4 w => Sys2Proof.Machine.execDot4 w s
  | .vadd w => Sys2Proof.Machine.execVadd w s
  | .vsub w => Sys2Proof.Machine.execVsub w s
  | .vmul w => Sys2Proof.Machine.execVmul w s
  | .vmad w => Sys2Proof.Machine.execVmad w s
  | .vmin w => Sys2Proof.Machine.execVmin w s
  | .vmax w => Sys2Proof.Machine.execVmax w s
  | .shfl w => Sys2Proof.Machine.execShfl w s
  | .ballot w => Sys2Proof.Machine.execBallot w s
  | .vote w => Sys2Proof.Machine.execVote w s
  | .rand w => Sys2Proof.Machine.execRand w s
  | .qxmax w => Sys2Proof.Machine.execQxmax w s
  | .qscale w => Sys2Proof.Machine.execQscale w s
  | .qcvt w => Sys2Proof.Machine.execQcvt w s
  | .ldB32 w => Sys2Proof.Machine.execLdB32 w s
  | .ldX96 w => Sys2Proof.Machine.execLdX96 w s
  | .stB32 w => Sys2Proof.Machine.execStB32 w s
  | .stX96 w => Sys2Proof.Machine.execStX96 w s
  | .ldg w => Sys2Proof.Machine.execLdg w s
  | .sts w => Sys2Proof.Machine.execSts w s
  | .pref w => Sys2Proof.Machine.execPref w s
  | .atom w => Sys2Proof.Machine.execAtom w s
  | .fence w => Sys2Proof.Machine.execFence w s
  | .barArr w => Sys2Proof.Machine.execBarArr w s
  | .barWait w => Sys2Proof.Machine.execBarWait w s
  | .barSync w => Sys2Proof.Machine.execBarSync w s
  | .cvsign w => Sys2Proof.Machine.execCvsign w s
  | .cvwait w => Sys2Proof.Machine.execCvwait w s
  | .bndSet w => Sys2Proof.Machine.execBndSet w s
  | .flumeCopy w => Sys2Proof.Machine.execFlumeCopy w s
  | .flumeTile w => Sys2Proof.Machine.execFlumeTile w s
  | .flumeWait w => Sys2Proof.Machine.execFlumeWait w s
  | .flumeCvt w => Sys2Proof.Machine.execFlumeCvt w s
  | .gset w => Sys2Proof.Machine.execGset w s
  | .gclr w => Sys2Proof.Machine.execGclr w s
  | .tspawn w => Sys2Proof.Machine.execTspawn w s
  | .trange w => Sys2Proof.Machine.execTrange w s
  | .tdone w => Sys2Proof.Machine.execTdone w s
  | .tabort w => Sys2Proof.Machine.execTabort w s
  | .tstamp w => Sys2Proof.Machine.execTstamp w s
  | .rayEnq w => Sys2Proof.Machine.execRayEnq w s
  | .rayBox4 w => Sys2Proof.Machine.execRayBox4 w s
  | .rayTri w => Sys2Proof.Machine.execRayTri w s
  | .rayNext w => Sys2Proof.Machine.execRayNext w s
  | .rayHit w => Sys2Proof.Machine.execRayHit w s
  | .rayFin w => Sys2Proof.Machine.execRayFin w s
  | .primEmit w => Sys2Proof.Machine.execPrimEmit w s
  | .primEmitClose w => Sys2Proof.Machine.execPrimEmitClose w s
  | .visRead w => Sys2Proof.Machine.execVisRead w s
  | .texReq w => Sys2Proof.Machine.execTexReq w s
  | .blkDcmp w => Sys2Proof.Machine.execBlkDcmp w s
  | .tld w => Sys2Proof.Machine.execTld w s
  | .tldt w => Sys2Proof.Machine.execTldt w s
  | .tst w => Sys2Proof.Machine.execTst w s
  | .tzero w => Sys2Proof.Machine.execTzero w s
  | .tgather w => Sys2Proof.Machine.execTgather w s
  | .nzscan w => Sys2Proof.Machine.execNzscan w s
  | .mma w => Sys2Proof.Machine.execMma w s
  | .mmaS w => Sys2Proof.Machine.execMmaS w s
  | .accMov w => Sys2Proof.Machine.execAccMov w s
  | .accLd w => Sys2Proof.Machine.execAccLd w s
  | .accSt w => Sys2Proof.Machine.execAccSt w s
  | .accCvt w => Sys2Proof.Machine.execAccCvt w s
  | .accZero w => Sys2Proof.Machine.execAccZero w s
  | .instructionFetchFault => Sys2Proof.Machine.execInstructionFetchFault s
  | .runArbitration => Sys2Proof.Machine.execRunArbitration s
  | .loadCompletion op => Sys2Proof.Machine.execLoadCompletion op s
  | .atomCompletion op => Sys2Proof.Machine.execAtomCompletion op s
  | .specialFunctionCompletion prod => Sys2Proof.Machine.execSpecialFunctionCompletion prod s
  | .qxmaxExchangeCompletion prod => Sys2Proof.Machine.execQxmaxExchangeCompletion prod s
  | .accMovCompletion prod => Sys2Proof.Machine.execAccMovCompletion prod s
  | .tileRowLoadCompletion op => Sys2Proof.Machine.execTileRowLoadCompletion op s
  | .mmaEntryPerform engine slot => Sys2Proof.Machine.execMmaEntryPerform engine slot s
  | .waitDeadlineExpiry thread => Sys2Proof.Machine.execWaitDeadlineExpiry thread s
  | .sendTTimeout thread => Sys2Proof.Machine.execSendTTimeout thread s
  | .messagePlaceGrant thread => Sys2Proof.Machine.execMessagePlaceGrant thread s
  | .messageArrival msg => Sys2Proof.Machine.execMessageArrival msg s
  | .handlerStart core ctx => Sys2Proof.Machine.execHandlerStart core ctx s
  | .heldMessageRouteReturn msg => Sys2Proof.Machine.execHeldMessageRouteReturn msg s
  | .pocketAgeExpiry stand pocket => Sys2Proof.Machine.execPocketAgeExpiry stand pocket s
  | .waveQueueStart stand engine slot quarter => Sys2Proof.Machine.execWaveQueueStart stand engine slot quarter s
  | .waitingThreadTakesContext core ctx => Sys2Proof.Machine.execWaitingThreadTakesContext core ctx s
  | .workgroupWatchdogExpiry launch wg => Sys2Proof.Machine.execWorkgroupWatchdogExpiry launch wg s
  | .launchFatalEnd launch => Sys2Proof.Machine.execLaunchFatalEnd launch s
  | .workgroupPlacement launch wg stand => Sys2Proof.Machine.execWorkgroupPlacement launch wg stand s
  | .workgroupRetire launch wg => Sys2Proof.Machine.execWorkgroupRetire launch wg s
  | .homeReadLeaseGrant op part => Sys2Proof.Machine.execHomeReadLeaseGrant op part s
  | .homeWritePerformed op part => Sys2Proof.Machine.execHomeWritePerformed op part s
  | .writeAckAtStand op part => Sys2Proof.Machine.execWriteAckAtStand op part s
  | .scOperationPerformed op part => Sys2Proof.Machine.execScOperationPerformed op part s
  | .leaseSweep stand => Sys2Proof.Machine.execLeaseSweep stand s
  | .l1RetentionWake stand => Sys2Proof.Machine.execL1RetentionWake stand s
  | .engineOwnershipGrant cmd line => Sys2Proof.Machine.execEngineOwnershipGrant cmd line s
  | .engineRecallComplete line => Sys2Proof.Machine.execEngineRecallComplete line s
  | .buddyTakeover line => Sys2Proof.Machine.execBuddyTakeover line s
  | .memoryPortArrival op part => Sys2Proof.Machine.execMemoryPortArrival op part s
  | .translationWalk walk => Sys2Proof.Machine.execTranslationWalk walk s
  | .flumeCommandAtHead cluster ring => Sys2Proof.Machine.execFlumeCommandAtHead cluster ring s
  | .flumeBeatService cluster => Sys2Proof.Machine.execFlumeBeatService cluster s
  | .flumeCommandComplete cluster ring => Sys2Proof.Machine.execFlumeCommandComplete cluster ring s
  | .boomSelection die scene reach stand => Sys2Proof.Machine.execBoomSelection die scene reach stand s
  | .reachLoadComplete stand => Sys2Proof.Machine.execReachLoadComplete stand s
  | .batchEnd stand => Sys2Proof.Machine.execBatchEnd stand s
  | .batchLimitExpiry stand => Sys2Proof.Machine.execBatchLimitExpiry stand s
  | .driveAccessFault die stand => Sys2Proof.Machine.execDriveAccessFault die stand s
  | .taskDispatch stand task core ctx => Sys2Proof.Machine.execTaskDispatch stand task core ctx s
  | .commitReduction launch => Sys2Proof.Machine.execCommitReduction launch s
  | .taskCommit launch => Sys2Proof.Machine.execTaskCommit launch s
  | .binEntryRasterize launch die tile => Sys2Proof.Machine.execBinEntryRasterize launch die tile s
  | .tileVisibilityFinal launch tile => Sys2Proof.Machine.execTileVisibilityFinal launch tile s
  | .emissionForcedClose launch die => Sys2Proof.Machine.execEmissionForcedClose launch die s
  | .tileWriteBack launch tile => Sys2Proof.Machine.execTileWriteBack launch tile s
  | .textureReply req => Sys2Proof.Machine.execTextureReply req s
  | .balancerStandMove stand => Sys2Proof.Machine.execBalancerStandMove stand s
  | .balancerAutoTick die => Sys2Proof.Machine.execBalancerAutoTick die s
  | .qresvRead queue => Sys2Proof.Machine.execQresvRead queue s
  | .qresvTimeout queue => Sys2Proof.Machine.execQresvTimeout queue s
  | .qresvsRead queue => Sys2Proof.Machine.execQresvsRead queue s
  | .qresvsBusyTimeout queue => Sys2Proof.Machine.execQresvsBusyTimeout queue s
  | .doorbellWrite queue val => Sys2Proof.Machine.execDoorbellWrite queue val s
  | .qctlWrite queue val => Sys2Proof.Machine.execQctlWrite queue val s
  | .qstatWrite queue val => Sys2Proof.Machine.execQstatWrite queue val s
  | .launch queue => Sys2Proof.Machine.execLaunch queue s
  | .signalCommand queue => Sys2Proof.Machine.execSignalCommand queue s
  | .queueWaitCommand queue => Sys2Proof.Machine.execQueueWaitCommand queue s
  | .queueWaitPoll queue => Sys2Proof.Machine.execQueueWaitPoll queue s
  | .queueWaitTimeout queue => Sys2Proof.Machine.execQueueWaitTimeout queue s
  | .messageCommand queue => Sys2Proof.Machine.execMessageCommand queue s
  | .bind queue => Sys2Proof.Machine.execBind queue s
  | .resume queue => Sys2Proof.Machine.execResume queue s
  | .qpreemptWrite queue val => Sys2Proof.Machine.execQpreemptWrite queue val s
  | .preemptionComplete launch => Sys2Proof.Machine.execPreemptionComplete launch s
  | .cruiseStart queue => Sys2Proof.Machine.execCruiseStart queue s
  | .cruiseClaim queue => Sys2Proof.Machine.execCruiseClaim queue s
  | .cruiseDiscard cruise => Sys2Proof.Machine.execCruiseDiscard cruise s
  | .cruiseIdleTimeout cruise => Sys2Proof.Machine.execCruiseIdleTimeout cruise s
  | .crstartRead queue => Sys2Proof.Machine.execCrstartRead queue s
  | .crclaimRead queue => Sys2Proof.Machine.execCrclaimRead queue s
  | .crdiscRead queue => Sys2Proof.Machine.execCrdiscRead queue s
  | .crcauseRead queue => Sys2Proof.Machine.execCrcauseRead queue s
  | .freplayWrite part val => Sys2Proof.Machine.execFreplayWrite part val s
  | .fcancelWrite part val => Sys2Proof.Machine.execFcancelWrite part val s
  | .fqconsWrite part val => Sys2Proof.Machine.execFqconsWrite part val s
  | .invctlStart part val => Sys2Proof.Machine.execInvctlStart part val s
  | .invalidationComplete inval => Sys2Proof.Machine.execInvalidationComplete inval s
  | .migctlStart part val => Sys2Proof.Machine.execMigctlStart part val s
  | .migrationComplete mig => Sys2Proof.Machine.execMigrationComplete mig s
  | .atsTranslationCompletion walk addr perms => Sys2Proof.Machine.execAtsTranslationCompletion walk addr perms s
  | .atsInvalidateRequest pasid addr size tag => Sys2Proof.Machine.execAtsInvalidateRequest pasid addr size tag s
  | .prgResponse prg code => Sys2Proof.Machine.execPrgResponse prg code s
  | .cxlPortFailure port timeout => Sys2Proof.Machine.execCxlPortFailure port timeout s
  | .cxlstatWrite port val => Sys2Proof.Machine.execCxlstatWrite port val s
  | .cxldropRead port => Sys2Proof.Machine.execCxldropRead port s
  | .packageUnreachableTimeout part pkg => Sys2Proof.Machine.execPackageUnreachableTimeout part pkg s
  | .pkglostDeclare part val => Sys2Proof.Machine.execPkglostDeclare part val s
  | .pkglostRestore part val => Sys2Proof.Machine.execPkglostRestore part val s
  | .standownWrite stand val => Sys2Proof.Machine.execStandownWrite stand val s
  | .standownTakeEffect stand => Sys2Proof.Machine.execStandownTakeEffect stand s
  | .pctlWrite part val => Sys2Proof.Machine.execPctlWrite part val s
  | .discardRead part => Sys2Proof.Machine.execDiscardRead part s
  | .evconsWrite part val => Sys2Proof.Machine.execEvconsWrite part val s
  | .pflogconsWrite val => Sys2Proof.Machine.execPflogconsWrite val s
  | .keyGenerate part => Sys2Proof.Machine.execKeyGenerate part s
  | .keyInstall part => Sys2Proof.Machine.execKeyInstall part s
  | .keyErase part => Sys2Proof.Machine.execKeyErase part s
  | .balctlWrite die val => Sys2Proof.Machine.execBalctlWrite die val s
  | .ctrselWrite part idx val => Sys2Proof.Machine.execCtrselWrite part idx val s
  | .collectiveAllReduce part engine => Sys2Proof.Machine.execCollectiveAllReduce part engine s
  | .collectiveAllGather part engine => Sys2Proof.Machine.execCollectiveAllGather part engine s
  | .collectiveSignal part engine => Sys2Proof.Machine.execCollectiveSignal part engine s
  | .lnkreplayRead link => Sys2Proof.Machine.execLnkreplayRead link s
  | .eloaLinkDown link => Sys2Proof.Machine.execEloaLinkDown link s
  | .powerOnBoot fail size0 size1 id => Sys2Proof.Machine.execPowerOnBoot fail size0 size1 id s
  | .provisionWrite val => Sys2Proof.Machine.execProvisionWrite val s
  | .getVersion part => Sys2Proof.Machine.execGetVersion part s
  | .getCapabilities part => Sys2Proof.Machine.execGetCapabilities part s
  | .negotiateAlgorithms part => Sys2Proof.Machine.execNegotiateAlgorithms part s
  | .getDigests part => Sys2Proof.Machine.execGetDigests part s
  | .getCertificate part => Sys2Proof.Machine.execGetCertificate part s
  | .challenge part => Sys2Proof.Machine.execChallenge part s
  | .getMeasurements part => Sys2Proof.Machine.execGetMeasurements part s
  | .keyExchange part => Sys2Proof.Machine.execKeyExchange part s
  | .finish part => Sys2Proof.Machine.execFinish part s
  | .wrappedKeyDelivery part => Sys2Proof.Machine.execWrappedKeyDelivery part s
  | .parityRetry unit => Sys2Proof.Machine.execParityRetry unit s
  | .dramScrub line cls => Sys2Proof.Machine.execDramScrub line cls s
  | .correctedLineRewrite line => Sys2Proof.Machine.execCorrectedLineRewrite line s
  | .unitFence unit cause => Sys2Proof.Machine.execUnitFence unit cause s
  | .cecountRead => Sys2Proof.Machine.execCecountRead s
  | .uecountRead => Sys2Proof.Machine.execUecountRead s
  | .misdirRead => Sys2Proof.Machine.execMisdirRead s
  | .parretryRead => Sys2Proof.Machine.execParretryRead s
  | .pwrmodeWrite val => Sys2Proof.Machine.execPwrmodeWrite val s
  | .governorTick power => Sys2Proof.Machine.execGovernorTick power s
  | .thermalLimit temp => Sys2Proof.Machine.execThermalLimit temp s
  | .registerWrite off val => Sys2Proof.Machine.execRegisterWrite off val s
  | .clocksResumeBelow95c temp => Sys2Proof.Machine.execClocksResumeBelow95c temp s
  | .clockRelockComplete => Sys2Proof.Machine.execClockRelockComplete s
  | .l1RetentionSleep stand => Sys2Proof.Machine.execL1RetentionSleep stand s
  | .eloaLinkUp link peer => Sys2Proof.Machine.execEloaLinkUp link peer s
  | .flitCrcReplay link => Sys2Proof.Machine.execFlitCrcReplay link s
  | .atsCompletionTimeout walk => Sys2Proof.Machine.execAtsCompletionTimeout walk s
  | .rootComplexWriteAck op part => Sys2Proof.Machine.execRootComplexWriteAck op part s
  | .l2RehomingComplete slice => Sys2Proof.Machine.execL2RehomingComplete slice s
  | .fqctlWrite part val => Sys2Proof.Machine.execFqctlWrite part val s

end Sys2Proof.Machine
end

