-- ==== Sys2Proof/Machine/Step.lean ====
section
/-!
DEFINITION. One step of the machine: the next turn's time passes and its move takes place; with no turn waiting, the
unit in focus issues (log 1). Around `exec` the step fetches and decodes, settles parity failures (R383) and stands still
while the clocks do (R399), and nothing else.
-/

namespace Sys2Proof.Machine

/-- The unit in focus issues: the next instruction of its run, or at a run boundary the choice of the next run. -/
def issueStep (s : State) : Host.Outcome State Fault Refusal :=
  match s.nextInstr with
  | none => exec .runArbitration s
  | some (.instr i) => if s.sliceBorder i then .next s.endSlice else s.issued i (exec i s)
  | some (.illegal ws) => .next (State.issueIllegal ws s)
  | some (.miss va) => .next (s.askFetch va)
  | some (.fault _ _ _) => exec .instructionFetchFault s
  | some (.poisoned pa key) => .next (s.fetchPoison pa key)

/-- One step. -/
def step (s : State) : Host.Outcome State Fault Refusal :=
  match s.turns with
  | [] => if s.pkg.clocksStopped then .refused (.notDue "clocks stopped") else issueStep s
  | turn :: rest =>
    let s := s.pass turn rest
    if s.pkg.clocksStopped && turn.act.clocked then .refused (.notDue "clocks stopped")
    else
      match turn.act with
      | .issue e => issueStep { s with focus := e }
      | .event i => exec i s
      | .upset w double => .next (s.upset w double)
      | .stage off bs => .next (s.stage off bs)

/-- A state with one instruction stored where `step` fetches its next instruction (log 2): a scalar thread of launch 0
in context 0 of core 0, whose run is in progress at an executable page; the bits above `nbits` are zero. -/
def State.withFetchWord (s : State) (nbits w : Nat) : State := s.placeProgram (w % 2 ^ nbits)

end Sys2Proof.Machine
end

