-- ==== Sys2Proof/Safety.lean ====
section
/-!
DEFINITION. What claims about runs are said with: the canonical form of every memory, the meaning behind each
operation, the conditions under which a group's instruction runs to its effect (R121, R125, R139), and the state that
effect leaves.
-/

namespace Sys2Proof.Safety

open Sys2Proof.Machine

/-- The four memories of a state, device, local, host and remote, are in canonical form. -/
def MemWf (s : State) : Prop :=
  s.mem.dram.wf = true ∧ s.mem.loc.wf = true ∧ s.mem.host.wf = true ∧ s.mem.remote.wf = true

/-- The machine's step does not end in a fault. -/
def NoFault (s : State) : Prop := ∀ f, step s ≠ .fault f

/-- The meaning behind each operation of R135. -/
def semOf : Op → Sem
  | .add | .sub | .addc | .subb | .mulLo | .mulHi | .mulw | .mad | .div | .rem | .neg | .abs | .min
  | .max | .and | .or | .xor | .not | .andn | .shl | .shr | .sra | .rol | .ror | .bfe | .bfi | .popc
  | .clz | .ctz | .brev => intSem
  | .sel => selSem
  | .mov => movSem
  | .movk => movkSem
  | .lit => litSem
  | .lea => leaSem
  | .leam => leamSem
  | .cmp => cmpSem
  | .pand | .por | .pxor | .pnot => predSem
  | .nop => nopSem
  | .bra | .brx | .jmp | .call | .ret | .loop => transferSem
  | .syncw => syncwSem
  | .reform => reformSem
  | .reformS => reformSSem
  | .yield => nopSem
  | .halt | .haltR => haltSem
  | .wait => waitSem
  | .send => sendSem
  | .sendT => sendTSem
  | .sendb => sendSem
  | .post => postSem
  | .spawn => sendSem
  | .trap => trapSem
  | .eret => eretSem
  | .rdcr => rdcrSem
  | .wrcr => wrcrSem
  | .femark => femarkSem
  | .fefill => fefillSem
  | .trace => traceSem
  | .cntrFold => cntrFoldSem
  | .fadd | .fsub | .fmul | .ffma => fltSem
  | .fmin | .fmax => fltMinMaxSem
  | .fabs | .fneg => fltSignSem
  | .fcmp => fltCmpSem
  | .fclass => fltClassSem
  | .frnd => fltRoundSem
  | .frcp | .frsq | .fsqrt | .fexp2 | .flog2 | .fsin | .fcos | .ftanh => specialSem
  | .cvt => cvtSem
  | .gcvt => gcvtSem
  | .gcmp => gcmpSem
  | .gclass => gclassSem
  | .dot4 => dotSem
  | .vadd | .vsub | .vmul | .vmad | .vmin | .vmax => vecSem
  | .shfl => shflSem
  | .ballot => ballotSem
  | .vote => voteSem
  | .rand => randSem
  | .qxmax => qxmaxSem
  | .qscale => qscaleSem
  | .qcvt => qcvtSem
  | .ld => loadSem
  | .st => storeSem
  | .ldg => loadSem
  | .sts => storeSem
  | .pref => prefSem
  | .atom => atomSem
  | .fence => fenceSem
  | .barArr => barArriveSem false
  | .barWait => barWaitSem
  | .barSync => barArriveSem true
  | .cvsign => cvsignSem
  | .cvwait => cvwaitSem
  | .bndSet => bndSem
  | .flumeCopy | .flumeTile => flumeSem
  | .flumeWait => flumeWaitSem
  | .flumeCvt => flumeSem
  | .gset => gsetSem
  | .gclr => gclrSem
  | .tspawn => tspawnSem
  | .trange => trangeSem
  | .tdone => tdoneSem true
  | .tabort => tdoneSem false
  | .tstamp => tstampSem
  | .rayEnq => rayEnqSem
  | .rayBox4 => rayBoxSem
  | .rayTri => rayTriSem
  | .rayNext => rayNextSem
  | .rayHit => rayHitSem
  | .rayFin => rayFinSem
  | .primEmit => primEmitSem
  | .primEmitClose => primCloseSem
  | .visRead => visReadSem
  | .texReq => texReqSem
  | .blkDcmp => dcmpSem
  | .tld => tldSem
  | .tldt => tldtSem
  | .tst => tstSem
  | .tzero => tzeroSem
  | .tgather => tldSem
  | .nzscan => nzscanSem
  | .mma | .mmaS => mmaSem
  | .accMov => accMovSem
  | .accLd => accLdSem
  | .accSt => accStSem
  | .accCvt => accCvtSem
  | .accZero => accZeroSem

/-- An instruction reaches its own checks for the threads `go` of the run in progress, `lead` the lowest of them, and no other
leads it since an issue that was held (R128, R202): no guard predicate is poisoned (R121), they are the active set, their encoding, ranges and features pass (R138, R129, R28),
every source and destination is full (R125) and no source is poisoned (R50). -/
def Reached (sem : Sem) (k : Ins) (s : State) (r : Run) (lead : Nat) (go : List Nat) : Prop :=
  s.run? = some r ∧
  (∀ t ∈ r.members, ((s.thread? t).all fun th => th.status != .ready || (State.guardPoison th k).isNone) = true) ∧
  s.activeSet r k = go ∧ go.head? = some lead ∧
  (∀ t ∈ go, (State.precheck sem r k s t).2 = true) ∧
  (∀ t ∈ go, s.mustWait t k (t == lead) = false) ∧
  (∀ t ∈ go, State.sourceCheck k s (t == lead) t = .ok) ∧
  (s.heldLead.all fun l => l == lead) = true

/-- Nothing stands in the way of instruction `k`: it reaches its own checks, they pass, and nothing further makes the
group wait (R139). -/
def Clear (sem : Sem) (k : Ins) (s : State) (r : Run) (lead : Nat) (go : List Nat) : Prop :=
  Reached sem k s r lead go ∧ (∀ t ∈ go, sem.check k lead s t = .ok) ∧ sem.ready k go s = true

/-! ### What an instruction's next state holds -/

/-- Registers `d` to `d + n - 1` of a thread hold the words of `v`, lowest first, full and unpoisoned; g0 takes nothing,
and every other register is as before. -/
def Wrote (th th' : Thread) (d n v : Nat) : Prop :=
  (∀ j < n, d + j ≠ 0 → th'.readG (d + j) = { val := BitVec.ofNat 32 (v / 2 ^ (32 * j)) }) ∧
  ∀ m, m < d ∨ d + n ≤ m → th'.readG m = th.readG m

/-- Predicate `d` of a thread holds `v`, full and unpoisoned; p0 takes nothing, and every other predicate is as
before. -/
def WroteP (th th' : Thread) (d : Nat) (v : Bool) : Prop :=
  (d ≠ 0 → th'.readP d = { val := v }) ∧ ∀ m, m ≠ d → th'.readP m = th.readP m

/-- Mailbox registers `d` to `d + n - 1` of a thread hold the words of `v`, lowest first, full and unpoisoned; every
other one is as before. -/
def WroteMb (th th' : Thread) (d n v : Nat) : Prop :=
  (∀ j < n, th'.readMb (d + j) = { val := BitVec.ofNat 32 (v / 2 ^ (32 * j)) }) ∧
  ∀ m, m < d ∨ d + n ≤ m → th'.readMb m = th.readMb m

/-- Each operand queue of a thread that held `top` entries has lost one from its head for every source register that names it:
of the entries the thread had still to take, those that stand beyond (R127, R310). -/
def Popped (k : Ins) (wave : Bool) (top : Nat → Nat) (th th' : Thread) : Prop :=
  ∀ q, th'.oq.getD q [] =
    if th.sliced ∧ q < 4 ∧ State.popCount k wave q ≠ 0 then
      (th.oq.getD q []).drop ((th.oq.getD q []).length - (top q - State.popCount k wave q))
    else th.oq.getD q []

/-- An engine but for what counting and tracing write: its counters and its trace ring (R394, R395). -/
def unlogged (e : Engine) : Engine := { e with ctr := [], ring := [], written := 0 }

/-- The units after an instruction that keeps its threads in the run: another unit is as before, but for the counters and the
trace ring of the engine whose skidder issued it; of its own unit only the run, the counters and, where it logs, the trace ring
differ; the run has moved past it and ends at E, and its group is then marked yielding where Y was set or YIELD executed
(R124, R131, R134, R394, R395). -/
def RunAdvances (s t : State) (k : Ins) (r : Run) : Prop :=
  (∀ e, e ≠ s.focus → e ≠ unitEngine s.focus → t.engine e = s.engine e) ∧
  (∀ e, e ≠ s.focus → unlogged (t.engine e) = unlogged (s.engine e)) ∧
  { s.engine s.focus with
    run := (t.engine s.focus).run, yielded := (t.engine s.focus).yielded, ctr := (t.engine s.focus).ctr
    ring := (t.engine s.focus).ring, written := (t.engine s.focus).written } = t.engine s.focus ∧
  t.run? = (if k.w.e then none else
    some { r with pc := r.pc + BitVec.ofNat 64 k.len, count := r.count + 1
                  addFamily := k.op == .add || k.op == .sub || k.op == .addc || k.op == .subb
                  yield := r.yield || k.w.y || k.op == .yield, lead := none }) ∧
  (t.engine s.focus).yielded =
    if k.w.e && (r.yield || k.w.y || k.op == .yield) then (s.engine s.focus).yielded.add r.group
    else (s.engine s.focus).yielded

/-- What every instruction leaves that keeps its threads in the run: other threads are as before, and its engine's run
advances. -/
def RunGoesOn (s t : State) (k : Ins) (r : Run) : Prop :=
  (∀ u, u ∉ r.members → t.thread? u = s.thread? u) ∧ RunAdvances s t k r

/-- The threads of the run in progress that are idle in an instruction which `go` performs. -/
def idle (s : State) (go : List Nat) : List Nat :=
  distinct ((s.run?.elim [] (·.members)).filter fun t => s.issuing t && !go.contains t)

/-- What follows an instruction's effect, which has left `x`: an access slice's pushes are made for idle lanes too (R309), the
queues its sources name are popped, in idle lanes too (R127), the issue is counted (R395), and the run moves on or ends
(R131). -/
def concluded (s : State) (k : Ins) (go : List Nat) (x : State) : State :=
  let y := if k.w.sl then (idle s go).foldl (State.pushIdle k) x else x
  (((go ++ idle s go).foldl (State.popQueues s.queueTop k) y).countEvent y.focus 1 1).retire k

/-- The next state of an instruction that acts on its own threads: the run goes on, every thread of `go` is as `P` says of
it before and after, and its other threads have only moved past it. -/
def Effect (s t : State) (k : Ins) (r : Run) (go : List Nat) (P : Nat → Thread → Thread → Prop) : Prop :=
  RunGoesOn s t k r ∧
  ∀ u ∈ r.members, ∀ th, s.thread? u = some th → ∃ th', t.thread? u = some th' ∧
    (u ∈ go → Popped k (s.homeOf u).isWave (s.queueTop u) th th' ∧ P u th th') ∧
    (u ∉ go →
      { th' with oq := th.oq } = { th with pc := r.pc + BitVec.ofNat 64 k.len } ∧
      (s.issuing u = true → Popped k (s.homeOf u).isWave (s.queueTop u) th th') ∧ (s.issuing u = false → th'.oq = th.oq))

/-- A thread that has moved past the instruction and differs besides only as `th'` says in the fields that `keep` puts
back. -/
def PastBut (k : Ins) (r : Run) (th th' : Thread) (keep : Thread → Thread) : Prop :=
  th'.pc = r.pc + BitVec.ofNat 64 k.len ∧ keep { th' with pc := th.pc, oq := th.oq } = th

/-! ### Memory-mapped registers -/

/-- Register `off` has become `v`, and nothing else has changed. -/
def SetTo (s t : State) (off : Nat) (v : W32) : Prop :=
  t.reg off = v ∧ (∀ o, o ≠ off → t.reg o = s.reg o) ∧ { t with bar0 := s.bar0 } = s

/-- A step's instruction sets register `off` to `v` and changes nothing else. -/
def Sets (i : Instr) (s : State) (off : Nat) (v : W32) : Prop := ∃ t, exec i s = .next t ∧ SetTo s t off v

/-- Offset, writable bits, and whether a write is ignored now, of the registers whose write only stores (R329, R348, R369, R371, R373,
R393, R395): bases are locked while what they describe is enabled. -/
def StoredRegister (s : State) (off mask : Nat) (locked : Bool) : Prop :=
  (∃ q, q < 4096 ∧
    ((locked = s.qEnabled q ∧ (off, mask) ∈ [(queueReg q 0, 0xFFFFFF00), (queueReg q 4, 0xFFFFFFFF)]) ∨
     (locked = false ∧ (off, mask) ∈
       [(queueReg q 0x28, 0xFFFFF000), (queueReg q 0x2C, 0xFFFFFFFF), (queueReg q 0x30, 0xFFFFFFFF)]))) ∨
  (∃ p, p < 64 ∧
    ((locked = (s.reg (transReg p 8)).getLsbD 0 ∧ (off, mask) ∈ [(transReg p 0, 0xFFFFF000), (transReg p 4, 0x1FFF)]) ∨
     (locked = (s.reg (transReg p 0x18)).getLsbD 0 ∧
       (off, mask) ∈ [(transReg p 0x10, 0xFFFFFFC0), (transReg p 0x14, 0xFFFFFFFF)]) ∨
     (locked = false ∧ (off, mask) ∈ [(transReg p 0x30, 0xFFFF0000), (transReg p 0x34, 0x1FFFFFF), (transReg p 0x40, 0xFFFF0000),
       (transReg p 0x44, 0x1FFFFFF), (transReg p 0x48, 0xFFFF0000), (transReg p 0x4C, 0x1FFF)]) ∨
     (locked = s.partEnabled p ∧ (off, mask) ∈ [(partReg p 8, 0xFFFF8000), (partReg p 0xC, 0xFFFFFFFF), (partReg p 0x10, 0x1FFFFFF),
       (partReg p 0x14, 0xFFF), (partReg p 0x18, 0xFFFF0000), (partReg p 0x1C, 0xFFFFFFFF), (partReg p 0x20, 0xFFFFFFFF)]) ∨
     (locked = (s.reg (partReg p 0x30)).getLsbD 0 ∧
       (off, mask) ∈ [(partReg p 0x28, 0xFFFFFFE0), (partReg p 0x2C, 0xFFFFFFFF)]) ∨
     (locked = false ∧ ∃ n, n < 16 ∧ off = partReg p (0x60 + 4 * n) ∧ mask = 0xFFFF))) ∨
  (locked = decide (s.bootState = 4) ∧ off = pkgidReg ∧ mask = 0x3FFFFF) ∨
  (locked = false ∧ (off, mask) ∈ [(pfReg 0, 0xFFFFFFE0), (pfReg 4, 0xFFFFFFFF)])

/-- The offsets whose write can have an effect (R10, R329, R348, R364, R369, R370, R372, R373, R378, R393, R395, R397). -/
def Writable (off : Nat) : Prop :=
  (∃ q o, q < 4096 ∧ off = queueReg q o ∧ o ∈ [0, 4, 8, 0xC, 0x18, 0x20, 0x24, 0x28, 0x2C, 0x30]) ∨
  (∃ p o, p < 64 ∧ off = transReg p o ∧
    o ∈ [0, 4, 8, 0x10, 0x14, 0x18, 0x20, 0x24, 0x28, 0x2C, 0x30, 0x34, 0x38, 0x40, 0x44, 0x48, 0x4C, 0x50, 0x54]) ∨
  (∃ p o, p < 64 ∧ off = partReg p o ∧
    (o ∈ [0, 8, 0xC, 0x10, 0x14, 0x18, 0x1C, 0x20, 0x28, 0x2C, 0x30, 0x38, 0x44, 0x48, 0x50] ∨ ∃ n, n < 16 ∧ o = 0x60 + 4 * n)) ∨
  (∃ p, p < 2 ∧ (off = cxlReg p 0 ∨ off = cxlReg p 4)) ∨ (∃ n, n < 2048 ∧ off = standownReg n) ∨
  (∃ d, d < 4 ∧ off = balReg d 4) ∨ off ∈ [pkgidReg, 0x6000004, pfReg 0, pfReg 4, pfReg 8, pfReg 0x10, powerReg 0]

/-- The byte-addressed memories, by the numbers `Part.span` gives their spaces (R57, R60, R70, R374). -/
def spaceMem (m : Mem) : Nat → Memory
  | 0 => m.dram
  | 1 => m.loc
  | 2 => m.host
  | _ => m.remote

/-- The address of a thread's element: base plus offset (R199); of LDG and STS the lowest-numbered active thread's, and from it
one element further for each lane, two raw 4-bit elements to a byte (R202). -/
def elemEa (s : State) (k : Ins) (lead u : Nat) : W64 :=
  if k.op = .ldg ∨ k.op = .sts then
    let w := (s.elemBits k lead (s.memEa lead k)).1
    let l := (s.homeOf u).lane
    s.memEa lead k + BitVec.ofNat 64 (if w = 4 ∧ k.typed = false then l / 2 else l * memBytes w)
  else s.memEa u k

/-- The parts an access resolves to. -/
def partsOf : LocRes → List Part
  | .parts ps => ps
  | _ => []

/-- What an operation that thread `u` issues for a memory instruction holds: its kind, order, scope, address and the parts that
address resolves to (R72, R76, R199-R202, R206). -/
def IssuedFor (s : State) (k : Ins) (lead u : Nat) (th : Thread) (o : MemOp) : Prop :=
  o.tid = u ∧ o.part = th.part ∧ o.launch = th.launch ∧ o.stand = (s.homeOf u).stand ∧ o.orphan = false ∧
  o.kind = (if k.op ∈ [Op.ld, .ldg] then .load else if k.op = .atom then .atomic else .store) ∧
  o.ord = k.ordering ∧ o.scope = k.scope ∧ o.ty = k.ty ∧
  o.stamp = (if k.ordering = 5 then some (max (th.sc + 1) s.gtc) else none) ∧ o.ea = (elemEa s k lead u).toNat ∧
  o.parts.map (fun p => (p.place, p.n)) = (partsOf (s.locateAcc k u (s.access k lead u))).map fun p => (p.place, p.n)

/-- The bytes thread `u` stores: D's element in the width the instruction or the bank gives it (R200, R201). -/
def storedBytes (s : State) (k : Ins) (lead u : Nat) : List Byte :=
  let a := s.access k lead u
  let v := s.srcVal u k .d
  (bytesOfNat a.n (if k.typed then elemOf k.ty v else v % 2 ^ intWidth k.ty)).map (placeNibble a.nib)

/-- The message thread `u` makes with SEND, SEND.T, SENDB or SPAWN: the core and the package operand A names; the index, or of
SPAWN the code address, in B; X registers from C, or of SENDB the bytes of the sender's local memory that C gives, with their
poison (R157-R160). -/
def MessageOf (s : State) (k : Ins) (u : Nat) (th : Thread) (m : Msg) : Prop :=
  let v := s.srcVal u k .a
  let core := (s.homeOf u).refCore
  m.core = v % 2 ^ 18 ∧
  m.pkg = (if v / 2 ^ 32 = 0xFFFFFFFF ∨ v / 2 ^ 32 % 2 ^ 22 = s.pkgId then none else some (v / 2 ^ 32 % 2 ^ 22)) ∧
  m.part = th.part ∧ m.launch = th.launch ∧ m.wg = th.wg ∧ m.sender = u ∧ m.srcCore = core ∧ m.srcPkg = s.pkgId ∧
  m.index = (if k.op = .spawn then 0 else (s.wordB u k).toNat % 4096) ∧
  m.spawn = (if k.op = .spawn then some (BitVec.ofNat 64 (s.srcVal u k .b)) else none) ∧
  m.payload = (if k.op = .sendb then [] else (List.range k.x).map fun j => (s.readReg u k .c .g (k.c + j)).val) ∧
  m.barge.map Prod.fst = (if k.op = .sendb then
    some (s.locBytes (locKey core (s.srcVal u k .c % 2 ^ 15)) (s.srcVal u k .c / 2 ^ 16 % 2 ^ 13)) else none)

/-- The registers the thread of a message starts with: the payload words, or a barge's length and the area that holds it, in g1 to
g8; the descriptor in g9; the sender's core and package in g10 and g11; every other general register zero and full, p0 true and p1
to p7 false, no k register, mailbox register or operand queue filled, the flags clear and its next stamp after the time of its
start (R34, R35, R89). -/
def StartsWith (s : State) (m : Msg) (desc area : Nat) (th : Thread) : Prop :=
  th.part = m.part ∧ th.launch = m.launch ∧ th.wg = m.wg ∧ th.status = .ready ∧ th.sc = s.gtc ∧
  (m.barge = none → ∀ n < 8, th.readG (n + 1) = { val := m.payload.getD n 0 }) ∧
  (∀ bs bad, m.barge = some (bs, bad) → th.readG 1 = { val := BitVec.ofNat 32 bs.length } ∧
    th.readG 2 = { val := BitVec.ofNat 32 area } ∧ ∀ n, 3 ≤ n → n ≤ 8 → th.readG n = {}) ∧
  th.readG 9 = { val := BitVec.ofNat 32 desc } ∧ th.readG 10 = { val := BitVec.ofNat 32 m.srcCore } ∧
  th.readG 11 = { val := BitVec.ofNat 32 m.srcPkg } ∧ (∀ n, 12 ≤ n → th.readG n = {}) ∧
  (∀ n, th.readP n = { val := n == 0 }) ∧ th.k = [] ∧ th.mb = [] ∧ th.oq = [] ∧ th.fex = 0

/-- The value D takes from an instruction of majors 0x01 to 0x25 (R148-R150). -/
def wordValue (s : State) (k : Ins) (u : Nat) : Nat :=
  let w := intWidth k.ty
  let sg := intSigned k.ty
  match k.op with
  | .sel => intWrite w sg (if s.selTakes k u then s.srcVal u k .a else s.intB u k)
  | .mov => intWrite w sg (s.intB u k)
  | .lit => intWrite w sg ((k.w.lit.map (·.toNat)).getD 0)
  | .lea => s.leaValue k u
  | .leam => meshAddress (s.leamXY k u).1.toNat (s.leamXY k u).2.toNat ((s.wordB u k).toNat % 2 ^ 15)
  | _ => s.intValue k u

/-- Slots but for the k registers of one of them are as before. -/
def SlotsButK (s t : State) (key : Nat) : Prop :=
  (∀ x, x ≠ key → t.slots.get? x = s.slots.get? x) ∧
  (t.slots.get? key).map (fun y : Slot => { y with k := [] }) = (s.slots.get? key).map fun y : Slot => { y with k := [] }

/-- Whether a thread has k registers to write: its own, or those of its wave's slot (R14). -/
def hasK (s : State) (u : Nat) : Bool :=
  match (s.thread? u).map Thread.home with
  | some (.wave e n _) => (s.slot? e n).isSome
  | some _ => true
  | none => false

/-- k registers `d` to `d + n - 1` of thread `u`, its own or its wave's, hold the words of `v`, lowest first, where it has
such registers; every other k register it reads is as before. -/
def WroteK (s t : State) (u d n v : Nat) : Prop :=
  (hasK s u = true → ∀ j < n, t.readK u (d + j) = { val := BitVec.ofNat 32 (v / 2 ^ (32 * j)) }) ∧
  ∀ m, m < d ∨ d + n ≤ m → t.readK u m = s.readK u m

/-- The operations of majors 0x01 to 0x1F (R148). -/
def intOps : List Op :=
  [.add, .sub, .addc, .subb, .mulLo, .mulHi, .mulw, .mad, .div, .rem, .neg, .abs, .min, .max, .and, .or, .xor, .not,
   .andn, .shl, .shr, .sra, .rol, .ror, .bfe, .bfi, .popc, .clz, .ctz, .brev]

/-- The operations of majors 0x01 to 0x25 that write registers through D (R148-R150). -/
def wordOps : List Op := intOps ++ [.sel, .mov, .lit, .lea, .leam]

/-- The operations that write the carry (R148). -/
def carryOps : List Op := [.add, .sub, .addc, .subb]

/-- How many registers an operation of majors 0x01 to 0x25 writes (R147, R148, R150). -/
def wordRegs (k : Ins) : Nat :=
  match k.op with
  | .mulw => if intWidth k.ty = 32 then 2 else 1
  | .lea | .leam => 2
  | _ => intRegs k.ty

/-- The predicate value an instruction of majors 0x26 to 0x33 gives (R151). -/
def predValue (s : State) (k : Ins) (u : Nat) : Bool :=
  match k.op with
  | .cmp => intCond k.minor (intRead k.ty (s.srcVal u k .a)) (intRead k.ty (s.intB u k))
  | .pand => s.srcVal u k .a != 0 && s.srcVal u k .b != 0
  | .por => s.srcVal u k .a != 0 || s.srcVal u k .b != 0
  | .pxor => (s.srcVal u k .a != 0) ^^ (s.srcVal u k .b != 0)
  | _ => !(s.srcVal u k .a != 0)

/-- The generator after n draws (R191). -/
def rngAfter : Nat → W64 → W64
  | 0, st => st
  | n + 1, st => rngAfter n (rngNext st).1

/-- How many outputs an instruction's stochastic rounding draws for each thread (R107, R186). -/
def roundDraws (k : Ins) : Nat :=
  match k.op with
  | .fadd | .fsub | .fmul | .ffma | .frnd | .cvt | .gcvt | .qcvt | .fsqrt => 1
  | .vadd | .vsub | .vmul | .vmad | .vmin | .vmax => if k.ty < 4 then 128 / fmtBits k.ty else 0
  | _ => 0

/-- The generator of a thread after an instruction that rounds: under mode 5 it has drawn (R107), else it stands. -/
def rngRounded (k : Ins) (th : Thread) : W64 :=
  if modeOf th k.hint = 5 then rngAfter (roundDraws k) th.rng else th.rng

/-- The registers a float, packed or quantisation instruction writes (R172, R185, R187). -/
def fltRegs (k : Ins) : Nat :=
  match k.op with
  | .fclass | .gclass | .qscale | .qcvt => 1
  | .cvt | .gcvt => fmtRegs (k.x % 32)
  | .vadd | .vsub | .vmul | .vmad | .vmin | .vmax => 4
  | .dot4 => Ins.dotRegs k.ty
  | _ => fmtRegs k.ty

/-- The value D takes from a float, packed or quantisation instruction, and the flags it raises (R174-R178, R181-R187,
R196, R197). -/
def fltOutcome (s : State) (k : Ins) (u : Nat) : Nat × FFlags :=
  let f := k.ty
  let a := s.fltA k u f
  let b := s.fltB k u f
  let m := (s.rounding u k.hint (roundDraws k)).1
  let us := (s.rounding u k.hint (roundDraws k)).2.1
  match k.op with
  | .fadd | .fsub | .fmul | .ffma =>
    let r := fltArith k.op f m (us.headD 0) a b (s.fltC k u f)
    (elemWrite f r.1, r.2)
  | .fmin | .fmax => let r := fltMinMax (k.op == .fmax) f a b; (elemWrite f r.1, r.2)
  | .fabs | .fneg => let r := fltSign (k.op == .fneg) f a; (elemWrite f r.1, r.2)
  | .fclass => (2 ^ fltClass f a, {})
  | .gclass => (grainClass (fmtBits f) a, {})
  | .frnd => let r := fltRound f m (us.headD 0) a; (elemWrite f r.1, r.2)
  | .cvt =>
    let r := roundVal (k.x % 32) m (us.headD 0) (decodeVal (k.minor % 32) (s.fltA k u (k.minor % 32)))
    (elemWrite (k.x % 32) r.1, r.2)
  | .gcvt =>
    let v := gcvtValue (k.minor % 32) (s.fltA k u (k.minor % 32)) (s.wordB u k).toNat
    let r := roundVal (k.x % 32) m (us.headD 0) v.1
    (elemWrite (k.x % 32) r.1, v.2.or r.2)
  | .qscale => quantScale (k.x % 32) (k.x.testBit 5) (s.fltA k u 1)
  | .qcvt =>
    let v := quantValue f a (s.wordB u k).toNat
    let r := roundVal (k.x % 32) m (us.headD 0) v.1
    (mergeLane (k.x % 32) (k.x / 32) (s.srcVal u k .d) r.1, v.2.or r.2)
  | .dot4 =>
    let rs := (List.range (128 / fmtBits f / 4)).map fun j =>
      dotOutput k (s.srcVal u k .a) (s.srcVal u k .b) (s.srcVal u k .c) j
    (packLanes 32 (rs.map (·.1)), rs.foldl (fun fl r => fl.or r.2) {})
  | _ => vecResult k m us (s.srcVal u k .a) (s.srcVal u k .b) (s.srcVal u k .c)

/-- The float, packed and quantisation operations whose result is written at issue (R173-R187, R196, R197). -/
def fltOps : List Op :=
  [.fadd, .fsub, .fmul, .ffma, .fmin, .fmax, .fabs, .fneg, .fclass, .frnd, .cvt, .gcvt, .gclass, .dot4, .vadd, .vsub,
   .vmul, .vmad, .vmin, .vmax, .qscale, .qcvt]

/-- The registers a special function or QXMAX leaves empty (R126). -/
def producerRegs (k : Ins) : Nat := if k.op = .qxmax then 1 else fmtRegs k.ty

/-- The producer a special function or QXMAX leaves for thread `u` of those active (R179, R194, R195). -/
def producerOf (s : State) (k : Ins) (go : List Nat) (u : Nat) (th : Thread) : Producer :=
  if k.op = .qxmax then
    let int := k.ty == 0x0E
    let val (v : Nat) : W32 := BitVec.ofNat 32 (s.srcVal v k .a)
    match s.homeOf u with
    | .scalar c x => .qxmax u c x th.launch k.d int th.qx (val u)
    | _ =>
      let w := if k.x = 0 then 4 else 16
      let m := maxOf int ((go.filter fun v => (s.homeOf v).lane / w == (s.homeOf u).lane / w).map val)
      .laneMax u k.d m.1 m.2.iv s.issueNo
  else
    let p := s.rounding u k.hint 1
    .special u k.op k.d k.ty (s.fltA k u k.ty) (if k.op = .fsqrt then p.1 + 8 * p.2.1.headD 0 else 1)
      s.issueNo

end Sys2Proof.Safety
end

