-- ==== Sys2Proof/Certificates/Slice0/Obligations.lean ====
section
/-!
DEFINITION. The statements of this model for the provers, each with the rule of the spec it formalises.
-/

open Sys2Proof
open Sys2Proof.Machine
open Sys2Proof.Safety

/-- R147, R148: every integer instruction of majors 0x01 to 0x1F that is not on the uniform datapath and not of an access
slice gives each of its threads the operation's result in D, and the add family its carry; it reads the operands of before,
pops the queues its sources name, and changes nothing else. -/
def Obligations.IntegerResults : Prop :=
  ∀ (i : Instr) (k : Ins) (s : State) (r : Run) (lead : Nat) (go : List Nat),
    i.ins = some k → k.op ∈ intOps → k.w.wu = false → k.w.sl = false → Clear (semOf k.op) k s r lead go →
    ∃ t, exec i s = .next t ∧ { t with threads := s.threads, engines := s.engines } = s ∧
      Effect s t k r go fun u th th' =>
        PastBut k r th th' (fun x => { x with g := th.g, carry := th.carry }) ∧
        Wrote th th' k.d (wordRegs k) (s.intValue k u) ∧
        th'.carry = if k.op ∈ carryOps then s.intCarry k u else th.carry

/-- R149, R150: SEL, MOV into a general register, LIT, LEA and LEAM, neither on the uniform datapath nor of an access slice,
give each of their threads the value in D, and change nothing else.
R149: MOV into the mailbox writes the mailbox registers of a scalar thread and nothing else; on the uniform datapath it
executes once, for the lowest-numbered active thread (R128). -/
def Obligations.MoveAndMailboxResults : Prop :=
  (∀ (i : Instr) (k : Ins) (s : State) (r : Run) (lead : Nat) (go : List Nat),
    i.ins = some k → k.op ∈ [Op.sel, .mov, .lit, .lea, .leam] → (k.op = .mov → k.w.kb = true ∨ k.x ≠ 1) →
    k.w.wu = false → k.w.sl = false → Clear (semOf k.op) k s r lead go →
    ∃ t, exec i s = .next t ∧ { t with threads := s.threads, engines := s.engines } = s ∧
      Effect s t k r go fun u th th' =>
        PastBut k r th th' (fun x => { x with g := th.g }) ∧ Wrote th th' k.d (wordRegs k) (wordValue s k u)) ∧
  (∀ (i : Instr) (k : Ins) (s : State) (r : Run) (lead : Nat) (go : List Nat),
    i.ins = some k → k.op = .mov → k.w.kb = false → k.x = 1 → k.w.sl = false → Clear (semOf k.op) k s r lead go →
    ∃ t, exec i s = .next t ∧ { t with threads := s.threads, engines := s.engines } = s ∧
      Effect s t k r go fun u th th' =>
        PastBut k r th th' (fun x => { x with mb := th.mb }) ∧
        if k.w.wu = true ∧ u ≠ lead then th'.mb = th.mb else WroteMb th th' k.d (wordRegs k) (wordValue s k u))

/-- R149: MOVK with X = 0 writes k[D], of the thread in a scalar context and of the wave in a wave, from g[A] of the
lowest-numbered active thread; no other register of the thread, or of its wave, changes.
R149: MOVK with X = 1 gives each of its threads k[A] in g[D], and changes nothing else. -/
def Obligations.MovkResults : Prop :=
  (∀ (i : Instr) (k : Ins) (s : State) (r : Run) (lead : Nat) (go : List Nat),
    i.ins = some k → k.op = .movk → k.x = 0 → Clear (semOf k.op) k s r lead go →
    ∃ t, exec i s = .next t ∧ { t with threads := s.threads, engines := s.engines, slots := s.slots } = s ∧
      WroteK s t lead k.d 1 (s.srcVal lead k .a) ∧
      match s.homeOf lead with
      | .wave e n _ => SlotsButK s t (slotKey e n) ∧ Effect s t k r go fun _ th th' => PastBut k r th th' id
      | _ => t.slots = s.slots ∧ Effect s t k r go fun u th th' =>
          PastBut k r th th' (fun x => { x with k := th.k }) ∧ (u ≠ lead → th'.k = th.k)) ∧
  (∀ (i : Instr) (k : Ins) (s : State) (r : Run) (lead : Nat) (go : List Nat),
    i.ins = some k → k.op = .movk → k.x = 1 → Clear (semOf k.op) k s r lead go →
    ∃ t, exec i s = .next t ∧ { t with threads := s.threads, engines := s.engines } = s ∧
      Effect s t k r go fun u th th' =>
        PastBut k r th th' (fun x => { x with g := th.g }) ∧ Wrote th th' k.d 1 (s.readK u k.a).val.toNat)

/-- R128: an instruction of majors 0x01 to 0x25 on the uniform datapath executes once and writes k registers; nothing else of any
thread changes but the carry and the program counters of the run. That the operands, the carry in and the predicates read are
the lowest-numbered active thread's, and that the add family's carry is written in every active thread, is the model's reading
(log 29, DEDUCED). -/
def Obligations.UniformResults : Prop :=
  ∀ (i : Instr) (k : Ins) (s : State) (r : Run) (lead : Nat) (go : List Nat),
    i.ins = some k → k.op ∈ wordOps → (k.op = .mov → k.w.kb = true ∨ k.x ≠ 1) → k.w.wu = true →
    Clear (semOf k.op) k s r lead go →
    ∃ t, exec i s = .next t ∧ { t with threads := s.threads, engines := s.engines, slots := s.slots } = s ∧
      RunAdvances s t k r ∧
      WroteK s t (s.mainOf lead) k.d (wordRegs k) (wordValue s k lead) ∧
      (match s.homeOf lead with
        | .wave e n _ => SlotsButK s t (slotKey e n)
        | _ => t.slots = s.slots) ∧
      ∀ u th, s.thread? u = some th → ∃ th', t.thread? u = some th' ∧
        { th' with pc := th.pc, carry := th.carry, k := th.k } = th ∧
        th'.pc = (if u ∈ r.members then r.pc + BitVec.ofNat 64 k.len else th.pc) ∧
        th'.carry = (if u ∈ go ∧ k.op ∈ carryOps then s.intCarry k lead else th.carry) ∧
        (th'.k = th.k ∨ u = s.mainOf lead ∧ (s.homeOf lead).isWave = false)

/-- R127, R309: in an access slice, an instruction of majors 0x01 to 0x25 whose D names g60 to g63 pushes its words, lowest
first, onto the operand queues of the thread it runs ahead of, one queue for each register; with any other D it writes the
access slice's own registers. An idle lane's queues get an entry too, of a value that the model leaves free (log 134), so that
an entry holds all lanes of a wave. -/
def Obligations.AccessSliceResults : Prop :=
  ∀ (i : Instr) (k : Ins) (s : State) (r : Run) (lead : Nat) (go : List Nat),
    i.ins = some k → k.op ∈ wordOps → (k.op = .mov → k.w.kb = true ∨ k.x ≠ 1) → k.w.wu = false → k.w.sl = true →
    Clear (semOf k.op) k s r lead go →
    (∀ u ∈ r.members, s.mainOf u ∉ r.members) → (∀ u ∈ r.members, ∀ v ∈ r.members, s.mainOf u = s.mainOf v → u = v) →
    let pushes (q : Nat) : Prop := 60 ≤ k.d ∧ k.d < 64 ∧ k.d ≤ 60 + q ∧ 60 + q < k.d + wordRegs k
    ∃ t, exec i s = .next t ∧ { t with threads := s.threads, engines := s.engines, nextId := s.nextId } = s ∧
      RunAdvances s t k r ∧
      (∀ u, u ∉ r.members → (∀ v ∈ r.members, u ≠ s.mainOf v) → t.thread? u = s.thread? u) ∧
      (∀ u ∈ go, ∀ th main, s.thread? u = some th → s.thread? (s.mainOf u) = some main →
        ∃ th' main', t.thread? u = some th' ∧ t.thread? (s.mainOf u) = some main' ∧
          Popped k (s.homeOf u).isWave (s.queueTop u) th th' ∧
          PastBut k r th th' (fun x => { x with g := th.g, carry := th.carry }) ∧
          th'.carry = (if k.op ∈ carryOps then s.intCarry k u else th.carry) ∧
          { main' with oq := main.oq, popWait := main.popWait } = main ∧
          (k.d < 60 ∨ 64 ≤ k.d → main' = main ∧ Wrote th th' k.d (wordRegs k) (wordValue s k u)) ∧
          (60 ≤ k.d → k.d < 64 → th'.g = th.g) ∧
          ∀ q, (pushes q → main'.oq.getD q [] = main.oq.getD q [] ++
              [{ val := BitVec.ofNat 32 (wordValue s k u / 2 ^ (32 * (60 + q - k.d))) }]) ∧
            (¬pushes q → main'.oq.getD q [] = main.oq.getD q [])) ∧
      ∀ u ∈ idle s go, ∀ th main, s.thread? u = some th → th.sliced = true → s.thread? (s.mainOf u) = some main →
        ∃ th' main', t.thread? u = some th' ∧ t.thread? (s.mainOf u) = some main' ∧
          { th' with pc := th.pc, oq := th.oq } = th ∧ { main' with oq := main.oq, popWait := main.popWait } = main ∧
          ∀ q, (pushes q → ∃ n, main'.oq.getD q [] = main.oq.getD q [] ++ [{ val := Config.guardedPush n }]) ∧
            (¬pushes q → main'.oq.getD q [] = main.oq.getD q [])

/-- R151: CMP, PAND, POR, PXOR and PNOT write predicate D and nothing else. That on the uniform datapath (R128) the lowest-numbered
active thread's value goes to every active thread is the model's reading (log 29, DEDUCED). -/
def Obligations.PredicateResults : Prop :=
  ∀ (i : Instr) (k : Ins) (s : State) (r : Run) (lead : Nat) (go : List Nat),
    i.ins = some k → k.op ∈ [Op.cmp, .pand, .por, .pxor, .pnot] → Clear (semOf k.op) k s r lead go →
    (k.w.sl = false ∨ ∀ u ∈ go, s.mainOf u ∉ r.members) →
    ∃ t, exec i s = .next t ∧ { t with threads := s.threads, engines := s.engines } = s ∧
      Effect s t k r go fun u th th' =>
        PastBut k r th th' (fun x => { x with p := th.p }) ∧
        WroteP th th' k.d (predValue s k (if k.w.wu then lead else u))

/-- R152: BRA, BRX, JMP, CALL, RET and LOOP take each of their threads to its target, write the link or the counter, and change
nothing else; the run ends there. In an access slice only BRA and LOOP stand, and a LOOP whose D names an operand queue traps
at its source (R127). -/
def Obligations.TransferResults : Prop :=
  ∀ (i : Instr) (k : Ins) (s : State) (r : Run) (lead : Nat) (go : List Nat),
    i.ins = some k → k.op ∈ [Op.bra, .brx, .jmp, .call, .ret, .loop] → Clear (semOf k.op) k s r lead go →
    (k.w.sl = false ∨ (∀ u ∈ go, s.mainOf u ∉ r.members) ∧ (k.d < 60 ∨ 64 ≤ k.d)) →
    ∃ t, exec i s = .next t ∧ { t with threads := s.threads, engines := s.engines } = s ∧
      Effect s t k r go fun u th th' =>
        { th' with pc := th.pc, g := th.g, oq := th.oq } = th ∧
        match k.op with
        | .bra => th'.pc = r.pc + BitVec.ofInt 64 (4 * k.ofs) ∧ th'.g = th.g
        | .brx => th'.pc = r.pc + BitVec.ofInt 64 (4 * (BitVec.ofNat 32 (s.srcVal u k .a)).toInt) ∧ th'.g = th.g
        | .jmp => th'.pc = BitVec.ofNat 64 (s.srcVal u k .a) ∧
            if k.d = 0 then th'.g = th.g else Wrote th th' k.d 2 (r.pc + 12).toNat
        | .call => th'.pc = r.pc + BitVec.ofInt 64 (4 * k.ofs) ∧ Wrote th th' k.d 2 (r.pc + 12).toNat
        | .ret => th'.pc = BitVec.ofNat 64 (s.srcVal u k .a) ∧ th'.g = th.g
        | _ =>
          let n := BitVec.ofNat 32 (s.srcVal u k .d) - 1
          th'.pc = (if n = 0 then r.pc + 12 else r.pc + BitVec.ofInt 64 (4 * k.ofs)) ∧ Wrote th th' k.d 1 n.toNat

/-- R155: NOP and YIELD change nothing beyond their slot; YIELD marks its group as yielding when its run ends (R124). -/
def Obligations.NopYieldResults : Prop :=
  ∀ (i : Instr) (k : Ins) (s : State) (r : Run) (lead : Nat) (go : List Nat),
    i.ins = some k → k.op ∈ [Op.nop, .yield] → Clear (semOf k.op) k s r lead go →
    ∃ t, exec i s = .next t ∧ { t with threads := s.threads, engines := s.engines } = s ∧
      Effect s t k r go fun _ th th' => PastBut k r th th' id

/-- R173-R187, R196, R197: every float, packed and quantisation instruction that completes at issue gives each of its threads
the result in D, ORs its flags into $fex (R112), draws from the generator only under stochastic rounding (R107), and changes
nothing else. -/
def Obligations.FloatResults : Prop :=
  ∀ (i : Instr) (k : Ins) (s : State) (r : Run) (lead : Nat) (go : List Nat),
    i.ins = some k → k.op ∈ fltOps → Clear (semOf k.op) k s r lead go →
    ∃ t, exec i s = .next t ∧ { t with threads := s.threads, engines := s.engines } = s ∧
      Effect s t k r go fun u th th' =>
        PastBut k r th th' (fun x => { x with g := th.g, fex := th.fex, rng := th.rng }) ∧
        Wrote th th' k.d (fltRegs k) (fltOutcome s k u).1 ∧
        th'.fex = th.fex ||| (fltOutcome s k u).2.toW32 ∧
        th'.rng = if roundDraws k = 0 then th.rng else rngRounded k th

/-- R176: FCMP writes predicate D, ORs the flags of the comparison into $fex, and changes nothing else. -/
def Obligations.FloatCompares : Prop :=
  ∀ (i : Instr) (k : Ins) (s : State) (r : Run) (lead : Nat) (go : List Nat),
    i.ins = some k → k.op = .fcmp → Clear (semOf k.op) k s r lead go →
    ∃ t, exec i s = .next t ∧ { t with threads := s.threads, engines := s.engines } = s ∧
      Effect s t k r go fun u th th' =>
        let a := s.fltA k u k.ty
        let b := s.fltB k u k.ty
        PastBut k r th th' (fun x => { x with p := th.p, fex := th.fex }) ∧
        WroteP th th' k.d (fltCond k.minor k.ty a b).1 ∧
        th'.fex = th.fex ||| (fltCond k.minor k.ty a b).2.toW32

/-- R183: GCMP compares the low n bits of a and b as n-bit signed integers, n 6, 8 or 16 by TYPE, writes predicate D and
nothing else: the unreal code, the most negative, equals itself and lies below every other; no flag is set. -/
def Obligations.GrainCompares : Prop :=
  ∀ (i : Instr) (k : Ins) (s : State) (r : Run) (lead : Nat) (go : List Nat),
    i.ins = some k → k.op = .gcmp → Clear (semOf k.op) k s r lead go →
    ∃ t, exec i s = .next t ∧ { t with threads := s.threads, engines := s.engines } = s ∧
      Effect s t k r go fun u th th' =>
        let n := if k.ty = 8 then 6 else if k.ty = 9 then 8 else 16
        let a := (BitVec.ofNat n (s.srcVal u k .a)).toInt
        let b := (BitVec.ofNat n (if k.w.lit.isSome || k.w.kb then (s.wordB u k).toNat else s.srcVal u k .b)).toInt
        PastBut k r th th' (fun x => { x with p := th.p }) ∧
        WroteP th th' k.d (match k.minor with
          | 0 => a == b | 1 => a != b | 2 => decide (a < b) | 3 => decide (a ≤ b) | 4 => decide (b < a)
          | _ => decide (b ≤ a))

/-- R193: RAND draws one output of each active thread's generator and writes it, or the float it makes, to D. -/
def Obligations.RandResults : Prop :=
  ∀ (i : Instr) (k : Ins) (s : State) (r : Run) (lead : Nat) (go : List Nat),
    i.ins = some k → k.op = .rand → Clear (semOf k.op) k s r lead go →
    ∃ t, exec i s = .next t ∧ { t with threads := s.threads, engines := s.engines } = s ∧
      Effect s t k r go fun _ th th' =>
        let o := (rngNext th.rng).2
        PastBut k r th th' (fun x => { x with g := th.g, rng := th.rng }) ∧ th'.rng = (rngNext th.rng).1 ∧
        match k.ty with
        | 0x0F => Wrote th th' k.d 2 o.toNat
        | 0x0E => Wrote th th' k.d 1 (o >>> 32).toNat
        | 1 => Wrote th th' k.d 1 (roundVal 1 1 0 (Val.ofRat false (o >>> 40).toNat (2 ^ 24))).1
        | _ => Wrote th th' k.d 2 (roundVal 0 1 0 (Val.ofRat false (o >>> 11).toNat (2 ^ 53))).1

/-- R188: SHFL gives each of its threads the register, for .f64 the pair, that A names in the thread its mode picks within its
segment, or its own where that lane is absent, parked or halting, all read once the program counters have moved on and before
any destination is written. -/
def Obligations.ShuffleResults : Prop :=
  ∀ (i : Instr) (k : Ins) (s : State) (r : Run) (lead : Nat) (go : List Nat),
    i.ins = some k → k.op = .shfl → Clear (semOf k.op) k s r lead go →
    ∃ t, exec i s = .next t ∧ { t with threads := s.threads, engines := s.engines } = s ∧
      Effect s t k r go fun u th th' =>
        PastBut k r th th' (fun x => { x with g := th.g }) ∧
        Wrote th th' k.d (if k.ty = 0 then 2 else 1)
          ((s.advance k).regsVal ((s.advance k).shflFrom k u) k .a .g k.a (if k.ty = 0 then 2 else 1))

/-- R189, R190: BALLOT gives every active thread the mask of the lanes whose predicate A is true, and VOTE gives it, in
predicate D, whether all, some, all or none, or an odd number of them are; neither changes anything else. -/
def Obligations.VoteResults : Prop :=
  ∀ (i : Instr) (k : Ins) (s : State) (r : Run) (lead : Nat) (go : List Nat),
    i.ins = some k → k.op ∈ [Op.ballot, .vote] → Clear (semOf k.op) k s r lead go →
    ∃ t, exec i s = .next t ∧ { t with threads := s.threads, engines := s.engines } = s ∧
      Effect s t k r go fun _ th th' =>
        let yes := go.filter fun v => s.predA k v
        PastBut k r th th' (fun x => { x with g := th.g, p := th.p }) ∧
        (k.op = .ballot → th'.p = th.p ∧
          Wrote th th' k.d 1 ((yes.map fun v => 2 ^ (s.homeOf v).lane).sum)) ∧
        (k.op = .vote → th'.g = th.g ∧ WroteP th th' k.d (match k.minor with
          | 0 => yes.length == go.length
          | 1 => yes.length != 0
          | 2 => yes.length == 0 || yes.length == go.length
          | _ => yes.length % 2 == 1))

/-- R126, R179, R194: the special functions and QXMAX mark D empty and leave a producer that remembers what it needs; FSQRT
draws under stochastic rounding; QXMAX counts the exchange of a scalar context; nothing else changes. -/
def Obligations.ProducerResults : Prop :=
  ∀ (i : Instr) (k : Ins) (s : State) (r : Run) (lead : Nat) (go : List Nat),
    i.ins = some k → k.op ∈ [Op.frcp, .frsq, .fsqrt, .fexp2, .flog2, .fsin, .fcos, .ftanh, .qxmax] →
    Clear (semOf k.op) k s r lead go →
    ∃ t, exec i s = .next t ∧
      { t with threads := s.threads, engines := s.engines, producers := s.producers, nextId := s.nextId } = s ∧
      t.nextId = s.nextId + go.length ∧
      (∀ j u, go[j]? = some u → ∀ th, s.thread? u = some th →
        t.producers.get? (s.nextId + j) = some (producerOf s k go u th)) ∧
      (∀ n, n < s.nextId ∨ s.nextId + go.length ≤ n → t.producers.get? n = s.producers.get? n) ∧
      Effect s t k r go fun u th th' =>
        PastBut k r th th' (fun x => { x with g := th.g, rng := th.rng, qx := th.qx }) ∧
        (∀ j < producerRegs k, k.d + j ≠ 0 → (th'.readG (k.d + j)).full = false) ∧
        (∀ m, m < k.d ∨ k.d + producerRegs k ≤ m → th'.readG m = th.readG m) ∧
        th'.rng = (if k.op = .fsqrt then rngRounded k th else th.rng) ∧
        th'.qx = (match s.homeOf u with
          | .scalar _ _ => if k.op = .qxmax then th.qx + 1 else th.qx
          | _ => th.qx)

/-- R155: WAIT leaves each of its threads waiting until GTC reaches its value at issue plus b ns, and changes no register. -/
def Obligations.WaitSetsDeadline : Prop :=
  ∀ (i : Instr) (k : Ins) (s : State) (r : Run) (lead : Nat) (go : List Nat),
    i.ins = some k → k.op = .wait → Clear (semOf k.op) k s r lead go →
    ∃ t, exec i s = .next t ∧ { t with threads := s.threads, engines := s.engines, launches := s.launches } = s ∧
      Effect s t k r go fun u th th' =>
        PastBut k r th th' (fun x => { x with status := th.status }) ∧ th'.status = .until (s.gtc + (s.wordB u k).toNat)

/-- R18, R153, R154, R156: SYNCW, REFORM, REFORM.S, HALT and HALT.R act on each of their threads in lane order: at SYNCW a
wave's threads wait, all released at once when every live thread of the wave waits; REFORM files a thread at the target in
its own stand, and without room leaves it at the instruction; REFORM.S moves a wave's thread to a free context of its stand;
HALT takes the thread out of the run, to end once its writes are complete.
R20, R26: a thread is filed in the pocket its key hashes to where that is free or holds its key with room, else in the first
pocket after it, modulo 64, that holds the key with room, else in the first free one, or leaves it at once in a wave; where
none qualifies it goes on the stand's pocket list, and without room there it is not filed. It keeps g, p, flags, generator and its
trap registers; k, the mailbox and the operand queues stay behind.
R26, R27: REFORM.S takes the thread to the first free context of its stand that no earlier thread waits for, with g0 to g63 and
what else it keeps when filed; without one it waits for a context where the spill area has room for its record, and else stays
at the instruction. -/
def Obligations.HomesAndHalts : Prop :=
  (∀ (i : Instr) (k : Ins) (s : State) (r : Run) (lead : Nat) (go : List Nat),
    i.ins = some k → k.op ∈ [Op.syncw, .reform, .reformS, .halt, .haltR] → Clear (semOf k.op) k s r lead go →
    exec i s = .next (concluded s k go (
      let a := s.advance k
      let target := r.pc + BitVec.ofInt 64 (4 * k.ofs)
      match k.op with
      | .syncw =>
        let x := go.foldl (fun x u => if (x.homeOf u).isWave then x.setStatus u .syncw else x) a
        match x.homeOf lead with
        | .wave e n _ => x.syncRelease e n
        | _ => x
      | .reform => go.foldl (fun x u =>
          match x.file u (x.homeOf u).stand target with
          | some y => y.countEvent y.focus 0x22 1
          | none => x.stayAt u r.pc) a
      | .reformS => go.foldl (fun x u =>
          if (x.homeOf u).isWave then x.migrate u target r.pc else x.modThread u fun th => { th with pc := target }) a
      | _ => (go.foldl (fun x u =>
          ((x.leaveRun u).modThread u fun th =>
            { th with successor := if k.op = .haltR then some ((x.wordB u k).toNat % 4096) else none }).setStatus u .halting)
          a).settleHalts))) ∧
  (∀ (s : State) (t n : Nat) (pc : W64) (th : Thread), s.thread? t = some th → t ∉ (s.stand n).plist →
    let ps := (s.stand n).pockets
    let h := Config.pocketHash (s.launchId th.launch) th.wg pc.toNat % 64
    let order := (List.range 63).map fun j => (h + 1 + j) % 64
    let fits (j : Nat) : Bool := (ps.get? j).any fun p =>
      p.launch == th.launch && p.wg == th.wg && p.pc == pc && decide (p.members.length < 32)
    let free (j : Nat) : Bool := (ps.get? j).isNone
    let choice := if fits h || free h then some h else (order.find? fits).orElse fun _ => order.find? free
    (choice = none → s.spillRoom n 0 = false → s.file t n pc = none) ∧
    (choice.isSome = true ∨ s.spillRoom n 0 = true → ∃ y th', s.file t n pc = some y ∧ y.thread? t = some th' ∧
      (∀ j, choice = some j → th'.home = .pocket n j ∨ th'.home = .queued n) ∧
      (choice = none → (∃ j, th'.home = .pocket n j) ∨ th'.home = .queued n ∨ th'.home = .plist n) ∧
      th'.pc = pc ∧ th'.g = th.g ∧ th'.p = th.p ∧ th'.fex = th.fex ∧ th'.fmode = th.fmode ∧ th'.rng = th.rng ∧
      th'.epc = th.epc ∧ th'.ecause = th.ecause ∧ th'.einfo = th.einfo ∧ th'.inTrap = th.inTrap ∧
      th'.filed = s.clock.arith ∧ th'.status = .ready ∧ th'.k = [] ∧ th'.mb = [] ∧ th'.oq = [])) ∧
  (∀ (s : State) (t e x : Nat) (lane : Nat) (tgt pc : W64) (th : Thread), s.thread? t = some th → th.home = .wave e x lane →
    let n := e / 2
    let free := (s.freeContexts n).drop (s.stand n).waitCtx.length
    ∃ th', (s.migrate t tgt pc).thread? t = some th' ∧
      th'.p = th.p ∧ th'.fex = th.fex ∧ th'.fmode = th.fmode ∧ th'.rng = th.rng ∧
      (∀ c, free.head? = some c → th'.home = .scalar c.1 c.2 ∧ th'.pc = tgt ∧ th'.k = [] ∧ th'.mb = [] ∧
        ∀ j, th'.readG j = if j < 64 then th.readG j else {}) ∧
      (free = [] → s.spillRoom n 0 = true → th'.home = .waitCtx n ∧ th'.pc = tgt ∧ th'.g = th.g) ∧
      (free = [] → s.spillRoom n 0 = false → th'.home = th.home ∧ th'.pc = pc ∧ th'.g = th.g))

/-- R72, R76, R199-R202, R206: LD, LDG, ST, STS and ATOM, of threads that are no tasks, issue one operation for each of their
threads in lane order: at the thread's address, with the word's ordering and scope, in the parts the address resolves to; a
load for D, a store with D's bytes, an atomic with its operands.
R87, R200, R206, R207: performed at its place, a store leaves its bytes there and an atomic its new value, every other byte of
device, host and remote memory as before; a load takes the bytes that stand there.
R126, R200: a load that completes gives D those bytes, lowest first, extended as TYPE says. -/
def Obligations.MemoryIssues : Prop :=
  (∀ (i : Instr) (k : Ins) (s : State) (r : Run) (lead : Nat) (go : List Nat),
    i.ins = some k → k.op ∈ [Op.ld, .ldg, .st, .sts, .atom] → (∀ u ∈ go, ∀ th, s.thread? u = some th → th.taskOf = none) →
    (k.w.sl = false ∨ ∀ u ∈ go, s.mainOf u ∉ r.members) → Clear (semOf k.op) k s r lead go →
    ∃ t, exec i s = .next t ∧
      (∀ n, n < s.nextId ∨ s.nextId + go.length ≤ n → t.ops.get? n = s.ops.get? n) ∧
      ∀ j u th, go[j]? = some u → s.thread? u = some th →
        ∃ o, t.ops.get? (s.nextId + j) = some o ∧ IssuedFor s k lead u th o ∧
          (k.op ∈ [Op.ld, .ldg] → o.dest = if k.typed then .typed k.d k.ty else .regs k.d (intWidth k.ty) (intSigned k.ty)) ∧
          (k.op = .atom → o.dest = .regs k.d (intWidth k.ty) false ∧ o.atomOp = k.atomOp ∧
            o.c = s.srcVal u k .c % 2 ^ intWidth k.ty ∧ o.d = s.srcVal u k .d % 2 ^ intWidth k.ty) ∧
          (k.op ∈ [Op.st, .sts] → o.dest = .none ∧ ∀ (m : Nat) (p : Part), o.parts[m]? = some p →
            p.data = ((storedBytes s k lead u).drop ((o.parts.take m).map (·.n)).sum).take p.n)) ∧
  (∀ (s : State) (n p : Nat) (o : MemOp) (x : Part), s.opPart n p = some (o, x) → s.opTask o = none → s.opCruise o = none →
    let c := x.span.1
    let a := x.span.2.1
    let t := s.performAt n p o x
    c < 4 → (c = 1 → o.fmt = none ∧ ∀ j < x.n, ¬(0x3C0 ≤ locOff (a + j) ∧ locOff (a + j) < 0x400)) →
    (o.kind = .store → x.data.length = x.n →
      (∀ j b, x.nibble = none → x.data[j]? = some b → (spaceMem t.mem c).readByte (a + j) = b) ∧
      (∀ h b, x.nibble = some h → x.data = [b] → c ≠ 1 →
        (spaceMem t.mem c).readByte a = withHalf ((spaceMem s.mem c).readByte a) h b) ∧
      (∀ b, b < a ∨ a + x.n ≤ b → (spaceMem t.mem c).readByte b = (spaceMem s.mem c).readByte b) ∧
      ∀ m, m < 4 → m ≠ 1 → m ≠ c → spaceMem t.mem m = spaceMem s.mem m) ∧
    (o.kind = .atomic → c ≠ 1 → 0 < x.n → x.poison = false → (∀ q ∈ (s.opBytes o x).2, q = false) →
      (spaceMem t.mem c).read a x.n =
        bytesOfNat x.n (atomNew o.atomOp o.ty (natOfBytes ((spaceMem s.mem c).read a x.n)) o.c o.d) ∧
      (∀ b, b < a ∨ a + x.n ≤ b → (spaceMem t.mem c).readByte b = (spaceMem s.mem c).readByte b) ∧
      ∀ m, m < 4 → m ≠ 1 → m ≠ c → spaceMem t.mem m = spaceMem s.mem m) ∧
    (o.kind = .load → o.orphan = false → (c = 0 → s.lineBad (a / 64) x.key = false) →
      (∀ m, spaceMem t.mem m = spaceMem s.mem m) ∧
      ∃ y, (t.opPart n p).map (·.2) = some y ∧ y.phase = .value ∧
        y.data = if c = 1 then s.locBytes a x.n else (spaceMem s.mem c).read a x.n)) ∧
  (∀ (s : State) (n d w : Nat) (sg bad : Bool) (o : MemOp) (bs : List Byte) (th : Thread),
    o.dest = .regs d w sg → (o.parts.head?.bind (·.nibble)) = none → w ∈ [8, 16, 32, 64, 128] → s.thread? o.tid = some th →
    th.oq = [] → (∀ m, th.home ≠ .skidder m) →
    let v := natOfBytes bs % 2 ^ w
    let v := if sg = true ∧ w < 32 ∧ 2 ^ (w - 1) ≤ v then v + (2 ^ 32 - 2 ^ w) else v
    ∃ th', (s.deliverLoad n o bs bad).thread? o.tid = some th' ∧
      (∀ j < (w + 31) / 32, d + j ≠ 0 →
        th'.readG (d + j) = { val := BitVec.ofNat 32 (v / 2 ^ (32 * j)), poison := bad }) ∧
      ∀ m, m < d ∨ d + (w + 31) / 32 ≤ m → th'.readG m = th.readG m)

/-- R72, R200-R203, R206, R208: a memory instruction changes nothing at issue but what its accesses need. No byte of any memory
changes; no register changes but D of a load or an atomic, which is empty; a store of a task is left to R270. -/
def Obligations.MemoryFrame : Prop :=
  ∀ (i : Instr) (k : Ins) (s : State) (r : Run) (lead : Nat) (go : List Nat),
    i.ins = some k → k.op ∈ [Op.ld, .ldg, .st, .sts, .atom, .pref, .fence] →
    (k.op = .st ∨ k.op = .sts → ∀ u ∈ go, ∀ th, s.thread? u = some th → th.taskOf = none) →
    Clear (semOf k.op) k s r lead go →
    ∃ t, exec i s = .next t ∧ t.mem = s.mem ∧
      { t with threads := s.threads, engines := s.engines, stands := s.stands, ops := s.ops, nextId := s.nextId
               cruises := s.cruises, unitTlbs := s.unitTlbs } = s ∧
      RunAdvances s t k r ∧
      ∀ u th, s.thread? u = some th → ∃ th', t.thread? u = some th' ∧
        { th' with pc := th.pc, g := th.g, oq := th.oq, fex := th.fex, rng := th.rng, sc := th.sc
                   lastPage := th.lastPage, awaited := th.awaited, popWait := th.popWait } = th ∧
        th'.awaited = (if u ∈ go ∧ k.op ∈ [Op.ld, .ldg, .atom] then [] else th.awaited) ∧
        let queue := k.w.sl && decide (60 ≤ k.d) && decide (k.d < 64)
        (u ∉ go ∨ k.op ∉ [Op.ld, .ldg, .atom] ∨ queue = true → th'.g = th.g) ∧
        (u ∈ go → k.op ∈ [Op.ld, .ldg, .atom] → queue = false →
          (∀ j < k.memRegs, k.d + j ≠ 0 → (th'.readG (k.d + j)).full = false) ∧
          ∀ m, m < k.d ∨ k.d + k.memRegs ≤ m → th'.readG m = th.readG m)

/-- R72, R76, R199, R200, R206: LD, ST and ATOM of a group of one thread, that is no task, issue one operation of that thread
at base plus offset, with the word's ordering and scope, for D of the word's element type.
R203: PREF of a device page whose translation is cached, readable and of a lease class issues one read of a byte of the line,
which no thread waits for and nothing is ordered by; of a page without read permission it issues nothing and counts a dropped
prefetch.
R89, R208: a FENCE issues no access; a sequentially consistent one takes each thread's next stamp.
R270: a task's store to translated memory puts its bytes into the task's buffer, and issues no access. -/
def Obligations.MemoryOperations : Prop :=
  (∀ (i : Instr) (k : Ins) (s : State) (r : Run) (u : Nat) (th : Thread),
    i.ins = some k → k.op ∈ [Op.ld, .st, .atom] → s.thread? u = some th → th.taskOf = none →
    Clear (semOf k.op) k s r u [u] →
    ∃ t o, exec i s = .next t ∧ t.ops = s.ops.put s.nextId o ∧ t.nextId = s.nextId + 1 ∧
      o.tid = u ∧ o.part = th.part ∧ o.stand = (s.homeOf u).stand ∧ o.orphan = false ∧
      o.kind = (if k.op = .ld then .load else if k.op = .st then .store else .atomic) ∧
      o.ord = k.ordering ∧ o.scope = k.scope ∧ o.ty = k.ty ∧ o.ea = (s.memEa u k).toNat ∧
      (k.op = .ld → o.dest = if k.typed then .typed k.d k.ty else .regs k.d (intWidth k.ty) (intSigned k.ty)) ∧
      (k.op = .st → o.dest = .none) ∧
      (k.op = .atom → o.dest = .regs k.d (intWidth k.ty) false ∧ o.atomOp = k.atomOp ∧
        o.c = s.srcVal u k .c % 2 ^ intWidth k.ty ∧ o.d = s.srcVal u k .d % 2 ^ intWidth k.ty)) ∧
  (∀ (i : Instr) (k : Ins) (s : State) (r : Run) (u : Nat) (th : Thread) (tr : Trans),
    i.ins = some k → k.op = .pref → s.thread? u = some th → Clear (semOf k.op) k s r u [u] →
    regionOf (s.memEa u k).toNat = .translated → s.cached u th.part (s.memEa u k).toNat = some tr →
    ∃ t, exec i s = .next t ∧ t.mem = s.mem ∧
      (tr.r = false → t.ops = s.ops) ∧
      (tr.r = true → tr.host = false → tr.lease ≠ 0 → th.taskOf = none → s.cruiseOf th.launch = none → k.hint ≠ 1 →
        ∃ o, t.ops = s.ops.put s.nextId o ∧ o.tid = u ∧ o.kind = .load ∧ o.orphan = true ∧ o.dest = .none ∧
          o.ea = (s.memEa u k).toNat ∧
          o.parts = [{ place := .dram (tr.frame + ((s.memEa u k).toNat - tr.base)), n := 1, lease := tr.lease, key := tr.key }])) ∧
  (∀ (i : Instr) (k : Ins) (s : State) (r : Run) (lead : Nat) (go : List Nat),
    i.ins = some k → k.op = .fence → Clear (semOf k.op) k s r lead go →
    ∃ t, exec i s = .next t ∧ { t with threads := s.threads, engines := s.engines } = s ∧
      Effect s t k r go fun _ th th' =>
        PastBut k r th th' (fun x => { x with sc := th.sc }) ∧
        th'.sc = if k.ordering = 5 then max (th.sc + 1) s.gtc else th.sc) ∧
  (∀ (i : Instr) (k : Ins) (s : State) (r : Run) (u j : Nat) (th : Thread) (x : Task),
    i.ins = some k → k.op = .st → k.space = 0 → s.thread? u = some th → th.taskOf = some j → s.tasks.get? j = some x →
    Clear (semOf k.op) k s r u [u] → (s.access k u u).nib = none →
    let keys := (partsOf (s.locateAcc k u (s.access k u u))).flatMap fun p => (List.range p.n).map (p.place.byteKey + ·)
    keys.Nodup →
    (∀ e ∈ s.tasks, e.2.launch = x.launch → x.key.lt e.2.key = true → ∀ b ∈ keys, e.2.readGran.has (b / 256) = false) →
    ∃ t y, exec i s = .next t ∧ t.ops = s.ops ∧ t.mem = s.mem ∧ t.tasks.get? j = some y ∧
      (∀ (m b : Nat) (v : Byte), keys[m]? = some b → (storedBytes s k u u)[m]? = some v →
        y.buf.readByte b = v ∧ y.written.has (2 * b) = true ∧ y.written.has (2 * b + 1) = true) ∧
      ∀ b, b ∉ keys → y.buf.readByte b = x.buf.readByte b)

/-- R166, R167: RDCR gives each of its threads the register X names in D, latching GTC's high word where it reads $gtc, and
changes nothing else. -/
def Obligations.ReadControlRegister : Prop :=
  ∀ (i : Instr) (k : Ins) (s : State) (r : Run) (lead : Nat) (go : List Nat),
    i.ins = some k → k.op = .rdcr → Clear (semOf k.op) k s r lead go →
    ∃ t, exec i s = .next t ∧ { t with threads := s.threads, engines := s.engines } = s ∧
      Effect s t k r go fun u th th' =>
        PastBut k r th th' (fun x => { x with g := th.g, gtch := th.gtch }) ∧
        th'.gtch = (if k.x = 8 then BitVec.ofNat 32 (s.gtc / 2 ^ 32) else th.gtch) ∧
        ∃ v, s.readCr u k.x = some v ∧ Wrote th th' k.d 1 v.toNat

/-- R106, R112, R164, R166, R167: WRCR of a register that is a thread's own writes it in each of the instruction's threads; the
read-only ones ignore it, $fmode keeps its value where the new one is no mode, and nothing else changes.
R66, R68, R166, R167, R211, R223: WRCR of a register that a wave, a core or an engine shares writes it once, with the
lowest-numbered active thread's value: an event counter as it is; $bfmt its low four bits, unless they are 15; a diagonal
descriptor without its reserved bits, invalid where a field is out of range; a tile configuration likewise; $cvset arms the
convergence register and clears its signatures. A read-only one ignores it. -/
def Obligations.WriteControlRegister : Prop :=
  (∀ (i : Instr) (k : Ins) (s : State) (r : Run) (lead : Nat) (go : List Nat),
    i.ins = some k → k.op = .wrcr → crPerThread k.x = true → Clear (semOf k.op) k s r lead go →
    ∃ t, exec i s = .next t ∧ { t with threads := s.threads, engines := s.engines } = s ∧
      Effect s t k r go fun u th th' =>
        let v := s.wordB u k
        th'.pc = r.pc + BitVec.ofNat 64 k.len ∧
        { th' with pc := th.pc, oq := th.oq } =
          match k.x with
          | 0x02 => { th with ecause := v &&& 0xFF }
          | 0x03 => { th with epc := W64.ofWords v th.epc.hi }
          | 0x04 => { th with epc := W64.ofWords th.epc.lo v }
          | 0x05 => { th with einfo := v }
          | 0x20 => { th with rng := W64.ofWords v th.rng.hi }
          | 0x21 => { th with rng := W64.ofWords th.rng.lo v }
          | 0x50 => { th with fex := v &&& 0xFF }
          | 0x51 => if 1 ≤ v.toNat % 8 ∧ v.toNat % 8 ≤ 5 then { th with fmode := v &&& 7 } else th
          | _ => th) ∧
  (∀ (i : Instr) (k : Ins) (s : State) (r : Run) (lead : Nat) (go : List Nat),
    i.ins = some k → k.op = .wrcr → crPerThread k.x = false → Clear (semOf k.op) k s r lead go →
    let v := (s.wordB lead k).toNat
    let a := s.advance k
    ∃ y, exec i s = .next (concluded s k go y) ∧
      (0x10 ≤ k.x → k.x < 0x20 → ∀ e, (s.homeOf lead).engine = some e → y = a.modEngine e fun x =>
        { x with ctr := x.ctr.setD (k.x - 0x10) 0 (s.wordB lead k) }) ∧
      (∀ c n, s.homeOf lead = .scalar c n →
        (k.x = 0x40 → v % 16 = 15 → y = a) ∧
        (k.x = 0x40 → v % 16 ≠ 15 → y = a.modCore c fun x => { x with bfmt := BitVec.ofNat 32 (v % 16) }) ∧
        (0x41 ≤ k.x → k.x < 0x45 →
          let bad := bits v 30 22 = 0 ∨ bits v 21 9 < 256 ∨ 8192 < bits v 21 9 + 16 * bits v 30 22 ∨ bits v 8 0 ≠ 0
          y = a.modCluster (coreCluster c) fun x => { x with dgn := x.dgn.setD (k.x - 0x41) 0 (BitVec.ofNat 32
            ((if bad then 0 else v / 2 ^ 31 * 2 ^ 31) + bits v 30 22 * 2 ^ 22 + bits v 21 9 * 2 ^ 9)) })) ∧
      (∀ e n l, s.homeOf lead = .wave e n l →
        (k.x = 0x48 → y = a) ∧
        (0x60 ≤ k.x → k.x < 0x68 →
          let w := fmtBits (bits v 4 0)
          let bad := bits v 4 0 = 0 ∨ 0x0E < bits v 4 0 ∨ bits v 11 6 = 0 ∨ 32 < bits v 11 6 ∨ bits v 18 12 = 0 ∨
            64 < bits v 18 12 ∨ (8 ≤ w ∧ bits v 18 12 % (w / 8) ≠ 0) ∨ bits v 30 19 ≠ 0 ∨ bit v 5 = true
          y = a.modSlot e n fun x => { x with tcfg := x.tcfg.setD (k.x - 0x60) 0 (BitVec.ofNat 32
            ((if bad then 0 else v / 2 ^ 31 * 2 ^ 31) + bits v 18 12 * 2 ^ 12 + bits v 11 6 * 2 ^ 6 + bits v 4 0)) }) ∧
        (0x30 ≤ k.x → k.x < 0x40 →
          let armed := a.modSlot e n fun x =>
            { x with cvset := x.cvset.setD (k.x - 0x30) 0 (s.wordB lead k), cvsig := x.cvsig.setD (k.x - 0x30) 0 0 }
          (v ≠ 0 ∨ a.roundOpen e n (k.x - 0x30) = false → y = armed) ∧
          (v = 0 → a.roundOpen e n (k.x - 0x30) = true → y = armed.completeRound e n (k.x - 0x30)))))

/-- R168: FEMARK marks the register A names empty and unpoisoned, FEFILL marks it full, its value kept; g0 stays as it is;
nothing else changes. -/
def Obligations.FullEmptyMarks : Prop :=
  ∀ (i : Instr) (k : Ins) (s : State) (r : Run) (lead : Nat) (go : List Nat),
    i.ins = some k → k.op ∈ [Op.femark, .fefill] → Clear (semOf k.op) k s r lead go →
    ∃ t, exec i s = .next t ∧ { t with threads := s.threads, engines := s.engines } = s ∧
      Effect s t k r go fun _ th th' =>
        let f (x : Reg) : Reg := if k.op = .femark then { x with full := false, poison := false } else { x with full := true }
        PastBut k r th th' (fun x => { x with g := th.g, mb := th.mb }) ∧
        (∀ n, th'.readG n = if k.x ≠ 1 ∧ n = k.a ∧ n ≠ 0 then f (th.readG n) else th.readG n) ∧
        (∀ n, th'.readMb n = if k.x = 1 ∧ n = k.a then f (th.readMb n) else th.readMb n)

/-- R169, R394: TRACE writes an entry of type 4 with the PC, a and b into the ring of its engine, over the oldest entry, once
for a wave and once for each thread elsewhere, before the accesses that arrive in the same swarm cycle, and changes nothing
else. -/
def Obligations.TraceWrites : Prop :=
  ∀ (i : Instr) (k : Ins) (s : State) (r : Run) (lead : Nat) (go : List Nat),
    i.ins = some k → k.op = .trace → Clear (semOf k.op) k s r lead go →
    ∃ t, exec i s = .next t ∧ { t with threads := s.threads, engines := s.engines } = s ∧
      Effect s t k r go (fun _ th th' => PastBut k r th th' id) ∧
      ∀ u, (isWaveKey s.focus = true ∧ u = lead) ∨ (isWaveKey s.focus = false ∧ go = [u]) →
        let e := unitEngine s.focus
        let words := [traceWord0 s.gtc e (unitGroup s.focus r.group) 4, BitVec.ofNat 32 r.pc.toNat,
          BitVec.ofNat 32 (s.srcVal u k .a), s.wordB u k]
        let entry := if isWaveKey e then words ++ [BitVec.ofNat 32 ((go.map fun v => 2 ^ (s.homeOf v).lane).sum), 0, 0, 0] else words
        let later := if (s.engine e).arrivals.1 = s.clock.swarm then (s.engine e).arrivals.2 else 0
        (t.engine e).written = (s.engine e).written + 1 ∧
        (t.engine e).ring = ((s.engine e).ring.take later ++ entry :: (s.engine e).ring.drop later).take
          (if isWaveKey e then 256 else 64)

/-- R82, R170, R209-R212: BAR.ARR, BAR.SYNC and CNTR.FOLD arrive at barrier D for each of their threads in lane order; BAR.WAIT
and BAR.SYNC wait for the phase; CVSIGN and CVWAIT sign and await register D, of the wave's slot or of a scalar context's
workgroup; BND.SET sets the slot's allocation and forgets the registers beyond it or beyond the old one, and the accumulators
beyond it.
R209: an arrival, or a scalar signature, records the open phase for its thread and adds one to the tally; the phase's first
arrival gives the governing count. The arrival that meets it completes the phase: the tally is zero, the count forgotten, the
next phase open, and each thread of the workgroup that waited for the phase goes on.
R211: a signature records the round for each signing lane in the register's set and joins its lane's bit to those signed. When
the whole set has signed, the round is complete: the signatures clear, the next round is open, and the threads and matrix
entries that waited for it go on. With an empty set nothing happens. -/
def Obligations.Synchronises : Prop :=
  (∀ (i : Instr) (k : Ins) (s : State) (r : Run) (lead : Nat) (go : List Nat),
    i.ins = some k → k.op ∈ [Op.barArr, .barSync, .barWait, .cntrFold, .cvsign, .cvwait, .bndSet] →
    Clear (semOf k.op) k s r lead go →
    exec i s = .next (concluded s k go (
      let a := s.advance k
      match k.op with
      | .barArr => go.foldl (fun x u => x.arrive u (.bar k.d) (x.wordB u k).toNat none) a
      | .barSync => go.foldl (fun x u =>
          (x.arrive u (.bar k.d) (x.wordB u k).toNat none).awaitCounted u (.bar k.d)) a
      | .barWait => go.foldl (fun x u => x.awaitCounted u (.bar k.d)) a
      | .cntrFold => go.foldl (fun x u =>
          x.arrive u (.bar k.d) (x.wordB u k).toNat (some (partsOf (x.foldPlace k u), k.x == 1, u))) a
      | .cvsign =>
        match s.homeOf lead with
        | .wave e n _ => a.signLanes e n k.d go
        | _ => go.foldl (fun x u => x.arrive u (.cv k.d) (x.wordB u k).toNat none) a
      | .cvwait => go.foldl (fun x u =>
          match x.homeOf u with
          | .wave e n _ => x.awaitRound u e n k.d
          | _ => x.awaitCounted u (.cv k.d)) a
      | _ =>
        let b := (s.wordB lead k).toNat
        match s.homeOf lead with
        | .wave e n _ =>
          let kept := min (genRegs (b % 8)) (genRegs ((s.slot? e n).elim 0 (·.genCode)))
          (go.foldl (fun x u => x.modThread u fun th =>
            { th with g := th.g.filter fun m _ => decide (m < kept) }) a).modSlot e n fun y =>
              { y with genCode := b % 8, tiles := b / 8, acc := y.acc.filter fun m _ => decide (m < b / 8) }
        | _ => a))) ∧
  (∀ (s : State) (u count : Nat) (c : Counted) (fold : Option (List Part × Bool × Nat)) (th : Thread),
    s.thread? u = some th → (s.launch? th.launch).isSome = true →
    let b := s.counted th.launch th.wg c
    let gov := b.count.getD (count % 65536)
    let y := s.arrive u c count fold
    let recorded (x : Thread) : Option Nat := match c with
      | .bar n => x.arrived.get? n
      | .cv n => x.signed.get? (n + 16)
    (b.tally + 1 ≠ gov → (y.thread? u).bind recorded = some b.phase ∧
      y.counted th.launch th.wg c =
        { b with tally := b.tally + 1, count := some gov, units := b.units.add (((s.homeOf u).engine).getD 0)
                 fold := b.fold.orElse fun _ => fold }) ∧
    (b.tally + 1 = gov → b.fold = none → fold = none → (y.thread? u).bind recorded = some b.phase ∧
      y.counted th.launch th.wg c = { phase := b.phase + 1 } ∧
      ∀ v x, v ≠ u → s.thread? v = some x → x.launch = th.launch → x.wg = th.wg → State.waitsOn x c (b.phase + 1) = true →
        (y.thread? v).map Thread.status = some .ready)) ∧
  (∀ (s : State) (e n cv : Nat) (ts : List Nat) (x : Slot), s.slot? e n = some x →
    let set := x.cvset.getD cv 0
    let inSet := ts.filter fun u => set.getLsbD (s.homeOf u).lane
    let signed := inSet.foldl (fun (m : W32) u => m ||| (1#32 <<< (s.homeOf u).lane)) (x.cvsig.getD cv 0)
    let round := x.cvround.getD cv 0
    let y := s.signLanes e n cv ts
    (set = 0 → y = s) ∧
    (set ≠ 0 →
      (∀ u ∈ inSet, ∀ th, s.thread? u = some th → (y.thread? u).bind (fun z => z.signed.get? cv) = some round) ∧
      (signed &&& set ≠ set → ∃ z, y.slot? e n = some z ∧ z.cvsig.getD cv 0 = signed ∧ z.cvround = x.cvround) ∧
      (signed &&& set = set →
        (∃ z, y.slot? e n = some z ∧ z.cvsig.getD cv 0 = 0 ∧ z.cvround.getD cv 0 = round + 1 ∧
          ∀ m ∈ z.mq, m.wait ≠ some (cv, round)) ∧
        ∀ u ∈ s.groupThreads (waveKey e) n, ∀ th p, s.thread? u = some th → th.status = .converge cv p → p ≤ round →
          (y.thread? u).map Thread.status = some .ready)))

/-- R37, R157-R160: outside a task, SEND, SPAWN and SEND.T wait for their target to grant a place: the message stands in the
sender's outbound path, with the core, the index and the payload registers the instruction names. They, and SENDB, complete when
the place has been granted: the thread is held no longer, and SEND.T writes to predicate D whether it was granted; nothing else
changes.
R23, R161: POST empties the mailbox, whose values stay, and files a new thread of its poster's launch and workgroup at the target
in the stand's gatherer: with the mailbox values in g1 to g8, the poster's core and context in g9 and zero in every other register.
R270: the message of SEND, SENDB and SPAWN in a task is added to those the task sends when it commits. -/
def Obligations.MessagesSent : Prop :=
  (∀ (i : Instr) (k : Ins) (s : State) (r : Run) (lead : Nat) (go : List Nat),
    i.ins = some k → k.op ∈ [Op.send, .sendT, .sendb, .spawn] →
    (∀ u ∈ go, ∀ th, s.thread? u = some th → th.taskOf = none) → Clear (semOf k.op) k s r lead go →
    ∃ t, exec i s = .next t ∧ { t with threads := s.threads, engines := s.engines } = s ∧
      Effect s t k r go fun _ th th' =>
        (th.held = .granted ∨ th.held = .gaveUp) ∧
        PastBut k r th th' (fun x => { x with held := th.held, p := th.p }) ∧ th'.held = .none ∧
        if k.op = .sendT then WroteP th th' k.d (th.held == .granted) else th'.p = th.p) ∧
  (∀ (i : Instr) (k : Ins) (s : State) (r : Run) (u : Nat) (th : Thread),
    i.ins = some k → k.op ∈ [Op.send, .sendT, .spawn] → s.thread? u = some th → th.taskOf = none → th.held = .none →
    Reached (semOf k.op) k s r u [u] → s.targetOk th.part (s.srcVal u k .a) = true →
    (k.op = .spawn → s.srcVal u k .b % 4 = 0) →
    (∀ l, s.launch? th.launch = some l → l.phase ≠ .dying ∧ l.phase ≠ .preempting) →
    ∃ t m, exec i s = .next t ∧ t.outbound = s.outbound.put u m ∧ MessageOf s k u th m ∧ m.seq = s.nextId ∧
      (t.thread? u).map Thread.held = some (.asking s.nextId
        (if k.op = .sendT then some (s.gtc + (s.wordB u k).toNat / 65536 * 16) else none)) ∧
      t.run?.map Run.pc = some r.pc) ∧
  (∀ (i : Instr) (k : Ins) (s : State) (r : Run) (u c x : Nat) (th : Thread),
    i.ins = some k → k.op = .post → s.thread? u = some th → th.home = .scalar c x → u < s.nextId →
    Clear (semOf k.op) k s r u [u] →
    ∃ y z q, exec i s = .next (concluded s k [u] y) ∧ y.thread? u = some z ∧ y.thread? s.nextId = some q ∧
      { z with pc := th.pc, mb := th.mb, home := th.home } = th ∧
      (∀ n < 8, z.readMb n = { val := (th.readMb n).val, full := false }) ∧
      q.part = th.part ∧ q.launch = th.launch ∧ q.wg = th.wg ∧ q.role = .request u ∧ q.unstarted = true ∧ q.status = .ready ∧
      q.pc = r.pc + BitVec.ofInt 64 (4 * k.ofs) ∧ q.filed = s.clock.arith ∧ q.sc = s.gtc ∧
      ((∃ j, q.home = .pocket (coreStand c) j) ∨ q.home = .queued (coreStand c) ∨ q.home = .plist (coreStand c)) ∧
      (∀ n < 8, q.readG (n + 1) = { val := (th.readMb n).val }) ∧ q.readG 9 = { val := BitVec.ofNat 32 (c + x * 2 ^ 18) } ∧
      ∀ n, 9 < n → q.readG n = {}) ∧
  (∀ (i : Instr) (k : Ins) (s : State) (r : Run) (u j : Nat) (th : Thread),
    i.ins = some k → k.op ∈ [Op.send, .sendb, .spawn] → s.thread? u = some th → th.taskOf = some j →
    Clear (semOf k.op) k s r u [u] →
    ∃ m, MessageOf s k u th m ∧ exec i s = .next (concluded s k [u] { s.advance k with
      tasks := s.tasks.mod j fun x => { x with msgs := x.msgs ++ [m] } }))

/-- R47, R48, R164: TRAP raises cause 0x08 with $einfo b for each of its threads, whose PCs stay at it; the run goes on without
them. (TRAP is no instruction of the access slice, R309, so no skidder issues it.)
R164: ERET clears $tstate[0] in each of its threads, which resumes at $epch:$epc, and changes nothing else. THE MODEL'S CHOICE, log
50 (DEDUCED from R311): the handler of a sliced thread that was interrupted at a slice border resumes where that thread was to go
on, which the thread records, and not at $epch:$epc. -/
def Obligations.TrapAndReturn : Prop :=
  (∀ (i : Instr) (k : Ins) (s : State) (r : Run) (lead : Nat) (go : List Nat),
    i.ins = some k → k.op = .trap → isSkidKey s.focus = false → Reached (semOf k.op) k s r lead go →
    exec i s = .next ((go.foldl (fun x u => x.trap u 8 (s.wordB u k)) s).passBy k)) ∧
  (∀ (i : Instr) (k : Ins) (s : State) (r : Run) (lead : Nat) (go : List Nat),
    i.ins = some k → k.op = .eret → Clear (semOf k.op) k s r lead go →
    ∃ t, exec i s = .next t ∧ { t with threads := s.threads, engines := s.engines } = s ∧
      Effect s t k r go fun _ th th' =>
        th.inTrap = true ∧ { th' with pc := th.pc, oq := th.oq, inTrap := th.inTrap, resume := th.resume } = th ∧
        th'.pc = th.resume.getD th.epc ∧ th'.inTrap = false ∧ th'.resume = none)

/-- R213-R216, R221: FLUME.COPY, FLUME.TILE and FLUME.CVT queue one command, with the lowest-numbered active thread's operands and
guarded where X names a slot, at the end of the ring of the thread's core, or of its wave's engine, and nothing else changes.
R218: FLUME.WAIT gives every thread the statuses since the last one and clears them. R221: GSET and GCLR resolve and clear a guard
slot of the group. R295: BLK.DCMP gives every thread the block's old mode. -/
def Obligations.FlumeInstructions : Prop :=
  ∀ (i : Instr) (k : Ins) (s : State) (r : Run) (lead : Nat) (go : List Nat),
    i.ins = some k → Clear (semOf k.op) k s r lead go →
    let a := s.advance k
    let e := (s.groupOf lead).1
    let n := (s.groupOf lead).2
    (∀ th, k.op ∈ [Op.flumeCopy, .flumeTile, .flumeCvt] → s.thread? lead = some th →
      let dst := s.srcVal lead k .d
      let src := s.srcVal lead k .a
      let b := (s.wordB lead k).toNat
      let q := s.srcVal lead k .c
      let kind : FlumeKind :=
        match k.op with
        | .flumeCopy => .copy dst src b
        | .flumeTile => .tile dst src (bits q 15 0) (bits q 31 16) (bits q 63 32) (bits q 95 64) (bits q 103 96) (bit q 104)
        | _ => .cvt dst src b (bits q 4 0) (bits q 12 8)
      let place : Nat × Nat :=
        match th.home with
        | .scalar c _ => (coreCluster c, coreInCluster c)
        | .wave f x _ => (slotCluster f x, 16)
        | _ => (0, 0)
      ∃ y, exec i s = .next (concluded s k go y) ∧ { y with clusters := s.clusters, nextId := s.nextId } = a ∧
        y.nextId = s.nextId + 1 ∧
        y.ring place.1 place.2 = s.ring place.1 place.2 ++
          [{ id := s.nextId, kind := kind, tid := lead, engine := e, group := n, part := th.part, launch := th.launch, wg := th.wg
             guard := if 16 ≤ k.x then some (k.x % 16) else none, priority := (s.lrec th.launch).priority, threads := go
             pc := r.pc }] ∧
        ∀ c j, (c, j) ≠ place → y.ring c j = s.ring c j) ∧
    (k.op = .flumeWait →
      let kept : W32 × W32 :=
        if isWaveKey e then ((s.slot? (waveOf e) n).map fun y => (y.flumeStatus, y.flumeFlags)).getD (0, 0)
        else ((s.thread? lead).map fun th => (th.flumeStatus, th.flumeFlags)).getD (0, 0)
      exec i s = .next (concluded s k go (((go.foldl (fun x u => x.writeD u k kept.1.toNat)
        (a.modGroup e n (fun th => { th with flumeStatus := 0, flumeFlags := 0 })
          (fun y => { y with flumeStatus := 0, flumeFlags := 0 }))).setFlags lead kept.2).countFlags kept.2))) ∧
    (k.op = .gset →
      let v := (s.thread? lead).any fun th => (th.readP k.a).val
      exec i s = .next (concluded s k go
        (a.modGroup e n (fun th => { th with gs := th.gs.put k.d v }) (fun y => { y with gs := y.gs.put k.d v })))) ∧
    (k.op = .gclr → exec i s = .next (concluded s k go
      (a.modGroup e n (fun th => { th with gs := th.gs.del k.d }) (fun y => { y with gs := y.gs.del k.d })))) ∧
    (k.op = .blkDcmp → ∃ bs bad, (s.thread? lead).map Thread.held = some (.record bs bad) ∧
      exec i s = .next (concluded s k go (go.foldl
        (fun x u => x.modThread u fun th => th.writeG k.d (BitVec.ofNat 32 (natOfBytes bs)) bad)
        (a.modThread lead fun th => { th with held := .none }))))

/-- R265: TRANGE adds the range of b bytes at pair A, readable and writable as X says, to those its thread will declare, and
changes nothing else. -/
def Obligations.RangesStaged : Prop :=
  ∀ (i : Instr) (k : Ins) (s : State) (r : Run) (lead : Nat) (go : List Nat),
    i.ins = some k → k.op = .trange → Clear (semOf k.op) k s r lead go →
    ∃ t, exec i s = .next t ∧ { t with threads := s.threads, engines := s.engines } = s ∧
      Effect s t k r go fun u th th' =>
        PastBut k r th th' (fun x => { x with staged := th.staged }) ∧
        th'.staged = th.staged ++
          [{ base := s.srcVal u k .a, len := (s.wordB u k).toNat, r := k.x % 2 == 1, w := decide (2 ≤ k.x) }]

/-- R269: TSTAMP writes the task's timestamp to pair D; in a thread that is not a task, the timestamp of the launch's last
committed task, 0 if none has committed; it changes nothing else. -/
def Obligations.TimestampsRead : Prop :=
  ∀ (i : Instr) (k : Ins) (s : State) (r : Run) (lead : Nat) (go : List Nat),
    i.ins = some k → k.op = .tstamp → Clear (semOf k.op) k s r lead go →
    ∃ t, exec i s = .next t ∧ { t with threads := s.threads, engines := s.engines } = s ∧
      Effect s t k r go fun _ th th' =>
        PastBut k r th th' (fun x => { x with g := th.g }) ∧
        (∀ j x, th.taskOf = some j → s.tasks.get? j = some x → Wrote th th' k.d 2 x.key.stamp) ∧
        (th.taskOf = none → ∀ l, s.launch? th.launch = some l → Wrote th th' k.d 2 l.committed)

/-- R266, R268: TSPAWN makes each of its threads' staged ranges and payload a task of the landing it chooses, in lane order,
those taken while it was held aside; TDONE ends a task's thread, its buffer kept for the commit, and TABORT ends it with
the task dropped.
R266: for one thread, TSPAWN completes with one task more, of the thread's timestamp, handler, payload, ranges and parent, at
the landing chosen; the thread's staged set is empty, and it moves past the instruction.
R268: for one task thread, TDONE and TABORT complete with the thread gone and its task finished: with its buffer under TDONE,
and under TABORT with none, no message, and its children discarded. -/
def Obligations.TaskInstructions : Prop :=
  (∀ (i : Instr) (k : Ins) (s : State) (r : Run) (lead : Nat) (go : List Nat),
    i.ins = some k → k.op ∈ [Op.tspawn, .tdone, .tabort] → Clear (semOf k.op) k s r lead go →
    exec i s = .next (concluded s k go (go.foldl (fun x u =>
      if k.op = .tspawn then
        if (x.thread? u).map Thread.held = some .granted then x.modThread u fun th => { th with held := .none }
        else State.tspawn k x u
      else match x.taskAt u with
        | some j => x.finishTask j (k.op == .tdone)
        | none => x) (s.advance k)))) ∧
  (∀ (i : Instr) (k : Ins) (s : State) (r : Run) (u : Nat) (th : Thread),
    i.ins = some k → k.op = .tspawn → s.thread? u = some th → th.held ≠ .granted →
    (∀ j y, th.taskOf = some j → s.tasks.get? j = some y → y.dead = none) → Clear (semOf k.op) k s r u [u] →
    ∃ t x th', exec i s = .next t ∧ RunAdvances s t k r ∧ t.mem = s.mem ∧ t.nextId = s.nextId + 1 ∧
      t.tasks = (match th.taskOf with
        | some j => (s.tasks.put s.nextId x).mod j fun y : Task => { y with children := y.children + 1 }
        | none => s.tasks.put s.nextId x) ∧
      x.key.stamp = s.srcVal u k .a ∧ x.key.stand = (s.homeOf u).stand ∧
      x.key.seq = (s.stand (s.homeOf u).stand).landingSeq ∧ x.index = (s.wordB u k).toNat % 4096 ∧
      x.payload = s.payload k u ∧ x.ranges = th.staged ∧ x.parent = th.taskOf ∧ x.launch = th.launch ∧ x.wg = th.wg ∧
      x.landing = s.spawnLanding k u ∧ x.phase = .waiting ∧ x.attempt = 0 ∧
      t.thread? u = some th' ∧ PastBut k r th th' (fun x => { x with staged := th.staged, held := th.held }) ∧
      th'.staged = [] ∧ th'.held = .none) ∧
  (∀ (i : Instr) (k : Ins) (s : State) (r : Run) (u j : Nat) (th : Thread) (x : Task),
    i.ins = some k → k.op ∈ [Op.tdone, .tabort] → s.thread? u = some th → th.taskOf = some j → s.tasks.get? j = some x →
    x.tid = some u → x.dead = none → Clear (semOf k.op) k s r u [u] →
    ∃ t, exec i s = .next t ∧ t.thread? u = none ∧ t.mem.dram = s.mem.dram ∧ t.mem.host = s.mem.host ∧
      (k.op = .tdone → t.tasks = s.tasks.put j { x with phase := .finished, tid := none }) ∧
      (k.op = .tabort →
        t.tasks.get? j = some { x with
          phase := .finished, tid := none, buf := [], written := [], pages := [], keys := [], msgs := [], children := 0
          dropped := true } ∧
        ∀ c y z, c ≠ j → s.tasks.get? c = some y → y.parent = some j → t.tasks.get? c = some z → z.dead = some true))

/-- R250, R285, R293: RAY.ENQ, PRIM.EMIT and TEX.REQ complete when their unit has taken the record, the primitive or the
request: the thread is held no longer, and nothing else changes.
R285, R286: PRIM.EMIT.close acts for each of its threads in lane order: each of the four dies that has counted fewer than CLOSES
closes of the launch counts one more, and the thread may emit no more; where a die has counted CLOSES, the close is ignored there
and the DROPPED word of the pass, at its descriptor's offset 0x38, is written one higher than it reads. Nothing else changes.
R291: VIS.READ gives a shading thread the visibility entry of the pixel b names, or that of a pixel nothing covers. -/
def Obligations.HeldAndRenderInstructions : Prop :=
  (∀ (i : Instr) (k : Ins) (s : State) (r : Run) (lead : Nat) (go : List Nat),
    i.ins = some k → k.op ∈ [Op.rayEnq, .primEmit, .texReq] → Clear (semOf k.op) k s r lead go →
    ∃ t, exec i s = .next t ∧ { t with threads := s.threads, engines := s.engines } = s ∧
      Effect s t k r go fun _ th th' => PastBut k r th th' (fun x => { x with held := th.held }) ∧ th'.held = .none) ∧
  (∀ (i : Instr) (k : Ins) (s : State) (r : Run) (lead : Nat) (go : List Nat),
    i.ins = some k → Clear (semOf k.op) k s r lead go →
    (k.op = .primEmitClose → exec i s = .next (concluded s k go (go.foldl State.close (s.advance k)))) ∧
    (k.op = .visRead →
      ∃ t, exec i s = .next t ∧ { t with threads := s.threads, engines := s.engines } = s ∧
        Effect s t k r go fun u th th' =>
          PastBut k r th th' (fun x => { x with g := th.g }) ∧
          ∀ tile x y, th.role = .shading tile x y →
            let b := (s.wordB u k).toNat
            let e := (s.tiles.get? (tileKey th.launch tile)).bind fun p => p.vis.get? (bits b 20 16 * 32 + bits b 4 0)
            let ws : List W32 := match e with
              | some v => [v.prim, v.depth, v.u, v.v]
              | none => [0xFFFFFFFF#32, (s.lrec th.launch).passClearZ, 0, 0]
            (∀ j < 4, k.d + j ≠ 0 → th'.readG (k.d + j) = { val := ws.getD j 0 }) ∧
            ∀ m, m < k.d ∨ k.d + 4 ≤ m → th'.readG m = th.readG m)) ∧
  (∀ (i : Instr) (k : Ins) (s : State) (r : Run) (u : Nat) (th : Thread),
    i.ins = some k → k.op = .primEmitClose → s.thread? u = some th → Clear (semOf k.op) k s r u [u] →
    let l := th.launch
    let count (x : State) (d m : Nat) : Nat := (x.die d).closes.getD m 0
    let full (d : Nat) : Bool := decide ((s.lrec l).passCloses ≤ count s d l)
    let va := (s.lrec l).pass + 0x38
    ∃ z, { z with dies := s.dies } = s.advance k ∧
      (∀ d, { z.die d with closes := (s.die d).closes } = s.die d) ∧
      (∀ d < 4, count z d l = if full d then count s d l else count s d l + 1) ∧
      (∀ d m, 4 ≤ d ∨ m ≠ l → count z d m = count s d m) ∧
      let dropped : State := (z.driveNote l (s.homeOf u).stand [(va, 8)]).driveWrite l (s.homeOf u).stand
        [(va, bytesOfNat 8 (natOfBytes (z.driveRead l (s.homeOf u).stand va 8).1 + 1))]
      let y : State := if (List.range 4).any full then dropped else z
      exec i s = .next (concluded s k [u] (y.modThread u fun x => { x with closed := true })))

/-- R256-R260: the instructions of a bound traversal thread, for each of their threads in lane order. RAY.BOX4 and RAY.TRI test the
node or the triangle at offset b of the reach image, RAY.TRI keeping a candidate on a hit; RAY.HIT records a candidate;
RAY.NEXT and RAY.FIN unbind the thread, RAY.FIN with the ray's final status.
THE MODEL'S CHOICE, log 53 (DEDUCED): what a poisoned word of the reach image gives, of which R256 and R257 say nothing: a poisoned
result of RAY.BOX4, and of RAY.TRI the result of a miss, poisoned, with the candidate cleared. -/
def Obligations.TraversalInstructions : Prop :=
  ∀ (i : Instr) (k : Ins) (s : State) (r : Run) (lead : Nat) (go : List Nat),
    i.ins = some k → k.op ∈ [Op.rayBox4, .rayTri, .rayHit, .rayNext, .rayFin] → Clear (semOf k.op) k s r lead go →
    exec i s = .next (concluded s k go (go.foldl (fun x u =>
      match x.bound u with
      | none => if k.op = .rayNext then x.unbind u 0 else x
      | some (b, _) =>
        match k.op with
        | .rayBox4 =>
          let n := x.reachRead b.stand (x.wordB u k).toNat 128
          (x.modThread u fun th => th.writeG k.d (BitVec.ofNat 32 (box4 (x.rayRecord b) n.1)) n.2).countEvent x.focus 0x38 1
        | .rayTri =>
          let n := x.reachRead b.stand (x.wordB u k).toNat 64
          let y := x.countEvent x.focus 0x39 1
          match if n.2 then none else triTest (x.rayRecord b) n.1 with
          | some (back, tt, p, q) =>
            let t32 : W32 := BitVec.ofNat 32 (rn32 tt)
            let uv : W32 := BitVec.ofNat 32 ((roundVal 2 1 0 p).1 + (roundVal 2 1 0 q).1 * 2 ^ 16)
            y.modThread u fun th => { (th.writeG k.d (if back then 3 else 1)).writeG (k.d + 1) t32 with
              ray := some { b with cand := some (t32, rayWord n.1 0x24, uv) } }
          | none =>
            y.modThread u fun th => { (th.writeG k.d 0 n.2).writeG (k.d + 1) 0x7F800000#32 n.2 with
              ray := some { b with cand := none } }
        | .rayHit =>
          match b.cand with
          | some (tt, prim, uv) =>
            ((((x.setRayWord b 0x2C prim).setRayWord b 0x30 tt).setRayWord b 0x34 uv).setRayWord b 0x1C tt).modThread u
              fun th => { th with ray := some { b with cand := none } }
          | none => x
        | .rayNext => x.unbind u 0
        | _ =>
          match x.thread? u with
          | some th =>
            ((x.setRayWord b 0x24 (rayStatus (x.rayRecord b)
              (if rayWord (x.rayRecord b) 0x2C = 0xFFFFFFFF#32 then 2 else 1))).modDie (standDie b.stand) fun d =>
                { d with raysHeld := d.raysHeld.setD th.launch 0 (d.raysHeld.getD th.launch 0 - 1) }).unbind u 1
          | none => x) (s.advance k)))

/-- R229, R239: TZERO and ACC.ZERO leave tile register or accumulator D of the wave's slot all zero, unpoisoned and not live, and
change nothing else; while a row of it is pending or a queued MMA names it, the run is held and nothing changes. -/
def Obligations.ZeroTiles : Prop :=
  ∀ (i : Instr) (k : Ins) (s : State) (r : Run) (lead : Nat) (go : List Nat) (e n : Nat) (y : Slot),
    i.ins = some k → k.op ∈ [Op.tzero, .accZero] → s.slotOf lead = some (e, n, y) →
    Reached (semOf k.op) k s r lead go →
    ((semOf k.op).ready k go s = true →
      ∃ t, exec i s = .next t ∧
        { t with threads := s.threads, engines := s.engines, slots := s.slots } = s ∧
        (∀ x, x ≠ slotKey e n → t.slots.get? x = s.slots.get? x) ∧
        t.slot? e n = some (if k.op = .tzero then { y with m := y.m.setD k.d {} {} } else { y with acc := y.acc.setD k.d {} {} }) ∧
        Effect s t k r go fun _ th th' => PastBut k r th th' id) ∧
    ((∃ u ∈ go, (k.op = .tzero ∧ (s.mmaNamesTile u k.d = true ∨ s.tilePending u k.d none = true)) ∨
        (k.op = .accZero ∧ (s.mmaNamesAcc u k.d = true ∨ s.accPending u k.d none = true))) → exec i s = .next s)

/-- R227, R228, R231, R236, R237: TLD, TGATHER, TLDT and ACC.LD begin the load of each of their threads' rows, TST and ACC.ST its
store, and ACC.MOV the move of an element to D, which is empty meanwhile, in lane order.
R227, R228, R231, R236: for one thread, TLD, TLDT and TGATHER complete with one load more, of the thread's row of D, which is
pending; a lane at or beyond ROWS moves nothing; ACC.LD completes with the load of its row, which is pending; TST and ACC.ST with
one store more. The row of TLD, TST, ACC.LD and ACC.ST lies at base plus offset plus the lane times C; that of TGATHER at A plus the
index times the low word of C; the row of TLDT is the 16 words that the diagonal mapping of the named cluster gives it. No byte of
memory and no general register has changed.
R231, R235: TGATHER of index 0xFFFF_FFFF leaves the row zero at once where no load of it is outstanding, and else zeros that land
after those loads (the order is R235's; that the zeros wait is THE MODEL'S CHOICE, log 71, DEDUCED).
R237: ACC.MOV completes with D empty, and the element of the thread's row on its way to it. -/
def Obligations.RowInstructions : Prop :=
  (∀ (i : Instr) (k : Ins) (s : State) (r : Run) (lead : Nat) (go : List Nat),
    i.ins = some k → k.op ∈ [Op.tld, .tgather, .tldt, .tst, .accLd, .accSt, .accMov] → Clear (semOf k.op) k s r lead go →
    exec i s = .next (concluded s k go (
      let a := s.advance k
      match k.op with
      | .tld | .tgather => go.foldl (State.loadRow k) a
      | .tldt => go.foldl (State.loadDiag k) a
      | .tst => perFlags (fun u x => State.storeRow k x u) go a
      | .accLd => go.foldl (State.loadAcc k) a
      | .accSt => go.foldl (State.storeAcc k) a
      | _ => go.foldl (fun x u =>
          match x.slotOf u with
          | none => x
          | some (e, n, _) =>
            let c := (x.wordB u k).toNat
            let row := x.laneAt u
            let acc := x.accum e n k.a
            let z := x.emptyD u k
            { z with
              nextId := z.nextId + 1
              producers := z.producers.put z.nextId (.accMov u k.d (BitVec.ofNat 32 (acc.word row c)) (acc.poison.has row)
                (if acc.pending.has row then some (slotKey e n, k.a, row, c) else none)) }) a))) ∧
  (∀ (i : Instr) (k : Ins) (s : State) (r : Run) (u e n : Nat) (th : Thread) (y : Slot),
    i.ins = some k → k.op ∈ [Op.tld, .tgather, .tldt, .tst, .accLd, .accSt] → s.thread? u = some th →
    s.slotOf u = some (e, n, y) → Clear (semOf k.op) k s r u [u] →
    let row := s.laneAt u
    let tile : Tile := y.m.getD k.d {}
    let acc : Tile := y.acc.getD k.d {}
    let zeros := k.op = .tgather ∧ (s.gatherEa k u).1 = 0xFFFFFFFF#32
    ∃ t th', exec i s = .next t ∧ RunAdvances s t k r ∧ t.mem = s.mem ∧ t.thread? u = some th' ∧
      th'.pc = r.pc + BitVec.ofNat 64 k.len ∧ th'.g = th.g ∧
      (s.rowActive k u = false → t.ops = s.ops ∧ t.slots = s.slots) ∧
      (s.rowActive k u = true → zeros → (s.ops.any fun o => o.2.dest == .tileRow (slotKey e n) k.d row) = false →
        let held := t.threads.any fun x => x.2.rowHeld == some (.tileRow (slotKey e n) k.d row)
        let cleared : Tile :=
          { tile.setRow (s.shape u k.d) row (List.replicate (s.shape u k.d).n 0) false with
            live := true, pending := tile.pending.set row held }
        t.ops = s.ops ∧ th'.rowHeld = none ∧ t.slot? e n = some { y with m := y.m.setD k.d {} cleared }) ∧
      (s.rowActive k u = true → zeros → (s.ops.any fun o => o.2.dest == .tileRow (slotKey e n) k.d row) = true →
        ∃ o, t.ops = s.ops.put s.nextId o ∧ t.slots = s.slots ∧ o.tid = u ∧ o.kind = .load ∧
          o.dest = .tileRow (slotKey e n) k.d row ∧
          ∃ p, o.parts = [p] ∧ p.phase = .value ∧ p.poison = false ∧ p.n = (s.shape u k.d).rowBytes ∧
            p.data = List.replicate (s.shape u k.d).rowBytes 0) ∧
      (s.rowActive k u = true → ¬zeros → t.nextId = s.nextId + 1 ∧
        (∀ x, x ≠ s.nextId → t.ops.get? x = s.ops.get? x) ∧
        ∃ o, t.ops.get? s.nextId = some o ∧ o.tid = u ∧ o.ord = 0 ∧ o.stamp = none ∧
          o.kind = (if k.op = .tst ∨ k.op = .accSt then .store else .load) ∧
          o.dest = (match k.op with
            | .tst | .accSt => .none
            | .accLd => .accRow (slotKey e n) k.d row
            | _ => .tileRow (slotKey e n) k.d row) ∧
          (k.op ∈ [Op.tld, .tst, .accLd, .accSt] →
            o.ea = (s.memEa u k + BitVec.ofNat 64 (row * s.srcVal u k .c)).toNat) ∧
          (k.op = .tgather →
            o.ea = (s.srcVal u k .a + (s.wordB u k).toNat * (s.srcVal u k .c % 2 ^ 32)) % 2 ^ 64) ∧
          (k.op ∈ [Op.tld, .tgather, .accLd] →
            o.parts.map (fun p => (p.place, p.n)) = (partsOf (s.rowParts k u)).map fun p => (p.place, p.n)) ∧
          (k.op = .tldt →
            let b := (s.wordB u k).toNat
            let cluster := (s.homeOf u).stand * 8 + bits b 11 9
            let base := bits ((s.cluster cluster).dgn.getD (bits b 13 12) 0).toNat 21 9
            o.parts.map (fun p => (p.place, p.n)) = (List.range 16).map fun j =>
              let r := if bit b 14 then j else row % 16
              let c := if bit b 14 then row % 16 else j
              (.loc (locKey (coreOfCluster cluster ((r + c) % 16)) ((base + 16 * (bits b 8 0 + row / 16) + r) * 4)), 4)) ∧
          t.slot? e n = some (match k.op with
            | .tst | .accSt => y
            | .accLd => { y with acc := y.acc.setD k.d {} { acc with pending := acc.pending.add row } }
            | _ => { y with m := y.m.setD k.d {} { tile with pending := tile.pending.add row } }))) ∧
  (∀ (i : Instr) (k : Ins) (s : State) (r : Run) (u e n : Nat) (th : Thread) (y : Slot),
    i.ins = some k → k.op = .accMov → s.thread? u = some th → s.slotOf u = some (e, n, y) → Clear (semOf k.op) k s r u [u] →
    let row := s.laneAt u
    let c := (s.wordB u k).toNat
    let acc := y.acc.getD k.a {}
    ∃ t th', exec i s = .next t ∧ RunAdvances s t k r ∧ t.mem = s.mem ∧ t.ops = s.ops ∧ t.slots = s.slots ∧
      t.nextId = s.nextId + 1 ∧
      t.producers = s.producers.put s.nextId (.accMov u k.d (BitVec.ofNat 32 (acc.word row c)) (acc.poison.has row)
        (if acc.pending.has row then some (slotKey e n, k.a, row, c) else none)) ∧
      t.thread? u = some th' ∧ PastBut k r th th' (fun x => { x with g := th.g }) ∧
      (k.d ≠ 0 → (th'.readG k.d).full = false) ∧ ∀ m, m ≠ k.d → th'.readG m = th.readG m)

/-- R230, R232-R234, R238: MMA and MMA.S queue one entry for the wave, or join the one already queued for the same instruction
and round; NZSCAN gives each lane the column of the nonzero element it numbers and gathers them into a second tile where X
asks; ACC.CVT rounds the accumulator's rows into tile D, drawing from the lowest-numbered active thread's generator. -/
def Obligations.MatrixInstructions : Prop :=
  ∀ (i : Instr) (k : Ins) (s : State) (r : Run) (lead : Nat) (go : List Nat) (e n : Nat) (y : Slot),
    i.ins = some k → s.slotOf lead = some (e, n, y) → Clear (semOf k.op) k s r lead go →
    let a := s.advance k
    (k.op ∈ [Op.mma, .mmaS] →
      let round := ((s.thread? lead).map fun th => th.signed.getD k.c (y.cvround.getD k.c 0)).getD 0
      let key := (round * 16 + k.c) * 2 ^ 64 + r.pc.toNat
      let open' := y.cvset.getD k.c 0 ≠ 0 ∧ y.cvround.getD k.c 0 ≤ round
      let entry : MmaEntry :=
        { key := key, int := k.ty == 0x0E, scaled := k.op == .mmaS, acc := k.d, a := k.a, b := k.b, sa := k.x % 8
          sb := k.x / 16 % 8, cfgA := y.tcfg.getD k.a 0, cfgB := y.tcfg.getD k.b 0, cfgSa := y.tcfg.getD (k.x % 8) 0
          cfgSb := y.tcfg.getD (k.x / 16 % 8) 0, wait := if open' then some (k.c, round) else none, threads := go }
      ∃ x, exec i s = .next (concluded s k go x) ∧ { x with slots := s.slots, launches := s.launches } = a ∧
        (∀ j, j ≠ slotKey e n → x.slots.get? j = s.slots.get? j) ∧
        (key ∈ y.mqDone → x = a) ∧
        (key ∉ y.mqDone → (y.mq.any fun m => m.key == key) = true → x.slot? e n = some { y with
          mq := y.mq.map fun m => if m.key = key then { m with threads := (m.threads ++ go).eraseDups } else m }) ∧
        (key ∉ y.mqDone → (y.mq.any fun m => m.key == key) = false → x.slot? e n = some { y with mq := y.mq ++ [entry] })) ∧
    (k.op = .nzscan →
      let b := (s.wordB lead k).toNat
      let h := s.shape lead k.a
      let m := s.tile e n k.a
      let cols := ((List.range (min (bits b 6 0 + 32) h.n - bits b 6 0)).map fun j => bits b 6 0 + j).filter fun j =>
        !elemZero h.fmt (m.elem h (bits b 12 8) j)
      let x := go.foldl (fun x u => x.writeD u k (cols.getD (x.laneAt u) 0xFFFFFFFF)) a
      let es := (List.range (s.shape lead (k.x % 8)).n).map fun j =>
        match cols[j]? with
        | some c => m.elem h (bits b 12 8) c
        | none => 0
      let outstanding := s.ops.any fun o => o.2.dest == .tileRow (slotKey e n) (k.x % 8) (bits b 20 16)
      (k.x < 8 → exec i s = .next (concluded s k go x)) ∧
      (8 ≤ k.x → outstanding = false →
        let w := x.modThread lead fun q => { q with rowHeld := none }
        let held := w.threads.any fun q => q.2.rowHeld == some (.tileRow (slotKey e n) (k.x % 8) (bits b 20 16))
        exec i s = .next (concluded s k go (w.modTile e n (k.x % 8) fun m =>
            { m.setRow (s.shape lead (k.x % 8)) (bits b 20 16) es false with
              live := true, pending := m.pending.set (bits b 20 16) held }))) ∧
      (8 ≤ k.x → outstanding = true → ∃ t o, exec i s = .next t ∧ t.slots = s.slots ∧ t.ops = s.ops.put s.nextId o ∧
        o.tid = lead ∧ o.kind = .load ∧ o.dest = .tileRow (slotKey e n) (k.x % 8) (bits b 20 16) ∧
        o.parts.map Part.data = [bytesOfNat (s.shape lead (k.x % 8)).rowBytes
          (packLanes (elemStep (s.shape lead (k.x % 8)).fmt) (es.map (elemOf (s.shape lead (k.x % 8)).fmt)))])) ∧
    (k.op = .accCvt →
      let h := s.shape lead k.d
      let acc := s.accum e n k.a
      let p := a.rounding lead k.hint (h.rows * h.n)
      let conv := (List.range h.rows).map fun j =>
        roundRow h.fmt p.1 k.ty (p.2.1.drop (j * h.n)) ((List.range h.n).map fun c => acc.word j c)
      let fl := conv.foldl (fun (f : FFlags) (x : List Nat × FFlags) => f.or x.2) ({} : FFlags)
      exec i s = .next (concluded s k go ((go.foldl (fun x u => x.setFlags u fl.toW32)
        (p.2.2.modTile e n k.d fun m =>
          { ((List.range h.rows).zip conv).foldl (fun (m : Tile) x => m.setRow h x.1 x.2.1 (acc.poison.has x.1)) m with
            live := true })).countFlags fl.toW32)))

/-- R10, R347, R364, R369, R373, R386: a read of a counter that its read clears answers with the value it held, leaves
zero, and changes nothing else. -/
def Obligations.CountersClearOnRead : Prop :=
  ∀ (i : Instr) (off : Nat) (s : State),
    ((∃ p, p < 2 ∧ i = .cxldropRead p ∧ off = cxlReg p 0xC) ∨ (∃ p, p < 64 ∧ i = .discardRead p ∧ off = partReg p 0x40) ∨
      (∃ l, l < 18 ∧ i = .lnkreplayRead l ∧ off = linkReg l 4) ∨ (i = .cecountRead ∧ off = 0x6100004) ∨
      (i = .uecountRead ∧ off = 0x6100008) ∨ (i = .misdirRead ∧ off = 0x610000C) ∨ (i = .parretryRead ∧ off = 0x6100010) ∨
      (∃ q, q < 4096 ∧ (i = .crstartRead q ∧ off = queueReg q 0x44 ∨ i = .crclaimRead q ∧ off = queueReg q 0x48 ∨
        i = .crdiscRead q ∧ off = queueReg q 0x4C ∨ i = .crcauseRead q ∧ off = queueReg q 0x50))) →
    ∃ t, exec i s = .next t ∧ t.busRead = s.reg off ∧ t.reg off = 0 ∧ (∀ o, o ≠ off → t.reg o = s.reg o) ∧
      { t with bar0 := s.bar0, busRead := s.busRead } = s

/-- The host's writes of memory-mapped registers: what each leaves in the register, in every other register and in the rest of the
state. Of the physical function's (R10, R329, R348, R364, R369, R371, R373, R393, R395 name the registers):
a register whose write only stores takes its writable bits, and keeps its value
while it is locked; one whose bits are cleared by writing 1 loses those; a write of any other offset changes nothing.
R329, R330, R331, R338: QDOORBELL publishes the entry it names if that is reserved and not read; QCTL keeps LOC and LOG2S while EN
is 1 and, clearing EN, leaves nothing unread and signals the unread launches as cancelled; QSTAT, clearing its bit 1, skips a WAIT
that timed out; QPREEMPT begins a pre-emption unless one is in progress.
R362: FREPLAY replays the records it covers, and what waits on them goes on; FCANCEL makes the record it names fatal. R359: what
waits for room in the fault queue, the event ring or the log follows when a consumer index moves. R369-R372, R375, R378, R399: PCTL,
STANDOWN, BALCTL, PKGLOST, PROVISION and PWRMODE.
A virtual function's writes reach its own partition alone.
THE MODEL'S CHOICE: log 66 (a doorbell for an index not reserved, QWAIT out of range, the consumer index after EN is cleared), log
86 (fields out of range) and log 99 (the offsets of virtual functions). -/
def Obligations.HostRegisterWritesTakeEffect : Prop :=
  (∀ (off mask : Nat) (locked : Bool) (v : W32) (s : State), StoredRegister s off mask locked →
    if locked then exec (.registerWrite off v) s = .next s else Sets (.registerWrite off v) s off (v &&& BitVec.ofNat 32 mask)) ∧
  (∀ (off : Nat) (v : W32) (s : State), off < 2 ^ 32 → ¬Writable off → exec (.registerWrite off v) s = .next s) ∧
  (∀ (off p : Nat) (v : W32) (s : State), p < 64 → off < 2 ^ 32 →
    let own := (queueReg (64 * p) 0 ≤ off ∧ off < queueReg (64 * p + 64) 0) ∨ (transReg p 0 ≤ off ∧ off < transReg p 0x1000) ∨
      off ∈ [partReg p 0x38, partReg p 0x48, partReg p 0x50]
    (own → exec (.registerWrite ((p + 1) * 2 ^ 32 + off) v) s = exec (.registerWrite off v) s) ∧
    (¬own → exec (.registerWrite ((p + 1) * 2 ^ 32 + off) v) s = .next s)) ∧
  (∀ (q : Nat) (v : W32) (s : State), q < 4096 →
    let n := v.toNat
    let x := s.queue q
    let R := queueReg q
    let entry := x.read + (n % 2 ^ 31 + 2 ^ 31 - x.read % 2 ^ 31) % 2 ^ 31
    (entry < x.reserved → exec (.doorbellWrite q v) s = .next
      (s.modQueue q fun y => { y with published := y.published.put entry s.gtc })) ∧
    (x.reserved ≤ entry → exec (.doorbellWrite q v) s = .next s) ∧
    (s.qEnabled q = false → Sets (.qctlWrite q v) s (R 8) (BitVec.ofNat 32 (bits n 12 8 * 256 + bits n 2 2 * 4 + n % 4))) ∧
    (s.qEnabled q = true → v.getLsbD 0 = true →
      Sets (.qctlWrite q v) s (R 8) (BitVec.ofNat 32 (s.qctl q - s.qctl q % 4 + n % 4))) ∧
    (s.qEnabled q = true → v.getLsbD 0 = false →
      let signals : List (Nat × Nat) := x.published.keys.filterMap fun m =>
        let b := s.entryBytes q m
        let addr := fieldOf b 0x10 8
        if fieldOf b 0 1 = 1 ∧ addr ≠ 0 ∧ addr % 8 = 0 then some (addr, State.signalWord (BitVec.ofNat 64 (fieldOf b 0x18 8)) 4) else none
      let told := signals.foldl (fun (y : State) e => y.signalOrKeep q e.1 e.2) s
      ∃ t, exec (.qctlWrite q v) s = .next t ∧
        SetTo (told.modQueue q fun y => { y with read := y.reserved, published := [] }) t (R 8)
          (BitVec.ofNat 32 (s.qctl q - s.qctl q % 4 + n % 4))) ∧
    (x.halted = false ∨ v.getLsbD 1 = false → Sets (.qstatWrite q v) s (R 0x20) (s.reg (R 0x20) &&& ~~~v)) ∧
    (x.halted = true → v.getLsbD 1 = true → ∃ t, exec (.qstatWrite q v) s = .next t ∧
      SetTo (s.modQueue q fun y => { y with
        halted := false, wait := none, active := y.wait.elim y.active fun w => y.active.remove w.index }) t (R 0x20)
        (s.reg (R 0x20) &&& ~~~v)) ∧
    (v.getLsbD 0 = false ∨ (s.reg (R 0x24)).getLsbD 0 = true → exec (.qpreemptWrite q v) s = .next s) ∧
    (v.getLsbD 0 = true → (s.reg (R 0x24)).getLsbD 0 = false →
      let stops (l : Launch) : Bool := l.queue == q && l.cruise.isNone && (l.phase == .running || l.phase == .pending) &&
        l.wgs.any fun w => w.2.placed && !w.2.retired
      ∃ t, exec (.qpreemptWrite q v) s = .next t ∧
        { t with launches := s.launches, cruises := s.cruises, bar0 := s.bar0 } = s ∧
        (∀ k, t.launches.get? k = (s.launches.get? k).map fun l => if stops l then { l with phase := .preempting } else l) ∧
        (∀ k, t.cruises.get? k = (s.cruises.get? k).map fun c => if c.queue = q then c.cause 0x10 else c) ∧
        let at' := if s.launches.any fun l => stops l.2 then R 0x24 else R 0x20
        t.reg at' = (if at' = R 0x24 then 1 else s.reg (R 0x20) ||| 4) ∧ ∀ o, o ≠ at' → t.reg o = s.reg o) ∧
    (n % 65536 ≤ 1000 → Sets (.registerWrite (R 0xC) v) s (R 0xC) (BitVec.ofNat 32 (n % 65536))) ∧
    (1000 < n % 65536 → exec (.registerWrite (R 0xC) v) s = .next s) ∧
    exec (.registerWrite (R 8) v) s = exec (.qctlWrite q v) s ∧ exec (.registerWrite (R 0x18) v) s = exec (.doorbellWrite q v) s ∧
    exec (.registerWrite (R 0x20) v) s = exec (.qstatWrite q v) s ∧ exec (.registerWrite (R 0x24) v) s = exec (.qpreemptWrite q v) s) ∧
  (∀ (p : Nat) (v : W32) (s : State), p < 64 →
    let n := v.toNat
    let R := transReg p
    let size (o : Nat) := bits (if (s.reg (R o)).getLsbD 0 then s.regN (R o) else n) 12 8
    let quiet := s.bufferedRecs p = [] ∧ s.waitingPages = []
    let prod := s.regN (R 0x1C)
    let covered (x : Pending) : Bool := x.part == p && x.pending && !x.fr.auto &&
      decide ((n + 2 ^ 32 - x.fr.seq) % 2 ^ 32 < 2 ^ 31) && decide ((prod + 2 ^ 32 - 1 - x.fr.seq % 2 ^ 32) % 2 ^ 32 < 2 ^ 31)
    (s.recs.keys.Nodup → ∃ t, exec (.freplayWrite p v) s = .next t ∧ t.reg (R 0x28) = v ∧ (∀ o, o ≠ R 0x28 → t.reg o = s.reg o) ∧
      { t with bar0 := s.bar0, recs := s.recs, threads := s.threads, launches := s.launches, clusters := s.clusters
               texReqs := s.texReqs, tasks := s.tasks } = s ∧
      (∀ k, t.recs.get? k = (s.recs.get? k).map fun x => if covered x then { x with pending := false } else x) ∧
      ∀ k x ts d u th, s.recs.get? k = some x → covered x = true → x.who = .threads ts d → u ∈ ts → s.thread? u = some th →
        th.status = .parked k → (t.thread? u).map Thread.status = some .ready) ∧
    (let key := p * 2 ^ 32 + n % 2 ^ 32
     ((s.recs.get? key).all (fun x => !x.pending || x.fr.auto) = true → Sets (.fcancelWrite p v) s (R 0x2C) v) ∧
     ∀ x ts d u th, s.recs.get? key = some x → x.pending = true → x.fr.auto = false → x.who = .threads (u :: ts) d →
       s.thread? u = some th → (s.launch? th.launch).any (fun l => l.cruise.isNone && l.fatal.isNone) = true →
       ∃ t, exec (.fcancelWrite p v) s = .next t ∧ t.reg (R 0x2C) = v ∧ (∀ o, o ≠ R 0x2C → t.reg o = s.reg o) ∧
         { t with bar0 := s.bar0, recs := s.recs, launches := s.launches } = s ∧
         t.recs = s.recs.put key { x with pending := false } ∧
         ∃ l f, t.launch? th.launch = some l ∧ l.phase = .dying ∧ l.fatal = some f ∧ f.cause = 0x0D ∧ f.tid = some u) ∧
    exec (.fqconsWrite p v) s = .next ((s.setReg (R 0x20) v).flushFaults p 1025).sendWaitingPages ∧
    (quiet → Sets (.fqconsWrite p v) s (R 0x20) v) ∧
    exec (.fqctlWrite p v) s = .next ((s.setRegN (R 0x18) (size 0x18 * 256 + n % 2)).flushFaults p 1025).sendWaitingPages ∧
    (quiet → Sets (.fqctlWrite p v) s (R 0x18) (BitVec.ofNat 32 (size 0x18 * 256 + n % 2))) ∧
    Sets (.registerWrite (R 8) v) s (R 8) (BitVec.ofNat 32 (size 8 * 256 + n % 2)) ∧
    Sets (.registerWrite (R 0x24) v) s (R 0x24) (s.reg (R 0x24) &&& ~~~v) ∧
    Sets (.registerWrite (R 0x54) v) s (R 0x54) (s.reg (R 0x54) &&& ~~~v) ∧
    exec (.registerWrite (R 0x18) v) s = exec (.fqctlWrite p v) s ∧ exec (.registerWrite (R 0x20) v) s = exec (.fqconsWrite p v) s ∧
    exec (.registerWrite (R 0x28) v) s = exec (.freplayWrite p v) s ∧ exec (.registerWrite (R 0x2C) v) s = exec (.fcancelWrite p v) s ∧
    exec (.registerWrite (R 0x38) v) s = exec (.invctlStart p v) s ∧ exec (.registerWrite (R 0x50) v) s = exec (.migctlStart p v) s) ∧
  (∀ (p : Nat) (v : W32) (s : State), p < 64 →
    let n := v.toNat
    let R := partReg p
    let quiet := ∀ d ∈ s.dies, ∀ e ∈ d.2.eventBuf, e.1 ≠ p
    let evctl := bits (if (s.reg (R 0x30)).getLsbD 0 then s.regN (R 0x30) else n) 12 8 * 256 + n % 2
    let domctl := bits (if s.partEnabled p then s.regN (R 0x44) else n) 6 1 * 2 + n % 2
    let lost := v &&& 0x800003FF
    (v.getLsbD 0 = true → s.partEnabled p = false → s.keysOk p = true → Sets (.pctlWrite p v) s (R 0) 1) ∧
    (v.getLsbD 0 = false → s.partEnabled p = true → s.partBusy p = false → Sets (.pctlWrite p v) s (R 0) 0) ∧
    ((v.getLsbD 0 = s.partEnabled p ∨ (v.getLsbD 0 = true ∧ s.keysOk p = false) ∨ (v.getLsbD 0 = false ∧ s.partBusy p = true)) →
      exec (.pctlWrite p v) s = .next s) ∧
    exec (.evconsWrite p v) s = .next ((s.setReg (R 0x38) v).flushEvents p 257) ∧
    (quiet → Sets (.evconsWrite p v) s (R 0x38) v) ∧
    exec (.registerWrite (R 0x30) v) s = .next ((s.setRegN (R 0x30) evctl).flushEvents p 257) ∧
    (quiet → Sets (.registerWrite (R 0x30) v) s (R 0x30) (BitVec.ofNat 32 evctl)) ∧
    Sets (.registerWrite (R 0x44) v) s (R 0x44) (BitVec.ofNat 32 domctl) ∧
    ((s.reg (R 0x50)).getLsbD 31 = true → exec (.registerWrite (R 0x50) v) s = .next s) ∧
    ((s.reg (R 0x50)).getLsbD 31 = false → Sets (.registerWrite (R 0x50) v) s (R 0x50) ((v &&& 0x3FFF) ||| 0x80000000)) ∧
    (∀ m, m < 16 → Sets (.ctrselWrite p m v) s (R (0x60 + 4 * m)) (v &&& 0xFFFF)) ∧
    (v.getLsbD 31 = true → ∃ t, exec (.pkglostDeclare p v) s = .next t ∧ t.reg (R 0x48) = lost ∧
      (t.partition p).lost = (s.partition p).lost.add (n % 1024) ∧
      (s.routeHeld = [] → (∀ o ∈ s.ops, o.2.part = p → ∀ x ∈ o.2.parts, x.phase ≠ .queued) →
        SetTo (s.modPart p fun y => { y with lost := y.lost.add (n % 1024) }) t (R 0x48) lost)) ∧
    (v.getLsbD 31 = false → ∃ t, exec (.pkglostRestore p v) s = .next t ∧
      SetTo { s.modPart p fun y => { y with lost := y.lost.remove (n % 1024) } with
        routeWait := s.routeWait.filter fun k _ => k % 1024 != n % 1024 } t (R 0x48) lost) ∧
    exec (.registerWrite (R 0) v) s = exec (.pctlWrite p v) s ∧ exec (.registerWrite (R 0x38) v) s = exec (.evconsWrite p v) s ∧
    exec (.registerWrite (R 0x48) v) s = exec (if v.getLsbD 31 then .pkglostDeclare p v else .pkglostRestore p v) s) ∧
  (∀ (p : Nat) (v : W32) (s : State), p < 2 →
    let timeout := if v.toNat % 1024 = 0 then s.regN (cxlReg p 0) % 1024 else v.toNat % 1024
    Sets (.registerWrite (cxlReg p 0) v) s (cxlReg p 0) (BitVec.ofNat 32 (bits v.toNat 16 16 * 65536 + timeout)) ∧
    Sets (.cxlstatWrite p v) s (cxlReg p 4) (s.reg (cxlReg p 4) &&& ~~~v) ∧
    Sets (.registerWrite (cxlReg p 4) v) s (cxlReg p 4) (s.reg (cxlReg p 4) &&& ~~~v)) ∧
  (∀ (n : Nat) (v : W32) (s : State), n < 2048 →
    exec (.registerWrite (standownReg n) v) s = exec (.standownWrite n v) s ∧
    (s.drained n = true → s.standMoves n = false → (∀ l ∈ s.launches, l.2.phase ≠ .pending) →
      ∃ t, exec (.standownWrite n v) s = .next t ∧
        t.reg (standownReg n) = v &&& 0xBF ∧ (∀ o, o ≠ standownReg n → t.reg o = s.reg o) ∧
        t.stand n = { s.stand n with pendingOwn := none } ∧ (∀ m, m ≠ n → t.stand m = s.stand m) ∧
        (∀ e, t.engine e = if t.standOwner n ≠ s.standOwner n ∧ isSkidKey e = false ∧ engineStand e = n then
          { s.engine e with ring := [], written := 0 } else s.engine e) ∧
        { t with bar0 := s.bar0, stands := s.stands, engines := s.engines } = s) ∧
    (s.drained n = false ∨ s.standMoves n = true → ∃ t, exec (.standownWrite n v) s = .next t ∧
      SetTo ({ s with nextId := s.nextId + 1 }.modStand n fun x =>
        { x with pendingOwn := some (v &&& 0xBF, x.pendingOwn.elim s.nextId (·.2)) }) t (standownReg n)
        (s.reg (standownReg n) ||| 0x100))) ∧
  (∀ (d : Nat) (v : W32) (s : State), d < 4 →
    let n := v.toNat
    exec (.registerWrite (balReg d 4) v) s = exec (.balctlWrite d v) s ∧
    (bits n 29 20 < bits n 19 10 ∨ 512 < bits n 29 20 ∨ 512 < bits n 9 0 → exec (.balctlWrite d v) s = .next s) ∧
    (¬(bits n 29 20 < bits n 19 10 ∨ 512 < bits n 29 20 ∨ 512 < bits n 9 0) →
      Sets (.balctlWrite d v) s (balReg d 4) (v &&& 0x7FFFFFFF))) ∧
  (∀ (v : W32) (s : State),
    let boot := State.bootReg
    (s.bootState = 8 ∧ v = 1 → ∃ t, exec (.provisionWrite v) s = .next t ∧
      SetTo { s with pkg := { s.pkg with image := s.pkg.staging } } t boot 0) ∧
    (¬(s.bootState = 8 ∧ v = 1) → exec (.provisionWrite v) s = .next s) ∧
    (s.pkg.pfBuf = [] → Sets (.pflogconsWrite v) s (pfReg 0x10) v ∧ Sets (.registerWrite (pfReg 8) v) s (pfReg 8) (v &&& 0x1F01)) ∧
    exec (.pflogconsWrite v) s = .next ((s.setReg (pfReg 0x10) v).flushLog (s.pkg.pfBuf.length + 1)) ∧
    exec (.registerWrite (pfReg 8) v) s = .next ((s.setReg (pfReg 8) (v &&& 0x1F01)).flushLog (s.pkg.pfBuf.length + 1)) ∧
    (let stat := powerReg 4
     let settled := v.toNat % 4 = s.regN stat % 4 ∧ s.pkg.relocking = false ∧ ∀ e ∈ s.pkg.oldMode, (s.engine e).run.isSome
     (settled → Sets (.pwrmodeWrite v) s (powerReg 0) (v &&& 3)) ∧
     (¬settled → ∃ t, exec (.pwrmodeWrite v) s = .next t ∧ t.reg (powerReg 0) = v &&& 3 ∧ t.reg stat = s.reg stat ||| 4 ∧
       (∀ o, o ≠ powerReg 0 → o ≠ stat → t.reg o = s.reg o) ∧
       { t with bar0 := s.bar0 } = { s with pkg := { s.pkg with
         relocking := true, oldMode := (s.engines.filter fun _ e => e.run.isSome).keys } })) ∧
    exec (.registerWrite 0x6000004 v) s = exec (.provisionWrite v) s ∧
    exec (.registerWrite (pfReg 0x10) v) s = exec (.pflogconsWrite v) s ∧
    exec (.registerWrite (powerReg 0) v) s = exec (.pwrmodeWrite v) s)

/-- R330: a read of QRESV or QRESVS answers 2 with the queue off; with room it reserves the next entry and answers its index
with bit 31 set; with no room it waits, and answers 1 after QWAIT, QRESVS 3 after 20 µs.
R331: a WAIT polls its word: it completes when the condition holds, and at its limit the queue halts with its timeout bit
set. -/
def Obligations.QueueReservationsAndWaits : Prop :=
  (∀ (q : Nat) (s : State), q < 4096 →
    (s.qEnabled q = false → exec (.qresvRead q) s = .next { s.modQueue q fun x => { x with resv := none } with busRead := 2 } ∧
      exec (.qresvsRead q) s = .next { s.modQueue q fun x => { x with resvs := none } with busRead := 2 }) ∧
    (s.qEnabled q = true → s.occupancy q + 4 < s.ringSize q → ∃ t, exec (.qresvRead q) s = .next t ∧
      t.busRead = BitVec.ofNat 32 (2 ^ 31 + State.shownIndex (s.queue q).reserved) ∧
      t.queue q = { s.queue q with reserved := (s.queue q).reserved + 1, resv := none } ∧
      { t with queues := s.queues, busRead := s.busRead } = s) ∧
    (s.qEnabled q = true → s.occupancy q < s.ringSize q → ∃ t, exec (.qresvsRead q) s = .next t ∧
      t.busRead = BitVec.ofNat 32 (2 ^ 31 + State.shownIndex (s.queue q).reserved) ∧
      t.queue q = { s.queue q with reserved := (s.queue q).reserved + 1, resvs := none } ∧
      { t with queues := s.queues, busRead := s.busRead } = s) ∧
    (s.qEnabled q = true → s.ringSize q - 4 ≤ s.occupancy q →
      ((s.queue q).resv = none → 0 < s.regN (queueReg q 0xC) →
        exec (.qresvRead q) s = .next (s.modQueue q fun x => { x with resv := some s.gtc })) ∧
      ∀ b, (s.queue q).resv = some b → b + s.regN (queueReg q 0xC) * 1000 ≤ s.gtc →
        exec (.qresvTimeout q) s = .next { s.modQueue q fun x => { x with resv := none } with busRead := 1 }) ∧
    (s.qEnabled q = true → s.ringSize q ≤ s.occupancy q →
      ((s.queue q).resvs = none → exec (.qresvsRead q) s = .next (s.modQueue q fun x => { x with resvs := some s.gtc })) ∧
      ∀ b, (s.queue q).resvs = some b → b + 20000 ≤ s.gtc →
        exec (.qresvsBusyTimeout q) s = .next { s.modQueue q fun x => { x with resvs := none } with busRead := 3 })) ∧
  (∀ (q : Nat) (w : QWait) (s : State), (s.queue q).wait = some w → (s.queue q).halted = false →
    (s.waitStuck q w.addr = none →
      let y := s.unitReads (State.queuePart q) [(w.addr, 8)]
      exec (.queueWaitPoll q) s = .next
        (if s.waitTrue q w then (y.modQueue q fun x => { x with wait := none }).completeCmd q w.index
         else y.modQueue q fun x => { x with wait := some { w with last := s.gtc } })) ∧
    (∀ d, w.deadline = some d → d ≤ s.gtc → exec (.queueWaitTimeout q) s = .next
      ((s.modQueue q fun x => { x with halted := true }).orReg (queueReg q 0x20) 2)))

/-- R330-R332, R336: the entry a queue reads next is carried out by the command step of its operation when its header is well formed
and it may start: LAUNCH makes an accepted launch, SIGNAL writes its word, WAIT completes when its word meets the condition and else
stays, BIND writes its handler.
R53, R331: MESSAGE of a launch that has not ended, to a core its partition owns in this package, stands at the end of that core's
inbound queue, with the index and the payload words of the entry; while the queue holds 16 messages, or the launch has not started,
the command is kept. (Which of the launch's workgroups it belongs to is THE MODEL'S CHOICE, log 120.)
R341: RESUME of a launch that is saved, and whose one workgroup's stand or another takes it, takes the launch out of the saved ones:
it runs, its workgroup has a stand that suits, and its threads stand in their contexts and slots there, at the PCs and with the
registers they were saved with; those that were parked are to replay. The queue's status shows it (R329). Which stand takes it is THE
MODEL'S CHOICE, log 43. -/
def Obligations.QueueCommands : Prop :=
  ∀ (q : Nat) (c : State.Cmd) (s : State),
    (s.queue q).waiting = [] → s.nextEntry q = some c → State.headerOk c = true → (s.noteRead q c).mayStart q c = true →
    let x := s.noteRead q c
    let part := State.queuePart q
    (∀ r, State.Cmd.op c = 1 → s.descAwaits part (s.cruiserReads q c.2.2) = none → ((x.queueCruise q).any fun e => e.2.claim == some c.1) = false → x.accept part c.2.2 = .ok r →
      let y := x.noteAccept part c.2.2
      let z := { y with nextId := y.nextId + 1 }
      exec (.launch q) s = .next ({ z with launches := z.launches.put y.nextId (z.newLaunch q c r) }.noteKernel part r.desc)) ∧
    (let addr := fieldOf c.2.2 8 8
     let add := bit (fieldOf c.2.2 0x18 1) 0
     let old := x.unitRead part addr 8
     let v := fieldOf c.2.2 0x10 8
     State.Cmd.op c = 2 → (s.queue q).late = [] → addr % 8 = 0 → fieldOf c.2.2 0x18 8 ≤ 1 →
      State.zeroFrom c.2.2 0x20 = true → x.unitStuck part [(addr, 8, { r := add, w := true })] = none →
      let y := if add then x.unitReads part [(addr, 8)] else x
      exec (.signalCommand q) s = .next ((if add = true ∧ old.2.any (fun b => b) = true then y
        else y.unitPut part addr (bytesOfNat 8 (if add then natOfBytes old.1 + v else v))).completeCmd q c.1)) ∧
    (let f := fieldOf c.2.2 0x18 4
     let w : QWait := { index := c.1, addr := fieldOf c.2.2 8 8, value := fieldOf c.2.2 0x10 8, cond := bits f 1 0
                        deadline := if bits f 31 16 = 0 then none else some (x.gtc + bits f 31 16 * 1000), last := x.gtc }
     State.Cmd.op c = 3 → bits f 1 0 ≠ 3 → bits f 15 2 = 0 → State.zeroFrom c.2.2 0x1C = true → x.waitStuck q w.addr = none →
      let y := x.unitReads part [(w.addr, 8)]
      exec (.queueWaitCommand q) s = .next
        (if x.waitTrue q w then y.completeCmd q c.1 else y.modQueue q fun z => { z with wait := some w })) ∧
    (let tgt := fieldOf c.2.2 8 8
     let f := fieldOf c.2.2 0x10 8
     let core := tgt % 2 ^ 18
     let id := bits f 31 0
     let cruises := x.cruises.map fun (e : Nat × Cruise) =>
       if (x.launch? e.2.launch).any fun (l : Launch) => l.part == part && l.id == id then (e.1, e.2.cause 8) else e
     State.Cmd.op c = 4 → bits f 47 44 ≤ 8 → f / 2 ^ 48 = 0 → State.zeroFrom c.2.2 0x38 = true →
      (tgt / 2 ^ 32 = 0xFFFFFFFF ∨ tgt / 2 ^ 32 = s.pkgId) → bits tgt 31 18 = 0 → s.coreOwner core = some part →
      (∀ k l, x.launchById part id = some (k, l) → (x.core core).inbound.length < 16 →
        ∃ t, exec (.messageCommand q) s = .next t ∧ t.core core = { x.core core with
          inbound := (x.core core).inbound ++
            [{ core := core, index := bits f 43 32, part := part, launch := k, wg := State.hostWg l core, srcCore := 0
               payload := (List.range (bits f 47 44)).map fun n => BitVec.ofNat 32 (fieldOf c.2.2 (0x18 + 4 * n) 4)
               srcPkg := s.pkgId, arrived := true, sender := s.nextId, seq := s.nextId }] } ∧
          (∀ n, n ≠ core → t.core n = x.core n) ∧ t.queue q = { x.queue q with active := (x.queue q).active.remove c.1 } ∧
          (∀ n, n ≠ q → t.queue n = s.queue n) ∧ t.cruises = cruises ∧
          { t with cores := s.cores, queues := s.queues, cruises := s.cruises, nextId := s.nextId } = s) ∧
      (∀ k l, x.launchById part id = some (k, l) → 16 ≤ (x.core core).inbound.length →
        exec (.messageCommand q) s = .next (x.modQueue q fun y => { y with waiting := y.waiting ++ [c] })) ∧
      (x.launchById part id = none → x.launchAwaited part id = true →
        exec (.messageCommand q) s = .next (x.modQueue q fun y => { y with waiting := y.waiting ++ [c] })) ∧
      (x.launchById part id = none → x.launchAwaited part id = false → x.eventRoom (coreDie core) = true →
        exec (.messageCommand q) s = .next (({ x with cruises := cruises }.eventRecord part (coreDie core) 4 (bits f 43 32) 0 s.pkgId
          id).completeCmd q c.1))) ∧
    (State.Cmd.op c = 5 → fieldOf c.2.2 0x10 8 < 4096 → State.zeroFrom c.2.2 0x18 = true →
      x.unitFree (x.reg64 (partReg part 8) + 8 * fieldOf c.2.2 0x10 8) 8 = true → exec (.bind q) s = .next
      ((x.unitWrite (x.reg64 (partReg part 8) + 8 * fieldOf c.2.2 0x10 8) (bytesOfNat 8 (fieldOf c.2.2 8 8))).completeCmd q c.1)) ∧
    (∀ v l w g, State.Cmd.op c = 6 → State.zeroFrom c.2.2 0x10 = true → x.savedAt part (fieldOf c.2.2 8 8) = some v →
      x.launch? v.launch = some l → l.r.scene = 0 → v.wgs = [(w, g)] → v.threads.keys.Nodup →
      (∀ e ∈ v.threads, e.2.wg = w ∧ State.savedStand v e.1 = g.stand) → (∀ e ∈ v.slots, e.2.wg = w ∧ e.1 / 64 = g.stand) →
      (∀ e ∈ v.reserved, e.2.1 = w ∧ coreStand e.1.1 = g.stand) → (∀ e ∈ v.msgs, e.2.wg = w ∧ coreStand e.1 = g.stand) →
      (∀ d ∈ x.dies, ∀ b ∈ d.2.booms, b.1 / 2 ^ 32 ≠ v.launch) →
      let suits (n : Nat) : Bool := x.permits l n && x.spillSuits l n && x.streamSuits v.launch l n &&
        x.moveFits v { sel := fun a b => a == w && b == g.stand, dest := fun y => if y = g.stand then n else y }
      (∃ n ∈ State.restoreStands l w g.stand, suits n = true) →
      ∃ t n l', exec (.resume q) s = .next t ∧ n ∈ State.restoreStands l w g.stand ∧ suits n = true ∧
        t.saved = x.saved.del (fieldOf c.2.2 8 8) ∧ t.reg (queueReg q 0x20) = x.reg (queueReg q 0x20) ||| 8 ∧
        t.launch? v.launch = some l' ∧ (l'.wgs.get? w).map (fun y => (y.placed, y.stand)) = some (true, n) ∧
        l'.phase = (if State.namedFilled l' then .running else .pending) ∧
        ∀ u th, v.threads.get? u = some th → ∃ z, t.thread? u = some z ∧ z.pc = th.pc ∧ z.p = th.p ∧ z.k = th.k ∧
          z.role = th.role ∧ (∀ m, (z.readG m).val = (th.readG m).val) ∧
          z.status = (match th.status with
            | .parked _ | .stopped => .ready
            | y => y) ∧
          (v.pockets = [] → v.plist = [] →
            (∀ a b, th.home = .scalar a b → z.home = .scalar (coreOfIndex n (indexOfCore a)) b) ∧
            ∀ a b m, th.home = .wave a b m → z.home = .wave (2 * n + a % 2) b m))

/-- R155, R158, R179, R194, R195, R237: a unit's result reaches its register when the unit completes: a special function's, a
lane's or a quad's maximum, an accumulator's element; a WAIT ends when its deadline has come; a SEND.T gives up at its
limit.
R126, R200, R206, R227, R231, R236: a load completes with the bytes its parts have read, an atomic with the old value and
the flags of its operation, a load of a tile's or an accumulator's row with its row.
R233, R234: the entry at the head of a wave's matrix queue is performed when nothing it reads is pending: the accumulator
takes the result and each of its threads the flags, or each of its threads is to trap where an operand is poisoned. -/
def Obligations.Completions : Prop :=
  (∀ (n : Nat) (s : State),
    (∀ t op d f x m j, s.producers.get? n = some (.special t op d f x m j) →
      let v := specialValue op f (m % 8) (m / 8) x
      exec (.specialFunctionCompletion n) s = .next
        ({ s with producers := s.producers.del n }.deliver t d (fmtRegs f) (elemWrite f v.1) v.2 false j)) ∧
    (∀ t d v iv j, s.producers.get? n = some (.laneMax t d v iv j) → exec (.qxmaxExchangeCompletion n) s = .next
      ({ s with producers := s.producers.del n }.deliver t d 1 v.toNat { iv := iv } false j)) ∧
    (∀ t c x l d int r v, s.producers.get? n = some (.qxmax t c x l d int r v) →
      let cs := (quadCores c).filterMap fun k => s.contribution k x l r
      let vals := cs.filterMap fun e => match e.2 with
        | .qxmax _ _ _ _ _ _ _ v => some v
        | _ => none
      cs.length = 4 →
        exec (.qxmaxExchangeCompletion n) s = .next (cs.foldl (fun (y : State) e => y.endExchange vals e) s)) ∧
    (∀ t d v bad, s.producers.get? n = some (.accMov t d v bad none) → exec (.accMovCompletion n) s = .next
      ({ s with producers := s.producers.del n }.deliver t d 1 v.toNat {} bad)) ∧
    (∀ th d, s.thread? n = some th → th.status = .until d → d ≤ s.gtc →
      exec (.waitDeadlineExpiry n) s = .next (s.setStatus n .ready)) ∧
    (∀ th m d, s.thread? n = some th → th.held = .asking m (some d) → d ≤ s.gtc → exec (.sendTTimeout n) s = .next
      ({ s with outbound := s.outbound.del n }.modThread n fun x => { x with held := .gaveUp }))) ∧
  (∀ (n : Nat) (o : MemOp) (s : State), s.ops.get? n = some o →
    (∀ bs bad hit, o.kind = .load → o.orphan = false → o.inRow = false → s.loadValue n o = some (bs, bad, hit) →
      exec (.loadCompletion n) s = .next (((s.countHit n o hit).deliverLoad n o bs bad).settleHalts)) ∧
    (∀ bs bad hit, o.kind = .load → o.inRow = true → s.rowBehind n o = false → s.loadValue n o = some (bs, bad, hit) →
      exec (.tileRowLoadCompletion n) s = .next ((s.countHit n o hit).finishRow n o bs bad)) ∧
    (∀ d w sg, o.kind = .atomic → o.taken = true → o.dest = .regs d w sg →
      let old := natOfBytes (o.parts.flatMap (·.data))
      let bad := o.parts.any (·.poison)
      let x := { s with ops := s.ops.del n }.deliverRegs n o.tid d (State.widthRegs w) old bad
      exec (.atomCompletion n) s = .next
        (x.raiseFlags o.tid o.issue (if bad then {} else atomFlags o.atomOp o.ty old o.c)).settleHalts)) ∧
  (∀ (e n : Nat) (y : Slot) (m : MmaEntry) (rest : List MmaEntry) (s : State),
    s.slot? e n = some y → y.mq = m :: rest → mmaReady y m = true → s.readyBefore e n m = false →
    let done := (y.mqDone ++ [m.key]).drop ((y.mqDone.length + 1) - 16)
    (∀ info, mmaPoison y m = some info → exec (.mmaEntryPerform e n) s = .next (m.threads.foldl (fun (x : State) u =>
      x.modThread u fun th => { th with pendingTrap := some (th.pendingTrap.getD info) })
        (s.modSlot e n fun z => { z with mq := rest, mqDone := done }))) ∧
    (mmaPoison y m = none → exec (.mmaEntryPerform e n) s = .next (((m.threads.foldl (fun (x : State) u =>
      x.setFlags u (mmaResult y m).2.toW32)
        (s.modSlot e n fun z => { z with mq := rest, mqDone := done, acc := z.acc.put m.acc (mmaResult y m).1 })).countFlagsAt
          (waveKey e) (mmaResult y m).2.toW32).countEvent (waveKey e) 0x30 1)))

/-- R37, R158, R162: a message leaves its sender when the target's inbound queue has a place, those of one wave's lanes in increasing
lane order: it takes the place, or is on its way to another package, waits for a route there, or is discarded where that package is
lost. R83, R36-R38: it arrives when the sender's earlier messages to the core have, and its writes are complete; the queue's next
message starts a thread in a free context, joins the gatherer, or is discarded. R34, R35: the thread's registers as it starts, and a
barge's bytes in the context's area. R162: a message held for a route leaves when the route is back. R27: a thread that waits for a
context takes a free one.
THE MODEL'S CHOICE: that a texture request is accepted, and its descriptor read, when the place of its reply is granted (log 132,
DEDUCED); and the order in which the places of threads of different waves and contexts are granted, which no rule gives: any whose
conditions hold may be next (log 157). -/
def Obligations.MessageSteps : Prop :=
  ∀ (s : State),
    (∀ u m, s.outbound.get? u = some m → (m.pkg = none → (s.core m.core).inbound.length < 16) → s.lowerAsks u = false →
      s.limitPast u = false → s.transitRoom m = true →
      (s.texOf m = none →
        let x := { s with outbound := s.outbound.del u }.modThread u fun th => { th with held := .granted }
        (m.pkg = none → exec (.messagePlaceGrant u) s = .next
          (x.modCore m.core fun y => { y with inbound := y.inbound ++ [m] })) ∧
        (∀ k, m.pkg = some k → (s.partition m.part).lost.has (k % 1024) = true →
          exec (.messagePlaceGrant u) s = .next (x.discardMsg m 2)) ∧
        (∀ k, m.pkg = some k → (s.partition m.part).lost.has (k % 1024) = false →
          exec (.messagePlaceGrant u) s = .next
            (if s.pkg.links = [] then { x with routeHeld := x.routeHeld.put m.seq m } else x))) ∧
      (∀ j q, s.texOf m = some (j, q) → s.texWaits j q = false → s.texStuck q q.descAddr 32 = none →
        exec (.messagePlaceGrant u) s = .next ((s.texAccept j q).grantPlace u m) ∧
        ((s.texAccept j q).texReqs.get? j).map TexReq.desc =
          some (some (if (s.texRead q q.descAddr 32).2 then [] else (s.texRead q q.descAddr 32).1)))) ∧
    (∀ n c m, s.msgCore n = some (c, m) →
      (3 < scopeOfStands (coreStand m.srcCore) (coreStand m.core) → s.copiesDone (coreStand m.srcCore) m.seq = true) →
      ((s.core c).inbound.all fun o => o.arrived || o.sender != m.sender || decide (m.seq ≤ o.seq)) = true →
      s.writesDone m.sender m.seq (scopeOfStands (coreStand m.srcCore) (coreStand m.core)) = true →
      exec (.messageArrival n) s = .next (s.modCore c fun x =>
        { x with inbound := (x.inbound.filter fun o => o.seq != n) ++ [{ m with arrived := true }] })) ∧
    (∀ c x m e, s.scanQueue c x (s.core c).inbound = some (m, .start e) →
      let foreign := (s.core c).owner.any fun l => l != m.launch && (s.dequeue c m).holdsCore c l
      let d := (if m.spawn.isSome then 0 else m.index) + e.ver * 2 ^ 12 + m.barge.isSome.toNat * 2 ^ 16 + e.ord.toNat * 2 ^ 17 +
        m.payload.length * 2 ^ 18 + foreign.toNat * 2 ^ 23
      let area := 0x400 + 0x1000 * x
      exec (.handlerStart c x) s = .next ((s.dequeue c m).startMsg c x m e) ∧
      ∃ t th, exec (.handlerStart c x) s = .next t ∧ t.thread? s.nextId = some th ∧ StartsWith s m d area th ∧
        th.pc = e.pc ∧ th.home = .scalar c x ∧
        th.rng = (s.lrec m.launch).seed ^^^ BitVec.ofNat 64 (s.gtc * 0x9E3779B97F4A7C15) ^^^ BitVec.ofNat 64 (c * 2 ^ 40) ∧
        (t.core c).inbound = (s.core c).inbound.filter (· != m) ∧ (t.core c).reserved = (s.core c).reserved.del x ∧
        (foreign = false → (t.core c).owner = some m.launch) ∧
        ∀ bs bad j b, m.barge = some (bs, bad) → x < 4 → bs.length ≤ 4096 → bs[j]? = some b → t.mem.loc.readByte (locKey c area + j) = b) ∧
    (∀ c x m e, s.scanQueue c x (s.core c).inbound = some (m, .gather e) → m.spawn = none → m.barge = none →
      let y := s.dequeue c m
      let d := m.index + e.ver * 2 ^ 12 + e.ord.toNat * 2 ^ 17 + m.payload.length * 2 ^ 18
      exec (.handlerStart c x) s = .next ((y.fileNew (coreStand c) (y.msgThread m e d 0)).countEvent c 0x20 1) ∧
      ∃ t th, exec (.handlerStart c x) s = .next t ∧ t.thread? s.nextId = some th ∧ StartsWith s m d 0 th ∧ th.pc = e.pc ∧
        (t.core c).inbound = (s.core c).inbound.filter (· != m)) ∧
    (∀ c x m, s.scanQueue c x (s.core c).inbound = some (m, .discard) → s.eventRoom (coreDie c) = true →
      exec (.handlerStart c x) s = .next ((s.dequeue c m).discardMsg m 1)) ∧
    (∀ n m, s.routeHeld.get? n = some m →
      (s.heldLost m = false → s.routeUp = true →
        exec (.heldMessageRouteReturn n) s = .next { s with routeHeld := s.routeHeld.del n }) ∧
      (s.heldLost m = true → s.eventRoom (coreDie m.core) = true →
        exec (.heldMessageRouteReturn n) s = .next ({ s with routeHeld := s.routeHeld.del n }.discardMsg m 2))) ∧
    (∀ c x u rest th, (s.stand (coreStand c)).waitCtx = u :: rest → s.ctxFree c x = true → x < 4 → s.thread? u = some th →
      exec (.waitingThreadTakesContext c x) s = .next
        ((s.modStand (coreStand c) fun y => { y with waitCtx := rest }).moveToContext u c x th.pc))

/-- R85, R87, R88, R90, R94: the parts of an access are performed at their home: a read of memory with a lease when no engine owns the
line, a recall asked for where one does; a write in its turn, else queued; a local access at its port; a write's
acknowledgement frees its copy.
R385, R387, R388: a stand's lease sweep ends what has expired there; an L1 sleeps with its contents kept, and wakes with them
cleared if its sleep was too long; a fenced slice's lines have a home again. -/
def Obligations.HomeAndCacheSteps : Prop :=
  (∀ (n p : Nat) (o : MemOp) (x : Part) (s : State), s.opPart n p = some (o, x) →
    (∀ pa, x.place = .dram pa → o.kind = .load → o.ord ≠ 5 → x.phase = .sent ∨ x.phase = .queued → s.opReady n o x = true →
      s.partFits o x = true → s.placeLost o.part x.place = false → s.rehoming (pa / 64) = false → s.copyPends o.stand pa = false →
      ((s.home (pa / 64)).owner = none →
        let y := match (s.homeOf o.tid).engine with
          | some e => if x.l1 then s.countEvent e 9 1 else s
          | none => s
        exec (.homeReadLeaseGrant n p) s = .next (((y.dropBadHit o x pa).grantLease o x pa).performAt n p o x)) ∧
      (∀ e, (s.home (pa / 64)).owner = some e → x.phase = .sent →
        exec (.homeReadLeaseGrant n p) s = .next (s.recallLine n p x (pa / 64)))) ∧
    (∀ pa, x.place = .dram pa → o.kind ≠ .load → o.ord ≠ 5 → x.dropped = false → x.migHeld = false → x.phase = .sent →
      s.opReady n o x = true → s.partFits o x = true → s.placeLost o.part x.place = false → s.rehoming (pa / 64) = false →
      s.opTask o = none → s.opCruise o = none →
      let z := s.tryCopy n
      let w := ((z.opPart n p).map (·.2)).getD x
      z.copyTurn n p o w pa = true → (o.kind = .atomic → z.copyPends o.stand pa = false) → w.phase = .sent →
      (z.home (pa / 64)).owner = none → (z.home (pa / 64)).queue.contains (n, p) = false →
      exec (.homeWritePerformed n p) s = .next
        (if z.mayPerform n p o w (pa / 64) then z.performWrite n p o w (pa / 64) else z.enqueueWrite n p o w (pa / 64))) ∧
    (∀ a, x.place = .loc a → o.ord ≠ 5 → x.phase = .sent → s.opReady n o x = true → s.partFits o x = true →
      exec (.memoryPortArrival n p) s = .next (((s.performAt n p o x).reapOp n).settleHalts)) ∧
    (∀ pa, x.place = .dram pa → x.copy = true → x.phase = .performed → s.placeLost o.part x.place = false →
      let y := (s.modStand o.stand fun z =>
        { z with l1 := z.l1.mod (pa / 64) fun l => { l with writes := l.writes.filter (· != (n, p)) } }).modHome (pa / 64)
          fun h => { h with awaitAck := if h.awaitAck = some (n, p) then none else h.awaitAck }
      exec (.writeAckAtStand n p) s = .next (((y.setPart n p { x with phase := .acked }).reapOp n).settleHalts)) ∧
    (∀ a b, x.place = .host a b → o.kind ≠ .load → x.phase = .performed → exec (.rootComplexWriteAck n p) s = .next
      (((s.setPart n p { x with phase := .acked }).reapOp n).settleHalts)) ∧
    (∀ pa, x.place = .dram pa → o.ord = 5 → x.dropped = false → x.migHeld = false → x.phase = .queued → s.partFits o x = true →
      s.placeLost o.part x.place = false → o.kind = .load → s.copyPends o.stand pa = false →
      (s.home (pa / 64)).owner = none → s.rehoming (pa / 64) = false →
      o.stamp.getD 0 + State.skew o.scope ≤ s.gtc → s.lowerStamp n o (pa / 64) = false →
      exec (.scOperationPerformed n p) s = .next (s.performSc n p o x))) ∧
  (∀ (n : Nat) (s : State),
    (n < 2048 → (s.stand n).asleep = none → exec (.leaseSweep n) s = .next ((s.sweepL1 n).sweepHomes n)) ∧
    (n < 2048 → (s.stand n).asleep = none → ((s.stand n).l1.any fun l => !l.2.writes.isEmpty) = false →
      exec (.l1RetentionSleep n) s = .next (s.modStand n fun x => { x with asleep := some s.gtc })) ∧
    (∀ t, (s.stand n).asleep = some t →
      let x := s.modStand n fun x => { x with asleep := none }
      exec (.l1RetentionWake n) s = .next
        (if t + 134217728 ≤ s.gtc then x.modStand n fun y => { y with l1 := [] } else x.sweepL1 n)) ∧
    (s.slicesFenced.has n = true →
      exec (.l2RehomingComplete n) s = .next { s with slicesFenced := s.slicesFenced.remove n }))

/-- R116, R351, R354, R356, R357, R374: a translation walk fills the cache of the unit that asked or raises the fault it meets, a host
page asking the host, an address of another package that package (what it answers is the model's free value, log 137); the
host's answer fills the cache when it still fits the entry; a page request's answer replays the record, or refuses it with a
second one, and a Response Failure besides switches requests off for the whole package, with FQSTAT[1] in the partition
whose request it was (of the whole package: the model's reading, log 112).
R355, R358, R366-R368: an invalidation starts, by INVCTL or by the host, with what it must wait for, and completes when
nothing waits: BUSY falls, the host hears, or a migration goes on; a migration starts where the page can move (that it keeps
clear of what another partition's registers name is log 146), copies a line a beat, gives up where a frame is lost, and ends
when the leases of its source have. -/
def Obligations.TranslationAndInvalidationSteps : Prop :=
  (∀ (n : Nat) (s : State),
    (∀ w, s.walks.get? n = some w → w.ats = none → State.inDomain w.va = false → s.walkable w.part w.va = true →
      (∀ tr e, s.walk w.part w.va = .found tr e → tr.host = false → exec (.translationWalk n) s = .next
        ((({ s with walks := s.walks.del n } : State).dropLastPage w).cacheFor w tr)) ∧
      (∀ tr e, s.walk w.part w.va = .found tr e → tr.host = true → w.fetch = false → tr.grants w.need = true →
        exec (.translationWalk n) s = .next (s.askHost n w tr.pasid)) ∧
      (∀ tr e, s.walk w.part w.va = .found tr e → tr.host = true → w.fetch = true ∨ tr.grants w.need = false →
        s.walkRoom w = true → exec (.translationWalk n) s = .next (s.walkFault n w 2 true (some tr.pasid))) ∧
      (∀ kind, s.walk w.part w.va = .fault kind →
        let js := s.siblings n w (s.faultSpan w kind)
        s.walkRoom (State.joinedWalk w js) = true → exec (.translationWalk n) s = .next
          (({ s with walks := s.walks.filter fun j _ => !(js.any fun x => x.1 == j) } : State).walkFault n
            (State.joinedWalk w js) kind false none))) ∧
    (∀ w, s.walks.get? n = some w → w.ats = none → State.inDomain w.va = true →
      (s.pkg.links = [] → exec (.translationWalk n) s = .next { s with walks := s.walks.del n }) ∧
      (s.pkg.links ≠ [] →
        (∀ tr e, State.remoteWalk n w.part w.va = .found tr e → exec (.translationWalk n) s = .next
          ((({ s with walks := s.walks.del n } : State).dropLastPage w).cacheFor w tr)) ∧
        (∀ kind, State.remoteWalk n w.part w.va = .fault kind →
          let js := s.siblings n w (s.faultSpan w kind)
          s.walkRoom (State.joinedWalk w js) = true → exec (.translationWalk n) s = .next
            (({ s with walks := s.walks.filter fun j _ => !(js.any fun x => x.1 == j) } : State).walkFault n
              (State.joinedWalk w js) kind false none)))) ∧
    (∀ w pasid, s.walks.get? n = some w → w.ats = some pasid →
      (∀ a perms, w.stale = true → exec (.atsTranslationCompletion n a perms) s = .next (s.askHost n w pasid)) ∧
      (∀ a perms, w.stale = false → s.walkRoom w = true → perms.getLsbD 7 = true →
        exec (.atsTranslationCompletion n a perms) s = .next (s.walkFault n w 6 true (some pasid))) ∧
      (∀ (a : W64) perms tr e, w.stale = false → perms.getLsbD 7 = false →
        s.walk w.part w.va = .found tr e → tr.host = true → tr.pasid = pasid →
        let g := State.hostTrans w tr a.toNat perms
        (g.r || g.w) = true → g.grants w.need = true → exec (.atsTranslationCompletion n a perms) s = .next
          ((({ s with walks := s.walks.del n } : State).dropLastPage w).cacheFor w g)) ∧
      (∀ (a : W64) perms tr e, w.stale = false → perms.getLsbD 7 = false →
        s.walk w.part w.va = .found tr e → tr.host = true → tr.pasid = pasid →
        let g := State.hostTrans w tr a.toNat perms
        g.r = false ∧ g.w = false ∨ g.grants w.need = false → s.walkRoom w = true →
        exec (.atsTranslationCompletion n a perms) s = .next
          (if s.pkg.priOff then s.walkFault n w 5 true (some pasid) else s.pageRequests n w pasid)) ∧
      (s.walkRoom w = true → exec (.atsCompletionTimeout n) s = .next (s.walkFault n w 6 true (some pasid)))) ∧
    (∀ q, s.prgs.get? n = some q →
      let x := { s with prgs := s.prgs.del n }
      exec (.prgResponse n 0) s = .next (x.replayRecord q.frec).sendWaitingPages ∧
      (x.faultRoom (((x.recs.get? q.frec).map fun p => standDie p.fr.stand).getD 0) = true →
        exec (.prgResponse n 1) s = .next (x.refuseRecord q.frec).sendWaitingPages ∧
        ∀ code, 2 ≤ code →
          let y := x.refuseRecord q.frec
          exec (.prgResponse n code) s = .next
            (({ y with pkg := { y.pkg with priOff := true } } : State).orReg (transReg q.part 0x24) 2).sendWaitingPages)) ∧
    (∀ r u th kind page addr, s.run? = some r → s.nextInstr = some (.fault kind page addr) →
      (r.members.filter s.issuing).head? = some u → s.thread? u = some th → s.faultRoom (standDie th.home.stand) = true →
      exec .instructionFetchFault s = .next
        ((s.park (r.members.filter s.issuing) kind page addr 1 false false).closeRun r))) ∧
  (∀ (s : State),
    (∀ p (v : W32), p < 64 → bit (s.regN (transReg p 0x38)) 0 = true → exec (.invctlStart p v) s = .next s) ∧
    (∀ p (v : W32), p < 64 → bit (s.regN (transReg p 0x38)) 0 = false → v.getLsbD 0 = true →
      let size := if v.getLsbD 2 then 2097152 else 65536
      let x := s.setRegN (transReg p 0x38) (v.toNat % 8)
      exec (.invctlStart p v) s = .next (x.startInval
        { parts := [p], base := bits (x.reg64 (transReg p 0x30)) 56 16 * 65536 / size * size
          size := if v.getLsbD 1 then none else some size, waits := [] }).2) ∧
    (∀ pasid (a : W64) size tag, (s.invals.filter fun _ v => v.byHost.isSome).length < 32 →
      exec (.atsInvalidateRequest pasid a size tag) s = .next (s.startInval
        { parts := List.range 64, base := a.toNat, size := if size = 0 then none else some size
          pasid := if pasid < 2 ^ 20 then some pasid else none, waits := [], byHost := some tag }).2) ∧
    (∀ n v, s.invals.get? n = some v → s.invReady v = true →
      (∀ tag, v.byHost = some tag → v.byMig = none → exec (.invalidationComplete n) s = .next
        { s with invals := s.invals.del n, hostOut := s.hostOut ++ [(3, tag, v.base)] }) ∧
      (∀ k m, v.byHost = none → v.byMig = some k → s.migs.get? k = some m →
        m.stage ≠ .abort ∨ (s.unitFree m.entry 8 = true ∧ s.faultRoom (standDie (s.migCluster m / 8)) = true) → exec (.invalidationComplete n) s = .next ({ s with invals := s.invals.del n }.migStep k m)) ∧
      (v.byHost = none → v.byMig = none →
        let off := transReg (v.parts.headD 0) 0x38
        exec (.invalidationComplete n) s = .next
          ({ s with invals := s.invals.del n }.setRegN off (s.regN off / 2 * 2)))) ∧
    (∀ p (v : W32) tr entry, p < 64 → bit (s.regN (transReg p 0x50)) 0 = false → v.getLsbD 0 = true →
      let x := s.setRegN (transReg p 0x50) (v.toNat / 2 % 2 * 2)
      let size := if v.getLsbD 1 then 2097152 else 65536
      let va := bits (x.reg64 (transReg p 0x40)) 56 16 * 65536
      let dst := bits (x.reg64 (transReg p 0x48)) 44 16 * 65536
      x.walk p va = .found tr entry → tr.host = false → tr.m = false → tr.size = size → va % size = 0 → dst % size = 0 →
      x.populated dst = true → x.populated (dst + size - 1) = true → x.mapped dst size = false → x.frameOwned p dst size = true →
      let m : Migration :=
        { part := p, va := va, size := size, src := tr.frame, dst := dst, key := tr.key, entry := entry + 8
          cluster := bucketOf (bits (x.regN (transReg p 8)) 12 8) va (if size = 65536 then 0 else 1) % 16384 }
      let y := ({ x with nextId := x.nextId + 1 } : State).setRegN (transReg p 0x50) (v.toNat % 4)
      exec (.migctlStart p v) s = .next (if y.unitFree m.entry 8 then y.migMark x.nextId m
        else { y with migs := y.migs.put x.nextId { m with stage := .mark } })) ∧
    (∀ n m, s.migs.get? n = some m → m.stage = .mark → s.unitFree m.entry 8 = true →
      exec (.migrationComplete n) s = .next
        (({ s with migs := s.migs.put n { m with stage := .first } } : State).writeEntry m m.src true |>.startInval
          (State.migInval n m)).2) ∧
    (∀ n m c, s.migs.get? n = some m → m.stage = .copy → s.migFlume m = some c → s.faultRoom (standDie (c / 8)) = true →
      s.eccRoom (64 * (m.src / 64 + m.copied)) m.key = true → (m.copied + 1 = m.size / 64 → s.unitFree m.entry 8 = true) →
      (s.frameLost m = true → exec (.migrationComplete n) s = .next
        (({ s with migs := s.migs.put n { m with stage := .abort, result := 2 } } : State).startInval
          (State.migInval n { m with stage := .abort, result := 2 })).2) ∧
      (s.frameLost m = false →
        let line := m.src / 64 + m.copied
        let bad := s.lineBad line m.key
        let x := (s.noteEcc (64 * line) m.key m.part (some (State.unitNo 7 c))).copyLine m
        let y := if bad then x.migReport m 0x13 m.src (64 * line) true else x
        let m' := { m with copied := m.copied + 1, result := if bad then 1 else m.result }
        (m.copied + 1 ≠ m.size / 64 → exec (.migrationComplete n) s = .next { y with migs := y.migs.put n m' }) ∧
        (m.copied + 1 = m.size / 64 →
          let z := (y.moveHeld m).writeEntry m m.dst false
          exec (.migrationComplete n) s = .next
            (({ z with migs := z.migs.put n { m' with stage := .second } } : State).startInval
              (State.migInval n { m' with stage := .second })).2))) ∧
    (∀ n m, s.migs.get? n = some m → m.stage = .leases →
      (s.homes.all fun h => !State.inSource m (64 * h.1) || h.2.leases.all fun l => decide (l.2 + 4 ≤ s.gtc)) = true →
      let x := { s with migs := s.migs.del n }
      exec (.migrationComplete n) s = .next ((x.setRegN (transReg m.part 0x50)
        (x.regN (transReg m.part 0x50) / 2 * 2)).setRegN (transReg m.part 0x54) (1 + 2 * m.result))))

/-- R91, R92, R217, R219, R222: a Flume command at the head of its ring runs when its guard allows and its threads' earlier writes are done,
and ends with status 8 where its guard forbids, or 1 where its flume is fenced; it takes ownership of each destination line that
is free, moves one beat at a time, and ends when its last beat is done; a line called back is released, and one that is not given
back in time is taken by the buddy. -/
def Obligations.FlumeSteps : Prop :=
  ∀ (s : State),
    (∀ c r cmd rest, s.ring c r = cmd :: rest → s.flumeFenced c = true →
      exec (.flumeCommandAtHead c r) s = .next ((s.dropDcmp cmd).endHead c r cmd 1)) ∧
    (∀ c r cmd rest, s.ring c r = cmd :: rest → s.flumeFenced c = false → cmd.running = false →
      (cmd.guard = none ∨ (∃ g, cmd.guard = some g ∧ g < 16 ∧ (s.guards cmd.engine cmd.group).get? g = some true) →
        s.cmdStops cmd = false → (cmd.threads.all fun t => s.writesDone t cmd.id 5) = true →
        exec (.flumeCommandAtHead c r) s = .next (s.setRing c r ({ cmd with running := true, guard := none } :: rest))) ∧
      (∀ g, cmd.guard = some g → (s.guards cmd.engine cmd.group).get? g = some false →
        exec (.flumeCommandAtHead c r) s = .next (s.endHead c r cmd 8))) ∧
    (∀ n line c r x, s.findCmd n = some (c, r, x) → x.running = true → x.owned.has line = false →
      (s.destLines c x).contains line = true → s.lineFree line none = true → (s.home line).queue = [] →
      exec (.engineOwnershipGrant n line) s = .next
        ((s.modHome line fun h => { h with owner := some n, before := some (s.lineValue line), final := false }).modCmd n
          fun y => { y with owned := y.owned.add line })) ∧
    (∀ line n, (s.home line).owner = some n → (s.home line).final = true → exec (.engineRecallComplete line) s = .next
      ((s.releaseLine line).modCmd n fun x => { x with owned := x.owned.remove line })) ∧
    (∀ c r d cmd rest, s.nextRing c = some (r, d) → s.ring c r = cmd :: rest →
      exec (.flumeBeatService c) s = .next ((s.doBeat c cmd).modCluster c fun x =>
        let idle := (List.range 17).filter fun k =>
          k != r && !((s.doBeat c cmd).ring c k).head?.any fun h => (s.doBeat c cmd).canRun c h
        { x with turn := r, deficit := (idle.foldl (fun (t : Table Nat) k => t.del k) x.deficit).setD r 0 (d - 1) })) ∧
    (∀ c r cmd rest, s.ring c r = cmd :: rest → cmd.running = true → cmd.kind.beats ≤ cmd.done →
      cmd.heldBeats = [] → cmd.again = [] →
      exec (.flumeCommandComplete c r) s = .next
        (cmd.owned.foldl (fun (x : State) l => x.releaseLine l) (s.endHead c r cmd 0))) ∧
    (∀ line c r x g, (s.home line).owner.bind s.findCmd = some (c, r, x) → (s.home line).recallAt = some g →
      (s.home line).final = false → g + 50000 ≤ s.gtc → s.fenceRoom 7 c = true → exec (.buddyTakeover line) s = .next
        ((s.failFlume c (!s.flumeServes (buddyDie (c / 4096)))).fence 7 c 1))

/-- R17, R21, R42, R51, R53, R334, R344: an engine with no run chooses its next one; a pocket that is due is released;
a stand's next wave starts on an engine; a workgroup is placed on a stand it fits, a cruise there giving way first; its
watchdog ends the launch; it retires when nothing of it is left, the last one finishing the launch.
R52, R338, R343, R345, R346, R390: a launch with a fatal error writes its dump when its threads have stopped, behind those whose
traps were detected earlier, and then ends; one that is
pre-empted is saved when it has come to rest, or goes on where there is no room; a cruise starts a predicted launch, is
claimed by the command that matches it, and is discarded for a cause or after 10 ms.
Each clause says besides what the next state holds: the run chosen, the wave released or started, the workgroup placed or
retired, the launch ended, saved or running, and the cruise there or gone. -/
def Obligations.PlacementAndLaunchSteps : Prop :=
  (∀ (s : State),
    (s.run? = none → s.pkg.relocking = false → s.pkg.oldMode.has s.focus = false → ∃ t, exec .runArbitration s = .next t ∧
      t = s.arbitrate s.focus ∧
      (t.run? = none ∨ ∃ r, t.run? = some r ∧ r.count = 0 ∧ r.members ≠ [] ∧
        ∀ u ∈ r.members, t.issuing u = true ∧ (t.thread? u).map Thread.pc = some r.pc)) ∧
    (∀ n k p, (s.stand n).pockets.get? k = some p → s.pocketDue p = true →
      s.canRelease n p.launch (s.pocketDueAt p) k = true → s.waveGoes p.launch p.members = true →
      ∃ t, exec (.pocketAgeExpiry n k) s = .next t ∧ t = (s.releasePocket n k).refill n ∧
        ∃ w ∈ (t.stand n).waveQ, w.launch = p.launch ∧ w.wg = p.wg ∧ w.pc = p.pc ∧ w.members = p.members) ∧
    (∀ n e k q w, s.nextWave n = some w → s.waveEngine n w = some e → k < 32 → s.slot? e k = none →
      ((s.lrec w.launch).tile = true →
        q < 4 ∧ (s.slots.filter fun key x => key / 32 == e && x.quarter == some q) = []) →
      ∃ t x, exec (.waveQueueStart n e k q) s = .next t ∧
        t = (s.startWave n e k (if (s.lrec w.launch).tile then some q else none) w).refill n ∧
        t.slot? e k = some x ∧ x.launch = w.launch ∧ x.wg = w.wg ∧ x.consts = (s.lrec w.launch).consts ∧
        x.genCode = (s.lrec w.launch).gregs ∧ x.tiles = (s.lrec w.launch).acc ∧ x.m = [] ∧ x.acc = []) ∧
    (∀ k g n l, s.launch? k = some l → State.placing l = true → s.nextFor k l n = some g → s.contended k l n = false →
      (l.cruise.isSome = true → s.standIdle n = true) →
      (l.cruise.isNone && (s.standLaunches n).any (fun e => e.2.cruise.isSome)) = false → s.fits k l n = true →
      ∃ t m, exec (.workgroupPlacement k g n) s = .next t ∧ t = s.placeWg k l g n ∧ t.launch? k = some m ∧
        m.wgs.get? g = some { placed := true, stand := n }) ∧
    (∀ k g n l, s.launch? k = some l → State.placing l = true → s.nextFor k l n = some g → s.contended k l n = false →
      l.cruise = none → ((s.standLaunches n).any fun e => e.2.cruise.isSome) = true →
      ∃ t, exec (.workgroupPlacement k g n) s = .next t ∧ t = s.displaceCruise n ∧
        { t with cruises := s.cruises } = s) ∧
    (∀ k g l b, s.launch? k = some l → (l.wgs.getD g {}).watch = some b → b + l.r.watchdog * 1000 ≤ s.gtc →
      l.phase = .running → s.wgWaiting k g = true → s.wgParked k g = false → s.relocks = false →
      let x := s.modWg k g fun y => { y with watch := none, paused := none }
      ∃ t, exec (.workgroupWatchdogExpiry k g) s = .next t ∧
        t = x.fatalLaunch k { cause := 0x0C, wg := g, stand := (x.wg k g).stand } ∧
        (l.cruise = none → l.fatal = none → ∃ m f, t.launch? k = some m ∧ m.phase = .dying ∧ m.fatal = some f ∧
          f.cause = 0x0C ∧ f.wg = g)) ∧
    (∀ k g l, s.launch? k = some l → (l.wgs.getD g {}).placed = true → (l.wgs.getD g {}).retired = false →
      l.phase = .running → s.wgBusy k g = false →
      let old : Workgroup := l.wgs.getD g {}
      let x := s.modLaunch k fun y => { y with wgs := y.wgs.put g { old with retired := true }, retired := y.retired + 1 }
      (l.retired + 1 < l.grid → exec (.workgroupRetire k g) s = .next x ∧ ∃ m, x.launch? k = some m ∧ m.phase = .running ∧
        m.retired = l.retired + 1 ∧ m.wgs.get? g = some { old with retired := true }) ∧
      (l.grid ≤ l.retired + 1 → s.cmdsOpen k = false → s.tilesOpen k l.r = false →
        l.cruise.isSome = true ∨ (s.signalStuck l = none ∧ s.blocksStuck k (s.openBlocks k) = none) →
        let z := if l.cruise.isSome then s else s.writeBlocks k (s.openBlocks k)
        let y := z.modLaunch k fun y => { y with wgs := y.wgs.put g { old with retired := true }, retired := y.retired + 1 }
        ∃ t m, exec (.workgroupRetire k g) s = .next t ∧ t = y.finishLaunch k l ∧ t.launch? k = some m ∧
          m.phase = .ended ∧ m.wgs.get? g = some { old with retired := true }))) ∧
  (∀ (s : State),
    (∀ k l f, s.launch? k = some l → l.fatal = some f → l.phase = .dying → s.launchStopped k = true →
      (l.dumped = false → s.dumpFree k l f = true → s.dumpedLater k f = false → s.logRoom = true →
        s.eventRoom (standDie f.stand) = true →
        ∃ t m, exec (.launchFatalEnd k) s = .next t ∧
          t = ((s.writeDump k l f).dumpRecords l f).modLaunch k (fun x => { x with dumped := true }) ∧
          t.launch? k = some m ∧ m.dumped = true ∧ m.phase = .dying ∧ m.fatal = some f) ∧
      (l.dumped = true → s.signalStuck l = none → s.blocksStuck k (s.endBlocks k) = none →
        ∃ t m, exec (.launchFatalEnd k) s = .next t ∧
          t = (((s.writeBlocks k (s.endBlocks k)).clearLaunch k).endLaunch k l (0x80 + f.cause)).settlePreempt l.queue ∧
          t.launch? k = some m ∧ m.phase = .ended ∧ ∀ u th, t.thread? u = some th → th.launch ≠ k)) ∧
    (∀ k l, s.launch? k = some l → l.phase = .preempting → s.savable k = true →
      (s.saveArea l.queue (s.saveBytes k l) = none → 
        ∃ t m, exec (.preemptionComplete k) s = .next t ∧ t = s.keepRunning k l ∧ t.launch? k = some m ∧
          (m.phase = .running ∨ m.phase = .pending)) ∧
      (∀ a, s.saveArea l.queue (s.saveBytes k l) = some a → s.blocksStuck k (s.headBlocks k) = none →
        s.unitFree a 512 = true →
        ∃ t m v, exec (.preemptionComplete k) s = .next t ∧ t = s.saveLaunch k a (s.saveBytes k l) ∧
          t.launch? k = some m ∧ m.phase = .saved ∧ t.saved.get? a = some v ∧ v.launch = k ∧
          ∀ u th, t.thread? u = some th → th.launch ≠ k)) ∧
    (∀ q fs r, (s.queue q).predicted = some fs → (s.queue q).confidence = 3 → bit (s.qctl q) 1 = true →
      s.queueCruise q = none → s.idleStand (State.queuePart q) = true →
      (s.cruises.filter fun _ c => c.finished.isNone).length < 8 →
      let c : State.Cmd := ((s.queue q).read, s.gtc, State.recordBytes fs)
      State.Cmd.op c = 1 → State.headerOk c = true → s.accept (State.queuePart q) (State.recordBytes fs) = .ok r →
      r.cruise = true →
      let x := { s with nextId := s.nextId + 2 }
      ∃ t m y, exec (.cruiseStart q) s = .next t ∧
        t = ({ x with
          launches := x.launches.put s.nextId { x.newLaunch q c r with cruise := some (s.nextId + 1) }
          cruises := x.cruises.put (s.nextId + 1) { queue := q, launch := s.nextId } }.noteAcceptance (State.queuePart q)
            s.nextId (State.recordBytes fs)).bumpReg (queueReg q 0x44) 1 ∧
        t.launch? s.nextId = some m ∧ m.cruise = some (s.nextId + 1) ∧ m.queue = q ∧ m.phase = .pending ∧
        t.cruises.get? (s.nextId + 1) = some y ∧ y.queue = q ∧ y.launch = s.nextId ∧ y.finished = none) ∧
    (∀ q j x c l, s.queueCruise q = some (j, x) → s.claimant x = some c → s.launch? x.launch = some l → x.causes = 0 →
      s.shadowReady x = true → x.finished = none →
      let y := (s.commitShadow x).dropKept q c
      ∃ t m, exec (.cruiseClaim q) s = .next t ∧
        t = ((({ y with cruises := y.cruises.del j }.becomeReal q x.launch c).unitDrop (State.claimAgent x)
          (y.claimLost x)).noteKernel l.part l.r.desc).bumpReg (queueReg q 0x48) 1 ∧
        t.cruises.get? j = none ∧ t.launch? x.launch = some m ∧ m.cruise = none ∧ m.id = State.launchIdOf q c.1 ∧ m.index = c.1) ∧
    (∀ j x, s.cruises.get? j = some x → x.causes ≠ 0 → ∃ t, exec (.cruiseDiscard j) s = .next t ∧
      t = ((s.dropCruise j x).bumpReg (queueReg x.queue 0x4C) 1).orReg (queueReg x.queue 0x50) x.causes ∧
      t.cruises.get? j = none ∧ ∀ u th, t.thread? u = some th → th.launch ≠ x.launch) ∧
    (∀ j x g, s.cruises.get? j = some x → x.finished = some g → g + 10000000 ≤ s.gtc → (s.queue x.queue).lastRead ≤ g →
      x.causes = 0 → ∃ t, exec (.cruiseIdleTimeout j) s = .next t ∧ { t with cruises := s.cruises } = s ∧
      t.cruises = s.cruises.put j { x with causes := 0x80 }))

/-- R253, R254, R261, R262, R403: the Drive's steps: a boom is chosen for an idle stand, its reach is loaded and its rays sent, a batch
ends when every ray has, its limit ends the launch, and an access that the Drive cannot make is recorded.
R267, R271, R276, R277: a stand's next task starts in an open context of its cluster; every 256 swarm cycles a launch approves what has
finished below its lowest task; its lowest approved task begins to commit, and a task whose lines have come commits its
bytes and its messages and is gone. -/
def Obligations.DriveAndTaskSteps : Prop :=
  (∀ (s : State),
    (∀ d l r n, standDie n = d → s.sceneOf n = some l → s.batches.get? n = none → s.driveHeld d l = false →
      s.standShut n = false → s.selectBoom d l = some r → s.driveStuck l n (s.selectionNeeds d l r n) = none →
      exec (.boomSelection d l r n) s = .next (s.select d l r n)) ∧
    (∀ n b, s.batches.get? n = some b →
      (b.loaded = true → s.driveHeld (standDie n) b.launch = false → s.rayRoom n = true → exec (.reachLoadComplete n) s = .next (s.sendRays n 1024)) ∧
      (b.loaded = false → s.driveHeld (standDie n) b.launch = false → s.driveStuck b.launch n (State.loadNeeds b) = none →
        let x := (s.loadReach b.launch n b.base (b.len / 64) 0).modStand n fun y =>
          { y with reach := some (b.launch, b.reach, b.root, b.len) }
        exec (.reachLoadComplete n) s = .next ((x.modBatch n fun y => { y with loaded := true }).sendRays n 1024)) ∧
      (b.loaded = true → b.gone = b.count → b.sent = b.count → s.driveHeld (standDie n) b.launch = false →
        s.driveStuck b.launch n (s.endNeeds b) = none →
        exec (.batchEnd n) s = .next { s.driveAdd b.launch n 0x38 b.fins with batches := s.batches.del n }) ∧
      (∀ g, b.startAt = some g → (s.lrec b.launch).limit * 1000 ≤ s.gtc - g - b.paused → b.gone < b.count →
        ((s.launch? b.launch).any fun l => l.phase == .running || l.phase == .preempting) = true →
        exec (.batchLimitExpiry n) s = .next (s.fatalLaunch b.launch
          { cause := 0x0C, wg := (b.owner.head?.elim 0 (·.2)), stand := n }))) ∧
    (∀ d n l needs k p a pasid need, s.driveNext d n = some (l, needs) →
      s.driveStuck l n needs = some (.park k p a pasid, need) → standDie n = d → s.driveHeld d l = false →
      s.faultRoom d = true → exec (.driveAccessFault d n) s = .next (s.driveFault l d n (.park k p a pasid, need)))) ∧
  (∀ (s : State),
    (∀ n j x c k, s.tasks.get? j = some x → s.nextTask n = some j → s.clusterFor x = some (coreCluster c) → k < 4 →
      c < coreCount → s.ctxOpen c k = true → exec (.taskDispatch n j c k) s = .next (s.startTask j c k)) ∧
    (∀ l x, s.launch? l = some x → x.reducedAt + 256 ≤ s.clock.swarm → x.phase = .running ∨ x.phase = .preempting →
      exec (.commitReduction l) s = .next (s.modLaunch l fun y =>
        { y with reducedAt := s.clock.swarm, approved := s.finishedBelow l (s.lowestKey l)
                 queuedAt := (s.launchStands l).map fun n => (n, s.queuedTasks n) })) ∧
    (∀ l k x, ((s.committing l).find? fun e => s.commitDue e.2 && !s.sharesEarlier l e.2) = some (k, x) →
      exec (.taskCommit l) s = .next (((s.commitBytes k x).sendDeferred k 8).endCommit k)) ∧
    (∀ l k x, ((s.committing l).find? fun e => s.commitDue e.2 && !s.sharesEarlier l e.2) = none →
      s.nextCommit l = some (k, x) →
      let y := s.modLaunch l fun z => { z with begun := some (x.key.stamp, x.key.time) }
      exec (.taskCommit l) s = .next { y with tasks := y.tasks.put k { x with phase := .committing } }))

/-- R287-R290, R292, R293, R405: a bin's next entry is rasterised into its tile; a tile whose die has closed and whose bin is empty becomes final and
its rows are filed; a die that still misses closes when the launch has come to rest is closed by force, with a record; a
tile that is shaded is written back; a texture request goes its next step. -/
def Obligations.RenderSteps : Prop :=
  ∀ (s : State),
    (∀ l d n e rest, s.bin d l n = e :: rest → s.passRuns l = true → e.spill = none ∨ s.driveHeld d l = false →
      let p : PassTile := s.tiles.getD (tileKey l n) {}
      let q := { p with vis := rasterise (s.lrec l) n e.bytes p.vis }
      let x := { s with tiles := s.tiles.put (tileKey l n) q }.setBin d l n rest
      let ws := (e.spill.map fun k => x.binHeaders d l (k / 63)).getD []
      s.driveStuck l (512 * d) (State.writeNeeds ws) = none →
      exec (.binEntryRasterize l d n) s = .next (x.driveWrite l (512 * d) ws)) ∧
    (∀ l n, let r := s.lrec l
      let p : PassTile := s.tiles.getD (tileKey l n) {}
      s.passRuns l = true → n < r.tilesX * r.tilesY →
      (p.final = false → s.closed (r.tileDie n) l = true → s.bin (r.tileDie n) l n = [] → s.tileAwaits l n = false →
        s.launchRuns l = true → s.eventRoom (r.tileDie n) = true →
        exec (.tileVisibilityFinal l n) s = .next ((s.finalise l n p).fileRows l n 32)) ∧
      (p.final = true → p.toFile ≠ [] → (s.shadeStand l n).any (fun m => s.canRelease m.1 l s.clock.arith) = true →
        exec (.tileVisibilityFinal l n) s = .next (s.fileRows l n 32))) ∧
    (∀ l d x, s.launch? l = some x → (x.wgs.filter fun _ w => w.placed).length = x.grid → s.passRuns l = true → d < 4 →
      (s.lrec l).diePasses d = true → s.closed d l = false → s.launchBusy l = false → s.eventRoom d = true →
      let r := s.lrec l
      let n := (s.die d).closes.getD l 0
      let y := (s.modDie d fun z => { z with closes := z.closes.put l r.passCloses }).modLaunch l fun z =>
        { z with short := true }
      exec (.emissionForcedClose l d) s = .next (y.eventRecord (((y.launch? l).map (·.part)).getD 0) d 7 n
        (r.passCloses - n) y.pkgId (y.launchId l))) ∧
    (∀ l n p, s.tiles.get? (tileKey l n) = some p → s.passRuns l = true → p.final = true → p.toFile = [] → p.shading = 0 →
      p.done = false → s.driveHeld ((s.lrec l).tileDie n) l = false →
      let m := ((s.shadeStand l n).map (·.1)).getD (512 * (s.lrec l).tileDie n)
      s.driveStuck l m (s.backNeeds l n p) = none →
      exec (.tileWriteBack l n) s = .next (s.writeBack l n m p)) ∧
    (∀ k q d, s.texReqs.get? k = some q → q.desc = some d → s.texWaits k q = false →
      (s.texBlock q = none → exec (.textureReply k) s = .next (s.texSample k q)) ∧
      (∀ part va, s.texBlock q = some (.miss part va) → exec (.textureReply k) s = .next
        (s.askUnit (.texture k) (State.texStand q) part (s.transAddr q.part va).2 va { r := true } q.pc)) ∧
      (∀ kind page addr pasid, s.texBlock q = some (.park kind page addr pasid) →
        s.faultRoom (standDie (State.texStand q)) = true →
        exec (.textureReply k) s = .next (s.texFault k q kind page addr pasid)))

/-- R283, R370, R372, R377: a held change of a stand's owner takes effect when the stand has drained; the balancer begins
and finishes the move of a boundary stand; a key command completes.
R365, R373, R375, R376, R378, R379: the boot goes its next step or fails; a link goes down or up, or counts a replay; a CXL port
fails, and what is behind it is lost, as is what waits for a package too long; a collective engine reads its descriptor and
signals its end; the security requests are answered in their order, and with an error before it.
The model's choices: the order of the boot's steps and the work it does besides (log 75), what other packages contribute to a
collective and how their disagreement reaches it (log 45), and the order of the security requests, the error before it and the
codes of the replies, which R379 leaves to SPDM 1.2 (log 15, PRESUMED). -/
def Obligations.PartitionAndModuleSteps : Prop :=
  (∀ (s : State),
    (∀ n v o, (s.stand n).pendingOwn = some (v, o) → s.drained n = true →
      ((s.die (standDie n)).move.any fun m => m.1 == n && decide (m.2.2 < o)) = false →
      exec (.standownTakeEffect n) s = .next (s.takeOwner n v)) ∧
    (∀ n toG, n < 2048 → (s.die (standDie n)).move = none → s.manualWant (standDie n) = some toG →
      s.canMove (standDie n) toG = true → s.boundaryStand (standDie n) toG = n →
      exec (.balancerStandMove n) s = .next (s.beginMove (standDie n) toG)) ∧
    (∀ n toG o, n < 2048 → (s.die (standDie n)).move = some (n, toG, o) →
      (s.standHolds n fun k => (s.launch? k).any fun l => State.rendering l != toG) = false →
      ((s.stand n).pendingOwn.any fun p => decide (p.2 < o)) = false → s.canMove (standDie n) toG = true →
      exec (.balancerStandMove n) s = .next (s.finishMove (standDie n) n toG)) ∧
    (∀ d, d < 4 → bit (s.regN (balReg d 4)) 30 = true → (s.die d).tick + 100000 ≤ s.gtc →
      let x := s.modDie d fun z => { z with tick := s.gtc }
      exec (.balancerAutoTick d) s = .next (match x.autoWant d with
        | some toG => if (x.die d).move.isNone && x.canMove d toG then x.beginMove d toG else x
        | none => x)) ∧
    (∀ p, p < 64 → bit (s.regN (partReg p 0x50)) 31 = true →
      let key := bits (s.regN (partReg p 0x50)) 11 0
      let op := bits (s.regN (partReg p 0x50)) 13 12
      let done (x : State) := x.setReg (partReg p 0x50) (x.reg (partReg p 0x50) &&& 0x3FFF)
      (s.keyAllotted p key = false →
        (op = 0 → exec (.keyGenerate p) s = .next (done s)) ∧ (op = 1 → exec (.keyInstall p) s = .next (done s)) ∧
        (op = 2 ∨ op = 3 → exec (.keyErase p) s = .next (done s))) ∧
      (s.keyAllotted p key = true →
        (op = 0 → exec (.keyGenerate p) s = .next (done (s.newKey key))) ∧
        (op = 1 → exec (.keyInstall p) s = .next (done (if (s.partition p).delivered.isSome then
          (s.newKey key).modPart p fun x => { x with delivered := none } else s))) ∧
        (op = 2 → exec (.keyErase p) s = .next (done (s.newKey key))) ∧ (op = 3 → exec (.keyErase p) s = .next (done s))))) ∧
  (∀ (s : State),
    (∀ a b id, s.bootState < 4 → a ≤ 2048 → b ≤ 2048 → exec (.powerOnBoot 0 a b id) s = .next (s.bootStep a b id)) ∧
    (∀ f a b id, s.bootState < 4 → 0 < f → f < 256 → a ≤ 2048 → b ≤ 2048 →
      exec (.powerOnBoot f a b id) s = .next (s.setRegN State.bootReg (8 + f * 256))) ∧
    (∀ l, s.pkg.links.has l = true →
      exec (.eloaLinkDown l) s = .next (({ s with pkg := { s.pkg with links := s.pkg.links.remove l } } : State).setReg
        (linkReg l 0) (s.reg (linkReg l 0) &&& 0xFFFFFFFE)).beginWaits ∧
      exec (.flitCrcReplay l) s = .next (s.bumpReg (linkReg l 4) 1)) ∧
    (∀ l m, l < 18 → m < 1024 → s.pkg.links.has l = false → s.pkg.fences.has (State.unitNo 0xD l) = false →
      exec (.eloaLinkUp l m) s = .next (({ s with
        pkg := { s.pkg with links := s.pkg.links.add l }, routeWait := [] } : State).setRegN
        (linkReg l 0) (3 + m * 1024))) ∧
    (∀ p late, p < 2 → exec (.cxlPortFailure p late) s = .next
      ((s.orReg (cxlReg p 4) (if late then 5 else 3)).loseParts fun _ o x =>
        (s.orReg (cxlReg p 4) (if late then 5 else 3)).behindPort p o x)) ∧
    (∀ p m, (s.ops.any fun e => e.2.parts.any (s.waitedOut p m e.2)) = true ∨
        (s.clusters.any fun c => c.2.rings.any fun r => r.2.any (s.cmdWaitedOut p m c.1)) = true →
      let clusters := s.clusters.map fun (c : Nat × Cluster) => (c.1, { c.2 with rings := c.2.rings.map fun r =>
        (r.1, r.2.map fun x => if s.cmdWaitedOut p m c.1 x then { x with giveUp := true } else x) })
      exec (.packageUnreachableTimeout p m) s = .next
        (({ s with clusters := clusters } : State).loseParts fun _ o x => s.waitedOut p m o x)) ∧
    (∀ p e (a : W64) (gather : Bool) c, s.collectives.get? (State.collKey p e) = some [a] → a.toNat % 64 = 0 →
      regionOf a.toNat = .translated → s.collRead p a.toNat = (c, none) → (c.op == 2) = gather →
      let x := ({ s with nextId := s.nextId + 1 } : State).unitReads p ((a.toNat, 64) :: if c.headOk then [(c.members, 128)] else [])
      exec (if gather then .collectiveAllGather p e else .collectiveAllReduce p e) s = .next
        { x with collectives := x.collectives.put (State.collKey p e) (c.words a) }) ∧
    (∀ p e ws c, s.collectives.get? (State.collKey p (e % 16)) = some ws → State.collOf ws = some c →
      let others := c.indices.filter fun m => m != s.pkgId % 1024
      let keys := others.map (State.collWait p (e % 16))
      let away := s.pkg.links.isEmpty && !others.isEmpty
      let status := if c.status = 3 then 3
        else if (away && keys.any s.routeOver) = true ∨ others.any (s.partition p).lost.has = true then 2
        else if 16 ≤ e ∧ others ≠ [] then 1 else 0
      (2 ≤ status ∨ away = false → s.unitStuck p (State.collNeeds c status) = none →
        let x := s.collEnd p (e % 16) c status
        exec (.collectiveSignal p e) s = .next { x with routeWait := x.routeWait.filter fun k _ => !keys.contains k }) ∧
      (status < 2 → away = true → (keys.any fun k => !s.routeBegun k) = true →
        exec (.collectiveSignal p e) s = .next { s with routeWait := keys.foldl (fun (t : Table (Nat × Bool)) k =>
          if s.routeBegun k then t else t.put k (s.gtc, false)) s.routeWait })) ∧
    (∀ p, p < 64 →
      let answer (code n next : Nat) := (s.spdmReply code p n).modPart p fun x => { x with spdm := if next = 0 then x.spdm else next }
      let st := (s.partition p).spdm
      exec (.getVersion p) s = .next (answer 0x04 1 1) ∧
      exec (.getCapabilities p) s = .next (if st < 1 then s.spdmReply 0x7F p 1 else answer 0x61 1 2) ∧
      exec (.negotiateAlgorithms p) s = .next (if st < 2 then s.spdmReply 0x7F p 1 else answer 0x63 1 3) ∧
      exec (.getDigests p) s = .next (if st < 3 then s.spdmReply 0x7F p 1 else answer 0x01 8 0) ∧
      exec (.getCertificate p) s = .next (if st < 3 then s.spdmReply 0x7F p 1 else answer 0x02 1 0) ∧
      exec (.challenge p) s = .next (if st < 3 then s.spdmReply 0x7F p 1 else answer 0x03 1 0) ∧
      exec (.getMeasurements p) s = .next (if st < 3 then s.spdmReply 0x7F p 1
        else { s with spdmOut := s.spdmOut ++ [(0x60, p, s.measurements p)] }) ∧
      exec (.keyExchange p) s = .next (if st < 3 then s.spdmReply 0x7F p 1 else answer 0x64 1 4) ∧
      exec (.finish p) s = .next (if st < 4 then s.spdmReply 0x7F p 1 else answer 0x65 1 5) ∧
      (st = 5 → exec (.wrappedKeyDelivery p) s = .next
        (if (s.partition p).delivered.isSome then s.spdmReply 0x7F p 1
        else (s.spdmReply 0x7E p 1).modPart p fun x => { x with delivered := some s.nextId }))))

/-- R381, R383, R385, R399: the clocks relock, and the mode is in force once no engine is inside a run begun before its write; the
governor samples and steps; at 110 °C the clocks stop, with records, and below 95 °C they resume; a unit is fenced for 256
corrected errors of an SRAM structure or two misdirected accesses within 24 h; a scrub finds what a line holds, and a corrected
line is rewritten; a parity error is retried, counted the first three times, and at the fourth is performed with poisoned
results, or where no run is in progress fences the unit. -/
def Obligations.PowerAndFailureSteps : Prop :=
  ∀ (s : State),
    (s.relocks = true →
      let inside := s.pkg.oldMode.filter fun e => (s.engine e).run.isSome
      let x := { s with pkg := { s.pkg with relocking := false, oldMode := inside } }
      exec .clockRelockComplete s = .next (if inside = [] then
        x.setRegN (powerReg 4) (s.regN (powerReg 4) / 8 * 8 + s.regN (powerReg 0) % 4) else x)) ∧
    (∀ w, s.pkg.govTick + 1000000 ≤ s.gtc →
      let x := ({ s with pkg := { s.pkg with govTick := s.gtc } } : State).sample w
      exec (.governorTick w) s = .next (if 3200 < x.regN (powerReg 8) ∨ 800 ≤ x.hottest then x.stepUp
        else if x.regN (powerReg 8) < 3100 ∧ x.hottest < 760 then x.stepDown else x)) ∧
    (∀ w, 880 ≤ bits w 15 0 → s.pkg.clocksStopped = false → s.logRoom = true →
      s.eventRoom (bits w 17 16) ((List.range 64).filter s.partEnabled).length = true →
      let d := bits w 17 16
      let u := 0xE * 2 ^ 24 + d
      let x := s.setRegN (powerReg (0x10 + 4 * d)) (bits w 15 0)
      let y := (({ x with pkg := { x.pkg with clocksStopped := true } } : State).orReg (powerReg 4) 16).unitLog u 6
      exec (.thermalLimit w) s = .next ((List.range 64).foldl (fun (z : State) k =>
        if s.partEnabled k then z.unitEvent k d u 6 else z) y)) ∧
    (∀ w, w < 760 → s.pkg.clocksStopped = true →
      let x := (List.range 4).foldl (fun (z : State) d =>
        z.setRegN (powerReg (0x10 + 4 * d)) (min (z.regN (powerReg (0x10 + 4 * d))) w)) s
      exec (.clocksResumeBelow95c w) s = .next
        (({ x with pkg := { x.pkg with clocksStopped := false } } : State).setReg (powerReg 4)
          (x.reg (powerReg 4) &&& 0xFFFFFFEF))) ∧
    (∀ u cause, State.unitOk (u / 2 ^ 24) (u % 2 ^ 24) = true → s.pkg.fences.has u = false →
      s.fenceRoom (u / 2 ^ 24) (u % 2 ^ 24) = true →
      (cause = 3 ∧ ∃ e ∈ s.pkg.corrected, e.2.1 = u ∧ e.2.2.length = 256 ∧ ∀ g ∈ e.2.2, s.gtc < g + 86400000000000) ∨
        (cause = 4 ∧ ∃ ts, s.pkg.misdirected.get? u = some ts ∧ ts.length = 2 ∧ ∀ g ∈ ts, s.gtc < g + 86400000000000) →
      exec (.unitFence u cause) s = .next (s.fence (u / 2 ^ 24) (u % 2 ^ 24) cause)) ∧
    (∀ line cls, cls ≤ 3 → s.populated (64 * line) = true → 64 * line < 0x20000000000 →
      let x := if cls = 0 then s else { s with mem := { s.mem with faulty := s.mem.faulty.put line cls } }
      let found := x.mem.faulty.getD line 0
      x.pageAgain (64 * line) = false ∨ x.logRoom = true →
      exec (.dramScrub line cls) s = .next
        (if 2 ≤ found then x.noteBadLine (64 * line) none none else if found = 1 then x.noteCorrected line else x)) ∧
    (∀ line, s.pkg.rewrite.has line = true → s.lineQueue line = [] → (s.home line).owner = none →
      exec (.correctedLineRewrite line) s = .next { s with
        mem := { s.mem with faulty := if s.mem.faulty.getD line 0 = 1 then s.mem.faulty.del line else s.mem.faulty }
        pkg := { s.pkg with rewrite := s.pkg.rewrite.remove line } }) ∧
    (∀ u, u < coreCount + 4096 → s.pkg.retry.getD u 0 < 4 → s.pkg.retry.getD u 0 < 3 ∨ s.parityRoom u = true →
      let n := s.pkg.retry.getD u 0
      let x := { s with pkg := { s.pkg with retry := s.pkg.retry.put u (n + 1) } }
      let y := { s with pkg := { s.pkg with retry := s.pkg.retry.del u } }
      exec (.parityRetry u) s = .next (if n < 3 then (x.bumpReg 0x6100010 1).countEvent u 0x1A 1
        else if (s.engine u).run.isSome then x else y.parityFence u))

/-- R132: BRA, BRX, JMP, CALL, RET, LOOP, SYNCW, REFORM, REFORM.S, YIELD, HALT, HALT.R, WAIT, TRAP, ERET, BAR.WAIT, BAR.SYNC,
CVWAIT and FLUME.WAIT with E = 0 raise trap 0x01 in every thread of their active set, and nothing else happens in their
slot. Of an access slice the trap stops the skidder of all its lanes (the model's reading, log 50). -/
def Obligations.EndBitRequired : Prop :=
  ∀ (i : Instr) (k : Ins) (s : State) (r : Run),
    i.ins = some k →
    k.op ∈ [Op.bra, .brx, .jmp, .call, .ret, .loop, .syncw, .reform, .reformS, .yield, .halt, .haltR, .wait, .trap, .eret,
      .barWait, .barSync, .cvwait, .flumeWait] →
    k.w.e = false → s.run? = some r →
    (∀ t ∈ r.members, ((s.thread? t).all fun th => th.status != .ready || (State.guardPoison th k).isNone) = true) →
    (s.activeSet r k = [] → exec i s = .next (s.skip k)) ∧
    (s.activeSet r k ≠ [] →
      let x := ((s.activeSet r k).foldl (fun x t => x.trap t 1 k.word0) s).passBy k
      exec i s = .next (s.stopTorn x) ∧ (isSkidKey s.focus = false → exec i s = .next x))

/-- R46, R48, R121, R125, R138, R140, R164: what an issue does that does not run to its effect. With an empty active set the
program counters and the run move on and nothing else changes; with a source or destination that must wait the state stays
as it is, but that a sliced kernel's thread which waits for an entry of an operand queue is noted as waiting (R311); an
ill-formed word traps. A trap delivered to a thread saves its PC, cause and information, sets $tstate[0] and takes it to the
handler, every register intact; a message that waits for its place is withdrawn. A trap of one lane's access slice stops the
skidder of all its lanes (the model's reading, log 50). -/
def Obligations.IssueOutcomes : Prop :=
  (∀ (i : Instr) (k : Ins) (s : State) (r : Run) (go : List Nat), i.ins = some k → s.run? = some r →
    (∀ t ∈ r.members, ((s.thread? t).all fun th => th.status != .ready || (State.guardPoison th k).isNone) = true) →
    s.activeSet r k = go →
    (go = [] → exec i s = .next (s.skip k)) ∧
    (go ≠ [] → k.wellFormed = false →
      let x := (go.foldl (fun x t => x.trap t 1 k.word0) s).passBy k
      exec i s = .next (s.stopTorn x) ∧ (isSkidKey s.focus = false → exec i s = .next x)) ∧
    (∀ lead, go.head? = some lead → (∀ t ∈ go, (State.precheck (semOf k.op) r k s t).2 = true) →
      (s.heldLead.all fun l => l == lead) = true → (∃ t ∈ go, s.mustWait t k (t == lead) = true) →
      exec i s = .next (s.notePops k go) ∧
      ((∀ t ∈ go, (s.thread? t).all (fun th => !th.sliced) = true) → exec i s = .next s))) ∧
  (∀ (s : State) (u cause : Nat) (info : W32) (th : Thread), s.thread? u = some th → (∀ m, th.home ≠ .skidder m) →
    s.unclaimed th.launch = false → th.taskOf = none → th.inTrap = false → cause < 0x0A → (s.lrec th.launch).trap ≠ 0 →
    ∃ th', (s.trap u cause info).thread? u = some th' ∧ th'.epc = th.pc ∧ th'.ecause = BitVec.ofNat 32 cause ∧
      th'.einfo = info ∧ th'.inTrap = true ∧ th'.pc = BitVec.ofNat 64 (s.lrec th.launch).trap ∧
      { th' with epc := th.epc, ecause := th.ecause, einfo := th.einfo, inTrap := th.inTrap, pc := th.pc
                 lastPage := th.lastPage, held := th.held, awaited := th.awaited, lost := th.lost, ray := th.ray } = th ∧
      (∀ v, v ≠ u → (s.trap u cause info).thread? v = s.thread? v) ∧
      (s.trap u cause info).outbound.get? u = none ∧
      (∀ v, v ≠ u → (s.trap u cause info).outbound.get? v = s.outbound.get? v) ∧
      (s.outbound.get? u = none → (s.trap u cause info).texReqs = s.texReqs) ∧
      { s.trap u cause info with
        threads := s.threads, engines := s.engines, outbound := s.outbound, texReqs := s.texReqs } = s)

/-- R116-R119, R135: words written out from the tables of the spec decode to what they stand for: ADD g1, g2, g3; HALT; a BRA
under p1 with B 0x10; TZERO m1; a MOV to g1 with a literal; and a byte is no instruction. -/
def Obligations.DecodeWords : Prop :=
  decodeTableWord 32 (3 * 2 ^ 26 + 2 * 2 ^ 20 + 1 * 2 ^ 14 + 0x01 * 2 ^ 3) =
    some (.addB32 { b := 3, a := 2, d := 1, g := 0, e := false, lit := none }) ∧
  decodeTableWord 32 (0x4A * 2 ^ 3 + 4) = some (.haltB32 { b := 0, a := 0, d := 0, g := 0, e := true, lit := none }) ∧
  decodeTableWord 96 (0x41 * 2 ^ 3 + 2 ^ 11 + 4 + 1 + (0x10 * 2 ^ 16) * 2 ^ 32) =
    some (.bra { rsv := 0, kb := false, wu := false, sl := false, em := false, ft := 0, y := false, stall := 0, hint := 0
                 x := 0, c := 0, b := 0x10, a := 0, d := 0, ty := 0, minor := 0, gc := false, g2n := false, g2 := 0
                 g1n := false, g1 := 1, e := true, lit := none }) ∧
  decodeTableWord 96 (0xE3 * 2 ^ 3 + 1 + 1 * 2 ^ 32) =
    some (.tzero { rsv := 0, kb := false, wu := false, sl := false, em := false, ft := 0, y := false, stall := 0, hint := 0
                   x := 0, c := 0, b := 0, a := 0, d := 1, ty := 0, minor := 0, gc := false, g2n := false, g2 := 0
                   g1n := false, g1 := 0, e := false, lit := none }) ∧
  decodeTableWord 96 (0x21 * 2 ^ 3 + 2 + 1 * 2 ^ 14 + 0x12345678 * 2 ^ 32) =
    some (.movB32 { b := 0, a := 0, d := 1, g := 0, e := false, lit := some 0x12345678 }) ∧
  decodeTableWord 8 0 = none

/-- R116-R120, R135, R136: every well-formed instruction word, followed by any bytes, decodes to itself and leaves those bytes: no
bit of an encoding is dropped. -/
def Obligations.DecodeOfEncode : Prop :=
  ∀ (i : Instr) (k : Ins) (rest : List Byte), i.ins = some k → i.wellFormed = true →
    decode (encode i ++ rest) = .ok (i, rest)

/-- R116-R120, R135, R136: what decodes is the encoding of the instruction it decodes to, and the bytes after it: every word has
one meaning. -/
def Obligations.EncodeOfDecode : Prop :=
  ∀ (bs rest : List Byte) (i : Instr), decode bs = .ok (i, rest) → encode i ++ rest = bs

/-- R15, R57, R116, R351: a step at which the unit in focus issues runs the instruction that stands at its run's PC: the words
read through the cached executable page of each decode to it. In a skidder, one that is not of an access slice ends the slice
instead (R308); a parity failure of the engine is settled after it (R383).
The words are those that stand in device memory as the fetch is made: the model holds no instruction cache, and a task's or a
cruise's own stores are not fetched before they are memory's (the model's choice, log 87). -/
def Obligations.StepRunsInstruction : Prop :=
  (∀ (s x : State) (r : Run) (u : Nat) (th : Thread) (bs rest : List Byte) (i : Instr),
    (s.turns = [] ∧ s.pkg.clocksStopped = false ∧ x = s) ∨
      (∃ turn later e, s.turns = turn :: later ∧ turn.act = .issue e ∧ s.pkg.clocksStopped = false ∧
        x = { s.pass turn later with focus := e }) →
    x.run? = some r → r.members.head? = some u → x.thread? u = some th → x.fetch u th.part r.pc = .bytes bs →
    decode bs = .ok (i, rest) →
    (x.sliceBorder i = true → step s = .next x.endSlice) ∧
    (x.sliceBorder i = false → step s = x.issued i (exec i x)) ∧
    (x.sliceBorder i = false → x.pkg.retry.get? x.focus = none → step s = exec i x)) ∧
  (∀ (s : State) (u part n : Nat) (pc : W64) (page : Nat → Trans), bit (s.regN (transReg part 8)) 0 = true → 0 < n →
    (∀ j < n, regionOf (pc.toNat + 4 * j) = .translated ∧ s.cached u part (pc.toNat + 4 * j) = some (page j) ∧
      (page j).host = false ∧ (page j).x = true ∧
      let pa := (page j).frame + (pc.toNat + 4 * j - (page j).base)
      s.lineBad (pa / 64) (page j).key = false ∧ s.mem.dramPoison.has (pa / 4) = false) →
    let bs := (List.range n).flatMap fun j => s.mem.dram.read ((page j).frame + (pc.toNat + 4 * j - (page j).base)) 4
    (wordsOfBytes bs).head?.map wordCount = some n → s.fetch u part pc = .bytes bs)

/-- A step takes the next turn: its time passes, and its event is carried out, unless it needs the clocks and they stand still
(R399); a word of an SRAM found in error, or bytes the host writes into the staging window, take their effect as such (R378,
R382). The turns and the time that passes are the model's way of saying when the part's own steps come (log 1). -/
def Obligations.StepTakesEvent : Prop :=
  ∀ (s : State) (turn : Turn) (later : List Turn), s.turns = turn :: later →
    (∀ i, turn.act = .event i →
      (s.pkg.clocksStopped = false ∨ turn.act.clocked = false → step s = exec i (s.pass turn later)) ∧
      (s.pkg.clocksStopped = true → turn.act.clocked = true → step s = .refused (.notDue "clocks stopped"))) ∧
    (∀ w double, turn.act = .upset w double → step s = .next ((s.pass turn later).upset w double)) ∧
    (∀ off bs, turn.act = .stage off bs → step s = .next ((s.pass turn later).stage off bs)) ∧
    (s.pass turn later).turns = later ∧ (s.pass turn later).gtc = s.gtc + turn.gtc ∧
    ∃ x : State, s.pass turn later = x.flushUnits ∧
      { x with turns := s.turns, clock := s.clock, batches := s.batches, launches := s.launches, slots := s.slots
               nextId := s.nextId } = s

/-- R10, R329, R364, R372, R378, R397: at reset QWAIT is 100, CXLTO 50, BALCTL 0x20000000, PWRMODE and PWRSTAT 3 and every other
register zero; there is no thread, no launch, no access under way and no turn; every memory is in canonical form with nothing
listed. That an unlisted byte reads as zero and that GTC starts at zero is the model's choice (logs 5 and 3); so it is that
CXLSIZE, which R364 gives as enumeration finds it, and the package identifier, which firmware sets, read zero until the boot
sets them (log 7). -/
def Obligations.ResetState : Prop :=
  MemWf State.reset ∧ State.reset.mem = {} ∧
  (∀ q, q < 4096 → State.reset.reg (queueReg q 0x0C) = 0x64) ∧ (∀ p, p < 2 → State.reset.reg (cxlReg p 0) = 0x32) ∧
  (∀ d, d < 4 → State.reset.reg (balReg d 4) = 0x20000000) ∧ State.reset.reg (powerReg 0) = 3 ∧
  State.reset.reg (powerReg 4) = 3 ∧
  (∀ off, (∀ q, q < 4096 → off ≠ queueReg q 0x0C) → (∀ p, p < 2 → off ≠ cxlReg p 0) → (∀ d, d < 4 → off ≠ balReg d 4) →
    off ≠ powerReg 0 → off ≠ powerReg 4 → State.reset.reg off = 0) ∧
  State.reset.threads = [] ∧ State.reset.launches = [] ∧ State.reset.ops = [] ∧ State.reset.turns = [] ∧
  State.reset.gtc = 0

/-- Every step keeps the memories of R57, R70, R356 and R374, device, local, host and remote, in canonical form: rising addresses, no entry that an unlisted address
would read as. The canonical form is the model's own, so that equal memories are equal data, and that an unlisted byte reads as
zero is its choice (log 5). -/
def Obligations.StepKeepsMemory : Prop :=
  ∀ (s t : State), MemWf s → step s = .next t → MemWf t

/-- R46-R49: no step ends in a fault of the model: every trap and every translation fault is a next state. -/
def Obligations.StepNeverFaults : Prop := ∀ (s : State), NoFault s
end

