-- ==== Sys2Proof/Laws/Table.lean ====
section
/-!
SUPPORT. What the plain-data containers answer: reading a table after writing it, the canonical form every table and
memory operation keeps, and reading memory after writing it.
-/

namespace Sys2Proof.Machine

namespace Table
variable {α : Type}

/-! ### Reading after writing -/

@[simp] theorem get?_nil (n : Nat) : get? ([] : Table α) n = none := rfl

@[simp] theorem get?_put (t : Table α) (n m : Nat) (v : α) : (t.put n v).get? m = if m = n then some v else t.get? m := by
  induction t with
  | nil => simp [put, get?, eq_comm]
  | cons a t ih =>
    obtain ⟨k, w⟩ := a
    simp only [put]
    split
    · subst_vars; simp only [get?]; split <;> simp_all [eq_comm]
    · split
      · simp only [get?]; split <;> simp_all [eq_comm]
      · simp only [get?, ih]; split <;> simp_all

@[simp] theorem get?_del (t : Table α) (n m : Nat) : (t.del n).get? m = if m = n then none else t.get? m := by
  induction t with
  | nil => simp [del]
  | cons a t ih =>
    obtain ⟨k, w⟩ := a
    simp only [del]
    split
    · rw [ih]; simp only [get?]; split <;> simp_all [eq_comm]
    · simp only [get?, ih]; split <;> simp_all

theorem get?_mod (t : Table α) (n m : Nat) (f : α → α) :
    (t.mod n f).get? m = if m = n then (t.get? m).map f else t.get? m := by
  unfold mod
  split
  · rename_i v h; rw [get?_put]; split <;> simp_all
  · rename_i h; split <;> simp_all

@[simp] theorem get?_mod_self (t : Table α) (n : Nat) (f : α → α) : (t.mod n f).get? n = (t.get? n).map f := by
  simp [get?_mod]

theorem get?_mod_of_ne (t : Table α) {n m : Nat} (f : α → α) (h : m ≠ n) : (t.mod n f).get? m = t.get? m := by
  simp [get?_mod, h]

theorem getD_def (t : Table α) (n : Nat) (d : α) : t.getD n d = (t.get? n).getD d := rfl

@[simp] theorem getD_nil (n : Nat) (d : α) : getD ([] : Table α) n d = d := rfl

@[simp] theorem getD_setD [DecidableEq α] (t : Table α) (n m : Nat) (d v : α) :
    (t.setD n d v).getD m d = if m = n then v else t.getD m d := by
  unfold setD
  split <;> simp only [getD_def, get?_put, get?_del] <;> split <;> simp_all

/-! ### The rising order -/

/-- A table whose head lies above `n`, or an empty one. -/
def above (n : Nat) : Table α → Prop
  | [] => True
  | (k, _) :: _ => n < k

theorem sorted_cons (a : Nat × α) (t : Table α) : sorted (a :: t) = true ↔ above a.1 t ∧ sorted t = true := by
  cases t with
  | nil => simp [sorted, above]
  | cons b r => obtain ⟨k, w⟩ := b; simp [sorted, above]

theorem above_put {m n : Nat} {v : α} {t : Table α} (h : above m t) (hn : m < n) : above m (t.put n v) := by
  cases t with
  | nil => exact hn
  | cons b r =>
    obtain ⟨k, w⟩ := b
    simp only [put]
    split
    · exact hn
    · split
      · exact hn
      · exact h

@[simp] theorem sorted_put {t : Table α} (n : Nat) (v : α) (h : sorted t = true) : sorted (t.put n v) = true := by
  induction t with
  | nil => rfl
  | cons a t ih =>
    obtain ⟨k, w⟩ := a
    obtain ⟨ha, ht⟩ := (sorted_cons (k, w) t).1 h
    simp only [put]
    split
    · subst_vars; exact (sorted_cons _ t).2 ⟨ha, ht⟩
    · split
      · rename_i hlt; exact (sorted_cons _ _).2 ⟨hlt, h⟩
      · exact (sorted_cons _ _).2 ⟨above_put ha (by omega), ih ht⟩

theorem above_trans {m n : Nat} {t : Table α} (h : m < n) (ht : above n t) : above m t := by
  cases t with
  | nil => trivial
  | cons b r => obtain ⟨k, w⟩ := b; exact Nat.lt_trans h ht

theorem above_filter {m : Nat} (t : Table α) (q : Nat × α → Bool) (hs : sorted t = true) (h : above m t) :
    above m (List.filter q t) := by
  induction t with
  | nil => trivial
  | cons a t ih =>
    obtain ⟨k, w⟩ := a
    obtain ⟨ha, ht⟩ := (sorted_cons (k, w) t).1 hs
    simp only [List.filter_cons]
    split
    · exact h
    · exact ih ht (above_trans h ha)

theorem sorted_filter (t : Table α) (q : Nat × α → Bool) (h : sorted t = true) : sorted (List.filter q t) = true := by
  induction t with
  | nil => rfl
  | cons a t ih =>
    obtain ⟨ha, ht⟩ := (sorted_cons a t).1 h
    simp only [List.filter_cons]
    split
    · exact (sorted_cons _ _).2 ⟨above_filter t q ht ha, ih ht⟩
    · exact ih ht

theorem del_eq_filter (t : Table α) (n : Nat) : t.del n = List.filter (fun e => e.1 != n) t := by
  induction t with
  | nil => rfl
  | cons a t ih => obtain ⟨k, w⟩ := a; by_cases h : k = n <;> simp [del, h, ih]

@[simp] theorem sorted_del (t : Table α) (n : Nat) (h : sorted t = true) : sorted (t.del n) = true := by
  rw [del_eq_filter]; exact sorted_filter t _ h

theorem mem_put {t : Table α} {n : Nat} {v : α} {c : Nat × α} (h : c ∈ t.put n v) : c = (n, v) ∨ c ∈ t := by
  induction t with
  | nil => exact .inl (by simpa [put] using h)
  | cons a t ih =>
    obtain ⟨k, w⟩ := a
    simp only [put] at h
    split at h
    · rcases List.mem_cons.1 h with h | h
      · exact .inl h
      · exact .inr (List.mem_cons_of_mem _ h)
    · split at h
      · rcases List.mem_cons.1 h with h | h
        · exact .inl h
        · exact .inr h
      · rcases List.mem_cons.1 h with h | h
        · exact .inr (by simp [h])
        · rcases ih h with h | h
          · exact .inl h
          · exact .inr (List.mem_cons_of_mem _ h)

end Table

namespace Memory

/-! ### The canonical form -/

theorem wf_nil : wf [] = true := rfl

theorem wf_iff (m : Memory) : m.wf = true ↔ Table.sorted m = true ∧ ∀ c ∈ m, c.2 ≠ blank := by
  simp [wf]

/-- Writing a byte keeps the canonical form. -/
@[simp] theorem wf_writeByte {m : Memory} (a : Nat) (v : Byte) (h : m.wf = true) : (m.writeByte a v).wf = true := by
  rw [wf_iff] at *
  unfold writeByte Table.setD
  split
  · rw [Table.del_eq_filter]
    exact ⟨Table.sorted_filter _ _ h.1, fun c hc => h.2 c (List.mem_filter.1 hc).1⟩
  · rename_i hv
    refine ⟨Table.sorted_put _ _ h.1, fun c hc => ?_⟩
    rcases Table.mem_put hc with rfl | hc
    · exact hv
    · exact h.2 c hc

/-- Writing bytes keeps the canonical form. -/
@[simp] theorem wf_write {m : Memory} (a : Nat) (bs : List Byte) (h : m.wf = true) : (m.write a bs).wf = true := by
  induction bs generalizing m a with
  | nil => exact h
  | cons b r ih => exact ih (a + 1) (wf_writeByte a b h)

/-- Dropping cells keeps the canonical form. -/
theorem wf_filter {m : Memory} (q : Host.Cell → Bool) (h : m.wf = true) : wf (List.filter q m) = true := by
  rw [wf_iff] at *
  exact ⟨Table.sorted_filter _ _ h.1, fun c hc => h.2 c (List.mem_filter.1 hc).1⟩

/-- Forgetting a range keeps the canonical form. -/
@[simp] theorem wf_clear {m : Memory} (lo n : Nat) (h : m.wf = true) : (m.clear lo n).wf = true := wf_filter _ h

/-- Any sequence of byte writes keeps the canonical form. -/
theorem wf_foldl {β : Type} (f : Memory → β → Memory) (hf : ∀ m b, m.wf = true → (f m b).wf = true) (l : List β)
    {m : Memory} (h : m.wf = true) : (l.foldl f m).wf = true := by
  induction l generalizing m with
  | nil => exact h
  | cons b r ih => exact ih (hf m b h)

/-! ### Reading after writing -/

@[simp] theorem readByte_writeByte (m : Memory) (a b : Nat) (v : Byte) :
    (m.writeByte a v).readByte b = if b = a then v else m.readByte b := Table.getD_setD m a b blank v

/-- A write leaves every byte outside it alone. -/
theorem readByte_write_of_notin (m : Memory) (a b : Nat) (bs : List Byte) (h : b < a ∨ a + bs.length ≤ b) :
    (m.write a bs).readByte b = m.readByte b := by
  induction bs generalizing m a with
  | nil => rfl
  | cons v r ih =>
    simp only [List.length_cons] at h
    rw [write, ih (m.writeByte a v) (a + 1) (by omega), readByte_writeByte, if_neg (by omega)]

/-- A byte inside a write reads as written. -/
theorem readByte_write_in (m : Memory) (a k : Nat) (bs : List Byte) (h : k < bs.length) :
    (m.write a bs).readByte (a + k) = bs.getD k 0 := by
  induction bs generalizing m a k with
  | nil => simp at h
  | cons v r ih =>
    cases k with
    | zero =>
      simp [write, readByte_write_of_notin _ (a + 1) a r (.inl (by omega))]
    | succ k =>
      have := ih (m.writeByte a v) (a + 1) k (by simpa using h)
      rw [write, show a + (k + 1) = a + 1 + k by omega, this]; rfl

/-- Reading back the bytes of a write. -/
theorem read_write (m : Memory) (a : Nat) (bs : List Byte) : (m.write a bs).read a bs.length = bs := by
  apply List.ext_getElem
  · simp [read]
  · intro k h1 h2
    simp only [read, List.getElem_map, List.getElem_range]
    rw [readByte_write_in m a k bs h2]; simp [List.getD, h2]

end Memory

end Sys2Proof.Machine
end

