-- ==== Sys2Proof/Laws/State.lean ====
section
/-!
SUPPORT. What each update of the state leaves alone, one lemma for each field, and what it makes of the field it is for.
-/

namespace Sys2Proof.Machine.State

variable (s : State)

/-! ### setThread -/

@[simp] theorem setThread_clock (t : Nat) (x : Thread) : (s.setThread t x).clock = s.clock := rfl
@[simp] theorem setThread_bar0 (t : Nat) (x : Thread) : (s.setThread t x).bar0 = s.bar0 := rfl
@[simp] theorem setThread_mem (t : Nat) (x : Thread) : (s.setThread t x).mem = s.mem := rfl
@[simp] theorem setThread_homes (t : Nat) (x : Thread) : (s.setThread t x).homes = s.homes := rfl
@[simp] theorem setThread_restamps (t : Nat) (x : Thread) : (s.setThread t x).restamps = s.restamps := rfl
@[simp] theorem setThread_routeWait (t : Nat) (x : Thread) : (s.setThread t x).routeWait = s.routeWait := rfl
@[simp] theorem setThread_slicesFenced (t : Nat) (x : Thread) : (s.setThread t x).slicesFenced = s.slicesFenced := rfl
@[simp] theorem setThread_ops (t : Nat) (x : Thread) : (s.setThread t x).ops = s.ops := rfl
@[simp] theorem setThread_producers (t : Nat) (x : Thread) : (s.setThread t x).producers = s.producers := rfl
@[simp] theorem setThread_flagSeen (t : Nat) (x : Thread) : (s.setThread t x).flagSeen = s.flagSeen := rfl
@[simp] theorem setThread_outbound (t : Nat) (x : Thread) : (s.setThread t x).outbound = s.outbound := rfl
@[simp] theorem setThread_routeHeld (t : Nat) (x : Thread) : (s.setThread t x).routeHeld = s.routeHeld := rfl
@[simp] theorem setThread_launches (t : Nat) (x : Thread) : (s.setThread t x).launches = s.launches := rfl
@[simp] theorem setThread_tasks (t : Nat) (x : Thread) : (s.setThread t x).tasks = s.tasks := rfl
@[simp] theorem setThread_walks (t : Nat) (x : Thread) : (s.setThread t x).walks = s.walks := rfl
@[simp] theorem setThread_unitTlbs (t : Nat) (x : Thread) : (s.setThread t x).unitTlbs = s.unitTlbs := rfl
@[simp] theorem setThread_invals (t : Nat) (x : Thread) : (s.setThread t x).invals = s.invals := rfl
@[simp] theorem setThread_migs (t : Nat) (x : Thread) : (s.setThread t x).migs = s.migs := rfl
@[simp] theorem setThread_prgs (t : Nat) (x : Thread) : (s.setThread t x).prgs = s.prgs := rfl
@[simp] theorem setThread_recs (t : Nat) (x : Thread) : (s.setThread t x).recs = s.recs := rfl
@[simp] theorem setThread_saved (t : Nat) (x : Thread) : (s.setThread t x).saved = s.saved := rfl
@[simp] theorem setThread_cruises (t : Nat) (x : Thread) : (s.setThread t x).cruises = s.cruises := rfl
@[simp] theorem setThread_collectives (t : Nat) (x : Thread) : (s.setThread t x).collectives = s.collectives := rfl
@[simp] theorem setThread_queues (t : Nat) (x : Thread) : (s.setThread t x).queues = s.queues := rfl
@[simp] theorem setThread_engines (t : Nat) (x : Thread) : (s.setThread t x).engines = s.engines := rfl
@[simp] theorem setThread_slots (t : Nat) (x : Thread) : (s.setThread t x).slots = s.slots := rfl
@[simp] theorem setThread_cores (t : Nat) (x : Thread) : (s.setThread t x).cores = s.cores := rfl
@[simp] theorem setThread_clusters (t : Nat) (x : Thread) : (s.setThread t x).clusters = s.clusters := rfl
@[simp] theorem setThread_stands (t : Nat) (x : Thread) : (s.setThread t x).stands = s.stands := rfl
@[simp] theorem setThread_batches (t : Nat) (x : Thread) : (s.setThread t x).batches = s.batches := rfl
@[simp] theorem setThread_dies (t : Nat) (x : Thread) : (s.setThread t x).dies = s.dies := rfl
@[simp] theorem setThread_tiles (t : Nat) (x : Thread) : (s.setThread t x).tiles = s.tiles := rfl
@[simp] theorem setThread_texReqs (t : Nat) (x : Thread) : (s.setThread t x).texReqs = s.texReqs := rfl
@[simp] theorem setThread_parts (t : Nat) (x : Thread) : (s.setThread t x).parts = s.parts := rfl
@[simp] theorem setThread_pkg (t : Nat) (x : Thread) : (s.setThread t x).pkg = s.pkg := rfl
@[simp] theorem setThread_busRead (t : Nat) (x : Thread) : (s.setThread t x).busRead = s.busRead := rfl
@[simp] theorem setThread_spdmOut (t : Nat) (x : Thread) : (s.setThread t x).spdmOut = s.spdmOut := rfl
@[simp] theorem setThread_hostOut (t : Nat) (x : Thread) : (s.setThread t x).hostOut = s.hostOut := rfl
@[simp] theorem setThread_turns (t : Nat) (x : Thread) : (s.setThread t x).turns = s.turns := rfl
@[simp] theorem setThread_focus (t : Nat) (x : Thread) : (s.setThread t x).focus = s.focus := rfl
@[simp] theorem setThread_nextId (t : Nat) (x : Thread) : (s.setThread t x).nextId = s.nextId := rfl

/-! ### modThread -/

@[simp] theorem modThread_clock (t : Nat) (f : Thread → Thread) : (s.modThread t f).clock = s.clock := rfl
@[simp] theorem modThread_bar0 (t : Nat) (f : Thread → Thread) : (s.modThread t f).bar0 = s.bar0 := rfl
@[simp] theorem modThread_mem (t : Nat) (f : Thread → Thread) : (s.modThread t f).mem = s.mem := rfl
@[simp] theorem modThread_homes (t : Nat) (f : Thread → Thread) : (s.modThread t f).homes = s.homes := rfl
@[simp] theorem modThread_restamps (t : Nat) (f : Thread → Thread) : (s.modThread t f).restamps = s.restamps := rfl
@[simp] theorem modThread_routeWait (t : Nat) (f : Thread → Thread) : (s.modThread t f).routeWait = s.routeWait := rfl
@[simp] theorem modThread_slicesFenced (t : Nat) (f : Thread → Thread) : (s.modThread t f).slicesFenced = s.slicesFenced := rfl
@[simp] theorem modThread_ops (t : Nat) (f : Thread → Thread) : (s.modThread t f).ops = s.ops := rfl
@[simp] theorem modThread_producers (t : Nat) (f : Thread → Thread) : (s.modThread t f).producers = s.producers := rfl
@[simp] theorem modThread_flagSeen (t : Nat) (f : Thread → Thread) : (s.modThread t f).flagSeen = s.flagSeen := rfl
@[simp] theorem modThread_outbound (t : Nat) (f : Thread → Thread) : (s.modThread t f).outbound = s.outbound := rfl
@[simp] theorem modThread_routeHeld (t : Nat) (f : Thread → Thread) : (s.modThread t f).routeHeld = s.routeHeld := rfl
@[simp] theorem modThread_launches (t : Nat) (f : Thread → Thread) : (s.modThread t f).launches = s.launches := rfl
@[simp] theorem modThread_tasks (t : Nat) (f : Thread → Thread) : (s.modThread t f).tasks = s.tasks := rfl
@[simp] theorem modThread_walks (t : Nat) (f : Thread → Thread) : (s.modThread t f).walks = s.walks := rfl
@[simp] theorem modThread_unitTlbs (t : Nat) (f : Thread → Thread) : (s.modThread t f).unitTlbs = s.unitTlbs := rfl
@[simp] theorem modThread_invals (t : Nat) (f : Thread → Thread) : (s.modThread t f).invals = s.invals := rfl
@[simp] theorem modThread_migs (t : Nat) (f : Thread → Thread) : (s.modThread t f).migs = s.migs := rfl
@[simp] theorem modThread_prgs (t : Nat) (f : Thread → Thread) : (s.modThread t f).prgs = s.prgs := rfl
@[simp] theorem modThread_recs (t : Nat) (f : Thread → Thread) : (s.modThread t f).recs = s.recs := rfl
@[simp] theorem modThread_saved (t : Nat) (f : Thread → Thread) : (s.modThread t f).saved = s.saved := rfl
@[simp] theorem modThread_cruises (t : Nat) (f : Thread → Thread) : (s.modThread t f).cruises = s.cruises := rfl
@[simp] theorem modThread_collectives (t : Nat) (f : Thread → Thread) : (s.modThread t f).collectives = s.collectives := rfl
@[simp] theorem modThread_queues (t : Nat) (f : Thread → Thread) : (s.modThread t f).queues = s.queues := rfl
@[simp] theorem modThread_engines (t : Nat) (f : Thread → Thread) : (s.modThread t f).engines = s.engines := rfl
@[simp] theorem modThread_slots (t : Nat) (f : Thread → Thread) : (s.modThread t f).slots = s.slots := rfl
@[simp] theorem modThread_cores (t : Nat) (f : Thread → Thread) : (s.modThread t f).cores = s.cores := rfl
@[simp] theorem modThread_clusters (t : Nat) (f : Thread → Thread) : (s.modThread t f).clusters = s.clusters := rfl
@[simp] theorem modThread_stands (t : Nat) (f : Thread → Thread) : (s.modThread t f).stands = s.stands := rfl
@[simp] theorem modThread_batches (t : Nat) (f : Thread → Thread) : (s.modThread t f).batches = s.batches := rfl
@[simp] theorem modThread_dies (t : Nat) (f : Thread → Thread) : (s.modThread t f).dies = s.dies := rfl
@[simp] theorem modThread_tiles (t : Nat) (f : Thread → Thread) : (s.modThread t f).tiles = s.tiles := rfl
@[simp] theorem modThread_texReqs (t : Nat) (f : Thread → Thread) : (s.modThread t f).texReqs = s.texReqs := rfl
@[simp] theorem modThread_parts (t : Nat) (f : Thread → Thread) : (s.modThread t f).parts = s.parts := rfl
@[simp] theorem modThread_pkg (t : Nat) (f : Thread → Thread) : (s.modThread t f).pkg = s.pkg := rfl
@[simp] theorem modThread_busRead (t : Nat) (f : Thread → Thread) : (s.modThread t f).busRead = s.busRead := rfl
@[simp] theorem modThread_spdmOut (t : Nat) (f : Thread → Thread) : (s.modThread t f).spdmOut = s.spdmOut := rfl
@[simp] theorem modThread_hostOut (t : Nat) (f : Thread → Thread) : (s.modThread t f).hostOut = s.hostOut := rfl
@[simp] theorem modThread_turns (t : Nat) (f : Thread → Thread) : (s.modThread t f).turns = s.turns := rfl
@[simp] theorem modThread_focus (t : Nat) (f : Thread → Thread) : (s.modThread t f).focus = s.focus := rfl
@[simp] theorem modThread_nextId (t : Nat) (f : Thread → Thread) : (s.modThread t f).nextId = s.nextId := rfl

/-! ### modEngine -/

@[simp] theorem modEngine_clock (k : Nat) (f : Engine → Engine) : (s.modEngine k f).clock = s.clock := rfl
@[simp] theorem modEngine_bar0 (k : Nat) (f : Engine → Engine) : (s.modEngine k f).bar0 = s.bar0 := rfl
@[simp] theorem modEngine_mem (k : Nat) (f : Engine → Engine) : (s.modEngine k f).mem = s.mem := rfl
@[simp] theorem modEngine_homes (k : Nat) (f : Engine → Engine) : (s.modEngine k f).homes = s.homes := rfl
@[simp] theorem modEngine_restamps (k : Nat) (f : Engine → Engine) : (s.modEngine k f).restamps = s.restamps := rfl
@[simp] theorem modEngine_routeWait (k : Nat) (f : Engine → Engine) : (s.modEngine k f).routeWait = s.routeWait := rfl
@[simp] theorem modEngine_slicesFenced (k : Nat) (f : Engine → Engine) : (s.modEngine k f).slicesFenced = s.slicesFenced := rfl
@[simp] theorem modEngine_ops (k : Nat) (f : Engine → Engine) : (s.modEngine k f).ops = s.ops := rfl
@[simp] theorem modEngine_producers (k : Nat) (f : Engine → Engine) : (s.modEngine k f).producers = s.producers := rfl
@[simp] theorem modEngine_flagSeen (k : Nat) (f : Engine → Engine) : (s.modEngine k f).flagSeen = s.flagSeen := rfl
@[simp] theorem modEngine_threads (k : Nat) (f : Engine → Engine) : (s.modEngine k f).threads = s.threads := rfl
@[simp] theorem modEngine_outbound (k : Nat) (f : Engine → Engine) : (s.modEngine k f).outbound = s.outbound := rfl
@[simp] theorem modEngine_routeHeld (k : Nat) (f : Engine → Engine) : (s.modEngine k f).routeHeld = s.routeHeld := rfl
@[simp] theorem modEngine_launches (k : Nat) (f : Engine → Engine) : (s.modEngine k f).launches = s.launches := rfl
@[simp] theorem modEngine_tasks (k : Nat) (f : Engine → Engine) : (s.modEngine k f).tasks = s.tasks := rfl
@[simp] theorem modEngine_walks (k : Nat) (f : Engine → Engine) : (s.modEngine k f).walks = s.walks := rfl
@[simp] theorem modEngine_unitTlbs (k : Nat) (f : Engine → Engine) : (s.modEngine k f).unitTlbs = s.unitTlbs := rfl
@[simp] theorem modEngine_invals (k : Nat) (f : Engine → Engine) : (s.modEngine k f).invals = s.invals := rfl
@[simp] theorem modEngine_migs (k : Nat) (f : Engine → Engine) : (s.modEngine k f).migs = s.migs := rfl
@[simp] theorem modEngine_prgs (k : Nat) (f : Engine → Engine) : (s.modEngine k f).prgs = s.prgs := rfl
@[simp] theorem modEngine_recs (k : Nat) (f : Engine → Engine) : (s.modEngine k f).recs = s.recs := rfl
@[simp] theorem modEngine_saved (k : Nat) (f : Engine → Engine) : (s.modEngine k f).saved = s.saved := rfl
@[simp] theorem modEngine_cruises (k : Nat) (f : Engine → Engine) : (s.modEngine k f).cruises = s.cruises := rfl
@[simp] theorem modEngine_collectives (k : Nat) (f : Engine → Engine) : (s.modEngine k f).collectives = s.collectives := rfl
@[simp] theorem modEngine_queues (k : Nat) (f : Engine → Engine) : (s.modEngine k f).queues = s.queues := rfl
@[simp] theorem modEngine_slots (k : Nat) (f : Engine → Engine) : (s.modEngine k f).slots = s.slots := rfl
@[simp] theorem modEngine_cores (k : Nat) (f : Engine → Engine) : (s.modEngine k f).cores = s.cores := rfl
@[simp] theorem modEngine_clusters (k : Nat) (f : Engine → Engine) : (s.modEngine k f).clusters = s.clusters := rfl
@[simp] theorem modEngine_stands (k : Nat) (f : Engine → Engine) : (s.modEngine k f).stands = s.stands := rfl
@[simp] theorem modEngine_batches (k : Nat) (f : Engine → Engine) : (s.modEngine k f).batches = s.batches := rfl
@[simp] theorem modEngine_dies (k : Nat) (f : Engine → Engine) : (s.modEngine k f).dies = s.dies := rfl
@[simp] theorem modEngine_tiles (k : Nat) (f : Engine → Engine) : (s.modEngine k f).tiles = s.tiles := rfl
@[simp] theorem modEngine_texReqs (k : Nat) (f : Engine → Engine) : (s.modEngine k f).texReqs = s.texReqs := rfl
@[simp] theorem modEngine_parts (k : Nat) (f : Engine → Engine) : (s.modEngine k f).parts = s.parts := rfl
@[simp] theorem modEngine_pkg (k : Nat) (f : Engine → Engine) : (s.modEngine k f).pkg = s.pkg := rfl
@[simp] theorem modEngine_busRead (k : Nat) (f : Engine → Engine) : (s.modEngine k f).busRead = s.busRead := rfl
@[simp] theorem modEngine_spdmOut (k : Nat) (f : Engine → Engine) : (s.modEngine k f).spdmOut = s.spdmOut := rfl
@[simp] theorem modEngine_hostOut (k : Nat) (f : Engine → Engine) : (s.modEngine k f).hostOut = s.hostOut := rfl
@[simp] theorem modEngine_turns (k : Nat) (f : Engine → Engine) : (s.modEngine k f).turns = s.turns := rfl
@[simp] theorem modEngine_focus (k : Nat) (f : Engine → Engine) : (s.modEngine k f).focus = s.focus := rfl
@[simp] theorem modEngine_nextId (k : Nat) (f : Engine → Engine) : (s.modEngine k f).nextId = s.nextId := rfl

/-! ### modCore -/

@[simp] theorem modCore_clock (c : Nat) (f : Core → Core) : (s.modCore c f).clock = s.clock := rfl
@[simp] theorem modCore_bar0 (c : Nat) (f : Core → Core) : (s.modCore c f).bar0 = s.bar0 := rfl
@[simp] theorem modCore_mem (c : Nat) (f : Core → Core) : (s.modCore c f).mem = s.mem := rfl
@[simp] theorem modCore_homes (c : Nat) (f : Core → Core) : (s.modCore c f).homes = s.homes := rfl
@[simp] theorem modCore_restamps (c : Nat) (f : Core → Core) : (s.modCore c f).restamps = s.restamps := rfl
@[simp] theorem modCore_routeWait (c : Nat) (f : Core → Core) : (s.modCore c f).routeWait = s.routeWait := rfl
@[simp] theorem modCore_slicesFenced (c : Nat) (f : Core → Core) : (s.modCore c f).slicesFenced = s.slicesFenced := rfl
@[simp] theorem modCore_ops (c : Nat) (f : Core → Core) : (s.modCore c f).ops = s.ops := rfl
@[simp] theorem modCore_producers (c : Nat) (f : Core → Core) : (s.modCore c f).producers = s.producers := rfl
@[simp] theorem modCore_flagSeen (c : Nat) (f : Core → Core) : (s.modCore c f).flagSeen = s.flagSeen := rfl
@[simp] theorem modCore_threads (c : Nat) (f : Core → Core) : (s.modCore c f).threads = s.threads := rfl
@[simp] theorem modCore_outbound (c : Nat) (f : Core → Core) : (s.modCore c f).outbound = s.outbound := rfl
@[simp] theorem modCore_routeHeld (c : Nat) (f : Core → Core) : (s.modCore c f).routeHeld = s.routeHeld := rfl
@[simp] theorem modCore_launches (c : Nat) (f : Core → Core) : (s.modCore c f).launches = s.launches := rfl
@[simp] theorem modCore_tasks (c : Nat) (f : Core → Core) : (s.modCore c f).tasks = s.tasks := rfl
@[simp] theorem modCore_walks (c : Nat) (f : Core → Core) : (s.modCore c f).walks = s.walks := rfl
@[simp] theorem modCore_unitTlbs (c : Nat) (f : Core → Core) : (s.modCore c f).unitTlbs = s.unitTlbs := rfl
@[simp] theorem modCore_invals (c : Nat) (f : Core → Core) : (s.modCore c f).invals = s.invals := rfl
@[simp] theorem modCore_migs (c : Nat) (f : Core → Core) : (s.modCore c f).migs = s.migs := rfl
@[simp] theorem modCore_prgs (c : Nat) (f : Core → Core) : (s.modCore c f).prgs = s.prgs := rfl
@[simp] theorem modCore_recs (c : Nat) (f : Core → Core) : (s.modCore c f).recs = s.recs := rfl
@[simp] theorem modCore_saved (c : Nat) (f : Core → Core) : (s.modCore c f).saved = s.saved := rfl
@[simp] theorem modCore_cruises (c : Nat) (f : Core → Core) : (s.modCore c f).cruises = s.cruises := rfl
@[simp] theorem modCore_collectives (c : Nat) (f : Core → Core) : (s.modCore c f).collectives = s.collectives := rfl
@[simp] theorem modCore_queues (c : Nat) (f : Core → Core) : (s.modCore c f).queues = s.queues := rfl
@[simp] theorem modCore_engines (c : Nat) (f : Core → Core) : (s.modCore c f).engines = s.engines := rfl
@[simp] theorem modCore_slots (c : Nat) (f : Core → Core) : (s.modCore c f).slots = s.slots := rfl
@[simp] theorem modCore_clusters (c : Nat) (f : Core → Core) : (s.modCore c f).clusters = s.clusters := rfl
@[simp] theorem modCore_stands (c : Nat) (f : Core → Core) : (s.modCore c f).stands = s.stands := rfl
@[simp] theorem modCore_batches (c : Nat) (f : Core → Core) : (s.modCore c f).batches = s.batches := rfl
@[simp] theorem modCore_dies (c : Nat) (f : Core → Core) : (s.modCore c f).dies = s.dies := rfl
@[simp] theorem modCore_tiles (c : Nat) (f : Core → Core) : (s.modCore c f).tiles = s.tiles := rfl
@[simp] theorem modCore_texReqs (c : Nat) (f : Core → Core) : (s.modCore c f).texReqs = s.texReqs := rfl
@[simp] theorem modCore_parts (c : Nat) (f : Core → Core) : (s.modCore c f).parts = s.parts := rfl
@[simp] theorem modCore_pkg (c : Nat) (f : Core → Core) : (s.modCore c f).pkg = s.pkg := rfl
@[simp] theorem modCore_busRead (c : Nat) (f : Core → Core) : (s.modCore c f).busRead = s.busRead := rfl
@[simp] theorem modCore_spdmOut (c : Nat) (f : Core → Core) : (s.modCore c f).spdmOut = s.spdmOut := rfl
@[simp] theorem modCore_hostOut (c : Nat) (f : Core → Core) : (s.modCore c f).hostOut = s.hostOut := rfl
@[simp] theorem modCore_turns (c : Nat) (f : Core → Core) : (s.modCore c f).turns = s.turns := rfl
@[simp] theorem modCore_focus (c : Nat) (f : Core → Core) : (s.modCore c f).focus = s.focus := rfl
@[simp] theorem modCore_nextId (c : Nat) (f : Core → Core) : (s.modCore c f).nextId = s.nextId := rfl

/-! ### modCluster -/

@[simp] theorem modCluster_clock (c : Nat) (f : Cluster → Cluster) : (s.modCluster c f).clock = s.clock := rfl
@[simp] theorem modCluster_bar0 (c : Nat) (f : Cluster → Cluster) : (s.modCluster c f).bar0 = s.bar0 := rfl
@[simp] theorem modCluster_mem (c : Nat) (f : Cluster → Cluster) : (s.modCluster c f).mem = s.mem := rfl
@[simp] theorem modCluster_homes (c : Nat) (f : Cluster → Cluster) : (s.modCluster c f).homes = s.homes := rfl
@[simp] theorem modCluster_restamps (c : Nat) (f : Cluster → Cluster) : (s.modCluster c f).restamps = s.restamps := rfl
@[simp] theorem modCluster_routeWait (c : Nat) (f : Cluster → Cluster) : (s.modCluster c f).routeWait = s.routeWait := rfl
@[simp] theorem modCluster_slicesFenced (c : Nat) (f : Cluster → Cluster) : (s.modCluster c f).slicesFenced = s.slicesFenced := rfl
@[simp] theorem modCluster_ops (c : Nat) (f : Cluster → Cluster) : (s.modCluster c f).ops = s.ops := rfl
@[simp] theorem modCluster_producers (c : Nat) (f : Cluster → Cluster) : (s.modCluster c f).producers = s.producers := rfl
@[simp] theorem modCluster_flagSeen (c : Nat) (f : Cluster → Cluster) : (s.modCluster c f).flagSeen = s.flagSeen := rfl
@[simp] theorem modCluster_threads (c : Nat) (f : Cluster → Cluster) : (s.modCluster c f).threads = s.threads := rfl
@[simp] theorem modCluster_outbound (c : Nat) (f : Cluster → Cluster) : (s.modCluster c f).outbound = s.outbound := rfl
@[simp] theorem modCluster_routeHeld (c : Nat) (f : Cluster → Cluster) : (s.modCluster c f).routeHeld = s.routeHeld := rfl
@[simp] theorem modCluster_launches (c : Nat) (f : Cluster → Cluster) : (s.modCluster c f).launches = s.launches := rfl
@[simp] theorem modCluster_tasks (c : Nat) (f : Cluster → Cluster) : (s.modCluster c f).tasks = s.tasks := rfl
@[simp] theorem modCluster_walks (c : Nat) (f : Cluster → Cluster) : (s.modCluster c f).walks = s.walks := rfl
@[simp] theorem modCluster_unitTlbs (c : Nat) (f : Cluster → Cluster) : (s.modCluster c f).unitTlbs = s.unitTlbs := rfl
@[simp] theorem modCluster_invals (c : Nat) (f : Cluster → Cluster) : (s.modCluster c f).invals = s.invals := rfl
@[simp] theorem modCluster_migs (c : Nat) (f : Cluster → Cluster) : (s.modCluster c f).migs = s.migs := rfl
@[simp] theorem modCluster_prgs (c : Nat) (f : Cluster → Cluster) : (s.modCluster c f).prgs = s.prgs := rfl
@[simp] theorem modCluster_recs (c : Nat) (f : Cluster → Cluster) : (s.modCluster c f).recs = s.recs := rfl
@[simp] theorem modCluster_saved (c : Nat) (f : Cluster → Cluster) : (s.modCluster c f).saved = s.saved := rfl
@[simp] theorem modCluster_cruises (c : Nat) (f : Cluster → Cluster) : (s.modCluster c f).cruises = s.cruises := rfl
@[simp] theorem modCluster_collectives (c : Nat) (f : Cluster → Cluster) : (s.modCluster c f).collectives = s.collectives := rfl
@[simp] theorem modCluster_queues (c : Nat) (f : Cluster → Cluster) : (s.modCluster c f).queues = s.queues := rfl
@[simp] theorem modCluster_engines (c : Nat) (f : Cluster → Cluster) : (s.modCluster c f).engines = s.engines := rfl
@[simp] theorem modCluster_slots (c : Nat) (f : Cluster → Cluster) : (s.modCluster c f).slots = s.slots := rfl
@[simp] theorem modCluster_cores (c : Nat) (f : Cluster → Cluster) : (s.modCluster c f).cores = s.cores := rfl
@[simp] theorem modCluster_stands (c : Nat) (f : Cluster → Cluster) : (s.modCluster c f).stands = s.stands := rfl
@[simp] theorem modCluster_batches (c : Nat) (f : Cluster → Cluster) : (s.modCluster c f).batches = s.batches := rfl
@[simp] theorem modCluster_dies (c : Nat) (f : Cluster → Cluster) : (s.modCluster c f).dies = s.dies := rfl
@[simp] theorem modCluster_tiles (c : Nat) (f : Cluster → Cluster) : (s.modCluster c f).tiles = s.tiles := rfl
@[simp] theorem modCluster_texReqs (c : Nat) (f : Cluster → Cluster) : (s.modCluster c f).texReqs = s.texReqs := rfl
@[simp] theorem modCluster_parts (c : Nat) (f : Cluster → Cluster) : (s.modCluster c f).parts = s.parts := rfl
@[simp] theorem modCluster_pkg (c : Nat) (f : Cluster → Cluster) : (s.modCluster c f).pkg = s.pkg := rfl
@[simp] theorem modCluster_busRead (c : Nat) (f : Cluster → Cluster) : (s.modCluster c f).busRead = s.busRead := rfl
@[simp] theorem modCluster_spdmOut (c : Nat) (f : Cluster → Cluster) : (s.modCluster c f).spdmOut = s.spdmOut := rfl
@[simp] theorem modCluster_hostOut (c : Nat) (f : Cluster → Cluster) : (s.modCluster c f).hostOut = s.hostOut := rfl
@[simp] theorem modCluster_turns (c : Nat) (f : Cluster → Cluster) : (s.modCluster c f).turns = s.turns := rfl
@[simp] theorem modCluster_focus (c : Nat) (f : Cluster → Cluster) : (s.modCluster c f).focus = s.focus := rfl
@[simp] theorem modCluster_nextId (c : Nat) (f : Cluster → Cluster) : (s.modCluster c f).nextId = s.nextId := rfl

/-! ### modStand -/

@[simp] theorem modStand_clock (n : Nat) (f : Stand → Stand) : (s.modStand n f).clock = s.clock := rfl
@[simp] theorem modStand_bar0 (n : Nat) (f : Stand → Stand) : (s.modStand n f).bar0 = s.bar0 := rfl
@[simp] theorem modStand_mem (n : Nat) (f : Stand → Stand) : (s.modStand n f).mem = s.mem := rfl
@[simp] theorem modStand_homes (n : Nat) (f : Stand → Stand) : (s.modStand n f).homes = s.homes := rfl
@[simp] theorem modStand_restamps (n : Nat) (f : Stand → Stand) : (s.modStand n f).restamps = s.restamps := rfl
@[simp] theorem modStand_routeWait (n : Nat) (f : Stand → Stand) : (s.modStand n f).routeWait = s.routeWait := rfl
@[simp] theorem modStand_slicesFenced (n : Nat) (f : Stand → Stand) : (s.modStand n f).slicesFenced = s.slicesFenced := rfl
@[simp] theorem modStand_ops (n : Nat) (f : Stand → Stand) : (s.modStand n f).ops = s.ops := rfl
@[simp] theorem modStand_producers (n : Nat) (f : Stand → Stand) : (s.modStand n f).producers = s.producers := rfl
@[simp] theorem modStand_flagSeen (n : Nat) (f : Stand → Stand) : (s.modStand n f).flagSeen = s.flagSeen := rfl
@[simp] theorem modStand_threads (n : Nat) (f : Stand → Stand) : (s.modStand n f).threads = s.threads := rfl
@[simp] theorem modStand_outbound (n : Nat) (f : Stand → Stand) : (s.modStand n f).outbound = s.outbound := rfl
@[simp] theorem modStand_routeHeld (n : Nat) (f : Stand → Stand) : (s.modStand n f).routeHeld = s.routeHeld := rfl
@[simp] theorem modStand_launches (n : Nat) (f : Stand → Stand) : (s.modStand n f).launches = s.launches := rfl
@[simp] theorem modStand_tasks (n : Nat) (f : Stand → Stand) : (s.modStand n f).tasks = s.tasks := rfl
@[simp] theorem modStand_walks (n : Nat) (f : Stand → Stand) : (s.modStand n f).walks = s.walks := rfl
@[simp] theorem modStand_unitTlbs (n : Nat) (f : Stand → Stand) : (s.modStand n f).unitTlbs = s.unitTlbs := rfl
@[simp] theorem modStand_invals (n : Nat) (f : Stand → Stand) : (s.modStand n f).invals = s.invals := rfl
@[simp] theorem modStand_migs (n : Nat) (f : Stand → Stand) : (s.modStand n f).migs = s.migs := rfl
@[simp] theorem modStand_prgs (n : Nat) (f : Stand → Stand) : (s.modStand n f).prgs = s.prgs := rfl
@[simp] theorem modStand_recs (n : Nat) (f : Stand → Stand) : (s.modStand n f).recs = s.recs := rfl
@[simp] theorem modStand_saved (n : Nat) (f : Stand → Stand) : (s.modStand n f).saved = s.saved := rfl
@[simp] theorem modStand_cruises (n : Nat) (f : Stand → Stand) : (s.modStand n f).cruises = s.cruises := rfl
@[simp] theorem modStand_collectives (n : Nat) (f : Stand → Stand) : (s.modStand n f).collectives = s.collectives := rfl
@[simp] theorem modStand_queues (n : Nat) (f : Stand → Stand) : (s.modStand n f).queues = s.queues := rfl
@[simp] theorem modStand_engines (n : Nat) (f : Stand → Stand) : (s.modStand n f).engines = s.engines := rfl
@[simp] theorem modStand_slots (n : Nat) (f : Stand → Stand) : (s.modStand n f).slots = s.slots := rfl
@[simp] theorem modStand_cores (n : Nat) (f : Stand → Stand) : (s.modStand n f).cores = s.cores := rfl
@[simp] theorem modStand_clusters (n : Nat) (f : Stand → Stand) : (s.modStand n f).clusters = s.clusters := rfl
@[simp] theorem modStand_batches (n : Nat) (f : Stand → Stand) : (s.modStand n f).batches = s.batches := rfl
@[simp] theorem modStand_dies (n : Nat) (f : Stand → Stand) : (s.modStand n f).dies = s.dies := rfl
@[simp] theorem modStand_tiles (n : Nat) (f : Stand → Stand) : (s.modStand n f).tiles = s.tiles := rfl
@[simp] theorem modStand_texReqs (n : Nat) (f : Stand → Stand) : (s.modStand n f).texReqs = s.texReqs := rfl
@[simp] theorem modStand_parts (n : Nat) (f : Stand → Stand) : (s.modStand n f).parts = s.parts := rfl
@[simp] theorem modStand_pkg (n : Nat) (f : Stand → Stand) : (s.modStand n f).pkg = s.pkg := rfl
@[simp] theorem modStand_busRead (n : Nat) (f : Stand → Stand) : (s.modStand n f).busRead = s.busRead := rfl
@[simp] theorem modStand_spdmOut (n : Nat) (f : Stand → Stand) : (s.modStand n f).spdmOut = s.spdmOut := rfl
@[simp] theorem modStand_hostOut (n : Nat) (f : Stand → Stand) : (s.modStand n f).hostOut = s.hostOut := rfl
@[simp] theorem modStand_turns (n : Nat) (f : Stand → Stand) : (s.modStand n f).turns = s.turns := rfl
@[simp] theorem modStand_focus (n : Nat) (f : Stand → Stand) : (s.modStand n f).focus = s.focus := rfl
@[simp] theorem modStand_nextId (n : Nat) (f : Stand → Stand) : (s.modStand n f).nextId = s.nextId := rfl

/-! ### modDie -/

@[simp] theorem modDie_clock (n : Nat) (f : Die → Die) : (s.modDie n f).clock = s.clock := rfl
@[simp] theorem modDie_bar0 (n : Nat) (f : Die → Die) : (s.modDie n f).bar0 = s.bar0 := rfl
@[simp] theorem modDie_mem (n : Nat) (f : Die → Die) : (s.modDie n f).mem = s.mem := rfl
@[simp] theorem modDie_homes (n : Nat) (f : Die → Die) : (s.modDie n f).homes = s.homes := rfl
@[simp] theorem modDie_restamps (n : Nat) (f : Die → Die) : (s.modDie n f).restamps = s.restamps := rfl
@[simp] theorem modDie_routeWait (n : Nat) (f : Die → Die) : (s.modDie n f).routeWait = s.routeWait := rfl
@[simp] theorem modDie_slicesFenced (n : Nat) (f : Die → Die) : (s.modDie n f).slicesFenced = s.slicesFenced := rfl
@[simp] theorem modDie_ops (n : Nat) (f : Die → Die) : (s.modDie n f).ops = s.ops := rfl
@[simp] theorem modDie_producers (n : Nat) (f : Die → Die) : (s.modDie n f).producers = s.producers := rfl
@[simp] theorem modDie_flagSeen (n : Nat) (f : Die → Die) : (s.modDie n f).flagSeen = s.flagSeen := rfl
@[simp] theorem modDie_threads (n : Nat) (f : Die → Die) : (s.modDie n f).threads = s.threads := rfl
@[simp] theorem modDie_outbound (n : Nat) (f : Die → Die) : (s.modDie n f).outbound = s.outbound := rfl
@[simp] theorem modDie_routeHeld (n : Nat) (f : Die → Die) : (s.modDie n f).routeHeld = s.routeHeld := rfl
@[simp] theorem modDie_launches (n : Nat) (f : Die → Die) : (s.modDie n f).launches = s.launches := rfl
@[simp] theorem modDie_tasks (n : Nat) (f : Die → Die) : (s.modDie n f).tasks = s.tasks := rfl
@[simp] theorem modDie_walks (n : Nat) (f : Die → Die) : (s.modDie n f).walks = s.walks := rfl
@[simp] theorem modDie_unitTlbs (n : Nat) (f : Die → Die) : (s.modDie n f).unitTlbs = s.unitTlbs := rfl
@[simp] theorem modDie_invals (n : Nat) (f : Die → Die) : (s.modDie n f).invals = s.invals := rfl
@[simp] theorem modDie_migs (n : Nat) (f : Die → Die) : (s.modDie n f).migs = s.migs := rfl
@[simp] theorem modDie_prgs (n : Nat) (f : Die → Die) : (s.modDie n f).prgs = s.prgs := rfl
@[simp] theorem modDie_recs (n : Nat) (f : Die → Die) : (s.modDie n f).recs = s.recs := rfl
@[simp] theorem modDie_saved (n : Nat) (f : Die → Die) : (s.modDie n f).saved = s.saved := rfl
@[simp] theorem modDie_cruises (n : Nat) (f : Die → Die) : (s.modDie n f).cruises = s.cruises := rfl
@[simp] theorem modDie_collectives (n : Nat) (f : Die → Die) : (s.modDie n f).collectives = s.collectives := rfl
@[simp] theorem modDie_queues (n : Nat) (f : Die → Die) : (s.modDie n f).queues = s.queues := rfl
@[simp] theorem modDie_engines (n : Nat) (f : Die → Die) : (s.modDie n f).engines = s.engines := rfl
@[simp] theorem modDie_slots (n : Nat) (f : Die → Die) : (s.modDie n f).slots = s.slots := rfl
@[simp] theorem modDie_cores (n : Nat) (f : Die → Die) : (s.modDie n f).cores = s.cores := rfl
@[simp] theorem modDie_clusters (n : Nat) (f : Die → Die) : (s.modDie n f).clusters = s.clusters := rfl
@[simp] theorem modDie_stands (n : Nat) (f : Die → Die) : (s.modDie n f).stands = s.stands := rfl
@[simp] theorem modDie_batches (n : Nat) (f : Die → Die) : (s.modDie n f).batches = s.batches := rfl
@[simp] theorem modDie_tiles (n : Nat) (f : Die → Die) : (s.modDie n f).tiles = s.tiles := rfl
@[simp] theorem modDie_texReqs (n : Nat) (f : Die → Die) : (s.modDie n f).texReqs = s.texReqs := rfl
@[simp] theorem modDie_parts (n : Nat) (f : Die → Die) : (s.modDie n f).parts = s.parts := rfl
@[simp] theorem modDie_pkg (n : Nat) (f : Die → Die) : (s.modDie n f).pkg = s.pkg := rfl
@[simp] theorem modDie_busRead (n : Nat) (f : Die → Die) : (s.modDie n f).busRead = s.busRead := rfl
@[simp] theorem modDie_spdmOut (n : Nat) (f : Die → Die) : (s.modDie n f).spdmOut = s.spdmOut := rfl
@[simp] theorem modDie_hostOut (n : Nat) (f : Die → Die) : (s.modDie n f).hostOut = s.hostOut := rfl
@[simp] theorem modDie_turns (n : Nat) (f : Die → Die) : (s.modDie n f).turns = s.turns := rfl
@[simp] theorem modDie_focus (n : Nat) (f : Die → Die) : (s.modDie n f).focus = s.focus := rfl
@[simp] theorem modDie_nextId (n : Nat) (f : Die → Die) : (s.modDie n f).nextId = s.nextId := rfl

/-! ### modQueue -/

@[simp] theorem modQueue_clock (n : Nat) (f : Queue → Queue) : (s.modQueue n f).clock = s.clock := rfl
@[simp] theorem modQueue_bar0 (n : Nat) (f : Queue → Queue) : (s.modQueue n f).bar0 = s.bar0 := rfl
@[simp] theorem modQueue_mem (n : Nat) (f : Queue → Queue) : (s.modQueue n f).mem = s.mem := rfl
@[simp] theorem modQueue_homes (n : Nat) (f : Queue → Queue) : (s.modQueue n f).homes = s.homes := rfl
@[simp] theorem modQueue_restamps (n : Nat) (f : Queue → Queue) : (s.modQueue n f).restamps = s.restamps := rfl
@[simp] theorem modQueue_routeWait (n : Nat) (f : Queue → Queue) : (s.modQueue n f).routeWait = s.routeWait := rfl
@[simp] theorem modQueue_slicesFenced (n : Nat) (f : Queue → Queue) : (s.modQueue n f).slicesFenced = s.slicesFenced := rfl
@[simp] theorem modQueue_ops (n : Nat) (f : Queue → Queue) : (s.modQueue n f).ops = s.ops := rfl
@[simp] theorem modQueue_producers (n : Nat) (f : Queue → Queue) : (s.modQueue n f).producers = s.producers := rfl
@[simp] theorem modQueue_flagSeen (n : Nat) (f : Queue → Queue) : (s.modQueue n f).flagSeen = s.flagSeen := rfl
@[simp] theorem modQueue_threads (n : Nat) (f : Queue → Queue) : (s.modQueue n f).threads = s.threads := rfl
@[simp] theorem modQueue_outbound (n : Nat) (f : Queue → Queue) : (s.modQueue n f).outbound = s.outbound := rfl
@[simp] theorem modQueue_routeHeld (n : Nat) (f : Queue → Queue) : (s.modQueue n f).routeHeld = s.routeHeld := rfl
@[simp] theorem modQueue_launches (n : Nat) (f : Queue → Queue) : (s.modQueue n f).launches = s.launches := rfl
@[simp] theorem modQueue_tasks (n : Nat) (f : Queue → Queue) : (s.modQueue n f).tasks = s.tasks := rfl
@[simp] theorem modQueue_walks (n : Nat) (f : Queue → Queue) : (s.modQueue n f).walks = s.walks := rfl
@[simp] theorem modQueue_unitTlbs (n : Nat) (f : Queue → Queue) : (s.modQueue n f).unitTlbs = s.unitTlbs := rfl
@[simp] theorem modQueue_invals (n : Nat) (f : Queue → Queue) : (s.modQueue n f).invals = s.invals := rfl
@[simp] theorem modQueue_migs (n : Nat) (f : Queue → Queue) : (s.modQueue n f).migs = s.migs := rfl
@[simp] theorem modQueue_prgs (n : Nat) (f : Queue → Queue) : (s.modQueue n f).prgs = s.prgs := rfl
@[simp] theorem modQueue_recs (n : Nat) (f : Queue → Queue) : (s.modQueue n f).recs = s.recs := rfl
@[simp] theorem modQueue_saved (n : Nat) (f : Queue → Queue) : (s.modQueue n f).saved = s.saved := rfl
@[simp] theorem modQueue_cruises (n : Nat) (f : Queue → Queue) : (s.modQueue n f).cruises = s.cruises := rfl
@[simp] theorem modQueue_collectives (n : Nat) (f : Queue → Queue) : (s.modQueue n f).collectives = s.collectives := rfl
@[simp] theorem modQueue_engines (n : Nat) (f : Queue → Queue) : (s.modQueue n f).engines = s.engines := rfl
@[simp] theorem modQueue_slots (n : Nat) (f : Queue → Queue) : (s.modQueue n f).slots = s.slots := rfl
@[simp] theorem modQueue_cores (n : Nat) (f : Queue → Queue) : (s.modQueue n f).cores = s.cores := rfl
@[simp] theorem modQueue_clusters (n : Nat) (f : Queue → Queue) : (s.modQueue n f).clusters = s.clusters := rfl
@[simp] theorem modQueue_stands (n : Nat) (f : Queue → Queue) : (s.modQueue n f).stands = s.stands := rfl
@[simp] theorem modQueue_batches (n : Nat) (f : Queue → Queue) : (s.modQueue n f).batches = s.batches := rfl
@[simp] theorem modQueue_dies (n : Nat) (f : Queue → Queue) : (s.modQueue n f).dies = s.dies := rfl
@[simp] theorem modQueue_tiles (n : Nat) (f : Queue → Queue) : (s.modQueue n f).tiles = s.tiles := rfl
@[simp] theorem modQueue_texReqs (n : Nat) (f : Queue → Queue) : (s.modQueue n f).texReqs = s.texReqs := rfl
@[simp] theorem modQueue_parts (n : Nat) (f : Queue → Queue) : (s.modQueue n f).parts = s.parts := rfl
@[simp] theorem modQueue_pkg (n : Nat) (f : Queue → Queue) : (s.modQueue n f).pkg = s.pkg := rfl
@[simp] theorem modQueue_busRead (n : Nat) (f : Queue → Queue) : (s.modQueue n f).busRead = s.busRead := rfl
@[simp] theorem modQueue_spdmOut (n : Nat) (f : Queue → Queue) : (s.modQueue n f).spdmOut = s.spdmOut := rfl
@[simp] theorem modQueue_hostOut (n : Nat) (f : Queue → Queue) : (s.modQueue n f).hostOut = s.hostOut := rfl
@[simp] theorem modQueue_turns (n : Nat) (f : Queue → Queue) : (s.modQueue n f).turns = s.turns := rfl
@[simp] theorem modQueue_focus (n : Nat) (f : Queue → Queue) : (s.modQueue n f).focus = s.focus := rfl
@[simp] theorem modQueue_nextId (n : Nat) (f : Queue → Queue) : (s.modQueue n f).nextId = s.nextId := rfl

/-! ### modPart -/

@[simp] theorem modPart_clock (n : Nat) (f : Partition → Partition) : (s.modPart n f).clock = s.clock := rfl
@[simp] theorem modPart_bar0 (n : Nat) (f : Partition → Partition) : (s.modPart n f).bar0 = s.bar0 := rfl
@[simp] theorem modPart_mem (n : Nat) (f : Partition → Partition) : (s.modPart n f).mem = s.mem := rfl
@[simp] theorem modPart_homes (n : Nat) (f : Partition → Partition) : (s.modPart n f).homes = s.homes := rfl
@[simp] theorem modPart_restamps (n : Nat) (f : Partition → Partition) : (s.modPart n f).restamps = s.restamps := rfl
@[simp] theorem modPart_routeWait (n : Nat) (f : Partition → Partition) : (s.modPart n f).routeWait = s.routeWait := rfl
@[simp] theorem modPart_slicesFenced (n : Nat) (f : Partition → Partition) : (s.modPart n f).slicesFenced = s.slicesFenced := rfl
@[simp] theorem modPart_ops (n : Nat) (f : Partition → Partition) : (s.modPart n f).ops = s.ops := rfl
@[simp] theorem modPart_producers (n : Nat) (f : Partition → Partition) : (s.modPart n f).producers = s.producers := rfl
@[simp] theorem modPart_flagSeen (n : Nat) (f : Partition → Partition) : (s.modPart n f).flagSeen = s.flagSeen := rfl
@[simp] theorem modPart_threads (n : Nat) (f : Partition → Partition) : (s.modPart n f).threads = s.threads := rfl
@[simp] theorem modPart_outbound (n : Nat) (f : Partition → Partition) : (s.modPart n f).outbound = s.outbound := rfl
@[simp] theorem modPart_routeHeld (n : Nat) (f : Partition → Partition) : (s.modPart n f).routeHeld = s.routeHeld := rfl
@[simp] theorem modPart_launches (n : Nat) (f : Partition → Partition) : (s.modPart n f).launches = s.launches := rfl
@[simp] theorem modPart_tasks (n : Nat) (f : Partition → Partition) : (s.modPart n f).tasks = s.tasks := rfl
@[simp] theorem modPart_walks (n : Nat) (f : Partition → Partition) : (s.modPart n f).walks = s.walks := rfl
@[simp] theorem modPart_unitTlbs (n : Nat) (f : Partition → Partition) : (s.modPart n f).unitTlbs = s.unitTlbs := rfl
@[simp] theorem modPart_invals (n : Nat) (f : Partition → Partition) : (s.modPart n f).invals = s.invals := rfl
@[simp] theorem modPart_migs (n : Nat) (f : Partition → Partition) : (s.modPart n f).migs = s.migs := rfl
@[simp] theorem modPart_prgs (n : Nat) (f : Partition → Partition) : (s.modPart n f).prgs = s.prgs := rfl
@[simp] theorem modPart_recs (n : Nat) (f : Partition → Partition) : (s.modPart n f).recs = s.recs := rfl
@[simp] theorem modPart_saved (n : Nat) (f : Partition → Partition) : (s.modPart n f).saved = s.saved := rfl
@[simp] theorem modPart_cruises (n : Nat) (f : Partition → Partition) : (s.modPart n f).cruises = s.cruises := rfl
@[simp] theorem modPart_collectives (n : Nat) (f : Partition → Partition) : (s.modPart n f).collectives = s.collectives := rfl
@[simp] theorem modPart_queues (n : Nat) (f : Partition → Partition) : (s.modPart n f).queues = s.queues := rfl
@[simp] theorem modPart_engines (n : Nat) (f : Partition → Partition) : (s.modPart n f).engines = s.engines := rfl
@[simp] theorem modPart_slots (n : Nat) (f : Partition → Partition) : (s.modPart n f).slots = s.slots := rfl
@[simp] theorem modPart_cores (n : Nat) (f : Partition → Partition) : (s.modPart n f).cores = s.cores := rfl
@[simp] theorem modPart_clusters (n : Nat) (f : Partition → Partition) : (s.modPart n f).clusters = s.clusters := rfl
@[simp] theorem modPart_stands (n : Nat) (f : Partition → Partition) : (s.modPart n f).stands = s.stands := rfl
@[simp] theorem modPart_batches (n : Nat) (f : Partition → Partition) : (s.modPart n f).batches = s.batches := rfl
@[simp] theorem modPart_dies (n : Nat) (f : Partition → Partition) : (s.modPart n f).dies = s.dies := rfl
@[simp] theorem modPart_tiles (n : Nat) (f : Partition → Partition) : (s.modPart n f).tiles = s.tiles := rfl
@[simp] theorem modPart_texReqs (n : Nat) (f : Partition → Partition) : (s.modPart n f).texReqs = s.texReqs := rfl
@[simp] theorem modPart_pkg (n : Nat) (f : Partition → Partition) : (s.modPart n f).pkg = s.pkg := rfl
@[simp] theorem modPart_busRead (n : Nat) (f : Partition → Partition) : (s.modPart n f).busRead = s.busRead := rfl
@[simp] theorem modPart_spdmOut (n : Nat) (f : Partition → Partition) : (s.modPart n f).spdmOut = s.spdmOut := rfl
@[simp] theorem modPart_hostOut (n : Nat) (f : Partition → Partition) : (s.modPart n f).hostOut = s.hostOut := rfl
@[simp] theorem modPart_turns (n : Nat) (f : Partition → Partition) : (s.modPart n f).turns = s.turns := rfl
@[simp] theorem modPart_focus (n : Nat) (f : Partition → Partition) : (s.modPart n f).focus = s.focus := rfl
@[simp] theorem modPart_nextId (n : Nat) (f : Partition → Partition) : (s.modPart n f).nextId = s.nextId := rfl

/-! ### modHome -/

@[simp] theorem modHome_clock (l : Nat) (f : HomeLine → HomeLine) : (s.modHome l f).clock = s.clock := rfl
@[simp] theorem modHome_bar0 (l : Nat) (f : HomeLine → HomeLine) : (s.modHome l f).bar0 = s.bar0 := rfl
@[simp] theorem modHome_mem (l : Nat) (f : HomeLine → HomeLine) : (s.modHome l f).mem = s.mem := rfl
@[simp] theorem modHome_restamps (l : Nat) (f : HomeLine → HomeLine) : (s.modHome l f).restamps = s.restamps := rfl
@[simp] theorem modHome_routeWait (l : Nat) (f : HomeLine → HomeLine) : (s.modHome l f).routeWait = s.routeWait := rfl
@[simp] theorem modHome_slicesFenced (l : Nat) (f : HomeLine → HomeLine) : (s.modHome l f).slicesFenced = s.slicesFenced := rfl
@[simp] theorem modHome_ops (l : Nat) (f : HomeLine → HomeLine) : (s.modHome l f).ops = s.ops := rfl
@[simp] theorem modHome_producers (l : Nat) (f : HomeLine → HomeLine) : (s.modHome l f).producers = s.producers := rfl
@[simp] theorem modHome_flagSeen (l : Nat) (f : HomeLine → HomeLine) : (s.modHome l f).flagSeen = s.flagSeen := rfl
@[simp] theorem modHome_threads (l : Nat) (f : HomeLine → HomeLine) : (s.modHome l f).threads = s.threads := rfl
@[simp] theorem modHome_outbound (l : Nat) (f : HomeLine → HomeLine) : (s.modHome l f).outbound = s.outbound := rfl
@[simp] theorem modHome_routeHeld (l : Nat) (f : HomeLine → HomeLine) : (s.modHome l f).routeHeld = s.routeHeld := rfl
@[simp] theorem modHome_launches (l : Nat) (f : HomeLine → HomeLine) : (s.modHome l f).launches = s.launches := rfl
@[simp] theorem modHome_tasks (l : Nat) (f : HomeLine → HomeLine) : (s.modHome l f).tasks = s.tasks := rfl
@[simp] theorem modHome_walks (l : Nat) (f : HomeLine → HomeLine) : (s.modHome l f).walks = s.walks := rfl
@[simp] theorem modHome_unitTlbs (l : Nat) (f : HomeLine → HomeLine) : (s.modHome l f).unitTlbs = s.unitTlbs := rfl
@[simp] theorem modHome_invals (l : Nat) (f : HomeLine → HomeLine) : (s.modHome l f).invals = s.invals := rfl
@[simp] theorem modHome_migs (l : Nat) (f : HomeLine → HomeLine) : (s.modHome l f).migs = s.migs := rfl
@[simp] theorem modHome_prgs (l : Nat) (f : HomeLine → HomeLine) : (s.modHome l f).prgs = s.prgs := rfl
@[simp] theorem modHome_recs (l : Nat) (f : HomeLine → HomeLine) : (s.modHome l f).recs = s.recs := rfl
@[simp] theorem modHome_saved (l : Nat) (f : HomeLine → HomeLine) : (s.modHome l f).saved = s.saved := rfl
@[simp] theorem modHome_cruises (l : Nat) (f : HomeLine → HomeLine) : (s.modHome l f).cruises = s.cruises := rfl
@[simp] theorem modHome_collectives (l : Nat) (f : HomeLine → HomeLine) : (s.modHome l f).collectives = s.collectives := rfl
@[simp] theorem modHome_queues (l : Nat) (f : HomeLine → HomeLine) : (s.modHome l f).queues = s.queues := rfl
@[simp] theorem modHome_engines (l : Nat) (f : HomeLine → HomeLine) : (s.modHome l f).engines = s.engines := rfl
@[simp] theorem modHome_slots (l : Nat) (f : HomeLine → HomeLine) : (s.modHome l f).slots = s.slots := rfl
@[simp] theorem modHome_cores (l : Nat) (f : HomeLine → HomeLine) : (s.modHome l f).cores = s.cores := rfl
@[simp] theorem modHome_clusters (l : Nat) (f : HomeLine → HomeLine) : (s.modHome l f).clusters = s.clusters := rfl
@[simp] theorem modHome_stands (l : Nat) (f : HomeLine → HomeLine) : (s.modHome l f).stands = s.stands := rfl
@[simp] theorem modHome_batches (l : Nat) (f : HomeLine → HomeLine) : (s.modHome l f).batches = s.batches := rfl
@[simp] theorem modHome_dies (l : Nat) (f : HomeLine → HomeLine) : (s.modHome l f).dies = s.dies := rfl
@[simp] theorem modHome_tiles (l : Nat) (f : HomeLine → HomeLine) : (s.modHome l f).tiles = s.tiles := rfl
@[simp] theorem modHome_texReqs (l : Nat) (f : HomeLine → HomeLine) : (s.modHome l f).texReqs = s.texReqs := rfl
@[simp] theorem modHome_parts (l : Nat) (f : HomeLine → HomeLine) : (s.modHome l f).parts = s.parts := rfl
@[simp] theorem modHome_pkg (l : Nat) (f : HomeLine → HomeLine) : (s.modHome l f).pkg = s.pkg := rfl
@[simp] theorem modHome_busRead (l : Nat) (f : HomeLine → HomeLine) : (s.modHome l f).busRead = s.busRead := rfl
@[simp] theorem modHome_spdmOut (l : Nat) (f : HomeLine → HomeLine) : (s.modHome l f).spdmOut = s.spdmOut := rfl
@[simp] theorem modHome_hostOut (l : Nat) (f : HomeLine → HomeLine) : (s.modHome l f).hostOut = s.hostOut := rfl
@[simp] theorem modHome_turns (l : Nat) (f : HomeLine → HomeLine) : (s.modHome l f).turns = s.turns := rfl
@[simp] theorem modHome_focus (l : Nat) (f : HomeLine → HomeLine) : (s.modHome l f).focus = s.focus := rfl
@[simp] theorem modHome_nextId (l : Nat) (f : HomeLine → HomeLine) : (s.modHome l f).nextId = s.nextId := rfl

/-! ### modLaunch -/

@[simp] theorem modLaunch_clock (l : Nat) (f : Launch → Launch) : (s.modLaunch l f).clock = s.clock := rfl
@[simp] theorem modLaunch_bar0 (l : Nat) (f : Launch → Launch) : (s.modLaunch l f).bar0 = s.bar0 := rfl
@[simp] theorem modLaunch_mem (l : Nat) (f : Launch → Launch) : (s.modLaunch l f).mem = s.mem := rfl
@[simp] theorem modLaunch_homes (l : Nat) (f : Launch → Launch) : (s.modLaunch l f).homes = s.homes := rfl
@[simp] theorem modLaunch_restamps (l : Nat) (f : Launch → Launch) : (s.modLaunch l f).restamps = s.restamps := rfl
@[simp] theorem modLaunch_routeWait (l : Nat) (f : Launch → Launch) : (s.modLaunch l f).routeWait = s.routeWait := rfl
@[simp] theorem modLaunch_slicesFenced (l : Nat) (f : Launch → Launch) : (s.modLaunch l f).slicesFenced = s.slicesFenced := rfl
@[simp] theorem modLaunch_ops (l : Nat) (f : Launch → Launch) : (s.modLaunch l f).ops = s.ops := rfl
@[simp] theorem modLaunch_producers (l : Nat) (f : Launch → Launch) : (s.modLaunch l f).producers = s.producers := rfl
@[simp] theorem modLaunch_flagSeen (l : Nat) (f : Launch → Launch) : (s.modLaunch l f).flagSeen = s.flagSeen := rfl
@[simp] theorem modLaunch_threads (l : Nat) (f : Launch → Launch) : (s.modLaunch l f).threads = s.threads := rfl
@[simp] theorem modLaunch_outbound (l : Nat) (f : Launch → Launch) : (s.modLaunch l f).outbound = s.outbound := rfl
@[simp] theorem modLaunch_routeHeld (l : Nat) (f : Launch → Launch) : (s.modLaunch l f).routeHeld = s.routeHeld := rfl
@[simp] theorem modLaunch_tasks (l : Nat) (f : Launch → Launch) : (s.modLaunch l f).tasks = s.tasks := rfl
@[simp] theorem modLaunch_walks (l : Nat) (f : Launch → Launch) : (s.modLaunch l f).walks = s.walks := rfl
@[simp] theorem modLaunch_unitTlbs (l : Nat) (f : Launch → Launch) : (s.modLaunch l f).unitTlbs = s.unitTlbs := rfl
@[simp] theorem modLaunch_invals (l : Nat) (f : Launch → Launch) : (s.modLaunch l f).invals = s.invals := rfl
@[simp] theorem modLaunch_migs (l : Nat) (f : Launch → Launch) : (s.modLaunch l f).migs = s.migs := rfl
@[simp] theorem modLaunch_prgs (l : Nat) (f : Launch → Launch) : (s.modLaunch l f).prgs = s.prgs := rfl
@[simp] theorem modLaunch_recs (l : Nat) (f : Launch → Launch) : (s.modLaunch l f).recs = s.recs := rfl
@[simp] theorem modLaunch_saved (l : Nat) (f : Launch → Launch) : (s.modLaunch l f).saved = s.saved := rfl
@[simp] theorem modLaunch_cruises (l : Nat) (f : Launch → Launch) : (s.modLaunch l f).cruises = s.cruises := rfl
@[simp] theorem modLaunch_collectives (l : Nat) (f : Launch → Launch) : (s.modLaunch l f).collectives = s.collectives := rfl
@[simp] theorem modLaunch_queues (l : Nat) (f : Launch → Launch) : (s.modLaunch l f).queues = s.queues := rfl
@[simp] theorem modLaunch_engines (l : Nat) (f : Launch → Launch) : (s.modLaunch l f).engines = s.engines := rfl
@[simp] theorem modLaunch_slots (l : Nat) (f : Launch → Launch) : (s.modLaunch l f).slots = s.slots := rfl
@[simp] theorem modLaunch_cores (l : Nat) (f : Launch → Launch) : (s.modLaunch l f).cores = s.cores := rfl
@[simp] theorem modLaunch_clusters (l : Nat) (f : Launch → Launch) : (s.modLaunch l f).clusters = s.clusters := rfl
@[simp] theorem modLaunch_stands (l : Nat) (f : Launch → Launch) : (s.modLaunch l f).stands = s.stands := rfl
@[simp] theorem modLaunch_batches (l : Nat) (f : Launch → Launch) : (s.modLaunch l f).batches = s.batches := rfl
@[simp] theorem modLaunch_dies (l : Nat) (f : Launch → Launch) : (s.modLaunch l f).dies = s.dies := rfl
@[simp] theorem modLaunch_tiles (l : Nat) (f : Launch → Launch) : (s.modLaunch l f).tiles = s.tiles := rfl
@[simp] theorem modLaunch_texReqs (l : Nat) (f : Launch → Launch) : (s.modLaunch l f).texReqs = s.texReqs := rfl
@[simp] theorem modLaunch_parts (l : Nat) (f : Launch → Launch) : (s.modLaunch l f).parts = s.parts := rfl
@[simp] theorem modLaunch_pkg (l : Nat) (f : Launch → Launch) : (s.modLaunch l f).pkg = s.pkg := rfl
@[simp] theorem modLaunch_busRead (l : Nat) (f : Launch → Launch) : (s.modLaunch l f).busRead = s.busRead := rfl
@[simp] theorem modLaunch_spdmOut (l : Nat) (f : Launch → Launch) : (s.modLaunch l f).spdmOut = s.spdmOut := rfl
@[simp] theorem modLaunch_hostOut (l : Nat) (f : Launch → Launch) : (s.modLaunch l f).hostOut = s.hostOut := rfl
@[simp] theorem modLaunch_turns (l : Nat) (f : Launch → Launch) : (s.modLaunch l f).turns = s.turns := rfl
@[simp] theorem modLaunch_focus (l : Nat) (f : Launch → Launch) : (s.modLaunch l f).focus = s.focus := rfl
@[simp] theorem modLaunch_nextId (l : Nat) (f : Launch → Launch) : (s.modLaunch l f).nextId = s.nextId := rfl

/-! ### modSlot -/

@[simp] theorem modSlot_clock (e i : Nat) (f : Slot → Slot) : (s.modSlot e i f).clock = s.clock := rfl
@[simp] theorem modSlot_bar0 (e i : Nat) (f : Slot → Slot) : (s.modSlot e i f).bar0 = s.bar0 := rfl
@[simp] theorem modSlot_mem (e i : Nat) (f : Slot → Slot) : (s.modSlot e i f).mem = s.mem := rfl
@[simp] theorem modSlot_homes (e i : Nat) (f : Slot → Slot) : (s.modSlot e i f).homes = s.homes := rfl
@[simp] theorem modSlot_restamps (e i : Nat) (f : Slot → Slot) : (s.modSlot e i f).restamps = s.restamps := rfl
@[simp] theorem modSlot_routeWait (e i : Nat) (f : Slot → Slot) : (s.modSlot e i f).routeWait = s.routeWait := rfl
@[simp] theorem modSlot_slicesFenced (e i : Nat) (f : Slot → Slot) : (s.modSlot e i f).slicesFenced = s.slicesFenced := rfl
@[simp] theorem modSlot_ops (e i : Nat) (f : Slot → Slot) : (s.modSlot e i f).ops = s.ops := rfl
@[simp] theorem modSlot_producers (e i : Nat) (f : Slot → Slot) : (s.modSlot e i f).producers = s.producers := rfl
@[simp] theorem modSlot_flagSeen (e i : Nat) (f : Slot → Slot) : (s.modSlot e i f).flagSeen = s.flagSeen := rfl
@[simp] theorem modSlot_threads (e i : Nat) (f : Slot → Slot) : (s.modSlot e i f).threads = s.threads := rfl
@[simp] theorem modSlot_outbound (e i : Nat) (f : Slot → Slot) : (s.modSlot e i f).outbound = s.outbound := rfl
@[simp] theorem modSlot_routeHeld (e i : Nat) (f : Slot → Slot) : (s.modSlot e i f).routeHeld = s.routeHeld := rfl
@[simp] theorem modSlot_launches (e i : Nat) (f : Slot → Slot) : (s.modSlot e i f).launches = s.launches := rfl
@[simp] theorem modSlot_tasks (e i : Nat) (f : Slot → Slot) : (s.modSlot e i f).tasks = s.tasks := rfl
@[simp] theorem modSlot_walks (e i : Nat) (f : Slot → Slot) : (s.modSlot e i f).walks = s.walks := rfl
@[simp] theorem modSlot_unitTlbs (e i : Nat) (f : Slot → Slot) : (s.modSlot e i f).unitTlbs = s.unitTlbs := rfl
@[simp] theorem modSlot_invals (e i : Nat) (f : Slot → Slot) : (s.modSlot e i f).invals = s.invals := rfl
@[simp] theorem modSlot_migs (e i : Nat) (f : Slot → Slot) : (s.modSlot e i f).migs = s.migs := rfl
@[simp] theorem modSlot_prgs (e i : Nat) (f : Slot → Slot) : (s.modSlot e i f).prgs = s.prgs := rfl
@[simp] theorem modSlot_recs (e i : Nat) (f : Slot → Slot) : (s.modSlot e i f).recs = s.recs := rfl
@[simp] theorem modSlot_saved (e i : Nat) (f : Slot → Slot) : (s.modSlot e i f).saved = s.saved := rfl
@[simp] theorem modSlot_cruises (e i : Nat) (f : Slot → Slot) : (s.modSlot e i f).cruises = s.cruises := rfl
@[simp] theorem modSlot_collectives (e i : Nat) (f : Slot → Slot) : (s.modSlot e i f).collectives = s.collectives := rfl
@[simp] theorem modSlot_queues (e i : Nat) (f : Slot → Slot) : (s.modSlot e i f).queues = s.queues := rfl
@[simp] theorem modSlot_engines (e i : Nat) (f : Slot → Slot) : (s.modSlot e i f).engines = s.engines := rfl
@[simp] theorem modSlot_cores (e i : Nat) (f : Slot → Slot) : (s.modSlot e i f).cores = s.cores := rfl
@[simp] theorem modSlot_clusters (e i : Nat) (f : Slot → Slot) : (s.modSlot e i f).clusters = s.clusters := rfl
@[simp] theorem modSlot_stands (e i : Nat) (f : Slot → Slot) : (s.modSlot e i f).stands = s.stands := rfl
@[simp] theorem modSlot_batches (e i : Nat) (f : Slot → Slot) : (s.modSlot e i f).batches = s.batches := rfl
@[simp] theorem modSlot_dies (e i : Nat) (f : Slot → Slot) : (s.modSlot e i f).dies = s.dies := rfl
@[simp] theorem modSlot_tiles (e i : Nat) (f : Slot → Slot) : (s.modSlot e i f).tiles = s.tiles := rfl
@[simp] theorem modSlot_texReqs (e i : Nat) (f : Slot → Slot) : (s.modSlot e i f).texReqs = s.texReqs := rfl
@[simp] theorem modSlot_parts (e i : Nat) (f : Slot → Slot) : (s.modSlot e i f).parts = s.parts := rfl
@[simp] theorem modSlot_pkg (e i : Nat) (f : Slot → Slot) : (s.modSlot e i f).pkg = s.pkg := rfl
@[simp] theorem modSlot_busRead (e i : Nat) (f : Slot → Slot) : (s.modSlot e i f).busRead = s.busRead := rfl
@[simp] theorem modSlot_spdmOut (e i : Nat) (f : Slot → Slot) : (s.modSlot e i f).spdmOut = s.spdmOut := rfl
@[simp] theorem modSlot_hostOut (e i : Nat) (f : Slot → Slot) : (s.modSlot e i f).hostOut = s.hostOut := rfl
@[simp] theorem modSlot_turns (e i : Nat) (f : Slot → Slot) : (s.modSlot e i f).turns = s.turns := rfl
@[simp] theorem modSlot_focus (e i : Nat) (f : Slot → Slot) : (s.modSlot e i f).focus = s.focus := rfl
@[simp] theorem modSlot_nextId (e i : Nat) (f : Slot → Slot) : (s.modSlot e i f).nextId = s.nextId := rfl

/-! ### modOp -/

@[simp] theorem modOp_clock (o : Nat) (f : MemOp → MemOp) : (s.modOp o f).clock = s.clock := rfl
@[simp] theorem modOp_bar0 (o : Nat) (f : MemOp → MemOp) : (s.modOp o f).bar0 = s.bar0 := rfl
@[simp] theorem modOp_mem (o : Nat) (f : MemOp → MemOp) : (s.modOp o f).mem = s.mem := rfl
@[simp] theorem modOp_homes (o : Nat) (f : MemOp → MemOp) : (s.modOp o f).homes = s.homes := rfl
@[simp] theorem modOp_restamps (o : Nat) (f : MemOp → MemOp) : (s.modOp o f).restamps = s.restamps := rfl
@[simp] theorem modOp_routeWait (o : Nat) (f : MemOp → MemOp) : (s.modOp o f).routeWait = s.routeWait := rfl
@[simp] theorem modOp_slicesFenced (o : Nat) (f : MemOp → MemOp) : (s.modOp o f).slicesFenced = s.slicesFenced := rfl
@[simp] theorem modOp_producers (o : Nat) (f : MemOp → MemOp) : (s.modOp o f).producers = s.producers := rfl
@[simp] theorem modOp_flagSeen (o : Nat) (f : MemOp → MemOp) : (s.modOp o f).flagSeen = s.flagSeen := rfl
@[simp] theorem modOp_threads (o : Nat) (f : MemOp → MemOp) : (s.modOp o f).threads = s.threads := rfl
@[simp] theorem modOp_outbound (o : Nat) (f : MemOp → MemOp) : (s.modOp o f).outbound = s.outbound := rfl
@[simp] theorem modOp_routeHeld (o : Nat) (f : MemOp → MemOp) : (s.modOp o f).routeHeld = s.routeHeld := rfl
@[simp] theorem modOp_launches (o : Nat) (f : MemOp → MemOp) : (s.modOp o f).launches = s.launches := rfl
@[simp] theorem modOp_tasks (o : Nat) (f : MemOp → MemOp) : (s.modOp o f).tasks = s.tasks := rfl
@[simp] theorem modOp_walks (o : Nat) (f : MemOp → MemOp) : (s.modOp o f).walks = s.walks := rfl
@[simp] theorem modOp_unitTlbs (o : Nat) (f : MemOp → MemOp) : (s.modOp o f).unitTlbs = s.unitTlbs := rfl
@[simp] theorem modOp_invals (o : Nat) (f : MemOp → MemOp) : (s.modOp o f).invals = s.invals := rfl
@[simp] theorem modOp_migs (o : Nat) (f : MemOp → MemOp) : (s.modOp o f).migs = s.migs := rfl
@[simp] theorem modOp_prgs (o : Nat) (f : MemOp → MemOp) : (s.modOp o f).prgs = s.prgs := rfl
@[simp] theorem modOp_recs (o : Nat) (f : MemOp → MemOp) : (s.modOp o f).recs = s.recs := rfl
@[simp] theorem modOp_saved (o : Nat) (f : MemOp → MemOp) : (s.modOp o f).saved = s.saved := rfl
@[simp] theorem modOp_cruises (o : Nat) (f : MemOp → MemOp) : (s.modOp o f).cruises = s.cruises := rfl
@[simp] theorem modOp_collectives (o : Nat) (f : MemOp → MemOp) : (s.modOp o f).collectives = s.collectives := rfl
@[simp] theorem modOp_queues (o : Nat) (f : MemOp → MemOp) : (s.modOp o f).queues = s.queues := rfl
@[simp] theorem modOp_engines (o : Nat) (f : MemOp → MemOp) : (s.modOp o f).engines = s.engines := rfl
@[simp] theorem modOp_slots (o : Nat) (f : MemOp → MemOp) : (s.modOp o f).slots = s.slots := rfl
@[simp] theorem modOp_cores (o : Nat) (f : MemOp → MemOp) : (s.modOp o f).cores = s.cores := rfl
@[simp] theorem modOp_clusters (o : Nat) (f : MemOp → MemOp) : (s.modOp o f).clusters = s.clusters := rfl
@[simp] theorem modOp_stands (o : Nat) (f : MemOp → MemOp) : (s.modOp o f).stands = s.stands := rfl
@[simp] theorem modOp_batches (o : Nat) (f : MemOp → MemOp) : (s.modOp o f).batches = s.batches := rfl
@[simp] theorem modOp_dies (o : Nat) (f : MemOp → MemOp) : (s.modOp o f).dies = s.dies := rfl
@[simp] theorem modOp_tiles (o : Nat) (f : MemOp → MemOp) : (s.modOp o f).tiles = s.tiles := rfl
@[simp] theorem modOp_texReqs (o : Nat) (f : MemOp → MemOp) : (s.modOp o f).texReqs = s.texReqs := rfl
@[simp] theorem modOp_parts (o : Nat) (f : MemOp → MemOp) : (s.modOp o f).parts = s.parts := rfl
@[simp] theorem modOp_pkg (o : Nat) (f : MemOp → MemOp) : (s.modOp o f).pkg = s.pkg := rfl
@[simp] theorem modOp_busRead (o : Nat) (f : MemOp → MemOp) : (s.modOp o f).busRead = s.busRead := rfl
@[simp] theorem modOp_spdmOut (o : Nat) (f : MemOp → MemOp) : (s.modOp o f).spdmOut = s.spdmOut := rfl
@[simp] theorem modOp_hostOut (o : Nat) (f : MemOp → MemOp) : (s.modOp o f).hostOut = s.hostOut := rfl
@[simp] theorem modOp_turns (o : Nat) (f : MemOp → MemOp) : (s.modOp o f).turns = s.turns := rfl
@[simp] theorem modOp_focus (o : Nat) (f : MemOp → MemOp) : (s.modOp o f).focus = s.focus := rfl
@[simp] theorem modOp_nextId (o : Nat) (f : MemOp → MemOp) : (s.modOp o f).nextId = s.nextId := rfl

/-! ### setReg -/

@[simp] theorem setReg_clock (o : Nat) (v : W32) : (s.setReg o v).clock = s.clock := rfl
@[simp] theorem setReg_mem (o : Nat) (v : W32) : (s.setReg o v).mem = s.mem := rfl
@[simp] theorem setReg_homes (o : Nat) (v : W32) : (s.setReg o v).homes = s.homes := rfl
@[simp] theorem setReg_restamps (o : Nat) (v : W32) : (s.setReg o v).restamps = s.restamps := rfl
@[simp] theorem setReg_routeWait (o : Nat) (v : W32) : (s.setReg o v).routeWait = s.routeWait := rfl
@[simp] theorem setReg_slicesFenced (o : Nat) (v : W32) : (s.setReg o v).slicesFenced = s.slicesFenced := rfl
@[simp] theorem setReg_ops (o : Nat) (v : W32) : (s.setReg o v).ops = s.ops := rfl
@[simp] theorem setReg_producers (o : Nat) (v : W32) : (s.setReg o v).producers = s.producers := rfl
@[simp] theorem setReg_flagSeen (o : Nat) (v : W32) : (s.setReg o v).flagSeen = s.flagSeen := rfl
@[simp] theorem setReg_threads (o : Nat) (v : W32) : (s.setReg o v).threads = s.threads := rfl
@[simp] theorem setReg_outbound (o : Nat) (v : W32) : (s.setReg o v).outbound = s.outbound := rfl
@[simp] theorem setReg_routeHeld (o : Nat) (v : W32) : (s.setReg o v).routeHeld = s.routeHeld := rfl
@[simp] theorem setReg_launches (o : Nat) (v : W32) : (s.setReg o v).launches = s.launches := rfl
@[simp] theorem setReg_tasks (o : Nat) (v : W32) : (s.setReg o v).tasks = s.tasks := rfl
@[simp] theorem setReg_walks (o : Nat) (v : W32) : (s.setReg o v).walks = s.walks := rfl
@[simp] theorem setReg_unitTlbs (o : Nat) (v : W32) : (s.setReg o v).unitTlbs = s.unitTlbs := rfl
@[simp] theorem setReg_invals (o : Nat) (v : W32) : (s.setReg o v).invals = s.invals := rfl
@[simp] theorem setReg_migs (o : Nat) (v : W32) : (s.setReg o v).migs = s.migs := rfl
@[simp] theorem setReg_prgs (o : Nat) (v : W32) : (s.setReg o v).prgs = s.prgs := rfl
@[simp] theorem setReg_recs (o : Nat) (v : W32) : (s.setReg o v).recs = s.recs := rfl
@[simp] theorem setReg_saved (o : Nat) (v : W32) : (s.setReg o v).saved = s.saved := rfl
@[simp] theorem setReg_cruises (o : Nat) (v : W32) : (s.setReg o v).cruises = s.cruises := rfl
@[simp] theorem setReg_collectives (o : Nat) (v : W32) : (s.setReg o v).collectives = s.collectives := rfl
@[simp] theorem setReg_queues (o : Nat) (v : W32) : (s.setReg o v).queues = s.queues := rfl
@[simp] theorem setReg_engines (o : Nat) (v : W32) : (s.setReg o v).engines = s.engines := rfl
@[simp] theorem setReg_slots (o : Nat) (v : W32) : (s.setReg o v).slots = s.slots := rfl
@[simp] theorem setReg_cores (o : Nat) (v : W32) : (s.setReg o v).cores = s.cores := rfl
@[simp] theorem setReg_clusters (o : Nat) (v : W32) : (s.setReg o v).clusters = s.clusters := rfl
@[simp] theorem setReg_stands (o : Nat) (v : W32) : (s.setReg o v).stands = s.stands := rfl
@[simp] theorem setReg_batches (o : Nat) (v : W32) : (s.setReg o v).batches = s.batches := rfl
@[simp] theorem setReg_dies (o : Nat) (v : W32) : (s.setReg o v).dies = s.dies := rfl
@[simp] theorem setReg_tiles (o : Nat) (v : W32) : (s.setReg o v).tiles = s.tiles := rfl
@[simp] theorem setReg_texReqs (o : Nat) (v : W32) : (s.setReg o v).texReqs = s.texReqs := rfl
@[simp] theorem setReg_parts (o : Nat) (v : W32) : (s.setReg o v).parts = s.parts := rfl
@[simp] theorem setReg_pkg (o : Nat) (v : W32) : (s.setReg o v).pkg = s.pkg := rfl
@[simp] theorem setReg_busRead (o : Nat) (v : W32) : (s.setReg o v).busRead = s.busRead := rfl
@[simp] theorem setReg_spdmOut (o : Nat) (v : W32) : (s.setReg o v).spdmOut = s.spdmOut := rfl
@[simp] theorem setReg_hostOut (o : Nat) (v : W32) : (s.setReg o v).hostOut = s.hostOut := rfl
@[simp] theorem setReg_turns (o : Nat) (v : W32) : (s.setReg o v).turns = s.turns := rfl
@[simp] theorem setReg_focus (o : Nat) (v : W32) : (s.setReg o v).focus = s.focus := rfl
@[simp] theorem setReg_nextId (o : Nat) (v : W32) : (s.setReg o v).nextId = s.nextId := rfl

/-! ### What an update makes of its own field -/

@[simp] theorem thread?_setThread (t u : Nat) (x : Thread) :
    (s.setThread t x).thread? u = if u = t then some x else s.thread? u := Table.get?_put ..

@[simp] theorem thread?_modThread (t u : Nat) (f : Thread → Thread) :
    (s.modThread t f).thread? u = if u = t then (s.thread? u).map f else s.thread? u := Table.get?_mod ..

@[simp] theorem engine_modEngine (k j : Nat) (f : Engine → Engine) :
    (s.modEngine k f).engine j = if j = k then f (s.engine k) else s.engine j := Table.getD_setD ..

@[simp] theorem core_modCore (k j : Nat) (f : Core → Core) :
    (s.modCore k f).core j = if j = k then f (s.core k) else s.core j := Table.getD_setD ..

@[simp] theorem cluster_modCluster (k j : Nat) (f : Cluster → Cluster) :
    (s.modCluster k f).cluster j = if j = k then f (s.cluster k) else s.cluster j := Table.getD_setD ..

@[simp] theorem stand_modStand (k j : Nat) (f : Stand → Stand) :
    (s.modStand k f).stand j = if j = k then f (s.stand k) else s.stand j := Table.getD_setD ..

@[simp] theorem die_modDie (k j : Nat) (f : Die → Die) :
    (s.modDie k f).die j = if j = k then f (s.die k) else s.die j := Table.getD_setD ..

@[simp] theorem queue_modQueue (k j : Nat) (f : Queue → Queue) :
    (s.modQueue k f).queue j = if j = k then f (s.queue k) else s.queue j := Table.getD_setD ..

@[simp] theorem partition_modPart (k j : Nat) (f : Partition → Partition) :
    (s.modPart k f).partition j = if j = k then f (s.partition k) else s.partition j := Table.getD_setD ..

@[simp] theorem home_modHome (k j : Nat) (f : HomeLine → HomeLine) :
    (s.modHome k f).home j = if j = k then f (s.home k) else s.home j := Table.getD_setD ..

@[simp] theorem launch?_modLaunch (k j : Nat) (f : Launch → Launch) :
    (s.modLaunch k f).launch? j = if j = k then (s.launch? j).map f else s.launch? j := Table.get?_mod ..

@[simp] theorem reg_setReg (o p : Nat) (v : W32) : (s.setReg o v).reg p = if p = o then v else s.reg p := by
  unfold reg setReg
  by_cases h : p = o
  · subst h; simp
  · simp only [h, if_false, Table.setD, Table.getD_def]
    split <;> simp [h]

end Sys2Proof.Machine.State

namespace Sys2Proof.Machine.Thread

/-- A general register after a write: g0 discards it, every other register is left alone (R130). -/
theorem readG_writeG (th : Thread) (n m : Nat) (v : W32) (p : Bool) :
    (th.writeG n v p).readG m = if m = n ∧ n ≠ 0 then { val := v, poison := p } else th.readG m := by
  unfold readG writeG
  by_cases hn : n = 0
  · simp [hn]
  · by_cases hm : m = n
    · subst hm; simp [hn]
    · by_cases h0 : m = 0
      · simp [hn, h0, Ne.symm hn]
      · simp [hn, hm, h0]

/-- A predicate after a write: p0 discards it (R130). -/
theorem readP_writeP (th : Thread) (n m : Nat) (v : Bool) :
    (th.writeP n v).readP m = if m = n ∧ n ≠ 0 then { val := v } else th.readP m := by
  unfold readP writeP
  by_cases hn : n = 0
  · simp [hn]
  · by_cases hm : m = n
    · subst hm; simp [hn]
    · by_cases h0 : m = 0
      · simp [hn, h0, Ne.symm hn]
      · simp [hn, hm, h0]

end Sys2Proof.Machine.Thread
end

