-- ==== Sys2Proof/Laws/Issue.lean ====
section
/-!
SUPPORT. What one issue of an instruction can do: it never faults, it is refused only when nothing is issuing, with an
empty active set it only moves on, and with nothing in its way it takes its effect.
-/

namespace Sys2Proof.Machine

open Sys2Proof.Safety

/-- With a run in progress an issue answers a next state. -/
theorem issue_of_run (sem : Sem) (k : Ins) {s : State} {r : Run} (h : s.run? = some r) :
    issue sem k s = .next (s.issueRun sem k r) := by simp [issue, h]

/-- An issue never faults. -/
theorem issue_ne_fault (sem : Sem) (k : Ins) (s : State) (f : Fault) : issue sem k s ≠ .fault f := by
  unfold issue; split <;> simp

theorem foldl_same {α β : Type} (f : α → β → α) (a : α) (l : List β) (h : ∀ b ∈ l, f a b = a) : l.foldl f a = a := by
  induction l with
  | nil => rfl
  | cons b r ih =>
    rw [List.foldl_cons, h b (by simp)]
    exact ih fun c hc => h c (by simp [hc])

namespace State

/-- With no poisoned guard nothing traps on one (R121). -/
theorem trapGuards_none (s : State) (r : Run) (k : Ins)
    (h : ∀ t ∈ r.members, ((s.thread? t).all fun th => th.status != .ready || (guardPoison th k).isNone) = true) :
    s.trapGuards r k = s := by
  refine foldl_same _ s _ fun t ht => ?_
  have := h t ht
  cases hs : s.thread? t with
  | none => simp
  | some th =>
    simp only [hs, Option.all_some] at this
    by_cases hr : th.status = .ready
    · simp [hr] at this ⊢; simp [this]
    · simp [hr]

/-- A thread that passes the early checks leaves the state as it is. -/
theorem precheck_pass {sem : Sem} {r : Run} {k : Ins} {s : State} {t : Nat} (h : (precheck sem r k s t).2 = true) :
    precheck sem r k s t = (s, true) := by
  have key : (precheck sem r k s t).2 = true → (precheck sem r k s t).1 = s := by
    unfold precheck
    dsimp only
    split
    · simp
    · split
      · simp
      · split
        · simp
        · split
          · simp
          · split <;> simp
  exact Prod.ext (key h) h

/-- When every thread passes the early checks, all go on. -/
theorem precheckAll_pass {sem : Sem} {r : Run} {k : Ins} {s : State} (go : List Nat)
    (h : ∀ t ∈ go, (precheck sem r k s t).2 = true) : precheckAll sem r k s go = (s, go) := by
  induction go with
  | nil => rfl
  | cons t ts ih =>
    simp [precheckAll, precheck_pass (h t (by simp)), ih fun u hu => h u (by simp [hu])]

/-- When every check passes, all threads go on and nothing else happens. -/
theorem gatherChecks_pass {sem : Sem} {k : Ins} {s : State} {l : Nat} (go : List Nat)
    (hs : ∀ t ∈ go, sourceCheck k s (t == l) t = .ok) (hc : ∀ t ∈ go, sem.check k l s t = .ok) :
    gatherChecks sem k s (some l) false go = { go := go } := by
  induction go with
  | nil => rfl
  | cons t ts ih =>
    have h0 := ih (fun u hu => hs u (by simp [hu])) fun u hu => hc u (by simp [hu])
    simp [gatherChecks, h0, operandCheck, hs t (by simp), hc t (by simp)]

/-- What changes nothing stops no access slice (R311). -/
@[simp] theorem torn_self (s : State) : s.torn s = false := by
  have h : ∀ o : Option Thread, (o.isSome && o.isNone) = false := by rintro (_ | _) <;> rfl
  simp [torn, h]

/-- Without faulting pages the fault buffer has room (R359). -/
@[simp] theorem fitParks_go (s : State) (go : List Nat) : s.fitParks { go := go } = { go := go } := rfl

/-- With nothing in its way an instruction takes its effect (R139). -/
theorem issueRun_clear {sem : Sem} {k : Ins} {s : State} {r : Run} {lead : Nat} {go : List Nat}
    (h : Clear sem k s r lead go) : s.issueRun sem k r = s.perform sem k lead go := by
  obtain ⟨⟨-, hg, hact, hlead, hpre, hwait, hsrc, hheld⟩, hchk, hready⟩ := h
  cases go with
  | nil => simp at hlead
  | cons a as =>
    obtain rfl : a = lead := by simpa using hlead
    have hl : (s.heldLead.orElse fun _ => leaderOf k s (a :: as)) = some a := by
      cases hh : s.heldLead with
      | some l => simpa [hh] using hheld
      | none =>
        have := hsrc a (by simp)
        simp at this
        simp [leaderOf, this]
    have hfront : s.heldLead.getD a = a := by
      cases hh : s.heldLead with
      | some l => simpa [hh] using hheld
      | none => rfl
    have hgc : gatherChecks sem k s (some a) true (a :: as) = { go := a :: as } := by
      have h0 := gatherChecks_pass (sem := sem) (k := k) (s := s) (l := a) (a :: as) hsrc hchk
      simpa [gatherChecks] using h0
    have hany : ((a :: as).any fun t => s.mustWait t k (t == a)) = false :=
      List.any_eq_false.2 fun t ht => by simp [hwait t ht]
    have hw : s.mustWait a k true = false := by simpa using hwait a (by simp)
    simp only [issueRun, trapGuards_none s r k hg, hact, precheckAll_pass _ hpre, issueThreads, hany, hl, hfront, hgc, hw,
      torn_self, fitParks_go, Option.getD_some, Option.all_some, List.contains_cons, beq_self_eq_true, Bool.true_or,
      Bool.false_eq_true, if_false]
    simp [settle, parkAll, hready, splitTraps]

end State

/-- With nothing in its way an instruction answers the state its effect leaves (R139). -/
theorem issue_clear {sem : Sem} {k : Ins} {s : State} {r : Run} {lead : Nat} {go : List Nat}
    (h : Clear sem k s r lead go) : issue sem k s = .next (s.perform sem k lead go) := by
  rw [issue_of_run sem k h.1.1, State.issueRun_clear h]

end Sys2Proof.Machine
end

