-- ==== Sys2Proof/Laws/Perform.lean ====
section
/-!
SUPPORT. What the shared steps around an instruction's effect do: the program counters move on, queues are popped, the
issue is counted and the run goes on or ends.
-/

namespace Sys2Proof.Machine

open Sys2Proof.Safety

theorem mem_distinct (l : List Nat) (u : Nat) : u ∈ distinct l ↔ u ∈ l := by
  induction l with
  | nil => simp [distinct]
  | cons a l ih =>
    simp only [distinct, List.mem_cons, List.mem_filter, ih, bne_iff_ne]
    by_cases h : u = a <;> simp [h]

theorem nodup_distinct (l : List Nat) : (distinct l).Nodup := by
  induction l with
  | nil => simp [distinct]
  | cons a l ih => exact List.nodup_cons.2 ⟨by simp, ih.filter _⟩

/-- What every step of a fold keeps, the fold keeps. -/
theorem foldl_keeps {α β : Type} (P : α → Prop) (f : α → β → α) (l : List β) (a : α) (h0 : P a)
    (h : ∀ a b, P a → P (f a b)) : P (l.foldl f a) := by
  induction l generalizing a with
  | nil => exact h0
  | cons b l ih => exact ih (f a b) (h a b h0)

theorem ite_keeps {α : Type} (P : α → Prop) {c : Prop} [Decidable c] {a b : α} (ha : P a) (hb : P b) :
    P (if c then a else b) := by split <;> assumption

namespace State

theorem mem_activeSet {s : State} {r : Run} {k : Ins} {u : Nat} :
    u ∈ s.activeSet r k ↔ u ∈ r.members ∧ s.issuing u = true ∧
      ((s.thread? u).any fun th => guard th k && (guardPoison th k).isNone) = true := by
  simp [activeSet, mem_distinct]

theorem nodup_activeSet (s : State) (r : Run) (k : Ins) : (s.activeSet r k).Nodup := nodup_distinct _

/-! ### Folds that change single threads -/

theorem foldl_modThread_threads (l : List Nat) (G : Nat → Thread → Thread) (s : State) :
    { l.foldl (fun s u => s.modThread u (G u)) s with threads := s.threads } = s := by
  induction l generalizing s with
  | nil => rfl
  | cons a l ih => rw [List.foldl_cons]; exact congrArg (fun t : State => { t with threads := s.threads }) (ih (s.modThread a (G a)))

theorem thread?_foldl_modThread {l : List Nat} (hl : l.Nodup) (G : Nat → Thread → Thread) (s : State) (u : Nat) :
    (l.foldl (fun s u => s.modThread u (G u)) s).thread? u =
      if u ∈ l then (s.thread? u).map (G u) else s.thread? u := by
  induction l generalizing s with
  | nil => simp
  | cons a l ih =>
    simp only [List.nodup_cons] at hl
    rw [List.foldl_cons, ih hl.2, thread?_modThread]
    by_cases hu : u = a
    · subst hu; simp [hl.1]
    · simp [hu]

/-- A fold whose steps each act as a change of one thread in every state that agrees with the first about that thread. -/
theorem foldl_local {l : List Nat} (hl : l.Nodup) (f : State → Nat → State) (G : Nat → Thread → Thread) (s : State)
    (h : ∀ s' u, u ∈ l → { s' with threads := s.threads } = s →
      (∀ v, v ∉ l ∨ v = u → s'.thread? v = s.thread? v) → f s' u = s'.modThread u (G u)) :
    l.foldl f s = l.foldl (fun s u => s.modThread u (G u)) s := by
  suffices H : ∀ (done todo : List Nat), l = done ++ todo → ∀ s' : State,
      s' = done.foldl (fun s u => s.modThread u (G u)) s →
      todo.foldl f s' = todo.foldl (fun s u => s.modThread u (G u)) s' from H [] l rfl s rfl
  intro done todo
  induction todo generalizing done with
  | nil => intros; rfl
  | cons a r ih =>
    intro hsplit s' hs'
    have hnd : done.Nodup := by rw [hsplit] at hl; exact (List.nodup_append.1 hl).1
    have ha : a ∉ done := by
      rw [hsplit] at hl
      exact fun hd => (List.nodup_append.1 hl).2.2 a hd a (by simp) rfl
    have hf : f s' a = s'.modThread a (G a) := by
      refine h s' a (by simp [hsplit]) (by rw [hs']; exact foldl_modThread_threads ..) fun v hv => ?_
      rw [hs', thread?_foldl_modThread hnd]
      rcases hv with hv | rfl
      · rw [if_neg (fun hd => hv (by simp [hsplit, hd]))]
      · rw [if_neg ha]
    rw [List.foldl_cons, List.foldl_cons, hf]
    exact ih (done ++ [a]) (by simp [hsplit]) _ (by simp [hs'])

/-! ### The program counters -/

theorem advance_eq {s : State} {r : Run} (k : Ins) (h : s.run? = some r) :
    s.advance k = r.members.foldl (fun s t => s.modThread t fun th => { th with pc := r.pc + BitVec.ofNat 64 k.len }) s := by
  simp [advance, h]

theorem advance_threads {s : State} {r : Run} (k : Ins) (h : s.run? = some r) :
    { s.advance k with threads := s.threads } = s := by
  rw [advance_eq k h]; exact foldl_modThread_threads ..

theorem thread?_advance {s : State} {r : Run} (k : Ins) (h : s.run? = some r) (u : Nat) :
    (s.advance k).thread? u = if u ∈ r.members then
      (s.thread? u).map (fun th => { th with pc := r.pc + BitVec.ofNat 64 k.len }) else s.thread? u := by
  rw [advance_eq k h]
  generalize r.members = l
  induction l generalizing s with
  | nil => simp
  | cons a l ih =>
    have h' : (s.modThread a fun th => { th with pc := r.pc + BitVec.ofNat 64 k.len }).run? = some r := h
    rw [List.foldl_cons, ih h', thread?_modThread]
    by_cases hu : u = a
    · subst hu; cases s.thread? u <;> simp
    · simp [hu]

/-! ### Popping -/

theorem popThread_frame (k : Ins) (wave : Bool) (top : Nat → Nat) (th : Thread) :
    { popThread k wave top th with oq := th.oq } = th := rfl

theorem popped_popThread (k : Ins) (wave : Bool) (top : Nat → Nat) (th : Thread) :
    Popped k wave top th (popThread k wave top th) := by
  suffices H : ∀ (l : List Nat), l.Nodup → ∀ (oq : Table (List QEntry)) (n : Nat),
      (l.foldl (fun oq q =>
        if th.sliced && popCount k wave q != 0 then
          Table.put oq q ((Table.getD oq q []).drop ((Table.getD oq q []).length - (top q - popCount k wave q)))
        else oq) oq).getD n [] =
      if th.sliced ∧ n ∈ l ∧ popCount k wave n ≠ 0 then
        (oq.getD n []).drop ((oq.getD n []).length - (top n - popCount k wave n))
      else oq.getD n [] by
    intro n
    have := H (List.range 4) List.nodup_range th.oq n
    simpa [popThread] using this
  intro l hl
  induction l with
  | nil => simp
  | cons a l ih =>
    intro oq n
    simp only [List.nodup_cons] at hl
    rw [List.foldl_cons, ih hl.2]
    by_cases hs : th.sliced = true
    · by_cases hc : popCount k wave a = 0
      · by_cases hn : n = a
        · subst hn; simp [hs, hc]
        · simp [hs, hc, hn]
      · by_cases hn : n = a
        · subst hn; simp [hs, hc, hl.1, Table.getD_def]
        · simp [hs, hc, hn, Table.getD_def]
    · simp [hs]

theorem popQueues_threads (s : State) (top : Nat → Nat → Nat) (k : Ins) (t : Nat) :
    { popQueues top k s t with threads := s.threads } = s := rfl

theorem thread?_popQueues (s : State) (top : Nat → Nat → Nat) (k : Ins) (t u : Nat) :
    (popQueues top k s t).thread? u =
      if u = t then (s.thread? u).map (popThread k (s.homeOf t).isWave (top t)) else s.thread? u :=
  thread?_modThread ..

theorem homeOf_congr {s s' : State} (h : ∀ u, (s'.thread? u).map Thread.home = (s.thread? u).map Thread.home) (u : Nat) :
    s'.homeOf u = s.homeOf u := by
  unfold homeOf
  rw [h u]
  split <;> simp_all

theorem home_popQueues (s : State) (top : Nat → Nat → Nat) (k : Ins) (t u : Nat) :
    ((popQueues top k s t).thread? u).map Thread.home = (s.thread? u).map Thread.home := by
  rw [thread?_popQueues]; split
  · cases s.thread? u <;> rfl
  · rfl

/-- Popping in a list of threads changes the queues of each and nothing else. -/
theorem foldl_popQueues {l : List Nat} (hl : l.Nodup) (top : Nat → Nat → Nat) (k : Ins) (s : State) :
    { l.foldl (popQueues top k) s with threads := s.threads } = s ∧
    ∀ u, (l.foldl (popQueues top k) s).thread? u =
      if u ∈ l then (s.thread? u).map (popThread k (s.homeOf u).isWave (top u)) else s.thread? u := by
  induction l generalizing s with
  | nil => exact ⟨rfl, fun u => by simp⟩
  | cons a l ih =>
    simp only [List.nodup_cons] at hl
    obtain ⟨h1, h2⟩ := ih hl.2 (popQueues top k s a)
    refine ⟨congrArg (fun x : State => { x with threads := s.threads }) h1, fun u => ?_⟩
    rw [List.foldl_cons, h2, homeOf_congr (home_popQueues s top k a), thread?_popQueues]
    by_cases hu : u = a
    · subst hu; simp [hl.1]
    · simp [hu]

/-! ### Counting and the run -/

/-- An engine but for its counters. -/
def uncounted (e : Engine) : Engine := { e with ctr := [] }

/-- Counting changes the counters of one engine and nothing else. -/
def Counts (s s' : State) (key : Nat) : Prop :=
  { s' with engines := s.engines } = s ∧ (∀ e, e ≠ key → s'.engine e = s.engine e) ∧
  uncounted (s'.engine key) = uncounted (s.engine key)

theorem Counts.refl (s : State) (key : Nat) : Counts s s key := ⟨rfl, fun _ _ => rfl, rfl⟩

theorem Counts.trans {s s' s'' : State} {key : Nat} (h : Counts s s' key) (h' : Counts s' s'' key) : Counts s s'' key :=
  ⟨(congrArg (fun x : State => { x with engines := s.engines }) h'.1 :).trans h.1,
   fun e he => (h'.2.1 e he).trans (h.2.1 e he), h'.2.2.trans h.2.2⟩

/-- An event counts at the engine of its unit (R395). -/
theorem countEvent_spec (s : State) (unit src n : Nat) : Counts s (s.countEvent unit src n) (unitEngine unit) := by
  refine ite_keeps (fun s' : State => Counts s s' (unitEngine unit)) (.refl ..) ?_
  refine foldl_keeps (fun s' : State => Counts s s' (unitEngine unit)) _ _ s (.refl ..) fun s' j h => ?_
  refine ite_keeps (fun s' : State => Counts s s' (unitEngine unit)) (h.trans ⟨rfl, fun e he => ?_, ?_⟩) h
  · rw [engine_modEngine, if_neg he]
  · rw [engine_modEngine, if_pos rfl]; rfl

@[simp] theorem countEvent_threads (s : State) (unit src n : Nat) : (s.countEvent unit src n).threads = s.threads :=
  (congrArg State.threads (countEvent_spec s unit src n).1 :)

@[simp] theorem countEvent_focus (s : State) (unit src n : Nat) : (s.countEvent unit src n).focus = s.focus :=
  (congrArg State.focus (countEvent_spec s unit src n).1 :)

/-- What counting leaves of an engine: all but its counters. -/
theorem Counts.engine {s s' : State} {key : Nat} (h : Counts s s' key) (e : Nat) :
    uncounted (s'.engine e) = uncounted (s.engine e) := by
  by_cases he : e = key
  · subst he; exact h.2.2
  · rw [h.2.1 e he]

theorem countFlags_spec (s : State) (f : W32) : Counts s (s.countFlags f) (unitEngine s.focus) := by
  have key : Counts s (s.countFlags f) (unitEngine s.focus) ∧ (s.countFlags f).focus = s.focus := by
    refine foldl_keeps (fun s' : State => Counts s s' (unitEngine s.focus) ∧ s'.focus = s.focus) _ _ s ⟨.refl .., rfl⟩
      fun s' j h => ?_
    split
    · have hc := countEvent_spec s' s'.focus (0x10 + j) 1
      rw [h.2] at hc
      rw [h.2]
      exact ⟨h.1.trans hc, by rw [countEvent_focus]; exact h.2⟩
    · exact h
  exact key.1

/-- What an effect may do to the engines while its threads stay in the run: counters and trace rings change, of the unit in
focus and of its engine (R394, R395). -/
def EnginesKept (s s' : State) : Prop :=
  (∀ e, e ≠ s.focus → e ≠ unitEngine s.focus → s'.engine e = s.engine e) ∧
  ∀ e, unlogged (s'.engine e) = unlogged (s.engine e)

theorem EnginesKept.of_counts {s s' : State} (h : Counts s s' (unitEngine s.focus)) : EnginesKept s s' :=
  ⟨fun e _ he => h.2.1 e he, fun e => (congrArg (fun x : Engine => { x with ring := [], written := 0 }) (h.engine e) :)⟩

/-- From an effect that changes single threads to the next state of the instruction: with the engines kept and every thread
of the run changed as `E` says, the run goes on and each thread holds what `E` makes of it. -/
theorem effect_of_act {sem : Sem} {k : Ins} {s : State} {r : Run} {lead : Nat} {go : List Nat}
    {P : Nat → Thread → Thread → Prop} (E : Nat → Thread → Thread)
    (hsl : k.w.sl = false) (hrun : s.run? = some r) (hgo : s.activeSet r k = go) (hne : go ≠ []) (hcount : r.count < 24)
    (hf : (sem.act k lead go (s.advance k)).focus = s.focus)
    (he : EnginesKept s (sem.act k lead go (s.advance k)))
    (ht : ∀ u, (sem.act k lead go (s.advance k)).thread? u =
      if u ∈ go then ((s.advance k).thread? u).map (E u) else (s.advance k).thread? u)
    (hE : ∀ u th, (E u th).home = th.home ∧ (E u th).oq = th.oq ∧ (E u th).sliced = th.sliced)
    (hP : ∀ u ∈ go, ∀ th th', s.thread? u = some th →
      { th' with oq := th.oq } = E u { th with pc := r.pc + BitVec.ofNat 64 k.len } → P u th th') :
    Effect s (s.perform sem k lead go) k r go P := by
  have hsub : ∀ u ∈ go, u ∈ r.members := fun u hu => (mem_activeSet.1 (hgo ▸ hu)).1
  have hiss : ∀ u ∈ go, s.issuing u = true := fun u hu => (mem_activeSet.1 (hgo ▸ hu)).2.1
  have hnd : go.Nodup := hgo ▸ nodup_activeSet s r k
  generalize hs2 : sem.act k lead go (s.advance k) = s2 at hf he ht
  -- homes do not change
  have hadv := thread?_advance k hrun
  have hhome : ∀ u, (s2.thread? u).map Thread.home = (s.thread? u).map Thread.home := by
    intro u
    rw [ht, hadv]
    cases hu : s.thread? u with
    | none => simp
    | some th => by_cases h1 : u ∈ go <;> by_cases h2 : u ∈ r.members <;> simp [h1, h2, hE]
  let idle := distinct (r.members.filter fun t => s.issuing t && !go.contains t)
  have hidle : ∀ u, u ∈ idle ↔ u ∈ r.members ∧ s.issuing u = true ∧ u ∉ go := by
    intro u; simp [idle, mem_distinct]
  have hnd2 : (go ++ idle).Nodup := by
    rw [List.nodup_append]
    exact ⟨hnd, nodup_distinct _, fun a ha b hb hab => ((hidle b).1 hb).2.2 (hab ▸ ha)⟩
  obtain ⟨hp1, hp2⟩ := foldl_popQueues hnd2 s.queueTop k s2
  generalize hs3 : (go ++ idle).foldl (popQueues s.queueTop k) s2 = s3 at hp1 hp2
  have hf3 : s3.focus = s.focus := (congrArg State.focus hp1 :).trans hf
  have he3 : ∀ e, s3.engine e = s2.engine e := fun e => (congrArg (fun x : State => x.engine e) hp1 :)
  have hc := countEvent_spec s3 s.focus 1 1
  have hperf : s.perform sem k lead go = (s3.countEvent s.focus 1 1).retire k := by
    simp only [perform, hs2, hf, hrun, Option.elim, hsl, Bool.false_eq_true, if_false]
    rw [← hs3]
  have hrun3 : (s3.countEvent s.focus 1 1).run? = some r := by
    have h1 : ((s3.countEvent s.focus 1 1).engine s.focus).run = (s.engine s.focus).run := by
      refine (congrArg Engine.run (hc.engine s.focus) :).trans ?_
      rw [he3]
      exact (congrArg Engine.run (he.2 s.focus) :)
    have h0 : (s.engine s.focus).run = some r := hrun
    show ((s3.countEvent s.focus 1 1).engine (s3.countEvent s.focus 1 1).focus).run = some r
    rw [countEvent_focus, hf3, h1]; exact h0
  have hmem : r.members.isEmpty = false := by
    cases hm : r.members with
    | nil => cases go with
      | nil => exact absurd rfl hne
      | cons a l => have := hsub a (by simp); simp [hm] at this
    | cons => rfl
  have hthr : ∀ u, (s.perform sem k lead go).thread? u = s3.thread? u := by
    intro u
    rw [hperf]
    simp only [retire, retireAs, hrun3]
    show Table.get? _ u = Table.get? _ u
    rw [modEngine_threads, countEvent_threads]
  have hx : (decide (24 ≤ r.count)) = false := by simpa using hcount
  have hret : (s3.countEvent s.focus 1 1).retire k =
      (s3.countEvent s.focus 1 1).modEngine s.focus fun e =>
        if k.w.e then
          { e with run := none
                   yielded := if r.yield || k.w.y || k.op == .yield then e.yielded.add r.group else e.yielded }
        else
          { e with run := some { r with pc := r.pc + BitVec.ofNat 64 k.len, count := r.count + 1
                                        addFamily := k.op == .add || k.op == .sub || k.op == .addc || k.op == .subb
                                        yield := r.yield || k.w.y || k.op == .yield, lead := none } } := by
    simp only [retire, retireAs, hrun3, countEvent_focus, hf3, hmem, hx, Bool.or_false, Bool.or_assoc]
  have heng : ∀ e, (s.perform sem k lead go).engine e =
      if e = s.focus then
        (if k.w.e then
          { (s3.countEvent s.focus 1 1).engine s.focus with
            run := none
            yielded := if r.yield || k.w.y || k.op == .yield then
                ((s3.countEvent s.focus 1 1).engine s.focus).yielded.add r.group
              else ((s3.countEvent s.focus 1 1).engine s.focus).yielded }
        else
          { (s3.countEvent s.focus 1 1).engine s.focus with
            run := some { r with pc := r.pc + BitVec.ofNat 64 k.len, count := r.count + 1
                                 addFamily := k.op == .add || k.op == .sub || k.op == .addc || k.op == .subb
                                 yield := r.yield || k.w.y || k.op == .yield, lead := none } })
      else (s3.countEvent s.focus 1 1).engine e := by
    intro e
    rw [hperf, hret, engine_modEngine]
  have hfoc : (s.perform sem k lead go).focus = s.focus := by
    rw [hperf, hret, modEngine_focus, countEvent_focus, hf3]
  have hunc : uncounted ((s3.countEvent s.focus 1 1).engine s.focus) = uncounted (s2.engine s.focus) := by
    rw [hc.engine, he3]
  have hyld : (s2.engine s.focus).yielded = (s.engine s.focus).yielded := (congrArg Engine.yielded (he.2 s.focus) :)
  have hyld2 : ((s3.countEvent s.focus 1 1).engine s.focus).yielded = (s2.engine s.focus).yielded :=
    (congrArg Engine.yielded hunc :)
  refine ⟨⟨fun u hu => ?_, fun e hne' hne2 => ?_, fun e hne' => ?_, ?_, ?_, ?_⟩, fun u hu th hth => ?_⟩
  · have h1 : u ∉ go := fun h => hu (hsub u h)
    have h2 : u ∉ go ++ idle := by simp [h1, hidle, hu]
    rw [hthr, hp2, if_neg h2, ht, if_neg h1, hadv, if_neg hu]
  · rw [heng, if_neg hne', hc.2.1 e hne2, he3, he.1 e hne' hne2]
  · rw [heng, if_neg hne', ← he.2 e, ← he3]
    exact (congrArg (fun x : Engine => { x with ring := [], written := 0 }) (hc.engine e) :)
  · have h2 := he.2 s.focus
    have h1 := hunc
    rw [heng, if_pos rfl]
    generalize (s3.countEvent s.focus 1 1).engine s.focus = x at h1 ⊢
    generalize s2.engine s.focus = y at h1 h2
    generalize s.engine s.focus = z at h2 ⊢
    obtain ⟨⟩ := x; obtain ⟨⟩ := y; obtain ⟨⟩ := z
    simp [uncounted, unlogged] at h1 h2 ⊢
    split <;> simp [h1, h2]
  · simp only [run?, hfoc, heng, if_true]
    split <;> rfl
  · rw [heng, if_pos rfl, ← hyld, ← hyld2]
    cases k.w.e <;> simp
  · have h0 := hp2 u
    rw [← hthr, ht, hadv, hth, if_pos hu, homeOf_congr hhome] at h0
    by_cases h1 : u ∈ go
    · simp only [h1, if_true, List.mem_append, true_or, Option.map_some] at h0
      refine ⟨_, h0, fun _ => ⟨?_, ?_⟩, fun h => absurd h1 h⟩
      · obtain ⟨e1, e2, e3⟩ := hE u { th with pc := r.pc + BitVec.ofNat 64 k.len }
        have := popped_popThread k (s.homeOf u).isWave (s.queueTop u) (E u { th with pc := r.pc + BitVec.ofNat 64 k.len })
        simpa [Popped, e2, e3] using this
      · refine hP u h1 th _ hth ?_
        have e2 := (hE u { th with pc := r.pc + BitVec.ofNat 64 k.len }).2.1
        generalize E u { th with pc := r.pc + BitVec.ofNat 64 k.len } = x at e2 ⊢
        simp only at e2
        exact (congrArg (fun q => ({ x with oq := q } : Thread)) e2.symm : _)
    · simp only [h1, if_false, List.mem_append, false_or, Option.map_some, hidle, hu, true_and, not_false_eq_true,
        and_true] at h0
      by_cases h3 : s.issuing u = true
      · simp only [h3, if_true] at h0
        refine ⟨_, h0, fun h => absurd h h1, fun _ => ⟨rfl, fun _ => ?_, fun h => absurd (h3.symm.trans h) (by simp)⟩⟩
        exact popped_popThread k (s.homeOf u).isWave (s.queueTop u) { th with pc := r.pc + BitVec.ofNat 64 k.len }
      · simp only [h3] at h0
        exact ⟨_, h0, fun h => absurd h h1, fun _ => ⟨rfl, fun h => absurd h h3, fun _ => rfl⟩⟩

end State

end Sys2Proof.Machine
end

