-- ==== Sys2Proof/Laws/Agree.lean ====
section
/-!
SUPPORT. What an instruction reads of a thread depends on that thread, on the thread it is the access slice of, and on
nothing of any other thread or of a program counter.
-/

namespace Sys2Proof.Machine

/-- A thread but for its program counter. -/
def Thread.unplaced (th : Thread) : Thread := { th with pc := 0 }

namespace State

/-- Two states agree about a thread: they differ in threads alone, and not in this one or the one it is the access slice
of, but for their program counters. -/
def Agree (s s' : State) (t : Nat) : Prop :=
  { s' with threads := s.threads } = s ∧
  (s'.thread? t).map Thread.unplaced = (s.thread? t).map Thread.unplaced ∧
  ∀ m, (s.thread? t).map Thread.home = some (.skidder m) →
    (s'.thread? m).map Thread.unplaced = (s.thread? m).map Thread.unplaced

variable {s s' : State} {t : Nat}

theorem Agree.outside (h : Agree s s' t) : ∃ T, s' = { s with threads := T } :=
  ⟨s'.threads, by
    have := h.1
    rw [← this]⟩

theorem Agree.get {α : Type} (h : Agree s s' t) (f : Thread → α) (hf : ∀ th, f th = f th.unplaced) :
    (s'.thread? t).map f = (s.thread? t).map f := by
  have := congrArg (Option.map f) h.2.1
  simpa [Function.comp_def, ← hf] using this

theorem Agree.main {α : Type} (h : Agree s s' t) (f : Thread → α) (hf : ∀ th, f th = f th.unplaced) (m : Nat)
    (hm : (s.thread? t).map Thread.home = some (.skidder m)) : (s'.thread? m).map f = (s.thread? m).map f := by
  have := congrArg (Option.map f) (h.2.2 m hm)
  simpa [Function.comp_def, ← hf] using this

theorem Agree.homeOf (h : Agree s s' t) : s'.homeOf t = s.homeOf t := by
  have h1 := h.get Thread.home fun _ => rfl
  unfold State.homeOf
  rw [h1]
  split
  · rename_i m hm
    rw [h.main Thread.home (fun _ => rfl) m hm]
  · rfl
  · rfl

theorem Agree.mainOf (h : Agree s s' t) : s'.mainOf t = s.mainOf t := by
  unfold State.mainOf; rw [h.get Thread.home fun _ => rfl]

/-- Either no such thread in both, or both hold the thread with program counters of their own. -/
theorem Agree.cases (h : Agree s s' t) :
    (s.thread? t = none ∧ s'.thread? t = none) ∨
    ∃ th pc, s.thread? t = some th ∧ s'.thread? t = some { th with pc := pc } := by
  have h1 := h.2.1
  cases hs : s.thread? t with
  | none =>
    left
    rw [hs] at h1
    cases hs' : s'.thread? t with
    | none => exact ⟨rfl, rfl⟩
    | some x => simp [hs'] at h1
  | some th =>
    right
    rw [hs] at h1
    cases hs' : s'.thread? t with
    | none => simp [hs'] at h1
    | some x =>
      refine ⟨th, x.pc, rfl, ?_⟩
      simp only [hs', Option.map_some, Option.some.injEq] at h1
      have : x = { x.unplaced with pc := x.pc } := rfl
      rw [this, h1]
      rfl

theorem Agree.isQueue (h : Agree s s' t) (i : Ins) (f : RFile) (n : Nat) : s'.isQueue t i f n = s.isQueue t i f n := by
  unfold State.isQueue
  rcases h.cases with ⟨h1, h2⟩ | ⟨th, pc, h1, h2⟩ <;> simp [h1, h2]

theorem Agree.queueEntry (h : Agree s s' t) (i : Ins) (q : Fld) (n : Nat) :
    s'.queueEntry t i q n = s.queueEntry t i q n := by
  unfold State.queueEntry
  rw [h.homeOf]
  rcases h.cases with ⟨h1, h2⟩ | ⟨th, pc, h1, h2⟩ <;> simp [h1, h2]

theorem readK_outside (T : Table Thread) (m n : Nat)
    (hm : (({ s with threads := T } : State).thread? m).map Thread.unplaced = (s.thread? m).map Thread.unplaced) :
    ({ s with threads := T } : State).readK m n = s.readK m n := by
  unfold State.readK
  cases h1 : s.thread? m with
  | none =>
    rw [h1] at hm
    cases h2 : ({ s with threads := T } : State).thread? m with
    | none => rfl
    | some x => simp [h2] at hm
  | some th =>
    rw [h1] at hm
    cases h2 : ({ s with threads := T } : State).thread? m with
    | none => simp [h2] at hm
    | some x =>
      simp only [h2, Option.map_some, Option.some.injEq] at hm
      have ha : x.home = th.home := (congrArg Thread.home hm :)
      have hb : x.k = th.k := (congrArg Thread.k hm :)
      simp only [ha, hb]
      rfl

theorem Agree.readK (h : Agree s s' t) (n : Nat) : s'.readK t n = s.readK t n := by
  have h2 := h.2.1
  obtain ⟨T, rfl⟩ := h.outside
  exact readK_outside T _ n h2

theorem Agree.readReg (h : Agree s s' t) (i : Ins) (q : Fld) (f : RFile) (n : Nat) :
    s'.readReg t i q f n = s.readReg t i q f n := by
  have hk := h.readK n
  unfold State.readReg
  rw [h.isQueue, h.queueEntry, hk]
  rcases h.cases with ⟨h1, h2⟩ | ⟨th, pc, h1, h2⟩
  · simp only [h1, h2]
  · rw [h1, h2]; rfl

theorem Agree.regsVal (h : Agree s s' t) (i : Ins) (q : Fld) (f : RFile) (idx n : Nat) :
    s'.regsVal t i q f idx n = s.regsVal t i q f idx n := by
  induction n generalizing idx with
  | zero => rfl
  | succ n ih => simp only [State.regsVal, h.readReg, ih]

theorem Agree.srcVal (h : Agree s s' t) (i : Ins) (f : Fld) : s'.srcVal t i f = s.srcVal t i f := by
  unfold State.srcVal; rw [h.homeOf]; split <;> simp [h.regsVal]

theorem Agree.identityWord (h : Agree s s' t) (n : Nat) : s'.identityWord t n = s.identityWord t n := by
  have hh := h.homeOf
  unfold State.identityWord
  rw [hh]
  have hl : ∀ l, s'.launchId l = s.launchId l := by
    obtain ⟨T, rfl⟩ := h.outside; intro l; rfl
  rcases h.cases with ⟨h1, h2⟩ | ⟨th, pc, h1, h2⟩ <;> simp [h1, h2, hl]

theorem Agree.constWord (h : Agree s s' t) (n : Nat) : s'.constWord t n = s.constWord t n := by
  unfold State.constWord
  rw [h.homeOf, h.identityWord]
  obtain ⟨T, rfl⟩ := h.outside
  rfl

theorem Agree.wordB (h : Agree s s' t) (i : Ins) : s'.wordB t i = s.wordB t i := by
  unfold State.wordB
  rw [h.homeOf, h.constWord]
  simp only [h.readReg]

theorem Agree.intB (h : Agree s s' t) (i : Ins) : s'.intB t i = s.intB t i := by
  unfold State.intB; rw [h.wordB, h.srcVal, h.constWord]

theorem Agree.intValue (h : Agree s s' t) (i : Ins) : s'.intValue i t = s.intValue i t := by
  unfold State.intValue
  rw [h.srcVal, h.srcVal, h.intB, h.wordB, h.get Thread.carry fun _ => rfl]

theorem Agree.intCarry (h : Agree s s' t) (i : Ins) : s'.intCarry i t = s.intCarry i t := by
  unfold State.intCarry
  rw [h.srcVal, h.intB, h.get Thread.carry fun _ => rfl]

theorem Agree.selTakes (h : Agree s s' t) (i : Ins) : s'.selTakes i t = s.selTakes i t := by
  unfold State.selTakes
  rw [h.get (fun th => (th.readP (i.c % 8)).val) fun _ => rfl]

theorem Agree.leaValue (h : Agree s s' t) (i : Ins) : s'.leaValue i t = s.leaValue i t := by
  unfold State.leaValue; rw [h.srcVal, h.intB]

theorem Agree.leamXY (h : Agree s s' t) (i : Ins) : s'.leamXY i t = s.leamXY i t := by
  unfold State.leamXY; rw [h.srcVal, h.homeOf]

theorem Agree.fltA (h : Agree s s' t) (i : Ins) (f : Nat) : s'.fltA i t f = s.fltA i t f := by
  unfold State.fltA; rw [h.srcVal]

theorem Agree.fltB (h : Agree s s' t) (i : Ins) (f : Nat) : s'.fltB i t f = s.fltB i t f := by
  unfold State.fltB; simp only [h.srcVal, h.constWord]

theorem Agree.fltC (h : Agree s s' t) (i : Ins) (f : Nat) : s'.fltC i t f = s.fltC i t f := by
  unfold State.fltC; simp only [h.srcVal]

/-- After the program counters have moved on, a state agrees with the one before about every thread. -/
theorem agree_advance {r : Run} (k : Ins) (h : s.run? = some r) (t : Nat) : Agree s (s.advance k) t := by
  have hm : ∀ u, ((s.advance k).thread? u).map Thread.unplaced = (s.thread? u).map Thread.unplaced := by
    intro u; rw [thread?_advance k h]; split
    · cases s.thread? u <;> rfl
    · rfl
  exact ⟨advance_threads k h, hm t, fun m _ => hm m⟩

end State

end Sys2Proof.Machine
end

