-- ==== Sys2Proof/Laws/Dispatch.lean ====
section
/-!
SUPPORT. Every instruction word is issued with its operation's meaning.
-/

namespace Sys2Proof.Machine

open Sys2Proof.Safety

/-- An instruction's meaning is one issue of its operation (R139). -/
theorem exec_eq_issue (i : Instr) (k : Ins) (s : State) (h : i.ins = some k) : exec i s = issue (semOf k.op) k s :=
  match i, h with
  | .addB32 _, rfl => rfl
  | .addX96 _, rfl => rfl
  | .subB32 _, rfl => rfl
  | .subX96 _, rfl => rfl
  | .addcB32 _, rfl => rfl
  | .addcX96 _, rfl => rfl
  | .subbB32 _, rfl => rfl
  | .subbX96 _, rfl => rfl
  | .mulLoB32 _, rfl => rfl
  | .mulLoX96 _, rfl => rfl
  | .mulHiB32 _, rfl => rfl
  | .mulHiX96 _, rfl => rfl
  | .mulwB32 _, rfl => rfl
  | .mulwX96 _, rfl => rfl
  | .mad _, rfl => rfl
  | .divB32 _, rfl => rfl
  | .divX96 _, rfl => rfl
  | .remB32 _, rfl => rfl
  | .remX96 _, rfl => rfl
  | .negB32 _, rfl => rfl
  | .negX96 _, rfl => rfl
  | .absB32 _, rfl => rfl
  | .absX96 _, rfl => rfl
  | .minB32 _, rfl => rfl
  | .minX96 _, rfl => rfl
  | .maxB32 _, rfl => rfl
  | .maxX96 _, rfl => rfl
  | .andB32 _, rfl => rfl
  | .andX96 _, rfl => rfl
  | .orB32 _, rfl => rfl
  | .orX96 _, rfl => rfl
  | .xorB32 _, rfl => rfl
  | .xorX96 _, rfl => rfl
  | .notB32 _, rfl => rfl
  | .notX96 _, rfl => rfl
  | .andnB32 _, rfl => rfl
  | .andnX96 _, rfl => rfl
  | .shlB32 _, rfl => rfl
  | .shlX96 _, rfl => rfl
  | .shrB32 _, rfl => rfl
  | .shrX96 _, rfl => rfl
  | .sraB32 _, rfl => rfl
  | .sraX96 _, rfl => rfl
  | .rolB32 _, rfl => rfl
  | .rolX96 _, rfl => rfl
  | .rorB32 _, rfl => rfl
  | .rorX96 _, rfl => rfl
  | .bfeB32 _, rfl => rfl
  | .bfeX96 _, rfl => rfl
  | .bfi _, rfl => rfl
  | .popcB32 _, rfl => rfl
  | .popcX96 _, rfl => rfl
  | .clzB32 _, rfl => rfl
  | .clzX96 _, rfl => rfl
  | .ctzB32 _, rfl => rfl
  | .ctzX96 _, rfl => rfl
  | .brevB32 _, rfl => rfl
  | .brevX96 _, rfl => rfl
  | .sel _, rfl => rfl
  | .movB32 _, rfl => rfl
  | .movX96 _, rfl => rfl
  | .movk _, rfl => rfl
  | .lit (.b32 _), rfl => rfl
  | .lit (.x96 _), rfl => rfl
  | .leaB32 _, rfl => rfl
  | .leaX96 _, rfl => rfl
  | .leam _, rfl => rfl
  | .cmpB32 _, rfl => rfl
  | .cmpX96 _, rfl => rfl
  | .pandB32 _, rfl => rfl
  | .pandX96 _, rfl => rfl
  | .porB32 _, rfl => rfl
  | .porX96 _, rfl => rfl
  | .pxorB32 _, rfl => rfl
  | .pxorX96 _, rfl => rfl
  | .pnotB32 _, rfl => rfl
  | .pnotX96 _, rfl => rfl
  | .nopB32 _, rfl => rfl
  | .nopX96 _, rfl => rfl
  | .bra _, rfl => rfl
  | .brx _, rfl => rfl
  | .jmp _, rfl => rfl
  | .call _, rfl => rfl
  | .retB32 _, rfl => rfl
  | .retX96 _, rfl => rfl
  | .loop _, rfl => rfl
  | .syncwB32 _, rfl => rfl
  | .syncwX96 _, rfl => rfl
  | .reform _, rfl => rfl
  | .reformS _, rfl => rfl
  | .yieldB32 _, rfl => rfl
  | .yieldX96 _, rfl => rfl
  | .haltB32 _, rfl => rfl
  | .haltX96 _, rfl => rfl
  | .haltR _, rfl => rfl
  | .wait _, rfl => rfl
  | .send _, rfl => rfl
  | .sendT _, rfl => rfl
  | .sendb _, rfl => rfl
  | .post _, rfl => rfl
  | .spawn _, rfl => rfl
  | .trap _, rfl => rfl
  | .eretB32 _, rfl => rfl
  | .eretX96 _, rfl => rfl
  | .rdcr _, rfl => rfl
  | .wrcr _, rfl => rfl
  | .femark _, rfl => rfl
  | .fefill _, rfl => rfl
  | .trace _, rfl => rfl
  | .cntrFold _, rfl => rfl
  | .faddB32 _, rfl => rfl
  | .faddX96 _, rfl => rfl
  | .fsubB32 _, rfl => rfl
  | .fsubX96 _, rfl => rfl
  | .fmulB32 _, rfl => rfl
  | .fmulX96 _, rfl => rfl
  | .ffma _, rfl => rfl
  | .fminB32 _, rfl => rfl
  | .fminX96 _, rfl => rfl
  | .fmaxB32 _, rfl => rfl
  | .fmaxX96 _, rfl => rfl
  | .fabsB32 _, rfl => rfl
  | .fabsX96 _, rfl => rfl
  | .fnegB32 _, rfl => rfl
  | .fnegX96 _, rfl => rfl
  | .fcmpB32 _, rfl => rfl
  | .fcmpX96 _, rfl => rfl
  | .fclass _, rfl => rfl
  | .frnd _, rfl => rfl
  | .frcpB32 _, rfl => rfl
  | .frcpX96 _, rfl => rfl
  | .frsqB32 _, rfl => rfl
  | .frsqX96 _, rfl => rfl
  | .fsqrtB32 _, rfl => rfl
  | .fsqrtX96 _, rfl => rfl
  | .fexp2B32 _, rfl => rfl
  | .fexp2X96 _, rfl => rfl
  | .flog2B32 _, rfl => rfl
  | .flog2X96 _, rfl => rfl
  | .fsinB32 _, rfl => rfl
  | .fsinX96 _, rfl => rfl
  | .fcosB32 _, rfl => rfl
  | .fcosX96 _, rfl => rfl
  | .ftanhB32 _, rfl => rfl
  | .ftanhX96 _, rfl => rfl
  | .cvt _, rfl => rfl
  | .gcvt _, rfl => rfl
  | .gcmp _, rfl => rfl
  | .gclass _, rfl => rfl
  | .dot4 _, rfl => rfl
  | .vadd _, rfl => rfl
  | .vsub _, rfl => rfl
  | .vmul _, rfl => rfl
  | .vmad _, rfl => rfl
  | .vmin _, rfl => rfl
  | .vmax _, rfl => rfl
  | .shfl _, rfl => rfl
  | .ballot _, rfl => rfl
  | .vote _, rfl => rfl
  | .rand _, rfl => rfl
  | .qxmax _, rfl => rfl
  | .qscale _, rfl => rfl
  | .qcvt _, rfl => rfl
  | .ldB32 _, rfl => rfl
  | .ldX96 _, rfl => rfl
  | .stB32 _, rfl => rfl
  | .stX96 _, rfl => rfl
  | .ldg _, rfl => rfl
  | .sts _, rfl => rfl
  | .pref _, rfl => rfl
  | .atom _, rfl => rfl
  | .fence _, rfl => rfl
  | .barArr _, rfl => rfl
  | .barWait _, rfl => rfl
  | .barSync _, rfl => rfl
  | .cvsign _, rfl => rfl
  | .cvwait _, rfl => rfl
  | .bndSet _, rfl => rfl
  | .flumeCopy _, rfl => rfl
  | .flumeTile _, rfl => rfl
  | .flumeWait _, rfl => rfl
  | .flumeCvt _, rfl => rfl
  | .gset _, rfl => rfl
  | .gclr _, rfl => rfl
  | .tspawn _, rfl => rfl
  | .trange _, rfl => rfl
  | .tdone _, rfl => rfl
  | .tabort _, rfl => rfl
  | .tstamp _, rfl => rfl
  | .rayEnq _, rfl => rfl
  | .rayBox4 _, rfl => rfl
  | .rayTri _, rfl => rfl
  | .rayNext _, rfl => rfl
  | .rayHit _, rfl => rfl
  | .rayFin _, rfl => rfl
  | .primEmit _, rfl => rfl
  | .primEmitClose _, rfl => rfl
  | .visRead _, rfl => rfl
  | .texReq _, rfl => rfl
  | .blkDcmp _, rfl => rfl
  | .tld _, rfl => rfl
  | .tldt _, rfl => rfl
  | .tst _, rfl => rfl
  | .tzero _, rfl => rfl
  | .tgather _, rfl => rfl
  | .nzscan _, rfl => rfl
  | .mma _, rfl => rfl
  | .mmaS _, rfl => rfl
  | .accMov _, rfl => rfl
  | .accLd _, rfl => rfl
  | .accSt _, rfl => rfl
  | .accCvt _, rfl => rfl
  | .accZero _, rfl => rfl

/-- With nothing in its way an instruction answers the state its effect leaves (R139). -/
theorem exec_clear {i : Instr} {k : Ins} {s : State} {r : Run} {lead : Nat} {go : List Nat} (hi : i.ins = some k)
    (h : Clear (semOf k.op) k s r lead go) : exec i s = .next (s.perform (semOf k.op) k lead go) := by
  rw [exec_eq_issue i k s hi, issue_clear h]

end Sys2Proof.Machine
end

