-- ==== Sys2Proof/Laws/Encode.lean ====
section
/-!
SUPPORT. Encoding and decoding words: reading the fields of an encoded word gives the fields it was built from, for both
forms, with and without a literal.
-/

namespace Sys2Proof

/-- Reading a base word's fields back gives the fields it was built from (R117). -/
theorem B32.ofWord_word (m : Nat) (w : B32) : B32.ofWord (w.word m) w.lit = w := by
  obtain ⟨b, a, d, g, e, lit⟩ := w
  simp only [B32.ofWord, B32.word, B32.mk.injEq, and_true]
  generalize (if lit.isSome = true then 0b10#2 else 0b00#2) = l
  refine ⟨?_, ?_, ?_, ?_, ?_⟩ <;> first
    | (ext i hi; simp only [BitVec.getElem_extractLsb', BitVec.getLsbD_append]; interval_cases i <;> simp)
    | (simp only [BitVec.getLsbD_append]; simp)

/-- A base word shows its major (R116). -/
theorem majorOf_word (m : Nat) (w : B32) : majorOf (w.word m) = m % 256 := by
  have : (w.word m).extractLsb' 3 8 = BitVec.ofNat 8 m := by
    unfold B32.word
    generalize (if w.lit.isSome = true then 0b10#2 else 0b00#2) = l
    ext i hi
    simp only [BitVec.getElem_extractLsb', BitVec.getLsbD_append]
    interval_cases i <;> simp
  simp [majorOf, this]

/-- A base word's LEN says whether a literal follows (R116). -/
theorem len_word (m : Nat) (w : B32) : (w.word m).extractLsb' 0 2 = if w.lit.isSome then 0b10#2 else 0b00#2 := by
  unfold B32.word
  generalize (if w.lit.isSome = true then 0b10#2 else 0b00#2) = l
  ext i hi
  simp only [BitVec.getElem_extractLsb', BitVec.getLsbD_append]
  interval_cases i <;> simp

/-- Reading an extended instruction's fields back gives the fields it was built from (R118). -/
theorem X96.ofWords_words (m : Nat) (w : X96) : X96.ofWords (w.word0 m) w.word1 w.word2 w.lit = w := by
  obtain ⟨rsv, kb, wu, sl, em, ft, y, stall, hint, x, c, b, a, d, ty, minor, gc, g2n, g2, g1n, g1, e, lit⟩ := w
  simp only [X96.ofWords, X96.word0, X96.word1, X96.word2, X96.mk.injEq, and_true]
  generalize (if lit.isSome = true then 0b11#2 else 0b01#2) = l
  refine ⟨?_, ?_, ?_, ?_, ?_, ?_, ?_, ?_, ?_, ?_, ?_, ?_, ?_, ?_, ?_, ?_, ?_, ?_, ?_, ?_, ?_, ?_⟩ <;> first
    | (ext i hi; simp only [BitVec.getElem_extractLsb', BitVec.getLsbD_append]; interval_cases i <;> simp)
    | (simp only [BitVec.getLsbD_append]; simp)

/-- An extended instruction's first word shows its major (R116). -/
theorem majorOf_word0 (m : Nat) (w : X96) : majorOf (w.word0 m) = m % 256 := by
  have : (w.word0 m).extractLsb' 3 8 = BitVec.ofNat 8 m := by
    unfold X96.word0
    generalize (if w.lit.isSome = true then 0b11#2 else 0b01#2) = l
    ext i hi
    simp only [BitVec.getElem_extractLsb', BitVec.getLsbD_append]
    interval_cases i <;> simp
  simp [majorOf, this]

/-- An extended instruction's LEN says whether a literal follows (R116). -/
theorem len_word0 (m : Nat) (w : X96) : (w.word0 m).extractLsb' 0 2 = if w.lit.isSome then 0b11#2 else 0b01#2 := by
  unfold X96.word0
  generalize (if w.lit.isSome = true then 0b11#2 else 0b01#2) = l
  ext i hi
  simp only [BitVec.getElem_extractLsb', BitVec.getLsbD_append]
  interval_cases i <;> simp

/-- A literal is what its two words make (R119). -/
theorem W64.ofWords_split (l : W64) : W64.ofWords l.lo l.hi = l := by
  unfold W64.ofWords W64.lo W64.hi
  ext i hi
  simp only [BitVec.getElem_append, BitVec.getElem_extractLsb']
  split
  · simp [BitVec.getLsbD_eq_getElem hi]
  · rw [show 32 + (i - 32) = i by omega, BitVec.getLsbD_eq_getElem hi]

/-- A word's bytes read as that word (R8). -/
theorem wordsOfBytes_bytesOfWord (w : W32) (r : List Byte) :
    wordsOfBytes (bytesOfWord w ++ r) = w :: wordsOfBytes r := by
  simp only [bytesOfWord, List.cons_append, List.nil_append, wordsOfBytes, wordOfBytes, List.cons.injEq, and_true]
  ext i hi
  simp only [BitVec.getElem_append, BitVec.getElem_extractLsb']
  interval_cases i <;> simp

/-- The bytes of words read as those words (R8). -/
theorem wordsOfBytes_flatMap (ws : List W32) (r : List Byte) :
    wordsOfBytes (ws.flatMap bytesOfWord ++ r) = ws ++ wordsOfBytes r := by
  induction ws with
  | nil => rfl
  | cons w ws ih => rw [List.flatMap_cons, List.append_assoc, wordsOfBytes_bytesOfWord, ih]; rfl

/-- A word has four bytes. -/
theorem length_flatMap_bytesOfWord (ws : List W32) : (ws.flatMap bytesOfWord).length = 4 * ws.length := by
  induction ws with
  | nil => rfl
  | cons w ws ih => rw [List.flatMap_cons, List.length_append, ih]; simp [bytesOfWord]; omega

/-- A base word of a row decodes to the row's instruction (R117, R119). -/
theorem decodeWords_b32 (w : B32) (m : Nat) (f : B32 → Instr) (hm : m < 256) (hf : rowB32 m = some f) (r : List W32) :
    decodeWords (w.word m :: (litWords w.lit ++ r)) = .ok (f w) := by
  have e := B32.ofWord_word m w
  have hmm : majorOf (w.word m) = m := by rw [majorOf_word, Nat.mod_eq_of_lt hm]
  unfold decodeWords
  simp only [len_word]
  cases h : w.lit with
  | none => rw [h] at e; simp [litWords, decodeB32, hmm, hf, e]
  | some l => rw [h] at e; simp [litWords, decodeB32, hmm, hf, W64.ofWords_split, e]

/-- An extended instruction of a row decodes to the row's instruction (R118, R119). -/
theorem decodeWords_x96 (w : X96) (m : Nat) (f : X96 → Instr) (hm : m < 256)
    (hf : rowX96 m w.minor.toNat (w.x.getLsbD 0 && !w.kb) = .ok f) (r : List W32) :
    decodeWords (w.word0 m :: w.word1 :: w.word2 :: (litWords w.lit ++ r)) = .ok (f w) := by
  have e := X96.ofWords_words m w
  have hmm : majorOf (w.word0 m) = m := by rw [majorOf_word0, Nat.mod_eq_of_lt hm]
  unfold decodeWords
  simp only [BitVec.getLsbD_eq_getElem (show 0 < 8 by decide)] at hf
  simp only [len_word0]
  cases h : w.lit with
  | none => rw [h] at e; simp [litWords, decodeX96, hmm, e, hf]
  | some l => rw [h] at e; simp [litWords, decodeX96, hmm, W64.ofWords_split, e, hf]

/-- How many words a base word's instruction has (R116). -/
theorem wordCount_word (m : Nat) (w : B32) : wordCount (w.word m) = 1 + (litWords w.lit).length := by
  simp only [wordCount, len_word]; cases w.lit <;> simp [litWords]

/-- How many words an extended instruction has (R116). -/
theorem wordCount_word0 (m : Nat) (w : X96) : wordCount (w.word0 m) = 3 + (litWords w.lit).length := by
  simp only [wordCount, len_word0]; cases w.lit <;> simp [litWords]

/-- The bytes of a base word's instruction decode to it and leave what follows. -/
theorem decode_b32 (w : B32) (op : Op) (f : B32 → Instr) (hm : op.major < 256)
    (hf : rowB32 op.major = some f) (rest : List Byte) :
    decode ((w.words op).flatMap bytesOfWord ++ rest) = .ok (f w, rest) := by
  unfold decode
  rw [wordsOfBytes_flatMap]
  have hd := decodeWords_b32 w op.major f hm hf (wordsOfBytes rest)
  have hl : 4 * wordCount (w.word op.major) = ((w.words op).flatMap bytesOfWord).length := by
    rw [length_flatMap_bytesOfWord, wordCount_word, B32.words, List.length_cons]; omega
  simp only [B32.words, List.cons_append] at *
  rw [hd]
  simp only [hl, List.drop_left]

/-- The bytes of an extended instruction decode to it and leave what follows. -/
theorem decode_x96 (w : X96) (op : Op) (f : X96 → Instr) (hm : op.major < 256)
    (hf : rowX96 op.major w.minor.toNat (w.x.getLsbD 0 && !w.kb) = .ok f) (rest : List Byte) :
    decode ((w.words op).flatMap bytesOfWord ++ rest) = .ok (f w, rest) := by
  unfold decode
  rw [wordsOfBytes_flatMap]
  have hd := decodeWords_x96 w op.major f hm hf (wordsOfBytes rest)
  have hl : 4 * wordCount (w.word0 op.major) = ((w.words op).flatMap bytesOfWord).length := by
    rw [length_flatMap_bytesOfWord, wordCount_word0, X96.words]; simp; omega
  simp only [X96.words, List.cons_append] at *
  rw [hd]
  simp only [hl, List.drop_left]

end Sys2Proof
end

