-- ==== Sys2Proof/Laws/Write.lean ====
section
/-!
SUPPORT. What writing an instruction's destination does: the registers D names take the words of the value, lowest first,
and nothing else of the state changes.
-/

namespace Sys2Proof.Machine

open Sys2Proof.Safety

namespace Thread

/-- A thread with registers d to d + n - 1 holding the words of v, lowest first. -/
def writeWords (th : Thread) (d v : Nat) : Nat → Thread
  | 0 => th
  | n + 1 => writeWords (th.writeG d (BitVec.ofNat 32 v)) (d + 1) (v / 2 ^ 32) n

theorem writeG_frame (th : Thread) (n : Nat) (v : W32) (p : Bool) : { th.writeG n v p with g := th.g } = th := by
  unfold writeG; split <;> rfl

theorem writeWords_frame (th : Thread) (d v n : Nat) : { th.writeWords d v n with g := th.g } = th := by
  induction n generalizing th d v with
  | zero => rfl
  | succ n ih =>
    have h := ih (th.writeG d (BitVec.ofNat 32 v)) (d + 1) (v / 2 ^ 32)
    have := congrArg (fun x : Thread => { x with g := th.g }) h
    exact this.trans (writeG_frame ..)

theorem wrote_writeWords (th : Thread) (d v n : Nat) : Wrote th (th.writeWords d v n) d n v := by
  induction n generalizing th d v with
  | zero => exact ⟨fun j hj => absurd hj (by omega), fun _ _ => rfl⟩
  | succ n ih =>
    obtain ⟨h1, h2⟩ := ih (th.writeG d (BitVec.ofNat 32 v)) (d + 1) (v / 2 ^ 32)
    refine ⟨fun j hj hd => ?_, fun m hm => ?_⟩
    · cases j with
      | zero =>
        rw [writeWords, h2 (d + 0) (by omega), readG_writeG, if_pos (by omega)]
        simp
      | succ j =>
        have h := h1 j (by omega) (by omega)
        have e : d + (j + 1) = d + 1 + j := by omega
        rw [writeWords, e, h, Nat.div_div_eq_div_mul, ← Nat.pow_add, Nat.mul_succ, Nat.add_comm 32]
    · rw [writeWords, h2 m (by omega), readG_writeG, if_neg (by omega)]

end Thread

/-- Reading general registers is untouched by the fields around them. -/
theorem wrote_congr {th th' x x' : Thread} {d n v : Nat} (h1 : x.g = th.g) (h2 : x'.g = th'.g) (h : Wrote th th' d n v) :
    Wrote x x' d n v := by
  have r1 : ∀ m, x.readG m = th.readG m := fun m => by simp [Thread.readG, h1]
  have r2 : ∀ m, x'.readG m = th'.readG m := fun m => by simp [Thread.readG, h2]
  exact ⟨fun j hj hd => (r2 _).trans (h.1 j hj hd), fun m hm => by rw [r1, r2, h.2 m hm]⟩

namespace Table

theorem put_put {α : Type} (t : Table α) (n : Nat) (v w : α) : (t.put n v).put n w = t.put n w := by
  induction t with
  | nil => simp [put]
  | cons a t ih =>
    obtain ⟨k, x⟩ := a
    simp only [put]
    split
    · simp [put]
    · split
      · simp [put]
      · rename_i h1 h2; simp [put, h1, h2, ih]

theorem mod_mod {α : Type} (t : Table α) (n : Nat) (f g : α → α) : (t.mod n f).mod n g = t.mod n fun x => g (f x) := by
  simp only [mod]
  cases h : t.get? n with
  | none => simp [h]
  | some v => simp [put_put]

end Table

namespace State

theorem modThread_modThread (s : State) (t : Nat) (f g : Thread → Thread) :
    (s.modThread t f).modThread t g = s.modThread t fun th => g (f th) := by
  simp [modThread, Table.mod_mod]

theorem setThread_eq {s : State} {t : Nat} {th : Thread} (h : s.thread? t = some th) (f : Thread → Thread) :
    s.setThread t (f th) = s.modThread t f := by
  have h' : s.threads.get? t = some th := h
  simp [setThread, modThread, Table.mod, h']

theorem isQueue_modThread (s : State) (t : Nat) (k : Ins) (f : RFile) (n : Nat) (g : Thread → Thread)
    (hg : ∀ th, (g th).sliced = th.sliced) : (s.modThread t g).isQueue t k f n = s.isQueue t k f n := by
  unfold isQueue
  rw [thread?_modThread, if_pos rfl]
  cases s.thread? t with
  | none => rfl
  | some th => simp [hg]

/-- Writing registers of the general file that are not queues writes their words. -/
theorem writeRegs_words (s : State) (t : Nat) (k : Ins) (d v n : Nat) (hw : k.w.wu = false)
    (hq : ∀ m, d ≤ m → m < d + (n + 1) → (k.w.sl && s.isQueue t k .g m) = false) :
    s.writeRegs t k .g d v (n + 1) = s.modThread t fun th => th.writeWords d v (n + 1) := by
  have hf : effFile k .g = .g := by simp [effFile, hw]
  have h0 : s.writeReg t k .g d (BitVec.ofNat 32 v) = s.modThread t fun th => th.writeG d (BitVec.ofNat 32 v) := by
    have := hq d (by omega) (by omega)
    simp only [writeReg, hf, this]; rfl
  have hs : ∀ (th : Thread), (th.writeG d (BitVec.ofNat 32 v)).sliced = th.sliced := fun th =>
    (congrArg Thread.sliced (Thread.writeG_frame th d (BitVec.ofNat 32 v) false) :)
  induction n generalizing s d v with
  | zero => rw [writeRegs, writeRegs, h0]; rfl
  | succ n ih =>
    rw [writeRegs, h0]
    have hq' : ∀ m, d + 1 ≤ m → m < d + 1 + (n + 1) →
        (k.w.sl && (s.modThread t fun th => th.writeG d (BitVec.ofNat 32 v)).isQueue t k .g m) = false := by
      intro m h1 h2
      rw [isQueue_modThread _ _ _ _ _ _ hs]
      exact hq m (by omega) (by omega)
    rw [ih (s.modThread t fun th => th.writeG d (BitVec.ofNat 32 v)) (d + 1) (v / 2 ^ 32) hq' ?_ ?_, modThread_modThread]
    · rfl
    · have := hq' (d + 1) (by omega) (by omega)
      simp only [writeReg, hf, this]; rfl
    · exact fun th => (congrArg Thread.sliced (Thread.writeG_frame th (d + 1) (BitVec.ofNat 32 (v / 2 ^ 32)) false) :)

/-- Writing a D that names general registers which are not queues. -/
theorem writeD_words (s : State) (t : Nat) (k : Ins) (v d n al : Nat) (hw : k.w.wu = false)
    (hd : (k.fields (s.homeOf t).isWave).d = .dst .g d (n + 1) al ∨
      (k.fields (s.homeOf t).isWave).d = .srcDst .g d (n + 1) al)
    (hq : ∀ m, d ≤ m → m < d + (n + 1) → (k.w.sl && s.isQueue t k .g m) = false) :
    s.writeD t k v = s.modThread t fun th => th.writeWords d v (n + 1) := by
  unfold writeD Fld.use
  rcases hd with hd | hd <;> simp only [hd] <;> exact writeRegs_words s t k d v n hw hq

end State

end Sys2Proof.Machine
end

