-- ==== Sys2Proof/Laws/Local.lean ====
section
/-!
SUPPORT. Instructions whose effect changes each of their threads alone: from the change of one thread to the next state.
-/

namespace Sys2Proof.Machine

open Sys2Proof.Safety

variable {sem : Sem} {k : Ins} {s : State} {r : Run} {lead : Nat} {go : List Nat}

theorem placed_of_reached (h : Reached sem k s r lead go) {u : Nat} (hu : u ∈ go) : State.placed s r u k = true := by
  have h1 := h.2.2.2.2.1 u hu
  unfold State.precheck at h1
  cases hp : State.placed s r u k with
  | true => rfl
  | false => simp [hp] at h1

theorem lead_mem (h : Reached sem k s r lead go) : lead ∈ go := by
  have h1 := h.2.2.2.1
  cases go with
  | nil => simp at h1
  | cons a l => simp at h1; simp [h1]

theorem nodup_of_reached (h : Reached sem k s r lead go) : go.Nodup := h.2.2.1 ▸ State.nodup_activeSet s r k

/-- A run has at most 24 instructions (R131). -/
theorem count_of_reached (h : Reached sem k s r lead go) : r.count < 24 := by
  have := placed_of_reached h (lead_mem h)
  simp only [State.placed, Bool.and_eq_true, decide_eq_true_eq] at this
  exact this.1.1.1.1

/-- An instruction of the execute slice is issued by no access slice (R127). -/
theorem not_skidder (h : Reached sem k s r lead go) (hsl : k.w.sl = false) {u : Nat} (hu : u ∈ go) (m : Nat) :
    (s.thread? u).map Thread.home ≠ some (.skidder m) := by
  intro hm
  have := placed_of_reached h hu
  simp only [State.placed, hm, hsl] at this
  simp at this

/-- A fold of an effect on single threads, each judged where the state agrees with the one before about its thread. -/
theorem foldl_threads (hr : Reached sem k s r lead go) (hsl : k.w.sl = false) (f : State → Nat → State)
    (G : Nat → Thread → Thread) (h : ∀ s' u, u ∈ go → State.Agree s s' u → f s' u = s'.modThread u (G u)) :
    go.foldl f (s.advance k) = go.foldl (fun s u => s.modThread u (G u)) (s.advance k) := by
  refine State.foldl_local (nodup_of_reached hr) f G _ fun s' u hu h1 h2 => h s' u hu ?_
  have hb := State.agree_advance k hr.1 u
  refine ⟨?_, ?_, fun m hm => absurd hm (not_skidder hr hsl hu m)⟩
  · have e := congrArg (fun x : State => { x with threads := s.threads }) h1
    exact (e :).trans hb.1
  · rw [h2 u (.inr rfl)]; exact hb.2.1

/-- What follows an effect touches threads and engines only. -/
theorem perform_rest (sem : Sem) {k : Ins} (hsl : k.w.sl = false) (s : State) (lead : Nat) (go : List Nat) :
    { s.perform sem k lead go with
      threads := (sem.act k lead go (s.advance k)).threads, engines := (sem.act k lead go (s.advance k)).engines } =
    sem.act k lead go (s.advance k) := by
  unfold State.perform
  simp only [hsl, Bool.false_eq_true, if_false]
  generalize sem.act k lead go (s.advance k) = y
  generalize go ++ distinct ((s.run?.elim [] fun r => r.members).filter fun t => s.issuing t && !go.contains t) = l
  have hp : ({ l.foldl (State.popQueues s.queueTop k) y with threads := y.threads } : State) = y :=
    foldl_keeps (fun z : State => { z with threads := y.threads } = y) _ l y rfl fun z t hz => hz
  generalize l.foldl (State.popQueues s.queueTop k) y = z at hp ⊢
  have hq := (State.countEvent_spec z y.focus 1 1).1
  generalize z.countEvent y.focus 1 1 = w at hq ⊢
  have hz : ({ w.retire k with engines := w.engines } : State) = w := by
    unfold State.retire State.retireAs; split <;> rfl
  generalize w.retire k = v at hz ⊢
  have a1 := congrArg (fun q : State => { q with engines := y.engines, threads := y.threads }) hz
  have a2 := congrArg (fun q : State => { q with engines := y.engines, threads := y.threads }) hq
  have a3 := congrArg (fun q : State => { q with engines := y.engines, threads := y.threads }) hp
  exact ((a1 :).trans (a2 :)).trans (a3 :)

/-- The next state of an instruction whose effect leaves all but threads and engines, from what it makes of each. -/
theorem effect_of_state {P : Nat → Thread → Thread → Prop} {y : State} (G : Nat → Thread → Thread)
    (hr : Reached sem k s r lead go) (hsl : k.w.sl = false) (hact : sem.act k lead go (s.advance k) = y)
    (hy1 : { y with engines := s.engines, threads := s.threads } = s) (hye : State.EnginesKept s y)
    (hyt : ∀ u, y.thread? u = if u ∈ go then ((s.advance k).thread? u).map (G u) else (s.advance k).thread? u)
    (hG : ∀ u th, (G u th).home = th.home ∧ (G u th).oq = th.oq ∧ (G u th).sliced = th.sliced)
    (hP : ∀ u ∈ go, ∀ th th', s.thread? u = some th →
      { th' with oq := th.oq } = G u { th with pc := r.pc + BitVec.ofNat 64 k.len } → P u th th') :
    { s.perform sem k lead go with threads := s.threads, engines := s.engines } = s ∧
    Effect s (s.perform sem k lead go) k r go P := by
  have hne : go ≠ [] := by
    have := lead_mem hr
    rintro rfl
    simp at this
  have hyf : y.focus = s.focus := (congrArg State.focus hy1 :)
  constructor
  · subst hact
    have h := congrArg (fun q : State => { q with engines := s.engines, threads := s.threads }) (perform_rest sem hsl s lead go)
    exact (h :).trans hy1
  · refine State.effect_of_act G hsl hr.1 hr.2.2.1 hne (count_of_reached hr) ?_ ?_ ?_ hG hP
    · rw [hact, hyf]
    · rw [hact]; exact hye
    · intro u; rw [hact, hyt]

/-- An instruction that leaves its threads as they are. -/
theorem effect_of_nothing (hr : Reached sem k s r lead go) (hsl : k.w.sl = false) (hact : sem.act k lead go (s.advance k) = s.advance k) :
    { s.perform sem k lead go with threads := s.threads, engines := s.engines } = s ∧
    Effect s (s.perform sem k lead go) k r go fun _ th th' => PastBut k r th th' id := by
  have h1 := State.advance_threads k hr.1
  refine effect_of_state (fun _ th => th) hr hsl hact ?_ ⟨fun e _ _ => ?_, fun e => ?_⟩ (fun u => ?_) (fun _ _ => ⟨rfl, rfl, rfl⟩) ?_
  · exact (congrArg (fun x : State => { x with engines := s.engines }) h1 :)
  · exact (congrArg (fun x : State => x.engine e) h1 :)
  · exact (congrArg (fun x : State => unlogged (x.engine e)) h1 :)
  · split <;> simp
  · intro u _ th th' _ he
    refine ⟨(congrArg Thread.pc he :), ?_⟩
    exact (congrArg (fun x : Thread => { x with pc := th.pc }) he :)

/-- The next state of an instruction whose effect changes each of its threads alone and may count flags: nothing but
threads and engines differs, the run goes on, and each thread holds what `G` makes of it. -/
theorem effect_of_threads {P : Nat → Thread → Thread → Prop} (G : Nat → Thread → Thread) (flags : W32)
    (hr : Reached sem k s r lead go) (hsl : k.w.sl = false)
    (hact : sem.act k lead go (s.advance k) = (go.foldl (fun s u => s.modThread u (G u)) (s.advance k)).countFlags flags ∨
      sem.act k lead go (s.advance k) = go.foldl (fun s u => s.modThread u (G u)) (s.advance k))
    (hG : ∀ u th, (G u th).home = th.home ∧ (G u th).oq = th.oq ∧ (G u th).sliced = th.sliced)
    (hP : ∀ u ∈ go, ∀ th th', s.thread? u = some th →
      { th' with oq := th.oq } = G u { th with pc := r.pc + BitVec.ofNat 64 k.len } → P u th th') :
    { s.perform sem k lead go with threads := s.threads, engines := s.engines } = s ∧
    Effect s (s.perform sem k lead go) k r go P := by
  have hnd := nodup_of_reached hr
  generalize hx : go.foldl (fun s u => s.modThread u (G u)) (s.advance k) = x at hact
  have hx1 : { x with threads := s.threads } = s := by
    subst hx
    have e := congrArg (fun y : State => { y with threads := s.threads }) (State.foldl_modThread_threads go G (s.advance k))
    exact (e :).trans (State.advance_threads k hr.1)
  have hx2 : ∀ u, x.thread? u = if u ∈ go then ((s.advance k).thread? u).map (G u) else (s.advance k).thread? u := by
    subst hx; exact State.thread?_foldl_modThread hnd G _
  have hxf : x.focus = s.focus := (congrArg State.focus hx1 :)
  have hxe : ∀ e, x.engine e = s.engine e := fun e => (congrArg (fun y : State => y.engine e) hx1 :)
  have hc := State.countFlags_spec x flags
  rcases hact with h | h
  · rw [hxf] at hc
    refine effect_of_state G hr hsl h ?_ ⟨fun e _ he => ?_, fun e => ?_⟩ (fun u => ?_) hG hP
    · have e := congrArg (fun y : State => { y with engines := s.engines, threads := s.threads }) hc.1
      have e2 : ({ x with engines := s.engines, threads := s.threads } : State) = s := by
        have := congrArg (fun y : State => { y with engines := s.engines }) hx1
        exact (this :)
      exact (e :).trans e2
    · rw [hc.2.1 e he, hxe]
    · have h3 := hc.engine e
      rw [hxe] at h3
      have := congrArg (fun e : Engine => { e with ring := [], written := 0 }) h3
      exact (this :)
    · rw [← hx2]; exact (congrArg (fun y : State => y.thread? u) hc.1 :)
  · refine effect_of_state G hr hsl h ?_ ⟨fun e _ _ => hxe e, fun e => by rw [hxe]⟩ hx2 hG hP
    have := congrArg (fun y : State => { y with engines := s.engines }) hx1
    exact (this :)

end Sys2Proof.Machine
end

