-- ==== Sys2Proof/Laws/Result.lean ====
section
/-!
SUPPORT. Instructions that give each of their threads one result: what the word permits, and the next state of one that
writes D, and for a float its flags and its generator.
-/

namespace Sys2Proof.Machine

open Sys2Proof.Safety

variable {sem : Sem} {k : Ins} {s : State} {r : Run} {lead : Nat} {go : List Nat}

theorem wellFormed_of_reached (h : Reached sem k s r lead go) : k.wellFormed = true := by
  have h1 := h.2.2.2.2.1 lead (lead_mem h)
  unfold State.precheck at h1
  cases hp : k.wellFormed with
  | true => rfl
  | false => simp [hp] at h1

/-- WU stands only on the majors of R128. -/
theorem wu_of_reached (h : Reached sem k s r lead go) (hm : 0x33 < k.op.major ∨ k.op = .movk) : k.w.wu = false := by
  have h1 := wellFormed_of_reached h
  have h2 : k.wuOk = true := by
    simp only [Ins.wellFormed, Bool.and_eq_true] at h1; exact h1.1.1.2
  cases hw : k.w.wu with
  | false => rfl
  | true =>
    simp only [Ins.wuOk, hw, Bool.not_true, Bool.false_or, Bool.and_eq_true, decide_eq_true_eq, bne_iff_ne] at h2
    cases hm with
    | inl h => omega
    | inr h => exact absurd h h2.2

/-- SL stands only on the majors of R127. -/
theorem sl_of_reached (h : Reached sem k s r lead go) (hm : k.op.sliceable = false) : k.w.sl = false := by
  have h1 := wellFormed_of_reached h
  have h2 : k.slOk = true := by
    simp only [Ins.wellFormed, Bool.and_eq_true] at h1; exact h1.1.1.1.2
  cases hw : k.w.sl with
  | false => rfl
  | true => simp [Ins.slOk, hw, hm] at h2

/-- The instructions of R132 end their run. -/
theorem end_of_reached (h : Reached sem k s r lead go) (hm : k.op.mustEnd = true) : k.w.e = true := by
  have h1 := wellFormed_of_reached h
  have h2 : k.endOk = true := by
    simp only [Ins.wellFormed, Bool.and_eq_true] at h1; exact h1.1.2
  simpa [Ins.endOk, hm] using h2

/-- Only what an instruction wrote, its carry, flags and generator differ in a thread that moved past it. -/
theorem past_of_frame {th th' x : Thread} {keep : Thread → Thread}
    (hk : ∀ y : Thread, keep { y with pc := th.pc, oq := th.oq } = { keep y with pc := th.pc, oq := th.oq })
    (hpc : ∀ y : Thread, (keep y).pc = y.pc)
    (he : ({ th' with oq := th.oq } : Thread) = x)
    (hx : keep x = { th with pc := r.pc + BitVec.ofNat 64 k.len }) : PastBut k r th th' keep := by
  subst he
  refine ⟨?_, ?_⟩
  · have := congrArg Thread.pc hx
    rw [hpc] at this
    exact this
  · have := congrArg (fun y : Thread => ({ y with pc := th.pc, oq := th.oq } : Thread)) hx
    have h2 := hk { th' with oq := th.oq }
    exact h2.trans (this :)

namespace State

theorem modThread_congr (s : State) (t : Nat) {f g : Thread → Thread} (h : ∀ th, s.thread? t = some th → f th = g th) :
    s.modThread t f = s.modThread t g := by
  have h' : ∀ th, s.threads.get? t = some th → f th = g th := h
  simp only [modThread, Table.mod]
  cases hs : s.threads.get? t with
  | none => simp
  | some th => simp [h' th hs]

/-- Drawing changes the generator alone. -/
theorem draws_state (s : State) (t n : Nat) (th : Thread) (h : s.thread? t = some th) :
    (s.draws t (n + 1)).2 = s.modThread t fun th => { th with rng := rngAfter (n + 1) th.rng } := by
  induction n generalizing s th with
  | zero =>
    simp only [draws, h, rngAfter]
    rw [setThread_eq h fun th => { th with rng := (rngNext th.rng).1 }]
  | succ n ih =>
    rw [draws, h]
    dsimp only
    rw [setThread_eq h fun th => { th with rng := (rngNext th.rng).1 }]
    rw [ih (s.modThread t fun th => { th with rng := (rngNext th.rng).1 }) _ (by rw [thread?_modThread, if_pos rfl, h]; rfl),
      modThread_modThread]
    rfl

/-- What is drawn depends on the generator alone. -/
theorem draws_congr {s s' : State} {t : Nat} (h : (s'.thread? t).map Thread.rng = (s.thread? t).map Thread.rng) (n : Nat) :
    (s'.draws t n).1 = (s.draws t n).1 := by
  induction n generalizing s s' with
  | zero => rfl
  | succ n ih =>
    unfold draws
    cases hs : s.thread? t with
    | none =>
      rw [hs] at h
      cases hs' : s'.thread? t with
      | none => rfl
      | some x => simp [hs'] at h
    | some th =>
      rw [hs] at h
      cases hs' : s'.thread? t with
      | none => simp [hs'] at h
      | some x =>
        simp only [hs', Option.map_some, Option.some.injEq] at h
        have e : ∀ (q : State) (y : Thread), (q.setThread t y).thread? t = some y := by
          intro q y; simp [setThread, thread?]
        simp only [h]
        rw [ih (s := s.setThread t { th with rng := (rngNext th.rng).1 }) (by rw [e, e]; rfl)]

/-- What a thread's rounding gives does not depend on its program counter. -/
theorem Agree.rounding {s s' : State} {t : Nat} (h : Agree s s' t) (sel n : Nat) :
    (s'.rounding t sel n).1 = (s.rounding t sel n).1 ∧ (s'.rounding t sel n).2.1 = (s.rounding t sel n).2.1 := by
  have hd := draws_congr (h.get Thread.rng fun _ => rfl) n
  unfold State.rounding
  have hm : ∀ (th : Thread) (pc : W64), modeOf { th with pc := pc } sel = modeOf th sel := fun _ _ => rfl
  match h.cases with
  | .inl ⟨h1, h2⟩ => simp [h1, h2]
  | .inr ⟨th, pc, h1, h2⟩ =>
    simp only [h1, h2, hm]
    split
    · exact ⟨rfl, by simp only [hd]⟩
    · exact ⟨rfl, rfl⟩

/-- Writing a word result, where the thread is not the access slice of another. -/
theorem writeD_eq (u v n : Nat) (hwu : k.w.wu = false) (hsl : k.w.sl = false) (s' : State)
    (hd : ∀ wave, ∃ al, (k.fields wave).d = .dst .g k.d (n + 1) al ∨ (k.fields wave).d = .srcDst .g k.d (n + 1) al) :
    s'.writeD u k v = s'.modThread u fun th => th.writeWords k.d v (n + 1) := by
  obtain ⟨al, h⟩ := hd (s'.homeOf u).isWave
  exact writeD_words s' u k v k.d n al hwu h fun m _ _ => by simp [hsl]

end State

/-- An effect of one thread that leaves its home and its queues. -/
def Thread.Keeps (G : Thread → Thread) : Prop := ∀ th, (G th).home = th.home ∧ (G th).oq = th.oq ∧ (G th).sliced = th.sliced

theorem keeps_writeWords (d v n : Nat) : Thread.Keeps fun th => th.writeWords d v n := fun th => by
  have := Thread.writeWords_frame th d v n
  exact ⟨(congrArg Thread.home this :), (congrArg Thread.oq this :), (congrArg Thread.sliced this :)⟩

theorem Thread.writeP_frame (th : Thread) (n : Nat) (v : Bool) : { th.writeP n v with p := th.p } = th := by
  unfold writeP; split <;> rfl

theorem wroteP_writeP (th : Thread) (d : Nat) (v : Bool) : WroteP th (th.writeP d v) d v := by
  refine ⟨fun h => ?_, fun m h => ?_⟩
  · simp [Thread.readP, Thread.writeP, h]
  · unfold Thread.writeP
    split
    · rfl
    · simp [Thread.readP, h]

/-- Reading predicates is untouched by the fields around them. -/
theorem wroteP_congr {th th' x x' : Thread} {d : Nat} {v : Bool} (h1 : x.p = th.p) (h2 : x'.p = th'.p)
    (h : WroteP th th' d v) : WroteP x x' d v := by
  have r1 : ∀ m, x.readP m = th.readP m := fun m => by simp [Thread.readP, h1]
  have r2 : ∀ m, x'.readP m = th'.readP m := fun m => by simp [Thread.readP, h2]
  exact ⟨fun hd => (r2 _).trans (h.1 hd), fun m hm => by rw [r1, r2, h.2 m hm]⟩

/-- The next state of an instruction that writes one word result for each thread. -/
theorem effect_words {n : Nat} (val : State → Nat → Nat) (hr : Reached sem k s r lead go) (hwu : k.w.wu = false)
    (hsl : k.w.sl = false)
    (hd : ∀ wave, ∃ al, (k.fields wave).d = .dst .g k.d (n + 1) al ∨ (k.fields wave).d = .srcDst .g k.d (n + 1) al)
    (hact : sem.act k lead go (s.advance k) = go.foldl (fun x u => x.writeD u k (val x u)) (s.advance k))
    (hval : ∀ s' u, u ∈ go → State.Agree s s' u → val s' u = val s u) :
    { s.perform sem k lead go with threads := s.threads, engines := s.engines } = s ∧
    Effect s (s.perform sem k lead go) k r go fun u th th' =>
      PastBut k r th th' (fun x => { x with g := th.g }) ∧ Wrote th th' k.d (n + 1) (val s u) := by
  refine effect_of_threads (fun u th => th.writeWords k.d (val s u) (n + 1)) 0 hr hsl (.inr ?_)
    (fun u th => keeps_writeWords _ _ _ th) ?_
  · rw [hact]
    exact foldl_threads hr hsl _ _ fun s' u hu ha => by rw [hval s' u hu ha]; exact State.writeD_eq u _ n hwu hsl s' hd
  · intro u hu th th' hth he
    have hf := Thread.writeWords_frame { th with pc := r.pc + BitVec.ofNat 64 k.len } k.d (val s u) (n + 1)
    refine ⟨past_of_frame (fun _ => rfl) (fun _ => rfl) he hf, ?_⟩
    exact wrote_congr rfl (congrArg Thread.g he :)
      (Thread.wrote_writeWords { th with pc := r.pc + BitVec.ofNat 64 k.len } k.d (val s u) (n + 1))

theorem foldl_pair {α β γ : Type} (A : α → β → α) (B : α → β → γ → γ) (l : List β) (a : α) (c : γ) :
    (l.foldl (fun (p : α × γ) b => (A p.1 b, B p.1 b p.2)) (a, c)).1 = l.foldl A a := by
  induction l generalizing a c with
  | nil => rfl
  | cons b l ih => simp only [List.foldl_cons]; exact ih _ _

/-- The effect of an instruction that raises flags: each thread changes alone, its flags are ORed into $fex, and the
instruction is counted. -/
theorem perFlags_threads (hr : Reached sem k s r lead go) (hsl : k.w.sl = false) (f : Nat → State → State × FFlags)
    (H : Nat → Thread → Thread) (fl : Nat → FFlags)
    (hf : ∀ s' u, u ∈ go → State.Agree s s' u → f u s' = (s'.modThread u (H u), fl u)) :
    ∃ all, perFlags f go (s.advance k) =
      (go.foldl (fun x u => x.modThread u fun th => (H u th).orFex (fl u).toW32) (s.advance k)).countFlags all := by
  have h1 := foldl_pair (fun (x : State) t => (f t x).1.setFlags t (f t x).2.toW32)
    (fun (x : State) t (c : W32) => c ||| (f t x).2.toW32) go (s.advance k) 0
  have h2 : go.foldl (fun (x : State) t => (f t x).1.setFlags t (f t x).2.toW32) (s.advance k) =
      go.foldl (fun x u => x.modThread u fun th => (H u th).orFex (fl u).toW32) (s.advance k) := by
    refine foldl_threads hr hsl _ (fun u th => (H u th).orFex (fl u).toW32) fun s' u hu ha => ?_
    rw [hf s' u hu ha]
    exact State.modThread_modThread s' u (H u) fun th => th.orFex (fl u).toW32
  exact ⟨_, congrArg (fun x : State => x.countFlags _) (h1.trans h2)⟩

/-- The next state of an instruction that writes one word result for each thread, raises flags, and may draw. -/
theorem effect_floats {n : Nat} (val : State → Nat → Nat) (fl : State → Nat → FFlags) (draws : Bool)
    (hr : Reached sem k s r lead go) (hwu : k.w.wu = false) (hsl : k.w.sl = false)
    (hd : ∀ wave, ∃ al, (k.fields wave).d = .dst .g k.d (n + 1) al ∨ (k.fields wave).d = .srcDst .g k.d (n + 1) al)
    (hn : draws = true → roundDraws k ≠ 0)
    (hact : sem.act k lead go (s.advance k) = perFlags (fun u (x : State) =>
      ((if draws then (x.rounding u k.hint (roundDraws k)).2.2 else x).writeD u k (val x u), fl x u)) go (s.advance k))
    (hval : ∀ s' u, u ∈ go → State.Agree s s' u → val s' u = val s u ∧ fl s' u = fl s u) :
    { s.perform sem k lead go with threads := s.threads, engines := s.engines } = s ∧
    Effect s (s.perform sem k lead go) k r go fun u th th' =>
      PastBut k r th th' (fun x => { x with g := th.g, fex := th.fex, rng := th.rng }) ∧
      Wrote th th' k.d (n + 1) (val s u) ∧ th'.fex = th.fex ||| (fl s u).toW32 ∧
      th'.rng = if draws then rngRounded k th else th.rng := by
  let D : Thread → Thread := fun th => { th with rng := if draws then rngRounded k th else th.rng }
  have hD : ∀ (s' : State) u, (if draws then (s'.rounding u k.hint (roundDraws k)).2.2 else s') = s'.modThread u D ∨
      ∀ G : Thread → Thread, (if draws then (s'.rounding u k.hint (roundDraws k)).2.2 else s').modThread u G =
        s'.modThread u fun th => G (D th) := by
    intro s' u
    by_cases hdr : draws = true
    · subst hdr
      obtain ⟨m, hm⟩ : ∃ m, roundDraws k = m + 1 := ⟨roundDraws k - 1, by have := hn rfl; omega⟩
      simp only [if_pos, D, hm]
      unfold State.rounding
      cases hth : s'.thread? u with
      | none =>
        right; intro G
        simp only
        exact State.modThread_congr _ _ fun th h => by simp [hth] at h
      | some th =>
        simp only
        by_cases h5 : modeOf th k.hint = 5
        · left
          simp only [if_pos h5]
          rw [State.draws_state s' u m th hth]
          refine State.modThread_congr _ _ fun x hx => ?_
          rw [hth] at hx; cases hx
          simp [rngRounded, h5, hm]
        · right; intro G
          simp only [if_neg h5]
          refine State.modThread_congr _ _ fun x hx => ?_
          rw [hth] at hx; cases hx
          simp [rngRounded, h5]
    · right; intro G
      simp [hdr, D]
  obtain ⟨all, hall⟩ := perFlags_threads hr hsl (fun u (x : State) =>
      ((if draws then (x.rounding u k.hint (roundDraws k)).2.2 else x).writeD u k (val x u), fl x u))
      (fun u th => (D th).writeWords k.d (val s u) (n + 1)) (fl s) (by
        intro s' u hu ha
        obtain ⟨h1, h2⟩ := hval s' u hu ha
        simp only [h1, h2]
        congr 1
        have hw := State.writeD_eq u (val s u) n hwu hsl
          (if draws then (s'.rounding u k.hint (roundDraws k)).2.2 else s') hd
        rw [hw]
        rcases hD s' u with h | h
        · rw [h, State.modThread_modThread]
        · exact h fun th => th.writeWords k.d (val s u) (n + 1))
  refine effect_of_threads
    (fun u th => ((D th).writeWords k.d (val s u) (n + 1)).orFex (fl s u).toW32) all hr hsl (.inl (hact.trans hall)) ?_ ?_
  · intro u th
    have := Thread.writeWords_frame (D th) k.d (val s u) (n + 1)
    exact ⟨(congrArg Thread.home this :), (congrArg Thread.oq this :), (congrArg Thread.sliced this :)⟩
  · intro u hu th th' hth he
    let th0 : Thread := { th with pc := r.pc + BitVec.ofNat 64 k.len }
    have hf := Thread.writeWords_frame (D th0) k.d (val s u) (n + 1)
    refine ⟨past_of_frame (fun _ => rfl) (fun _ => rfl) he ?_, ?_, ?_, ?_⟩
    · have := congrArg (fun x : Thread => ({ x with g := th.g, fex := th.fex, rng := th.rng } : Thread)) hf
      exact (this :)
    · exact wrote_congr rfl (congrArg Thread.g he :) (Thread.wrote_writeWords (D th0) k.d (val s u) (n + 1))
    · have h1 : th'.fex = _ := (congrArg Thread.fex he :)
      rw [h1]
      have := congrArg Thread.fex hf
      exact (congrArg (fun x : W32 => x ||| (fl s u).toW32) this :)
    · have h1 : th'.rng = _ := (congrArg Thread.rng he :)
      rw [h1]
      exact (congrArg Thread.rng hf :)

/-- The next state of an instruction that writes predicate D for each thread and may raise flags. -/
theorem effect_preds (val : State → Nat → Bool) (fl : State → Nat → FFlags)
    (hr : Reached sem k s r lead go) (hsl : k.w.sl = false)
    (hact : sem.act k lead go (s.advance k) = perFlags (fun u (x : State) => (x.writeDP [u] k (val x u), fl x u)) go
      (s.advance k))
    (hval : ∀ s' u, u ∈ go → State.Agree s s' u → val s' u = val s u ∧ fl s' u = fl s u) :
    { s.perform sem k lead go with threads := s.threads, engines := s.engines } = s ∧
    Effect s (s.perform sem k lead go) k r go fun u th th' =>
      PastBut k r th th' (fun x => { x with p := th.p, fex := th.fex }) ∧ WroteP th th' k.d (val s u) ∧
      th'.fex = th.fex ||| (fl s u).toW32 := by
  obtain ⟨all, hall⟩ := perFlags_threads hr hsl (fun u (x : State) => (x.writeDP [u] k (val x u), fl x u))
      (fun u th => th.writeP k.d (val s u)) (fl s) (by
        intro s' u hu ha
        obtain ⟨h1, h2⟩ := hval s' u hu ha
        simp only [h1, h2]; rfl)
  refine effect_of_threads (fun u th => (th.writeP k.d (val s u)).orFex (fl s u).toW32) all hr hsl (.inl (hact.trans hall)) ?_ ?_
  · intro u th
    have := Thread.writeP_frame th k.d (val s u)
    exact ⟨(congrArg Thread.home this :), (congrArg Thread.oq this :), (congrArg Thread.sliced this :)⟩
  · intro u hu th th' hth he
    have hf := Thread.writeP_frame { th with pc := r.pc + BitVec.ofNat 64 k.len } k.d (val s u)
    refine ⟨past_of_frame (fun _ => rfl) (fun _ => rfl) he ?_, ?_, ?_⟩
    · have := congrArg (fun x : Thread => ({ x with p := th.p, fex := th.fex } : Thread)) hf
      exact (this :)
    · exact wroteP_congr rfl (congrArg Thread.p he :) (wroteP_writeP _ k.d (val s u))
    · have h1 : th'.fex = _ := (congrArg Thread.fex he :)
      rw [h1]
      have := congrArg Thread.fex hf
      exact (congrArg (fun x : W32 => x ||| (fl s u).toW32) this :)

end Sys2Proof.Machine
end

