-- ==== Sys2Proof/Tests/Slice0.lean ====
section
/-!
SUPPORT. Tests: words written out from the encodings of R116-R120 and R135 decode to the instructions they stand for;
each check of R138 refuses a term; and for every statement with hypotheses, a state and operands that meet them.
Expected values are the spec's own examples, or follow from the rule named.
-/

open Sys2Proof
open Sys2Proof.Machine
open Sys2Proof.Safety

set_option maxRecDepth 100000

namespace Sys2Proof.Tests

/-! ### Decoding -/

/-- The base word of a major with the bits of R117: B 35, A 34, D 33, G 1 and E 1. -/
def baseWord (major : Nat) : Nat :=
  35 * 2 ^ 26 + 34 * 2 ^ 20 + 33 * 2 ^ 14 + 1 * 2 ^ 11 + major * 2 ^ 3 + 1 * 2 ^ 2

/-- The fields of `baseWord`. -/
def baseFields : B32 := { b := 35, a := 34, d := 33, g := 1, e := true, lit := none }

/-- The extended word of a major with the bits of R118; X is 0xAA or 0xAB. -/
def extendedWord (major minor x0 : Nat) : Nat :=
  (1 + 1 * 2 ^ 2 + major * 2 ^ 3 + 2 * 2 ^ 11 + 0 * 2 ^ 14 + 5 * 2 ^ 15 + 1 * 2 ^ 18 + 1 * 2 ^ 19 + minor * 2 ^ 20 +
    9 * 2 ^ 28) +
  2 ^ 32 * (0x11 + 0x22 * 2 ^ 8 + 0x33 * 2 ^ 16 + 0xC4 * 2 ^ 24) +
  2 ^ 64 * ((0xAA + x0) + 3 * 2 ^ 8 + 10 * 2 ^ 11 + 1 * 2 ^ 15 + 6 * 2 ^ 16 + 1 * 2 ^ 20 + 0 * 2 ^ 21 + 1 * 2 ^ 22 +
    0 * 2 ^ 23 + 0x80 * 2 ^ 24)

/-- The fields of `extendedWord`. -/
def extendedFields (minor x0 : Nat) : X96 :=
  { rsv := 0x80, kb := false, wu := true, sl := false, em := true, ft := 6, y := true, stall := 10, hint := 3
    x := BitVec.ofNat 8 (0xAA + x0), c := 0xC4, b := 0x33, a := 0x22, d := 0x11, ty := 9, minor := BitVec.ofNat 8 minor
    gc := true, g2n := true, g2 := 5, g1n := false, g1 := 2, e := true, lit := none }

/-- R117's example: ?p3 ADD g4, g5, c7. -/
theorem test_decode_r117_example :
    decodeTableWord 32 0x9C511808 = some (.addB32 { b := 0x27, a := 5, d := 4, g := 3, e := false, lit := none }) := by
  decide

/-- R118's example: ?p2&!p5 FFMA.f16.rz g40, g41:t, g42, g43, stall=2, with E set. -/
theorem test_decode_r118_example :
    decodeTableWord 96 (0x2006931D + 0x2B2A2928 * 2 ^ 32 + 0x00011200 * 2 ^ 64) =
      some (.ffma { rsv := 0, kb := false, wu := false, sl := false, em := false, ft := 1, y := false, stall := 2
                    hint := 2, x := 0, c := 0x2B, b := 0x2A, a := 0x29, d := 0x28, ty := 2, minor := 0, gc := false
                    g2n := true, g2 := 5, g1n := false, g1 := 2, e := true, lit := none }) := by decide

/-- R119's example: LIT g8, 0x0001_2345. -/
theorem test_decode_r119_example :
    decodeTableWord 96 (0x0002011A + 0x00012345 * 2 ^ 32) =
      some (.lit (.b32 { b := 0, a := 0, d := 8, g := 0, e := false, lit := some 0x12345 })) := by decide

/-- R116, R118: an extended word with a literal is 160 bits, the literal's low word first. -/
theorem test_decode_extended_literal :
    decodeTableWord 160 (extendedWord 0x08 0 0 + 2 + 0x89ABCDEF * 2 ^ 96 + 0x01234567 * 2 ^ 128) =
      some (.mad { extendedFields 0 0 with lit := some 0x0123456789ABCDEF }) ∧
    decodeTableWord 160 (extendedWord 0x23 0 0 + 2 + 7 * 2 ^ 96) =
      some (.lit (.x96 { extendedFields 0 0 with lit := some 7 })) := by decide

/-- R135, R136: an unassigned major, a base form that a major has not and an unassigned minor decode to nothing. -/
theorem test_decode_rejects :
    decodeTableWord 32 0 = none ∧ decodeTableWord 32 (baseWord 0x08) = none ∧
    decodeTableWord 96 (extendedWord 0x0F 0 0) = none ∧ decodeTableWord 96 (extendedWord 0xF0 0 0) = none ∧
    decodeTableWord 96 (extendedWord 0x48 2 0) = none := by decide

/-- R117, R135: the base forms of majors 0x01 to 0x24. -/
theorem test_decode_base_01_to_24 :
    [(0x01, Instr.addB32), (0x02, Instr.subB32), (0x03, Instr.addcB32), (0x04, Instr.subbB32),
     (0x05, Instr.mulLoB32), (0x06, Instr.mulHiB32), (0x07, Instr.mulwB32), (0x09, Instr.divB32),
     (0x0A, Instr.remB32), (0x0B, Instr.negB32), (0x0C, Instr.absB32), (0x0D, Instr.minB32), (0x0E, Instr.maxB32),
     (0x10, Instr.andB32), (0x11, Instr.orB32), (0x12, Instr.xorB32), (0x13, Instr.notB32), (0x14, Instr.andnB32),
     (0x15, Instr.shlB32), (0x16, Instr.shrB32), (0x17, Instr.sraB32), (0x18, Instr.rolB32), (0x19, Instr.rorB32),
     (0x1A, Instr.bfeB32), (0x1C, Instr.popcB32), (0x1D, Instr.clzB32), (0x1E, Instr.ctzB32), (0x1F, Instr.brevB32),
     (0x21, Instr.movB32), (0x24, Instr.leaB32)].all
      (fun r => decodeTableWord 32 (baseWord r.1) == some (r.2 baseFields)) = true := by decide

/-- R117, R135: the base forms of majors 0x26 to 0xA1. -/
theorem test_decode_base_26_to_a1 :
    [(0x26, Instr.cmpB32), (0x30, Instr.pandB32), (0x31, Instr.porB32), (0x32, Instr.pxorB32),
     (0x33, Instr.pnotB32), (0x40, Instr.nopB32), (0x45, Instr.retB32), (0x47, Instr.syncwB32),
     (0x49, Instr.yieldB32), (0x4A, Instr.haltB32), (0x55, Instr.eretB32), (0x60, Instr.faddB32),
     (0x61, Instr.fsubB32), (0x62, Instr.fmulB32), (0x64, Instr.fminB32), (0x65, Instr.fmaxB32),
     (0x66, Instr.fabsB32), (0x67, Instr.fnegB32), (0x68, Instr.fcmpB32), (0x70, Instr.frcpB32),
     (0x71, Instr.frsqB32), (0x72, Instr.fsqrtB32), (0x73, Instr.fexp2B32), (0x74, Instr.flog2B32),
     (0x75, Instr.fsinB32), (0x76, Instr.fcosB32), (0x77, Instr.ftanhB32), (0xA0, Instr.ldB32), (0xA1, Instr.stB32)].all
      (fun r => decodeTableWord 32 (baseWord r.1) == some (r.2 baseFields)) = true := by decide

/-- R118, R135, R136, R285: the extended forms of majors 0x01 to 0x1F, with the minor and the X that pick the row. -/
theorem test_decode_extended_01_to_1f :
    [(0x01, 0, 0, Instr.addX96), (0x02, 0, 0, Instr.subX96), (0x03, 0, 0, Instr.addcX96),
     (0x04, 0, 0, Instr.subbX96), (0x05, 0, 0, Instr.mulLoX96), (0x06, 0, 0, Instr.mulHiX96),
     (0x07, 0, 0, Instr.mulwX96), (0x08, 0, 0, Instr.mad), (0x09, 0, 0, Instr.divX96), (0x0A, 0, 0, Instr.remX96),
     (0x0B, 0, 0, Instr.negX96), (0x0C, 0, 0, Instr.absX96), (0x0D, 0, 0, Instr.minX96), (0x0E, 0, 0, Instr.maxX96),
     (0x10, 0, 0, Instr.andX96), (0x11, 0, 0, Instr.orX96), (0x12, 0, 0, Instr.xorX96), (0x13, 0, 0, Instr.notX96),
     (0x14, 0, 0, Instr.andnX96), (0x15, 0, 0, Instr.shlX96), (0x16, 0, 0, Instr.shrX96),
     (0x17, 0, 0, Instr.sraX96), (0x18, 0, 0, Instr.rolX96), (0x19, 0, 0, Instr.rorX96), (0x1A, 0, 0, Instr.bfeX96),
     (0x1B, 0, 0, Instr.bfi), (0x1C, 0, 0, Instr.popcX96), (0x1D, 0, 0, Instr.clzX96), (0x1E, 0, 0, Instr.ctzX96),
     (0x1F, 0, 0, Instr.brevX96)].all
      (fun r => decodeTableWord 96 (extendedWord r.1 r.2.1 r.2.2.1) ==
        some (r.2.2.2 (extendedFields r.2.1 r.2.2.1))) = true := by decide

/-- R118, R135, R136, R285: the extended forms of majors 0x20 to 0x33, with the minor and the X that pick the row. -/
theorem test_decode_extended_20_to_33 :
    [(0x20, 0, 0, Instr.sel), (0x21, 0, 0, Instr.movX96), (0x22, 0, 0, Instr.movk), (0x24, 0, 0, Instr.leaX96),
     (0x25, 0, 0, Instr.leam), (0x26, 0, 0, Instr.cmpX96), (0x30, 0, 0, Instr.pandX96), (0x31, 0, 0, Instr.porX96),
     (0x32, 0, 0, Instr.pxorX96), (0x33, 0, 0, Instr.pnotX96)].all
      (fun r => decodeTableWord 96 (extendedWord r.1 r.2.1 r.2.2.1) ==
        some (r.2.2.2 (extendedFields r.2.1 r.2.2.1))) = true := by decide

/-- R118, R135, R136, R285: the extended forms of majors 0x40 to 0x5B, with the minor and the X that pick the row. -/
theorem test_decode_extended_40_to_5b :
    [(0x40, 0, 0, Instr.nopX96), (0x41, 0, 0, Instr.bra), (0x42, 0, 0, Instr.brx), (0x43, 0, 0, Instr.jmp),
     (0x44, 0, 0, Instr.call), (0x45, 0, 0, Instr.retX96), (0x46, 0, 0, Instr.loop), (0x47, 0, 0, Instr.syncwX96),
     (0x48, 0, 0, Instr.reform), (0x49, 0, 0, Instr.yieldX96), (0x4A, 0, 0, Instr.haltX96),
     (0x4B, 0, 0, Instr.wait), (0x50, 0, 0, Instr.send), (0x51, 0, 0, Instr.sendb), (0x52, 0, 0, Instr.post),
     (0x53, 0, 0, Instr.spawn), (0x54, 0, 0, Instr.trap), (0x55, 0, 0, Instr.eretX96), (0x56, 0, 0, Instr.rdcr),
     (0x57, 0, 0, Instr.wrcr), (0x58, 0, 0, Instr.femark), (0x59, 0, 0, Instr.fefill), (0x5A, 0, 0, Instr.trace),
     (0x5B, 0, 0, Instr.cntrFold), (0x48, 1, 0, Instr.reformS), (0x4A, 1, 0, Instr.haltR), (0x50, 1, 0, Instr.sendT)].all
      (fun r => decodeTableWord 96 (extendedWord r.1 r.2.1 r.2.2.1) ==
        some (r.2.2.2 (extendedFields r.2.1 r.2.2.1))) = true := by decide

/-- R118, R135, R136, R285: the extended forms of majors 0x60 to 0x77, with the minor and the X that pick the row. -/
theorem test_decode_extended_60_to_77 :
    [(0x60, 0, 0, Instr.faddX96), (0x61, 0, 0, Instr.fsubX96), (0x62, 0, 0, Instr.fmulX96),
     (0x63, 0, 0, Instr.ffma), (0x64, 0, 0, Instr.fminX96), (0x65, 0, 0, Instr.fmaxX96),
     (0x66, 0, 0, Instr.fabsX96), (0x67, 0, 0, Instr.fnegX96), (0x68, 0, 0, Instr.fcmpX96),
     (0x69, 0, 0, Instr.fclass), (0x6A, 0, 0, Instr.frnd), (0x70, 0, 0, Instr.frcpX96), (0x71, 0, 0, Instr.frsqX96),
     (0x72, 0, 0, Instr.fsqrtX96), (0x73, 0, 0, Instr.fexp2X96), (0x74, 0, 0, Instr.flog2X96),
     (0x75, 0, 0, Instr.fsinX96), (0x76, 0, 0, Instr.fcosX96), (0x77, 0, 0, Instr.ftanhX96)].all
      (fun r => decodeTableWord 96 (extendedWord r.1 r.2.1 r.2.2.1) ==
        some (r.2.2.2 (extendedFields r.2.1 r.2.2.1))) = true := by decide

/-- R118, R135, R136, R285: the extended forms of majors 0x80 to 0x9A, with the minor and the X that pick the row. -/
theorem test_decode_extended_80_to_9a :
    [(0x80, 0, 0, Instr.cvt), (0x81, 0, 0, Instr.gcvt), (0x82, 0, 0, Instr.gcmp), (0x83, 0, 0, Instr.gclass),
     (0x88, 0, 0, Instr.dot4), (0x89, 0, 0, Instr.vadd), (0x8A, 0, 0, Instr.vsub), (0x8B, 0, 0, Instr.vmul),
     (0x8C, 0, 0, Instr.vmad), (0x8D, 0, 0, Instr.vmin), (0x8E, 0, 0, Instr.vmax), (0x90, 0, 0, Instr.shfl),
     (0x91, 0, 0, Instr.ballot), (0x92, 0, 0, Instr.vote), (0x93, 0, 0, Instr.rand), (0x98, 0, 0, Instr.qxmax),
     (0x99, 0, 0, Instr.qscale), (0x9A, 0, 0, Instr.qcvt)].all
      (fun r => decodeTableWord 96 (extendedWord r.1 r.2.1 r.2.2.1) ==
        some (r.2.2.2 (extendedFields r.2.1 r.2.2.1))) = true := by decide

/-- R118, R135, R136, R285: the extended forms of majors 0xA0 to 0xAD, with the minor and the X that pick the row. -/
theorem test_decode_extended_a0_to_ad :
    [(0xA0, 0, 0, Instr.ldX96), (0xA1, 0, 0, Instr.stX96), (0xA2, 0, 0, Instr.ldg), (0xA3, 0, 0, Instr.sts),
     (0xA4, 0, 0, Instr.pref), (0xA5, 0, 0, Instr.atom), (0xA6, 0, 0, Instr.fence), (0xA8, 0, 0, Instr.barArr),
     (0xA9, 0, 0, Instr.barWait), (0xAA, 0, 0, Instr.barSync), (0xAB, 0, 0, Instr.cvsign),
     (0xAC, 0, 0, Instr.cvwait), (0xAD, 0, 0, Instr.bndSet)].all
      (fun r => decodeTableWord 96 (extendedWord r.1 r.2.1 r.2.2.1) ==
        some (r.2.2.2 (extendedFields r.2.1 r.2.2.1))) = true := by decide

/-- R118, R135, R136, R285: the extended forms of majors 0xC0 to 0xCC, with the minor and the X that pick the row. -/
theorem test_decode_extended_c0_to_cc :
    [(0xC0, 0, 0, Instr.flumeCopy), (0xC1, 0, 0, Instr.flumeTile), (0xC2, 0, 0, Instr.flumeWait),
     (0xC3, 0, 0, Instr.flumeCvt), (0xC4, 0, 0, Instr.gset), (0xC5, 0, 0, Instr.gclr), (0xC8, 0, 0, Instr.tspawn),
     (0xC9, 0, 0, Instr.trange), (0xCA, 0, 0, Instr.tdone), (0xCB, 0, 0, Instr.tabort), (0xCC, 0, 0, Instr.tstamp)].all
      (fun r => decodeTableWord 96 (extendedWord r.1 r.2.1 r.2.2.1) ==
        some (r.2.2.2 (extendedFields r.2.1 r.2.2.1))) = true := by decide

/-- R118, R135, R136, R285: the extended forms of majors 0xD0 to 0xDB, with the minor and the X that pick the row. -/
theorem test_decode_extended_d0_to_db :
    [(0xD0, 0, 0, Instr.rayEnq), (0xD1, 0, 0, Instr.rayBox4), (0xD2, 0, 0, Instr.rayTri),
     (0xD3, 0, 0, Instr.rayNext), (0xD4, 0, 0, Instr.rayHit), (0xD5, 0, 0, Instr.rayFin),
     (0xD8, 0, 0, Instr.primEmit), (0xD9, 0, 0, Instr.visRead), (0xDA, 0, 0, Instr.texReq),
     (0xDB, 0, 0, Instr.blkDcmp), (0xD8, 0, 1, Instr.primEmitClose)].all
      (fun r => decodeTableWord 96 (extendedWord r.1 r.2.1 r.2.2.1) ==
        some (r.2.2.2 (extendedFields r.2.1 r.2.2.1))) = true := by decide

/-- R118, R135, R136, R285: the extended forms of majors 0xE0 to 0xEC, with the minor and the X that pick the row. -/
theorem test_decode_extended_e0_to_ec :
    [(0xE0, 0, 0, Instr.tld), (0xE1, 0, 0, Instr.tldt), (0xE2, 0, 0, Instr.tst), (0xE3, 0, 0, Instr.tzero),
     (0xE4, 0, 0, Instr.tgather), (0xE5, 0, 0, Instr.nzscan), (0xE6, 0, 0, Instr.mma), (0xE7, 0, 0, Instr.mmaS),
     (0xE8, 0, 0, Instr.accMov), (0xE9, 0, 0, Instr.accLd), (0xEA, 0, 0, Instr.accSt), (0xEB, 0, 0, Instr.accCvt),
     (0xEC, 0, 0, Instr.accZero)].all
      (fun r => decodeTableWord 96 (extendedWord r.1 r.2.1 r.2.2.1) ==
        some (r.2.2.2 (extendedFields r.2.1 r.2.2.1))) = true := by decide

/-! ### Encoding -/

/-- R117: the encoder writes the example's bytes. -/
theorem test_encode_r117_example :
    encode (.addB32 { b := 0x27, a := 5, d := 4, g := 3, e := false, lit := none }) = [0x08, 0x18, 0x51, 0x9C] := by
  decide

/-! ### Well-formed words -/

/-- An extended word with every field zero. -/
def blankWord : X96 :=
  { rsv := 0, kb := false, wu := false, sl := false, em := false, ft := 0, y := false, stall := 0, hint := 0, x := 0
    c := 0, b := 0, a := 0, d := 0, ty := 0, minor := 0, gc := false, g2n := false, g2 := 0, g1n := false, g1 := 0
    e := false, lit := none }

/-- An extended instruction of an operation, with the E and EM bits it must have. -/
def ins (op : Op) (d a b c x : Nat) (ty : Nat := 0) (minor : Nat := 0) (hint : Nat := 0) : Ins :=
  { op := op, b32 := false
    w := { blankWord with
      d := BitVec.ofNat 8 d, a := BitVec.ofNat 8 a, b := BitVec.ofNat 8 b, c := BitVec.ofNat 8 c, x := BitVec.ofNat 8 x
      ty := BitVec.ofNat 4 ty, minor := BitVec.ofNat 8 minor, hint := BitVec.ofNat 3 hint, e := op.mustEnd
      em := op.long } }

/-- ADD g8, g4, g5 is well formed, and for each check of R138 a variant is refused by that check. -/
theorem test_wellFormed_add : (Instr.addX96 (ins .add 8 4 5 0 0).w).wellFormed = true := by decide

theorem test_wellFormed_refuses :
    let w := (ins .add 8 4 5 0 0).w
    ({ op := .mad, b32 := true, w := w } : Ins).formOk = false ∧
    ({ op := .add, b32 := false, w := { w with rsv := 1 } } : Ins).reservedOk = false ∧
    ({ op := .add, b32 := false, w := { w with minor := 1 } } : Ins).minorOk = false ∧
    ({ op := .add, b32 := false, w := { w with ty := 0xA } } : Ins).typeOk = false ∧
    ({ op := .add, b32 := false, w := { w with c := 1 } } : Ins).operandsOk = false ∧
    ({ op := .add, b32 := false, w := { w with b := 0, lit := some 0x80000000 } } : Ins).literalOk = false ∧
    ({ op := .lit, b32 := false, w := blankWord } : Ins).literalOk = false ∧
    ({ op := .add, b32 := false, w := { w with kb := true } } : Ins).kbOk = false ∧
    ({ op := .add, b32 := false, w := { w with hint := 1 } } : Ins).hintOk = false ∧
    ({ op := .add, b32 := false, w := { w with em := true } } : Ins).emOk = false ∧
    ({ op := .jmp, b32 := false, w := { w with sl := true } } : Ins).slOk = false ∧
    ({ op := .movk, b32 := false, w := { w with wu := true } } : Ins).wuOk = false ∧
    ({ op := .bra, b32 := false, w := w } : Ins).endOk = false ∧
    ({ op := .add, b32 := false, w := { w with d := 9, ty := 2 } } : Ins).operandsOk = false ∧
    ({ op := .lea, b32 := false, w := { w with x := 4 } } : Ins).extraOk = false ∧
    ({ op := .reformS, b32 := false, w := w } : Ins).rowOk = false ∧
    (Instr.primEmitClose (ins .primEmitClose 0 0 0 0 0).w).wellFormed = false := by decide

/-- R138: a variant that one check refuses is no well-formed instruction. -/
theorem test_wellFormed_all :
    let w := (ins .add 8 4 5 0 0).w
    [{ w with rsv := 1 }, { w with minor := 1 }, { w with ty := 0xA }, { w with c := 1 }, { w with kb := true },
      { w with hint := 1 }, { w with em := true }].all (fun v => !(Instr.addX96 v).wellFormed) = true := by decide


/-- What decodes from 32-bit words: its operation, D, A, B, C and X, where it is well formed. -/
def reads (ws : List Nat) : Option (Op × List Nat) :=
  (decodeTableWord (32 * ws.length) (ws.foldr (fun (w acc : Nat) => w + 2 ^ 32 * acc) 0)).bind fun i =>
    if i.wellFormed then i.ins.map fun k => (k.op, [k.d, k.a, k.b, k.c, k.x]) else none

/-- The examples of words in R137, R143, R148, R152, R154, R158, R166, R174, R181, R196 and R197. -/
theorem test_decode_examples_06_07 :
    reads [0x00069809, 0x00060404, 0] = some (.add, [4, 4, 6, 0, 0]) ∧
    reads [0x00000254] = some (.halt, [0, 0, 0, 0, 0]) ∧
    reads [0x00000200] = some (.nop, [0, 0, 0, 0, 0]) ∧
    reads [0x10000039, 0x0005040A, 0] = some (.mulw, [10, 4, 5, 0, 0]) ∧
    (reads [0x0000020D, 0xFFFFF000, 0x000000FF]).map Prod.fst = some .bra ∧
    (reads [0x00000A45, 0x00010000, 0]).map Prod.fst = some .reform ∧
    reads [0x00000281, 0x08061400, 0x00000003] = some (.send, [0, 20, 6, 8, 3]) ∧
    reads [0x000002B1, 0x00000004, 0x00000050] = some (.rdcr, [4, 0, 0, 0, 0x50]) ∧
    reads [0x18510300] = some (.fadd, [4, 5, 6, 0, 0]) ∧
    reads [0x00100401, 0x00000405, 0x00000109] = some (.cvt, [5, 4, 0, 0, 9]) ∧
    reads [0x100004C9, 0x00000506, 0x00000024] = some (.qscale, [6, 5, 0, 0, 0x24]) ∧
    reads [0x100004D1, 0x00060507, 0x00000044] = some (.qcvt, [7, 5, 6, 0, 0x44]) := by decide

/-- The examples of words in R206, R208, R226, R230, R231 and R249. -/
theorem test_decode_examples_08_10 :
    reads [0x1080052B, 0x0C000A08, 0x00100005, 0x00004400, 0] = some (.atom, [8, 10, 0, 12, 5]) ∧
    reads [0x02800531, 0, 0x00000005] = some (.fence, [0, 0, 0, 0, 5]) ∧
    reads [0x20000701, 0x0C000A02, 0] = some (.tld, [2, 10, 0, 12, 0]) ∧
    reads [0x20000729, 0x00000008, 0x00000009] = some (.nzscan, [8, 0, 0, 0, 9]) ∧
    reads [0x90000721, 0x0C080A02, 0x0000000E] = some (.tgather, [2, 10, 8, 12, 14]) ∧
    reads [0x00000681, 0x00001400, 0] = some (.rayEnq, [0, 20, 0, 0, 0]) ∧
    reads [0x00000691, 0x000D000A, 0] = some (.rayTri, [10, 0, 13, 0, 0]) ∧
    reads [0x0000069B, 0, 0, 7, 0] = some (.rayNext, [0, 0, 0, 0, 0]) ∧
    reads [0x000006A1, 0, 0] = some (.rayHit, [0, 0, 0, 0, 0]) := by decide

/-- The examples of words in R264, R291, R293 and R295. -/
theorem test_decode_examples_11_12 :
    reads [0x00000641, 0x08061400, 0x00000003] = some (.tspawn, [0, 20, 6, 8, 3]) ∧
    reads [0x0000064B, 0x00000E00, 0x00000003, 0x00000400, 0] = some (.trange, [0, 14, 0, 0, 3]) ∧
    reads [0x00000655, 0, 0] = some (.tdone, [0, 0, 0, 0, 0]) ∧
    reads [0x000006C9, 0x000C0008, 0] = some (.visRead, [8, 0, 12, 0, 0]) ∧
    reads [0x000006D3, 0x08001400, 0x00000018, 9, 0] = some (.texReq, [0, 20, 0, 8, 24]) ∧
    reads [0x000006D9, 0x00061405, 0] = some (.blkDcmp, [5, 20, 6, 0, 0]) := by decide

/-! ### One step of an instruction -/

/-- The row an extended word belongs to. -/
def row (k : Ins) : Option Instr :=
  if k.b32 then none
  else match rowX96 k.op.major k.minor (k.w.x.getLsbD 0 && !k.w.kb) with
    | .ok f => some (f k.w)
    | .error _ => none

/-- The general registers a thread is given. -/
def regs (l : List (Nat × Nat)) : Table Reg := l.map fun e => (e.1, { val := BitVec.ofNat 32 e.2 })

/-- A scalar thread of launch 0 in context 0 of core 0, whose run is in progress. -/
def scalar : State :=
  (State.reset.withFetchWord 32 0).modThread 0 fun th => { th with g := regs [(2, 0x400000), (4, 8), (5, 9), (6, 1)] }

/-- Its run. -/
def scalarRun : Run := { group := 0, members := [0], pc := BitVec.ofNat 64 programBase }

/-- `scalar` with its thread changed. -/
def scalarWith (f : Thread → Thread) : State := scalar.modThread 0 f

/-- Launch 0's record changed. -/
def withRec (s : State) (f : LaunchRec → LaunchRec) : State := s.modLaunch 0 fun l => { l with r := f l.r }

/-- Two threads of a wave in slot 0 of wave engine 0, with 128 KiB of general registers and four accumulators. -/
def wave : State :=
  let th : Thread := scalar.threads.getD 0 { part := 0, launch := 0, wg := 0, home := .plist 0, pc := 0 }
  { scalar with
    threads := [(1, { th with home := .wave 0 0 0 }), (2, { th with home := .wave 0 0 1 })], focus := waveKey 0
    slots := [(slotKey 0 0, { part := 0, launch := 0, wg := 0, present := [0, 1], tiles := 4, grant := 32768 })]
    engines := [(waveKey 0, { run := some { group := 0, members := [1, 2], pc := BitVec.ofNat 64 programBase } })] }

/-- Its run. -/
def waveRun : Run := { group := 0, members := [1, 2], pc := BitVec.ofNat 64 programBase }

/-- Slot 0 of wave engine 0. -/
def slot0 : Slot := { part := 0, launch := 0, wg := 0, present := [0, 1], tiles := 4, grant := 32768 }

/-- A thread that has no home. -/
def nobody : Thread := { part := 0, launch := 0, wg := 0, home := .plist 0, pc := 0 }

/-- What thread `u` holds in general registers `ns`, and its flags, after one instruction. -/
def after (i : Option Instr) (s : State) (u : Nat) (ns : List Nat) : Option (List Nat × Nat) :=
  match i.map fun i => exec i s with
  | some (.next t) => (t.thread? u).map fun th => (ns.map fun n => (th.readG n).val.toNat, th.fex.toNat)
  | _ => none

/-- A scalar state whose thread has these registers. -/
def withG (l : List (Nat × Nat)) : State := scalarWith fun th => { th with g := regs l }

/-- R148's examples: MULW, DIV and REM. -/
theorem test_integer_examples :
    after (row (ins .mulw 10 4 5 0 0 1)) (withG [(4, 0xFFFFFFFF), (5, 2)]) 0 [10, 11] = some ([0xFFFFFFFE, 1], 0) ∧
    after (row (ins .div 8 4 5 0 0 6)) (withG [(4, 0x80), (5, 0xFF)]) 0 [8] = some ([0xFFFFFF80], 0) ∧
    after (row (ins .div 8 4 5 0 0 7)) (withG [(4, 0x80), (5, 0xFF)]) 0 [8] = some ([0], 0) ∧
    after (row (ins .rem 8 4 5 0 0 0)) (withG [(4, 7), (5, 0)]) 0 [8] = some ([7], 0) ∧
    after (row (ins .div 8 4 5 0 0 1)) (withG [(4, 7), (5, 0)]) 0 [8] = some ([0xFFFFFFFF], 0) := by decide

/-- R148: the carry of ADD is the carry out of bit 31, and of SUB the absence of a borrow's complement. -/
theorem test_add_carry :
    after (row (ins .add 8 4 5 0 0)) (withG [(4, 0xFFFFFFFF), (5, 1)]) 0 [8] = some ([0], 0) ∧
    (match (row (ins .add 8 4 5 0 0)).map fun i => exec i (withG [(4, 0xFFFFFFFF), (5, 1)]) with
      | some (.next t) => (t.thread? 0).map fun th => th.carry
      | _ => none) = some true := by decide

/-- R103, R181, R182: 3.3 is 0x5A in grain8 and sets NX; 3.0 + 0.25 is 3.25 with no flag; 4,096 + 4,096 stays 4,096 and sets GS and
NX; the unreal code stays unreal. -/
theorem test_grain_examples :
    after (row (ins .cvt 5 4 0 0 9 0 1)) (withG [(4, 0x40533333)]) 0 [5] = some ([0x5A], 16) ∧
    after (row (ins .fadd 8 4 5 0 0 9)) (withG [(4, 0x58), (5, 0x20)]) 0 [8] = some ([0x5A], 0) ∧
    after (row (ins .fadd 8 4 5 0 0 9)) (withG [(4, 0x7F), (5, 0x7F)]) 0 [8] =
      some ([0x7F], 48) ∧
    after (row (ins .fadd 8 4 5 0 0 9)) (withG [(4, 0x5A), (5, 0x80)]) 0 [8] = some ([0x80], 0) := by decide

/-- R191, R193: from a generator of 1 the output is 0x47E4_CE4B_896C_DD1D, RAND.f32 0x3E8F_C99C. -/
theorem test_rand_example :
    after (row (ins .rand 8 0 0 0 0 0xF)) (scalarWith fun th => { th with rng := 1 }) 0 [9, 8] =
      some ([0x47E4CE4B, 0x896CDD1D], 0) ∧
    after (row (ins .rand 8 0 0 0 0 1)) (scalarWith fun th => { th with rng := 1 }) 0 [8] = some ([0x3E8FC99C], 0) := by
  decide

/-- R196, R197's example: a power-of-two scale of 3.3 for e4m3, then a lane converted with it. -/
theorem test_quantise_example :
    after (row (ins .qscale 6 5 0 0 0x24 1)) (withG [(5, 0x40533333)]) 0 [6] = some ([0x3C000000], 0) ∧
    after (row (ins .qcvt 7 5 6 0 0x44 1)) (withG [(5, 0x40533333), (6, 0x3C000000), (7, 0)]) 0 [7] =
      some ([0x007D0000], 16) := by decide

/-- R115's examples: FRCP of 2^-128, -2^-149, 2^127, 2, -0 and infinity. -/
theorem test_reciprocal_examples :
    specialValue .frcp 1 1 0 0x00200000 = (0x7F800000, { of := true, nx := true }) ∧
    specialValue .frcp 1 1 0 0x80000001 = (0xFF800000, { of := true, nx := true }) ∧
    specialValue .frcp 1 1 0 0x7F000000 = (0x00400000, {}) ∧
    specialValue .frcp 1 1 0 0x40000000 = (0x3F000000, {}) ∧
    specialValue .frcp 1 1 0 0x80000000 = (0xFF800000, { dz := true }) ∧
    specialValue .frcp 1 1 0 0x7F800000 = (0, {}) := by decide

/-- R150's example: LEAM.rel on core (300, 45) with dx = -1 and dy = 2. -/
theorem test_leam_example :
    let s := { scalar with
      threads := [(0, { scalar.threads.getD 0 nobody with home := .scalar (45 * 512 + 300) 0, g := regs [(4, 0x203FF)] })]
      focus := 45 * 512 + 300
      engines := [(45 * 512 + 300, { run := some scalarRun })] }
    after (row { ins .leam 10 4 0 0 1 with w := { (ins .leam 10 4 0 0 1).w with lit := some 0x10 } }) s 0 [10, 11] =
      some ([0x2F958010, 0x00F00000], 0) := by decide

/-- R127, R310: two fields naming one queue take its entries in order, and both leave it. -/
theorem test_queue_pops :
    let s := scalarWith fun th => { th with sliced := true, oq := [(0, [{ val := 5 }, { val := 7 }, { val := 9 }])] }
    after (row (ins .sub 8 60 60 0 0)) s 0 [8] = some ([0xFFFFFFFE], 0) ∧
    (match (row (ins .sub 8 60 60 0 0)).map fun i => exec i s with
      | some (.next t) => (t.thread? 0).map fun th => th.oq.getD 0 []
      | _ => none) = some [{ val := 9 }] := by decide

/-- R188's example at its smallest: SHFL.rot over segments of 2 exchanges lanes 0 and 1. -/
theorem test_shuffle :
    let s := { wave with threads := wave.threads.map fun (e : Nat × Thread) =>
      (e.1, { e.2 with g := regs [(5, 40 + e.1)] }) }
    after (row { ins .shfl 6 5 0 0 1 1 1 with w := { (ins .shfl 6 5 0 0 1 1 1).w with lit := some 1 } }) s 1 [6] = some ([42], 0) ∧
    after (row { ins .shfl 6 5 0 0 1 1 1 with w := { (ins .shfl 6 5 0 0 1 1 1).w with lit := some 1 } }) s 2 [6] =
      some ([41], 0) := by decide

/-- R164, R166: TRAP saves the PC and b, and with no handler the launch is stopped; ERET resumes at the saved PC. -/
theorem test_eret :
    (match (row (ins .eret 0 0 0 0 0)).map fun i => exec i (scalarWith fun th => { th with inTrap := true, epc := 0x4000 }) with
      | some (.next t) => (t.thread? 0).map fun th => (th.pc, th.inTrap)
      | _ => none) = some (0x4000#64, false) := by decide

/-- R47, R48, R164: a TRAP with a handler goes to it, with cause 8, $einfo b and the TRAP's own PC. -/
theorem test_trap_entry :
    let s := withRec scalar fun r => { r with trap := 0x8000 }
    (match (row (ins .trap 0 0 4 0 0)).map fun i => exec i s with
      | some (.next t) => (t.thread? 0).map fun th => (th.pc, th.epc, th.ecause, th.einfo, th.inTrap)
      | _ => none) = some (0x8000#64, BitVec.ofNat 64 programBase, 8#32, 8#32, true) := by decide

/-- R138, R139: an ill-formed word traps with cause 1 and $einfo its first word, and an empty active set only passes. -/
theorem test_illegal_and_empty :
    let s := withRec scalar fun r => { r with trap := 0x8000 }
    let k : Ins := { ins .add 8 4 5 0 0 with w := { (ins .add 8 4 5 0 0).w with hint := 1 } }
    (match (row k).map fun i => exec i s with
      | some (.next t) => (t.thread? 0).map fun th => (th.pc, th.ecause, th.einfo)
      | _ => none) = some (0x8000#64, 1#32, 9#32) ∧
    (match (row { k with w := { k.w with g1 := 1 } }).map fun i => exec i s with
      | some (.next t) => (t.thread? 0).map fun th => (th.pc, th.ecause, th.einfo)
      | _ => none) = some (BitVec.ofNat 64 programBase + 12, 0#32, 0#32) := by decide

/-! ### The hypotheses of the statements about instructions can be met -/

/-- An instruction of the uniform datapath. -/
def uniform (k : Ins) : Ins := { k with w := { k.w with wu := true } }

/-- An instruction of an access slice. -/
def sliced (k : Ins) : Ins := { k with w := { k.w with sl := true } }

/-- An instruction with a literal. -/
def withLit (k : Ins) (v : W64) : Ins := { k with w := { k.w with lit := some v } }

/-- The page at the program's base, as a stand caches it. -/
def page : Trans :=
  { part := 0, base := programBase, size := 65536, host := false, frame := programBase, lease := 4, key := 0, r := true
    w := true, x := true, m := false }

/-- A thread and its access slice, whose run is in progress in its skidder, which caches that page. -/
def skidding : State :=
  let s := withRec scalar fun r => { r with entry := programBase, execStart := programBase + 64 }
  let th : Thread := s.threads.getD 0 nobody
  { s with
    threads := [(0, { th with sliced := true }), (1, { th with sliced := true, home := .skidder 0 })]
    focus := skidKey (.scalar 0 0), unitTlbs := [(State.skidCache 0, [page])]
    engines := [(skidKey (.scalar 0 0), { run := some { group := 0, members := [1], pc := BitVec.ofNat 64 programBase } })] }

/-- Its run. -/
def skidRun : Run := { group := 0, members := [1], pc := BitVec.ofNat 64 programBase }

/-- The integer instructions, each with operands that suit it. -/
def integers : List Ins :=
  [Op.add, .sub, .addc, .subb, .mulLo, .mulHi, .mulw, .div, .rem, .min, .max, .and, .or, .xor, .andn, .shl, .shr, .sra, .rol,
    .ror, .bfe].map (fun o => ins o 8 4 5 0 0) ++
  [Op.neg, .abs, .not, .popc, .clz, .ctz, .brev].map (fun o => ins o 8 4 0 0 0) ++ [ins .mad 8 4 5 6 0, ins .bfi 8 4 5 6 0]

/-- The run before ADDC and SUBB. -/
def carrying : Run := { scalarRun with count := 1, addFamily := true }

/-- `scalar` after an ADD. -/
def carryState : State := { scalar with engines := scalar.engines.mod 0 fun e => { e with run := some carrying } }

theorem test_witness_IntegerResults :
    ∀ k ∈ integers, (row k).bind Instr.ins = some k ∧ k.op ∈ intOps ∧ k.w.wu = false ∧ k.w.sl = false ∧
      Clear (semOf k.op) k carryState carrying 0 [0] := by
  unfold Clear Reached; decide

/-- A base word meets them too. -/
theorem test_witness_IntegerResults_base :
    let w : B32 := { b := 5, a := 4, d := 8, g := 0, e := false, lit := none }
    (Instr.addB32 w).ins = some (w.ins .add) ∧ Clear (semOf .add) (w.ins .add) scalar scalarRun 0 [0] := by
  unfold Clear Reached; decide

theorem test_witness_MoveAndMailboxResults :
    (∀ k ∈ [ins .sel 8 4 5 0 0, ins .mov 8 0 4 0 0, withLit (ins .lit 8 0 0 0 0) 5, ins .lea 8 2 4 0 0, ins .leam 8 4 5 0 0],
      (row k).bind Instr.ins = some k ∧ (k.op = .mov → k.w.kb = true ∨ k.x ≠ 1) ∧ k.w.wu = false ∧ k.w.sl = false ∧
      Clear (semOf k.op) k scalar scalarRun 0 [0]) ∧
    (row (ins .mov 3 0 4 0 1)).bind Instr.ins = some (ins .mov 3 0 4 0 1) ∧
    Clear (semOf .mov) (ins .mov 3 0 4 0 1) scalar scalarRun 0 [0] := by
  unfold Clear Reached; decide

theorem test_witness_MovkResults :
    ∀ k ∈ [ins .movk 3 4 0 0 0, ins .movk 8 3 0 0 1], (row k).bind Instr.ins = some k ∧
      Clear (semOf k.op) k scalar scalarRun 0 [0] ∧ Clear (semOf k.op) k wave waveRun 1 [1, 2] := by
  unfold Clear Reached; decide

theorem test_witness_UniformResults :
    ∀ k ∈ [uniform (ins .add 8 4 5 0 0), uniform (ins .mov 8 0 4 0 0)], (row k).bind Instr.ins = some k ∧ k.op ∈ wordOps ∧
      (k.op = .mov → k.w.kb = true ∨ k.x ≠ 1) ∧ k.w.wu = true ∧
      Clear (semOf k.op) k scalar scalarRun 0 [0] ∧ Clear (semOf k.op) k wave waveRun 1 [1, 2] := by
  unfold Clear Reached; decide

theorem test_witness_AccessSliceResults :
    ∀ k ∈ [sliced (ins .add 60 4 5 0 0), sliced (ins .add 8 4 5 0 0), sliced (ins .lea 62 2 4 0 0)],
      (row k).bind Instr.ins = some k ∧ k.op ∈ wordOps ∧ k.w.wu = false ∧ k.w.sl = true ∧
      Clear (semOf k.op) k skidding skidRun 1 [1] ∧ (∀ u ∈ [1], skidding.mainOf u ∉ skidRun.members) ∧
      (∀ u ∈ [1], ∀ v ∈ [1], skidding.mainOf u = skidding.mainOf v → u = v) ∧
      (skidding.thread? (skidding.mainOf 1)).isSome = true := by
  unfold Clear Reached; decide

theorem test_witness_PredicateResults :
    (∀ k ∈ [ins .cmp 3 4 5 0 0, ins .pand 3 1 2 0 0, ins .por 3 1 2 0 0, ins .pxor 3 1 2 0 0, ins .pnot 3 1 0 0 0,
        uniform (ins .cmp 3 4 5 0 0)],
      (row k).bind Instr.ins = some k ∧ k.w.sl = false ∧ Clear (semOf k.op) k wave waveRun 1 [1, 2]) ∧
    (row (sliced (ins .cmp 3 4 5 0 0))).bind Instr.ins = some (sliced (ins .cmp 3 4 5 0 0)) ∧
    Clear (semOf .cmp) (sliced (ins .cmp 3 4 5 0 0)) skidding skidRun 1 [1] := by
  unfold Clear Reached; decide

theorem test_witness_TransferResults :
    (∀ k ∈ [ins .bra 0 4 0 0 0, ins .brx 0 4 0 0 0, ins .jmp 8 2 0 0 0, ins .jmp 0 2 0 0 0, ins .call 8 4 0 0 0,
        ins .ret 0 2 0 0 0, ins .loop 4 4 0 0 0],
      (row k).bind Instr.ins = some k ∧ k.w.sl = false ∧ Clear (semOf k.op) k scalar scalarRun 0 [0]) ∧
    ∀ k ∈ [sliced (ins .bra 0 0 0 0 0), sliced (ins .loop 4 0 0 0 0)], (row k).bind Instr.ins = some k ∧
      (k.d < 60 ∨ 64 ≤ k.d) ∧ Clear (semOf k.op) k skidding skidRun 1 [1] := by
  unfold Clear Reached; decide

theorem test_witness_NopYieldResults :
    ∀ k ∈ [ins .nop 0 0 0 0 0, ins .yield 0 0 0 0 0], (row k).bind Instr.ins = some k ∧
      Clear (semOf k.op) k scalar scalarRun 0 [0] := by
  unfold Clear Reached; decide

/-- The float, packed and quantisation instructions, each with operands that suit it. -/
def floats : List Ins :=
  [Op.fadd, .fsub, .fmul, .fmin, .fmax, .vadd, .vsub, .vmul, .vmin, .vmax].map (fun o => ins o 8 4 12 0 0 1) ++
  [Op.fabs, .fneg, .fclass, .frnd].map (fun o => ins o 8 4 0 0 0 1) ++
  [ins .ffma 8 4 5 6 0 1, ins .cvt 8 4 0 0 1 0 2, ins .gcvt 8 4 5 0 1 0 8, ins .gclass 8 4 0 0 0 8, ins .dot4 8 4 12 16 0 1,
    ins .vmad 8 4 12 16 0 1, ins .qscale 8 4 0 0 2 1, ins .qcvt 8 4 5 0 2 1]

theorem test_witness_FloatResults :
    ∀ k ∈ floats, (row k).bind Instr.ins = some k ∧ k.op ∈ fltOps ∧ Clear (semOf k.op) k scalar scalarRun 0 [0] := by
  unfold Clear Reached; decide

theorem test_witness_FloatCompares_GrainCompares_RandResults :
    ∀ k ∈ [ins .fcmp 3 4 5 0 0 1, ins .gcmp 3 4 5 0 0 8, ins .gcmp 3 4 5 0 0 0xA 5, ins .rand 8 0 0 0 0 0xF,
        ins .rand 8 0 0 0 0 0xE, ins .rand 8 0 0 0 0 1, ins .rand 8 0 0 0 0 0],
      (row k).bind Instr.ins = some k ∧ Clear (semOf k.op) k scalar scalarRun 0 [0] := by
  unfold Clear Reached; decide

theorem test_witness_ShuffleResults_VoteResults :
    ∀ k ∈ [ins .shfl 8 4 5 0 0 1, ins .shfl 8 4 5 0 1 0, ins .ballot 8 1 0 0 0 1, ins .vote 3 1 0 0 0 1, ins .vote 3 1 0 0 0 1 3],
      (row k).bind Instr.ins = some k ∧ Clear (semOf k.op) k wave waveRun 1 [1, 2] := by
  unfold Clear Reached; decide

theorem test_witness_ProducerResults_WaitSetsDeadline :
    ∀ k ∈ [Op.frcp, .frsq, .fsqrt, .fexp2, .flog2, .fsin, .fcos, .ftanh, .qxmax].map (fun o => ins o 8 4 0 0 0 1) ++
        [ins .wait 0 0 4 0 0],
      (row k).bind Instr.ins = some k ∧ Clear (semOf k.op) k scalar scalarRun 0 [0] := by
  unfold Clear Reached; decide

theorem test_witness_HomesAndHalts :
    (∀ k ∈ [ins .syncw 0 0 0 0 0, ins .reform 0 4 0 0 0, ins .reformS 0 4 0 0 0 0 1, ins .halt 0 0 0 0 0],
      (row k).bind Instr.ins = some k ∧ Clear (semOf k.op) k wave waveRun 1 [1, 2]) ∧
    ∀ k ∈ [ins .syncw 0 0 0 0 0, ins .reform 0 4 0 0 0, ins .reformS 0 4 0 0 0 0 1, ins .halt 0 0 0 0 0, ins .haltR 0 0 4 0 0 0 1],
      (row k).bind Instr.ins = some k ∧ Clear (semOf k.op) k scalar scalarRun 0 [0] := by
  unfold Clear Reached; decide

/-- The memory instructions, each with operands that suit it. -/
def memories : List Ins :=
  [ins .ld 8 2 4 0 0, ins .ldg 8 2 4 0 0, ins .st 8 2 4 0 0, ins .sts 8 2 4 0 0, ins .pref 0 2 4 0 0, ins .atom 8 2 4 5 0 0 8,
    ins .fence 0 0 0 0 0 0 16, ins .fence 0 0 0 0 0 0 0x28]

theorem test_witness_MemoryIssues_MemoryFrame_MemoryOperations :
    (∀ k ∈ memories, (row k).bind Instr.ins = some k ∧
      Clear (semOf k.op) k scalar scalarRun 0 [0] ∧ Clear (semOf k.op) k wave waveRun 1 [1, 2]) ∧
    ∀ u ∈ [0], ((scalar.thread? u).bind Thread.taskOf) = none := by
  unfold Clear Reached; decide

theorem test_witness_MemoryFrame_sliced :
    (row (sliced (ins .ld 60 2 4 0 0))).bind Instr.ins = some (sliced (ins .ld 60 2 4 0 0)) ∧
    Clear (semOf .ld) (sliced (ins .ld 60 2 4 0 0)) skidding skidRun 1 [1] := by
  unfold Clear Reached; decide

theorem test_witness_ReadControlRegister_WriteControlRegister :
    (∀ k ∈ [ins .rdcr 8 0 0 0 8, ins .rdcr 8 0 0 0 0x50], (row k).bind Instr.ins = some k ∧
      Clear (semOf k.op) k scalar scalarRun 0 [0]) ∧
    (∀ x ∈ [2, 3, 4, 5, 0x20, 0x21, 0x50, 0x51], (row (ins .wrcr 0 0 4 0 x)).bind Instr.ins = some (ins .wrcr 0 0 4 0 x) ∧
      crPerThread x = true ∧ Clear (semOf .wrcr) (ins .wrcr 0 0 4 0 x) scalar scalarRun 0 [0]) ∧
    ∀ x ∈ [0x40, 0x41], (row (ins .wrcr 0 0 4 0 x)).bind Instr.ins = some (ins .wrcr 0 0 4 0 x) ∧ crPerThread x = false ∧
      Clear (semOf .wrcr) (ins .wrcr 0 0 4 0 x) scalar scalarRun 0 [0] := by
  unfold Clear Reached; decide

theorem test_witness_FullEmptyMarks_TraceWrites :
    ∀ k ∈ [ins .femark 0 4 0 0 0, ins .femark 0 4 0 0 1, ins .fefill 0 4 0 0 0, ins .fefill 0 0 0 0 0, ins .trace 0 4 5 0 0],
      (row k).bind Instr.ins = some k ∧ Clear (semOf k.op) k scalar scalarRun 0 [0] := by
  unfold Clear Reached; decide

theorem test_witness_Synchronises :
    (∀ k ∈ [ins .barArr 0 0 4 0 0, ins .barWait 0 0 0 0 0, ins .barSync 3 0 4 0 0, ins .cntrFold 0 2 4 0 0, ins .cvsign 0 0 4 0 0,
        ins .cvwait 0 0 0 0 0],
      (row k).bind Instr.ins = some k ∧
      Clear (semOf k.op) k (withRec scalar fun r => { r with bars := 4 }) scalarRun 0 [0]) ∧
    ∀ k ∈ [ins .cvsign 0 0 4 0 0, ins .cvwait 0 0 0 0 0, ins .bndSet 0 0 4 0 0], (row k).bind Instr.ins = some k ∧
      Clear (semOf k.op) k wave waveRun 1 [1, 2] := by
  unfold Clear Reached; decide

/-- A scalar thread whose message has been granted a place. -/
def sending : State :=
  scalarWith fun th => { th with g := regs [(2, 0), (3, 0xFFFFFFFF), (4, 8), (5, 9)], held := .granted }

/-- A scalar thread that runs task 7. -/
def tasking : State :=
  { scalarWith fun th => { th with g := regs [(2, 0), (3, 0xFFFFFFFF), (4, 8), (5, 9)], role := .task 7 } with
    tasks := [(7, { key := { stamp := 5, time := 0, stand := 0, seq := 0 }, part := 0, launch := 0, wg := 0, index := 0
                    payload := [], ranges := [], parent := none, landing := 0, srcCore := 0, phase := .running
                    tid := some 0 })] }

theorem test_witness_MessagesSent :
    (∀ k ∈ [ins .send 0 2 4 0 0, ins .sendT 3 2 4 0 0 0 1, ins .sendb 0 2 4 8 0, ins .spawn 0 2 4 0 0],
      (row k).bind Instr.ins = some k ∧ Clear (semOf k.op) k sending scalarRun 0 [0]) ∧
    ((sending.thread? 0).bind Thread.taskOf) = none ∧
    Clear (semOf .post) (ins .post 0 0 0 0 0) scalar scalarRun 0 [0] ∧
    ∀ k ∈ [ins .send 0 2 4 0 0, ins .sendb 0 2 4 8 0, ins .spawn 0 2 4 0 0],
      (tasking.thread? 0).bind Thread.taskOf = some 7 ∧ Clear (semOf k.op) k tasking scalarRun 0 [0] := by
  unfold Clear Reached; decide

theorem test_witness_TrapAndReturn :
    (row (ins .trap 0 0 4 0 0)).bind Instr.ins = some (ins .trap 0 0 4 0 0) ∧
    Reached (semOf .trap) (ins .trap 0 0 4 0 0) scalar scalarRun 0 [0] ∧
    (row (ins .eret 0 0 0 0 0)).bind Instr.ins = some (ins .eret 0 0 0 0 0) ∧
    Clear (semOf .eret) (ins .eret 0 0 0 0 0) (scalarWith fun th => { th with inTrap := true }) scalarRun 0 [0] := by
  unfold Clear Reached; decide

/-- A scalar thread whose g8 to g11 name a walk of four rows of 64 bytes. -/
def walking : State := withG [(2, 0x400000), (4, 8), (5, 0x101), (8, 4 + 64 * 2 ^ 16), (9, 64), (10, 64), (11, 0)]

theorem test_witness_FlumeInstructions :
    (∀ k ∈ [ins .flumeCopy 2 2 4 0 0, ins .flumeCopy 2 2 4 0 16, ins .flumeTile 2 2 0 8 0, ins .flumeCvt 2 2 4 5 0,
        ins .flumeWait 8 0 4 0 0, ins .gset 0 1 0 0 0, ins .gclr 0 0 0 0 0],
      (row k).bind Instr.ins = some k ∧ Clear (semOf k.op) k walking scalarRun 0 [0]) ∧
    Clear (semOf .blkDcmp) (ins .blkDcmp 8 2 4 0 0) (scalarWith fun th => { th with held := .record [1] false }) scalarRun 0
      [0] := by
  unfold Clear Reached; decide

theorem test_witness_RangesStaged_TimestampsRead_TaskInstructions :
    (∀ k ∈ [ins .trange 0 2 4 0 1, ins .tstamp 8 0 0 0 0, ins .tspawn 0 2 4 0 0], (row k).bind Instr.ins = some k ∧
      Clear (semOf k.op) k scalar scalarRun 0 [0]) ∧
    (∀ k ∈ [ins .tstamp 8 0 0 0 0, ins .tdone 0 0 0 0 0, ins .tabort 0 0 0 0 0], (row k).bind Instr.ins = some k ∧
      Clear (semOf k.op) k tasking scalarRun 0 [0]) ∧
    (tasking.tasks.get? 7).isSome = true ∧ (scalar.launch? 0).isSome = true ∧
    (scalar.thread? 0).map Thread.held ≠ some .granted ∧
    (tasking.tasks.get? 7).map (fun x => (x.tid, x.dead)) = some (some 0, none) ∧
    Clear (semOf .tspawn) (ins .tspawn 0 2 4 0 0) (tasking.modThread 0 fun th => { th with g := regs [(2, 5), (4, 8)] }) scalarRun
      0 [0] := by
  unfold Clear Reached; decide

/-- 64 bytes of which one is set. -/
def oneByte (off v : Nat) : List Byte := List.replicate off 0 ++ [BitVec.ofNat 8 v] ++ List.replicate (63 - off) 0

theorem test_witness_HeldAndRenderInstructions :
    Clear (semOf .rayEnq) (ins .rayEnq 0 2 4 0 0)
      (withRec (scalarWith fun th => { th with held := .granted }) fun r => { r with scene := 64 }) scalarRun 0 [0] ∧
    (∀ k ∈ [ins .primEmit 0 2 4 0 0, ins .texReq 0 2 4 8 2], (row k).bind Instr.ins = some k ∧
      Clear (semOf k.op) k
        (withRec (scalarWith fun th => { th with held := .granted }) fun r => { r with pass := 64 }) scalarRun 0 [0]) ∧
    (row (ins .primEmitClose 0 0 0 0 1)).bind Instr.ins = some (ins .primEmitClose 0 0 0 0 1) ∧
    Clear (semOf .primEmitClose) (ins .primEmitClose 0 0 0 0 1)
      (withRec scalar fun r => { r with pass := 64, passDesc := oneByte 0x22 2 }) scalarRun 0 [0] ∧
    Clear (semOf .visRead) (ins .visRead 8 0 4 0 0)
      (withRec (scalarWith fun th => { th with role := .shading 0 3 5, g := regs [(4, 0x10002)] }) fun r =>
        { r with pass := 64 }) scalarRun 0 [0] := by
  unfold Clear Reached; decide

/-- A traversal thread bound to slot 0 of the batch on stand 0. -/
def bound (h : Held) : State :=
  { withRec (scalarWith fun th => { th with ray := some { stand := 0, batch := 0 }, held := h, g := regs [(4, 0)] }) fun r =>
      { r with scene := 64, sceneDesc := oneByte 8 1 } with
    batches := [(0, { launch := 0, reach := 0, len := 256, loaded := true, count := 1, sent := 1, owner := [(0, 0)] })] }

theorem test_witness_TraversalInstructions :
    (∀ k ∈ [ins .rayBox4 8 0 4 0 0, ins .rayTri 8 0 4 0 0, ins .rayHit 0 0 0 0 0], (row k).bind Instr.ins = some k ∧
      Clear (semOf k.op) k (bound .none) scalarRun 0 [0]) ∧
    ∀ k ∈ [ins .rayNext 0 0 4 0 0, ins .rayFin 0 0 0 0 0], (row k).bind Instr.ins = some k ∧
      Clear (semOf k.op) k (bound .granted) scalarRun 0 [0] := by
  unfold Clear Reached; decide

/-- `wave` with a quarter of the matrix registers, each a tile of 16 rows of 16 FP32 elements, and a diagonal region. -/
def matrix : State :=
  { wave with
    threads := wave.threads.map fun (e : Nat × Thread) => (e.1, { e.2 with g := e.2.g.put 7 { val := 0 } })
    slots := [(slotKey 0 0, { slot0 with
      quarter := some 0, tcfg := (List.range 8).map fun n => (n, BitVec.ofNat 32 (2 ^ 31 + 64 * 4096 + 16 * 64 + 1)) })]
    clusters := [(0, { dgn := [(0, 0x80880000)] })] }

theorem test_witness_ZeroTiles :
    (∀ k ∈ [ins .tzero 7 0 0 0 0, ins .accZero 3 0 0 0 0], (row k).bind Instr.ins = some k ∧
      Reached (semOf k.op) k matrix waveRun 1 [1, 2] ∧ (semOf k.op).ready k [1, 2] matrix = true) ∧
    (matrix.slotOf 1).isSome = true ∧
    let busy := matrix.modSlot 0 0 fun y => { y with
      m := [(7, { pending := [3] })], acc := [(3, { pending := [3] })] }
    Reached (semOf .tzero) (ins .tzero 7 0 0 0 0) busy waveRun 1 [1, 2] ∧ busy.tilePending 1 7 none = true ∧
    Reached (semOf .accZero) (ins .accZero 3 0 0 0 0) busy waveRun 1 [1, 2] ∧ busy.accPending 1 3 none = true := by
  unfold Reached; decide

theorem test_witness_RowInstructions_MatrixInstructions :
    ∀ k ∈ [ins .tld 0 2 4 5 0 1, ins .tldt 0 0 7 0 0 1, ins .tst 0 2 4 5 0 1, ins .tgather 0 2 7 4 0 1, ins .accMov 8 0 7 0 0 1,
        ins .accLd 0 2 4 5 0 1, ins .accSt 0 2 4 5 0 1, ins .mma 0 1 2 0 0 1, ins .mmaS 0 1 2 0 0 1, ins .nzscan 8 0 7 0 8 1,
        ins .nzscan 8 0 7 0 0 1, ins .accCvt 0 0 0 0 0 1],
      (row k).bind Instr.ins = some k ∧ Clear (semOf k.op) k matrix waveRun 1 [1, 2] := by
  unfold Clear Reached; decide

/-- `matrix` with one thread in a lane, g6 all ones. -/
def alone (lane : Nat) : State :=
  { matrix with
    threads := [(1, { matrix.threads.getD 1 nobody with
      home := .wave 0 0 lane, g := regs [(2, 0x400000), (4, 8), (5, 9), (6, 0xFFFFFFFF), (7, 0)] })]
    engines := [(waveKey 0, { run := some { group := 0, members := [1], pc := BitVec.ofNat 64 programBase } })] }

/-- Its run. -/
def aloneRun : Run := { group := 0, members := [1], pc := BitVec.ofNat 64 programBase }

theorem test_witness_RowInstructions_alone :
    (∀ k ∈ [ins .tld 0 2 4 5 0 1, ins .tldt 0 0 7 0 0 1, ins .tst 0 2 4 5 0 1, ins .tgather 0 2 7 4 0 1, ins .accMov 8 0 7 0 0 1,
        ins .accLd 0 2 4 5 0 1, ins .accSt 0 2 4 5 0 1],
      Clear (semOf k.op) k (alone 0) aloneRun 1 [1] ∧ (k.op ≠ .accMov → (alone 0).rowActive k 1 = true)) ∧
    ((alone 0).slotOf 1).isSome = true ∧
    Clear (semOf .tgather) (ins .tgather 0 2 6 4 0 1) (alone 0) aloneRun 1 [1] ∧
    ((alone 0).gatherEa (ins .tgather 0 2 6 4 0 1) 1).1 = 0xFFFFFFFF#32 ∧ (alone 0).ops = [] ∧
    Clear (semOf .tld) (ins .tld 0 2 4 5 0 1) (alone 31) aloneRun 1 [1] ∧
    (alone 31).rowActive (ins .tld 0 2 4 5 0 1) 1 = false := by
  unfold Clear Reached; decide

/-! ### The hypotheses of the statements about the part's own steps can be met -/

/-- Bytes from little-endian words given by their offsets. -/
def bytesAt (n : Nat) (l : List (Nat × Nat)) : List Byte :=
  (List.range (n / 4)).flatMap fun j => bytesOfNat 4 (((l.find? fun e => e.1 == 4 * j).map (·.2)).getD 0)

/-- `scalar` with the queue engine's translation of that page, and a kernel descriptor on it. -/
def machine : State :=
  let s := scalar.modStand 2048 fun x => { x with tlb := [page] }
  { s with mem := { s.mem with
      dram := s.mem.dram.write 0x400200 (bytesAt 128 [(0, 0x400000), (0x10, 2 ^ 18), (0x1C, 1), (0x70, 0x400400)]) } }

/-- Queue 0 enabled, its ring of 16 entries in device memory, holding one published entry. -/
def queued (entry : List (Nat × Nat)) : State :=
  let s := (machine.setRegN (queueReg 0 8) (7 + 4 * 256)).setRegN (queueReg 0 0) 0x20000
  { s with
    mem := { s.mem with dram := s.mem.dram.write 0x20000 (bytesAt 256 entry) }
    queues := [(0, { reserved := 1, published := [(0, 0)] })] }

/-- A launch record of one workgroup of one thread. -/
def launchEntry : List (Nat × Nat) := [(0, 1), (8, 0x400200), (0x40, 0x1C0), (0x44, 0x1C4)]

theorem test_witness_CountersClearOnRead :
    (∃ p, p < 2 ∧ Instr.cxldropRead 1 = .cxldropRead p ∧ cxlReg 1 0xC = cxlReg p 0xC) ∧
    (∃ q, q < 4096 ∧ (Instr.crcauseRead 4095 = .crstartRead q ∧ queueReg 4095 0x50 = queueReg q 0x44 ∨
      Instr.crcauseRead 4095 = .crcauseRead q ∧ queueReg 4095 0x50 = queueReg q 0x50)) :=
  ⟨⟨1, by decide, rfl, rfl⟩, ⟨4095, by decide, .inr ⟨rfl, rfl⟩⟩⟩

theorem test_witness_HostRegisterWritesTakeEffect_queue :
    let s := queued []
    let h := s.modQueue 0 fun x =>
      { x with halted := true, wait := some { index := 0, addr := 0, value := 0, cond := 0, deadline := none, last := 0 } }
    s.doorbellIndex 0 0 = some 0 ∧ s.doorbellIndex 0 1 = none ∧ s.qEnabled 0 = true ∧ State.reset.qEnabled 4095 = false ∧
    (s.queue 0).halted = false ∧ (h.queue 0).halted = true ∧ (h.queue 0).wait.isSome = true ∧
    (2#32).getLsbD 1 = true := by decide

theorem test_witness_HostRegisterWritesTakeEffect :
    (0x80000003#32).getLsbD 31 = true ∧ (3#32).getLsbD 31 = false ∧
    State.reset.drained 2047 = true ∧ State.reset.standMoves 2047 = false ∧ scalar.drained 0 = false ∧
    (0x6200000 : Nat) ≤ powerReg 0 ∧ powerReg 0 < 2 ^ 32 ∧ (0x24 : Nat) ∉ [0x18, 0x20, 0x28, 0x2C, 0x38, 0x50] := by decide

theorem test_witness_QueueReservationsAndWaits :
    let s := queued []
    let full := s.modQueue 0 fun x => { x with reserved := 16, resv := some 0, resvs := some 0 }
    let late := { full with clock := { gtc := 100000 } }
    let free := s.modQueue 0 fun x => { x with reserved := 16 }
    let w : QWait := { index := 0, addr := 0x400000, value := 0, cond := 0, deadline := some 5, last := 0 }
    let t := { s.modQueue 0 fun x => { x with wait := some w } with clock := { gtc := 5 } }
    State.reset.qEnabled 0 = false ∧ s.qEnabled 0 = true ∧ s.occupancy 0 + 4 < s.ringSize 0 ∧
    full.ringSize 0 ≤ full.occupancy 0 ∧ (free.queue 0).resv = none ∧ (free.queue 0).resvs = none ∧
    0 < free.regN (queueReg 0 0xC) ∧ (late.queue 0).resv = some 0 ∧ 0 + late.regN (queueReg 0 0xC) * 1000 ≤ late.gtc ∧
    (late.queue 0).resvs = some 0 ∧ 0 + 20000 ≤ late.gtc ∧
    (t.queue 0).wait = some w ∧ (t.queue 0).halted = false ∧ t.waitStuck 0 w.addr = none ∧ 5 ≤ t.gtc := by decide

/-- The queue reads an entry next, and it may start. -/
def startable (entry : List (Nat × Nat)) (op : Nat) : Bool :=
  let s := queued entry
  (s.queue 0).waiting.isEmpty && match s.nextEntry 0 with
    | some c => State.Cmd.op c == op && State.headerOk c && (s.noteRead 0 c).mayStart 0 c
    | none => false

/-- The state after the entry has been read, and the entry. -/
def readEntry (entry : List (Nat × Nat)) : State × State.Cmd :=
  let s := queued entry
  let c := (s.nextEntry 0).getD (0, 0, [])
  (s.noteRead 0 c, c)

theorem test_witness_QueueCommands_launch :
    startable launchEntry 1 = true ∧
    let x := readEntry launchEntry
    (queued launchEntry).descAwaits 0 ((queued launchEntry).cruiserReads 0 x.2.2.2) = none ∧
    ((x.1.queueCruise 0).any fun e => e.2.claim == some x.2.1) = false ∧
    (match x.1.accept 0 x.2.2.2 with
      | .ok _ => true
      | _ => false) = true := by decide

theorem test_witness_QueueCommands_signal_wait :
    let signal := [(0, 2), (8, 0x400800), (0x10, 5), (0x18, 1)]
    let wait := [(0, 3), (8, 0x400800), (0x10, 0), (0x18, 1 + 7 * 65536)]
    startable signal 2 = true ∧ startable wait 3 = true ∧
    (let x := readEntry signal
     let b := x.2.2.2
     (x.1.queue 0).late = [] ∧ fieldOf b 8 8 % 8 = 0 ∧ fieldOf b 0x18 8 ≤ 1 ∧ State.zeroFrom b 0x20 = true ∧
     x.1.unitStuck 0 [(fieldOf b 8 8, 8, { r := true, w := true })] = none) ∧
    (let x := readEntry wait
     let b := x.2.2.2
     bits (fieldOf b 0x18 4) 1 0 ≠ 3 ∧ bits (fieldOf b 0x18 4) 15 2 = 0 ∧ State.zeroFrom b 0x1C = true ∧
     x.1.waitStuck 0 (fieldOf b 8 8) = none) := by decide

theorem test_witness_QueueCommands_bind :
    let bind := [(0, 5), (8, 0x8000), (0x10, 4095)]
    startable bind 5 = true ∧
    (let x := readEntry bind
     fieldOf x.2.2.2 0x10 8 < 4096 ∧ State.zeroFrom x.2.2.2 0x18 = true ∧
     x.1.unitFree (x.1.reg64 (partReg 0 8) + 8 * fieldOf x.2.2.2 0x10 8) 8 = true) := by decide

theorem test_witness_QueueCommands_resume :
    let e := [(0, 6), (8, 0x30000)]
    let g : Workgroup := { placed := true, stand := 0 }
    let v : Saved :=
      { launch := 0, queue := 0, bytes := 65536, header := [], gtc := 0, arith := 0, wgs := [(0, g)]
        threads := [(0, { nobody with home := .scalar 0 0, pc := 0x400000, status := .stopped })], slots := []
        pockets := [], plist := [], waitCtx := [], waves := [], msgs := [], reserved := [], areas := []
        producers := [], tasks := [], texReqs := [], cmds := [], cores := [], waveCtr := [], dgns := [] }
    let q := queued e
    let s := { q with
      saved := [(0x30000, v)], threads := [], engines := [], cores := []
      launches := q.launches.mod 0 fun l => { l with phase := .saved, wgs := [] } }
    let c := (s.nextEntry 0).getD (0, 0, [])
    let x := s.noteRead 0 c
    let l := x.launches.getD 0 { part := 0, queue := 0, id := 0, r := {} }
    let suits (n : Nat) : Bool := x.permits l n && x.spillSuits l n && x.streamSuits v.launch l n &&
      x.moveFits v { sel := fun a b => a == 0 && b == g.stand, dest := fun y => if y = g.stand then n else y }
    (s.queue 0).waiting = [] ∧ State.headerOk c = true ∧ x.mayStart 0 c = true ∧ State.Cmd.op c = 6 ∧
    State.zeroFrom c.2.2 0x10 = true ∧ x.savedAt 0 (fieldOf c.2.2 8 8) = some v ∧ x.launch? 0 = some l ∧ l.r.scene = 0 ∧
    v.threads.keys.Nodup ∧ (∀ e ∈ v.threads, e.2.wg = 0 ∧ State.savedStand v e.1 = g.stand) ∧ x.dies = [] ∧
    0 ∈ State.restoreStands l 0 g.stand ∧ suits 0 = true := by decide

theorem test_witness_Completions_units :
    let x0 : Producer := .qxmax 0 4 0 0 8 false 1 5
    let quad := (List.range 4).map fun n => (n, Producer.qxmax n (4 + n) 0 0 8 false 1 5)
    let s := { scalar with
      threads := (List.range 4).map fun n => (n, { scalar.threads.getD 0 nobody with home := .scalar (4 + n) 0 })
      producers := quad ++ [(4, Producer.special 0 .frcp 8 1 0x40000000 1 0), (5, Producer.laneMax 0 8 3 false 0),
        (6, Producer.accMov 0 8 7 false none)]
      clock := { gtc := 5 } }
    (s.producers.get? 4).isSome = true ∧ (s.producers.get? 5).isSome = true ∧ (s.producers.get? 6).isSome = true ∧
    s.producers.get? 0 = some x0 ∧ ((quadCores 4).filterMap fun k => s.contribution k 0 0 1).length = 4 ∧
    ((s.setStatus 1 (.until 5)).thread? 1).map Thread.status = some (.until 5) ∧ 5 ≤ s.gtc ∧
    ((s.modThread 1 fun th => { th with held := .asking 9 (some 5) }).thread? 1).map Thread.held =
      some (.asking 9 (some 5)) := by decide

/-- A word at a place. -/
def word (p : Place) (ph : Phase) : Part := { place := p, n := 4, phase := ph, data := [1, 2, 3, 4] }

/-- A word of device memory. -/
def dram (ph : Phase) : Part := word (.dram 0x400800) ph

/-- An access of thread 0 to one part. -/
def accessTo (kind : OpKind) (p : Part) : MemOp :=
  { tid := 0, part := 0, stand := 0, src := 0, kind := kind, dest := .regs 8 32 false, parts := [p] }

/-- An access of thread 0 to one word of device memory. -/
def access (kind : OpKind) (ph : Phase) : MemOp := accessTo kind (dram ph)

/-- `scalar` with that access under way. -/
def withOp (o : MemOp) : State := { scalar with ops := [(7, o)], nextId := 8 }

theorem test_witness_Completions_accesses :
    let l := access .load .value
    let r := { l with dest := .tileRow (slotKey 0 0) 1 0, fmt := some 1, tid := 1 }
    let m := { matrix with ops := [(7, r)] }
    (withOp l).ops.get? 7 = some l ∧ l.orphan = false ∧ l.inRow = false ∧ ((withOp l).loadValue 7 l).isSome = true ∧
    m.ops.get? 7 = some r ∧ r.inRow = true ∧ m.rowBehind 7 r = false ∧ (m.loadValue 7 r).isSome = true ∧
    (access .atomic .value).taken = true ∧ (withOp (access .atomic .value)).ops.get? 7 = some (access .atomic .value) := by
  decide

theorem test_witness_Completions_matrix :
    let e : MmaEntry := { key := 1, int := false, scaled := false, acc := 0, a := 1, b := 2, cfgA := 0x80040401
                          cfgB := 0x80040401, threads := [1, 2] }
    let y := { slot0 with mq := [e] }
    let z := { y with m := [(1, { poison := [0] })] }
    mmaReady y e = true ∧ mmaPoison y e = none ∧ mmaReady z e = true ∧ (mmaPoison z e).isSome = true ∧
    ({ matrix with slots := [(slotKey 0 0, y)] }.slot? 0 0) = some y ∧
    { matrix with slots := [(slotKey 0 0, y)] }.readyBefore 0 0 e = false := by decide

/-- A message of launch 0 to core 0 that has arrived. -/
def message (index : Nat) : Msg :=
  { core := 0, index := index, part := 0, launch := 0, wg := 0, srcCore := 0, sender := 0, seq := 3, arrived := true }

theorem test_witness_MessageSteps :
    let m := { message 1 with arrived := false }
    let asks := { scalar with outbound := [(0, m)] }
    let full := asks.modCore 0 fun c => { c with inbound := List.replicate 15 m }
    let comes := scalar.modCore 0 fun c => { c with inbound := [m] }
    let table (w : Nat) : State := { (scalar.setRegN (partReg 0 8) 0x50000).modCore 0 fun c => { c with inbound := [message 1] } with
      mem := { scalar.mem with dram := scalar.mem.dram.write 0x50008 (bytesOfNat 8 w) } }
    let held := { scalar with routeHeld := [(3, m)], pkg := { scalar.pkg with links := [0] } }
    let waits := { scalar.modStand 0 fun x => { x with waitCtx := [9] } with threads := scalar.threads.put 9 nobody }
    let q : TexReq := { tid := 0, part := 0, launch := 0, wg := 0, core := 0, index := 1, msg := 3, descAddr := 0x400000, u := 0
                        v := 0, lod := 0, stateAddr := 0x400000 }
    let tex := { scalar with
      outbound := [(0, { m with unfilled := true })], texReqs := [(4, q)], unitTlbs := [(State.texCache 0, [page])] }
    let far := { m with pkg := some 3 }
    let lost := { held with routeHeld := [(3, far)] }.modPart 0 fun x => { x with lost := [3] }
    asks.transitRoom m = true ∧ tex.transitRoom { m with unfilled := true } = true ∧
    { scalar with outbound := [(0, far)] }.transitRoom far = true ∧ scalar.texOf far = none ∧
    (scalar.partition 0).lost.has (3 % 1024) = false ∧ (lost.partition 0).lost.has (3 % 1024) = true ∧
    held.heldLost m = false ∧ lost.heldLost far = true ∧ lost.eventRoom (coreDie 0) = true ∧ (table 0).eventRoom (coreDie 0) = true ∧
    scopeOfStands (coreStand 0) (coreStand 0) ≤ 3 ∧ (message 1).spawn = none ∧ (message 1).barge = none ∧
    (asks.outbound.get? 0).isSome = true ∧ (asks.core 0).inbound.length < 16 ∧ asks.lowerAsks 0 = false ∧
    asks.limitPast 0 = false ∧ asks.texOf m = none ∧ tex.lowerAsks 0 = false ∧ tex.limitPast 0 = false ∧
    tex.texOf { m with unfilled := true } = some (4, q) ∧ tex.texWaits 4 q = false ∧ tex.texStuck q q.descAddr 32 = none ∧
    (full.core 0).inbound.length < 16 ∧
    comes.msgCore 3 = some (0, m) ∧
    ((comes.core 0).inbound.all fun o => o.arrived || o.sender != m.sender || decide (m.seq ≤ o.seq)) = true ∧
    comes.writesDone 0 3 (scopeOfStands (coreStand 0) (coreStand 0)) = true ∧
    (match (table 0x9C00000000010800).scanQueue 0 1 ((table 0x9C00000000010800).core 0).inbound with
      | some (_, .start e) => e.pc == 0x42000#64
      | _ => false) = true ∧
    (match (table 0x9D00000000010800).scanQueue 0 1 ((table 0x9D00000000010800).core 0).inbound with
      | some (_, .gather e) => e.ver == 3
      | _ => false) = true ∧
    (match (table 0).scanQueue 0 1 ((table 0).core 0).inbound with
      | some (_, .discard) => true
      | _ => false) = true ∧
    (held.routeHeld.get? 3).isSome = true ∧ held.routeUp = true ∧
    (waits.stand (coreStand 0)).waitCtx = [9] ∧ waits.ctxFree 0 3 = true ∧ (waits.thread? 9).isSome = true := by decide

theorem test_witness_HomeAndCacheSteps_reads :
    let o := access .load .sent
    let s := withOp o
    let owned := s.modHome (0x400800 / 64) fun h => { h with owner := some 3 }
    (s.opPart 7 0).isSome = true ∧ s.opReady 7 o (dram .sent) = true ∧ s.placeLost 0 (.dram 0x400800) = false ∧
    s.partFits o (dram .sent) = true ∧ s.rehoming (0x400800 / 64) = false ∧ s.copyPends 0 0x400800 = false ∧
    (s.home (0x400800 / 64)).owner = none ∧ (owned.home (0x400800 / 64)).owner = some 3 := by decide

theorem test_witness_HomeAndCacheSteps_writes :
    let o := access .store .sent
    let s := withOp o
    let z := s.tryCopy 7
    let w := ((z.opPart 7 0).map (·.2)).getD { place := .dram 0, n := 0 }
    (s.opPart 7 0).isSome = true ∧ (dram .sent).dropped = false ∧ (dram .sent).migHeld = false ∧
    s.opReady 7 o (dram .sent) = true ∧ s.partFits o (dram .sent) = true ∧ s.placeLost 0 (.dram 0x400800) = false ∧
    s.rehoming (0x400800 / 64) = false ∧ (z.home (0x400800 / 64)).queue.contains (7, 0) = false ∧
    s.opTask o = none ∧ s.opCruise o = none ∧ z.copyTurn 7 0 o w 0x400800 = true ∧ w.phase = .sent ∧
    (z.home (0x400800 / 64)).owner = none := by decide

theorem test_witness_HomeAndCacheSteps_others :
    let l := accessTo .store (word (.loc 0x4400) .sent)
    let a := accessTo .store { dram .performed with copy := true }
    let h := accessTo .store (word (.host 0 64) .performed)
    let c : MemOp := { access .load .queued with ord := 5, scope := 0, stamp := some 0 }
    let s := { withOp c with clock := { gtc := 100000 } }
    ((withOp l).opPart 7 0).isSome = true ∧ l.ord ≠ 5 ∧ (withOp l).opReady 7 l (word (.loc 0x4400) .sent) = true ∧
    (withOp a).opPart 7 0 = some (a, { dram .performed with copy := true }) ∧
    (withOp h).opPart 7 0 = some (h, word (.host 0 64) .performed) ∧
    (withOp l).partFits l (word (.loc 0x4400) .sent) = true ∧ s.partFits c (dram .queued) = true ∧
    s.rehoming (0x400800 / 64) = false ∧
    s.opPart 7 0 = some (c, dram .queued) ∧ s.placeLost 0 (.dram 0x400800) = false ∧ s.copyPends 0 0x400800 = false ∧
    (s.home (0x400800 / 64)).owner = none ∧ c.stamp.getD 0 + State.skew c.scope ≤ s.gtc ∧
    s.lowerStamp 7 c (0x400800 / 64) = false := by decide

theorem test_witness_HomeAndCacheSteps_caches :
    let s := scalar.modStand 2047 fun x => { x with asleep := some 0 }
    (scalar.stand 2047).asleep = none ∧ ((scalar.stand 2047).l1.any fun l => !l.2.writes.isEmpty) = false ∧
    (s.stand 2047).asleep = some 0 ∧ ({ s with slicesFenced := [3] }.slicesFenced.has 3) = true := by decide

/-- Partition 0's page table: a page of device memory at 0x400000 and a host page at 0x410000. -/
def tabled : State :=
  let s := scalar.setRegN (partReg 0 0x10) (2 ^ 12)
  let device := bytesOfNat 8 (2 ^ 63 + 0x400000) ++ bytesOfNat 8 (7 * 2 ^ 46 + 0x400000)
  let host := bytesOfNat 8 (2 ^ 63 + 0x410000) ++ bytesOfNat 8 (3 * 2 ^ 47 + 5 * 2 ^ 16 + 1)
  let d := (s.mem.dram.write 0x2000 device).write 0x2080 host
  { s with mem := { s.mem with dram := d } }

/-- A translation asked for on stand 0. -/
def walkAt (va : Nat) (ats : Option Nat) : Walk :=
  { part := 0, stand := 0, va := va, write := false, read := true, fetch := false, atomic := false, who := .none, pc := 0
    addr := va, ats := ats }

theorem test_witness_TranslationAndInvalidationSteps_walks :
    let w := walkAt 0x400800 none
    let h := walkAt 0x410800 (some 5)
    let s := { tabled with walks := [(3, w), (4, h)] }
    let found (va : Nat) : Option Trans := match s.walk 0 va with
      | .found tr _ => some tr
      | .fault _ => none
    s.walks.get? 3 = some w ∧ w.ats = none ∧ State.inDomain w.va = false ∧ s.walkable 0 0x400800 = true ∧ s.walkable 0 0x410800 = true ∧
    s.walkable 0 0x420000 = true ∧ w.fetch = false ∧
    s.walkRoom (State.joinedWalk (walkAt 0x420000 none) (s.siblings 3 (walkAt 0x420000 none) (s.faultSpan (walkAt 0x420000 none) 1))) = true ∧
    ((found 0x400800).map fun tr => (tr.host, tr.frame)) = some (false, 0x400000) ∧
    ((found 0x410800).map fun tr => (tr.host, tr.pasid, tr.grants h.need)) = some (true, 5, true) ∧
    s.walk 0 0x420000 = .fault 1 ∧
    s.walks.get? 4 = some h ∧ h.stale = false ∧ ({ h with stale := true } : Walk).stale = true ∧ s.walkRoom h = true ∧
    (0x80#8).getLsbD 7 = true ∧ (3#8).getLsbD 7 = false ∧
    ((found 0x410800).map fun tr =>
      let g := State.hostTrans h tr 0x900000 3
      (g.r || g.w) && g.grants h.need) = some true := by decide

theorem test_witness_TranslationAndInvalidationSteps_answers :
    let s := { scalar with prgs := [(2, { part := 0, frec := 9, addr := 0x410000, pasid := 5 })] }
    let f := scalar.modEngine 0 fun e => { e with run := some { scalarRun with pc := 0x00F0000000000000 } }
    (s.prgs.get? 2).isSome = true ∧ s.faultRoom (((s.recs.get? 9).map fun p => standDie p.fr.stand).getD 0) = true ∧
    f.run?.map Run.members = some [0] ∧ ([0].filter f.issuing).head? = some 0 ∧
    (f.thread? 0).map (fun th => f.faultRoom (standDie th.home.stand)) = some true ∧
    (match f.nextInstr with
      | some (.fault ..) => true
      | _ => false) = true := by decide

theorem test_witness_TranslationAndInvalidationSteps_domain :
    let w := walkAt 0x00F8000000000000 none
    let s := { scalar with walks := [(3, w)] }
    let up := { s with pkg := { s.pkg with links := [17] } }
    s.walks.get? 3 = some w ∧ w.ats = none ∧ State.inDomain w.va = true ∧ s.pkg.links = [] ∧ up.pkg.links ≠ [] ∧
    (∀ kind ∈ [1, 2, 5, 6, 7, 8], up.walkRoom (State.joinedWalk w (up.siblings 3 w (up.faultSpan w kind))) = true) := by decide

/-- What another package answers is a free value: it finds a translation or it faults. -/
theorem test_witness_TranslationAndInvalidationSteps_remote (n part va : Nat) :
    (∃ tr e, State.remoteWalk n part va = .found tr e) ∨ ∃ kind, State.remoteWalk n part va = .fault kind := by
  cases h : State.remoteWalk n part va with
  | found tr e => exact .inl ⟨tr, e, rfl⟩
  | fault kind => exact .inr ⟨kind, rfl⟩

theorem test_witness_TranslationAndInvalidationSteps_invalidations :
    let busy := tabled.setRegN (transReg 63 0x38) 1
    let v : Inval := { parts := [0], base := 0, size := none, waits := [] }
    let s := { scalar with invals := [(1, v), (2, { v with byHost := some 7 }), (3, { v with byMig := some 8 })]
                           migs := [(8, { part := 0, va := 0x400000, size := 65536, src := 0x400000, dst := 0x800000, key := 0
                                          entry := 0x2008, stage := .leases })] }
    bit (busy.regN (transReg 63 0x38)) 0 = true ∧ bit (tabled.regN (transReg 63 0x38)) 0 = false ∧ (1#32).getLsbD 0 = true ∧
    (s.invals.filter fun _ x => x.byHost.isSome).length < 32 ∧ s.invReady v = true ∧
    (s.invals.get? 2).isSome = true ∧ (s.invals.get? 3).isSome = true ∧ (s.migs.get? 8).isSome = true ∧
    ((s.migs.get? 8).any fun m => m.stage == .leases) = true ∧ s.unitFree 0x2008 8 = true ∧
    (s.homes.all fun h => h.2.leases.isEmpty) = true := by decide

theorem test_witness_TranslationAndInvalidationSteps_migration :
    let s := ((tabled.setRegN (transReg 0 0x40) 0x400000).setRegN (transReg 0 0x48) 0x800000)
    let x := s.setRegN (transReg 0 0x50) (1 / 2 % 2 * 2)
    bit (s.regN (transReg 0 0x50)) 0 = false ∧ (1#32).getLsbD 1 = false ∧
    bits (x.reg64 (transReg 0 0x40)) 56 16 * 65536 = 0x400000 ∧ bits (x.reg64 (transReg 0 0x48)) 44 16 * 65536 = 0x800000 ∧
    (match x.walk 0 0x400000 with
      | .found tr _ => tr.host == false && tr.m == false && tr.size == 65536 && decide (tr.frame + 65536 ≤ 0x800000)
      | .fault _ => false) = true ∧
    x.populated 0x800000 = true ∧ x.populated (0x800000 + 65536 - 1) = true ∧ x.mapped 0x800000 65536 = false ∧
    x.frameOwned 0 0x800000 65536 = true ∧
    (match x.walk 0 0x400000 with
      | .found _ entry => x.unitFree (entry + 8) 8
      | .fault _ => false) = true := by decide +kernel

theorem test_witness_TranslationAndInvalidationSteps_beats :
    let m (stage : MigStage) (copied : Nat) : Migration :=
      { part := 0, va := 0x400000, size := 65536, src := 0x400000, dst := 0x800000, key := 0, entry := 0x2008, stage := stage
        copied := copied }
    let s (x : Migration) : State := { tabled with migs := [(8, x)] }
    let far := { m .copy 5 with dst := 0x100000000000 }
    let lost := (s far).setRegN (cxlReg 0 4) 1
    (s (m .mark 0)).migs.get? 8 = some (m .mark 0) ∧ (s (m .mark 0)).unitFree 0x2008 8 = true ∧
    (s (m .copy 5)).migs.get? 8 = some (m .copy 5) ∧ (s (m .copy 5)).migFlume (m .copy 5) = some 0 ∧
    (s (m .copy 5)).faultRoom 0 = true ∧ (s (m .copy 5)).eccRoom (64 * (0x400000 / 64 + 5)) 0 = true ∧
    5 + 1 ≠ 65536 / 64 ∧ 1023 + 1 = 65536 / 64 ∧ (s (m .copy 1023)).unitFree 0x2008 8 = true ∧
    (s (m .copy 5)).frameLost (m .copy 5) = false ∧ lost.migs.get? 8 = some far ∧ lost.frameLost far = true := by decide

/-- A copy command of thread 0 in ring 0 of cluster 0. -/
def command (running : Bool) (guard : Option Nat) (done : Nat) : FlumeCmd :=
  { id := 5, kind := .copy 0x400840 0x400800 64, tid := 0, engine := 0, group := 0, part := 0, launch := 0, wg := 0
    running := running, guard := guard, done := done, threads := [0] }

/-- That command at the head; its flume caches the page. -/
def fluming (c : FlumeCmd) : State := { scalar.setRing 0 0 [c] with unitTlbs := [(State.flumeCache 0, [page])] }

theorem test_witness_FlumeSteps :
    let waiting := fluming (command false none 0)
    let guarded (v : Bool) := (fluming (command false (some 15) 0)).modThread 0 fun th => { th with gs := th.gs.put 15 v }
    let line := 0x400840 / 64
    let running := fluming (command true none 0)
    let owned := (fluming { command true none 0 with owned := [line] }).modHome line fun h =>
      { h with owner := some 5, final := true }
    let recalled := { (fluming { command true none 0 with owned := [line] }).modHome line fun h =>
      { h with owner := some 5, recallAt := some 0 } with clock := { gtc := 50000 } }
    let fenced := { waiting with pkg := { waiting.pkg with fences := [7 * 2 ^ 24] } }
    fenced.ring 0 0 = [command false none 0] ∧ fenced.flumeFenced 0 = true ∧ waiting.flumeFenced 0 = false ∧
    (command false none 0).running = false ∧ recalled.fenceRoom 7 0 = true ∧
    waiting.ring 0 0 = [command false none 0] ∧ waiting.cmdStops (command false none 0) = false ∧ ([0].all fun t => waiting.writesDone t 5 5) = true ∧
    ((guarded true).guards 0 0).get? 15 = some true ∧ ((guarded false).guards 0 0).get? 15 = some false ∧
    (running.findCmd 5).isSome = true ∧ (running.destLines 0 (command true none 0)).contains line = true ∧
    running.lineFree line none = true ∧ (running.home line).queue = [] ∧
    (owned.home line).owner = some 5 ∧ (owned.home line).final = true ∧
    (owned.nextRing 0).map Prod.fst = some 0 ∧
    (fluming (command true none 1)).ring 0 0 = [command true none 1] ∧ (command true none 1).kind.beats ≤ 1 ∧
    (command true none 1).heldBeats = [] ∧ (command true none 1).again = [] ∧
    ((recalled.home line).owner.bind recalled.findCmd).isSome = true ∧ (recalled.home line).recallAt = some 0 ∧
    (recalled.home line).final = false ∧ 0 + 50000 ≤ recalled.gtc := by decide

/-! Placement, launches and cruises -/

/-- A launch of one workgroup of one scalar thread. -/
def aLaunch : Launch :=
  { part := 0, queue := 0, id := 0
    r := { levels := [{ domain := 0, scope := none, extent := 1 }, { domain := 4, scope := none, extent := 1 }] } }

/-- `aLaunch` running on stand 0, its watchdog counting from 0. -/
def runningLaunch : Launch :=
  { aLaunch with phase := .running, wgs := [(0, { placed := true, stand := 0, watch := some 0 })] }

/-- Stand 0 with nothing on it and one launch. -/
def launching (l : Launch) : State := { scalar with launches := [(5, l)], threads := [], engines := [], cores := [] }

/-- A thread filed at stand 0, and its record in the wave queue. -/
def filedWave : WaveRec := { launch := 0, wg := 0, pc := 0x400000, members := [9], due := 0, part := 0 }

theorem test_witness_PlacementAndLaunchSteps_gather :
    let p : Pocket := { launch := 0, wg := 0, pc := 0x400000, members := [9] }
    let s := { scalar.modStand 0 fun x => { x with pockets := [(3, p)] } with
      threads := scalar.threads.put 9 { nobody with home := .pocket 0 3 }, clock := { arith := 2049 } }
    let t := { scalar.modStand 0 fun x => { x with waveQ := [filedWave] } with
      threads := scalar.threads.put 9 { nobody with home := .queued 0 } }
    let m := withRec t fun r => { r with tile := true }
    State.reset.run? = none ∧ State.reset.pkg.relocking = false ∧ State.reset.pkg.oldMode.has State.reset.focus = false ∧
    (s.stand 0).pockets.get? 3 = some p ∧ s.pocketDue p = true ∧ s.canRelease 0 0 (s.pocketDueAt p) 3 = true ∧
    s.waveGoes 0 [9] = true ∧
    t.nextWave 0 = some filedWave ∧ t.waveEngine 0 filedWave = some 0 ∧ t.slot? 0 31 = none ∧ (t.lrec 0).tile = false ∧
    (m.lrec 0).tile = true ∧ (m.slots.filter fun key x => key / 32 == 0 && x.quarter == some 3) = [] ∧
    m.waveEngine 0 filedWave = some 0 := by decide

theorem test_witness_PlacementAndLaunchSteps_placement :
    let s := launching aLaunch
    let c := { s with launches := s.launches.put 6 { runningLaunch with cruise := some 2 } }
    let w := { launching runningLaunch with threads := [(0, { nobody with launch := 5, status := .syncw })]
                                            clock := { gtc := 65535000 } }
    s.launch? 5 = some aLaunch ∧ State.placing aLaunch = true ∧ s.nextFor 5 aLaunch 0 = some 0 ∧ s.contended 5 aLaunch 0 = false ∧
    (aLaunch.cruise.isNone && (s.standLaunches 0).any fun e => e.2.cruise.isSome) = false ∧ s.fits 5 aLaunch 0 = true ∧
    c.nextFor 5 aLaunch 0 = some 0 ∧ c.contended 5 aLaunch 0 = false ∧ aLaunch.cruise = none ∧
    ((c.standLaunches 0).any fun e => e.2.cruise.isSome) = true ∧
    (runningLaunch.wgs.getD 0 {}).watch = some 0 ∧ 0 + runningLaunch.r.watchdog * 1000 ≤ w.gtc ∧ w.wgWaiting 5 0 = true ∧
    w.wgParked 5 0 = false ∧ w.relocks = false ∧ runningLaunch.fatal = none := by decide

theorem test_witness_PlacementAndLaunchSteps_retirement :
    let s := launching runningLaunch
    s.launch? 5 = some runningLaunch ∧ (runningLaunch.wgs.getD 0 {}).placed = true ∧
    (runningLaunch.wgs.getD 0 {}).retired = false ∧ s.wgBusy 5 0 = false ∧ runningLaunch.grid ≤ runningLaunch.retired + 1 ∧
    ({ runningLaunch with grid := 2 } : Launch).retired + 1 < 2 ∧ s.cmdsOpen 5 = false ∧ s.tilesOpen 5 runningLaunch.r = false ∧
    s.signalStuck runningLaunch = none ∧ s.blocksStuck 5 (s.openBlocks 5) = none := by decide

theorem test_witness_PlacementAndLaunchSteps_end_and_save :
    let l := { runningLaunch with phase := .dying, fatal := some { cause := 8 } }
    let o := { l with dumped := true }
    let p := { runningLaunch with phase := .preempting }
    let s := launching p
    let pool := (s.setRegN (queueReg 0 0x28) 0x100000).setRegN (queueReg 0 0x30) 16
    (launching l).launchStopped 5 = true ∧ l.dumped = false ∧ (launching l).dumpFree 5 l { cause := 8 } = true ∧
    (launching l).dumpedLater 5 { cause := 8 } = false ∧ (launching l).logRoom = true ∧ (launching l).eventRoom 0 = true ∧
    (launching o).launchStopped 5 = true ∧ o.dumped = true ∧ (launching o).signalStuck o = none ∧
    (launching o).blocksStuck 5 ((launching o).endBlocks 5) = none ∧
    s.savable 5 = true ∧ s.saveArea 0 (s.saveBytes 5 p) = none ∧
    pool.savable 5 = true ∧ pool.saveArea 0 (pool.saveBytes 5 p) = some 0x100000 ∧
    pool.blocksStuck 5 (pool.headBlocks 5) = none ∧
    pool.unitFree 0x100000 512 = true := by decide

theorem test_witness_PlacementAndLaunchSteps_cruises :
    let fs := State.recordFields (bytesAt 256 launchEntry)
    let c : State.Cmd := (0, 0, State.recordBytes fs)
    let q := (queued []).modQueue 0 fun x => { x with predicted := some fs, confidence := 3 }
    let s := { q with launches := [], threads := [], engines := [] }
    let x : Cruise := { queue := 0, launch := 0, claim := some 4 }
    let k := (queued []).modQueue 0 fun x => { x with waiting := [(4, 0, bytesAt 256 launchEntry)], active := [4] }
    let t := { k with launches := [(0, { runningLaunch with cruise := some 2 })], cruises := [(2, x)] }
    (s.queue 0).predicted = some fs ∧ (s.cruises.filter fun _ c => c.finished.isNone).length < 8 ∧
    (t.launch? 0).isSome = true ∧ x.finished = none ∧
    (s.queue 0).confidence = 3 ∧ bit (s.qctl 0) 1 = true ∧ s.queueCruise 0 = none ∧ s.idleStand (State.queuePart 0) = true ∧
    State.Cmd.op c = 1 ∧ State.headerOk c = true ∧
    (match s.accept (State.queuePart 0) (State.recordBytes fs) with
      | .ok r => r.cruise
      | _ => false) = true ∧
    t.queueCruise 0 = some (2, x) ∧ (t.claimant x).isSome = true ∧ t.shadowReady x = true ∧ x.causes = 0 := by decide

theorem test_witness_PlacementAndLaunchSteps_cruise_end :
    let x : Cruise := { queue := 0, launch := 0, finished := some 0 }
    let s := { scalar with cruises := [(2, x), (3, { x with causes := 0x20 })], clock := { gtc := 10000000 } }
    s.cruises.get? 2 = some x ∧ 0 + 10000000 ≤ s.gtc ∧ (s.queue 0).lastRead ≤ 0 ∧ x.causes = 0 ∧
    (s.cruises.get? 3).isSome = true := by decide

/-! The Drive and tasks -/

/-- `machine` with the Drive's translation of its page. -/
def driven : State := { machine with unitTlbs := [(State.driveCache 0, [page])] }

/-- `driven` with a scene of two reaches that streams on stand 0. -/
def streaming : State :=
  withRec driven fun r =>
    { r with scene := 0x400A00
             sceneDesc := bytesAt 64 [(0, 0x400900), (8, 2), (0xC, 5), (0x10, 0x401000), (0x18, 0x402000), (0x20, 8), (0x24, 64),
               (0x28, 512)] }

/-- A batch of two rays. -/
def aBatch : Batch :=
  { launch := 0, reach := 1, len := 128, base := 0x400900, loaded := true, count := 2, owner := [(0, 0), (1, 0)] }

/-- `streaming` with a batch on stand 0. -/
def batched (b : Batch) : State := { streaming with batches := [(0, b)], clock := { gtc := 5000 } }

theorem test_witness_DriveAndTaskSteps_drive :
    let ray : RayRec := { bytes := List.replicate 64 0, wg := 0, time := 0 }
    let s := { streaming with dies := [(0, { booms := [(1, { records := [ray], head := 1, slot := true })] })] }
    let new := { aBatch with loaded := false }
    let spent := { aBatch with gone := 2, sent := 2 }
    let late := { aBatch with startAt := some 0 }
    standDie 0 = 0 ∧ s.sceneOf 0 = some 0 ∧ s.batches.get? 0 = none ∧ s.driveHeld 0 0 = false ∧ s.standShut 0 = false ∧
    s.selectBoom 0 0 = some 1 ∧ s.driveStuck 0 0 (s.selectionNeeds 0 0 1 0) = none ∧
    (batched aBatch).driveHeld 0 0 = false ∧ (batched new).driveHeld 0 0 = false ∧ (batched spent).driveHeld 0 0 = false ∧
    (batched aBatch).rayRoom 0 = true ∧ (batched new).driveStuck 0 0 (State.loadNeeds new) = none ∧
    (batched spent).driveStuck 0 0 ((batched spent).endNeeds spent) = none ∧
    ((batched late).lrec 0).limit * 1000 ≤ (batched late).gtc - 0 - late.paused ∧ late.gone < late.count ∧
    (((batched late).launch? 0).any fun l => l.phase == .running || l.phase == .preempting) = true := by decide

theorem test_witness_DriveAndTaskSteps_fault :
    let shut := { page with r := false }
    let s := { machine with batches := [(0, { aBatch with loaded := false })], unitTlbs := [(State.driveCache 0, [shut])] }
    (match s.driveNext 0 0 with
      | some (l, needs) => (match s.driveStuck l 0 needs with
        | some (.park k _ a _, _) => k == 2 && a == 0x400900
        | _ => false)
      | none => false) = true ∧ s.faultRoom 0 = true ∧ s.driveHeld 0 0 = false := by decide

/-- A task of launch 0 on stand 0. -/
def aTask (p : TaskPhase) : Task :=
  { key := { stamp := 5, time := 0, stand := 0, seq := 0 }, part := 0, launch := 0, wg := 0, index := 1, payload := []
    ranges := [], parent := none, landing := 0, srcCore := 0, phase := p }

theorem test_witness_DriveAndTaskSteps_tasks :
    let s (p : TaskPhase) : State := { scalar with tasks := [(7, aTask p)] }
    let a := { s .finished with launches := (s .finished).launches.mod 0 fun l => { l with approved := [7] } }
    let c := { s .committing with clock := { swarm := 256 } }
    (s .waiting).nextTask 0 = some 7 ∧ (s .waiting).clusterFor (aTask .waiting) = some (coreCluster 0) ∧
    0 < coreCount ∧ (s .waiting).ctxOpen 0 3 = true ∧
    ((c.launch? 0).map fun x => (decide (x.reducedAt + 256 ≤ c.clock.swarm), x.phase)) = some (true, .running) ∧
    ((c.committing 0).find? fun e => c.commitDue e.2 && !c.sharesEarlier 0 e.2) = some (7, aTask .committing) ∧
    ((a.committing 0).find? fun e => a.commitDue e.2 && !a.sharesEarlier 0 e.2) = none ∧
    a.nextCommit 0 = some (7, aTask .finished) := by decide

/-! Render passes -/

/-- `driven` with a render pass of 64 by 64 pixels and one close. -/
def rendering : State :=
  withRec driven fun r =>
    { r with pass := 0x400B00
             passDesc := bytesAt 64 [(0, 0x400000), (0x10, 64 + 64 * 65536), (0x14, 256), (0x20, 65536 + 1)] }

theorem test_witness_RenderSteps :
    let b := rendering.setBin 0 0 0 [{ bytes := List.replicate 64 0, spill := none }]
    let c := rendering.modDie 0 fun d => { d with closes := [(0, 1)] }
    let f := { rendering.modStand 0 fun x => { x with graphics := true } with tiles := [(0, { final := true, toFile := [1] })] }
    let q := { rendering with threads := [] }
    (b.bin 0 0 0).isEmpty = false ∧ b.passRuns 0 = true ∧ b.driveStuck 0 0 (State.writeNeeds []) = none ∧
    0 < (c.lrec 0).tilesX * (c.lrec 0).tilesY ∧ c.closed ((c.lrec 0).tileDie 0) 0 = true ∧
    c.bin ((c.lrec 0).tileDie 0) 0 0 = [] ∧ c.launchRuns 0 = true ∧ c.tileAwaits 0 0 = false ∧
    c.eventRoom ((c.lrec 0).tileDie 0) = true ∧ c.passRuns 0 = true ∧ q.eventRoom 0 = true ∧
    (f.shadeStand 0 0).any (fun m => f.canRelease m.1 0 f.clock.arith) = true ∧
    ((q.launch? 0).map fun x => ((x.wgs.filter fun _ w => w.placed).length, x.grid)) = some (1, 1) ∧ q.passRuns 0 = true ∧
    (q.lrec 0).diePasses 0 = true ∧ q.closed 0 0 = false ∧ q.launchBusy 0 = false := by decide

theorem test_witness_RenderSteps_back_and_texture :
    let p : PassTile := { final := true, colour := [(0, 5)] }
    let s := { rendering with tiles := [(0, p)] }
    let m := ((s.shadeStand 0 0).map (·.1)).getD (512 * (s.lrec 0).tileDie 0)
    let x (base : Nat) : TexReq :=
      { tid := 0, part := 0, launch := 0, wg := 0, core := 0, index := 1, msg := 3, descAddr := 0x400000, u := 0, v := 0, lod := 0
        stateAddr := 0x400000, desc := some (bytesAt 32 [(0, base), (8, 0x10001), (0xC, 1)]) }
    let t := { scalar with texReqs := [(4, x 0x400800), (5, x 0x420000)], unitTlbs := [(State.texCache 0, [page])] }
    let z := { t with unitTlbs := [(State.texCache 0, [{ page with r := false }])] }
    (match z.texBlock (x 0x400800) with
      | some (.park k _ _ _) => k == 2
      | _ => false) = true ∧ z.texWaits 4 (x 0x400800) = false ∧ z.faultRoom (standDie (State.texStand (x 0x400800))) = true ∧
    s.tiles.get? (tileKey 0 0) = some p ∧ s.passRuns 0 = true ∧ s.driveStuck 0 m (s.backNeeds 0 0 p) = none ∧
    p.toFile = [] ∧ p.shading = 0 ∧ p.done = false ∧ s.driveHeld ((s.lrec 0).tileDie 0) 0 = false ∧
    t.texReqs.get? 4 = some (x 0x400800) ∧ (x 0).desc.isSome = true ∧ t.texWaits 4 (x 0x400800) = false ∧
    t.texBlock (x 0x400800) = none ∧ (State.texNeeds (x 0x400800)).isSome = true ∧ t.texWaits 5 (x 0x420000) = false ∧
    t.texBlock (x 0x420000) = some (.miss 0 0x420000) := by decide

/-! Partitions and the module -/

theorem test_witness_PartitionAndModuleSteps_stands :
    let s := State.reset.modStand 2047 fun x => { x with pendingOwn := some (0x81, 4) }
    let g := State.reset.setRegN (balReg 3 4) (512 * 2 ^ 20 + 5)
    let m := State.reset.modDie 3 fun d => { d with move := some (1536, true, 4) }
    let a := { State.reset.setRegN (balReg 3 4) (2 ^ 30 + 512 * 2 ^ 20) with clock := { gtc := 100000 } }
    (s.stand 2047).pendingOwn = some (0x81, 4) ∧ s.drained 2047 = true ∧
    ((s.die (standDie 2047)).move.any fun m => m.1 == 2047 && decide (m.2.2 < 4)) = false ∧
    (g.die 3).move = none ∧ g.manualWant 3 = some true ∧ g.canMove 3 true = true ∧ g.boundaryStand 3 true = 1536 ∧
    standDie 1536 = 3 ∧ (m.die 3).move = some (1536, true, 4) ∧
    (m.standHolds 1536 fun k => (m.launch? k).any fun l => State.rendering l != true) = false ∧
    ((m.stand 1536).pendingOwn.any fun p => decide (p.2 < 4)) = false ∧ m.canMove 3 true = true ∧
    bit (a.regN (balReg 3 4)) 30 = true ∧ (a.die 3).tick + 100000 ≤ a.gtc := by decide

theorem test_witness_PartitionAndModuleSteps_keys :
    let s (op key : Nat) : State :=
      (State.reset.setRegN (partReg 63 0x10) (2 ^ 12)).setRegN (partReg 63 0x50) (2 ^ 31 + op * 2 ^ 12 + key)
    (∀ op ∈ [0, 1, 2, 3], bit ((s op 0).regN (partReg 63 0x50)) 31 = true ∧ (s op 0).keyAllotted 63 0 = true ∧
      bits ((s op 0).regN (partReg 63 0x50)) 13 12 = op) ∧
    (s 0 1).keyAllotted 63 (bits ((s 0 1).regN (partReg 63 0x50)) 11 0) = false ∧
    (s 0 0).keyAllotted 63 (bits ((s 0 0).regN (partReg 63 0x50)) 11 0) = true := by decide

theorem test_witness_PartitionAndModuleSteps_module :
    let up := { State.reset with pkg := { State.reset.pkg with links := [17] } }
    let o := accessTo .load { word (.remote (3 * 2 ^ 41)) .queued with key := 0 }
    let s := { withOp o with clock := { gtc := 50000 } }
    let cmd : FlumeCmd := { command true none 0 with kind := .copy 0x400840 (0x00F8000000000000 + 3 * 2 ^ 41) 64, waitFrom := some 0 }
    let f := { (fluming cmd).setRegN (partReg 0 0x44) 1 with clock := { gtc := 50000 } }
    (f.clusters.any fun c => c.2.rings.any fun r => r.2.any (f.cmdWaitedOut 0 3 c.1)) = true ∧
    State.reset.bootState < 4 ∧ up.pkg.links.has 17 = true ∧ State.reset.pkg.links.has 17 = false ∧
    State.reset.pkg.fences.has (State.unitNo 0xD 17) = false ∧
    (s.ops.any fun e => e.2.parts.any (s.waitedOut 0 3 e.2)) = true ∧
    ((State.reset.modPart 63 fun x => { x with spdm := 5 }).partition 63).spdm = 5 ∧
    ((State.reset.modPart 63 fun x => { x with spdm := 5 }).partition 63).delivered = none ∧
    ((State.reset.modPart 63 fun x => { x with spdm := 5, delivered := some 4 }).partition 63).delivered = some 4 := by decide

theorem test_witness_PartitionAndModuleSteps_collectives :
    let m := { machine with mem := { machine.mem with dram := machine.mem.dram.write 0x400C00 (bytesAt 64 [(0x20, 0x400D00)]) } }
    let s := { m with collectives := [(State.collKey 0 15, [0x400C00])] }
    let c := (s.collRead 0 0x400C00).1
    let t := { m with collectives := [(State.collKey 0 15, c.words 0x400C00)] }
    s.collectives.get? (State.collKey 0 15) = some [0x400C00] ∧ (0x400C00#64).toNat % 64 = 0 ∧
    regionOf 0x400C00 = .translated ∧ (s.collRead 0 0x400C00).2 = none ∧
    (State.collOf (c.words 0x400C00)).isSome = true ∧
    ((State.collOf (c.words 0x400C00)).map fun d => (d.status, t.unitStuck 0 (State.collNeeds d d.status))) = some (3, none) := by
  decide

/-! Power and failures -/

theorem test_witness_PowerAndFailureSteps :
    let s := { State.reset with
      pkg := { State.reset.pkg with
        clocksStopped := true, relocking := true, rewrite := [5], govTick := 0, misdirected := [(2 ^ 24 + 7, [0, 5])]
        corrected := [(3, 11 * 2 ^ 24 + 7, List.replicate 256 0)] }
      clock := { gtc := 1000000 }, mem := { State.reset.mem with faulty := [(5, 1)] } }
    s.relocks = true ∧ s.logRoom = true ∧
    s.eventRoom (bits (880 + 3 * 65536) 17 16) ((List.range 64).filter s.partEnabled).length = true ∧
    s.fenceRoom 1 7 = true ∧ s.fenceRoom 11 7 = true ∧
    (∃ e ∈ s.pkg.corrected, e.2.1 = 11 * 2 ^ 24 + 7 ∧ e.2.2.length = 256 ∧ ∀ g ∈ e.2.2, s.gtc < g + 86400000000000) ∧
    (∃ ts, s.pkg.misdirected.get? (2 ^ 24 + 7) = some ts ∧ ts.length = 2 ∧ ∀ g ∈ ts, s.gtc < g + 86400000000000) ∧
    s.pageAgain (64 * 5) = false ∧
    ({ s with pkg := { s.pkg with retry := [(0, 3)] } } : State).parityRoom 0 = true ∧ s.pkg.govTick + 1000000 ≤ s.gtc ∧ 880 ≤ bits (880 + 3 * 65536) 15 0 ∧
    State.reset.pkg.clocksStopped = false ∧ s.pkg.clocksStopped = true ∧
    (∀ u ∈ [1 * 2 ^ 24 + 2047, 2 * 2 ^ 24 + 4095, 4 * 2 ^ 24 + coreCount, 7 * 2 ^ 24 + 16383, 11 * 2 ^ 24 + 255, 13 * 2 ^ 24 + 17],
      State.unitOk (u / 2 ^ 24) (u % 2 ^ 24) = true ∧ State.reset.pkg.fences.has u = false) ∧
    State.reset.populated (64 * 5) = true ∧ s.pkg.rewrite.has 5 = true ∧ s.lineQueue 5 = [] ∧ (s.home 5).owner = none ∧
    (scalar.engine 0).run.isSome = true ∧ scalar.pkg.retry.getD 0 0 < 4 :=
  by refine ⟨?_, ?_, ?_, ?_, ?_, ⟨_, List.mem_singleton.2 rfl, ?_⟩, ⟨_, rfl, ?_⟩, ?_⟩ <;> decide

/-! Issue, decoding and the step -/

theorem test_witness_EndBitRequired :
    ∀ k ∈ [ins .bra 0 4 0 0 0, ins .halt 0 0 0 0 0, ins .flumeWait 8 0 4 0 0],
      let j : Ins := { k with w := { k.w with e := false } }
      (row j).bind Instr.ins = some j ∧ j.w.e = false ∧ scalar.run? = some scalarRun ∧
      ∀ t ∈ scalarRun.members, ((scalar.thread? t).all fun th => th.status != .ready || (State.guardPoison th j).isNone) = true := by
  decide

theorem test_witness_IssueOutcomes :
    let k := ins .add 8 4 5 0 0
    let idle : Ins := { k with w := { k.w with g1 := 1 } }
    let bad : Ins := { k with w := { k.w with hint := 1 } }
    let empty := scalarWith fun th => { th with g := th.g.put 4 { val := 0, full := false } }
    let trapping := withRec scalar fun r => { r with trap := 0x8000 }
    (∀ t ∈ scalarRun.members, ((scalar.thread? t).all fun th => th.status != .ready || (State.guardPoison th idle).isNone) = true) ∧
    isSkidKey scalar.focus = false ∧ ((scalar.thread? 0).all fun th => !th.sliced) = true ∧
    (scalar.heldLead.all fun l => l == 0) = true ∧
    scalar.activeSet scalarRun idle = [] ∧ scalar.activeSet scalarRun bad = [0] ∧ bad.wellFormed = false ∧
    empty.activeSet scalarRun k = [0] ∧ (State.precheck (semOf .add) scalarRun k empty 0).2 = true ∧
    empty.mustWait 0 k true = true ∧
    ((trapping.thread? 0).map fun th => (th.home, th.taskOf, th.inTrap)) = some (.scalar 0 0, none, false) ∧
    trapping.unclaimed 0 = false ∧ (trapping.lrec 0).trap ≠ 0 := by decide

theorem test_witness_DecodeOfEncode_EncodeOfDecode :
    (row (ins .add 8 4 5 0 0)).bind Instr.ins = some (ins .add 8 4 5 0 0) ∧
    ((row (ins .add 8 4 5 0 0)).map Instr.wellFormed) = some true ∧
    (match decode (encode (.addX96 (ins .add 8 4 5 0 0).w) ++ [7]) with
      | .ok (i, rest) => i == .addX96 (ins .add 8 4 5 0 0).w && rest == [7]
      | .error _ => false) = true := by decide

theorem test_witness_StepRunsInstruction :
    let s := State.reset.withFetchWord 32 0x00000200
    let t := { s with turns := [{ gtc := 7, act := .issue 0 }] }
    s.turns = [] ∧ s.pkg.clocksStopped = false ∧ s.run? = some scalarRun ∧ (s.thread? 0).isSome = true ∧
    (match s.fetch 0 0 scalarRun.pc with
      | .bytes bs => (match decode bs with
        | .ok (i, _) => s.sliceBorder i == false
        | .error _ => false)
      | _ => false) = true ∧ s.pkg.retry.get? s.focus = none ∧
    ({ t.pass { gtc := 7, act := .issue 0 } [] with focus := 0 }.run? = some scalarRun) ∧
    bit (s.regN (transReg 0 8)) 0 = true ∧ regionOf programBase = .translated ∧
    s.lineBad (programBase / 64) 0 = false ∧ s.mem.dramPoison.has (programBase / 4) = false ∧
    s.cached 0 0 programBase = some page ∧ page.host = false ∧ page.x = true ∧
    (wordsOfBytes (s.mem.dram.read programBase 4)).head?.map wordCount = some 1 := by decide

theorem test_witness_StepTakesEvent :
    let t : Turn := { gtc := 7, act := .event (.qctlWrite 0 1) }
    let s := { State.reset with turns := [t] }
    let c := { s with pkg := { s.pkg with clocksStopped := true } }
    let u := { s with turns := [{ gtc := 7, act := .stage 3 [5] }, { gtc := 7, act := .upset (.loc 0) true }] }
    (u.turns.map Turn.act).length = 2 ∧
    s.turns = t :: [] ∧ s.pkg.clocksStopped = false ∧ c.pkg.clocksStopped = true ∧
    Act.clocked (.event (.commitReduction 0)) = true := by decide

theorem test_reset_memWf : MemWf State.reset := by unfold MemWf; decide

theorem test_witness_StepKeepsMemory : (match step (State.reset.withFetchWord 32 0x00000200) with
    | .next _ => true
    | _ => false) = true := by decide

/-! ### Further clauses of the statements -/

/-- An access of thread 0 to one word of device memory, being performed. -/
def atWork (o : MemOp) : State := { scalar with ops := [(7, o)], nextId := 8 }

theorem test_witness_MemoryIssues_performed :
    let part (p : Place) : Part := { place := p, n := 4, data := [1, 2, 3, 4] }
    let op (kind : OpKind) (p : Part) : MemOp :=
      { tid := 0, part := 0, stand := 0, src := 0, kind := kind, dest := .regs 8 32 false, parts := [p] }
    ∀ p ∈ [Place.dram 0x400800, .loc 0x4400, .host 0 64, .remote 64], ∀ kind ∈ [OpKind.load, .store, .atomic],
      let x := part p
      let o := op kind x
      let s := atWork o
      s.opPart 7 0 = some (o, x) ∧ s.opTask o = none ∧ s.opCruise o = none ∧ x.span.1 < 4 ∧ o.fmt = none ∧
      (∀ j < 4, ¬(0x3C0 ≤ locOff (0x4400 + j) ∧ locOff (0x4400 + j) < 0x400)) ∧ x.data.length = x.n ∧ x.nibble = none ∧
      x.poison = false ∧ (∀ q ∈ (s.opBytes o x).2, q = false) ∧ o.orphan = false ∧ s.lineBad (0x400800 / 64) x.key = false := by
  decide

theorem test_witness_MemoryIssues_delivered :
    (scalar.thread? 0).map (fun th => (th.oq, th.home)) = some ([], .scalar 0 0) ∧ 32 ∈ [8, 16, 32, 64, 128] := by decide

theorem test_witness_MemoryOperations_prefetch :
    let with' (tr : Trans) : State := scalarWith fun th => { th with lastPage := some tr }
    let k := ins .pref 0 2 4 0 0
    ∀ tr ∈ [page, { page with r := false }],
      Clear (semOf .pref) k (with' tr) scalarRun 0 [0] ∧ regionOf ((with' tr).memEa 0 k).toNat = .translated ∧
      (with' tr).cached 0 0 ((with' tr).memEa 0 k).toNat = some tr ∧ tr.host = false ∧ tr.lease ≠ 0 ∧
      (with' tr).cruiseOf 0 = none ∧ k.hint ≠ 1 := by
  unfold Clear Reached; decide

theorem test_witness_MemoryOperations_task :
    let k := ins .st 8 2 4 0 0
    let s := tasking.modThread 0 fun th => { th with g := regs [(2, 0x400000), (4, 8), (8, 5)], lastPage := some page }
    let s := { s with tasks := s.tasks.mod 7 fun x =>
      { x with ranges := [{ base := 0x400000, len := 65536, r := true, w := true }] } }
    let keys := (partsOf (s.locateAcc k 0 (s.access k 0 0))).flatMap fun p => (List.range p.n).map (p.place.byteKey + ·)
    k.space = 0 ∧ (s.thread? 0).bind Thread.taskOf = some 7 ∧ (s.tasks.get? 7).isSome = true ∧
    Clear (semOf .st) k s scalarRun 0 [0] ∧ (s.access k 0 0).nib = none ∧ keys.Nodup ∧ keys.length = 4 ∧
    (∀ e ∈ s.tasks, (tasking.tasks.getD 7 (aTask .running)).key.lt e.2.key = false) := by
  unfold Clear Reached; decide

/-- `scalar` with all 64 pockets of stand 0 taken. -/
def crowded : State :=
  scalar.modStand 0 fun x => { x with
    pockets := (List.range 64).map fun j => (j, { launch := 0, wg := 7, pc := 0, members := [] }) }

theorem test_witness_HomesAndHalts_filed :
    let taken : Pocket := { launch := 0, wg := 7, pc := 0, members := [] }
    (scalar.thread? 0).isSome = true ∧ (scalar.stand 0).plist = [] ∧ (scalar.stand 0).pockets = [] ∧
    (∀ j < 64, (crowded.stand 0).pockets.get? j = some taken) ∧
    taken.wg ≠ (scalar.threads.getD 0 nobody).wg := by decide

theorem test_witness_HomesAndHalts_moved :
    let all := wave.modStand 0 fun x => { x with waitCtx := List.replicate 512 9 }
    (wave.thread? 1).map Thread.home = some (.wave 0 0 0) ∧ (wave.freeContexts 0).drop (wave.stand 0).waitCtx.length ≠ [] ∧
    (all.freeContexts 0).drop (all.stand 0).waitCtx.length = [] := by decide +kernel

theorem test_witness_Synchronises_arrivals :
    let waits := { scalar with threads := scalar.threads.put 9 { nobody with status := .barrier 0 0 } }
    let b := waits.counted 0 0 (.bar 0)
    (waits.thread? 0).map (fun th => (th.launch, th.wg)) = some (0, 0) ∧ (waits.launch? 0).isSome = true ∧
    b.tally + 1 = b.count.getD (1 % 65536) ∧ b.tally + 1 ≠ b.count.getD (2 % 65536) ∧ b.fold = none ∧
    ((waits.thread? 9).all fun x => x.launch == 0 && x.wg == 0 && State.waitsOn x (.bar 0) (b.phase + 1)) = true := by decide

theorem test_witness_Synchronises_signatures :
    let s := (wave.modSlot 0 0 fun y => { y with cvset := [(0, 3)] }).modThread 2 fun th => { th with status := .converge 0 0 }
    (wave.slot? 0 0).isSome = true ∧ ((s.slot? 0 0).map fun y => y.cvset.getD 0 0) = some 3 ∧
    ([1, 2].filter fun u => (3#32).getLsbD (s.homeOf u).lane) = [1, 2] ∧ (1#32 &&& 3) ≠ 3 ∧ (3#32 &&& 3) = 3 ∧
    2 ∈ s.groupThreads (waveKey 0) 0 ∧ (s.thread? 2).map Thread.status = some (.converge 0 0) := by decide

/-- `sending` before its message has asked for a place. -/
def asking : State := sending.modThread 0 fun th => { th with held := .none }

theorem test_witness_MessagesSent_asked :
    (∀ k ∈ [ins .send 0 2 4 0 0, ins .sendT 3 2 4 0 0 0 1, ins .spawn 0 2 4 0 0], Reached (semOf k.op) k asking scalarRun 0 [0] ∧
      asking.targetOk 0 (asking.srcVal 0 k .a) = true ∧ asking.srcVal 0 k .b % 4 = 0) ∧
    ((asking.thread? 0).map fun th => (th.held, th.taskOf, th.home)) = some (.none, none, .scalar 0 0) ∧ 0 < asking.nextId ∧
    ((asking.launch? 0).all fun l => l.phase != .dying && l.phase != .preempting) = true := by
  unfold Reached; decide

theorem test_witness_TaskInstructions_single :
    ((scalar.thread? 0).map fun th => (th.held, th.taskOf)) = some (.none, none) ∧
    Clear (semOf .tspawn) (ins .tspawn 0 2 4 0 0) scalar scalarRun 0 [0] := by
  unfold Clear Reached; decide

theorem test_witness_RowInstructions_outstanding :
    let o : MemOp := { tid := 1, part := 0, stand := 0, src := 0, kind := .load, dest := .tileRow (slotKey 0 0) 0 0, parts := [] }
    let s := { alone 0 with ops := [(7, o)], nextId := 8 }
    Clear (semOf .tgather) (ins .tgather 0 2 6 4 0 1) s aloneRun 1 [1] ∧ s.rowActive (ins .tgather 0 2 6 4 0 1) 1 = true ∧
    (s.gatherEa (ins .tgather 0 2 6 4 0 1) 1).1 = 0xFFFFFFFF#32 ∧
    (s.ops.any fun o => o.2.dest == .tileRow (slotKey 0 0) 0 (s.laneAt 1)) = true := by
  unfold Clear Reached; decide

theorem test_witness_MatrixInstructions_outstanding :
    let k := ins .nzscan 8 0 7 0 8 1
    let o : MemOp := { tid := 1, part := 0, stand := 0, src := 0, kind := .load, dest := .tileRow (slotKey 0 0) 0 0, parts := [] }
    let s := { matrix with ops := [(7, o)], nextId := 8 }
    Clear (semOf .nzscan) k s waveRun 1 [1, 2] ∧ bits (s.wordB 1 k).toNat 20 16 = 0 ∧ k.x % 8 = 0 ∧ 8 ≤ k.x ∧
    (matrix.ops.any fun e => e.2.dest == .tileRow (slotKey 0 0) 0 0) = false := by
  unfold Clear Reached; decide

/-! The host's registers and the queues -/

theorem test_witness_HostRegisterWritesTakeEffect_stored :
    StoredRegister State.reset (queueReg 4095 0x30) 0xFFFFFFFF false ∧ StoredRegister (queued []) (queueReg 0 0) 0xFFFFFF00 true :=
  ⟨.inl ⟨4095, by decide, .inr ⟨rfl, by decide⟩⟩, .inl ⟨0, by decide, .inl ⟨by decide, by decide⟩⟩⟩

theorem test_witness_HostRegisterWritesTakeEffect_ignored : ¬Writable 0x6100004 := by
  unfold Writable queueReg transReg partReg cxlReg standownReg balReg pkgidReg pfReg powerReg
  rintro (⟨q, o, h, e, m⟩ | ⟨q, o, h, e, m⟩ | ⟨q, o, h, e, m | ⟨n, m, m'⟩⟩ | ⟨p, h, e⟩ | ⟨n, h, e⟩ | ⟨d, h, e⟩ | e)
  all_goals (try simp at m)
  all_goals (try simp at e)
  all_goals omega

/-- A fault record of thread 0, replayable, of partition 0 with number 0. -/
def faulted (auto : Bool) : State :=
  { (scalar.modThread 0 fun th => { th with status := .parked 0 }).setRegN (transReg 0 0x1C) 1 with
    recs := [(0, { part := 0, who := .threads [0] false
                   fr := { seq := 0, kind := 1, source := 0, auto := auto, page := 0x400000, addr := 0x400000 } })] }

theorem test_witness_HostRegisterWritesTakeEffect_faults :
    let s := faulted false
    let prod := s.regN (transReg 0 0x1C)
    let covered (n : Nat) (x : Pending) : Bool := x.part == 0 && x.pending && !x.fr.auto &&
      decide ((n + 2 ^ 32 - x.fr.seq) % 2 ^ 32 < 2 ^ 31) && decide ((prod + 2 ^ 32 - 1 - x.fr.seq % 2 ^ 32) % 2 ^ 32 < 2 ^ 31)
    s.recs.keys.Nodup ∧ (s.recs.get? 0).map (covered 0) = some true ∧ (s.recs.get? 0).map (covered (2 ^ 31)) = some false ∧
    (s.thread? 0).map Thread.status = some (.parked 0) ∧
    ((faulted true).recs.get? 0).all (fun x => !x.pending || x.fr.auto) = true ∧
    (s.launch? 0).any (fun l => l.cruise.isNone && l.fatal.isNone) = true ∧
    s.bufferedRecs 0 = [] ∧ s.waitingPages = [] := by decide

theorem test_witness_HostRegisterWritesTakeEffect_partitions :
    let on := State.reset.setRegN (partReg 63 0) 1
    let key := State.reset.setRegN (partReg 63 0x50) (2 ^ 31)
    (1#32).getLsbD 0 = true ∧ State.reset.partEnabled 63 = false ∧ State.reset.keysOk 63 = false ∧
    ((State.reset.setRegN (partReg 63 0x10) (2 ^ 12)).keysOk 63) = true ∧ on.partEnabled 63 = true ∧ on.partBusy 63 = false ∧
    (scalar.setRegN (partReg 0 0) 1).partBusy 0 = true ∧
    (key.reg (partReg 63 0x50)).getLsbD 31 = true ∧ (State.reset.reg (partReg 63 0x50)).getLsbD 31 = false ∧
    (∀ d ∈ State.reset.dies, ∀ e ∈ d.2.eventBuf, e.1 ≠ 63) ∧ State.reset.routeHeld = [] ∧ State.reset.ops = [] := by decide

theorem test_witness_HostRegisterWritesTakeEffect_module :
    let moving := State.reset.modDie 3 fun d => { d with move := some (2047, true, 0) }
    let failed := State.reset.setRegN State.bootReg 8
    (∀ l ∈ State.reset.launches, l.2.phase ≠ .pending) ∧ moving.standMoves 2047 = true ∧ failed.bootState = 8 ∧
    State.reset.bootState ≠ 8 ∧ State.reset.pkg.pfBuf = [] ∧
    (bits 0x3FFFFFFF 29 20 < bits 0x3FFFFFFF 19 10 ∨ 512 < bits 0x3FFFFFFF 29 20) ∧ ¬(bits 0x20000000 29 20 < bits 0x20000000 19 10) ∧
    3 % 4 = State.reset.regN (powerReg 4) % 4 ∧ State.reset.pkg.relocking = false ∧ State.reset.pkg.oldMode = [] ∧
    0 % 4 ≠ State.reset.regN (powerReg 4) % 4 := by decide

theorem test_witness_QueueCommands_message :
    let sent := [(0, 4), (8, 0), (0xC, 0xFFFFFFFF), (0x10, 0)]
    let lost := [(0, 4), (8, 0), (0xC, 0xFFFFFFFF), (0x10, 0x12345)]
    let x := readEntry sent
    let y := readEntry lost
    let full := x.1.modCore 0 fun c => { c with inbound := List.replicate 16 (message 1) }
    startable sent 4 = true ∧ startable lost 4 = true ∧
    (∀ b ∈ [x.2.2.2, y.2.2.2], bits (fieldOf b 0x10 8) 47 44 ≤ 8 ∧ fieldOf b 0x10 8 / 2 ^ 48 = 0 ∧ State.zeroFrom b 0x38 = true ∧
      fieldOf b 8 8 / 2 ^ 32 = 0xFFFFFFFF ∧ bits (fieldOf b 8 8) 31 18 = 0) ∧
    (queued sent).coreOwner 0 = some 0 ∧ (x.1.launchById 0 0).isSome = true ∧ (x.1.core 0).inbound.length < 16 ∧
    16 ≤ (full.core 0).inbound.length ∧ y.1.launchById 0 0x12345 = none ∧ y.1.launchAwaited 0 0x12345 = false ∧
    y.1.eventRoom (coreDie 0) = true := by decide

end Sys2Proof.Tests
end

section
/-!
SUPPORT. Memory-mapped registers as the host's writes leave them: what it is to set one register, the numbers that masks and
fields stand for, and which meaning a write of each offset reaches (00 R10, R11).
-/

namespace Sys2Proof.Machine

open Sys2Proof.Safety

/-! ### One register set -/

theorem setTo_setReg (s : State) (off : Nat) (v : W32) : SetTo s (s.setReg off v) off v :=
  ⟨by simp, fun o h => by simp [h], rfl⟩

theorem sets_of_exec {i : Instr} {s : State} {off : Nat} {v : W32} (h : exec i s = .next (s.setReg off v)) : Sets i s off v :=
  ⟨_, h, setTo_setReg s off v⟩

/-! ### Masks and fields as numbers -/

theorem bit_toNat (v : W32) (n : Nat) : bit v.toNat n = v.getLsbD n := BitVec.testBit_toNat v

theorem bit_regN (s : State) (off n : Nat) : bit (s.regN off) n = (s.reg off).getLsbD n := bit_toNat _ n

/-- A number cleared below bit `k` is the word under the mask of the bits from `k` up. -/
theorem ofNat_clearLow (v : W32) (k : Nat) :
    BitVec.ofNat 32 (v.toNat / 2 ^ k * 2 ^ k) = v &&& (BitVec.allOnes 32 <<< k) := by
  refine BitVec.eq_of_getLsbD_eq fun i hi => ?_
  simp only [BitVec.getLsbD_ofNat, BitVec.getLsbD_and, BitVec.getLsbD_shiftLeft, BitVec.getLsbD_allOnes,
    Nat.testBit_mul_two_pow, Nat.testBit_div_two_pow, hi]
  by_cases h : k ≤ i
  · simp [h, Nat.not_lt.2 h, Nat.sub_add_cancel h, BitVec.testBit_toNat,
      Nat.lt_of_le_of_lt (Nat.sub_le i k) hi]
  · simp [h, Nat.not_le.1 h]

/-- A number below bit `k` is the word under the mask of the bits below `k`. -/
theorem ofNat_keepLow (v : W32) (k : Nat) : BitVec.ofNat 32 (v.toNat % 2 ^ k) = v &&& BitVec.ofNat 32 (2 ^ k - 1) := by
  refine BitVec.eq_of_getLsbD_eq fun i hi => ?_
  simp [-BitVec.getLsbD_eq_getElem, BitVec.getLsbD_ofNat, BitVec.testBit_toNat, Nat.testBit_mod_two_pow,
    Nat.testBit_two_pow_sub_one, hi, Bool.and_comm]

theorem and_fullMask (v : W32) : v &&& BitVec.ofNat 32 0xFFFFFFFF = v := by
  have h : BitVec.ofNat 32 0xFFFFFFFF = BitVec.allOnes 32 := by decide
  rw [h, BitVec.and_allOnes]

/-! ### Where a write of an offset goes -/

theorem exec_registerWrite (off : Nat) (v : W32) (s : State) :
    exec (.registerWrite off v) s = execRegisterWrite off v s := rfl

theorem execRegisterWrite_physical {off : Nat} (h : off < 2 ^ 32) (v : W32) (s : State) :
    exec (.registerWrite off v) s = physicalWrite off v s := by
  rw [exec_registerWrite, execRegisterWrite, if_pos h]

/-- Each queue has a page of its own (R329). -/
theorem physicalWrite_queue {q o : Nat} (hq : q < 4096) (ho : o < 0x1000) (v : W32) (s : State) :
    physicalWrite (queueReg q o) v s = .next (s.queueWrite q o v) := by
  have hin : 0x100000 ≤ queueReg q o ∧ queueReg q o < 0x1100000 := by unfold queueReg; omega
  have hq' : (queueReg q o - 0x100000) / 0x1000 = q := by unfold queueReg; omega
  have ho' : queueReg q o % 0x1000 = o := by unfold queueReg; omega
  rw [physicalWrite, if_pos hin, hq', ho']

/-- What a write of a register of a translation block reaches (R348): six have an effect of their own. -/
def transEffect (part o : Nat) (v : W32) (s : State) : Host.Outcome State Fault Refusal :=
  match o with
  | 0x18 => execFqctlWrite part v s
  | 0x20 => execFqconsWrite part v s
  | 0x28 => execFreplayWrite part v s
  | 0x2C => execFcancelWrite part v s
  | 0x38 => execInvctlStart part v s
  | 0x50 => execMigctlStart part v s
  | o => .next (s.transWrite part o v)

theorem physicalWrite_trans {p o : Nat} (hp : p < 64) (ho : o < 0x1000) (v : W32) (s : State) :
    physicalWrite (transReg p o) v s = transEffect p o v s := by
  have hno : ¬(0x100000 ≤ transReg p o ∧ transReg p o < 0x1100000) := by unfold transReg; omega
  have hin : 0x2000000 ≤ transReg p o ∧ transReg p o < 0x2040000 := by unfold transReg; omega
  have hp' : (transReg p o - 0x2000000) / 0x1000 = p := by unfold transReg; omega
  have ho' : transReg p o % 0x1000 = o := by unfold transReg; omega
  rw [physicalWrite, if_neg hno, if_pos hin, hp', ho']
  rfl

theorem physicalWrite_cxl {p o : Nat} (hp : p < 2) (ho : o < 0x100) (v : W32) (s : State) :
    physicalWrite (cxlReg p o) v s = .next (s.cxlWrite p o v) := by
  have h1 : ¬(0x100000 ≤ cxlReg p o ∧ cxlReg p o < 0x1100000) := by unfold cxlReg; omega
  have h2 : ¬(0x2000000 ≤ cxlReg p o ∧ cxlReg p o < 0x2040000) := by unfold cxlReg; omega
  have hin : 0x3000000 ≤ cxlReg p o ∧ cxlReg p o < 0x3000200 := by unfold cxlReg; omega
  have hp' : (cxlReg p o - 0x3000000) / 0x100 = p := by unfold cxlReg; omega
  have ho' : cxlReg p o % 0x100 = o := by unfold cxlReg; omega
  rw [physicalWrite, if_neg h1, if_neg h2, if_pos hin, hp', ho']

theorem physicalWrite_standown {n : Nat} (hn : n < 2048) (v : W32) (s : State) :
    physicalWrite (standownReg n) v s = .next (s.writeStandown n v) := by
  have h1 : ¬(0x100000 ≤ standownReg n ∧ standownReg n < 0x1100000) := by unfold standownReg; omega
  have h2 : ¬(0x2000000 ≤ standownReg n ∧ standownReg n < 0x2040000) := by unfold standownReg; omega
  have h3 : ¬(0x3000000 ≤ standownReg n ∧ standownReg n < 0x3000200) := by unfold standownReg; omega
  have hin : 0x3800000 ≤ standownReg n ∧ standownReg n < 0x3802000 ∧ standownReg n % 4 = 0 := by unfold standownReg; omega
  have hn' : (standownReg n - 0x3800000) / 4 = n := by unfold standownReg; omega
  rw [physicalWrite, if_neg h1, if_neg h2, if_neg h3, if_pos hin, hn']

/-- The blocks from the balancer's up lie above those of queues, translation, ports and stands. -/
theorem physicalWrite_above {off : Nat} (h : 0x3802000 ≤ off) (v : W32) (s : State) :
    physicalWrite off v s =
      if 0x3810000 ≤ off ∧ off < 0x3810040 then
        .next (if off % 0x10 = 4 then s.writeBalctl ((off - 0x3810000) / 0x10) v else s)
      else if 0x4000000 ≤ off ∧ off < 0x4040000 then .next (s.partWrite ((off - 0x4000000) / 0x1000) (off % 0x1000) v)
      else .next (s.loneWrite off v) := by
  rw [physicalWrite, if_neg (by omega), if_neg (by omega), if_neg (by omega), if_neg (by omega)]

theorem physicalWrite_balctl {d : Nat} (hd : d < 4) (v : W32) (s : State) :
    physicalWrite (balReg d 4) v s = .next (s.writeBalctl d v) := by
  have hin : 0x3810000 ≤ balReg d 4 ∧ balReg d 4 < 0x3810040 := by unfold balReg; omega
  have hd' : (balReg d 4 - 0x3810000) / 0x10 = d := by unfold balReg; omega
  have ho' : balReg d 4 % 0x10 = 4 := by unfold balReg; omega
  rw [physicalWrite_above (by omega), if_pos hin, if_pos ho', hd']

theorem physicalWrite_part {p o : Nat} (hp : p < 64) (ho : o < 0x1000) (v : W32) (s : State) :
    physicalWrite (partReg p o) v s = .next (s.partWrite p o v) := by
  have h1 : ¬(0x3810000 ≤ partReg p o ∧ partReg p o < 0x3810040) := by unfold partReg; omega
  have hin : 0x4000000 ≤ partReg p o ∧ partReg p o < 0x4040000 := by unfold partReg; omega
  have hp' : (partReg p o - 0x4000000) / 0x1000 = p := by unfold partReg; omega
  have ho' : partReg p o % 0x1000 = o := by unfold partReg; omega
  rw [physicalWrite_above (by omega), if_neg h1, if_pos hin, hp', ho']

theorem physicalWrite_lone {off : Nat} (h : 0x4040000 ≤ off) (v : W32) (s : State) :
    physicalWrite off v s = .next (s.loneWrite off v) := by
  rw [physicalWrite_above (by omega), if_neg (by omega), if_neg (by omega)]

section
variable (v : W32) (s : State)

theorem exec_write_queue {q o : Nat} (hq : q < 4096) (ho : o < 0x1000) :
    exec (.registerWrite (queueReg q o) v) s = .next (s.queueWrite q o v) := by
  rw [execRegisterWrite_physical (by unfold queueReg; omega), physicalWrite_queue hq ho]

theorem exec_write_trans {p o : Nat} (hp : p < 64) (ho : o < 0x1000) :
    exec (.registerWrite (transReg p o) v) s = transEffect p o v s := by
  rw [execRegisterWrite_physical (by unfold transReg; omega), physicalWrite_trans hp ho]

theorem exec_write_cxl {p o : Nat} (hp : p < 2) (ho : o < 0x100) :
    exec (.registerWrite (cxlReg p o) v) s = .next (s.cxlWrite p o v) := by
  rw [execRegisterWrite_physical (by unfold cxlReg; omega), physicalWrite_cxl hp ho]

theorem exec_write_standown {n : Nat} (hn : n < 2048) :
    exec (.registerWrite (standownReg n) v) s = .next (s.writeStandown n v) := by
  rw [execRegisterWrite_physical (by unfold standownReg; omega), physicalWrite_standown hn]

theorem exec_write_balctl {d : Nat} (hd : d < 4) : exec (.registerWrite (balReg d 4) v) s = .next (s.writeBalctl d v) := by
  rw [execRegisterWrite_physical (by unfold balReg; omega), physicalWrite_balctl hd]

theorem exec_write_part {p o : Nat} (hp : p < 64) (ho : o < 0x1000) :
    exec (.registerWrite (partReg p o) v) s = .next (s.partWrite p o v) := by
  rw [execRegisterWrite_physical (by unfold partReg; omega), physicalWrite_part hp ho]

theorem exec_write_lone {off : Nat} (h : 0x4040000 ≤ off) (h32 : off < 2 ^ 32) :
    exec (.registerWrite off v) s = .next (s.loneWrite off v) := by
  rw [execRegisterWrite_physical h32, physicalWrite_lone h]

end

end Sys2Proof.Machine
end

section
/-!
SUPPORT. The writes of memory-mapped registers that only store, those of no register at all, and those of virtual functions (00
R10, R11; 18 R329; 19 R348, R364; 20 R369, R371, R373; 22 R393, R395).
-/

namespace Sys2Proof.Machine

open Sys2Proof.Safety

/-! ### Registers whose write only stores -/

section
variable {off mask : Nat} (v : W32) (s : State)

/-- What the write of a register that only stores leaves: its writable bits, or everything as it was while it is locked. -/
def stored (s : State) (off mask : Nat) (locked : Bool) (v : W32) : State :=
  if locked then s else s.setMasked off mask v

theorem setReg_eq_stored : s.setReg off v = stored s off 0xFFFFFFFF false v := by
  rw [stored, if_neg Bool.false_ne_true, State.setMasked, and_fullMask]

theorem partWrite_ctrsel {p n : Nat} (hn : n < 16) : s.partWrite p (0x60 + 4 * n) v = s.writeCtrsel p n v := by
  interval_cases n <;> rfl

theorem exec_write_queueBase {q : Nat} (hq : q < 4096)
    (h : (off, mask) ∈ [(queueReg q 0, 0xFFFFFF00), (queueReg q 4, 0xFFFFFFFF)]) :
    exec (.registerWrite off v) s = .next (stored s off mask (s.qEnabled q) v) := by
  simp only [List.mem_cons, Prod.mk.injEq, List.not_mem_nil, or_false] at h
  obtain ⟨rfl, rfl⟩ | ⟨rfl, rfl⟩ := h <;> rw [exec_write_queue _ _ hq (by omega), stored, State.setMasked]
  · have hlow : BitVec.ofNat 32 (v.toNat / 256 * 256) = v &&& BitVec.ofNat 32 0xFFFFFF00 := ofNat_clearLow v 8
    rw [← hlow]; rfl
  · rw [and_fullMask]; rfl

theorem exec_write_queueArea {q : Nat} (hq : q < 4096)
    (h : (off, mask) ∈ [(queueReg q 0x28, 0xFFFFF000), (queueReg q 0x2C, 0xFFFFFFFF), (queueReg q 0x30, 0xFFFFFFFF)]) :
    exec (.registerWrite off v) s = .next (stored s off mask false v) := by
  simp only [List.mem_cons, Prod.mk.injEq, List.not_mem_nil, or_false] at h
  obtain ⟨rfl, rfl⟩ | ⟨rfl, rfl⟩ | ⟨rfl, rfl⟩ := h <;> rw [exec_write_queue _ _ hq (by omega)]
  · have hlow : BitVec.ofNat 32 (v.toNat / 4096 * 4096) = v &&& BitVec.ofNat 32 0xFFFFF000 := ofNat_clearLow v 12
    rw [stored, State.setMasked, ← hlow]; rfl
  · rw [← setReg_eq_stored]; rfl
  · rw [← setReg_eq_stored]; rfl

theorem exec_write_tableBase {p : Nat} (hp : p < 64)
    (h : (off, mask) ∈ [(transReg p 0, 0xFFFFF000), (transReg p 4, 0x1FFF)]) :
    exec (.registerWrite off v) s = .next (stored s off mask ((s.reg (transReg p 8)).getLsbD 0) v) := by
  simp only [List.mem_cons, Prod.mk.injEq, List.not_mem_nil, or_false] at h
  obtain ⟨rfl, rfl⟩ | ⟨rfl, rfl⟩ := h <;> rw [exec_write_trans _ _ hp (by omega), ← bit_regN] <;> rfl

theorem exec_write_faultQueueBase {p : Nat} (hp : p < 64)
    (h : (off, mask) ∈ [(transReg p 0x10, 0xFFFFFFC0), (transReg p 0x14, 0xFFFFFFFF)]) :
    exec (.registerWrite off v) s = .next (stored s off mask ((s.reg (transReg p 0x18)).getLsbD 0) v) := by
  simp only [List.mem_cons, Prod.mk.injEq, List.not_mem_nil, or_false] at h
  obtain ⟨rfl, rfl⟩ | ⟨rfl, rfl⟩ := h <;> rw [exec_write_trans _ _ hp (by omega), ← bit_regN]
  · rfl
  · rw [stored, State.setMasked, and_fullMask]; rfl

theorem exec_write_transOperand {p : Nat} (hp : p < 64)
    (h : (off, mask) ∈ [(transReg p 0x30, 0xFFFF0000), (transReg p 0x34, 0x1FFFFFF), (transReg p 0x40, 0xFFFF0000),
      (transReg p 0x44, 0x1FFFFFF), (transReg p 0x48, 0xFFFF0000), (transReg p 0x4C, 0x1FFF)]) :
    exec (.registerWrite off v) s = .next (stored s off mask false v) := by
  simp only [List.mem_cons, Prod.mk.injEq, List.not_mem_nil, or_false] at h
  obtain ⟨rfl, rfl⟩ | ⟨rfl, rfl⟩ | ⟨rfl, rfl⟩ | ⟨rfl, rfl⟩ | ⟨rfl, rfl⟩ | ⟨rfl, rfl⟩ := h <;>
    rw [exec_write_trans _ _ hp (by omega)] <;> rfl

theorem exec_write_partOperand {p : Nat} (hp : p < 64)
    (h : (off, mask) ∈ [(partReg p 8, 0xFFFF8000), (partReg p 0xC, 0xFFFFFFFF), (partReg p 0x10, 0x1FFFFFF),
      (partReg p 0x14, 0xFFF), (partReg p 0x18, 0xFFFF0000), (partReg p 0x1C, 0xFFFFFFFF), (partReg p 0x20, 0xFFFFFFFF)]) :
    exec (.registerWrite off v) s = .next (stored s off mask (s.partEnabled p) v) := by
  simp only [List.mem_cons, Prod.mk.injEq, List.not_mem_nil, or_false] at h
  obtain ⟨rfl, rfl⟩ | ⟨rfl, rfl⟩ | ⟨rfl, rfl⟩ | ⟨rfl, rfl⟩ | ⟨rfl, rfl⟩ | ⟨rfl, rfl⟩ | ⟨rfl, rfl⟩ := h <;>
    rw [exec_write_part _ _ hp (by omega)] <;> simp only [stored, State.setMasked, and_fullMask] <;> rfl

theorem exec_write_eventRingBase {p : Nat} (hp : p < 64)
    (h : (off, mask) ∈ [(partReg p 0x28, 0xFFFFFFE0), (partReg p 0x2C, 0xFFFFFFFF)]) :
    exec (.registerWrite off v) s = .next (stored s off mask ((s.reg (partReg p 0x30)).getLsbD 0) v) := by
  simp only [List.mem_cons, Prod.mk.injEq, List.not_mem_nil, or_false] at h
  obtain ⟨rfl, rfl⟩ | ⟨rfl, rfl⟩ := h <;> rw [exec_write_part _ _ hp (by omega), ← bit_regN]
  · rfl
  · rw [stored, State.setMasked, and_fullMask]; rfl

theorem exec_write_ctrsel {p n : Nat} (hp : p < 64) (hn : n < 16) :
    exec (.registerWrite (partReg p (0x60 + 4 * n)) v) s = .next (stored s (partReg p (0x60 + 4 * n)) 0xFFFF false v) := by
  rw [exec_write_part _ _ hp (by omega), partWrite_ctrsel _ _ hn]; rfl

theorem exec_write_pkgid :
    exec (.registerWrite pkgidReg v) s = .next (stored s pkgidReg 0x3FFFFF (decide (s.bootState = 4)) v) := by
  rw [exec_write_lone _ _ (by decide) (by decide), State.loneWrite, if_pos rfl, stored]
  by_cases h : s.bootState = 4 <;> simp [h]

theorem exec_write_logBase (h : (off, mask) ∈ [(pfReg 0, 0xFFFFFFE0), (pfReg 4, 0xFFFFFFFF)]) :
    exec (.registerWrite off v) s = .next (stored s off mask false v) := by
  simp only [List.mem_cons, Prod.mk.injEq, List.not_mem_nil, or_false] at h
  obtain ⟨rfl, rfl⟩ | ⟨rfl, rfl⟩ := h <;> rw [exec_write_lone _ _ (by decide) (by decide)]
  · rfl
  · rw [← setReg_eq_stored]; rfl

theorem exec_write_stored {locked : Bool} (h : StoredRegister s off mask locked) :
    exec (.registerWrite off v) s = .next (stored s off mask locked v) := by
  obtain ⟨q, hq, ⟨rfl, h⟩ | ⟨rfl, h⟩⟩ | ⟨p, hp, h⟩ | ⟨rfl, rfl, rfl⟩ | ⟨rfl, h⟩ := h
  · exact exec_write_queueBase v s hq h
  · exact exec_write_queueArea v s hq h
  · obtain ⟨rfl, h⟩ | ⟨rfl, h⟩ | ⟨rfl, h⟩ | ⟨rfl, h⟩ | ⟨rfl, h⟩ | ⟨rfl, n, hn, rfl, rfl⟩ := h
    · exact exec_write_tableBase v s hp h
    · exact exec_write_faultQueueBase v s hp h
    · exact exec_write_transOperand v s hp h
    · exact exec_write_partOperand v s hp h
    · exact exec_write_eventRingBase v s hp h
    · exact exec_write_ctrsel v s hp hn
  · exact exec_write_pkgid v s
  · exact exec_write_logBase v s h

end

/-! ### Offsets of no writable register -/

section
variable {o : Nat} (v : W32) (s : State)

theorem queueWrite_other (q : Nat) (h : o ∉ [0, 4, 8, 0xC, 0x18, 0x20, 0x24, 0x28, 0x2C, 0x30]) : s.queueWrite q o v = s := by
  unfold State.queueWrite
  split <;> simp_all

theorem transEffect_other (p : Nat)
    (h : o ∉ [0, 4, 8, 0x10, 0x14, 0x18, 0x20, 0x24, 0x28, 0x2C, 0x30, 0x34, 0x38, 0x40, 0x44, 0x48, 0x4C, 0x50, 0x54]) :
    transEffect p o v s = .next s := by
  unfold transEffect State.transWrite
  split <;> simp_all

theorem cxlWrite_other (p : Nat) (h0 : o ≠ 0) (h4 : o ≠ 4) : s.cxlWrite p o v = s := by
  unfold State.cxlWrite
  split <;> simp_all

theorem partWrite_other (p : Nat)
    (h : o ∉ [0, 8, 0xC, 0x10, 0x14, 0x18, 0x1C, 0x20, 0x28, 0x2C, 0x30, 0x38, 0x44, 0x48, 0x50])
    (hn : ¬∃ n, n < 16 ∧ o = 0x60 + 4 * n) : s.partWrite p o v = s := by
  have hsel : ¬(0x60 ≤ o ∧ o < 0xA0 ∧ o % 4 = 0) := fun ho => hn ⟨(o - 0x60) / 4, by omega, by omega⟩
  unfold State.partWrite
  split <;> simp_all

theorem loneWrite_other (h : o ∉ [pkgidReg, 0x6000004, pfReg 0, pfReg 4, pfReg 8, pfReg 0x10, powerReg 0]) :
    s.loneWrite o v = s := by
  simp only [List.mem_cons, List.not_mem_nil, or_false, not_or] at h
  obtain ⟨h1, h2, h3, h4, h5, h6, h7⟩ := h
  rw [State.loneWrite, if_neg h1, if_neg h2, if_neg h3, if_neg h4, if_neg h5, if_neg h6, if_neg h7]

theorem exec_write_other {off : Nat} (h32 : off < 2 ^ 32) (h : ¬Writable off) : exec (.registerWrite off v) s = .next s := by
  simp only [Writable, not_or] at h
  obtain ⟨hqueue, htrans, hpart, hcxl, hstand, hbal, hlone⟩ := h
  rw [execRegisterWrite_physical h32, physicalWrite]
  split_ifs with h1 h2 h3 h4 h5 h6 h7
  · rw [queueWrite_other]
    exact fun ho => hqueue ⟨(off - 0x100000) / 0x1000, off % 0x1000, by omega, by unfold queueReg; omega, ho⟩
  · exact transEffect_other (o := off % 0x1000) v s _ fun ho => htrans
      ⟨(off - 0x2000000) / 0x1000, off % 0x1000, by omega, by unfold transReg; omega, ho⟩
  · have hno (o : Nat) (h04 : o = 0 ∨ o = 4) : off % 0x100 ≠ o := by
      intro ho
      have hoff : off = cxlReg ((off - 0x3000000) / 0x100) o := by unfold cxlReg; omega
      exact hcxl ⟨(off - 0x3000000) / 0x100, by omega, by obtain rfl | rfl := h04 <;> simp [← hoff]⟩
    rw [cxlWrite_other v s _ (hno 0 (.inl rfl)) (hno 4 (.inr rfl))]
  · exact absurd ⟨(off - 0x3800000) / 4, by omega, by unfold standownReg; omega⟩ hstand
  · exact absurd ⟨(off - 0x3810000) / 0x10, by omega, by unfold balReg; omega⟩ hbal
  · rfl
  · rw [partWrite_other]
    · exact fun ho => hpart ⟨(off - 0x4000000) / 0x1000, off % 0x1000, by omega, by unfold partReg; omega, .inl ho⟩
    · exact fun ho => hpart ⟨(off - 0x4000000) / 0x1000, off % 0x1000, by omega, by unfold partReg; omega, .inr ho⟩
  · rw [loneWrite_other v s hlone]

end

/-! ### Virtual functions -/

/-- The offsets at which a virtual function reaches its own partition (R369, log 99). -/
def OwnRegister (p off : Nat) : Prop :=
  (queueReg (64 * p) 0 ≤ off ∧ off < queueReg (64 * p + 64) 0) ∨ (transReg p 0 ≤ off ∧ off < transReg p 0x1000) ∨
    off ∈ [partReg p 0x38, partReg p 0x48, partReg p 0x50]

theorem virtualMay_iff (p off : Nat) : virtualMay p off = true ↔ OwnRegister p off := by
  simp [virtualMay, OwnRegister, or_assoc]

theorem exec_write_virtual {p off : Nat} (hp : p < 64) (h32 : off < 2 ^ 32) (v : W32) (s : State) :
    exec (.registerWrite ((p + 1) * 2 ^ 32 + off) v) s =
      if virtualMay p off then exec (.registerWrite off v) s else .next s := by
  have hfn : ((p + 1) * 2 ^ 32 + off) / 2 ^ 32 = p + 1 := by omega
  have hoff : ((p + 1) * 2 ^ 32 + off) % 2 ^ 32 = off := by omega
  rw [execRegisterWrite_physical h32, exec_registerWrite, execRegisterWrite, if_neg (by omega), hfn, hoff, if_pos (by omega)]
  rfl

end Sys2Proof.Machine
end

section
/-!
SUPPORT. The writes of a queue's registers that have an effect of their own: QDOORBELL, QCTL, QSTAT, QPREEMPT and QWAIT (18 R329,
R330, R331, R338).
-/

namespace Sys2Proof.Machine

open Sys2Proof.Safety

namespace Table
variable {α : Type}

theorem del_del (t : Table α) (n : Nat) : (t.del n).del n = t.del n := by
  induction t with
  | nil => rfl
  | cons a t ih =>
    obtain ⟨k, w⟩ := a
    by_cases h : k = n <;> simp [del, h, ih]

theorem del_put (t : Table α) (n : Nat) (v : α) : (t.put n v).del n = t.del n := by
  induction t with
  | nil => simp [put, del]
  | cons a t ih =>
    obtain ⟨k, w⟩ := a
    by_cases h : k = n
    · simp [put, del, h]
    · by_cases hlt : n < k <;> simp [put, del, h, hlt, ih]

/-- The second of two writes of an entry stands, where it does not give an entry back that the first took away. -/
theorem setD_setD [DecidableEq α] (t : Table α) (n : Nat) {d v w : α} (h : v = d → w = d) :
    (t.setD n d v).setD n d w = t.setD n d w := by
  unfold setD
  split_ifs with hw hv hv
  · exact del_del t n
  · exact del_put t n v
  · exact absurd (h hv) hw
  · exact put_put t n v w

/-- An entry of a table whose entries have each been changed in their place. -/
theorem get?_map {β : Type} (t : Table α) (k : Nat) {g : Nat × α → Nat × β} {f : α → β} (h : ∀ e, g e = (e.1, f e.2)) :
    get? (List.map g t) k = (t.get? k).map f := by
  induction t with
  | nil => rfl
  | cons a t ih =>
    rw [List.map_cons, h, get?, ih, get?]
    split <;> rfl

end Table

namespace State

theorem modQueue_modQueue (s : State) (q : Nat) (f g : Queue → Queue) (h : f (s.queue q) = {} → g (f (s.queue q)) = {}) :
    (s.modQueue q f).modQueue q g = s.modQueue q fun x => g (f x) := by
  have hq : (s.modQueue q f).queue q = f (s.queue q) := by simp
  conv_lhs => rw [modQueue, hq]
  simp only [modQueue, Table.setD_setD s.queues q h]

end State

section
variable {q : Nat} (v : W32) (s : State) (hq : q < 4096)

/-! ### QDOORBELL -/

/-- The unwrapped index a doorbell's value names (R330). -/
def namedEntry (s : State) (q n : Nat) : Nat :=
  (s.queue q).read + (n % 2 ^ 31 + 2 ^ 31 - (s.queue q).read % 2 ^ 31) % 2 ^ 31

theorem publish_reserved {n : Nat} (h : namedEntry s q n < (s.queue q).reserved) :
    s.publish q n = s.modQueue q fun y => { y with published := y.published.put (namedEntry s q n) s.gtc } := by
  have hi : s.doorbellIndex q n = some (namedEntry s q n) := if_pos h
  rw [State.publish, hi, Option.elim_some]

theorem publish_unreserved {n : Nat} (h : (s.queue q).reserved ≤ namedEntry s q n) : s.publish q n = s := by
  have hi : s.doorbellIndex q n = none := if_neg (Nat.not_lt.2 h)
  rw [State.publish, hi, Option.elim_none]

include hq in
theorem exec_doorbellWrite : exec (.doorbellWrite q v) s = .next (s.publish q v.toNat) := if_pos hq

/-! ### QCTL -/

include hq in
theorem exec_qctlWrite : exec (.qctlWrite q v) s = .next (s.writeQctl q v.toNat) := if_pos hq

include hq in
theorem sets_qctl_disabled (h : s.qEnabled q = false) : Sets (.qctlWrite q v) s (queueReg q 8)
    (BitVec.ofNat 32 (bits v.toNat 12 8 * 256 + bits v.toNat 2 2 * 4 + v.toNat % 4)) := by
  have hb : bit (s.qctl q) 0 = false := h
  refine sets_of_exec ?_
  rw [exec_qctlWrite v s hq, State.writeQctl]
  simp only [hb, Bool.false_and, Bool.false_eq_true, if_false]
  rfl

include hq in
theorem sets_qctl_enabled (h : s.qEnabled q = true) (hv : v.getLsbD 0 = true) :
    Sets (.qctlWrite q v) s (queueReg q 8) (BitVec.ofNat 32 (s.qctl q - s.qctl q % 4 + v.toNat % 4)) := by
  have hb : bit (s.qctl q) 0 = true := h
  refine sets_of_exec ?_
  rw [exec_qctlWrite v s hq, State.writeQctl]
  simp only [hb, bit_toNat, hv, Bool.not_true, Bool.and_false, Bool.false_eq_true, if_false, if_true]
  rfl

include hq in
theorem exec_qctl_clear (h : s.qEnabled q = true) (hv : v.getLsbD 0 = false) :
    ∃ t, exec (.qctlWrite q v) s = .next t ∧
      SetTo (s.cancelUnread q) t (queueReg q 8) (BitVec.ofNat 32 (s.qctl q - s.qctl q % 4 + v.toNat % 4)) := by
  have hb : bit (s.qctl q) 0 = true := h
  refine ⟨_, ?_, setTo_setReg _ _ _⟩
  rw [exec_qctlWrite v s hq, State.writeQctl]
  simp only [hb, bit_toNat, hv, Bool.not_false, Bool.and_true, if_true]
  rfl

/-! ### QSTAT -/

include hq in
theorem exec_qstatWrite : exec (.qstatWrite q v) s = .next (s.writeQstat q v) := if_pos hq

include hq in
theorem sets_qstat (h : (s.queue q).halted = false ∨ v.getLsbD 1 = false) :
    Sets (.qstatWrite q v) s (queueReg q 0x20) (s.reg (queueReg q 0x20) &&& ~~~v) := by
  have hno : (v.getLsbD 1 && (s.queue q).halted) = false := by
    obtain h | h := h <;> simp only [h, Bool.and_false, Bool.false_and]
  refine sets_of_exec ?_
  rw [exec_qstatWrite v s hq, State.writeQstat]
  exact congrArg _ (if_neg (Bool.eq_false_iff.1 hno))

/-- A queue whose WAIT is skipped goes on, with the command completed (R331). -/
def Queue.skipWait (x : Queue) : Queue :=
  { x with halted := false, wait := none, active := x.wait.elim x.active fun w => x.active.remove w.index }

theorem writeQstat_skip (hh : (s.queue q).halted = true) (hv : v.getLsbD 1 = true) :
    s.writeQstat q v = (s.setReg (queueReg q 0x20) (s.reg (queueReg q 0x20) &&& ~~~v)).modQueue q Queue.skipWait := by
  have hs (off : Nat) (r : W32) : (s.setReg off r).queue q = s.queue q := rfl
  simp only [State.writeQstat, hs, hh, hv, Bool.and_self, if_true]
  cases hw : (s.queue q).wait with
  | none => simp only [Option.elim_none, State.modQueue, Queue.skipWait, hs, hw]
  | some w =>
    rw [Option.elim_some, State.completeCmd, State.modQueue_modQueue]
    · simp only [State.modQueue, Queue.skipWait, hs, hw, Option.elim_some]
    · intro h0
      rw [h0]
      rfl

include hq in
theorem exec_qstat_skip (hh : (s.queue q).halted = true) (hv : v.getLsbD 1 = true) :
    ∃ t, exec (.qstatWrite q v) s = .next t ∧
      SetTo (s.modQueue q Queue.skipWait) t (queueReg q 0x20) (s.reg (queueReg q 0x20) &&& ~~~v) := by
  refine ⟨_, (exec_qstatWrite v s hq).trans (congrArg _ (writeQstat_skip v s hh hv)), ?_⟩
  exact setTo_setReg (s.modQueue q Queue.skipWait) _ _

/-! ### QPREEMPT -/

include hq in
theorem exec_qpreemptWrite : exec (.qpreemptWrite q v) s = .next (s.queueWrite q 0x24 v) := if_pos hq

theorem queueWrite_preempt : s.queueWrite q 0x24 v =
    if v.getLsbD 0 && !(s.reg (queueReg q 0x24)).getLsbD 0 then s.startPreempt q else s := rfl

include hq in
theorem exec_qpreempt_idle (h : v.getLsbD 0 = false ∨ (s.reg (queueReg q 0x24)).getLsbD 0 = true) :
    exec (.qpreemptWrite q v) s = .next s := by
  have hno : (v.getLsbD 0 && !(s.reg (queueReg q 0x24)).getLsbD 0) = false := by
    obtain h | h := h <;> simp only [h, Bool.not_true, Bool.and_false, Bool.false_and]
  rw [exec_qpreemptWrite v s hq, queueWrite_preempt, if_neg (Bool.eq_false_iff.1 hno)]

/-- A launch of a queue that holds stands, which a pre-emption of the queue stops (R338). -/
def preempts (q : Nat) (l : Launch) : Bool :=
  l.queue == q && l.cruise.isNone && (l.phase == .running || l.phase == .pending) && l.wgs.any fun w => w.2.placed && !w.2.retired

theorem preempts_eq (l : Launch) : (l.queue == q && l.cruise.isNone && State.holdsStands l) = preempts q l := by
  simp only [preempts, State.holdsStands, Bool.and_assoc]

/-- What the beginning of a pre-emption leaves (R338): the queue's launches that hold stands stop, its cruise is to be discarded,
and QPREEMPT or, where nothing stops, QSTAT says so. -/
def PreemptBegun (s t : State) (q : Nat) : Prop :=
  { t with launches := s.launches, cruises := s.cruises, bar0 := s.bar0 } = s ∧
  (∀ k, t.launches.get? k = (s.launches.get? k).map fun l => if preempts q l then { l with phase := .preempting } else l) ∧
  (∀ k, t.cruises.get? k = (s.cruises.get? k).map fun c => if c.queue = q then c.cause 0x10 else c) ∧
  let at' := if s.launches.any fun l => preempts q l.2 then queueReg q 0x24 else queueReg q 0x20
  t.reg at' = (if at' = queueReg q 0x24 then 1 else s.reg (queueReg q 0x20) ||| 4) ∧ ∀ o, o ≠ at' → t.reg o = s.reg o

theorem get?_cruises_startPreempt (cs : Table Cruise) (k : Nat) :
    Table.get? (cs.map fun (c : Nat × Cruise) => if c.2.queue == q then (c.1, c.2.cause 0x10) else c) k =
      (cs.get? k).map fun c => if c.queue = q then c.cause 0x10 else c :=
  Table.get?_map _ _ fun e => by by_cases h : e.2.queue = q <;> simp [h]

theorem get?_launches_startPreempt (ls : Table Launch) (k : Nat) :
    Table.get? (ls.map fun (l : Nat × Launch) => if preempts q l.2 then (l.1, { l.2 with phase := .preempting }) else l) k =
      (ls.get? k).map fun l => if preempts q l then { l with phase := .preempting } else l :=
  Table.get?_map _ _ fun e => by by_cases h : preempts q e.2 = true <;> simp [h]

theorem map_unstopped {ls : Table Launch} (h : (ls.any fun l => preempts q l.2) = false) :
    ls.map (fun l => if preempts q l.2 then (l.1, { l.2 with phase := .preempting }) else l) = ls := by
  have hno (l : Nat × Launch) (hl : l ∈ ls) : ¬preempts q l.2 = true := List.any_eq_false.1 h l hl
  exact (List.map_congr_left fun l hl => if_neg (hno l hl)).trans ls.map_id

theorem preemptBegun_startPreempt : PreemptBegun s (s.startPreempt q) q := by
  have hne : queueReg q 0x20 ≠ queueReg q 0x24 := by unfold queueReg; omega
  simp only [State.startPreempt, preempts_eq]
  cases hany : s.launches.any fun l => preempts q l.2 with
  | true =>
    refine ⟨rfl, get?_launches_startPreempt _, get?_cruises_startPreempt _, ?_⟩
    simp only [hany, if_true]
    exact ⟨(State.reg_setReg ..).trans (if_pos rfl), fun o ho => (State.reg_setReg ..).trans (if_neg ho)⟩
  | false =>
    refine ⟨rfl, fun k => ?_, get?_cruises_startPreempt _, ?_⟩
    · rw [← get?_launches_startPreempt, map_unstopped hany]
      rfl
    · simp only [hany, Bool.false_eq_true, if_false, hne]
      exact ⟨(State.reg_setReg ..).trans (if_pos rfl), fun o ho => (State.reg_setReg ..).trans (if_neg ho)⟩

include hq in
theorem exec_qpreempt_begin (hv : v.getLsbD 0 = true) (hidle : (s.reg (queueReg q 0x24)).getLsbD 0 = false) :
    ∃ t, exec (.qpreemptWrite q v) s = .next t ∧ PreemptBegun s t q := by
  refine ⟨_, ?_, preemptBegun_startPreempt s⟩
  rw [exec_qpreemptWrite v s hq, queueWrite_preempt, hv, hidle]
  rfl

/-! ### QWAIT -/

include hq in
theorem sets_qwait (h : v.toNat % 65536 ≤ 1000) :
    Sets (.registerWrite (queueReg q 0xC) v) s (queueReg q 0xC) (BitVec.ofNat 32 (v.toNat % 65536)) := by
  refine sets_of_exec ?_
  rw [exec_write_queue v s hq (by omega)]
  exact congrArg _ (if_pos h)

include hq in
theorem exec_qwait_outOfRange (h : 1000 < v.toNat % 65536) : exec (.registerWrite (queueReg q 0xC) v) s = .next s := by
  rw [exec_write_queue v s hq (by omega)]
  exact congrArg _ (if_neg (Nat.not_le.2 h))

end

end Sys2Proof.Machine
end

section
/-!
SUPPORT. The writes of a translation block's registers that have an effect of their own: FQCTL, FQCONS, FREPLAY and FCANCEL (19
R348, R359, R361, R362).
-/

namespace Sys2Proof.Machine

open Sys2Proof.Safety

/-- A record that is pending no longer. -/
def Pending.settled (x : Pending) : Pending := { x with pending := false }

/-- A record has been settled. -/
def settleRec (s : State) (k : Nat) (x : Pending) : State := { s with recs := s.recs.put k x.settled }

section
variable {p : Nat} (v : W32) (s : State) (hp : p < 64)

/-! ### Control registers and the fault queue -/

/-- The size field of a control register after a write: kept while its EN is 1. -/
def keptSize (s : State) (off n : Nat) : Nat := bits (if (s.reg off).getLsbD 0 then s.regN off else n) 12 8

theorem keptSize_eq (off n : Nat) : bits (if bit (s.regN off) 0 then s.regN off else n) 12 8 = keptSize s off n := by
  rw [bit_regN, keptSize]

theorem flushFaults_none (n : Nat) (h : s.bufferedRecs p = []) : s.flushFaults p n = s := by
  cases n with
  | zero => rfl
  | succ n => rw [State.flushFaults, h]; simp

theorem sendWaitingPages_none (h : s.waitingPages = []) : s.sendWaitingPages = s := by
  rw [State.sendWaitingPages, h, List.foldl_nil]

theorem flushed_setReg_quiet (off n : Nat) (hb : s.bufferedRecs p = []) (hw : s.waitingPages = []) :
    ((s.setReg off v).flushFaults p n).sendWaitingPages = s.setReg off v := by
  have hf : (s.setReg off v).flushFaults p n = s.setReg off v := flushFaults_none _ n hb
  rw [hf]
  exact sendWaitingPages_none _ hw

include hp in
theorem exec_fqconsWrite :
    exec (.fqconsWrite p v) s = .next ((s.setReg (transReg p 0x20) v).flushFaults p 1025).sendWaitingPages := if_pos hp

include hp in
theorem sets_fqcons (hb : s.bufferedRecs p = []) (hw : s.waitingPages = []) : Sets (.fqconsWrite p v) s (transReg p 0x20) v :=
  sets_of_exec ((exec_fqconsWrite v s hp).trans (congrArg _ (flushed_setReg_quiet v s _ _ hb hw)))

include hp in
theorem exec_fqctlWrite : exec (.fqctlWrite p v) s = .next
    ((s.setRegN (transReg p 0x18) (keptSize s (transReg p 0x18) v.toNat * 256 + v.toNat % 2)).flushFaults p 1025).sendWaitingPages := by
  rw [← keptSize_eq]
  exact if_pos hp

include hp in
theorem sets_fqctl (hb : s.bufferedRecs p = []) (hw : s.waitingPages = []) : Sets (.fqctlWrite p v) s (transReg p 0x18)
    (BitVec.ofNat 32 (keptSize s (transReg p 0x18) v.toNat * 256 + v.toNat % 2)) :=
  sets_of_exec ((exec_fqctlWrite v s hp).trans (congrArg _ (flushed_setReg_quiet _ s _ _ hb hw)))

include hp in
theorem sets_ptctl : Sets (.registerWrite (transReg p 8) v) s (transReg p 8)
    (BitVec.ofNat 32 (keptSize s (transReg p 8) v.toNat * 256 + v.toNat % 2)) := by
  refine sets_of_exec ?_
  rw [exec_write_trans v s hp (by omega), ← keptSize_eq]
  rfl

include hp in
theorem sets_fqstat : Sets (.registerWrite (transReg p 0x24) v) s (transReg p 0x24) (s.reg (transReg p 0x24) &&& ~~~v) :=
  sets_of_exec (exec_write_trans v s hp (by omega))

include hp in
theorem sets_migstat : Sets (.registerWrite (transReg p 0x54) v) s (transReg p 0x54) (s.reg (transReg p 0x54) &&& ~~~v) :=
  sets_of_exec (exec_write_trans v s hp (by omega))

/-! ### FCANCEL -/

include hp in
theorem exec_fcancelWrite :
    exec (.fcancelWrite p v) s = .next ((s.setReg (transReg p 0x2C) v).cancelRecord (recKey p v.toNat)) := if_pos hp

theorem cancelRecord_settled {key : Nat} (h : (s.recs.get? key).all (fun x => !x.pending || x.fr.auto) = true) :
    s.cancelRecord key = s := by
  rw [State.cancelRecord]
  cases hx : s.recs.get? key with
  | none => rfl
  | some x =>
    have hno : ¬(x.pending && !x.fr.auto) = true := by
      rw [hx, Option.all_some] at h
      cases hpd : x.pending <;> simp_all
    exact if_neg hno

include hp in
theorem sets_fcancel (h : (s.recs.get? (recKey p v.toNat)).all (fun x => !x.pending || x.fr.auto) = true) :
    Sets (.fcancelWrite p v) s (transReg p 0x2C) v :=
  sets_of_exec ((exec_fcancelWrite v s hp).trans (congrArg _ (cancelRecord_settled _ h)))

/-- A record of live threads names the launch of the first. -/
theorem recordFatal_threads {x : Pending} {u : Nat} {ts : List Nat} {d : Bool} {th : Thread}
    (hw : x.who = .threads (u :: ts) d) (hu : s.thread? u = some th) :
    ∃ f, s.recordFatal x = some (th.launch, f) ∧ f.cause = 0x0D ∧ f.tid = some u := by
  simp [State.recordFatal, hw, hu]

/-- The first fatal trap of a launch that is no cruise is recorded, and the launch begins to die (R52). -/
theorem fatalLaunch_first {k : Nat} {l : Launch} (f : Fatal) (hl : s.launch? k = some l) (hc : l.cruise = none)
    (hf : l.fatal = none) :
    ∃ ls : Table Launch, s.fatalLaunch k f = { s with launches := ls } ∧
      ls.get? k = some { l with fatal := some { f with time := s.gtc }, phase := .dying } := by
  refine ⟨_, by rw [State.fatalLaunch, hl, Option.bind_some, hc]; rfl, ?_⟩
  rw [Table.get?_mod_self, show s.launches.get? k = some l from hl, Option.map_some, hf]

theorem cancelRecord_pending {key : Nat} {x : Pending} (hx : s.recs.get? key = some x) (hpend : x.pending = true)
    (hauto : x.fr.auto = false) {k : Nat} {f : Fatal}
    (hf : (settleRec s key x).recordFatal x = some (k, f)) : s.cancelRecord key = (settleRec s key x).fatalLaunch k f := by
  have hf' : State.recordFatal { s with recs := s.recs.put key { x with pending := false } } x = some (k, f) := hf
  rw [State.cancelRecord, hx]
  simp only [hpend, hauto, Bool.not_false, Bool.and_self, if_true, hf']
  rfl

/-- What cancelling a pending record of live threads leaves (R362): the record is settled, and the launch of the first thread
begins to die with cause 0x0D. -/
def Cancelled (s t : State) (key off u k : Nat) (x : Pending) (v : W32) : Prop :=
  t.reg off = v ∧ (∀ o, o ≠ off → t.reg o = s.reg o) ∧
    { t with bar0 := s.bar0, recs := s.recs, launches := s.launches } = s ∧
    t.recs = s.recs.put key x.settled ∧
    ∃ l f, t.launch? k = some l ∧ l.phase = .dying ∧ l.fatal = some f ∧ f.cause = 0x0D ∧ f.tid = some u

include hp in
theorem exec_fcancel_pending {x : Pending} {u : Nat} {ts : List Nat} {d : Bool} {th : Thread}
    (hx : s.recs.get? (recKey p v.toNat) = some x) (hpend : x.pending = true) (hauto : x.fr.auto = false)
    (hw : x.who = .threads (u :: ts) d) (hu : s.thread? u = some th)
    (hl : (s.launch? th.launch).any (fun l => l.cruise.isNone && l.fatal.isNone) = true) :
    ∃ t, exec (.fcancelWrite p v) s = .next t ∧ Cancelled s t (recKey p v.toNat) (transReg p 0x2C) u th.launch x v := by
  obtain ⟨l, hget, hnone⟩ := (Option.any_eq_true _ _).1 hl
  obtain ⟨hc, hfat⟩ : l.cruise = none ∧ l.fatal = none := by simpa using hnone
  let y : State := settleRec (s.setReg (transReg p 0x2C) v) (recKey p v.toNat) x
  obtain ⟨f, hf, hcause, htid⟩ := recordFatal_threads y hw hu
  obtain ⟨ls, hls, hdying⟩ := fatalLaunch_first y f hget hc hfat
  have hcancel := cancelRecord_pending (s.setReg (transReg p 0x2C) v) hx hpend hauto hf
  refine ⟨_, (exec_fcancelWrite v s hp).trans (congrArg _ (hcancel.trans hls)), ?_⟩
  have hreg (o : Nat) := State.reg_setReg s (transReg p 0x2C) o v
  exact ⟨(hreg _).trans (if_pos rfl), fun o ho => (hreg o).trans (if_neg ho), rfl, rfl, _, _, hdying, rfl, rfl, hcause, htid⟩

/-! ### FREPLAY -/

include hp in
theorem exec_freplayWrite : exec (.freplayWrite p v) s = .next ((s.replayable p v.toNat).foldl (fun (s : State) k => s.replayRecord k)
    (s.setReg (transReg p 0x28) v)) := if_pos hp

end

theorem mem_insertBy {α : Type} (key : α → Nat) (x y : α) (l : List α) : y ∈ insertBy key x l ↔ y = x ∨ y ∈ l := by
  induction l with
  | nil => simp [insertBy]
  | cons z l ih =>
    rw [insertBy]
    split
    · simp
    · simp only [List.mem_cons, ih, or_left_comm]

theorem mem_sortBy {α : Type} (key : α → Nat) (l : List α) (y : α) : y ∈ sortBy key l ↔ y ∈ l := by
  have hfold (acc : List α) : y ∈ l.foldl (fun acc x => insertBy key x acc) acc ↔ y ∈ acc ∨ y ∈ l := by
    induction l generalizing acc with
    | nil => simp
    | cons x l ih => rw [List.foldl_cons, ih, mem_insertBy, List.mem_cons, or_left_comm, or_assoc]
  rw [sortBy, hfold]
  simp

namespace Table
variable {α : Type}

/-- Where every number is listed once, the entries are the listed pairs. -/
theorem mem_iff_get? {t : Table α} (h : t.keys.Nodup) (k : Nat) (x : α) : (k, x) ∈ t ↔ t.get? k = some x := by
  induction t with
  | nil => simp
  | cons a t ih =>
    obtain ⟨j, y⟩ := a
    obtain ⟨hj, ht⟩ := List.nodup_cons.1 h
    rw [get?, List.mem_cons, Prod.mk.injEq]
    by_cases hjk : j = k
    · subst hjk
      have hno : (j, x) ∉ t := fun hm => hj (List.mem_map.2 ⟨_, hm, rfl⟩)
      simp [hno, eq_comm]
    · simp [hjk, Ne.symm hjk, ih ht]

/-- Entries changed one by one, each change being one that a second would not add to. -/
theorem get?_foldl_mod (f : α → α) (hf : ∀ x, f (f x) = f x) (l : List Nat) (t : Table α) (k : Nat) :
    (l.foldl (fun t j => t.mod j f) t).get? k = if k ∈ l then (t.get? k).map f else t.get? k := by
  induction l generalizing t with
  | nil => simp
  | cons j l ih =>
    simp only [List.foldl_cons, ih, get?_mod, List.mem_cons]
    by_cases hkj : k = j <;> by_cases hkl : k ∈ l <;> simp [hkj, hkl, Function.comp_def, hf]

end Table

/-- A record that FREPLAY replays: pending for the driver, at or below the SEQ written and below FQPROD (R362). -/
def covered (s : State) (p n : Nat) (x : Pending) : Bool :=
  x.part == p && x.pending && !x.fr.auto && decide ((n + 2 ^ 32 - x.fr.seq) % 2 ^ 32 < 2 ^ 31) &&
    decide ((s.regN (transReg p 0x1C) + 2 ^ 32 - 1 - x.fr.seq % 2 ^ 32) % 2 ^ 32 < 2 ^ 31)

theorem mem_replayable {s : State} (h : s.recs.keys.Nodup) (p n k : Nat) :
    k ∈ s.replayable p n ↔ ∃ x, s.recs.get? k = some x ∧ covered s p n x = true := by
  simp only [State.replayable, List.mem_map, mem_sortBy, Table.filter, List.mem_filter]
  constructor
  · rintro ⟨⟨j, x⟩, ⟨hm, hc⟩, rfl⟩
    exact ⟨x, (Table.mem_iff_get? h _ _).1 hm, hc⟩
  · rintro ⟨x, hx, hc⟩
    exact ⟨(k, x), ⟨(Table.mem_iff_get? h _ _).2 hx, hc⟩, rfl⟩

/-- A replay touches the records and what waits on them: threads and their workgroups' watchdogs, flume commands, texture requests
and tasks. -/
def ReplayFrame (s t : State) : Prop :=
  ∃ rs ts ls cs xs ks, t = { s with recs := rs, threads := ts, launches := ls, clusters := cs, texReqs := xs, tasks := ks }

namespace ReplayFrame
variable {s t u : State}

theorem refl (s : State) : ReplayFrame s s := ⟨_, _, _, _, _, _, rfl⟩

theorem trans (h : ReplayFrame s t) (h' : ReplayFrame t u) : ReplayFrame s u := by
  obtain ⟨_, _, _, _, _, _, rfl⟩ := h
  obtain ⟨_, _, _, _, _, _, rfl⟩ := h'
  exact ⟨_, _, _, _, _, _, rfl⟩

theorem syncWatch (s : State) (l w : Nat) (b : Bool) : ReplayFrame s (s.syncWatch l w b) := by
  unfold State.syncWatch
  split
  · exact refl s
  · exact ⟨_, _, _, _, _, _, rfl⟩

theorem watchWho (s : State) (who : Origin) : ReplayFrame s (s.watchWho who) := by
  unfold State.watchWho
  split
  · exact syncWatch ..
  · exact refl s

theorem setStatus (s : State) (t : Nat) (st : Status) : ReplayFrame s (s.setStatus t st) := by
  unfold State.setStatus
  split
  · exact refl s
  · exact trans ⟨_, _, _, _, _, _, rfl⟩ (syncWatch ..)

theorem modCmd (s : State) (id : Nat) (f : FlumeCmd → FlumeCmd) : ReplayFrame s (s.modCmd id f) := by
  unfold State.modCmd
  split
  · exact ⟨_, _, _, _, _, _, rfl⟩
  · exact refl s

end ReplayFrame

/-- A thread parked on a record goes on. -/
def wakeThread (key : Nat) (s : State) (t : Nat) : State :=
  if (s.thread? t).any fun th => th.status == .parked key then s.setStatus t .ready else s

/-- What waits on a record that has been settled goes on (R361). -/
def wakeWaiters (s : State) (key : Nat) : Origin → State
  | .threads ts _ => ts.foldl (wakeThread key) s
  | .flume c => s.modCmd c fun x => { x with
      heldBeats := x.heldBeats.filter fun b => b.2 != key
      again := x.again ++ (x.heldBeats.filter fun b => b.2 == key).map (·.1) }
  | .texture q => { s with texReqs := s.texReqs.mod q fun x => { x with fault := if x.fault = some key then none else x.fault } }
  | .task k => { s with tasks := s.tasks.mod k fun x => if x.phase == .faulted then { x with phase := .waiting } else x }
  | _ => s

theorem replayRecord_some {s : State} {k : Nat} {x : Pending} (h : s.recs.get? k = some x) : s.replayRecord k =
    wakeWaiters ((settleRec s k x).watchWho x.who) k x.who := by
  rw [State.replayRecord, h]
  rfl

theorem replayRecord_none {s : State} {k : Nat} (h : s.recs.get? k = none) : s.replayRecord k = s := by
  rw [State.replayRecord, h]

theorem ReplayFrame.wakeWaiters (s : State) (key : Nat) (who : Origin) : ReplayFrame s (wakeWaiters s key who) := by
  cases who with
  | threads ts d =>
    refine foldl_keeps (ReplayFrame s) _ ts s (.refl s) fun a t ha => ha.trans ?_
    exact ite_keeps (ReplayFrame a) (.setStatus ..) (.refl a)
  | flume c => exact .modCmd ..
  | texture q => exact ⟨_, _, _, _, _, _, rfl⟩
  | task k => exact ⟨_, _, _, _, _, _, rfl⟩
  | drive | migration | none => exact .refl s

theorem ReplayFrame.replayRecord (s : State) (k : Nat) : ReplayFrame s (s.replayRecord k) := by
  cases h : s.recs.get? k with
  | none => rw [replayRecord_none h]; exact .refl s
  | some x =>
    rw [replayRecord_some h]
    exact (ReplayFrame.trans ⟨_, _, _, _, _, _, rfl⟩ (.watchWho _ x.who)).trans (.wakeWaiters ..)

/-! The records -/

theorem syncWatch_recs (s : State) (l w : Nat) (b : Bool) : (s.syncWatch l w b).recs = s.recs := by
  unfold State.syncWatch
  split <;> rfl

theorem watchWho_recs (s : State) (who : Origin) : (s.watchWho who).recs = s.recs := by
  unfold State.watchWho
  split
  · exact syncWatch_recs ..
  · rfl

theorem setStatus_recs (s : State) (t : Nat) (st : Status) : (s.setStatus t st).recs = s.recs := by
  unfold State.setStatus
  split
  · rfl
  · exact syncWatch_recs ..

theorem modCmd_recs (s : State) (id : Nat) (f : FlumeCmd → FlumeCmd) : (s.modCmd id f).recs = s.recs := by
  unfold State.modCmd
  split <;> rfl

theorem wakeWaiters_recs (s : State) (key : Nat) (who : Origin) : (wakeWaiters s key who).recs = s.recs := by
  cases who with
  | threads ts d =>
    refine foldl_keeps (fun a => a.recs = s.recs) _ ts s rfl fun a t ha => ?_
    exact ite_keeps (fun b : State => b.recs = s.recs) ((setStatus_recs ..).trans ha) ha
  | flume c => exact modCmd_recs ..
  | texture | task | drive | migration | none => rfl

theorem replayRecord_recs (s : State) (k : Nat) : (s.replayRecord k).recs = s.recs.mod k Pending.settled := by
  cases h : s.recs.get? k with
  | none => rw [replayRecord_none h, Table.mod, h]
  | some x => rw [replayRecord_some h, wakeWaiters_recs, watchWho_recs, Table.mod, h]; rfl

theorem get?_recs_replayed (s : State) (l : List Nat) (k : Nat) :
    (l.foldl State.replayRecord s).recs.get? k = if k ∈ l then (s.recs.get? k).map Pending.settled else s.recs.get? k := by
  rw [← Table.get?_foldl_mod Pending.settled (fun _ => rfl)]
  exact congrArg (Table.get? · k) (List.foldl_hom State.recs fun s k => (replayRecord_recs s k).symm).symm

/-! The threads -/

/-- A thread's status. -/
def statusOf (s : State) (u : Nat) : Option Status := (s.thread? u).map Thread.status

theorem syncWatch_threads (s : State) (l w : Nat) (b : Bool) : (s.syncWatch l w b).threads = s.threads := by
  unfold State.syncWatch
  split <;> rfl

theorem watchWho_threads (s : State) (who : Origin) : (s.watchWho who).threads = s.threads := by
  unfold State.watchWho
  split
  · exact syncWatch_threads ..
  · rfl

theorem statusOf_setStatus (s : State) (t : Nat) (st : Status) (u : Nat) :
    statusOf (s.setStatus t st) u = if u = t then (statusOf s u).map fun _ => st else statusOf s u := by
  cases ht : s.thread? t with
  | none =>
    rw [State.setStatus, ht]
    by_cases hu : u = t <;> simp [statusOf, hu, ht]
  | some th =>
    rw [State.setStatus, ht]
    simp only [statusOf, State.thread?, syncWatch_threads, State.setThread, Table.get?_put]
    by_cases hu : u = t
    · subst hu
      simp only [if_true, Option.map_some, show s.threads.get? u = some th from ht]
    · simp only [hu, if_false]

/-- One thread's turn: a thread parked on the record is ready where it is the one, and no other changes its status. -/
theorem statusOf_wakeThread (s : State) (key t u : Nat) :
    statusOf (wakeThread key s t) u = if u = t ∧ statusOf s u = some (.parked key) then some .ready else statusOf s u := by
  have hpark : ((s.thread? t).any fun th => th.status == .parked key) = true ↔ statusOf s t = some (.parked key) := by
    cases h : s.thread? t <;> simp [statusOf, h]
  by_cases ht : statusOf s t = some (.parked key)
  · rw [wakeThread, if_pos (hpark.2 ht), statusOf_setStatus]
    by_cases hu : u = t
    · subst hu; simp [ht]
    · simp [hu]
  · rw [wakeThread, if_neg (mt hpark.1 ht), if_neg]
    rintro ⟨rfl, h⟩
    exact ht h

theorem statusOf_wakeThreads (s : State) (key u : Nat) (ts : List Nat) : statusOf (ts.foldl (wakeThread key) s) u =
    if u ∈ ts ∧ statusOf s u = some (.parked key) then some .ready else statusOf s u := by
  induction ts generalizing s with
  | nil => simp
  | cons t ts ih =>
    rw [List.foldl_cons, ih, statusOf_wakeThread]
    by_cases hu : u = t
    · subst hu
      by_cases hk : statusOf s u = some (.parked key) <;> simp [hk]
    · simp [hu]

theorem modCmd_threads (s : State) (id : Nat) (f : FlumeCmd → FlumeCmd) : (s.modCmd id f).threads = s.threads := by
  unfold State.modCmd
  split <;> rfl

/-- A replay wakes nothing but threads parked on its record. -/
theorem statusOf_replayRecord (s : State) (k u : Nat) (h : statusOf s u ≠ some (.parked k)) :
    statusOf (s.replayRecord k) u = statusOf s u := by
  cases hx : s.recs.get? k with
  | none => rw [replayRecord_none hx]
  | some x =>
    have hw : statusOf ((settleRec s k x).watchWho x.who) u = statusOf s u := by
      rw [statusOf, State.thread?, watchWho_threads]; rfl
    rw [replayRecord_some hx, ← hw]
    generalize (settleRec s k x).watchWho x.who = y at hw
    cases x.who with
    | threads ts d => exact (statusOf_wakeThreads ..).trans (if_neg fun hk => h (hw ▸ hk.2))
    | flume c => exact congrArg (fun t : Table Thread => (t.get? u).map Thread.status) (modCmd_threads ..)
    | texture | task | drive | migration | none => rfl

/-- A replay wakes the threads its record names that are parked on it. -/
theorem statusOf_replayRecord_parked (s : State) {k u : Nat} {x : Pending} {ts : List Nat} {d : Bool}
    (hx : s.recs.get? k = some x) (hw : x.who = .threads ts d) (hu : u ∈ ts) (h : statusOf s u = some (.parked k)) :
    statusOf (s.replayRecord k) u = some .ready := by
  have hs : statusOf ((settleRec s k x).watchWho x.who) u = some (.parked k) := by
    rw [statusOf, State.thread?, watchWho_threads]; exact h
  rw [hw] at hs
  rw [replayRecord_some hx, hw]
  exact (statusOf_wakeThreads ..).trans (if_pos ⟨hu, hs⟩)

theorem statusOf_ready_replayed (s : State) (u : Nat) (l : List Nat) (h : statusOf s u = some .ready) :
    statusOf (l.foldl State.replayRecord s) u = some .ready :=
  foldl_keeps (fun a => statusOf a u = some .ready) _ l s h fun a k ha =>
    (statusOf_replayRecord a k u (by rw [ha]; simp)).trans ha

/-- Records replayed one after another: a thread that one of them names and that is parked on it is ready in the end. -/
theorem statusOf_replayed (s : State) {k u : Nat} {x : Pending} {ts : List Nat} {d : Bool} (l : List Nat) (hk : k ∈ l)
    (hx : s.recs.get? k = some x) (hw : x.who = .threads ts d) (hu : u ∈ ts) (h : statusOf s u = some (.parked k)) :
    statusOf (l.foldl State.replayRecord s) u = some .ready := by
  induction l generalizing s x with
  | nil => exact absurd hk (List.not_mem_nil)
  | cons j l ih =>
    rw [List.foldl_cons]
    by_cases hj : j = k
    · subst hj
      exact statusOf_ready_replayed _ u l (statusOf_replayRecord_parked s hx hw hu h)
    · have hget : (s.replayRecord j).recs.get? k = some x := by
        rw [replayRecord_recs, Table.get?_mod_of_ne _ _ (Ne.symm hj), hx]
      have hst : statusOf (s.replayRecord j) u = some (.parked k) :=
        (statusOf_replayRecord s j u (by rw [h]; simpa using Ne.symm hj)).trans h
      exact ih _ ((List.mem_cons.1 hk).resolve_left (Ne.symm hj)) hget hw hst

/-- What a write of FREPLAY leaves (R362): the records it covers are settled, and the threads parked on them are ready. -/
def Replayed (s t : State) (p : Nat) (v : W32) : Prop :=
  t.reg (transReg p 0x28) = v ∧ (∀ o, o ≠ transReg p 0x28 → t.reg o = s.reg o) ∧
    { t with bar0 := s.bar0, recs := s.recs, threads := s.threads, launches := s.launches, clusters := s.clusters
             texReqs := s.texReqs, tasks := s.tasks } = s ∧
    (∀ k, t.recs.get? k = (s.recs.get? k).map fun x => if covered s p v.toNat x then x.settled else x) ∧
    ∀ k x ts d u th, s.recs.get? k = some x → covered s p v.toNat x = true → x.who = .threads ts d → u ∈ ts →
      s.thread? u = some th → th.status = .parked k → (t.thread? u).map Thread.status = some .ready

theorem exec_freplay_replayed {p : Nat} (hp : p < 64) (v : W32) (s : State) (h : s.recs.keys.Nodup) :
    ∃ t, exec (.freplayWrite p v) s = .next t ∧ Replayed s t p v := by
  have hmem := mem_replayable h p v.toNat
  refine ⟨_, exec_freplayWrite v s hp, ?_⟩
  have hframe := foldl_keeps (ReplayFrame (s.setReg (transReg p 0x28) v)) _ (s.replayable p v.toNat) _ (.refl _)
    fun a k ha => ha.trans (.replayRecord a k)
  have hrecs := get?_recs_replayed (s.setReg (transReg p 0x28) v) (s.replayable p v.toNat)
  have hstat := fun k x ts d u => @statusOf_replayed (s.setReg (transReg p 0x28) v) k u x ts d (s.replayable p v.toNat)
  obtain ⟨_, _, _, _, _, _, hz⟩ := hframe
  have hreg (o : Nat) := State.reg_setReg s (transReg p 0x28) o v
  refine ⟨?_, fun o ho => ?_, ?_, fun k => ?_, fun k x ts d u th hx hc hw hu hth hst => ?_⟩
  · rw [hz]; exact (hreg _).trans (if_pos rfl)
  · rw [hz]; exact (hreg o).trans (if_neg ho)
  · rw [hz]; rfl
  · refine (hrecs k).trans ?_
    cases hx : s.recs.get? k with
    | none => simp [hx]
    | some x => by_cases hc : covered s p v.toNat x = true <;> simp [hmem, hx, hc]
  · exact hstat k x ts d u ((hmem k).2 ⟨x, hx, hc⟩) hx hw hu (by rw [statusOf, ← hst]; exact congrArg _ hth)

end Sys2Proof.Machine
end

section
/-!
SUPPORT. The writes of the registers of partitions, ports, stands, the balancers and the module that have an effect of their own (19
R364; 20 R369-R372, R377, R378; 22 R393, R399).
-/

namespace Sys2Proof.Machine

open Sys2Proof.Safety

/-! ### A partition's control block -/

section
variable {p : Nat} (v : W32) (s : State) (hp : p < 64)

include hp in
theorem exec_pctlWrite : exec (.pctlWrite p v) s = .next (s.writePctl p v) := if_pos hp

include hp in
theorem sets_pctl_on (hv : v.getLsbD 0 = true) (hoff : s.partEnabled p = false) (hk : s.keysOk p = true) :
    Sets (.pctlWrite p v) s (partReg p 0) 1 := by
  refine sets_of_exec ((exec_pctlWrite v s hp).trans ?_)
  simp only [State.writePctl, hv, hoff, hk, Bool.not_false, Bool.and_self, if_true]

include hp in
theorem sets_pctl_off (hv : v.getLsbD 0 = false) (hon : s.partEnabled p = true) (hb : s.partBusy p = false) :
    Sets (.pctlWrite p v) s (partReg p 0) 0 := by
  refine sets_of_exec ((exec_pctlWrite v s hp).trans ?_)
  simp only [State.writePctl, hv, hon, hb, Bool.not_false, Bool.not_true, Bool.and_self, Bool.false_eq_true, if_true, if_false]

include hp in
theorem exec_pctl_ignored (h : v.getLsbD 0 = s.partEnabled p ∨ (v.getLsbD 0 = true ∧ s.keysOk p = false) ∨
    (v.getLsbD 0 = false ∧ s.partBusy p = true)) : exec (.pctlWrite p v) s = .next s := by
  rw [exec_pctlWrite v s hp, State.writePctl]
  obtain h | ⟨hv, hk⟩ | ⟨hv, hb⟩ := h
  · simp only [h]; cases s.partEnabled p <;> rfl
  · simp only [hv, hk]; cases s.partEnabled p <;> rfl
  · simp only [hv, hb]; cases s.partEnabled p <;> rfl

theorem flushEvents_none (n : Nat) (h : ∀ d ∈ s.dies, ∀ e ∈ d.2.eventBuf, e.1 ≠ p) : s.flushEvents p n = s := by
  have hnone : (s.dies.flatMap fun d => (d.2.eventBuf.filter fun e => e.1 == p).map fun e => (d.1, e)) = [] := by
    refine List.flatMap_eq_nil_iff.2 fun d hd => List.map_eq_nil_iff.2 (List.filter_eq_nil_iff.2 fun e he => ?_)
    simpa using h d hd e he
  cases n with
  | zero => rfl
  | succ n => simp [State.flushEvents, hnone, sortBy]

include hp in
theorem exec_evconsWrite : exec (.evconsWrite p v) s = .next ((s.setReg (partReg p 0x38) v).flushEvents p 257) := if_pos hp

include hp in
theorem sets_evcons (h : ∀ d ∈ s.dies, ∀ e ∈ d.2.eventBuf, e.1 ≠ p) : Sets (.evconsWrite p v) s (partReg p 0x38) v :=
  sets_of_exec ((exec_evconsWrite v s hp).trans (congrArg _ (flushEvents_none (s.setReg (partReg p 0x38) v) 257 h)))

include hp in
theorem exec_write_evctl : exec (.registerWrite (partReg p 0x30) v) s = .next
    ((s.setRegN (partReg p 0x30) (keptSize s (partReg p 0x30) v.toNat * 256 + v.toNat % 2)).flushEvents p 257) := by
  rw [exec_write_part v s hp (by omega), ← keptSize_eq]
  rfl

include hp in
theorem sets_evctl (h : ∀ d ∈ s.dies, ∀ e ∈ d.2.eventBuf, e.1 ≠ p) : Sets (.registerWrite (partReg p 0x30) v) s (partReg p 0x30)
    (BitVec.ofNat 32 (keptSize s (partReg p 0x30) v.toNat * 256 + v.toNat % 2)) :=
  sets_of_exec ((exec_write_evctl v s hp).trans (congrArg _ (flushEvents_none (s.setRegN (partReg p 0x30) _) 257 h)))

include hp in
theorem sets_domctl : Sets (.registerWrite (partReg p 0x44) v) s (partReg p 0x44)
    (BitVec.ofNat 32 (bits (if s.partEnabled p then s.regN (partReg p 0x44) else v.toNat) 6 1 * 2 + v.toNat % 2)) :=
  sets_of_exec (exec_write_part v s hp (by omega))

theorem writeKeycmd_eq : s.writeKeycmd p v = if (s.reg (partReg p 0x50)).getLsbD 31 then s
    else s.setReg (partReg p 0x50) ((v &&& 0x3FFF) ||| 0x80000000) := by
  rw [← bit_regN]; rfl

include hp in
theorem exec_write_keycmd_running (h : (s.reg (partReg p 0x50)).getLsbD 31 = true) :
    exec (.registerWrite (partReg p 0x50) v) s = .next s :=
  (exec_write_part v s hp (by omega)).trans (congrArg _ ((writeKeycmd_eq v s).trans (if_pos h)))

include hp in
theorem sets_keycmd (h : (s.reg (partReg p 0x50)).getLsbD 31 = false) :
    Sets (.registerWrite (partReg p 0x50) v) s (partReg p 0x50) ((v &&& 0x3FFF) ||| 0x80000000) :=
  sets_of_exec ((exec_write_part v s hp (by omega)).trans
    (congrArg _ ((writeKeycmd_eq v s).trans (if_neg (Bool.eq_false_iff.1 h)))))

include hp in
theorem sets_ctrsel {m : Nat} (hm : m < 16) : Sets (.ctrselWrite p m v) s (partReg p (0x60 + 4 * m)) (v &&& 0xFFFF) :=
  sets_of_exec (if_pos ⟨hp, hm⟩)

end

/-! ### CXL ports, stands and balancers -/

section
variable (v : W32) (s : State)

theorem sets_cxlto {p : Nat} (hp : p < 2) : Sets (.registerWrite (cxlReg p 0) v) s (cxlReg p 0) (BitVec.ofNat 32
    (bits v.toNat 16 16 * 65536 + if v.toNat % 1024 = 0 then s.regN (cxlReg p 0) % 1024 else v.toNat % 1024)) :=
  sets_of_exec (exec_write_cxl v s hp (by omega))

theorem sets_cxlstat {p : Nat} (hp : p < 2) : Sets (.cxlstatWrite p v) s (cxlReg p 4) (s.reg (cxlReg p 4) &&& ~~~v) :=
  sets_of_exec (if_pos hp)

theorem sets_write_cxlstat {p : Nat} (hp : p < 2) :
    Sets (.registerWrite (cxlReg p 4) v) s (cxlReg p 4) (s.reg (cxlReg p 4) &&& ~~~v) :=
  sets_of_exec (exec_write_cxl v s hp (by omega))

theorem exec_standownWrite {n : Nat} (hn : n < 2048) : exec (.standownWrite n v) s = .next (s.writeStandown n v) := if_pos hn

theorem loseNamed_none (n : Nat) (h : ∀ l ∈ s.launches, l.2.phase ≠ .pending) : s.loseNamed n = s := by
  refine foldl_same _ s _ fun e he => ?_
  have hph : (e.2.phase == .pending) = false := beq_eq_false_iff_ne.2 (h e he)
  simp only [hph, Bool.false_and, Bool.not_false, if_true]

/-- An engine with its trace ring cleared. -/
def Engine.cleared (e : Engine) : Engine := { e with ring := [], written := 0 }

theorem foldl_modEngine (f : Engine → Engine) (hf : ∀ e, f (f e) = f e) (l : List Nat) (s : State) :
    ∃ es : Table Engine, l.foldl (fun (s : State) k => s.modEngine k f) s = { s with engines := es } ∧
      ∀ e, es.getD e {} = if e ∈ l then f (s.engine e) else s.engine e := by
  induction l generalizing s with
  | nil => exact ⟨_, rfl, fun e => by simp [State.engine]⟩
  | cons k l ih =>
    obtain ⟨es, hes, hget⟩ := ih (s.modEngine k f)
    refine ⟨es, hes, fun e => ?_⟩
    rw [hget, State.engine_modEngine]
    by_cases hk : e = k
    · subst hk; by_cases hl : e ∈ l <;> simp [hl, hf]
    · simp [hk]

theorem engine_of_not_mem {e : Nat} (h : e ∉ s.engines.keys) : s.engine e = {} := by
  have hnone : s.engines.get? e = none := by
    generalize s.engines = t at h
    induction t with
    | nil => rfl
    | cons a t ih =>
      obtain ⟨hne, ht⟩ := not_or.1 (mt List.mem_cons.2 h)
      rw [Table.get?, if_neg (Ne.symm hne), ih ht]
  rw [State.engine, Table.getD_def, hnone, Option.getD_none]

theorem clearRings_eq (n : Nat) :
    ∃ es : Table Engine, s.clearRings n = { s with engines := es } ∧
      ∀ e, es.getD e {} = if isSkidKey e = false ∧ engineStand e = n then (s.engine e).cleared else s.engine e := by
  obtain ⟨es, hes, hget⟩ := foldl_modEngine Engine.cleared (fun _ => rfl)
    (s.engines.keys.filter fun k => !isSkidKey k && engineStand k == n) s
  refine ⟨es, hes, fun e => (hget e).trans ?_⟩
  by_cases hm : e ∈ s.engines.keys
  · simp [List.mem_filter, hm]
  · have hempty := engine_of_not_mem s hm
    simp [List.mem_filter, hm, hempty, Engine.cleared]

/-- What a STANDOWN write leaves on a drained stand (R335, R370, R394): the trace rings of a stand that has changed its owner are
clear. -/
def OwnerTaken (s t : State) (n : Nat) (v : W32) : Prop :=
  t.reg (standownReg n) = v &&& 0xBF ∧ (∀ o, o ≠ standownReg n → t.reg o = s.reg o) ∧
    t.stand n = { s.stand n with pendingOwn := none } ∧ (∀ m, m ≠ n → t.stand m = s.stand m) ∧
    (∀ e, t.engine e = if t.standOwner n ≠ s.standOwner n ∧ isSkidKey e = false ∧ engineStand e = n then
      (s.engine e).cleared else s.engine e) ∧
    { t with bar0 := s.bar0, stands := s.stands, engines := s.engines } = s

theorem ownerTaken_takeOwner (n : Nat) (h : ∀ l ∈ s.launches, l.2.phase ≠ .pending) : OwnerTaken s (s.takeOwner n v) n v := by
  let y : State := (s.modStand n fun x => { x with pendingOwn := none }).setReg (standownReg n) (v &&& 0xBF)
  have hreg (o : Nat) : y.reg o = if o = standownReg n then v &&& 0xBF else s.reg o := State.reg_setReg ..
  have hstand (m : Nat) : y.stand m = if m = n then { s.stand n with pendingOwn := none } else s.stand m :=
    State.stand_modStand s n m fun x => { x with pendingOwn := none }
  obtain ⟨es, hes, hget⟩ := clearRings_eq y n
  by_cases hown : y.standOwner n = s.standOwner n
  · have ht : s.takeOwner n v = y := (congrArg (State.loseNamed · n) (if_pos hown)).trans (loseNamed_none y n h)
    rw [ht]
    refine ⟨(hreg _).trans (if_pos rfl), fun o ho => (hreg o).trans (if_neg ho), (hstand n).trans (if_pos rfl),
      fun m hm => (hstand m).trans (if_neg hm), fun e => ?_, rfl⟩
    rw [if_neg (fun hc => hc.1 hown)]
    rfl
  · have ht : s.takeOwner n v = { y with engines := es } :=
      (congrArg (State.loseNamed · n) ((if_neg hown).trans hes)).trans (loseNamed_none { y with engines := es } n h)
    rw [ht]
    refine ⟨(hreg _).trans (if_pos rfl), fun o ho => (hreg o).trans (if_neg ho), (hstand n).trans (if_pos rfl),
      fun m hm => (hstand m).trans (if_neg hm), fun e => (hget e).trans ?_, rfl⟩
    have hne : State.standOwner { y with engines := es } n ≠ s.standOwner n := hown
    simp only [hne, ne_eq, not_false_eq_true, true_and]
    rfl

theorem exec_standown_drained {n : Nat} (hn : n < 2048) (hd : s.drained n = true) (hm : s.standMoves n = false)
    (h : ∀ l ∈ s.launches, l.2.phase ≠ .pending) :
    ∃ t, exec (.standownWrite n v) s = .next t ∧ OwnerTaken s t n v := by
  refine ⟨_, (exec_standownWrite v s hn).trans (congrArg _ ?_), ownerTaken_takeOwner v s n h⟩
  simp only [State.writeStandown, hd, hm, Bool.not_false, Bool.and_self, if_true]

theorem exec_standown_held {n : Nat} (hn : n < 2048) (h : s.drained n = false ∨ s.standMoves n = true) :
    ∃ t, exec (.standownWrite n v) s = .next t ∧
      SetTo ({ s with nextId := s.nextId + 1 }.modStand n fun x =>
        { x with pendingOwn := some (v &&& 0xBF, x.pendingOwn.elim s.nextId (·.2)) }) t (standownReg n)
        (s.reg (standownReg n) ||| 0x100) := by
  refine ⟨_, (exec_standownWrite v s hn).trans (congrArg _ ?_), setTo_setReg _ _ _⟩
  have hno : (s.drained n && !s.standMoves n) = false := by
    obtain h | h := h <;> simp only [h, Bool.false_and, Bool.not_true, Bool.and_false]
  exact if_neg (Bool.eq_false_iff.1 hno)

theorem exec_balctlWrite {d : Nat} (hd : d < 4) : exec (.balctlWrite d v) s = .next (s.writeBalctl d v) := if_pos hd

/-- BALCTL's fields as a write must not give them (R372, log 86). -/
def BadBalance (n : Nat) : Prop := bits n 29 20 < bits n 19 10 ∨ 512 < bits n 29 20 ∨ 512 < bits n 9 0

theorem exec_balctl_bad {d : Nat} (hd : d < 4) (h : BadBalance v.toNat) : exec (.balctlWrite d v) s = .next s :=
  (exec_balctlWrite v s hd).trans (congrArg _ (if_pos h))

theorem sets_balctl {d : Nat} (hd : d < 4) (h : ¬BadBalance v.toNat) :
    Sets (.balctlWrite d v) s (balReg d 4) (v &&& 0x7FFFFFFF) := by
  have hlow : BitVec.ofNat 32 (v.toNat % 2 ^ 31) = v &&& 0x7FFFFFFF := ofNat_keepLow v 31
  refine sets_of_exec ((exec_balctlWrite v s hd).trans (congrArg _ ((if_neg h).trans ?_)))
  rw [← hlow]
  rfl

/-! ### The module's registers -/

theorem exec_provision_recovery (h : s.bootState = 8 ∧ v = 1) : ∃ t, exec (.provisionWrite v) s = .next t ∧
    SetTo { s with pkg := { s.pkg with image := s.pkg.staging } } t State.bootReg 0 :=
  ⟨_, congrArg Host.Outcome.next (if_pos h), setTo_setReg _ _ _⟩

theorem exec_provision_ignored (h : ¬(s.bootState = 8 ∧ v = 1)) : exec (.provisionWrite v) s = .next s :=
  congrArg Host.Outcome.next (if_neg h)

theorem flushLog_none (n : Nat) (h : s.pkg.pfBuf = []) : s.flushLog n = s := by
  cases n with
  | zero => rfl
  | succ n => rw [State.flushLog, h]; simp

theorem exec_write_logControl : exec (.registerWrite (pfReg 8) v) s =
    .next ((s.setReg (pfReg 8) (v &&& 0x1F01)).flushLog (s.pkg.pfBuf.length + 1)) :=
  exec_write_lone v s (by decide) (by decide)

theorem sets_pflogcons (h : s.pkg.pfBuf = []) : Sets (.pflogconsWrite v) s (pfReg 0x10) v :=
  sets_of_exec (congrArg Host.Outcome.next (flushLog_none (s.setReg (pfReg 0x10) v) _ h))

theorem sets_logControl (h : s.pkg.pfBuf = []) : Sets (.registerWrite (pfReg 8) v) s (pfReg 8) (v &&& 0x1F01) :=
  sets_of_exec ((exec_write_logControl v s).trans (congrArg _ (flushLog_none (s.setReg (pfReg 8) (v &&& 0x1F01)) _ h)))

/-- The mode written is in force already, and no clock relocks (R399). -/
def Settled (s : State) (v : W32) : Prop :=
  v.toNat % 4 = s.regN (powerReg 4) % 4 ∧ s.pkg.relocking = false ∧ ∀ e ∈ s.pkg.oldMode, (s.engine e).run.isSome

theorem relocks_eq_false : s.relocks = false ↔ s.pkg.relocking = false ∧ ∀ e ∈ s.pkg.oldMode, (s.engine e).run.isSome := by
  simp [State.relocks, Option.isSome_iff_ne_none]

theorem settled_iff : Settled s v ↔ (s.setMasked (powerReg 0) 3 v).regN (powerReg 0) =
    (s.setMasked (powerReg 0) 3 v).regN (powerReg 4) % 4 ∧ (!(s.setMasked (powerReg 0) 3 v).relocks) = true := by
  have hmode : (s.setMasked (powerReg 0) 3 v).regN (powerReg 0) = v.toNat % 4 := by
    have hlow : BitVec.ofNat 32 (v.toNat % 2 ^ 2) = v &&& BitVec.ofNat 32 3 := ofNat_keepLow v 2
    rw [State.regN, State.setMasked, State.reg_setReg, if_pos rfl, ← hlow, BitVec.toNat_ofNat]
    omega
  have hstat : (s.setMasked (powerReg 0) 3 v).regN (powerReg 4) = s.regN (powerReg 4) :=
    congrArg BitVec.toNat ((State.reg_setReg ..).trans (if_neg (by decide)))
  have hrel : (s.setMasked (powerReg 0) 3 v).relocks = s.relocks := rfl
  rw [hmode, hstat, hrel, Bool.not_eq_true', relocks_eq_false, Settled]

theorem sets_pwrmode (h : Settled s v) : Sets (.pwrmodeWrite v) s (powerReg 0) (v &&& 3) :=
  sets_of_exec (congrArg Host.Outcome.next (if_pos ((settled_iff v s).1 h)))

theorem exec_pwrmode_relocks (h : ¬Settled s v) : ∃ t, exec (.pwrmodeWrite v) s = .next t ∧ t.reg (powerReg 0) = v &&& 3 ∧
    t.reg (powerReg 4) = s.reg (powerReg 4) ||| 4 ∧ (∀ o, o ≠ powerReg 0 → o ≠ powerReg 4 → t.reg o = s.reg o) ∧
    { t with bar0 := s.bar0 } = { s with pkg := { s.pkg with
      relocking := true, oldMode := (s.engines.filter fun _ e => e.run.isSome).keys } } := by
  refine ⟨_, congrArg Host.Outcome.next (if_neg (mt (settled_iff v s).2 h)), ?_, ?_, fun o h0 h4 => ?_, rfl⟩
  · exact (State.reg_setReg ..).trans ((if_neg (by decide)).trans ((State.reg_setReg ..).trans (if_pos rfl)))
  · refine (State.reg_setReg ..).trans ((if_pos rfl).trans (congrArg (· ||| 4) ?_))
    exact (State.reg_setReg ..).trans (if_neg (by decide))
  · exact (State.reg_setReg ..).trans ((if_neg h4).trans ((State.reg_setReg ..).trans (if_neg h0)))

end

end Sys2Proof.Machine
end

section
/-!
SUPPORT. PKGLOST (20 R375): completing accesses as lost and discarding messages writes counters and queues of many partitions, but
no register whose offset ends in 0x48, as PKGLOST's does, and no partition's set of lost packages.
-/

namespace Sys2Proof.Machine

open Sys2Proof.Safety

/-- The registers whose offset ends in 0x48, PKGLOST's among them, and the partitions' lost packages are kept. -/
def KeepsLost (s t : State) : Prop :=
  (∀ o, o % 0x100 = 0x48 → t.reg o = s.reg o) ∧ ∀ p, (t.partition p).lost = (s.partition p).lost

namespace KeepsLost
variable {s t u : State}

theorem of_eq (hb : t.bar0 = s.bar0) (hp : t.parts = s.parts) : KeepsLost s t :=
  ⟨fun o _ => by rw [State.reg, State.reg, hb], fun p => by rw [State.partition, State.partition, hp]⟩

theorem refl (s : State) : KeepsLost s s := of_eq rfl rfl

theorem trans (h : KeepsLost s t) (h' : KeepsLost t u) : KeepsLost s u :=
  ⟨fun o ho => (h'.1 o ho).trans (h.1 o ho), fun p => (h'.2 p).trans (h.2 p)⟩

/-- What comes first may change anything else. -/
theorem after (h : KeepsLost t u) (hb : t.bar0 = s.bar0) (hp : t.parts = s.parts) : KeepsLost s u := (of_eq hb hp).trans h

/-- What comes last may change anything else. -/
theorem andThen (h : KeepsLost s t) (hb : u.bar0 = t.bar0) (hp : u.parts = t.parts) : KeepsLost s u := h.trans (of_eq hb hp)

theorem foldl {α : Type} {f : State → α → State} (l : List α) (s : State) (h : ∀ a x, KeepsLost a (f a x)) :
    KeepsLost s (l.foldl f s) :=
  foldl_keeps (KeepsLost s) f l s (refl s) fun a x ha => ha.trans (h a x)

theorem setReg (s : State) {off : Nat} (v : W32) (h : off % 0x100 ≠ 0x48) : KeepsLost s (s.setReg off v) :=
  ⟨fun o ho => (State.reg_setReg s off o v).trans (if_neg (by rintro rfl; exact h ho)), fun _ => rfl⟩

theorem modPart (s : State) (n : Nat) (f : Partition → Partition) (h : (f (s.partition n)).lost = (s.partition n).lost) :
    KeepsLost s (s.modPart n f) := by
  refine ⟨fun _ _ => rfl, fun p => ?_⟩
  rw [State.partition_modPart]
  split
  · subst_vars; exact h
  · rfl

end KeepsLost

/-! ### What changes no register and no partition -/

section
variable (s : State)

theorem countEvent_keeps (unit src n : Nat) : KeepsLost s (s.countEvent unit src n) := by
  unfold State.countEvent
  exact ite_keeps (KeepsLost s) (.refl s) (.foldl _ _ fun a j => ite_keeps (KeepsLost a) (.of_eq rfl rfl) (.refl a))

theorem leaveRun_keeps (t : Nat) : KeepsLost s (s.leaveRun t) := by
  unfold State.leaveRun
  split
  · exact .refl s
  · split
    · exact .refl s
    · exact .of_eq rfl rfl

theorem dropSlice_keeps (t : Nat) : KeepsLost s (s.dropSlice t) :=
  .foldl _ _ fun a k => (leaveRun_keeps a k).andThen rfl rfl

theorem withdraw_keeps (t : Nat) : KeepsLost s (s.withdraw t) := by
  unfold State.withdraw
  split
  · exact .refl s
  · exact .of_eq rfl rfl

theorem syncWatch_keeps (l w : Nat) (b : Bool) : KeepsLost s (s.syncWatch l w b) := by
  unfold State.syncWatch
  split
  · exact .refl s
  · exact .of_eq rfl rfl

theorem watchWho_keeps (who : Origin) : KeepsLost s (s.watchWho who) := by
  unfold State.watchWho
  split
  · exact syncWatch_keeps ..
  · exact .refl s

theorem setStatus_keeps (t : Nat) (st : Status) : KeepsLost s (s.setStatus t st) := by
  unfold State.setStatus
  split
  · exact .refl s
  · exact (syncWatch_keeps ..).after rfl rfl

theorem releaseSlot_keeps (e i : Nat) : KeepsLost s (s.releaseSlot e i) := by
  unfold State.releaseSlot State.syncRelease
  exact ite_keeps (KeepsLost s) (.of_eq rfl rfl)
    (ite_keeps (KeepsLost s) (.foldl _ _ fun a t => setStatus_keeps a t .ready) (.refl s))

theorem removeThread_keeps (t : Nat) (keepArea : Bool) : KeepsLost s (s.removeThread t keepArea) := by
  unfold State.removeThread
  split
  · exact .refl s
  · have hgone := ((leaveRun_keeps s t).trans (dropSlice_keeps _ t)).trans (withdraw_keeps _ t)
    split
    · exact ite_keeps (KeepsLost s) (hgone.andThen rfl rfl) (hgone.andThen rfl rfl)
    · exact (hgone.andThen rfl rfl).trans (releaseSlot_keeps ..)
    · exact hgone.andThen rfl rfl

theorem endAttempt_keeps (k : Nat) (x : Task) (phase : TaskPhase) : KeepsLost s (s.endAttempt k x phase) := by
  unfold State.endAttempt
  split
  · exact (removeThread_keeps s _ _).andThen rfl rfl
  · exact .of_eq rfl rfl

theorem resetTask_keeps (k : Nat) (phase : TaskPhase) (now : Bool) : KeepsLost s (s.resetTask k phase now) := by
  unfold State.resetTask
  split
  · exact .refl s
  · exact ite_keeps (KeepsLost s) (.of_eq rfl rfl) (endAttempt_keeps ..)

theorem discardTask_keeps (k : Nat) (now : Bool) : KeepsLost s (s.discardTask k now) := by
  unfold State.discardTask
  split
  · exact .refl s
  · refine ite_keeps (KeepsLost s) (.of_eq rfl rfl) ?_
    split
    · exact (removeThread_keeps s _ _).andThen rfl rfl
    · exact .of_eq rfl rfl

theorem discardChild_keeps (k : Nat) (now : Bool) : KeepsLost s (s.discardChild k now) := by
  unfold State.discardChild
  split
  · exact .refl s
  · exact .trans (ite_keeps (KeepsLost s) (.refl s) (countEvent_keeps ..)) (discardTask_keeps ..)

theorem abortTask_keeps (k : Nat) (phase : TaskPhase) (src : Nat) (own all : Bool) :
    KeepsLost s (s.abortTask k phase src own all) := by
  unfold State.abortTask
  split
  · exact .refl s
  · refine ite_keeps (KeepsLost s) (.refl s) ?_
    refine ((countEvent_keeps s ..).trans (.foldl _ _ fun a j => discardChild_keeps a j all)).trans (.foldl _ _ fun a j => ?_)
    exact ite_keeps (KeepsLost a) (.refl a)
      (ite_keeps (KeepsLost a) (resetTask_keeps ..) ((countEvent_keeps ..).trans (resetTask_keeps ..)))

theorem conflict_keeps (ks : List Nat) (e : Nat × Task) : KeepsLost s (s.conflict ks e) := by
  unfold State.conflict
  refine ite_keeps (KeepsLost s) (.refl s) (.trans (ite_keeps (KeepsLost s) (.refl s) ?_) (abortTask_keeps ..))
  exact (countEvent_keeps ..).after rfl rfl

theorem noteWrites_keeps (ks : List Nat) (mine : Option Nat) : KeepsLost s (s.noteWrites ks mine) :=
  (KeepsLost.foldl _ _ fun a e => conflict_keeps a ks e).after rfl rfl

theorem cleanLine_keeps (line : Nat) : KeepsLost s (s.cleanLine line) := by
  unfold State.cleanLine
  exact ite_keeps (KeepsLost s) (.refl s) (.of_eq rfl rfl)

theorem unitWrite_keeps (pa : Nat) (bs : List Byte) (poison : Bool) : KeepsLost s (s.unitWrite pa bs poison) :=
  (KeepsLost.foldl _ _ cleanLine_keeps).trans ((noteWrites_keeps ..).after rfl rfl)

theorem opReport_keeps (o : MemOp) (report : State → State) (h : KeepsLost s (report s)) : KeepsLost s (s.opReport o report) := by
  unfold State.opReport
  split
  · exact .of_eq rfl rfl
  · exact h

theorem reapOp_keeps (op : Nat) : KeepsLost s (s.reapOp op) := by
  unfold State.reapOp
  split
  · exact ite_keeps (KeepsLost s) (.of_eq rfl rfl) (.refl s)
  · exact .refl s

theorem forgetWrite_keeps (op idx : Nat) (o : MemOp) (p : Part) : KeepsLost s (s.forgetWrite op idx o p) := by
  unfold State.forgetWrite
  split
  · have hline := fun line f => ite_keeps (c := s.homes.get? line = none) (KeepsLost s) (.refl s)
      (.of_eq (t := s.modHome line f) rfl rfl)
    exact ite_keeps (KeepsLost s) ((hline _ _).andThen rfl rfl) (hline _ _)
  · exact .refl s

theorem haltGuards_keeps (h : Home) : KeepsLost s (s.haltGuards h) := by
  unfold State.haltGuards
  split
  · exact .of_eq rfl rfl
  · exact ite_keeps (KeepsLost s) (.of_eq rfl rfl) (.refl s)
  · exact .refl s

theorem finishHalt_keeps (t : Nat) : KeepsLost s (s.finishHalt t) := by
  have hreply (a : State) (th : Thread) : KeepsLost a (a.reply th) := by
    unfold State.reply; split <;> exact .of_eq rfl rfl
  have hshaded (a : State) (th : Thread) : KeepsLost a (a.shaded th) := by
    unfold State.shaded; split <;> exact .of_eq rfl rfl
  have hreserve (a : State) (th : Thread) : KeepsLost a (a.reserve th) := by
    unfold State.reserve; split <;> exact .of_eq rfl rfl
  unfold State.finishHalt
  split
  · exact .refl s
  · exact (((hreply ..).trans (hshaded ..)).trans (haltGuards_keeps ..)).trans ((removeThread_keeps ..).trans (hreserve ..))

theorem settleHalts_keeps : KeepsLost s s.settleHalts :=
  .foldl _ _ fun a e => ite_keeps (KeepsLost a) (finishHalt_keeps a e.1) (.refl a)

/-! ### Counters, records and messages -/

theorem bumpReg_keeps {off : Nat} (n : Nat) (h : off % 0x100 ≠ 0x48) : KeepsLost s (s.bumpReg off n) := .setReg s _ h

theorem fqWrite_keeps (part : Nat) (r : FRec) : KeepsLost s (s.fqWrite part r) :=
  (unitWrite_keeps s ..).trans (.setReg _ _ (by unfold transReg; omega))

theorem keepPageFault_keeps (part : Nat) (r : FRec) (who : Origin) : KeepsLost s (s.keepPageFault part r who).2 :=
  (watchWho_keeps ..).after rfl rfl

theorem raiseFault_keeps (part die : Nat) (r : FRec) (who : Origin) : KeepsLost s (s.raiseFault part die r who).2 := by
  unfold State.raiseFault
  split
  · exact keepPageFault_keeps ..
  · refine .trans ?_ (watchWho_keeps ..)
    have hseq := KeepsLost.modPart s part (fun x => { x with seq := x.seq + 1 }) rfl
    refine ite_keeps (KeepsLost s) ((hseq.andThen rfl rfl).trans (fqWrite_keeps ..)) ?_
    exact (hseq.andThen rfl rfl).trans (.setReg _ _ (by unfold transReg; omega))

theorem reportFault_keeps (part die : Nat) (r : FRec) : KeepsLost s (s.reportFault part die r) := by
  unfold State.reportFault
  dsimp only
  split
  · exact ite_keeps (KeepsLost s) (.of_eq rfl rfl) (raiseFault_keeps ..)
  · exact raiseFault_keeps ..

theorem reportLost_keeps (o : MemOp) (p : Place) (kind : Nat) : KeepsLost s (s.reportLost o p kind) := reportFault_keeps ..

theorem countDropped_keeps (l : Nat) (p : Place) : KeepsLost s (s.countDropped l p) := by
  unfold State.countDropped
  split
  · split
    · exact (bumpReg_keeps s 1 (by unfold cxlReg; omega)).andThen rfl rfl
    · exact .of_eq rfl rfl
  · exact .of_eq rfl rfl

theorem setPart_keeps (op idx : Nat) (p : Part) : KeepsLost s (s.setPart op idx p) := .of_eq rfl rfl

theorem countLost_keeps (t : Nat) : KeepsLost s (s.countLost t) := .of_eq rfl rfl

theorem readLost_keeps (op idx : Nat) (o : MemOp) (p : Part) : KeepsLost s (s.readLost op idx o p) :=
  (setPart_keeps ..).trans (ite_keeps (KeepsLost _) (reapOp_keeps ..) (opReport_keeps _ _ _ (reportLost_keeps ..)))

theorem dropWrite_keeps (op idx : Nat) (o : MemOp) (p : Part) : KeepsLost s (s.dropWrite op idx o p) := by
  have hreport (a : State) : KeepsLost a (a.opReport o fun s =>
      (if o.kind = .atomic then s.reportLost o p.place 0x12 else s).reportLost o p.place 0x11) :=
    opReport_keeps _ _ _ (.trans (ite_keeps (KeepsLost a) (reportLost_keeps ..) (.refl a)) (reportLost_keeps ..))
  have hcount (a : State) := ((countLost_keeps a o.tid).trans (countDropped_keeps _ o.launch p.place)).trans (hreport _)
  have hdrop := fun q => (forgetWrite_keeps s op idx o p).trans (setPart_keeps _ op idx q)
  exact (ite_keeps (KeepsLost s) ((hdrop _).trans (hcount _)) (hdrop _)).trans ((reapOp_keeps ..).trans (settleHalts_keeps _))

theorem loseParts_keeps (pick : Nat → MemOp → Part → Bool) : KeepsLost s (s.loseParts pick) := by
  refine .foldl _ _ fun a e => .foldl _ _ fun b idx => ?_
  split
  · exact ite_keeps (KeepsLost b) (ite_keeps (KeepsLost b) (readLost_keeps ..) (dropWrite_keeps ..)) (.refl b)
  · exact .refl b

theorem flushEvents_keeps (part n : Nat) : KeepsLost s (s.flushEvents part n) := by
  induction n generalizing s with
  | zero => exact .refl s
  | succ n ih =>
    rw [State.flushEvents]
    refine ite_keeps (KeepsLost s) (.refl s) ?_
    split
    · exact .refl s
    · have hwrite := fun d e pa => (unitWrite_keeps (s.modDie d fun x => { x with eventBuf := x.eventBuf.erase e }) pa e.2 false).after
        (s := s) rfl rfl
      exact ite_keeps (KeepsLost s) (.refl s) (((hwrite _ _ _).trans (.setReg _ _ (by unfold partReg; omega))).trans (ih _))

theorem discardMsg_keeps (m : Msg) (type : Nat) : KeepsLost s (s.discardMsg m type) := by
  have hcount : KeepsLost s (s.bumpReg (partReg m.part 0x40) 1) := bumpReg_keeps s 1 (by unfold partReg; omega)
  have hseq := hcount.trans (.modPart _ m.part (fun x => { x with evSeq := x.evSeq + 1 }) rfl)
  exact (hseq.andThen rfl rfl).trans (flushEvents_keeps ..)

theorem dropHeld_keeps : KeepsLost s s.dropHeld :=
  .foldl _ _ fun a _ => ite_keeps (KeepsLost a) ((discardMsg_keeps ..).after rfl rfl) (.refl a)

end

end Sys2Proof.Machine
end

section
/-!
SUPPORT. What the writes of PKGLOST leave (20 R375), and the reads that clear a counter (00 R10; 18 R347).
-/

namespace Sys2Proof.Machine

open Sys2Proof.Safety

theorem Table.mem_of_get? {α : Type} {t : Table α} {k : Nat} {x : α} (h : t.get? k = some x) : (k, x) ∈ t := by
  induction t with
  | nil => exact absurd h (by simp)
  | cons a t ih =>
    obtain ⟨j, y⟩ := a
    rw [Table.get?] at h
    split at h
    · subst_vars; simp_all
    · exact List.mem_cons_of_mem _ (ih h)

section
variable {p : Nat} (v : W32) (s : State) (hp : p < 64)

theorem loseParts_none {pick : Nat → MemOp → Part → Bool} (h : ∀ o ∈ s.ops, ∀ x ∈ o.2.parts, pick o.1 o.2 x = false) :
    s.loseParts pick = s := by
  refine foldl_same _ s _ fun e _ => foldl_same _ s _ fun idx _ => ?_
  cases hpart : s.opPart e.1 idx with
  | none => rfl
  | some q =>
    obtain ⟨o, x⟩ := q
    obtain ⟨hget, hx⟩ : s.ops.get? e.1 = some o ∧ o.parts[idx]? = some x := by
      simpa [State.opPart, Option.bind_eq_some_iff] using hpart
    have hpick : pick e.1 o x = false := h _ (Table.mem_of_get? hget) x (List.mem_of_getElem? hx)
    simp only [hpick, Bool.false_and, Bool.false_eq_true, if_false]

theorem dropHeld_none (h : s.routeHeld = []) : s.dropHeld = s := by
  rw [State.dropHeld, h, List.foldl_nil]

/-- PKGLOST and its partition's lost packages after a declaration, before what waits for the package is lost (R375). -/
def lostMarked (s : State) (p : Nat) (v : W32) : State :=
  (s.setReg (partReg p 0x48) (v &&& 0x800003FF)).modPart p fun y => { y with lost := y.lost.add (v.toNat % 1024) }

theorem lostMarked_keeps : KeepsLost (lostMarked s p v) (s.declareLost p v) := (loseParts_keeps ..).trans (dropHeld_keeps _)

theorem declareLost_quiet (hheld : s.routeHeld = [])
    (hops : ∀ o ∈ s.ops, o.2.part = p → ∀ x ∈ o.2.parts, x.phase ≠ .queued) : s.declareLost p v = lostMarked s p v := by
  refine (congrArg State.dropHeld (loseParts_none (lostMarked s p v) fun o ho x hx => ?_)).trans (dropHeld_none _ hheld)
  have hno : (o.2.part == p && x.phase == .queued) = false := by
    by_cases hpart : o.2.part = p
    · simp [hops o ho hpart x hx]
    · simp [hpart]
  simp only [hno, Bool.false_and]

include hp in
theorem exec_pkglostDeclare (hv : v.getLsbD 31 = true) : ∃ t, exec (.pkglostDeclare p v) s = .next t ∧
    t.reg (partReg p 0x48) = v &&& 0x800003FF ∧ (t.partition p).lost = (s.partition p).lost.add (v.toNat % 1024) ∧
    (s.routeHeld = [] → (∀ o ∈ s.ops, o.2.part = p → ∀ x ∈ o.2.parts, x.phase ≠ .queued) →
      SetTo (s.modPart p fun y => { y with lost := y.lost.add (v.toNat % 1024) }) t (partReg p 0x48) (v &&& 0x800003FF)) := by
  obtain ⟨hreg, hlost⟩ := lostMarked_keeps (p := p) v s
  refine ⟨_, if_pos ⟨hp, hv⟩, (hreg _ (by unfold partReg; omega)).trans ?_, (hlost p).trans ?_, fun hheld hops => ?_⟩
  · exact (State.reg_setReg ..).trans (if_pos rfl)
  · rw [lostMarked, State.partition_modPart, if_pos rfl]
    rfl
  · rw [declareLost_quiet v s hheld hops]
    exact setTo_setReg _ _ _

include hp in
theorem exec_pkglostRestore (hv : v.getLsbD 31 = false) : ∃ t, exec (.pkglostRestore p v) s = .next t ∧
    SetTo { s.modPart p fun y => { y with lost := y.lost.remove (v.toNat % 1024) } with
      routeWait := s.routeWait.filter fun k _ => k % 1024 != v.toNat % 1024 } t (partReg p 0x48) (v &&& 0x800003FF) :=
  ⟨_, if_pos ⟨hp, by rw [hv]; rfl⟩, setTo_setReg _ _ _⟩

include hp in
theorem exec_write_pkglost : exec (.registerWrite (partReg p 0x48) v) s =
    exec (if v.getLsbD 31 then .pkglostDeclare p v else .pkglostRestore p v) s := by
  rw [exec_write_part v s hp (by omega)]
  cases hv : v.getLsbD 31 with
  | true =>
    have hd : exec (.pkglostDeclare p v) s = .next (s.declareLost p v) := if_pos ⟨hp, hv⟩
    exact (congrArg _ (if_pos hv)).trans hd.symm
  | false =>
    have hr : exec (.pkglostRestore p v) s = .next (s.restoreLost p v) := if_pos ⟨hp, by rw [hv]; rfl⟩
    exact (congrArg _ (if_neg (Bool.eq_false_iff.1 hv))).trans hr.symm

end

/-! ### Counters -/

/-- What a read that clears a counter leaves (R10). -/
def ReadCleared (s t : State) (off : Nat) : Prop :=
  t.busRead = s.reg off ∧ t.reg off = 0 ∧ (∀ o, o ≠ off → t.reg o = s.reg o) ∧ { t with bar0 := s.bar0, busRead := s.busRead } = s

theorem readCleared_readClear (s : State) (off : Nat) : ReadCleared s (s.readClear off) off :=
  ⟨rfl, (State.reg_setReg ..).trans (if_pos rfl), fun _ ho => (State.reg_setReg ..).trans (if_neg ho), rfl⟩

theorem cruiseRead_counter (s : State) (name : String) {q off : Nat} (hq : q < 4096) (h : off ∈ [0x44, 0x48, 0x4C, 0x50]) :
    s.cruiseRead name q off = .next (s.readClear (queueReg q off)) := by
  simp only [List.mem_cons, List.not_mem_nil, or_false] at h
  rw [State.cruiseRead, if_neg (by omega), State.queueRead, if_neg (by omega), if_neg (by omega), if_pos (by omega)]
  rfl

end Sys2Proof.Machine
end

section
/-!
The statements about the host's accesses of memory-mapped registers and about the reset state (00 R10, R11; 18 R329, R347; 19 R364;
20 R369-R378; 21 R386; 22 R393-R399).
-/

namespace Sys2Proof.Proofs

open Sys2Proof Sys2Proof.Machine Sys2Proof.Safety

/-- Settles O37: each of the reads is a read that clears its register. -/
theorem countersClearOnRead : Obligations.CountersClearOnRead := by
  unfold Obligations.CountersClearOnRead
  intro i off s h
  refine ⟨s.readClear off, ?_, readCleared_readClear s off⟩
  obtain ⟨p, hp, rfl, rfl⟩ | ⟨p, hp, rfl, rfl⟩ | ⟨l, hl, rfl, rfl⟩ | ⟨rfl, rfl⟩ | ⟨rfl, rfl⟩ | ⟨rfl, rfl⟩ | ⟨rfl, rfl⟩ |
    ⟨q, hq, h⟩ := h
  · exact if_pos hp
  · exact if_pos hp
  · exact if_pos hl
  · rfl
  · rfl
  · rfl
  · rfl
  · obtain ⟨rfl, rfl⟩ | ⟨rfl, rfl⟩ | ⟨rfl, rfl⟩ | ⟨rfl, rfl⟩ := h
    · exact cruiseRead_counter s "CRSTART_READ" hq (off := 0x44) (by decide)
    · exact cruiseRead_counter s "CRCLAIM_READ" hq (off := 0x48) (by decide)
    · exact cruiseRead_counter s "CRDISC_READ" hq (off := 0x4C) (by decide)
    · exact cruiseRead_counter s "CRCAUSE_READ" hq (off := 0x50) (by decide)

/-- Settles O58: nothing is listed at reset, so that every register reads as its reset value. -/
theorem resetState : Obligations.ResetState := by
  unfold Obligations.ResetState
  have hreg (off : Nat) : State.reset.reg off = regReset off := rfl
  refine ⟨⟨rfl, rfl, rfl, rfl⟩, rfl, fun q hq => ?_, fun p hp => ?_, fun d hd => ?_, by decide, by decide,
    fun off hqueue hcxl hbal hpwr hstat => ?_, rfl, rfl, rfl, rfl, rfl⟩
  · rw [hreg, regReset, if_pos (by unfold queueReg; omega)]
  · interval_cases p <;> decide
  · interval_cases d <;> decide
  · have hq : ¬(0x100000 ≤ off ∧ off < 0x1100000 ∧ off % 0x1000 = 0x0C) := fun h =>
      hqueue ((off - 0x100000) / 0x1000) (by omega) (by unfold queueReg; omega)
    have hc : ¬(off = cxlReg 0 0 ∨ off = cxlReg 1 0) := not_or.2 ⟨hcxl 0 (by decide), hcxl 1 (by decide)⟩
    have hb : ¬(0x3810000 ≤ off ∧ off < 0x3810040 ∧ off % 0x10 = 4) := fun h =>
      hbal ((off - 0x3810000) / 0x10) (by omega) (by unfold balReg; omega)
    rw [hreg, regReset, if_neg hq, if_neg hc, if_neg hb, if_neg (not_or.2 ⟨hpwr, hstat⟩)]

/-- Settles O38, block by block: each clause is the lemma of its register. -/
theorem hostRegisterWritesTakeEffect : Obligations.HostRegisterWritesTakeEffect := by
  unfold Obligations.HostRegisterWritesTakeEffect
  refine ⟨fun off mask locked v s h => ?_, fun off v s h32 h => exec_write_other v s h32 h, fun off p v s hp h32 => ?_,
    fun q v s hq => ?_, fun p v s hp => ?_, fun p v s hp => ?_, fun p v s hp => ?_, fun n v s hn => ?_, fun d v s hd => ?_,
    fun v s => ?_⟩
  case refine_1 =>
    have hw := exec_write_stored v s h
    cases locked with
    | true => exact hw
    | false => exact sets_of_exec hw
  case refine_2 =>
    rw [exec_write_virtual hp h32]
    exact ⟨fun hown => if_pos ((virtualMay_iff p off).2 hown), fun hno => if_neg (mt (virtualMay_iff p off).1 hno)⟩
  case refine_3 =>
    have hbell := exec_doorbellWrite v s hq
    have hwrite {o : Nat} (ho : o < 0x1000) := exec_write_queue v s hq ho
    exact ⟨fun h => hbell.trans (congrArg _ (publish_reserved s h)), fun h => hbell.trans (congrArg _ (publish_unreserved s h)),
      sets_qctl_disabled v s hq, sets_qctl_enabled v s hq, exec_qctl_clear v s hq, sets_qstat v s hq, exec_qstat_skip v s hq,
      exec_qpreempt_idle v s hq, exec_qpreempt_begin v s hq, sets_qwait v s hq, exec_qwait_outOfRange v s hq,
      (hwrite (by decide)).trans (exec_qctlWrite v s hq).symm, (hwrite (by decide)).trans hbell.symm,
      (hwrite (by decide)).trans (exec_qstatWrite v s hq).symm, (hwrite (by decide)).trans (exec_qpreemptWrite v s hq).symm⟩
  case refine_4 =>
    have hwrite {o : Nat} (ho : o < 0x1000) := exec_write_trans v s hp ho
    exact ⟨exec_freplay_replayed hp v s,
      ⟨sets_fcancel v s hp, fun x ts d u th hx hpend hauto hw hu hl => exec_fcancel_pending v s hp hx hpend hauto hw hu hl⟩,
      exec_fqconsWrite v s hp, fun h => sets_fqcons v s hp h.1 h.2, exec_fqctlWrite v s hp, fun h => sets_fqctl v s hp h.1 h.2,
      sets_ptctl v s hp, sets_fqstat v s hp, sets_migstat v s hp, hwrite (by decide), hwrite (by decide), hwrite (by decide),
      hwrite (by decide), hwrite (by decide), hwrite (by decide)⟩
  case refine_5 =>
    have hwrite {o : Nat} (ho : o < 0x1000) := exec_write_part v s hp ho
    exact ⟨sets_pctl_on v s hp, sets_pctl_off v s hp, exec_pctl_ignored v s hp, exec_evconsWrite v s hp, sets_evcons v s hp,
      exec_write_evctl v s hp, sets_evctl v s hp, sets_domctl v s hp, exec_write_keycmd_running v s hp, sets_keycmd v s hp,
      fun m hm => sets_ctrsel v s hp hm, exec_pkglostDeclare v s hp, exec_pkglostRestore v s hp,
      (hwrite (by decide)).trans (exec_pctlWrite v s hp).symm, (hwrite (by decide)).trans (exec_evconsWrite v s hp).symm,
      exec_write_pkglost v s hp⟩
  case refine_6 => exact ⟨sets_cxlto v s hp, sets_cxlstat v s hp, sets_write_cxlstat v s hp⟩
  case refine_7 =>
    exact ⟨(exec_write_standown v s hn).trans (exec_standownWrite v s hn).symm, exec_standown_drained v s hn,
      exec_standown_held v s hn⟩
  case refine_8 =>
    exact ⟨(exec_write_balctl v s hd).trans (exec_balctlWrite v s hd).symm, exec_balctl_bad v s hd, sets_balctl v s hd⟩
  case refine_9 =>
    exact ⟨exec_provision_recovery v s, exec_provision_ignored v s, fun h => ⟨sets_pflogcons v s h, sets_logControl v s h⟩, rfl,
      exec_write_logControl v s, ⟨sets_pwrmode v s, exec_pwrmode_relocks v s⟩, exec_write_lone v s (by decide) (by decide),
      exec_write_lone v s (by decide) (by decide), exec_write_lone v s (by decide) (by decide)⟩

end Sys2Proof.Proofs
end

section
/-!
SUPPORT. What an issue does that does not run to its effect, what a delivered trap leaves of the state, and that no event of
the part ends in a fault.
-/

namespace Sys2Proof.Machine
open Sys2Proof.Safety

namespace State

/-! ### Engines alone -/

/-- A change of engines alone. -/
def EnginesOnly (s t : State) : Prop := { t with engines := s.engines } = s

theorem EnginesOnly.trans {s t u : State} (h : EnginesOnly s t) (h' : EnginesOnly t u) : EnginesOnly s u :=
  (congrArg (fun x : State => { x with engines := s.engines }) h' :).trans h

theorem leaveRun_engines (s : State) (t : Nat) : EnginesOnly s (s.leaveRun t) := by
  unfold leaveRun
  split
  · rfl
  · split <;> rfl

theorem countEvent_engines (s : State) (unit src n : Nat) : EnginesOnly s (s.countEvent unit src n) :=
  (countEvent_spec s unit src n).1

theorem traceTrap_engines (s : State) (th : Thread) (cause : Nat) (info : W32) : EnginesOnly s (s.traceTrap th cause info) :=
  rfl

theorem skip_engines (s : State) (k : Ins) : EnginesOnly (s.advance k) (s.skip k) := by
  unfold skip retireAs
  split <;> rfl

theorem EnginesOnly.thread? {s t : State} (h : EnginesOnly s t) (u : Nat) : t.thread? u = s.thread? u :=
  (congrArg (fun x : State => x.thread? u) h :)

/-! ### Issues that do not run to their effect -/

/-- A slice is torn only where a thread of the run has gone. -/
theorem torn_of_kept {s t : State} (h : ∀ u, (s.thread? u).isSome = true → (t.thread? u).isSome = true) :
    s.torn t = false := by
  unfold torn
  cases s.run? with
  | none => simp
  | some r =>
    simp only [Option.elim, Bool.and_eq_false_iff, List.any_eq_false]
    refine .inr fun u _ => ?_
    cases hu : s.thread? u with
    | none => simp
    | some th => simp [Option.isNone_eq_false_iff.2 (h u (by simp [hu]))]

theorem torn_of_not_skid {s : State} (t : State) (h : isSkidKey s.focus = false) : s.torn t = false := by simp [torn, h]

theorem isSome_skip {s : State} {r : Run} (k : Ins) (hr : s.run? = some r) (u : Nat) (h : (s.thread? u).isSome = true) :
    ((s.skip k).thread? u).isSome = true := by
  rw [(skip_engines s k).thread?, thread?_advance k hr]
  split <;> simpa using h

/-- With no thread to perform it an instruction moves the run on and changes nothing else (R140). -/
theorem issueRun_empty {sem : Sem} {k : Ins} {s : State} {r : Run} (hr : s.run? = some r) (hg : s.trapGuards r k = s)
    (h : s.activeSet r k = []) : s.issueRun sem k r = s.skip k := by
  simp [issueRun, hg, h, stopTorn, torn_of_kept (isSome_skip k hr)]

theorem precheck_illFormed {sem : Sem} {r : Run} {k : Ins} (h : k.wellFormed = false) (s : State) (t : Nat) :
    precheck sem r k s t = (s.trap t 1 k.word0, false) := by simp [precheck, h]

theorem precheckAll_illFormed {sem : Sem} {r : Run} {k : Ins} (h : k.wellFormed = false) (go : List Nat) (s : State) :
    precheckAll sem r k s go = (go.foldl (fun x t => x.trap t 1 k.word0) s, []) := by
  induction go generalizing s with
  | nil => rfl
  | cons t ts ih => simp [precheckAll, precheck_illFormed h, ih]

/-- An ill-formed word traps in every thread of its active set, and the run passes it (R121). -/
theorem issueRun_illFormed {sem : Sem} {k : Ins} {s : State} {r : Run} {go : List Nat} (hg : s.trapGuards r k = s)
    (h : s.activeSet r k = go) (hne : go ≠ []) (hk : k.wellFormed = false) :
    s.issueRun sem k r = s.stopTorn ((go.foldl (fun x t => x.trap t 1 k.word0) s).passBy k) := by
  cases go with
  | nil => exact absurd rfl hne
  | cons a as => simp only [issueRun, hg, h, precheckAll_illFormed hk]

/-- An instruction that must wait holds its run: only the waits at an operand queue are noted (R125, R311). -/
theorem issueRun_waits {sem : Sem} {k : Ins} {s : State} {r : Run} {lead : Nat} {go : List Nat} (hg : s.trapGuards r k = s)
    (h : s.activeSet r k = go) (hl : go.head? = some lead) (hp : ∀ t ∈ go, (precheck sem r k s t).2 = true)
    (hheld : (s.heldLead.all fun l => l == lead) = true) (hw : ∃ t ∈ go, s.mustWait t k (t == lead) = true) :
    s.issueRun sem k r = s.notePops k go := by
  cases go with
  | nil => simp at hl
  | cons a as =>
    obtain rfl : a = lead := by simpa using hl
    have hf : s.heldLead.getD a = a := by
      cases hh : s.heldLead with
      | none => rfl
      | some l => simpa [hh] using hheld
    have hany : (a :: as).any (fun t => s.mustWait t k (t == a)) = true := List.any_eq_true.2 hw
    simp only [issueRun, hg, h, precheckAll_pass _ hp, torn_self, issueThreads, hf, hany, if_true, Bool.false_eq_true, if_false]

theorem notePops_unsliced {s : State} {k : Ins} {go : List Nat}
    (h : ∀ t ∈ go, (s.thread? t).all (fun th => !th.sliced) = true) : s.notePops k go = s := by
  refine foldl_same _ s go fun t ht => ?_
  have := h t ht
  cases hs : s.thread? t with
  | none => rfl
  | some th =>
    have hsl : th.sliced = false := by simpa [hs] using this
    simp [hsl]

/-! ### A delivered trap -/

theorem trap_eq_trapMain {s : State} {u cause : Nat} {info : W32} {th : Thread} (h : s.thread? u = some th)
    (hh : ∀ m, th.home ≠ .skidder m) : s.trap u cause info = s.trapMain u cause info := by
  unfold trap
  split
  next hm => exact absurd (congrArg Thread.home (Option.some.inj (h.symm.trans hm)) :) (hh _)
  · rfl

theorem withdraw_frame (s : State) (u : Nat) :
    { s.withdraw u with outbound := s.outbound, texReqs := s.texReqs } = s := by
  unfold withdraw; split <;> rfl

/-- The thread as a delivered trap leaves it (R164). -/
def trapEntered (th : Thread) (cause : Nat) (info : W32) (handler : Nat) : Thread :=
  Thread.dropCand
    { th with epc := th.pc, ecause := BitVec.ofNat 32 cause, einfo := info, inTrap := true
              pc := BitVec.ofNat 64 handler, lastPage := none, held := .none, awaited := []
              lost := if cause = 7 then 0 else th.lost }

theorem trapMain_delivered {s : State} {u cause : Nat} {info : W32} {th : Thread} (h : s.thread? u = some th)
    (hc : s.unclaimed th.launch = false) (hk : th.taskOf = none) (hi : th.inTrap = false) (hcause : cause < 0x0A)
    (hh : (s.lrec th.launch).trap ≠ 0) :
    ∃ y, EnginesOnly (s.withdraw u) y ∧
      s.trapMain u cause info = y.setThread u (trapEntered th cause info (s.lrec th.launch).trap) := by
  have hw := withdraw_frame s u
  obtain ⟨x, hx, hxe⟩ : ∃ x, x = (if cause = 4 then (s.withdraw u).countEvent (th.home.engine.getD 0) 0x19 1
      else s.withdraw u) ∧ EnginesOnly (s.withdraw u) x := by
    refine ⟨_, rfl, ?_⟩
    split
    · exact countEvent_engines ..
    · rfl
  have hxl : x.launches = s.launches :=
    (congrArg State.launches hxe :).trans (congrArg State.launches hw :)
  have hcx : x.unclaimed th.launch = false := by
    rw [← hc]; simp only [unclaimed, launch?, hxl]
  have hlx : x.lrec th.launch = s.lrec th.launch := by simp only [lrec, hxl]
  refine ⟨(x.traceTrap th cause info).leaveRun u,
    hxe.trans ((traceTrap_engines x th cause info).trans (leaveRun_engines ..)), ?_⟩
  have hge : ¬ (0x0A ≤ cause ∨ (s.lrec th.launch).trap = 0) := by omega
  simp only [trapMain, h, ← hx, hcx, hk, hi, hlx, hge, Bool.false_eq_true, if_false]
  rfl

theorem withdraw_outbound (s : State) (u v : Nat) :
    (s.withdraw u).outbound.get? v = if v = u then none else s.outbound.get? v := by
  unfold withdraw
  split
  next h => split <;> simp_all
  · exact Table.get?_del ..

theorem withdraw_of_none {s : State} {u : Nat} (h : s.outbound.get? u = none) : s.withdraw u = s := by simp [withdraw, h]

end State

end Sys2Proof.Machine
end

section
namespace Sys2Proof.Proofs
open Sys2Proof Sys2Proof.Machine Sys2Proof.Safety

theorem issueOutcomes_trap (s : State) (u cause : Nat) (info : W32) (th : Thread) (h : s.thread? u = some th)
    (hh : ∀ m, th.home ≠ .skidder m) (hc : s.unclaimed th.launch = false) (hk : th.taskOf = none) (hi : th.inTrap = false)
    (hcause : cause < 0x0A) (ht : (s.lrec th.launch).trap ≠ 0) :
    ∃ th', (s.trap u cause info).thread? u = some th' ∧ th'.epc = th.pc ∧ th'.ecause = BitVec.ofNat 32 cause ∧
      th'.einfo = info ∧ th'.inTrap = true ∧ th'.pc = BitVec.ofNat 64 (s.lrec th.launch).trap ∧
      { th' with epc := th.epc, ecause := th.ecause, einfo := th.einfo, inTrap := th.inTrap, pc := th.pc
                 lastPage := th.lastPage, held := th.held, awaited := th.awaited, lost := th.lost, ray := th.ray } = th ∧
      (∀ v, v ≠ u → (s.trap u cause info).thread? v = s.thread? v) ∧
      (s.trap u cause info).outbound.get? u = none ∧
      (∀ v, v ≠ u → (s.trap u cause info).outbound.get? v = s.outbound.get? v) ∧
      (s.outbound.get? u = none → (s.trap u cause info).texReqs = s.texReqs) ∧
      { s.trap u cause info with
        threads := s.threads, engines := s.engines, outbound := s.outbound, texReqs := s.texReqs } = s := by
  obtain ⟨y, hy, heq⟩ := State.trapMain_delivered (info := info) h hc hk hi hcause ht
  rw [State.trap_eq_trapMain h hh, heq]
  have hw := State.withdraw_frame s u
  have hout : y.outbound = (s.withdraw u).outbound := (congrArg State.outbound hy :)
  refine ⟨_, (State.thread?_setThread ..).trans (if_pos rfl), rfl, rfl, rfl, rfl, rfl, rfl, fun v hv => ?_, ?_, fun v hv => ?_,
    fun hn => ?_, ?_⟩
  · rw [State.thread?_setThread, if_neg hv, hy.thread?]
    exact (congrArg (fun x : State => x.thread? v) hw :)
  · rw [State.setThread_outbound, hout, State.withdraw_outbound, if_pos rfl]
  · rw [State.setThread_outbound, hout, State.withdraw_outbound, if_neg hv]
  · rw [State.setThread_texReqs, (congrArg State.texReqs hy :), State.withdraw_of_none hn]
  · exact (congrArg (fun x : State => { x with threads := s.threads, outbound := s.outbound, texReqs := s.texReqs
                                               engines := s.engines }) hy :).trans
      (congrArg (fun x : State => { x with threads := s.threads, engines := s.engines }) hw :)

/-- Settles O52, from the branches of one issue: nobody is left, an early check traps, or a wait holds the run. -/
theorem issueOutcomes : Obligations.IssueOutcomes := by
  refine ⟨fun i k s r go hi hr hgp hact => ?_, issueOutcomes_trap⟩
  have hg := State.trapGuards_none s r k hgp
  have hex : exec i s = .next (s.issueRun (semOf k.op) k r) := by
    rw [exec_eq_issue i k s hi, issue_of_run (semOf k.op) k hr]
  refine ⟨fun h0 => ?_, fun hne hk => ⟨?_, fun hf => ?_⟩, fun lead hl hp hheld hw => ⟨?_, fun hns => ?_⟩⟩
  · rw [hex, State.issueRun_empty hr hg (hact.trans h0)]
  · rw [hex, State.issueRun_illFormed hg hact hne hk]
  · rw [hex, State.issueRun_illFormed hg hact hne hk, State.stopTorn, State.torn_of_not_skid _ hf]
    rfl
  · rw [hex, State.issueRun_waits hg hact hl hp hheld hw]
  · rw [hex, State.issueRun_waits hg hact hl hp hheld hw, State.notePops_unsliced hns]

end Sys2Proof.Proofs
end

section
/-!
SUPPORT. No event of the part ends in a fault of the model: each is carried out or refused.
-/

namespace Sys2Proof.Machine
open Sys2Proof.Safety

/-- An outcome that is no fault: a next state or a refusal. -/
inductive Answers : Host.Outcome State Fault Refusal → Prop where
  | next (s : State) : Answers (.next s)
  | refused (r : Refusal) : Answers (.refused r)

theorem Answers.ne_fault {o : Host.Outcome State Fault Refusal} (h : Answers o) (f : Fault) : o ≠ .fault f := by
  cases h <;> nofun

theorem issue_answers (sem : Sem) (k : Ins) (s : State) : Answers (issue sem k s) := by
  unfold issue
  split
  · exact .refused _
  · exact .next _

theorem Answers.issued {o : Host.Outcome State Fault Refusal} (h : Answers o) (old : State) (i : Instr) :
    Answers (old.issued i o) := by
  cases h with
  | next s => exact .next _
  | refused r => exact .refused r

/-! ### What several events share -/

theorem command_answers (s : State) (q op : Nat) (name : String) (run : State → State.Cmd → State.Done) :
    Answers (s.command q op name run) := by
  unfold State.command
  extract_lets kept
  clear_value kept
  dsimp only
  (repeat' split) <;> constructor

theorem collStart_answers (s : State) (part engine : Nat) (gather : Bool) (name : String) :
    Answers (s.collStart part engine gather name) := by
  unfold State.collStart; dsimp only; (repeat' split) <;> constructor

theorem cruiseRead_answers (s : State) (name : String) (q off : Nat) : Answers (s.cruiseRead name q off) := by
  unfold State.cruiseRead; (repeat' split) <;> constructor

theorem spdm_answers (s : State) (req part need next n : Nat) (name : String) :
    Answers (s.spdm req part need next n name) := by
  unfold State.spdm; (repeat' split) <;> constructor

/-! ### Writes of registers -/

theorem fqctlWrite_answers (part : Nat) (val : W32) (s : State) :
    Answers (execFqctlWrite part val s) := by
  unfold execFqctlWrite; split <;> constructor

theorem fqconsWrite_answers (part : Nat) (val : W32) (s : State) :
    Answers (execFqconsWrite part val s) := by
  unfold execFqconsWrite; split <;> constructor

theorem freplayWrite_answers (part : Nat) (val : W32) (s : State) :
    Answers (execFreplayWrite part val s) := by
  unfold execFreplayWrite; split <;> constructor

theorem fcancelWrite_answers (part : Nat) (val : W32) (s : State) :
    Answers (execFcancelWrite part val s) := by
  unfold execFcancelWrite; split <;> constructor

theorem invctlStart_answers (part : Nat) (val : W32) (s : State) :
    Answers (execInvctlStart part val s) := by
  unfold execInvctlStart; (repeat' split) <;> constructor

theorem migctlStart_answers (part : Nat) (val : W32) (s : State) :
    Answers (execMigctlStart part val s) := by
  unfold execMigctlStart; dsimp only; (repeat' split) <;> constructor

theorem physicalWrite_answers (off : Nat) (val : W32) (s : State) : Answers (physicalWrite off val s) := by
  unfold physicalWrite
  refine ite_keeps Answers (.next _) (ite_keeps Answers ?_ (ite_keeps Answers (.next _) (ite_keeps Answers (.next _)
    (ite_keeps Answers (.next _) (ite_keeps Answers (.next _) (.next _))))))
  dsimp only
  split
  · exact fqctlWrite_answers ..
  · exact fqconsWrite_answers ..
  · exact freplayWrite_answers ..
  · exact fcancelWrite_answers ..
  · exact invctlStart_answers ..
  · exact migctlStart_answers ..
  · exact .next _

theorem registerWrite_answers (off : Nat) (val : W32) (s : State) : Answers (execRegisterWrite off val s) :=
  ite_keeps Answers (physicalWrite_answers ..)
    (ite_keeps Answers (ite_keeps Answers (physicalWrite_answers ..) (.next _)) (.refused _))

/-- The signal's late stores come first, then the command (R331). -/
theorem signalCommand_answers (queue : Nat) (s : State) : Answers (execSignalCommand queue s) := by
  unfold execSignalCommand
  dsimp only
  split
  · exact .next _
  · split
    · exact .next _
    · exact command_answers ..

/-! ### The other events that have conditions -/


theorem instructionFetchFault_answers (s : State) : Answers (execInstructionFetchFault s) := by
  unfold execInstructionFetchFault; split <;> constructor

theorem runArbitration_answers (s : State) : Answers (execRunArbitration s) := by
  unfold execRunArbitration; (repeat' split) <;> constructor

theorem loadCompletion_answers (op : Nat) (s : State) : Answers (execLoadCompletion op s) := by
  unfold execLoadCompletion; (repeat' split) <;> constructor

theorem atomCompletion_answers (op : Nat) (s : State) : Answers (execAtomCompletion op s) := by
  unfold execAtomCompletion; (repeat' split) <;> constructor

theorem specialFunctionCompletion_answers (prod : Nat) (s : State) : Answers (execSpecialFunctionCompletion prod s) := by
  unfold execSpecialFunctionCompletion; split <;> constructor

theorem qxmaxExchangeCompletion_answers (prod : Nat) (s : State) : Answers (execQxmaxExchangeCompletion prod s) := by
  unfold execQxmaxExchangeCompletion; dsimp only; (repeat' split) <;> constructor

theorem accMovCompletion_answers (prod : Nat) (s : State) : Answers (execAccMovCompletion prod s) := by
  unfold execAccMovCompletion; split <;> constructor

theorem tileRowLoadCompletion_answers (op : Nat) (s : State) : Answers (execTileRowLoadCompletion op s) := by
  unfold execTileRowLoadCompletion; (repeat' split) <;> constructor

theorem mmaEntryPerform_answers (engine slot : Nat) (s : State) : Answers (execMmaEntryPerform engine slot s) := by
  unfold execMmaEntryPerform; (repeat' split) <;> constructor

theorem waitDeadlineExpiry_answers (thread : Nat) (s : State) : Answers (execWaitDeadlineExpiry thread s) := by
  unfold execWaitDeadlineExpiry; (repeat' split) <;> constructor

theorem sendTTimeout_answers (thread : Nat) (s : State) : Answers (execSendTTimeout thread s) := by
  unfold execSendTTimeout; (repeat' split) <;> constructor

theorem messagePlaceGrant_answers (thread : Nat) (s : State) : Answers (execMessagePlaceGrant thread s) := by
  unfold execMessagePlaceGrant; (repeat' split) <;> constructor

theorem messageArrival_answers (msg : Nat) (s : State) : Answers (execMessageArrival msg s) := by
  unfold execMessageArrival; dsimp only; (repeat' split) <;> constructor

theorem handlerStart_answers (core ctx : Nat) (s : State) : Answers (execHandlerStart core ctx s) := by
  unfold execHandlerStart; (repeat' split) <;> constructor

theorem heldMessageRouteReturn_answers (msg : Nat) (s : State) : Answers (execHeldMessageRouteReturn msg s) := by
  unfold execHeldMessageRouteReturn; (repeat' split) <;> constructor

theorem pocketAgeExpiry_answers (stand pocket : Nat) (s : State) : Answers (execPocketAgeExpiry stand pocket s) := by
  unfold execPocketAgeExpiry; (repeat' split) <;> constructor

theorem waveQueueStart_answers (stand engine slot quarter : Nat) (s : State) :
    Answers (execWaveQueueStart stand engine slot quarter s) := by
  unfold execWaveQueueStart; dsimp only; (repeat' split) <;> constructor

theorem waitingThreadTakesContext_answers (core ctx : Nat) (s : State) :
    Answers (execWaitingThreadTakesContext core ctx s) := by
  unfold execWaitingThreadTakesContext; dsimp only; (repeat' split) <;> constructor

theorem workgroupWatchdogExpiry_answers (launch wg : Nat) (s : State) :
    Answers (execWorkgroupWatchdogExpiry launch wg s) := by
  unfold execWorkgroupWatchdogExpiry; (repeat' split) <;> constructor

theorem launchFatalEnd_answers (launch : Nat) (s : State) : Answers (execLaunchFatalEnd launch s) := by
  unfold execLaunchFatalEnd; dsimp only; (repeat' split) <;> constructor

theorem workgroupPlacement_answers (launch wg stand : Nat) (s : State) :
    Answers (execWorkgroupPlacement launch wg stand s) := by
  unfold execWorkgroupPlacement; (repeat' split) <;> constructor

theorem workgroupRetire_answers (launch wg : Nat) (s : State) : Answers (execWorkgroupRetire launch wg s) := by
  unfold execWorkgroupRetire; dsimp only; (repeat' split) <;> constructor

theorem homeReadLeaseGrant_answers (op part : Nat) (s : State) : Answers (execHomeReadLeaseGrant op part s) := by
  unfold execHomeReadLeaseGrant; dsimp only; (repeat' split) <;> constructor

theorem homeWritePerformed_answers (op part : Nat) (s : State) : Answers (execHomeWritePerformed op part s) := by
  unfold execHomeWritePerformed; dsimp only; (repeat' split) <;> constructor

theorem writeAckAtStand_answers (op part : Nat) (s : State) : Answers (execWriteAckAtStand op part s) := by
  unfold execWriteAckAtStand; (repeat' split) <;> constructor

theorem scOperationPerformed_answers (op part : Nat) (s : State) : Answers (execScOperationPerformed op part s) := by
  unfold execScOperationPerformed; dsimp only; (repeat' split) <;> constructor

theorem leaseSweep_answers (stand : Nat) (s : State) : Answers (execLeaseSweep stand s) := by
  unfold execLeaseSweep; split <;> constructor

theorem l1RetentionWake_answers (stand : Nat) (s : State) : Answers (execL1RetentionWake stand s) := by
  unfold execL1RetentionWake; split <;> constructor

theorem engineOwnershipGrant_answers (cmd line : Nat) (s : State) : Answers (execEngineOwnershipGrant cmd line s) := by
  unfold execEngineOwnershipGrant; (repeat' split) <;> constructor

theorem engineRecallComplete_answers (line : Nat) (s : State) : Answers (execEngineRecallComplete line s) := by
  unfold execEngineRecallComplete; dsimp only; (repeat' split) <;> constructor

theorem buddyTakeover_answers (line : Nat) (s : State) : Answers (execBuddyTakeover line s) := by
  unfold execBuddyTakeover; dsimp only; (repeat' split) <;> constructor

theorem memoryPortArrival_answers (op part : Nat) (s : State) : Answers (execMemoryPortArrival op part s) := by
  unfold execMemoryPortArrival; (repeat' split) <;> constructor

theorem translationWalk_answers (walk : Nat) (s : State) : Answers (execTranslationWalk walk s) := by
  unfold execTranslationWalk; dsimp only; (repeat' split) <;> constructor

theorem flumeCommandAtHead_answers (cluster ring : Nat) (s : State) : Answers (execFlumeCommandAtHead cluster ring s) := by
  unfold execFlumeCommandAtHead; (repeat' split) <;> constructor

theorem flumeBeatService_answers (cluster : Nat) (s : State) : Answers (execFlumeBeatService cluster s) := by
  unfold execFlumeBeatService; (repeat' split) <;> constructor

theorem flumeCommandComplete_answers (cluster ring : Nat) (s : State) :
    Answers (execFlumeCommandComplete cluster ring s) := by
  unfold execFlumeCommandComplete; (repeat' split) <;> constructor

theorem boomSelection_answers (die scene reach stand : Nat) (s : State) :
    Answers (execBoomSelection die scene reach stand s) := by
  unfold execBoomSelection; (repeat' split) <;> constructor

theorem reachLoadComplete_answers (stand : Nat) (s : State) : Answers (execReachLoadComplete stand s) := by
  unfold execReachLoadComplete; (repeat' split) <;> constructor

theorem batchEnd_answers (stand : Nat) (s : State) : Answers (execBatchEnd stand s) := by
  unfold execBatchEnd; (repeat' split) <;> constructor

theorem batchLimitExpiry_answers (stand : Nat) (s : State) : Answers (execBatchLimitExpiry stand s) := by
  unfold execBatchLimitExpiry; (repeat' split) <;> constructor

theorem driveAccessFault_answers (die stand : Nat) (s : State) : Answers (execDriveAccessFault die stand s) := by
  unfold execDriveAccessFault; (repeat' split) <;> constructor

theorem taskDispatch_answers (stand task core ctx : Nat) (s : State) : Answers (execTaskDispatch stand task core ctx s) := by
  unfold execTaskDispatch; (repeat' split) <;> constructor

theorem commitReduction_answers (launch : Nat) (s : State) : Answers (execCommitReduction launch s) := by
  unfold execCommitReduction; (repeat' split) <;> constructor

theorem taskCommit_answers (launch : Nat) (s : State) : Answers (execTaskCommit launch s) := by
  unfold execTaskCommit; (repeat' split) <;> constructor

theorem binEntryRasterize_answers (launch die tile : Nat) (s : State) :
    Answers (execBinEntryRasterize launch die tile s) := by
  unfold execBinEntryRasterize; dsimp only; (repeat' split) <;> constructor

theorem tileVisibilityFinal_answers (launch tile : Nat) (s : State) : Answers (execTileVisibilityFinal launch tile s) := by
  unfold execTileVisibilityFinal; dsimp only; (repeat' split) <;> constructor

theorem emissionForcedClose_answers (launch die : Nat) (s : State) : Answers (execEmissionForcedClose launch die s) := by
  unfold execEmissionForcedClose; dsimp only; split <;> constructor

theorem tileWriteBack_answers (launch tile : Nat) (s : State) : Answers (execTileWriteBack launch tile s) := by
  unfold execTileWriteBack; dsimp only; (repeat' split) <;> constructor

theorem textureReply_answers (req : Nat) (s : State) : Answers (execTextureReply req s) := by
  unfold execTextureReply; (repeat' split) <;> constructor

theorem balancerStandMove_answers (stand : Nat) (s : State) : Answers (execBalancerStandMove stand s) := by
  unfold execBalancerStandMove; dsimp only; (repeat' split) <;> constructor

theorem balancerAutoTick_answers (die : Nat) (s : State) : Answers (execBalancerAutoTick die s) := by
  unfold execBalancerAutoTick; dsimp only; (repeat' split) <;> constructor

theorem qresvRead_answers (queue : Nat) (s : State) : Answers (execQresvRead queue s) := by
  unfold execQresvRead; dsimp only; (repeat' split) <;> constructor

theorem qresvTimeout_answers (queue : Nat) (s : State) : Answers (execQresvTimeout queue s) := by
  unfold execQresvTimeout; (repeat' split) <;> constructor

theorem qresvsRead_answers (queue : Nat) (s : State) : Answers (execQresvsRead queue s) := by
  unfold execQresvsRead; dsimp only; (repeat' split) <;> constructor

theorem qresvsBusyTimeout_answers (queue : Nat) (s : State) : Answers (execQresvsBusyTimeout queue s) := by
  unfold execQresvsBusyTimeout; (repeat' split) <;> constructor

theorem doorbellWrite_answers (queue : Nat) (val : W32) (s : State) : Answers (execDoorbellWrite queue val s) := by
  unfold execDoorbellWrite; split <;> constructor

theorem qctlWrite_answers (queue : Nat) (val : W32) (s : State) : Answers (execQctlWrite queue val s) := by
  unfold execQctlWrite; split <;> constructor

theorem qstatWrite_answers (queue : Nat) (val : W32) (s : State) : Answers (execQstatWrite queue val s) := by
  unfold execQstatWrite; split <;> constructor

theorem queueWaitPoll_answers (queue : Nat) (s : State) : Answers (execQueueWaitPoll queue s) := by
  unfold execQueueWaitPoll; dsimp only; (repeat' split) <;> constructor

theorem queueWaitTimeout_answers (queue : Nat) (s : State) : Answers (execQueueWaitTimeout queue s) := by
  unfold execQueueWaitTimeout; dsimp only; (repeat' split) <;> constructor

theorem qpreemptWrite_answers (queue : Nat) (val : W32) (s : State) : Answers (execQpreemptWrite queue val s) := by
  unfold execQpreemptWrite; split <;> constructor

theorem preemptionComplete_answers (launch : Nat) (s : State) : Answers (execPreemptionComplete launch s) := by
  unfold execPreemptionComplete; dsimp only; (repeat' split) <;> constructor

theorem cruiseStart_answers (queue : Nat) (s : State) : Answers (execCruiseStart queue s) := by
  unfold execCruiseStart; dsimp only; (repeat' split) <;> constructor

theorem cruiseClaim_answers (queue : Nat) (s : State) : Answers (execCruiseClaim queue s) := by
  unfold execCruiseClaim; dsimp only; (repeat' split) <;> constructor

theorem cruiseDiscard_answers (cruise : Nat) (s : State) : Answers (execCruiseDiscard cruise s) := by
  unfold execCruiseDiscard; (repeat' split) <;> constructor

theorem cruiseIdleTimeout_answers (cruise : Nat) (s : State) : Answers (execCruiseIdleTimeout cruise s) := by
  unfold execCruiseIdleTimeout; (repeat' split) <;> constructor

theorem crstartRead_answers (queue : Nat) (s : State) : Answers (execCrstartRead queue s) := cruiseRead_answers ..

theorem crclaimRead_answers (queue : Nat) (s : State) : Answers (execCrclaimRead queue s) := cruiseRead_answers ..

theorem crdiscRead_answers (queue : Nat) (s : State) : Answers (execCrdiscRead queue s) := cruiseRead_answers ..

theorem crcauseRead_answers (queue : Nat) (s : State) : Answers (execCrcauseRead queue s) := cruiseRead_answers ..

theorem invalidationComplete_answers (inval : Nat) (s : State) : Answers (execInvalidationComplete inval s) := by
  unfold execInvalidationComplete; dsimp only; (repeat' split) <;> constructor

theorem migrationComplete_answers (mig : Nat) (s : State) : Answers (execMigrationComplete mig s) := by
  unfold execMigrationComplete; dsimp only; (repeat' split) <;> constructor

theorem atsTranslationCompletion_answers (walk : Nat) (addr : W64) (perms : BitVec 8) (s : State) :
    Answers (execAtsTranslationCompletion walk addr perms s) := by
  unfold execAtsTranslationCompletion; dsimp only; (repeat' split) <;> constructor

theorem atsInvalidateRequest_answers (pasid : Nat) (addr : W64) (size tag : Nat) (s : State) :
    Answers (execAtsInvalidateRequest pasid addr size tag s) := by
  unfold execAtsInvalidateRequest; split <;> constructor

theorem prgResponse_answers (prg code : Nat) (s : State) : Answers (execPrgResponse prg code s) := by
  unfold execPrgResponse; dsimp only; (repeat' split) <;> constructor

theorem cxlPortFailure_answers (port : Nat) (timeout : Bool) (s : State) : Answers (execCxlPortFailure port timeout s) := by
  unfold execCxlPortFailure; split <;> constructor

theorem cxlstatWrite_answers (port : Nat) (val : W32) (s : State) : Answers (execCxlstatWrite port val s) := by
  unfold execCxlstatWrite; split <;> constructor

theorem cxldropRead_answers (port : Nat) (s : State) : Answers (execCxldropRead port s) := by
  unfold execCxldropRead; split <;> constructor

theorem packageUnreachableTimeout_answers (part pkg : Nat) (s : State) :
    Answers (execPackageUnreachableTimeout part pkg s) := by
  unfold execPackageUnreachableTimeout; dsimp only; split <;> constructor

theorem pkglostDeclare_answers (part : Nat) (val : W32) (s : State) : Answers (execPkglostDeclare part val s) := by
  unfold execPkglostDeclare; split <;> constructor

theorem pkglostRestore_answers (part : Nat) (val : W32) (s : State) : Answers (execPkglostRestore part val s) := by
  unfold execPkglostRestore; split <;> constructor

theorem standownWrite_answers (stand : Nat) (val : W32) (s : State) : Answers (execStandownWrite stand val s) := by
  unfold execStandownWrite; split <;> constructor

theorem standownTakeEffect_answers (stand : Nat) (s : State) : Answers (execStandownTakeEffect stand s) := by
  unfold execStandownTakeEffect; dsimp only; (repeat' split) <;> constructor

theorem pctlWrite_answers (part : Nat) (val : W32) (s : State) : Answers (execPctlWrite part val s) := by
  unfold execPctlWrite; split <;> constructor

theorem discardRead_answers (part : Nat) (s : State) : Answers (execDiscardRead part s) := by
  unfold execDiscardRead; split <;> constructor

theorem evconsWrite_answers (part : Nat) (val : W32) (s : State) : Answers (execEvconsWrite part val s) := by
  unfold execEvconsWrite; split <;> constructor

theorem keyGenerate_answers (part : Nat) (s : State) : Answers (execKeyGenerate part s) := by
  unfold execKeyGenerate; split <;> constructor

theorem keyInstall_answers (part : Nat) (s : State) : Answers (execKeyInstall part s) := by
  unfold execKeyInstall; split <;> constructor

theorem keyErase_answers (part : Nat) (s : State) : Answers (execKeyErase part s) := by
  unfold execKeyErase; (repeat' split) <;> constructor

theorem balctlWrite_answers (die : Nat) (val : W32) (s : State) : Answers (execBalctlWrite die val s) := by
  unfold execBalctlWrite; split <;> constructor

theorem ctrselWrite_answers (part idx : Nat) (val : W32) (s : State) : Answers (execCtrselWrite part idx val s) := by
  unfold execCtrselWrite; split <;> constructor

theorem collectiveSignal_answers (part engine : Nat) (s : State) : Answers (execCollectiveSignal part engine s) := by
  unfold execCollectiveSignal; dsimp only; (repeat' split) <;> constructor

theorem lnkreplayRead_answers (link : Nat) (s : State) : Answers (execLnkreplayRead link s) := by
  unfold execLnkreplayRead; split <;> constructor

theorem eloaLinkDown_answers (link : Nat) (s : State) : Answers (execEloaLinkDown link s) := by
  unfold execEloaLinkDown; split <;> constructor

theorem powerOnBoot_answers (fail size0 size1 id : Nat) (s : State) : Answers (execPowerOnBoot fail size0 size1 id s) := by
  unfold execPowerOnBoot; (repeat' split) <;> constructor

theorem getMeasurements_answers (part : Nat) (s : State) : Answers (execGetMeasurements part s) := by
  unfold execGetMeasurements; (repeat' split) <;> constructor

theorem wrappedKeyDelivery_answers (part : Nat) (s : State) : Answers (execWrappedKeyDelivery part s) := by
  unfold execWrappedKeyDelivery; (repeat' split) <;> constructor

theorem parityRetry_answers (unit : Nat) (s : State) : Answers (execParityRetry unit s) := by
  unfold execParityRetry; dsimp only; split <;> constructor

theorem dramScrub_answers (line cls : Nat) (s : State) : Answers (execDramScrub line cls s) := by
  unfold execDramScrub; dsimp only; (repeat' split) <;> constructor

theorem correctedLineRewrite_answers (line : Nat) (s : State) : Answers (execCorrectedLineRewrite line s) := by
  unfold execCorrectedLineRewrite; split <;> constructor

theorem unitFence_answers (unit cause : Nat) (s : State) : Answers (execUnitFence unit cause s) := by
  unfold execUnitFence; dsimp only; split <;> constructor

theorem governorTick_answers (power : Nat) (s : State) : Answers (execGovernorTick power s) := by
  unfold execGovernorTick; split <;> constructor

theorem thermalLimit_answers (temp : Nat) (s : State) : Answers (execThermalLimit temp s) := by
  unfold execThermalLimit; dsimp only; split <;> constructor

theorem clocksResumeBelow95c_answers (temp : Nat) (s : State) : Answers (execClocksResumeBelow95c temp s) := by
  unfold execClocksResumeBelow95c; split <;> constructor

theorem clockRelockComplete_answers (s : State) : Answers (execClockRelockComplete s) := by
  unfold execClockRelockComplete; split <;> constructor

theorem l1RetentionSleep_answers (stand : Nat) (s : State) : Answers (execL1RetentionSleep stand s) := by
  unfold execL1RetentionSleep; dsimp only; split <;> constructor

theorem eloaLinkUp_answers (link peer : Nat) (s : State) : Answers (execEloaLinkUp link peer s) := by
  unfold execEloaLinkUp; split <;> constructor

theorem flitCrcReplay_answers (link : Nat) (s : State) : Answers (execFlitCrcReplay link s) := by
  unfold execFlitCrcReplay; split <;> constructor

theorem atsCompletionTimeout_answers (walk : Nat) (s : State) : Answers (execAtsCompletionTimeout walk s) := by
  unfold execAtsCompletionTimeout; (repeat' split) <;> constructor

theorem rootComplexWriteAck_answers (op part : Nat) (s : State) : Answers (execRootComplexWriteAck op part s) := by
  unfold execRootComplexWriteAck; (repeat' split) <;> constructor

theorem l2RehomingComplete_answers (slice : Nat) (s : State) : Answers (execL2RehomingComplete slice s) := by
  unfold execL2RehomingComplete; split <;> constructor

/-! ### Every event -/

/-- Each event of the part is carried out or refused, by the branches of its meaning. -/
theorem exec_event_answers (i : Instr) (s : State) (h : i.ins = none) : Answers (exec i s) := by
  cases i with
  | instructionFetchFault => exact instructionFetchFault_answers ..
  | runArbitration => exact runArbitration_answers ..
  | loadCompletion _ => exact loadCompletion_answers ..
  | atomCompletion _ => exact atomCompletion_answers ..
  | specialFunctionCompletion _ => exact specialFunctionCompletion_answers ..
  | qxmaxExchangeCompletion _ => exact qxmaxExchangeCompletion_answers ..
  | accMovCompletion _ => exact accMovCompletion_answers ..
  | tileRowLoadCompletion _ => exact tileRowLoadCompletion_answers ..
  | mmaEntryPerform _ _ => exact mmaEntryPerform_answers ..
  | waitDeadlineExpiry _ => exact waitDeadlineExpiry_answers ..
  | sendTTimeout _ => exact sendTTimeout_answers ..
  | messagePlaceGrant _ => exact messagePlaceGrant_answers ..
  | messageArrival _ => exact messageArrival_answers ..
  | handlerStart _ _ => exact handlerStart_answers ..
  | heldMessageRouteReturn _ => exact heldMessageRouteReturn_answers ..
  | pocketAgeExpiry _ _ => exact pocketAgeExpiry_answers ..
  | waveQueueStart _ _ _ _ => exact waveQueueStart_answers ..
  | waitingThreadTakesContext _ _ => exact waitingThreadTakesContext_answers ..
  | workgroupWatchdogExpiry _ _ => exact workgroupWatchdogExpiry_answers ..
  | launchFatalEnd _ => exact launchFatalEnd_answers ..
  | workgroupPlacement _ _ _ => exact workgroupPlacement_answers ..
  | workgroupRetire _ _ => exact workgroupRetire_answers ..
  | homeReadLeaseGrant _ _ => exact homeReadLeaseGrant_answers ..
  | homeWritePerformed _ _ => exact homeWritePerformed_answers ..
  | writeAckAtStand _ _ => exact writeAckAtStand_answers ..
  | scOperationPerformed _ _ => exact scOperationPerformed_answers ..
  | leaseSweep _ => exact leaseSweep_answers ..
  | l1RetentionWake _ => exact l1RetentionWake_answers ..
  | engineOwnershipGrant _ _ => exact engineOwnershipGrant_answers ..
  | engineRecallComplete _ => exact engineRecallComplete_answers ..
  | buddyTakeover _ => exact buddyTakeover_answers ..
  | memoryPortArrival _ _ => exact memoryPortArrival_answers ..
  | translationWalk _ => exact translationWalk_answers ..
  | flumeCommandAtHead _ _ => exact flumeCommandAtHead_answers ..
  | flumeBeatService _ => exact flumeBeatService_answers ..
  | flumeCommandComplete _ _ => exact flumeCommandComplete_answers ..
  | boomSelection _ _ _ _ => exact boomSelection_answers ..
  | reachLoadComplete _ => exact reachLoadComplete_answers ..
  | batchEnd _ => exact batchEnd_answers ..
  | batchLimitExpiry _ => exact batchLimitExpiry_answers ..
  | driveAccessFault _ _ => exact driveAccessFault_answers ..
  | taskDispatch _ _ _ _ => exact taskDispatch_answers ..
  | commitReduction _ => exact commitReduction_answers ..
  | taskCommit _ => exact taskCommit_answers ..
  | binEntryRasterize _ _ _ => exact binEntryRasterize_answers ..
  | tileVisibilityFinal _ _ => exact tileVisibilityFinal_answers ..
  | emissionForcedClose _ _ => exact emissionForcedClose_answers ..
  | tileWriteBack _ _ => exact tileWriteBack_answers ..
  | textureReply _ => exact textureReply_answers ..
  | balancerStandMove _ => exact balancerStandMove_answers ..
  | balancerAutoTick _ => exact balancerAutoTick_answers ..
  | qresvRead _ => exact qresvRead_answers ..
  | qresvTimeout _ => exact qresvTimeout_answers ..
  | qresvsRead _ => exact qresvsRead_answers ..
  | qresvsBusyTimeout _ => exact qresvsBusyTimeout_answers ..
  | doorbellWrite _ _ => exact doorbellWrite_answers ..
  | qctlWrite _ _ => exact qctlWrite_answers ..
  | qstatWrite _ _ => exact qstatWrite_answers ..
  | launch _ => exact command_answers ..
  | signalCommand _ => exact signalCommand_answers ..
  | queueWaitCommand _ => exact command_answers ..
  | queueWaitPoll _ => exact queueWaitPoll_answers ..
  | queueWaitTimeout _ => exact queueWaitTimeout_answers ..
  | messageCommand _ => exact command_answers ..
  | bind _ => exact command_answers ..
  | resume _ => exact command_answers ..
  | qpreemptWrite _ _ => exact qpreemptWrite_answers ..
  | preemptionComplete _ => exact preemptionComplete_answers ..
  | cruiseStart _ => exact cruiseStart_answers ..
  | cruiseClaim _ => exact cruiseClaim_answers ..
  | cruiseDiscard _ => exact cruiseDiscard_answers ..
  | cruiseIdleTimeout _ => exact cruiseIdleTimeout_answers ..
  | crstartRead _ => exact crstartRead_answers ..
  | crclaimRead _ => exact crclaimRead_answers ..
  | crdiscRead _ => exact crdiscRead_answers ..
  | crcauseRead _ => exact crcauseRead_answers ..
  | freplayWrite _ _ => exact freplayWrite_answers ..
  | fcancelWrite _ _ => exact fcancelWrite_answers ..
  | fqconsWrite _ _ => exact fqconsWrite_answers ..
  | invctlStart _ _ => exact invctlStart_answers ..
  | invalidationComplete _ => exact invalidationComplete_answers ..
  | migctlStart _ _ => exact migctlStart_answers ..
  | migrationComplete _ => exact migrationComplete_answers ..
  | atsTranslationCompletion _ _ _ => exact atsTranslationCompletion_answers ..
  | atsInvalidateRequest _ _ _ _ => exact atsInvalidateRequest_answers ..
  | prgResponse _ _ => exact prgResponse_answers ..
  | cxlPortFailure _ _ => exact cxlPortFailure_answers ..
  | cxlstatWrite _ _ => exact cxlstatWrite_answers ..
  | cxldropRead _ => exact cxldropRead_answers ..
  | packageUnreachableTimeout _ _ => exact packageUnreachableTimeout_answers ..
  | pkglostDeclare _ _ => exact pkglostDeclare_answers ..
  | pkglostRestore _ _ => exact pkglostRestore_answers ..
  | standownWrite _ _ => exact standownWrite_answers ..
  | standownTakeEffect _ => exact standownTakeEffect_answers ..
  | pctlWrite _ _ => exact pctlWrite_answers ..
  | discardRead _ => exact discardRead_answers ..
  | evconsWrite _ _ => exact evconsWrite_answers ..
  | pflogconsWrite _ => exact .next _
  | keyGenerate _ => exact keyGenerate_answers ..
  | keyInstall _ => exact keyInstall_answers ..
  | keyErase _ => exact keyErase_answers ..
  | balctlWrite _ _ => exact balctlWrite_answers ..
  | ctrselWrite _ _ _ => exact ctrselWrite_answers ..
  | collectiveAllReduce _ _ => exact collStart_answers ..
  | collectiveAllGather _ _ => exact collStart_answers ..
  | collectiveSignal _ _ => exact collectiveSignal_answers ..
  | lnkreplayRead _ => exact lnkreplayRead_answers ..
  | eloaLinkDown _ => exact eloaLinkDown_answers ..
  | powerOnBoot _ _ _ _ => exact powerOnBoot_answers ..
  | provisionWrite _ => exact .next _
  | getVersion _ => exact spdm_answers ..
  | getCapabilities _ => exact spdm_answers ..
  | negotiateAlgorithms _ => exact spdm_answers ..
  | getDigests _ => exact spdm_answers ..
  | getCertificate _ => exact spdm_answers ..
  | challenge _ => exact spdm_answers ..
  | getMeasurements _ => exact getMeasurements_answers ..
  | keyExchange _ => exact spdm_answers ..
  | finish _ => exact spdm_answers ..
  | wrappedKeyDelivery _ => exact wrappedKeyDelivery_answers ..
  | parityRetry _ => exact parityRetry_answers ..
  | dramScrub _ _ => exact dramScrub_answers ..
  | correctedLineRewrite _ => exact correctedLineRewrite_answers ..
  | unitFence _ _ => exact unitFence_answers ..
  | cecountRead => exact .next _
  | uecountRead => exact .next _
  | misdirRead => exact .next _
  | parretryRead => exact .next _
  | pwrmodeWrite _ => exact .next _
  | governorTick _ => exact governorTick_answers ..
  | thermalLimit _ => exact thermalLimit_answers ..
  | registerWrite _ _ => exact registerWrite_answers ..
  | clocksResumeBelow95c _ => exact clocksResumeBelow95c_answers ..
  | clockRelockComplete => exact clockRelockComplete_answers ..
  | l1RetentionSleep _ => exact l1RetentionSleep_answers ..
  | eloaLinkUp _ _ => exact eloaLinkUp_answers ..
  | flitCrcReplay _ => exact flitCrcReplay_answers ..
  | atsCompletionTimeout _ => exact atsCompletionTimeout_answers ..
  | rootComplexWriteAck _ _ => exact rootComplexWriteAck_answers ..
  | l2RehomingComplete _ => exact l2RehomingComplete_answers ..
  | fqctlWrite _ _ => exact fqctlWrite_answers ..
  | _ => exact nomatch h

theorem exec_answers (i : Instr) (s : State) : Answers (exec i s) := by
  cases h : i.ins with
  | none => exact exec_event_answers i s h
  | some k => rw [exec_eq_issue i k s h]; exact issue_answers ..

theorem issueStep_answers (s : State) : Answers (issueStep s) := by
  unfold issueStep
  split
  · exact exec_answers ..
  · exact ite_keeps Answers (.next _) ((exec_answers ..).issued ..)
  · exact .next _
  · exact .next _
  · exact exec_answers ..
  · exact .next _

theorem step_answers (s : State) : Answers (step s) := by
  unfold step
  split
  · exact ite_keeps Answers (.refused _) (issueStep_answers s)
  · refine ite_keeps Answers (.refused _) ?_
    split
    · exact issueStep_answers _
    · exact exec_answers ..
    · exact .next _
    · exact .next _

end Sys2Proof.Machine
end

section
namespace Sys2Proof.Proofs
open Sys2Proof Sys2Proof.Machine Sys2Proof.Safety

/-- Settles O60: an issue answers with a next state, every event with a next state or a refusal. -/
theorem stepNeverFaults : Obligations.StepNeverFaults := fun s f => (step_answers s).ne_fault f

end Sys2Proof.Proofs
end

section
/-!
SUPPORT. An issue that reaches the instruction's own checks, whatever they answer; and what TRAP and ERET make of their threads.
-/

namespace Sys2Proof.Machine
open Sys2Proof.Safety

namespace State

variable {sem : Sem} {k : Ins} {s : State} {r : Run} {lead : Nat} {go : List Nat}

/-- What an issue makes of the answers `c` of its checks, led by `lead` (R139). -/
def afterChecks (s : State) (sem : Sem) (i : Ins) (lead : Nat) (c : Checked) : State :=
  let left := c.traps.foldl (fun s e => sem.trapped i s e.1)
    (c.parks.foldl (fun s e => sem.parked i s e.1) (if c.holds.isEmpty then s else sem.prep i lead c.holds s))
  let s' := left.settle { c with traps := c.traps ++ s.splitTraps i c }
  if s.torn s' then s.stopTorn (s'.passBy i) else
  let on := if i.w.sl && !c.parks.isEmpty then [] else c.go
  if !c.holds.isEmpty || !sem.ready i on s' then (s'.holdRun lead).endHeld lead i c.holds
  else if on.isEmpty then s'.passBy i
  else s'.perform sem i lead on

/-- An issue that reaches the instruction's own checks does what they answer (R139). -/
theorem issueRun_reached (h : Reached sem k s r lead go) :
    s.issueRun sem k r = s.afterChecks sem k lead (s.fitParks (gatherChecks sem k s (some lead) true go)) := by
  obtain ⟨-, hg, hact, hlead, hpre, hwait, hsrc, hheld⟩ := h
  cases go with
  | nil => simp at hlead
  | cons a as =>
    obtain rfl : a = lead := by simpa using hlead
    have hl : (s.heldLead.orElse fun _ => leaderOf k s (a :: as)) = some a := by
      cases hh : s.heldLead with
      | some l => simpa [hh] using hheld
      | none =>
        have := hsrc a (by simp)
        simp at this
        simp [leaderOf, this]
    have hfront : s.heldLead.getD a = a := by
      cases hh : s.heldLead with
      | some l => simpa [hh] using hheld
      | none => rfl
    have hany : ((a :: as).any fun t => s.mustWait t k (t == a)) = false :=
      List.any_eq_false.2 fun t ht => by simp [hwait t ht]
    have hw : s.mustWait a k true = false := by simpa using hwait a (by simp)
    simp only [issueRun, trapGuards_none s r k hg, hact, precheckAll_pass _ hpre, issueThreads, hany, hl, hfront, hw,
      torn_self, Option.getD_some, Option.all_some, List.contains_cons, beq_self_eq_true, Bool.true_or, Bool.and_false,
      Bool.or_false, Bool.false_eq_true, if_false]
    rfl

/-- Threads whose checks all trap. -/
theorem gatherChecks_trap {cause : Nat} {info : Nat → W32} {l : Nat} (go : List Nat)
    (hs : ∀ t ∈ go, sourceCheck k s (t == l) t = .ok) (hc : ∀ t ∈ go, sem.check k l s t = .trap cause (info t)) :
    gatherChecks sem k s (some l) false go = { traps := go.map fun t => (t, cause, info t) } := by
  induction go with
  | nil => rfl
  | cons t ts ih =>
    have h0 := ih (fun u hu => hs u (by simp [hu])) fun u hu => hc u (by simp [hu])
    simp [gatherChecks, h0, operandCheck, hs t (by simp), hc t (by simp)]

/-- An instruction whose checks trap in every thread: each traps, and the run passes the instruction (R139). -/
theorem issueRun_traps {cause : Nat} {info : Nat → W32} (h : Reached sem k s r lead go)
    (hf : isSkidKey s.focus = false) (hsl : k.w.sl = false) (hc : ∀ t ∈ go, sem.check k lead s t = .trap cause (info t))
    (ht : ∀ x t, sem.trapped k x t = x) (hr : ∀ x, sem.ready k [] x = true) :
    s.issueRun sem k r = (go.foldl (fun x u => x.trap u cause (info u)) s).passBy k := by
  have hgc : gatherChecks sem k s (some lead) true go = { traps := go.map fun t => (t, cause, info t) } := by
    rw [← gatherChecks_trap go h.2.2.2.2.2.2.1 hc]
    cases go with
    | nil => rfl
    | cons a as =>
      obtain rfl : a = lead := by simpa using h.2.2.2.1
      simp [gatherChecks]
  rw [issueRun_reached h, hgc]
  simp [afterChecks, fitParks, splitTraps, hsl, torn_of_not_skid _ hf, settle, parkAll, ht, hr, List.foldl_map]

end State

/-- A thread as ERET leaves it (R164). -/
def Thread.returned (th : Thread) : Thread := { th with inTrap := false, pc := th.resume.getD th.epc, resume := none }

theorem inTrap_of_eretLegal {k : Ins} {s : State} {u : Nat} {th : Thread} (h : eretLegal k s u = true)
    (hu : s.thread? u = some th) : th.inTrap = true := by
  simp only [eretLegal, hu, Bool.and_eq_true] at h
  exact h.1

theorem legal_of_reached {sem : Sem} {k : Ins} {s : State} {r : Run} {lead : Nat} {go : List Nat}
    (h : Reached sem k s r lead go) {u : Nat} (hu : u ∈ go) : sem.legal k s u = true := by
  have h1 := h.2.2.2.2.1 u hu
  unfold State.precheck at h1
  cases hp : sem.legal k s u with
  | true => rfl
  | false => simp [hp] at h1

end Sys2Proof.Machine
end

section
namespace Sys2Proof.Proofs
open Sys2Proof Sys2Proof.Machine Sys2Proof.Safety

theorem exec_trap (i : Instr) (k : Ins) (s : State) (r : Run) (lead : Nat) (go : List Nat) (hi : i.ins = some k)
    (hop : k.op = .trap) (hf : isSkidKey s.focus = false) (h : Reached (semOf k.op) k s r lead go) :
    exec i s = .next ((go.foldl (fun x u => x.trap u 8 (s.wordB u k)) s).passBy k) := by
  have hsl := sl_of_reached h (by rw [hop]; rfl)
  rw [exec_eq_issue i k s hi, issue_of_run _ k h.1]
  rw [hop] at h ⊢
  rw [State.issueRun_traps h hf hsl (fun _ _ => rfl) (fun _ _ => rfl) fun _ => rfl]

theorem exec_eret (i : Instr) (k : Ins) (s : State) (r : Run) (lead : Nat) (go : List Nat) (hi : i.ins = some k)
    (hop : k.op = .eret) (h : Clear (semOf k.op) k s r lead go) :
    ∃ t, exec i s = .next t ∧ { t with threads := s.threads, engines := s.engines } = s ∧
      Effect s t k r go fun _ th th' =>
        th.inTrap = true ∧ { th' with pc := th.pc, oq := th.oq, inTrap := th.inTrap, resume := th.resume } = th ∧
        th'.pc = th.resume.getD th.epc ∧ th'.inTrap = false ∧ th'.resume = none := by
  have hsl := sl_of_reached h.1 (by rw [hop]; rfl)
  refine ⟨_, exec_clear hi h, ?_⟩
  refine effect_of_threads (fun _ th => th.returned) 0 h.1 hsl (.inr ?_) (fun _ _ => ⟨rfl, rfl, rfl⟩) ?_
  · rw [hop]; rfl
  · intro u hu th th' hth he
    have hl := legal_of_reached h.1 hu
    rw [hop] at hl
    exact ⟨inTrap_of_eretLegal (k := k) hl hth,
      (congrArg (fun x : Thread => { x with pc := th.pc, inTrap := th.inTrap, resume := th.resume }) he :),
      (congrArg Thread.pc he :), (congrArg Thread.inTrap he :), (congrArg Thread.resume he :)⟩

/-- Settles O27, from the checks of TRAP, which all trap, and the change ERET makes of each thread. -/
theorem trapAndReturn : Obligations.TrapAndReturn := ⟨exec_trap, exec_eret⟩

end Sys2Proof.Proofs
end

section
/-!
SUPPORT. What the part's own writes leave alone. A write of a unit may abort tasks and take their threads away; it does not move
the focus, stop the clocks, or change of a launch more than its workgroups' watchdogs, and of those only such as still have a
thread; cruises stay but for their causes.
-/

namespace Sys2Proof.Machine
open Sys2Proof.Safety

/-- A launch without its workgroups and its mark of dropped writes. -/
def Launch.still (l : Launch) : Launch := { l with wgs := [], dropped := false }

/-- A cruise without the causes of its discard. -/
def Cruise.still (c : Cruise) : Cruise := { c with causes := 0 }

/-- A workgroup has a thread. -/
def State.HasThread (s : State) (l w : Nat) : Prop := ∃ u th, s.thread? u = some th ∧ th.launch = l ∧ th.wg = w

/-- A workgroup of a launch. -/
def State.group? (s : State) (l w : Nat) : Option Workgroup := (s.launch? l).bind fun x => x.wgs.get? w

/-- What `Calm` speaks of. -/
def State.calmPart (s : State) : Nat × Bool × Table Thread × Table Launch × Table Cruise :=
  (s.focus, s.pkg.clocksStopped, s.threads, s.launches, s.cruises)

/-- From `s` to `t` threads have gone or changed within their workgroups, watchdogs of workgroups that had a thread have, and
causes have been noted of cruises. -/
structure Calm (s t : State) : Prop where
  focus : t.focus = s.focus
  stopped : t.pkg.clocksStopped = s.pkg.clocksStopped
  threads : ∀ u th', t.thread? u = some th' → ∃ th, s.thread? u = some th ∧ th.launch = th'.launch ∧ th.wg = th'.wg
  launches : ∀ k, (t.launch? k).map Launch.still = (s.launch? k).map Launch.still
  groups : ∀ k g, ¬ s.HasThread k g → t.group? k g = s.group? k g
  cruises : ∀ j, (t.cruises.get? j).map Cruise.still = (s.cruises.get? j).map Cruise.still

namespace Calm
variable {s t u : State}

theorem hasThread (h : Calm s t) {k g : Nat} (ht : t.HasThread k g) : s.HasThread k g := by
  obtain ⟨v, th', hv, rfl, rfl⟩ := ht
  obtain ⟨th, hs, hl, hw⟩ := h.threads v th' hv
  exact ⟨v, th, hs, hl, hw⟩

theorem of_part (h : t.calmPart = s.calmPart) : Calm s t := by
  simp only [State.calmPart, Prod.mk.injEq] at h
  obtain ⟨hf, hp, ht, hl, hc⟩ := h
  refine ⟨hf, hp, fun v th' hv => ⟨th', ?_, rfl, rfl⟩, fun k => ?_, fun k g _ => ?_, fun j => by rw [hc]⟩
  · rw [← hv, State.thread?, State.thread?, ht]
  · rw [State.launch?, State.launch?, hl]
  · rw [State.group?, State.group?, State.launch?, State.launch?, hl]

theorem refl (s : State) : Calm s s := of_part rfl

theorem trans (h : Calm s t) (h' : Calm t u) : Calm s u where
  focus := h'.focus.trans h.focus
  stopped := h'.stopped.trans h.stopped
  threads v th hv := by
    obtain ⟨x, hx, hl, hw⟩ := h'.threads v th hv
    obtain ⟨y, hy, hl', hw'⟩ := h.threads v x hx
    exact ⟨y, hy, hl'.trans hl, hw'.trans hw⟩
  launches k := (h'.launches k).trans (h.launches k)
  groups k g hg := (h'.groups k g (mt h.hasThread hg)).trans (h.groups k g hg)
  cruises j := (h'.cruises j).trans (h.cruises j)

/-- What comes first may change anything that `Calm` does not speak of. -/
theorem after (h : Calm t u) (hp : t.calmPart = s.calmPart) : Calm s u := (of_part hp).trans h

/-- What comes last may change anything that `Calm` does not speak of. -/
theorem andThen (h : Calm s t) (hp : u.calmPart = t.calmPart) : Calm s u := h.trans (of_part hp)

theorem foldl {α : Type} {f : State → α → State} (l : List α) (s : State) (h : ∀ a x, Calm a (f a x)) : Calm s (l.foldl f s) :=
  foldl_keeps (Calm s) f l s (refl s) fun a x ha => ha.trans (h a x)

/-- A change of threads alone that keeps each in its workgroup, and brings none. -/
theorem of_threads (h : { t with threads := s.threads } = s)
    (ht : ∀ u th', t.thread? u = some th' → ∃ th, s.thread? u = some th ∧ th.launch = th'.launch ∧ th.wg = th'.wg) :
    Calm s t :=
  { of_part (t := { t with threads := s.threads }) (s := s) (congrArg State.calmPart h :) with threads := ht }

/-- A change of launches alone, in their workgroups' watchdogs or marks of dropped writes. -/
theorem of_launches (h : { t with launches := s.launches } = s)
    (hl : ∀ k, (t.launch? k).map Launch.still = (s.launch? k).map Launch.still)
    (hg : ∀ k g, ¬ s.HasThread k g → t.group? k g = s.group? k g) : Calm s t :=
  { of_part (t := { t with launches := s.launches }) (s := s) (congrArg State.calmPart h :) with launches := hl, groups := hg }

theorem modThread (s : State) (u : Nat) (f : Thread → Thread) (h : ∀ th, (f th).launch = th.launch ∧ (f th).wg = th.wg) :
    Calm s (s.modThread u f) := by
  refine of_threads rfl fun v th' hv => ?_
  rw [State.thread?_modThread] at hv
  split at hv
  · obtain ⟨th, hs, rfl⟩ := Option.map_eq_some_iff.1 hv
    exact ⟨th, hs, (h th).1.symm, (h th).2.symm⟩
  · exact ⟨th', hv, rfl, rfl⟩

theorem setThread {th : Thread} (s : State) (u : Nat) (x : Thread) (hs : s.thread? u = some th) (hl : x.launch = th.launch)
    (hw : x.wg = th.wg) : Calm s (s.setThread u x) := by
  refine of_threads rfl fun v th' hv => ?_
  rw [State.thread?_setThread] at hv
  split at hv
  next he => cases hv; exact ⟨th, he ▸ hs, hl.symm, hw.symm⟩
  · exact ⟨th', hv, rfl, rfl⟩

theorem delThread (s : State) (u : Nat) : Calm s { s with threads := s.threads.del u } := by
  refine of_threads rfl fun v th' hv => ⟨th', ?_, rfl, rfl⟩
  have : (s.threads.del u).get? v = some th' := hv
  rw [Table.get?_del] at this
  split at this
  · simp at this
  · exact this

theorem modWg (s : State) {l w : Nat} (f : Workgroup → Workgroup) (h : s.HasThread l w) : Calm s (s.modWg l w f) := by
  refine of_launches rfl (fun k => ?_) fun k g hg => ?_
  · rw [State.modWg, State.launch?_modLaunch]
    split
    · cases s.launch? k <;> rfl
    · rfl
  · rw [State.group?, State.group?, State.modWg, State.launch?_modLaunch]
    split
    next he =>
      subst he
      have hne : g ≠ w := by rintro rfl; exact hg h
      cases s.launch? k with
      | none => rfl
      | some x => simp [hne]
    · rfl

end Calm

/-! ### Threads that leave, tasks that abort -/

section
variable (s : State)

theorem countEvent_calm (unit src n : Nat) : Calm s (s.countEvent unit src n) :=
  .of_part (congrArg State.calmPart (State.countEvent_spec s unit src n).1 :)

theorem leaveRun_calm (t : Nat) : Calm s (s.leaveRun t) := .of_part (congrArg State.calmPart (State.leaveRun_engines s t) :)

theorem dropSlice_calm (t : Nat) : Calm s (s.dropSlice t) :=
  .foldl _ _ fun a k => (leaveRun_calm a k).trans ((Calm.delThread _ k).andThen rfl)

theorem withdraw_calm (t : Nat) : Calm s (s.withdraw t) := .of_part (congrArg State.calmPart (State.withdraw_frame s t) :)

theorem syncWatch_calm {l w : Nat} (b : Bool) (h : s.HasThread l w) : Calm s (s.syncWatch l w b) := by
  unfold State.syncWatch
  split
  · exact .refl s
  · exact .modWg s _ h

theorem setStatus_calm (t : Nat) (st : Status) : Calm s (s.setStatus t st) := by
  unfold State.setStatus
  split
  · exact .refl s
  next th hs =>
    have hx : ∀ b : Bool, (if b then th.fillAwaited else th).launch = th.launch ∧
        (if b then th.fillAwaited else th).wg = th.wg := by rintro (_ | _) <;> exact ⟨rfl, rfl⟩
    have hset : ∀ (x : Thread) b, x.launch = th.launch → x.wg = th.wg →
        Calm s ((s.setThread t { x with status := st }).syncWatch x.launch x.wg b) := fun x b hl hw =>
      (Calm.setThread s t { x with status := st } hs hl hw).trans
        (syncWatch_calm _ _ ⟨t, _, (State.thread?_setThread ..).trans (if_pos rfl), rfl, rfl⟩)
    exact hset _ _ (hx _).1 (hx _).2

theorem releaseSlot_calm (e i : Nat) : Calm s (s.releaseSlot e i) := by
  unfold State.releaseSlot State.syncRelease
  exact ite_keeps (Calm s) (.of_part rfl) (ite_keeps (Calm s) (.foldl _ _ fun a t => setStatus_calm a t .ready) (.refl s))

theorem removed_calm (t : Nat) : Calm s { s.withdraw t with threads := s.threads.del t } := by
  refine (Calm.delThread s t).andThen ?_
  unfold State.withdraw
  split <;> rfl

theorem removeThread_calm (t : Nat) (keepArea : Bool) : Calm s (s.removeThread t keepArea) := by
  unfold State.removeThread
  split
  · exact .refl s
  · have hgone := ((leaveRun_calm s t).trans (dropSlice_calm _ t)).trans (removed_calm _ t)
    split
    · exact ite_keeps (Calm s) (hgone.andThen rfl) (hgone.andThen rfl)
    · exact hgone.trans ((releaseSlot_calm ..).after rfl)
    · exact hgone.andThen rfl

theorem endAttempt_calm (k : Nat) (x : Task) (phase : TaskPhase) : Calm s (s.endAttempt k x phase) := by
  unfold State.endAttempt
  split
  · exact (removeThread_calm s _ _).andThen rfl
  · exact .of_part rfl

theorem resetTask_calm (k : Nat) (phase : TaskPhase) (now : Bool) : Calm s (s.resetTask k phase now) := by
  unfold State.resetTask
  split
  · exact .refl s
  · exact ite_keeps (Calm s) (.of_part rfl) (endAttempt_calm ..)

theorem discardTask_calm (k : Nat) (now : Bool) : Calm s (s.discardTask k now) := by
  unfold State.discardTask
  split
  · exact .refl s
  · refine ite_keeps (Calm s) (.of_part rfl) ?_
    split
    · exact (removeThread_calm s _ _).andThen rfl
    · exact .of_part rfl

theorem discardChild_calm (k : Nat) (now : Bool) : Calm s (s.discardChild k now) := by
  unfold State.discardChild
  split
  · exact .refl s
  · exact .trans (ite_keeps (Calm s) (.refl s) (countEvent_calm ..)) (discardTask_calm ..)

theorem abortTask_calm (k : Nat) (phase : TaskPhase) (src : Nat) (own all : Bool) :
    Calm s (s.abortTask k phase src own all) := by
  unfold State.abortTask
  split
  · exact .refl s
  · refine ite_keeps (Calm s) (.refl s) ?_
    refine ((countEvent_calm s ..).trans (.foldl _ _ fun a j => discardChild_calm a j all)).trans (.foldl _ _ fun a j => ?_)
    exact ite_keeps (Calm a) (.refl a)
      (ite_keeps (Calm a) (resetTask_calm ..) ((countEvent_calm ..).trans (resetTask_calm ..)))

theorem conflict_calm (ks : List Nat) (e : Nat × Task) : Calm s (s.conflict ks e) := by
  unfold State.conflict
  refine ite_keeps (Calm s) (.refl s) (.trans (ite_keeps (Calm s) (.refl s) ?_) (abortTask_calm ..))
  exact (countEvent_calm ..).after rfl

/-- Changing entries in place changes what each holds. -/
theorem Table.get?_map_entries {α : Type} (t : Table α) (f : Nat × α → Nat × α) (hk : ∀ c, (f c).1 = c.1) (n : Nat) :
    Table.get? (List.map f t) n = (t.get? n).map fun v => (f (n, v)).2 := by
  induction t with
  | nil => rfl
  | cons c r ih =>
    obtain ⟨k, v⟩ := c
    have h : f (k, v) = (k, (f (k, v)).2) := Prod.ext (hk _) rfl
    rw [List.map_cons, h, Table.get?, Table.get?, ih]
    split
    next he => subst he; rfl
    · rfl

/-- Noting causes of cruises alone. -/
theorem causes_calm (f : Nat × Cruise → Nat × Cruise) (hk : ∀ c, (f c).1 = c.1) (hf : ∀ c, (f c).2.still = c.2.still) :
    Calm s { s with cruises := s.cruises.map f } := by
  refine { Calm.of_part (t := { s with cruises := s.cruises }) (s := s) rfl with cruises := fun j => ?_ }
  show (Table.get? (List.map f s.cruises) j).map Cruise.still = _
  rw [Table.get?_map_entries _ f hk, Option.map_map]
  exact congrArg (fun g => Option.map g _) (funext fun v => hf (j, v))

/-- A cruise whose read set a write of granules has met (R346). -/
def metCruise (grans : List Nat) (c : Nat × Cruise) : Nat × Cruise :=
  if grans.any c.2.readGran.has then (c.1, c.2.cause 1) else c

theorem still_cause (c : Cruise) (b : W32) : (c.cause b).still = c.still := by unfold Cruise.cause; split <;> rfl

theorem metCruise_calm (grans : List Nat) : Calm s { s with cruises := s.cruises.map (metCruise grans) } := by
  refine causes_calm s _ (fun c => ?_) fun c => ?_
  · unfold metCruise; split <;> rfl
  · unfold metCruise; split
    · exact still_cause ..
    · rfl

theorem noteWrites_calm (ks : List Nat) (mine : Option Nat) : Calm s (s.noteWrites ks mine) :=
  (metCruise_calm s _).trans (.foldl _ _ fun a e => conflict_calm a ks e)

theorem cleanLine_calm (line : Nat) : Calm s (s.cleanLine line) := by
  unfold State.cleanLine
  exact ite_keeps (Calm s) (.refl s) (.of_part rfl)

theorem unitWrite_calm (pa : Nat) (bs : List Byte) (poison : Bool) : Calm s (s.unitWrite pa bs poison) :=
  (Calm.foldl _ _ cleanLine_calm).trans ((noteWrites_calm ..).after rfl)

/-! ### Records that waited -/

theorem setReg_calm (off : Nat) (v : W32) : Calm s (s.setReg off v) := .of_part rfl

theorem setRegN_calm (off v : Nat) : Calm s (s.setRegN off v) := .of_part rfl

theorem fqWrite_calm (part : Nat) (r : FRec) : Calm s (s.fqWrite part r) := (unitWrite_calm s ..).trans (setRegN_calm ..)

theorem flushFaults_calm (part n : Nat) : Calm s (s.flushFaults part n) := by
  induction n generalizing s with
  | zero => exact .refl s
  | succ n ih =>
    rw [State.flushFaults]
    refine ite_keeps (Calm s) (.refl s) ?_
    split
    · exact .refl s
    next k d _ _ =>
      refine .trans ?_ (ih _)
      split
      · exact (fqWrite_calm (s.modDie d fun x => { x with faultBuf := x.faultBuf.erase k }) ..).after rfl
      · exact .of_part rfl

theorem flushEvents_calm (part n : Nat) : Calm s (s.flushEvents part n) := by
  induction n generalizing s with
  | zero => exact .refl s
  | succ n ih =>
    rw [State.flushEvents]
    refine ite_keeps (Calm s) (.refl s) ?_
    split
    · exact .refl s
    · have hwrite := fun d e pa => (unitWrite_calm (s.modDie d fun x => { x with eventBuf := x.eventBuf.erase e }) pa e.2 false).after
        (s := s) rfl
      exact ite_keeps (Calm s) (.refl s) (((hwrite _ _ _).trans (setRegN_calm ..)).trans (ih _))

theorem flushLog_calm (n : Nat) : Calm s (s.flushLog n) := by
  induction n generalizing s with
  | zero => exact .refl s
  | succ n ih =>
    rw [State.flushLog]
    refine ite_keeps (Calm s) (.refl s) ?_
    split
    · exact .refl s
    · have hwrite := fun r pa e => (unitWrite_calm { s with pkg := { s.pkg with pfBuf := r } } pa e false).after (s := s) rfl
      exact ite_keeps (Calm s) (.refl s) (((hwrite _ _ _).trans (setRegN_calm ..)).trans (ih _))

theorem flushUnits_calm : Calm s s.flushUnits :=
  .trans (.foldl _ _ fun a p => (flushFaults_calm a p 257).trans (flushEvents_calm _ p 65)) (flushLog_calm _ _)

end

end Sys2Proof.Machine
end

section
/-!
SUPPORT. Fetching: the words at a PC, read through the executable pages of each; and the step of a unit that issues.
-/

namespace Sys2Proof.Machine
open Sys2Proof.Safety

namespace State

/-! ### The step that issues -/

theorem clocksStopped_pass (s : State) (turn : Turn) (later : List Turn) :
    (s.pass turn later).pkg.clocksStopped = s.pkg.clocksStopped := by
  have hn : s.noteReady.pkg = s.pkg := ite_keeps (fun x : State => x.pkg = s.pkg) rfl rfl
  exact (flushUnits_calm _).stopped.trans (congrArg (·.clocksStopped) hn)

theorem nextInstr_of_fetch {x : State} {r : Run} {u : Nat} {th : Thread} {bs rest : List Byte} {i : Instr}
    (hr : x.run? = some r) (hm : r.members.head? = some u) (hu : x.thread? u = some th)
    (hf : x.fetch u th.part r.pc = .bytes bs) (hd : decode bs = .ok (i, rest)) : x.nextInstr = some (.instr i) := by
  simp [nextInstr, nextAt, hr, hm, hu, hf, hd]

/-- With no parity failure in a row there is nothing to settle (R383). -/
theorem issued_of_noRetry {x : State} (i : Instr) (o : Host.Outcome State Fault Refusal)
    (h : x.pkg.retry.get? x.focus = none) : x.issued i o = o := by
  cases o <;> simp [issued, settleParity, Table.getD_def, h]

/-! ### Fetching words -/

/-- The word at an address of an executable cached page that the decoder delivers. -/
theorem fetchWord_cached {s : State} {t part va : Nat} {tr : Trans} (hon : bit (s.regN (transReg part 8)) 0 = true)
    (hr : regionOf va = .translated) (hc : s.cached t part va = some tr) (hh : tr.host = false) (hx : tr.x = true)
    (hl : s.lineBad ((tr.frame + (va - tr.base)) / 64) tr.key = false)
    (hp : s.mem.dramPoison.has ((tr.frame + (va - tr.base)) / 4) = false) :
    s.fetchWord t part va = .bytes (s.mem.dram.read (tr.frame + (va - tr.base)) 4) := by
  simp [fetchWord, hon, hr, hc, hh, hx, hl, hp]

/-- Words fetched one by one are their bytes in a row. -/
theorem fetchWords_of {s : State} {t part va : Nat} (w : Nat → List Byte) (n : Nat)
    (h : ∀ j < n, s.fetchWord t part (va + 4 * j) = .bytes (w j)) :
    s.fetchWords t part n va = .bytes ((List.range n).flatMap w) := by
  induction n generalizing va w with
  | zero => rfl
  | succ n ih =>
    have h0 := h 0 (by omega)
    have hs : ∀ j < n, s.fetchWord t part (va + 4 + 4 * j) = .bytes (w (j + 1)) := fun j hj => by
      rw [show va + 4 + 4 * j = va + 4 * (j + 1) by omega]
      exact h (j + 1) (by omega)
    simp only [Nat.mul_zero, Nat.add_zero] at h0
    rw [fetchWords, h0, ih (fun j => w (j + 1)) hs, List.range_succ_eq_map, List.flatMap_cons, List.flatMap_map]

theorem length_read (m : Memory) (a n : Nat) : (m.read a n).length = n := by simp [Memory.read]

/-- The first word of a byte string is that of its first four bytes. -/
theorem head_wordsOfBytes_append {a : List Byte} (b : List Byte) (h : a.length = 4) :
    (wordsOfBytes (a ++ b)).head? = (wordsOfBytes a).head? := by
  match a, h with
  | [_, _, _, _], _ => rfl

/-- A fetch whose first word names its length reads that many words. -/
theorem fetch_of {s : State} {t part : Nat} {pc : W64} {n : Nat} (w : Nat → List Byte) (hlen : (w 0).length = 4) (hn : 0 < n)
    (h : ∀ j < n, s.fetchWord t part (pc.toNat + 4 * j) = .bytes (w j))
    (hc : (wordsOfBytes ((List.range n).flatMap w)).head?.map wordCount = some n) :
    s.fetch t part pc = .bytes ((List.range n).flatMap w) := by
  have h0 := h 0 hn
  have hhead : (wordsOfBytes ((List.range n).flatMap w)).head? = (wordsOfBytes (w 0)).head? := by
    obtain ⟨m, rfl⟩ : ∃ m, n = m + 1 := ⟨n - 1, by omega⟩
    rw [List.range_succ_eq_map, List.flatMap_cons, head_wordsOfBytes_append _ hlen]
  rw [hhead] at hc
  obtain ⟨w0, hw0, hcount⟩ := Option.map_eq_some_iff.1 hc
  obtain ⟨ws, hws⟩ := List.head?_eq_some_iff.1 hw0
  simp only [Nat.mul_zero, Nat.add_zero] at h0
  rw [fetch, h0]
  simp only [hws, hcount]
  exact fetchWords_of w n h

end State

end Sys2Proof.Machine
end

section
namespace Sys2Proof.Proofs
open Sys2Proof Sys2Proof.Machine Sys2Proof.Safety

/-- The step at which a unit issues is the issue of the state the turn's time leaves, with that unit in focus. -/
theorem step_issues {s x : State}
    (h : (s.turns = [] ∧ s.pkg.clocksStopped = false ∧ x = s) ∨
      (∃ turn later e, s.turns = turn :: later ∧ turn.act = .issue e ∧ s.pkg.clocksStopped = false ∧
        x = { s.pass turn later with focus := e })) : step s = issueStep x := by
  rcases h with ⟨ht, hc, rfl⟩ | ⟨turn, later, e, ht, ha, hc, rfl⟩
  · simp [step, ht, hc]
  · simp [step, ht, ha, State.clocksStopped_pass, hc]

/-- Settles O56, from what a fetch reads and what a step does with the instruction it decodes to. -/
theorem stepRunsInstruction : Obligations.StepRunsInstruction := by
  refine ⟨fun s x r u th bs rest i hx hr hm hu hf hd => ?_, fun s u part n pc page hon hn h hc => ?_⟩
  · have hstep : step s = if x.sliceBorder i then .next x.endSlice else x.issued i (exec i x) := by
      rw [step_issues hx, issueStep, State.nextInstr_of_fetch hr hm hu hf hd]
    refine ⟨fun hb => ?_, fun hb => ?_, fun hb hretry => ?_⟩
    · rw [hstep, if_pos hb]
    · rw [hstep, if_neg (by simp [hb])]
    · rw [hstep, if_neg (by simp [hb]), State.issued_of_noRetry i _ hretry]
  · refine State.fetch_of (fun j => s.mem.dram.read ((page j).frame + (pc.toNat + 4 * j - (page j).base)) 4)
      (State.length_read ..) hn (fun j hj => ?_) hc
    obtain ⟨hreg, hcache, hhost, hexec, hline, hpoison⟩ := h j hj
    exact State.fetchWord_cached hon hreg hcache hhost hexec hline hpoison

end Sys2Proof.Proofs
end

section
/-!
SUPPORT. Filing (01 R19-R27): what leaving a home makes of a thread, which pocket the gatherer chooses, and where a thread that is
being filed may come to stand. A thread that has been filed only ever changes its home, to its pocket, the wave queue or the
pocket list of the stand.
-/

namespace Sys2Proof.Machine
open Sys2Proof.Safety

theorem Calm.launchId {s s' : State} (h : Calm s s') (l : Nat) : s'.launchId l = s.launchId l := by
  have := congrArg (Option.map Launch.id) (h.launches l)
  simp only [Option.map_map] at this
  exact congrArg (fun o : Option Nat => o.getD 0) this

namespace State

variable {s : State} {t n : Nat} {th : Thread}

/-! ### Releasing a slot -/

theorem thread?_syncWatch (s : State) (l w : Nat) (b : Bool) (v : Nat) : (s.syncWatch l w b).thread? v = s.thread? v := by
  unfold syncWatch; split <;> rfl

theorem syncWatch_stands (s : State) (l w : Nat) (b : Bool) : (s.syncWatch l w b).stands = s.stands := by
  unfold syncWatch; split <;> rfl

theorem thread?_setStatus_of_ne (s : State) {t v : Nat} (st : Status) (h : v ≠ t) :
    (s.setStatus t st).thread? v = s.thread? v := by
  unfold setStatus
  split
  · rfl
  · exact (thread?_syncWatch ..).trans ((thread?_setThread ..).trans (if_neg h))

theorem setStatus_stands (s : State) (t : Nat) (st : Status) : (s.setStatus t st).stands = s.stands := by
  unfold setStatus
  split
  · rfl
  · exact syncWatch_stands ..

theorem releaseSlot_stands (s : State) (e i : Nat) : (s.releaseSlot e i).stands = s.stands := by
  unfold releaseSlot syncRelease
  refine ite_keeps (fun x : State => x.stands = s.stands) rfl (ite_keeps (fun x : State => x.stands = s.stands) ?_ rfl)
  exact foldl_keeps (fun x : State => x.stands = s.stands) _ _ s rfl fun a u ha => (setStatus_stands a u .ready).trans ha

/-- Releasing a slot leaves a thread alone that does not wait at SYNCW (R18, R19). -/
theorem thread?_releaseSlot (e i : Nat) (h : s.thread? t = some th) (hst : th.status ≠ .syncw) :
    (s.releaseSlot e i).thread? t = some th := by
  unfold releaseSlot syncRelease
  refine ite_keeps (fun x : State => x.thread? t = some th) h ?_
  dsimp only
  split
  next hall =>
    have hnot : t ∉ s.groupThreads (waveKey e) i := fun hm => by
      have := List.all_eq_true.1 hall t hm
      simp [h] at this
      exact hst this
    generalize s.groupThreads (waveKey e) i = ts at hnot
    clear hall
    induction ts generalizing s with
    | nil => exact h
    | cons a r ih =>
      simp only [List.mem_cons, not_or] at hnot
      exact ih (by rw [thread?_setStatus_of_ne s .ready hnot.1]; exact h) hnot.2
  · exact h

/-! ### Leaving a home -/

theorem leaveRun_stands (s : State) (t : Nat) : (s.leaveRun t).stands = s.stands := (congrArg State.stands (leaveRun_engines s t) :)

/-- A thread that has left its context or lane to be filed at a PC (R26). -/
def leaving (s : State) (pc : W64) (th : Thread) : Thread :=
  Thread.dropCand
    { th with home := .queued th.home.stand, pc := pc, k := [], mb := [], oq := [], carry := false, lastPage := none
              held := .none, gs := [], filed := s.clock.arith, status := .ready
              signed := th.signed.filter (fun k _ => decide (16 ≤ k)) }

/-- A thread's queued guarded commands have taken its slots with them, where it leaves a scalar context (R222). -/
def guardsTaken (s : State) (h : Home) : State :=
  match h with
  | .scalar c x => s.resolveGuards c x
  | _ => s

theorem guardsTaken_frame (s : State) (h : Home) : { s.guardsTaken h with clusters := s.clusters } = s := by
  cases h <;> rfl

/-- The slot of a home that a thread has left is released where nobody lives in it any more (R19). -/
def slotReleased (s : State) (h : Home) : State :=
  match h with
  | .wave e i _ => s.releaseSlot e i
  | _ => s

theorem thread?_slotReleased (h : Home) (ht : s.thread? t = some th) (hst : th.status ≠ .syncw) :
    (s.slotReleased h).thread? t = some th := by
  unfold slotReleased
  split
  · exact thread?_releaseSlot _ _ ht hst
  · exact ht

theorem slotReleased_stands (s : State) (h : Home) : (s.slotReleased h).stands = s.stands := by
  unfold slotReleased
  split
  · exact releaseSlot_stands ..
  · rfl

theorem slotReleased_calm (s : State) (h : Home) : Calm s (s.slotReleased h) := by
  unfold slotReleased
  split
  · exact releaseSlot_calm ..
  · exact .refl s

/-- What leaving a home does: the thread is out of its run, and its slot may be released. -/
theorem leaveHome_eq (h : s.thread? t = some th) (pc : W64) :
    s.leaveHome t pc =
      (((s.leaveRun t).guardsTaken th.home).setThread t (s.leaving pc th)).slotReleased th.home := by
  have hc : (s.leaveRun t).clock = s.clock := (congrArg State.clock (leaveRun_engines s t) :)
  unfold leaveHome
  simp only [h]
  cases hh : th.home <;> simp only [hh, guardsTaken, leaving, ← hc] <;> rfl

theorem thread?_leaveHome (h : s.thread? t = some th) (pc : W64) : (s.leaveHome t pc).thread? t = some (s.leaving pc th) := by
  rw [leaveHome_eq h]
  exact thread?_slotReleased _ ((thread?_setThread ..).trans (if_pos rfl)) (by simp [leaving, Thread.dropCand])

theorem leaveHome_stands (h : s.thread? t = some th) (pc : W64) : (s.leaveHome t pc).stands = s.stands := by
  rw [leaveHome_eq h, slotReleased_stands]
  exact (congrArg State.stands (guardsTaken_frame (s.leaveRun t) th.home) :).trans (leaveRun_stands s t)

theorem leaveHome_calm (h : s.thread? t = some th) (pc : W64) : Calm s (s.leaveHome t pc) := by
  have hg : Calm s ((s.leaveRun t).guardsTaken th.home) :=
    (leaveRun_calm s t).andThen (congrArg calmPart (guardsTaken_frame (s.leaveRun t) th.home) :)
  have hth : ((s.leaveRun t).guardsTaken th.home).thread? t = some th := by
    rw [← h, ← (leaveRun_engines s t).thread? t]
    exact (congrArg (fun x : State => x.thread? t) (guardsTaken_frame (s.leaveRun t) th.home) :)
  rw [leaveHome_eq h]
  exact (hg.trans (.setThread _ t (s.leaving pc th) hth rfl rfl)).trans (slotReleased_calm ..)

/-! ### The pocket the gatherer chooses -/

theorem pocketFor_congr {s s' : State} {n : Nat} (hp : (s'.stand n).pockets = (s.stand n).pockets)
    (hl : ∀ l, s'.launchId l = s.launchId l) (l w : Nat) (pc : W64) : s'.pocketFor n l w pc = s.pocketFor n l w pc := by
  unfold pocketFor
  rw [hp, hl]

/-! ### A filed thread changes its home alone -/

/-- A thread is as `th` says but for its home, which is one of `P`. -/
def HomedIn (s : State) (t : Nat) (th : Thread) (P : Home → Prop) : Prop := ∃ h, s.thread? t = some { th with home := h } ∧ P h

variable {P : Home → Prop}

theorem HomedIn.congr {s s' : State} (h : s'.thread? t = s.thread? t) (hs : s.HomedIn t th P) : s'.HomedIn t th P := by
  obtain ⟨x, hx, hp⟩ := hs
  exact ⟨x, h.trans hx, hp⟩

theorem HomedIn.modThread {u : Nat} {x : Home} (h : s.HomedIn t th P) (hx : u = t → P x) :
    (s.modThread u fun th => { th with home := x }).HomedIn t th P := by
  obtain ⟨y, hy, hp⟩ := h
  by_cases hu : t = u
  · exact ⟨x, by rw [thread?_modThread, if_pos hu, hy]; rfl, hx hu.symm⟩
  · exact ⟨y, by rw [thread?_modThread, if_neg hu, hy], hp⟩

theorem releasePocket_homed (j : Nat) (hq : P (.queued n)) (h : s.HomedIn t th P) : (s.releasePocket n j).HomedIn t th P := by
  unfold releasePocket
  split
  · exact h
  · refine ite_keeps (fun x : State => x.HomedIn t th P) h ?_
    exact foldl_keeps (fun x : State => x.HomedIn t th P) _ _ _ (h.congr rfl) fun a u ha => ha.modThread fun _ => hq

theorem joinPocket_homed {u : Nat} (j l w : Nat) (pc : W64) (hq : P (.queued n)) (hj : u = t → P (.pocket n j))
    (h : s.HomedIn t th P) : (s.joinPocket n j u l w pc).HomedIn t th P := by
  unfold joinPocket
  exact ite_keeps (fun x : State => x.HomedIn t th P) (releasePocket_homed j hq ((h.modThread hj).congr rfl))
    ((h.modThread hj).congr rfl)

theorem placeInPocket_homed {u : Nat} (l w : Nat) (pc : W64) (hq : P (.queued n)) (hu : u = t → (∀ j, P (.pocket n j)) ∧ P (.plist n))
    (h : s.HomedIn t th P) : (s.placeInPocket n u l w pc).HomedIn t th P := by
  unfold placeInPocket
  split
  next j _ => exact joinPocket_homed j l w pc hq (fun he => (hu he).1 j) h
  · exact (h.modThread fun he => (hu he).2).congr rfl

/-! ### The pocket list while it empties -/

theorem stand_foldl_modThread (l : List Nat) (G : Nat → Thread → Thread) (s : State) (n : Nat) :
    (l.foldl (fun s u => s.modThread u (G u)) s).stand n = s.stand n :=
  (congrArg (fun x : State => x.stand n) (foldl_modThread_threads l G s) :)

theorem plist_modStand (s : State) (n : Nat) {f : Stand → Stand} (h : ∀ x, (f x).plist = x.plist) :
    ((s.modStand n f).stand n).plist = (s.stand n).plist := by
  rw [stand_modStand, if_pos rfl, h]

theorem releasePocket_plist (s : State) (n j : Nat) : ((s.releasePocket n j).stand n).plist = (s.stand n).plist := by
  unfold releasePocket
  split
  · rfl
  · refine ite_keeps (fun x : State => (x.stand n).plist = (s.stand n).plist) rfl ?_
    rw [stand_foldl_modThread _ fun _ th => { th with home := .queued n }]
    rw [queueWave, plist_modStand, plist_modStand] <;> exact fun _ => rfl

theorem joinPocket_plist (s : State) (n j u l w : Nat) (pc : W64) :
    ((s.joinPocket n j u l w pc).stand n).plist = (s.stand n).plist := by
  have hjoin (f : Stand → Stand) (g : Thread → Thread) (h : ∀ x, (f x).plist = x.plist) :
      (((s.modThread u g).modStand n f).stand n).plist = (s.stand n).plist := plist_modStand (s.modThread u g) n h
  unfold joinPocket
  exact ite_keeps (fun x : State => (x.stand n).plist = (s.stand n).plist)
    ((releasePocket_plist ..).trans (hjoin _ _ fun _ => rfl)) (hjoin _ _ fun _ => rfl)

theorem mem_plist_placeInPocket {u v : Nat} (l w : Nat) (pc : W64) (h : v ∈ ((s.placeInPocket n u l w pc).stand n).plist) :
    v ∈ (s.stand n).plist ∨ v = u := by
  unfold placeInPocket at h
  split at h
  · rw [joinPocket_plist] at h; exact .inl h
  · rw [stand_modStand, if_pos rfl] at h
    exact (List.mem_append.1 h).imp id List.mem_singleton.1

theorem refillPockets_homed (hq : P (.queued n)) (hu : t ∈ (s.stand n).plist → (∀ j, P (.pocket n j)) ∧ P (.plist n))
    (fuel : Nat) (h : s.HomedIn t th P) : (s.refillPockets n fuel).HomedIn t th P := by
  induction fuel generalizing s with
  | zero => exact h
  | succ m ih =>
    rw [refillPockets]
    split
    · exact h
    next u hr =>
      have hmem : u ∈ (s.stand n).plist := List.mem_of_find?_eq_some hr
      split
      · exact h
      · refine ih (fun hm => ?_) (placeInPocket_homed _ _ _ hq (fun he => hu (he ▸ hmem)) (h.congr rfl))
        rcases mem_plist_placeInPocket _ _ _ hm with hm | rfl
        · rw [stand_modStand, if_pos rfl] at hm
          exact hu (List.mem_of_mem_erase hm)
        · exact hu hmem

theorem refill_homed (hq : P (.queued n)) (hu : t ∈ (s.stand n).plist → (∀ j, P (.pocket n j)) ∧ P (.plist n))
    (h : s.HomedIn t th P) : (s.refill n).HomedIn t th P := refillPockets_homed hq hu _ h

/-! ### Where a filed thread stands -/

/-- Where a filed thread may stand: the pocket chosen for it or the wave queue; where none was, any place of the gatherer. -/
def filedHome (n : Nat) (choice : Option Nat) (h : Home) : Prop :=
  match choice with
  | some j => h = .pocket n j ∨ h = .queued n
  | none => (∃ j, h = .pocket n j) ∨ h = .queued n ∨ h = .plist n

theorem filedHome_queued (n : Nat) (choice : Option Nat) : filedHome n choice (.queued n) := by
  cases choice with
  | none => exact .inr (.inl rfl)
  | some j => exact .inr rfl

theorem placed_homed {x : State} {l w : Nat} {pc : W64} (h : x.thread? t = some th) (hnot : t ∉ (x.stand n).plist) :
    ((x.placeInPocket n t l w pc).refill n).HomedIn t th (filedHome n (x.pocketFor n l w pc)) := by
  have hq := filedHome_queued n (x.pocketFor n l w pc)
  cases hc : x.pocketFor n l w pc with
  | none =>
    rw [hc] at hq
    have hall : (∀ j, filedHome n none (.pocket n j)) ∧ filedHome n none (.plist n) :=
      ⟨fun j => .inl ⟨j, rfl⟩, .inr (.inr rfl)⟩
    refine refill_homed hq (fun _ => hall) ?_
    rw [placeInPocket, hc]
    exact ⟨.plist n, (thread?_modThread ..).trans ((if_pos rfl).trans (congrArg _ h)), hall.2⟩
  | some j =>
    rw [hc] at hq
    have hjoin : (x.joinPocket n j t l w pc).HomedIn t th (filedHome n (some j)) := by
      have hin : (x.modThread t fun th => { th with home := .pocket n j }).HomedIn t th (filedHome n (some j)) :=
        ⟨.pocket n j, (thread?_modThread ..).trans ((if_pos rfl).trans (congrArg _ h)), .inl rfl⟩
      unfold joinPocket
      exact ite_keeps (fun y : State => y.HomedIn t th (filedHome n (some j))) (releasePocket_homed j hq (hin.congr rfl))
        (hin.congr rfl)
    have hp : x.placeInPocket n t l w pc = x.joinPocket n j t l w pc := by rw [placeInPocket, hc]
    rw [hp]
    refine refill_homed hq (fun hm => ?_) hjoin
    rw [joinPocket_plist] at hm
    exact absurd hm hnot

end State

end Sys2Proof.Machine
end

section
/-!
SUPPORT. Sending (06 R157-R160): the message an instruction makes, what asking for its place leaves, and what its completion
makes of a thread.
-/

namespace Sys2Proof.Machine
open Sys2Proof.Safety

namespace State

variable {s s' : State} {k : Ins} {u : Nat}

theorem perform_eq_concluded (s : State) (sem : Sem) (k : Ins) (lead : Nat) (go : List Nat) :
    s.perform sem k lead go = concluded s k go (sem.act k lead go (s.advance k)) := rfl

/-! ### The message -/

theorem messageOf_makeMsg {th : Thread} (hs : s.thread? u = some th) (id : Nat) : MessageOf s k u th (s.makeMsg k u id) := by
  refine ⟨rfl, rfl, ?_, ?_, ?_, rfl, rfl, rfl, ?_, ?_, ?_, ?_⟩
  · simp [makeMsg, hs]
  · simp [makeMsg, hs]
  · simp [makeMsg, hs]
  · simp [makeMsg]
  · simp [makeMsg]
  · simp [makeMsg, payload]
  · by_cases h : k.op = .sendb
    · simp [makeMsg, h, readBarge, bargeSpan, bits]
    · simp [makeMsg, h]

theorem Agree.makeMsg (h : Agree s s' u) (id : Nat) : s'.makeMsg k u id = s.makeMsg k u id := by
  have hread := h.readReg k .c .g
  have hpay : s'.payload k u = s.payload k u := by simp [payload, hread]
  have hth : (s'.thread? u).map (fun th => (th.part, th.launch, th.wg)) = (s.thread? u).map fun th => (th.part, th.launch, th.wg) :=
    h.get _ fun _ => rfl
  have hout : s'.pkgId = s.pkgId ∧ ∀ c o n, s'.readBarge c o n = s.readBarge c o n := by
    obtain ⟨T, rfl⟩ := h.outside
    exact ⟨rfl, fun _ _ _ => rfl⟩
  unfold State.makeMsg msgTarget
  rw [h.srcVal, h.srcVal, h.srcVal, h.wordB, h.homeOf, hpay, hout.1]
  simp only [hout.2]
  rcases h.cases with ⟨h1, h2⟩ | ⟨th, pc, h1, h2⟩ <;> simp [h1, h2]

theorem regsVal_nextId (s : State) (m : Nat) (i : Ins) (q : Fld) (f : RFile) (idx n : Nat) :
    ({ s with nextId := m } : State).regsVal u i q f idx n = s.regsVal u i q f idx n := by
  induction n generalizing idx with
  | zero => rfl
  | succ n ih => rw [regsVal, regsVal, ih]; rfl

theorem srcVal_nextId (s : State) (m : Nat) (i : Ins) (f : Fld) :
    ({ s with nextId := m } : State).srcVal u i f = s.srcVal u i f := by
  unfold srcVal
  simp only [regsVal_nextId]
  rfl

theorem makeMsg_nextId (s : State) (m id : Nat) : ({ s with nextId := m } : State).makeMsg k u id = s.makeMsg k u id := by
  unfold makeMsg
  simp only [srcVal_nextId]
  rfl

/-! ### Asking for a place -/

/-- The limit of a SEND.T (R158). -/
def sendLimit (s : State) (k : Ins) (u : Nat) : Option Nat :=
  if k.op == .sendT then some (s.gtc + (s.wordB u k).toNat / 65536 * 16) else none

/-- A thread has asked for its message's place (R37). -/
def asked (s : State) (k : Ins) (u : Nat) : State :=
  { s with nextId := s.nextId + 1, outbound := s.outbound.put u (s.makeMsg k u s.nextId) }.modThread u fun th =>
    { th with held := .asking s.nextId (s.sendLimit k u) }

theorem thread?_asked (s : State) (k : Ins) (u v : Nat) :
    (s.asked k u).thread? v =
      if v = u then (s.thread? v).map (fun th => { th with held := .asking s.nextId (s.sendLimit k u) }) else s.thread? v :=
  thread?_modThread ..

theorem askPlace_fresh {th : Thread} (hs : s.thread? u = some th) (htask : th.taskOf = none) (hheld : th.held = .none)
    (hop : k.op ≠ .sendb) (ht : s.targetOk th.part (s.srcVal u k .a) = true) : askPlace k s u = s.asked k u := by
  have hm := makeMsg_nextId (k := k) (u := u) s (s.nextId + 1) s.nextId
  have hb : (k.op == .sendb) = false := by simpa using hop
  simp only [askPlace, hs, htask, hheld, hb, ht, Option.isSome_none, Bool.false_and, Bool.not_true, Bool.or_self,
    Bool.false_eq_true, if_false, fresh, hm, Option.getD_none]
  rfl

theorem run?_holdRun (s : State) (lead : Nat) : (s.holdRun lead).run? = s.run?.map fun r => { r with lead := some lead } := by
  simp [run?, holdRun]

end State

/-- A send outside a task that has not asked yet waits for its place (R37). -/
theorem sendCheck_fresh {s : State} {k : Ins} {u : Nat} {th : Thread} (hs : s.thread? u = some th) (htask : th.taskOf = none)
    (hheld : th.held = .none) (hop : k.op ≠ .sendb) (hb : k.op = .spawn → s.srcVal u k .b % 4 = 0)
    (ht : s.targetOk th.part (s.srcVal u k .a) = true) : sendCheck k s u = .hold := by
  have h1 : (k.op == .sendb) = false := by simpa using hop
  have h2 : (k.op == .spawn && s.srcVal u k .b % 4 != 0) = false := by
    by_cases h : k.op = .spawn
    · simp [hb h]
    · simp [h]
  simp [sendCheck, hs, htask, hheld, h1, h2, ht]

/-- Outside a task a send goes on when its place has been granted, or its time is up. -/
theorem held_of_sendCheck {s : State} {k : Ins} {u : Nat} {th : Thread} (hs : s.thread? u = some th) (htask : th.taskOf = none)
    (h : sendCheck k s u = .ok) : th.held = .granted ∨ th.held = .gaveUp := by
  by_contra hn
  rw [not_or] at hn
  have h1 : (th.held == Held.granted) = false := by simpa using hn.1
  have h2 : (th.held == Held.gaveUp) = false := by simpa using hn.2
  simp only [sendCheck, hs, htask, h1, h2, Option.isNone_none, Option.isSome_none, Bool.or_self, Bool.and_false,
    Bool.false_eq_true, if_false] at h
  generalize (if (k.op == Op.sendb) = true then bargeCheck k s u else _) = own at h
  by_cases ho : own = .ok
  · simp only [ho, bne_self_eq_false, Bool.false_eq_true, if_false] at h
    split at h <;> simp at h
  · simp [ho] at h

/-- A thread whose send completes (R158). -/
def Thread.sendDone (k : Ins) (th : Thread) : Thread :=
  if k.op = .sendT then { th with held := Held.none }.writeP k.d (th.held == Held.granted) else { th with held := .none }

theorem sent_outside_task {s : State} {k : Ins} {u : Nat} (h : ∀ th, s.thread? u = some th → th.taskOf = none) :
    State.sent k s u = s.modThread u (Thread.sendDone k) := by
  unfold State.sent
  cases hs : s.thread? u with
  | none =>
    have : s.threads.get? u = none := hs
    simp [State.modThread, Table.mod, this]
  | some th =>
    simp only [h th hs]
    by_cases ho : k.op = .sendT
    · simp only [ho, beq_self_eq_true, if_true, State.writeDP, List.foldl_cons, List.foldl_nil, State.modThread_modThread]
      refine State.modThread_congr s u fun x hx => ?_
      rw [hs] at hx
      cases hx
      simp [Thread.sendDone, ho]
    · have : (k.op == .sendT) = false := by simpa using ho
      simp only [this, Bool.false_eq_true, if_false]
      refine State.modThread_congr s u fun x _ => ?_
      simp [Thread.sendDone, ho]

theorem sendDone_keeps (k : Ins) (th : Thread) :
    (th.sendDone k).home = th.home ∧ (th.sendDone k).oq = th.oq ∧ (th.sendDone k).sliced = th.sliced := by
  unfold Thread.sendDone
  split
  · have h := Thread.writeP_frame { th with held := Held.none } k.d (th.held == .granted)
    exact ⟨(congrArg Thread.home h :), (congrArg Thread.oq h :), (congrArg Thread.sliced h :)⟩
  · exact ⟨rfl, rfl, rfl⟩

theorem sendDone_frame (k : Ins) (th : Thread) : { th.sendDone k with held := th.held, p := th.p } = th := by
  unfold Thread.sendDone
  split
  · exact (congrArg (fun x : Thread => { x with held := th.held })
      (Thread.writeP_frame { th with held := Held.none } k.d (th.held == Held.granted)) :)
  · rfl

theorem sendDone_held (k : Ins) (th : Thread) : (th.sendDone k).held = .none := by
  unfold Thread.sendDone
  split
  · exact (congrArg Thread.held (Thread.writeP_frame { th with held := Held.none } k.d (th.held == Held.granted)) :)
  · rfl

/-! ### An instruction that holds its run -/

namespace State

variable {sem : Sem} {k : Ins} {s : State} {r : Run} {u : Nat}

/-- A lone thread whose check holds the run asks for what it needs, and the run stays at the instruction (R125). -/
theorem issueRun_holds (h : Reached sem k s r u [u]) (hsl : k.w.sl = false) (hc : sem.check k u s u = .hold)
    (hkeep : ∀ v, (s.thread? v).isSome = true → ((sem.prep k u [u] s).thread? v).isSome = true) :
    s.issueRun sem k r = ((sem.prep k u [u] s).holdRun u).endHeld u k [u] := by
  have hsrc := h.2.2.2.2.2.2.1 u (by simp)
  have hgc : gatherChecks sem k s (some u) true [u] = { holds := [u] } := by
    simp at hsrc
    simp [gatherChecks, operandCheck, hsrc, hc]
  rw [issueRun_reached h, hgc]
  simp [afterChecks, fitParks, splitTraps, hsl, settle, parkAll, torn_of_kept hkeep]

/-- A launch that goes on leaves its held run as it is. -/
theorem endHeld_going {th : Thread} (i : Ins) (l : List Nat) (hs : s.thread? u = some th)
    (hp : ∀ x, s.launch? th.launch = some x → x.phase ≠ .dying ∧ x.phase ≠ .preempting) : s.endHeld u i l = s := by
  unfold endHeld
  cases hl : s.launch? th.launch with
  | none => simp [hs, hl]
  | some x =>
    obtain ⟨h1, h2⟩ := hp x hl
    simp only [hs, hl, Option.bind_some, Option.map_some]
    split <;> simp_all

end State

/-! ### POST -/

/-- The entries that do not read as a zero register. -/
def nonzero (t : Table Reg) : Table Reg := t.filter fun _ r => r.val != 0

theorem nonzero_cons (n : Nat) (v : W32) (t : Table Reg) :
    nonzero ((n, { val := v }) :: t) = if v = 0 then nonzero t else (n, { val := v }) :: nonzero t := by
  have h : nonzero ((n, { val := v }) :: t) = if (v != 0) = true then (n, { val := v }) :: nonzero t else nonzero t :=
    List.filter_cons (p := fun e : Nat × Reg => e.2.val != 0)
  rw [h]
  by_cases hv : v = 0 <;> simp [hv]

/-- Leaving out the entries that read as the default leaves every reading as it was. -/
theorem getD_nonzero (l : List Nat) (v : Nat → W32) (n : Nat) :
    (nonzero (l.map fun m => (m + 1, ({ val := v m } : Reg)))).getD n {} =
      if ∃ m ∈ l, m + 1 = n then { val := v (n - 1) } else {} := by
  induction l with
  | nil => rfl
  | cons a l ih =>
    rw [List.map_cons, nonzero_cons]
    by_cases ha : a + 1 = n
    · subst ha
      split
      next hv => rw [ih]; simp [hv]
      · simp [Table.getD_def, Table.get?]
    · have hiff : (∃ m ∈ a :: l, m + 1 = n) ↔ ∃ m ∈ l, m + 1 = n := by simp [ha]
      simp only [hiff, ← ih]
      split
      · rfl
      · simp [Table.getD_def, Table.get?, ha]

/-- Copies of the mailbox in a request's g1 to g8, and its poster in g9 (R23, R161). -/
def postRegs (th : Thread) (c x : Nat) : Table Reg :=
  (nonzero ((List.range 8).map fun n => (n + 1, { val := (th.readMb n).val }))).put 9 { val := BitVec.ofNat 32 (c + x * 2 ^ 18) }
/-- An emptied mailbox, whose values stay (R161). -/
def emptiedMb (th : Thread) : Table Reg :=
  (List.range 8).foldl (fun (mb : Table Reg) n => mb.put n { val := (th.readMb n).val, full := false }) []

theorem getD_postRegs (th : Thread) (c x n : Nat) :
    (postRegs th c x).getD n {} =
      if n = 9 then { val := BitVec.ofNat 32 (c + x * 2 ^ 18) }
      else if 1 ≤ n ∧ n ≤ 8 then { val := (th.readMb (n - 1)).val } else {} := by
  have hiff : (∃ m ∈ List.range 8, m + 1 = n) ↔ 1 ≤ n ∧ n ≤ 8 :=
    ⟨fun ⟨m, hm, he⟩ => by have := List.mem_range.1 hm; omega, fun h => ⟨n - 1, List.mem_range.2 (by omega), by omega⟩⟩
  have h := getD_nonzero (List.range 8) (fun m => (th.readMb m).val) n
  rw [Table.getD_def, postRegs, Table.get?_put]
  split
  · rfl
  · simp only [hiff] at h
    exact h

theorem get?_foldl_put (l : List Nat) (f : Nat → Reg) (t : Table Reg) {n : Nat} (h : n ∈ l) :
    (l.foldl (fun (mb : Table Reg) m => mb.put m (f m)) t).get? n = some (f n) := by
  have keep : ∀ (l : List Nat) (t : Table Reg), t.get? n = some (f n) →
      (l.foldl (fun (mb : Table Reg) m => mb.put m (f m)) t).get? n = some (f n) := fun l t ht =>
    foldl_keeps (fun t : Table Reg => t.get? n = some (f n)) _ l t ht fun t m ht => by
      rw [Table.get?_put]
      split
      next he => rw [he]
      · exact ht
  induction l generalizing t with
  | nil => simp at h
  | cons a l ih =>
    rcases List.mem_cons.1 h with rfl | h
    · exact keep l _ (by rw [Table.get?_put, if_pos rfl])
    · exact ih _ h

theorem readMb_emptied (th : Thread) {n : Nat} (h : n < 8) :
    (emptiedMb th).getD n {} = { val := (th.readMb n).val, full := false } := by
  rw [Table.getD_def, emptiedMb, get?_foldl_put _ (fun n => { val := (th.readMb n).val, full := false }) _ (List.mem_range.2 h)]
  rfl
/-- A request as POST makes it. -/
def request (s : State) (th : Thread) (t c x : Nat) (pc : W64) : Thread :=
  { part := th.part, launch := th.launch, wg := th.wg, home := .queued (coreStand c), pc := pc, g := postRegs th c x
    role := .request t, filed := s.clock.arith, unstarted := true, sc := s.gtc }

namespace State

variable {s : State} {k : Ins}

theorem issuePc_advance {r : Run} (k : Ins) (h : s.run? = some r) : (s.advance k).issuePc = r.pc := by
  have : (s.advance k).run? = s.run? := (congrArg State.run? (advance_threads k h) :)
  rw [issuePc, this, h]; rfl

theorem run?_countEvent (s : State) (unit src n : Nat) : (s.countEvent unit src n).run? = s.run? := by
  rw [run?, countEvent_focus]
  exact (congrArg Engine.run ((countEvent_spec s unit src n).engine s.focus) :)

/-- A stand's gatherer holds a thread, in a pocket, the wave queue or its list. -/
theorem HomedIn.gathered {t u n l w : Nat} {th : Thread} {pc : W64} (h : s.HomedIn t th (filedHome n none)) :
    ((s.placeInPocket n u l w pc).refill n).HomedIn t th (filedHome n none) := by
  have hall : (∀ j, filedHome n none (.pocket n j)) ∧ filedHome n none (.plist n) := ⟨fun j => .inl ⟨j, rfl⟩, .inr (.inr rfl)⟩
  have hq := filedHome_queued n none
  exact refill_homed hq (fun _ => hall) (placeInPocket_homed l w pc hq (fun _ => hall) h)

/-- Wherever a thread may stand, gathering others changes no more of it than its home. -/
theorem HomedIn.anywhere {t u n l w : Nat} {th : Thread} {pc : W64} (h : s.HomedIn t th fun _ => True) :
    ((s.placeInPocket n u l w pc).refill n).HomedIn t th fun _ => True :=
  refill_homed trivial (fun _ => ⟨fun _ => trivial, trivial⟩)
    (placeInPocket_homed l w pc trivial (fun _ => ⟨fun _ => trivial, trivial⟩) h)

/-- The state in which POST's request is gathered: its mailbox is empty, the request there. -/
def posted (s : State) (k : Ins) (u c x : Nat) (th : Thread) : State :=
  let a := (s.setThread u { th with mb := emptiedMb th }).countEvent s.focus 0x23 1
  { a with nextId := s.nextId + 1 }.setThread s.nextId (request s th u c x (s.ofsTarget k))

theorem fileNew_eq (a : State) (n : Nat) (th : Thread) :
    a.fileNew n th = (({ a with nextId := a.nextId + 1 }.setThread a.nextId
      { th with home := .queued n, filed := a.clock.arith, unstarted := true, sc := a.clock.gtc }).placeInPocket n a.nextId
        th.launch th.wg th.pc).refill n := rfl

theorem post_eq {u c x : Nat} {th : Thread} (hs : s.thread? u = some th) (hh : th.home = .scalar c x) :
    s.post k u =
      ((s.posted k u c x th).placeInPocket (coreStand c) s.nextId th.launch th.wg (s.ofsTarget k)).refill (coreStand c) := by
  have hhome : s.homeOf u = .scalar c x := by simp [homeOf, hs, hh]
  have hframe := (countEvent_spec (s.setThread u { th with mb := emptiedMb th }) s.focus 0x23 1).1
  have hrun := run?_countEvent (s.setThread u { th with mb := emptiedMb th }) s.focus 0x23 1
  have hpost : s.post k u = ((s.setThread u { th with mb := emptiedMb th }).countEvent s.focus 0x23 1).fileNew (coreStand c)
      { part := th.part, launch := th.launch, wg := th.wg, home := .plist 0
        pc := ((s.setThread u { th with mb := emptiedMb th }).countEvent s.focus 0x23 1).ofsTarget k, g := postRegs th c x
        role := .request u } := by
    simp only [post, hs, hhome]
    rfl
  rw [hpost, fileNew_eq, posted]
  generalize (s.setThread u { th with mb := emptiedMb th }).countEvent s.focus 0x23 1 = a at hframe hrun
  have hid : a.nextId = s.nextId := (congrArg State.nextId hframe :)
  have hclock : a.clock = s.clock := (congrArg State.clock hframe :)
  have htgt : a.ofsTarget k = s.ofsTarget k := by rw [ofsTarget, issuePc, hrun]; rfl
  rw [hid, hclock, htgt]
  rfl

theorem thread?_posted {u c x : Nat} {th : Thread} (k : Ins) (v : Nat) :
    (s.posted k u c x th).thread? v =
      if v = s.nextId then some (request s th u c x (s.ofsTarget k))
      else if v = u then some { th with mb := emptiedMb th } else s.thread? v := by
  have hframe := (countEvent_spec (s.setThread u { th with mb := emptiedMb th }) s.focus 0x23 1).1
  rw [posted, thread?_setThread]
  refine ite_congr rfl (fun _ => rfl) fun _ => ?_
  exact (congrArg (fun y : State => y.thread? v) hframe :).trans (thread?_setThread ..)

end State

end Sys2Proof.Machine
end

section
namespace Sys2Proof.Proofs
open Sys2Proof Sys2Proof.Machine Sys2Proof.Safety

/-- The meanings of SEND, SEND.T, SENDB and SPAWN differ in where they may stand alone (R158, R270). -/
theorem semOf_send {k : Ins} (h : k.op ∈ [Op.send, .sendT, .sendb, .spawn]) :
    (semOf k.op).check = sendSem.check ∧ (semOf k.op).act = sendSem.act ∧ (semOf k.op).prep = sendSem.prep ∧
      k.op.sliceable = false := by
  simp only [List.mem_cons, List.not_mem_nil, or_false] at h
  rcases h with h | h | h | h <;> rw [h] <;> exact ⟨rfl, rfl, rfl, rfl⟩

theorem exec_send_done (i : Instr) (k : Ins) (s : State) (r : Run) (lead : Nat) (go : List Nat) (hi : i.ins = some k)
    (hop : k.op ∈ [Op.send, .sendT, .sendb, .spawn]) (htask : ∀ u ∈ go, ∀ th, s.thread? u = some th → th.taskOf = none)
    (h : Clear (semOf k.op) k s r lead go) :
    ∃ t, exec i s = .next t ∧ { t with threads := s.threads, engines := s.engines } = s ∧
      Effect s t k r go fun _ th th' =>
        (th.held = .granted ∨ th.held = .gaveUp) ∧
        PastBut k r th th' (fun x => { x with held := th.held, p := th.p }) ∧ th'.held = .none ∧
        if k.op = .sendT then WroteP th th' k.d (th.held == .granted) else th'.p = th.p := by
  obtain ⟨hcheck, hact, -, hslice⟩ := semOf_send hop
  have hsl := sl_of_reached h.1 hslice
  refine ⟨_, exec_clear hi h, effect_of_threads (fun _ => Thread.sendDone k) 0 h.1 hsl (.inr ?_)
    (fun _ => sendDone_keeps k) fun u hu th th' hth he => ?_⟩
  · rw [hact]
    refine foldl_threads h.1 hsl (State.sent k) _ fun s' u hu ha => sent_outside_task fun th hth => ?_
    rcases ha.cases with ⟨-, h2⟩ | ⟨x, pc, h1, h2⟩
    · rw [hth] at h2; simp at h2
    · rw [hth] at h2
      cases h2
      exact htask u hu x h1
  · have hc := h.2.1 u hu
    rw [hcheck] at hc
    refine ⟨held_of_sendCheck hth (htask u hu th hth) hc, past_of_frame (fun _ => rfl) (fun _ => rfl) he ?_, ?_, ?_⟩
    · exact sendDone_frame k { th with pc := r.pc + BitVec.ofNat 64 k.len }
    · exact (congrArg Thread.held he :).trans (sendDone_held ..)
    · have hp : th'.p = _ := (congrArg Thread.p he :)
      split
      next ho =>
        refine wroteP_congr (x := th) (x' := th') rfl ?_ (wroteP_writeP th k.d (th.held == Held.granted))
        rw [hp, Thread.sendDone, if_pos ho]
        unfold Thread.writeP
        split <;> rfl
      next ho => rw [hp, Thread.sendDone, if_neg ho]

theorem exec_send_asks (i : Instr) (k : Ins) (s : State) (r : Run) (u : Nat) (th : Thread) (hi : i.ins = some k)
    (hop : k.op ∈ [Op.send, .sendT, .spawn]) (hs : s.thread? u = some th) (htask : th.taskOf = none) (hheld : th.held = .none)
    (h : Reached (semOf k.op) k s r u [u]) (ht : s.targetOk th.part (s.srcVal u k .a) = true)
    (hb : k.op = .spawn → s.srcVal u k .b % 4 = 0)
    (hl : ∀ l, s.launch? th.launch = some l → l.phase ≠ .dying ∧ l.phase ≠ .preempting) :
    ∃ t m, exec i s = .next t ∧ t.outbound = s.outbound.put u m ∧ MessageOf s k u th m ∧ m.seq = s.nextId ∧
      (t.thread? u).map Thread.held = some (.asking s.nextId
        (if k.op = .sendT then some (s.gtc + (s.wordB u k).toNat / 65536 * 16) else none)) ∧
      t.run?.map Run.pc = some r.pc := by
  have hop' : k.op ∈ [Op.send, .sendT, .sendb, .spawn] := by
    simp only [List.mem_cons, List.not_mem_nil, or_false] at hop ⊢
    tauto
  have hnb : k.op ≠ .sendb := by
    rintro e
    simp [e] at hop
  obtain ⟨hcheck, -, hprep, hslice⟩ := semOf_send hop'
  have hask := State.askPlace_fresh hs htask hheld hnb ht
  have hprep' : (semOf k.op).prep k u [u] s = State.askPlace k s u := by
    have : (k.op != .sendb) = true := by simpa using hnb
    rw [hprep]
    simp [sendSem, State.askers, this]
  have hx := State.issueRun_holds h (sl_of_reached h hslice)
    (by rw [hcheck]; exact sendCheck_fresh hs htask hheld hnb hb ht) (fun v hv => by
      rw [hprep', hask, State.thread?_asked]
      split
      · simpa using hv
      · exact hv)
  rw [hprep', hask] at hx
  have hth : (s.asked k u).thread? u = some { th with held := .asking s.nextId (s.sendLimit k u) } := by
    rw [State.thread?_asked, if_pos rfl, hs]; rfl
  have hrun : (s.asked k u).run? = some r := h.1
  refine ⟨(s.asked k u).holdRun u, s.makeMsg k u s.nextId, ?_, rfl, State.messageOf_makeMsg hs s.nextId, rfl, ?_, ?_⟩
  · have hgo := State.endHeld_going (s := (s.asked k u).holdRun u) k [u] hth hl
    rw [exec_eq_issue i k s hi, issue_of_run _ k h.1, hx, hgo]
  · have : ((s.asked k u).holdRun u).thread? u = _ := hth
    rw [this, Option.map_some, State.sendLimit]
    simp
  · rw [State.run?_holdRun, hrun]; rfl

theorem exec_send_task (i : Instr) (k : Ins) (s : State) (r : Run) (u j : Nat) (th : Thread) (hi : i.ins = some k)
    (hop : k.op ∈ [Op.send, .sendb, .spawn]) (hs : s.thread? u = some th) (htask : th.taskOf = some j)
    (h : Clear (semOf k.op) k s r u [u]) :
    ∃ m, MessageOf s k u th m ∧ exec i s = .next (concluded s k [u] { s.advance k with
      tasks := s.tasks.mod j fun x => { x with msgs := x.msgs ++ [m] } }) := by
  have hop' : k.op ∈ [Op.send, .sendT, .sendb, .spawn] := by
    simp only [List.mem_cons, List.not_mem_nil, or_false] at hop ⊢
    tauto
  obtain ⟨-, hact, -, -⟩ := semOf_send hop'
  have ha := State.agree_advance k h.1.1 u
  have htasks : (s.advance k).tasks = s.tasks := (congrArg State.tasks ha.1 :)
  refine ⟨s.makeMsg k u 0, State.messageOf_makeMsg hs 0, ?_⟩
  rw [exec_clear hi h, State.perform_eq_concluded, hact]
  rcases ha.cases with ⟨h1, -⟩ | ⟨x, pc, h1, h2⟩
  · rw [hs] at h1; simp at h1
  · rw [hs] at h1
    cases h1
    have ht : ({ th with pc := pc } : Thread).taskOf = some j := htask
    simp only [sendSem, List.foldl_cons, List.foldl_nil, State.sent, h2, ht, ha.makeMsg, htasks]

theorem exec_post (i : Instr) (k : Ins) (s : State) (r : Run) (u c x : Nat) (th : Thread) (hi : i.ins = some k)
    (hop : k.op = .post) (hs : s.thread? u = some th) (hh : th.home = .scalar c x) (hu : u < s.nextId)
    (h : Clear (semOf k.op) k s r u [u]) :
    ∃ y z q, exec i s = .next (concluded s k [u] y) ∧ y.thread? u = some z ∧ y.thread? s.nextId = some q ∧
      { z with pc := th.pc, mb := th.mb, home := th.home } = th ∧
      (∀ n < 8, z.readMb n = { val := (th.readMb n).val, full := false }) ∧
      q.part = th.part ∧ q.launch = th.launch ∧ q.wg = th.wg ∧ q.role = .request u ∧ q.unstarted = true ∧ q.status = .ready ∧
      q.pc = r.pc + BitVec.ofInt 64 (4 * k.ofs) ∧ q.filed = s.clock.arith ∧ q.sc = s.gtc ∧
      ((∃ j, q.home = .pocket (coreStand c) j) ∨ q.home = .queued (coreStand c) ∨ q.home = .plist (coreStand c)) ∧
      (∀ n < 8, q.readG (n + 1) = { val := (th.readMb n).val }) ∧ q.readG 9 = { val := BitVec.ofNat 32 (c + x * 2 ^ 18) } ∧
      ∀ n, 9 < n → q.readG n = {} := by
  have ha := State.agree_advance k h.1.1 u
  have htgt : (s.advance k).ofsTarget k = r.pc + BitVec.ofInt 64 (4 * k.ofs) := by
    rw [State.ofsTarget, State.issuePc_advance k h.1.1]
  have hid : (s.advance k).nextId = s.nextId := (congrArg State.nextId ha.1 :)
  have hclock : (s.advance k).clock = s.clock := (congrArg State.clock ha.1 :)
  obtain ⟨w, pc, hw, ha'⟩ : ∃ w pc, s.thread? u = some w ∧ (s.advance k).thread? u = some { w with pc := pc } := by
    rcases ha.cases with ⟨h1, -⟩ | h1
    · rw [hs] at h1; simp at h1
    · exact h1
  obtain rfl : th = w := Option.some.inj (hs.symm.trans hw)
  have hpost := State.post_eq (s := s.advance k) (k := k) ha' hh
  have hthread := State.thread?_posted (s := s.advance k) (u := u) (c := c) (x := x) (th := { th with pc := pc }) k
  rw [hid, htgt] at hthread hpost
  set b := (s.advance k).posted k u c x { th with pc := pc } with hb
  obtain ⟨hz, hzt, -⟩ : ((b.placeInPocket (coreStand c) s.nextId th.launch th.wg (r.pc + BitVec.ofInt 64 (4 * k.ofs))).refill
      (coreStand c)).HomedIn u { th with pc := pc, mb := emptiedMb th } fun _ => True :=
    State.HomedIn.anywhere ⟨th.home, (hthread u).trans ((if_neg (by omega)).trans (if_pos rfl)), trivial⟩
  obtain ⟨hq, hqt, hqh⟩ : ((b.placeInPocket (coreStand c) s.nextId th.launch th.wg (r.pc + BitVec.ofInt 64 (4 * k.ofs))).refill
      (coreStand c)).HomedIn s.nextId (request (s.advance k) { th with pc := pc } u c x (r.pc + BitVec.ofInt 64 (4 * k.ofs)))
        (State.filedHome (coreStand c) none) :=
    State.HomedIn.gathered ⟨.queued (coreStand c), (hthread s.nextId).trans (if_pos rfl), State.filedHome_queued ..⟩
  refine ⟨_, _, _, ?_, hzt, hqt, rfl, fun n hn => readMb_emptied th hn, rfl, rfl, rfl, rfl, rfl, rfl, rfl, ?_, ?_, hqh, ?_⟩
  · rw [exec_clear hi h, State.perform_eq_concluded, hop, ← hpost]; rfl
  · exact congrArg (·.arith) hclock
  · exact congrArg (·.gtc) hclock
  · have hg (n : Nat) (hn : n ≠ 0) : ({ request (s.advance k) { th with pc := pc } u c x (r.pc + BitVec.ofInt 64 (4 * k.ofs)) with
        home := hq } : Thread).readG n = (postRegs th c x).getD n {} := by rw [Thread.readG, if_neg hn]; rfl
    refine ⟨fun n hn => ?_, ?_, fun n hn => ?_⟩
    · rw [hg _ (by omega), getD_postRegs, if_neg (by omega), if_pos (by omega)]; rfl
    · rw [hg _ (by omega), getD_postRegs, if_pos rfl]
    · rw [hg _ (by omega), getD_postRegs, if_neg (by omega), if_neg (by omega)]

/-- Settles O26, from what asking for a place, its grant and the gathering of a request make of the threads. -/
theorem messagesSent : Obligations.MessagesSent := ⟨exec_send_done, exec_send_asks, exec_post, exec_send_task⟩

end Sys2Proof.Proofs
end

section
/-!
SUPPORT. Where REFORM and REFORM.S take a thread (01 R20, R26, R27).
-/

namespace Sys2Proof.Machine
open Sys2Proof.Safety

namespace State

variable {s : State} {t n : Nat} {th : Thread}

/-! ### Filing -/

/-- The choice of R20 in one expression: the hashed pocket, else the first behind it that fits, else the first free. -/
theorem pocketFor_eq (s : State) (n l w : Nat) (pc : W64) :
    s.pocketFor n l w pc =
      let ps := (s.stand n).pockets
      let h := Config.pocketHash (s.launchId l) w pc.toNat % 64
      let order := (List.range 63).map fun j => (h + 1 + j) % 64
      let fits (j : Nat) : Bool := (ps.get? j).any fun p =>
        p.launch == l && p.wg == w && p.pc == pc && decide (p.members.length < 32)
      let free (j : Nat) : Bool := (ps.get? j).isNone
      if fits h || free h then some h else (order.find? fits).orElse fun _ => order.find? free := by
  unfold pocketFor
  extract_lets ps h fits order _ fits' free
  have hfits : fits = fits' := funext fun j => by
    simp only [fits, fits']
    cases ps.get? j <;> rfl
  rw [hfits]
  split
  · rfl
  · cases order.find? fits' <;> rfl

/-- The thread as it is filed from its home to stand `n`: where it leaves its stand, with where it came from. -/
def filedFrom (s : State) (n : Nat) (pc : W64) (th : Thread) : Thread :=
  if th.home.stand = n then s.leaving pc th
  else { s.leaving pc th with moved := (th.home.stand, s.nextId) :: th.moved }

theorem filedFrom_frame (s : State) (n : Nat) (pc : W64) (th : Thread) :
    { s.filedFrom n pc th with moved := th.moved } = s.leaving pc th := by
  unfold filedFrom
  split <;> rfl

/-- The state in which the gatherer places a thread that has left its home. -/
theorem file_eq (h : s.thread? t = some th) (pc : W64) (hr : s.fileRoom n th.launch th.wg pc = true) :
    ∃ x : State, s.file t n pc = some ((x.placeInPocket n t th.launch th.wg pc).refill n) ∧
      x.thread? t = some (s.filedFrom n pc th) ∧ x.stands = s.stands ∧ ∀ l, x.launchId l = s.launchId l := by
  refine ⟨(s.leaveHome t pc).modThread t fun x =>
    if th.home.stand = n then x else { x with moved := (th.home.stand, s.nextId) :: x.moved }, ?_, ?_,
    leaveHome_stands h pc, (leaveHome_calm h pc).launchId⟩
  · simp only [file, h, hr, if_true]
  · rw [thread?_modThread, if_pos rfl, thread?_leaveHome h, Option.map_some, filedFrom]
    split <;> rfl

/-- A filed thread stands where R20 puts it and keeps what R26 says. -/
theorem file_homed (h : s.thread? t = some th) (hnot : t ∉ (s.stand n).plist) (pc : W64)
    (hr : s.fileRoom n th.launch th.wg pc = true) :
    ∃ y, s.file t n pc = some y ∧
      y.HomedIn t (s.filedFrom n pc th) (filedHome n (s.pocketFor n th.launch th.wg pc)) := by
  obtain ⟨x, hx, hth, hst, hl⟩ := file_eq h pc hr
  have hstand : x.stand n = s.stand n := by rw [stand, stand, hst]
  refine ⟨_, hx, ?_⟩
  rw [← pocketFor_congr (congrArg _ hstand) hl]
  exact placed_homed hth (by rw [hstand]; exact hnot)

theorem file_none (h : s.thread? t = some th) (pc : W64) (hr : s.fileRoom n th.launch th.wg pc = false) :
    s.file t n pc = none := by
  simp [file, h, hr]

/-! ### Migrating -/

theorem takeConstants_threads (s : State) (c l : Nat) : (s.takeConstants c l).1.threads = s.threads := by
  have hb : (s.broadcast c l).threads = s.threads := by
    unfold broadcast
    dsimp only
    refine foldl_keeps (fun x : State => x.threads = s.threads) _ _ _ rfl fun a w ha => ha
  unfold takeConstants
  split
  · split
    · rfl
    · split
      · rfl
      · exact hb
  · exact hb

/-- A wave thread that has moved into a scalar context (R26, R27). -/
def inContext (pc : W64) (c x : Nat) (th : Thread) : Thread :=
  Thread.dropCand
    { th with home := .scalar c x, pc := pc, g := th.g.filter (fun n _ => decide (n < 64)), k := [], mb := [], oq := [],
              carry := false, lastPage := none, held := .none, gs := [], qx := 0, status := .ready
              signed := th.signed.filter (fun k _ => decide (16 ≤ k)) }

theorem thread?_moveToContext (h : s.thread? t = some th) (c x : Nat) (pc : W64) :
    (s.moveToContext t c x pc).thread? t = some (inContext pc c x th) := by
  have heq : s.moveToContext t c x pc =
      (((s.leaveRun t).takeConstants c th.launch).1.setThread t (inContext pc c x th)).slotReleased th.home := by
    unfold moveToContext
    simp only [h]
    cases hh : th.home <;> simp only [inContext, slotReleased]
  rw [heq]
  exact thread?_slotReleased _ ((thread?_setThread ..).trans (if_pos rfl)) (by simp [inContext, Thread.dropCand])

theorem get?_filter_key {α : Type} (t : Table α) (q : Nat → Bool) (n : Nat) :
    (t.filter fun m _ => q m).get? n = if q n then t.get? n else none := by
  induction t with
  | nil => simp [Table.filter]
  | cons e r ih =>
    have hf : Table.filter (e :: r) (fun m _ => q m) = if q e.1 then e :: Table.filter r (fun m _ => q m)
        else Table.filter r fun m _ => q m :=
      List.filter_cons
    rw [hf]
    by_cases hn : e.1 = n
    · by_cases hm : q n = true
      · simp [hn, hm, Table.get?]
      · simp [hn, hm, ih]
    · split <;> simp [Table.get?, hn, ih]

theorem readG_inContext (pc : W64) (c x : Nat) (th : Thread) (j : Nat) :
    (inContext pc c x th).readG j = if j < 64 then th.readG j else {} := by
  have := get?_filter_key th.g (fun m => decide (m < 64)) j
  simp only [Thread.readG, inContext, Thread.dropCand, Table.getD_def, this]
  by_cases h0 : j = 0
  · simp [h0]
  · by_cases hj : j < 64 <;> simp [h0, hj]

theorem thread?_stayAt (h : s.thread? t = some th) (pc : W64) : (s.stayAt t pc).thread? t = some { th with pc := pc } := by
  rw [stayAt, thread?_modThread, if_pos rfl, (leaveRun_engines s t).thread? t, h]; rfl

end State

end Sys2Proof.Machine
end

section
namespace Sys2Proof.Proofs
open Sys2Proof Sys2Proof.Machine Sys2Proof.Safety

theorem exec_homes (i : Instr) (k : Ins) (s : State) (r : Run) (lead : Nat) (go : List Nat) (hi : i.ins = some k)
    (hop : k.op ∈ [Op.syncw, .reform, .reformS, .halt, .haltR]) (h : Clear (semOf k.op) k s r lead go) :
    exec i s = .next (concluded s k go (
      let a := s.advance k
      let target := r.pc + BitVec.ofInt 64 (4 * k.ofs)
      match k.op with
      | .syncw =>
        let x := go.foldl (fun x u => if (x.homeOf u).isWave then x.setStatus u .syncw else x) a
        match x.homeOf lead with
        | .wave e n _ => x.syncRelease e n
        | _ => x
      | .reform => go.foldl (fun x u =>
          match x.file u (x.homeOf u).stand target with
          | some y => y.countEvent y.focus 0x22 1
          | none => x.stayAt u r.pc) a
      | .reformS => go.foldl (fun x u =>
          if (x.homeOf u).isWave then x.migrate u target r.pc else x.modThread u fun th => { th with pc := target }) a
      | _ => (go.foldl (fun x u =>
          ((x.leaveRun u).modThread u fun th =>
            { th with successor := if k.op = .haltR then some ((x.wordB u k).toNat % 4096) else none }).setStatus u .halting)
          a).settleHalts)) := by
  have hpc := State.issuePc_advance k h.1.1
  have htgt : (s.advance k).ofsTarget k = r.pc + BitVec.ofInt 64 (4 * k.ofs) := by rw [State.ofsTarget, hpc]
  have hlead : go.head? = some lead := h.1.2.2.2.1
  rw [exec_clear hi h, State.perform_eq_concluded]
  refine congrArg (fun x => Host.Outcome.next (concluded s k go x)) ?_
  simp only [List.mem_cons, List.not_mem_nil, or_false] at hop
  rcases hop with hop | hop | hop | hop | hop
  · simp only [hop, semOf, syncwSem, hlead, Option.map_some]
    split <;> simp_all
  · simp only [hop, semOf, reformSem, hpc, htgt] <;> rfl
  · simp only [hop, semOf, reformSSem, hpc, htgt]
  · simp only [hop, semOf, haltSem]
  · simp only [hop, semOf, haltSem]

theorem file_thread (s : State) (t n : Nat) (pc : W64) (th : Thread) (h : s.thread? t = some th)
    (hnot : t ∉ (s.stand n).plist) :
    let ps := (s.stand n).pockets
    let h := Config.pocketHash (s.launchId th.launch) th.wg pc.toNat % 64
    let order := (List.range 63).map fun j => (h + 1 + j) % 64
    let fits (j : Nat) : Bool := (ps.get? j).any fun p =>
      p.launch == th.launch && p.wg == th.wg && p.pc == pc && decide (p.members.length < 32)
    let free (j : Nat) : Bool := (ps.get? j).isNone
    let choice := if fits h || free h then some h else (order.find? fits).orElse fun _ => order.find? free
    (choice = none → s.spillRoom n 0 = false → s.file t n pc = none) ∧
    (choice.isSome = true ∨ s.spillRoom n 0 = true → ∃ y th', s.file t n pc = some y ∧ y.thread? t = some th' ∧
      (∀ j, choice = some j → th'.home = .pocket n j ∨ th'.home = .queued n) ∧
      (choice = none → (∃ j, th'.home = .pocket n j) ∨ th'.home = .queued n ∨ th'.home = .plist n) ∧
      th'.pc = pc ∧ th'.g = th.g ∧ th'.p = th.p ∧ th'.fex = th.fex ∧ th'.fmode = th.fmode ∧ th'.rng = th.rng ∧
      th'.epc = th.epc ∧ th'.ecause = th.ecause ∧ th'.einfo = th.einfo ∧ th'.inTrap = th.inTrap ∧
      th'.filed = s.clock.arith ∧ th'.status = .ready ∧ th'.k = [] ∧ th'.mb = [] ∧ th'.oq = []) := by
  intro ps hsh order fits free choice
  have hchoice : s.pocketFor n th.launch th.wg pc = choice := State.pocketFor_eq ..
  clear_value choice
  refine ⟨fun hn hs => State.file_none h pc (by simp [State.fileRoom, hchoice, hn, hs]), fun hr => ?_⟩
  obtain ⟨y, hy, x, hx, hp⟩ := State.file_homed (n := n) h hnot pc (by simpa [State.fileRoom, hchoice] using hr)
  have hf := State.filedFrom_frame s n pc th
  rw [hchoice] at hp
  refine ⟨y, _, hy, hx, fun j hj => ?_, fun hn => ?_, (congrArg Thread.pc hf :), (congrArg Thread.g hf :),
    (congrArg Thread.p hf :), (congrArg Thread.fex hf :), (congrArg Thread.fmode hf :), (congrArg Thread.rng hf :),
    (congrArg Thread.epc hf :), (congrArg Thread.ecause hf :), (congrArg Thread.einfo hf :), (congrArg Thread.inTrap hf :),
    (congrArg Thread.filed hf :), (congrArg Thread.status hf :), (congrArg Thread.k hf :), (congrArg Thread.mb hf :),
    (congrArg Thread.oq hf :)⟩
  · rw [hj] at hp; exact hp
  · rw [hn] at hp; exact hp

theorem migrate_thread (s : State) (t e x : Nat) (lane : Nat) (tgt pc : W64) (th : Thread) (h : s.thread? t = some th)
    (hh : th.home = .wave e x lane) :
    let n := e / 2
    let free := (s.freeContexts n).drop (s.stand n).waitCtx.length
    ∃ th', (s.migrate t tgt pc).thread? t = some th' ∧
      th'.p = th.p ∧ th'.fex = th.fex ∧ th'.fmode = th.fmode ∧ th'.rng = th.rng ∧
      (∀ c, free.head? = some c → th'.home = .scalar c.1 c.2 ∧ th'.pc = tgt ∧ th'.k = [] ∧ th'.mb = [] ∧
        ∀ j, th'.readG j = if j < 64 then th.readG j else {}) ∧
      (free = [] → s.spillRoom n 0 = true → th'.home = .waitCtx n ∧ th'.pc = tgt ∧ th'.g = th.g) ∧
      (free = [] → s.spillRoom n 0 = false → th'.home = th.home ∧ th'.pc = pc ∧ th'.g = th.g) := by
  intro n free
  have hstand : (s.homeOf t).stand = n := by simp [State.homeOf, h, hh, Home.stand, n]
  have hfree' : (s.freeContexts n).drop (s.stand n).waitCtx.length = free := rfl
  clear_value free
  cases free with
  | cons c rest =>
    have hm : s.migrate t tgt pc = s.moveToContext t c.1 c.2 tgt := by simp only [State.migrate, hstand, hfree']
    rw [hm]
    refine ⟨_, State.thread?_moveToContext h c.1 c.2 tgt, rfl, rfl, rfl, rfl, fun d hd => ?_, nofun, nofun⟩
    obtain rfl : c = d := by simpa using hd
    exact ⟨rfl, rfl, rfl, rfl, State.readG_inContext tgt c.1 c.2 th⟩
  | nil =>
    cases hroom : s.spillRoom n 0 with
    | true =>
      have hm : s.migrate t tgt pc = ((s.leaveHome t tgt).modThread t fun th => { th with home := .waitCtx n }).modStand n
          fun x => { x with waitCtx := x.waitCtx ++ [t] } := by
        simp only [State.migrate, hstand, hfree', hroom, if_true]
      rw [hm]
      refine ⟨{ s.leaving tgt th with home := .waitCtx n }, ?_, rfl, rfl, rfl, rfl, nofun, fun _ _ => ⟨rfl, rfl, rfl⟩, nofun⟩
      exact (State.thread?_modThread ..).trans ((if_pos rfl).trans (congrArg _ (State.thread?_leaveHome h tgt)))
    | false =>
      have hm : s.migrate t tgt pc = s.stayAt t pc := by
        simp only [State.migrate, hstand, hfree', hroom, Bool.false_eq_true, if_false]
      rw [hm]
      exact ⟨_, State.thread?_stayAt h pc, rfl, rfl, rfl, rfl, nofun, nofun, fun _ _ => ⟨rfl, rfl, rfl⟩⟩

/-- Settles O17, from what each instruction does with its threads, the gatherer's choice and the migration's branches. -/
theorem homesAndHalts : Obligations.HomesAndHalts := ⟨exec_homes, file_thread, migrate_thread⟩

end Sys2Proof.Proofs
end


section
/-! SUPPORT. A texture request whose descriptor read withdraws it. -/

namespace Sys2Proof.Machine
namespace TexLoss

/-- The reply's message, which thread 0 asks a place for. -/
def reply : Msg :=
  { core := 0, index := 1, part := 0, launch := 0, wg := 0, srcCore := 0, sender := 0, seq := 3, unfilled := true }

/-- Its texture request: its descriptor stands behind CXL port 0. -/
def req : TexReq :=
  { tid := 0, part := 0, launch := 0, wg := 0, core := 0, index := 1, msg := 3, descAddr := 0x400000, u := 0, v := 0, lod := 0
    stateAddr := 0x400000 }

/-- The page of the descriptor, as the texture unit caches it. -/
def page : Trans :=
  { part := 0, base := 0x400000, size := 65536, host := false, frame := 0x100000000000, lease := 4, key := 0, r := true, w := true
    x := false, m := false }

/-- The task whose thread asks: it has read the granule where the next record of the fault queue goes. -/
def reader : Task :=
  { key := ⟨0, 0, 0, 0⟩, part := 0, launch := 0, wg := 0, index := 0, payload := [], ranges := [], parent := none, landing := 0
    srcCore := 0, phase := .running, tid := some 0, readGran := [0x5000] }

/-- Thread 0 of launch 0, which runs the task in context 0 of core 0, asks for its reply's place; CXL port 0 has failed, and
partition 0's fault queue stands at 0x500000. -/
def asks : State :=
  let s := (State.reset.placeProgram 0).modThread 0 fun th => { th with role := .task 0 }
  let s := (s.setRegN (cxlReg 0 4) 1).setRegN (transReg 0 0x10) 0x500000
  { s.setRegN (transReg 0 0x18) 0x501 with
    engines := []
    outbound := [(0, reply)]
    texReqs := [(4, req)]
    unitTlbs := [(State.texCache 0, [page])]
    tasks := [(0, reader)] }

/-- The message may take its place now. -/
theorem asks_mayGrant : asks.lowerAsks 0 = false ∧ asks.limitPast 0 = false ∧ asks.transitRoom reply = true := by decide

/-- It is the reply of the texture request, which nothing stands in the way of. -/
theorem asks_texture : asks.texOf reply = some (4, req) ∧ asks.texWaits 4 req = false ∧
    asks.texStuck req req.descAddr 32 = none := by decide

/-- The record of the lost read, written to the fault queue, aborts the task that read its granule; its thread goes, and with it the
request that was being accepted (R163, R272, R274, R365). -/
theorem asks_accepted_gone : (asks.texAccept 4 req).texReqs.get? 4 = none := by decide +kernel

end TexLoss
end Sys2Proof.Machine
end

section
namespace Sys2Proof.Proofs
open Sys2Proof Sys2Proof.Machine Sys2Proof.Machine.TexLoss

/-- Refutes O42: reading the descriptor of a texture request can end the task whose thread made the request. The descriptor stands
behind a failed CXL port, so a record of the lost read goes to the fault queue (R365); that task has read the granule of the
queue's next entry, so the write aborts it (R274), and its thread's request is withdrawn: it has no descriptor left to name. -/
theorem not_messageSteps : ¬ Obligations.MessageSteps := by
  unfold Obligations.MessageSteps
  intro h
  obtain ⟨hlower, hlimit, hroom⟩ := asks_mayGrant
  obtain ⟨hof, hwaits, hstuck⟩ := asks_texture
  have hdesc := (((h asks).1 0 reply rfl (by decide) hlower hlimit hroom).2 4 req hof hwaits hstuck).2
  rw [asks_accepted_gone] at hdesc
  exact Option.some_ne_none _ hdesc.symm

end Sys2Proof.Proofs
end

section
/-!
SUPPORT. What the accesses of the part's engines leave alone: what an engine reads, stores, drops or reports, the Drive's writes, the
records of a dump. All of them are calm, as `Calm` says.
-/

namespace Sys2Proof.Machine
open Sys2Proof.Safety

namespace Calm
variable {s t : State}

/-- A change of a launch in place that `Launch.still` does not see and that leaves its workgroups. -/
theorem modLaunch (s : State) (l : Nat) (f : Launch → Launch) (hs : ∀ x, (f x).still = x.still) (hw : ∀ x, (f x).wgs = x.wgs) :
    Calm s (s.modLaunch l f) := by
  refine of_launches rfl (fun k => ?_) fun k g _ => ?_
  · rw [State.launch?_modLaunch]
    split
    · rw [Option.map_map]; exact congrArg (fun g => Option.map g _) (funext hs)
    · rfl
  · rw [State.group?, State.group?, State.launch?_modLaunch]
    split
    · rw [Option.bind_map]; exact congrArg (Option.bind _) (funext fun x => congrArg (fun t : Table Workgroup => t.get? g) (hw x))
    · rfl

/-- A launch that stands before still stands, the same but for workgroups and the mark of dropped writes. -/
theorem launch? (h : Calm s t) {k : Nat} {l : Launch} (hl : s.launch? k = some l) : ∃ m, t.launch? k = some m ∧ m.still = l.still := by
  have := h.launches k
  rw [hl] at this
  exact Option.map_eq_some_iff.1 this

end Calm

section
variable (s : State)

/-! ### Records -/

theorem orReg_calm (off : Nat) (v : W32) : Calm s (s.orReg off v) := setReg_calm ..

theorem bumpReg_calm (off n : Nat) : Calm s (s.bumpReg off n) := setRegN_calm ..

theorem eventWord_calm (part die type idx src w10 : Nat) : Calm s (s.eventWord part die type idx src w10) :=
  (flushEvents_calm _ part 65).after rfl

theorem logWord_calm (type idx src w10 : Nat) : Calm s (s.logWord type idx src w10) := (flushLog_calm _ _).after rfl

/-- A record that stops no thread: nobody's watchdog takes note. -/
theorem raiseFault_calm (part die : Nat) (r : FRec) : Calm s (s.raiseFault part die r .none).2 := by
  unfold State.raiseFault State.keepPageFault
  refine ite_keeps (fun x : Nat × State => Calm s x.2) (.of_part rfl) ?_
  exact ite_keeps (Calm s) ((fqWrite_calm _ _ _).after rfl) ((orReg_calm _ _ _).after rfl)

theorem reportFault_calm (part die : Nat) (r : FRec) : Calm s (s.reportFault part die r) := by
  unfold State.reportFault
  dsimp only
  split
  · exact ite_keeps (Calm s) (.of_part rfl) (raiseFault_calm ..)
  · exact raiseFault_calm ..

theorem unitReport_calm (u : Agent) (kind : Nat) (ps : List Part) : Calm s (s.unitReport u kind ps) :=
  ite_keeps (Calm s) (.refl s) (.foldl _ _ fun a _ => reportFault_calm a ..)

theorem endRoutes_calm (part : Nat) (ps : List Part) : Calm s (s.endRoutes part ps) :=
  .foldl _ _ fun a p => by split <;> exact .of_part rfl

/-! ### Reads -/

theorem noteMisdirected_calm (u : Option Nat) : Calm s (s.noteMisdirected u) := by
  unfold State.noteMisdirected
  have hbump := bumpReg_calm s 0x610000C 1
  split
  · exact hbump.andThen rfl
  · exact hbump

theorem noteBadLine_calm (pa : Nat) (part u : Option Nat) : Calm s (s.noteBadLine pa part u) := by
  unfold State.noteBadLine
  have hcount : Calm s ((if s.mem.faulty.getD (pa / 64) 0 = 3 then s.noteMisdirected u else s).bumpReg 0x6100008 1) :=
    .trans (ite_keeps (Calm s) (noteMisdirected_calm s u) (.refl s)) (bumpReg_calm ..)
  extract_lets _ x page again _ y idx z
  have hy : Calm s y := hcount.andThen rfl
  refine ite_keeps (Calm s) (.trans (t := z) ?_ (logWord_calm ..)) hy
  cases part with
  | none => exact hy
  | some k => exact hy.trans (eventWord_calm ..)

theorem noteEcc_calm (pa key part : Nat) (u : Option Nat) : Calm s (s.noteEcc pa key part u) :=
  ite_keeps (Calm s) (noteBadLine_calm ..) (ite_keeps (Calm s) ((bumpReg_calm _ _ _).after rfl) (.refl s))

theorem noteReads_calm (part : Nat) (ps : List Part) (u : Option Nat) : Calm s (s.noteReads part ps u) :=
  .foldl _ _ fun a p => by
    split
    · exact noteEcc_calm ..
    · exact .refl a

theorem noteAccept_calm (part : Nat) (b : List Byte) : Calm s (s.noteAccept part b) :=
  (noteReads_calm s ..).trans (endRoutes_calm ..)

/-! ### Writes -/

theorem storePlace_calm (p : Place) (key : Nat) (bs : List Byte) (flags : List Bool) (nib : Option Nat) :
    Calm s (s.storePlace p key bs flags nib) := by
  refine .of_part ?_
  unfold State.storePlace
  cases p <;> try rfl
  all_goals cases nib <;> rfl

theorem writePlace_calm (p : Place) (key : Nat) (bs : List Byte) (flags : List Bool) (nib mine : Option Nat) :
    Calm s (s.writePlace p key bs flags nib mine) :=
  ite_keeps (Calm s) ((storePlace_calm s ..).trans (noteWrites_calm ..)) (storePlace_calm ..)

theorem writePlaces_calm (ws : List (Place × Nat × List Byte × List Bool × Option Nat)) (mine : Option Nat) :
    Calm s (s.writePlaces ws mine) :=
  .trans (.foldl _ _ fun a _ => storePlace_calm a ..) (noteWrites_calm ..)

theorem tracePlace_calm (src : Nat) (p : Place) (bs : List Byte) : Calm s (s.tracePlace src p bs) := by
  unfold State.tracePlace
  split
  · exact .of_part rfl
  · exact .refl s

theorem storeParts_calm (lost : List Part) (src : Nat) (ps : List Part) (bs : List Byte) (qs : List Bool) :
    Calm s (s.storeParts lost src ps bs qs) := by
  induction ps generalizing s bs qs with
  | nil => exact .refl s
  | cons p r ih =>
    refine .trans ?_ (ih _ _ _)
    exact ite_keeps (Calm s) (.refl s) ((writePlace_calm s ..).trans (tracePlace_calm ..))

theorem countDropped_calm (l : Nat) (p : Place) : Calm s (s.countDropped l p) := by
  unfold State.countDropped
  refine .trans ?_ (.modLaunch _ l _ (fun _ => rfl) fun _ => rfl)
  split
  · split
    · exact bumpReg_calm ..
    · exact .refl s
  · exact .refl s

theorem unitDrop_calm (u : Agent) (lost : List Part) : Calm s (s.unitDrop u lost) := by
  refine .trans (.trans (.foldl _ _ fun a p => ?_) (unitReport_calm ..)) (endRoutes_calm ..)
  split
  · exact countDropped_calm ..
  · split
    · rename_i pa _
      cases State.cxlPort pa with
      | none => exact .refl a
      | some k => exact bumpReg_calm ..
    · exact .refl a

theorem unitStore_calm (u : Agent) (ps : List Part) (bs : List Byte) (qs : List Bool) : Calm s (s.unitStore u ps bs qs) :=
  (storeParts_calm s ..).trans (unitDrop_calm ..)

theorem unitPut_calm (part va : Nat) (bs : List Byte) (qs : List Bool) : Calm s (s.unitPut part va bs qs) := by
  unfold State.unitPut
  split
  · exact unitStore_calm ..
  · exact .refl s

theorem driveWrite_calm (l stand : Nat) (ws : List (Nat × List Byte)) : Calm s (s.driveWrite l stand ws) :=
  .foldl _ _ fun a w => by
    split
    · exact unitStore_calm ..
    · exact .refl a

theorem writeBlocks_calm (k : Nat) (ws : List (Nat × List (Nat × List Byte))) : Calm s (s.writeBlocks k ws) :=
  .foldl _ _ fun a _ => (driveWrite_calm a ..).andThen rfl

/-! ### A dump -/

theorem dumpStore_calm (pa key n : Nat) (bs : List Byte) : Calm s (s.dumpStore pa key n bs) := by
  induction n generalizing s pa bs with
  | zero => exact .refl s
  | succ n ih =>
    cases bs with
    | nil => exact .refl s
    | cons b r => exact (writePlace_calm s ..).trans (ih _ _ _)

theorem writeDump_calm (k : Nat) (l : Launch) (f : Fatal) : Calm s (s.writeDump k l f) :=
  ite_keeps (Calm s) (.refl s) ((dumpStore_calm s ..).trans (setRegN_calm ..))

theorem dumpRecords_calm (l : Launch) (f : Fatal) : Calm s (s.dumpRecords l f) :=
  (logWord_calm s ..).trans (eventWord_calm ..)

end

end Sys2Proof.Machine
end

section
/-!
SUPPORT. Launches that go on or end (01 R51-R53): a watchdog that ends one, a workgroup that retires, the signal word of an end and
the dump of a fatal one.
-/

namespace Sys2Proof.Machine
open Sys2Proof.Safety

namespace State
variable {s : State} {k g : Nat} {l : Launch}

/-- A workgroup that is not busy has no thread. -/
theorem not_hasThread (h : s.wgBusy k g = false) : ¬ s.HasThread k g := by
  rintro ⟨u, th, hu, hl, hw⟩
  have hany : (s.threads.any fun e => e.2.launch == k && e.2.wg == g) = true :=
    List.any_eq_true.2 ⟨(u, th), Table.mem_of_get? hu, by simp [hl, hw]⟩
  simp [wgBusy, hany] at h

/-- A workgroup of a launch retires (R53). -/
def retireWg (s : State) (k g : Nat) (old : Workgroup) : State :=
  s.modLaunch k fun y => { y with wgs := y.wgs.put g { old with retired := true }, retired := y.retired + 1 }

theorem launch?_retireWg (hl : s.launch? k = some l) (g : Nat) (old : Workgroup) :
    (s.retireWg k g old).launch? k =
      some { l with wgs := l.wgs.put g { old with retired := true }, retired := l.retired + 1 } := by
  simp [retireWg, hl]

/-- A launch that is no cruise ends: after the signal, which is calm, its phase alone changes. -/
theorem launch?_endLaunch (hl : s.launch? k = some l) (y : Launch) (status : Nat) :
    ∃ z m, Calm s z ∧ z.launch? k = some m ∧ (s.endLaunch k y status).threads = z.threads ∧
      (s.endLaunch k y status).launch? k = some { m with phase := .ended } := by
  have hz : Calm s (if y.r.sigaddr = 0 then s else s.unitPut y.part y.r.sigaddr (bytesOfNat 8 (signalWord y.r.sigval status))) :=
    ite_keeps (Calm s) (.refl s) (unitPut_calm ..)
  obtain ⟨m, hm, -⟩ := hz.launch? hl
  refine ⟨_, m, hz, hm, rfl, ?_⟩
  show (State.modLaunch _ k _).launch? k = _
  rw [launch?_modLaunch, if_pos rfl, hm]
  rfl

/-- A launch ends as its last workgroup retires, and keeps what stands of a workgroup without threads (R53). -/
theorem launch?_finishLaunch {old : Workgroup} (hl : s.launch? k = some l) (hg : l.wgs.get? g = some old) (hn : ¬ s.HasThread k g)
    (y : Launch) : ∃ m, (s.finishLaunch k y).launch? k = some m ∧ m.phase = .ended ∧ m.wgs.get? g = some old := by
  unfold finishLaunch
  split
  · exact ⟨{ l with phase := .ended }, (launch?_modLaunch ..).trans ((if_pos rfl).trans (congrArg (Option.map _) hl)), rfl, hg⟩
  · obtain ⟨z, m, hz, hm, -, he⟩ := launch?_endLaunch hl y (doneStatus y)
    refine ⟨_, he, rfl, ?_⟩
    have := hz.groups k g hn
    rwa [group?, group?, hm, hl, Option.bind_some, Option.bind_some, hg] at this

end State

open State

variable {s : State}

/-- R51: a workgroup that has waited as long as its limit ends its launch. -/
theorem exec_watchdogExpiry (k g : Nat) (l : Launch) (b : Nat) (hl : s.launch? k = some l)
    (hb : (l.wgs.getD g {}).watch = some b) (hdue : b + l.r.watchdog * 1000 ≤ s.gtc) (hp : l.phase = .running)
    (hw : s.wgWaiting k g = true) (hpark : s.wgParked k g = false) (hrel : s.relocks = false) :
    let x := s.modWg k g fun y => { y with watch := none, paused := none }
    ∃ t, exec (.workgroupWatchdogExpiry k g) s = .next t ∧
      t = x.fatalLaunch k { cause := 0x0C, wg := g, stand := (x.wg k g).stand } ∧
      (l.cruise = none → l.fatal = none → ∃ m f, t.launch? k = some m ∧ m.phase = .dying ∧ m.fatal = some f ∧
        f.cause = 0x0C ∧ f.wg = g) := by
  intro x
  refine ⟨_, ?_, rfl, fun hc hf => ?_⟩
  · show execWorkgroupWatchdogExpiry k g s = _
    simp [execWorkgroupWatchdogExpiry, hl, hb, hdue, hp, hw, hpark, hrel, x]
  · have hx : x.launch? k = some { l with wgs := l.wgs.put g { l.wgs.getD g {} with watch := none, paused := none } } := by
      simp [x, modWg, hl]
    obtain ⟨ls, hls, hget⟩ := fatalLaunch_first x { cause := 0x0C, wg := g, stand := (x.wg k g).stand } hx hc hf
    exact ⟨_, _, (congrArg (fun y : State => y.launch? k) hls :).trans hget, rfl, rfl, rfl, rfl⟩

/-- R53: a workgroup of which nothing is left retires, and the last one ends its launch. -/
theorem exec_workgroupRetire (k g : Nat) (l : Launch) (hl : s.launch? k = some l) (hpl : (l.wgs.getD g {}).placed = true)
    (hret : (l.wgs.getD g {}).retired = false) (hp : l.phase = .running) (hbusy : s.wgBusy k g = false) :
    let old : Workgroup := l.wgs.getD g {}
    let x := s.modLaunch k fun y => { y with wgs := y.wgs.put g { old with retired := true }, retired := y.retired + 1 }
    (l.retired + 1 < l.grid → exec (.workgroupRetire k g) s = .next x ∧ ∃ m, x.launch? k = some m ∧ m.phase = .running ∧
      m.retired = l.retired + 1 ∧ m.wgs.get? g = some { old with retired := true }) ∧
    (l.grid ≤ l.retired + 1 → s.cmdsOpen k = false → s.tilesOpen k l.r = false →
      l.cruise.isSome = true ∨ (s.signalStuck l = none ∧ s.blocksStuck k (s.openBlocks k) = none) →
      let z := if l.cruise.isSome then s else s.writeBlocks k (s.openBlocks k)
      let y := z.modLaunch k fun y => { y with wgs := y.wgs.put g { old with retired := true }, retired := y.retired + 1 }
      ∃ t m, exec (.workgroupRetire k g) s = .next t ∧ t = y.finishLaunch k l ∧ t.launch? k = some m ∧
        m.phase = .ended ∧ m.wgs.get? g = some { old with retired := true }) := by
  intro old x
  refine ⟨fun hmore => ⟨?_, _, launch?_retireWg hl g old, hp, rfl, by simp⟩, fun hlast hcmds htiles hwrites => ?_⟩
  · show execWorkgroupRetire k g s = _
    simp [execWorkgroupRetire, hl, hpl, hret, hp, hbusy, hmore, x, old]
  intro z y
  have hz : Calm s z := ite_keeps (Calm s) (.refl s) (writeBlocks_calm ..)
  obtain ⟨m, hm, hstill⟩ := hz.launch? hl
  have hy : y.launch? k = some { m with wgs := m.wgs.put g { old with retired := true }, retired := m.retired + 1 } :=
    launch?_retireWg hm g old
  have hn : ¬ y.HasThread k g := fun ⟨u, th, hu, h⟩ => not_hasThread hbusy (hz.hasThread ⟨u, th, hu, h⟩)
  obtain ⟨n, hend, hphase, hgrp⟩ := launch?_finishLaunch (old := { old with retired := true }) hy (by simp) hn l
  refine ⟨_, n, ?_, rfl, hend, hphase, hgrp⟩
  show execWorkgroupRetire k g s = _
  have hnot : ¬ l.retired + 1 < l.grid := by omega
  rcases hc : l.cruise with _ | c
  · obtain ⟨hsig, hblocks⟩ := hwrites.resolve_left (by simp [hc])
    simp [execWorkgroupRetire, hl, hpl, hret, hp, hbusy, hnot, hcmds, htiles, hsig, hblocks, hc, y, z, old]
  · simp [execWorkgroupRetire, hl, hpl, hret, hp, hbusy, hnot, hcmds, htiles, hc, y, z, old]

/-- R52, R389-R393: a launch that has stopped after a fatal trap is dumped. -/
theorem exec_fatalDump (k : Nat) (l : Launch) (f : Fatal) (hl : s.launch? k = some l) (hf : l.fatal = some f)
    (hp : l.phase = .dying) (hstop : s.launchStopped k = true) (hd : l.dumped = false) (hfree : s.dumpFree k l f = true)
    (hlater : s.dumpedLater k f = false) (hlog : s.logRoom = true) (hroom : s.eventRoom (standDie f.stand) = true) :
    ∃ t m, exec (.launchFatalEnd k) s = .next t ∧
      t = ((s.writeDump k l f).dumpRecords l f).modLaunch k (fun x => { x with dumped := true }) ∧
      t.launch? k = some m ∧ m.dumped = true ∧ m.phase = .dying ∧ m.fatal = some f := by
  have hcalm : Calm s ((s.writeDump k l f).dumpRecords l f) := (writeDump_calm ..).trans (dumpRecords_calm ..)
  obtain ⟨m, hm, hstill⟩ := hcalm.launch? hl
  refine ⟨_, { m with dumped := true }, ?_, rfl, by simp [hm], rfl, ?_, ?_⟩
  · show execLaunchFatalEnd k s = _
    simp [execLaunchFatalEnd, hl, hf, hp, hstop, hd, hfree, hlater, hlog, hroom]
  · exact (congrArg Launch.phase hstill :).trans hp
  · exact (congrArg Launch.fatal hstill :).trans hf

end Sys2Proof.Machine
end

section
/-!
SUPPORT. Launches that leave the machine (01 R52; 18 R338, R339, R346): no thread of one that is cleared, saved or discarded is left,
and its own entry says so.
-/

namespace Sys2Proof.Machine
open Sys2Proof.Safety

/-! ### The gatherer is calm -/

section
variable (s : State)

theorem releasePocket_calm (n j : Nat) : Calm s (s.releasePocket n j) := by
  unfold State.releasePocket
  split
  · exact .refl s
  · exact ite_keeps (Calm s) (.refl s) (.after (.foldl _ _ fun a t => .modThread a t _ fun _ => ⟨rfl, rfl⟩) rfl)

theorem joinPocket_calm (n j t l w : Nat) (pc : W64) : Calm s (s.joinPocket n j t l w pc) := by
  have hjoin (f : Stand → Stand) : Calm s ((s.modThread t fun th => { th with home := .pocket n j }).modStand n f) :=
    (Calm.modThread s t (fun th => { th with home := .pocket n j }) fun _ => ⟨rfl, rfl⟩).andThen rfl
  unfold State.joinPocket
  exact ite_keeps (Calm s) ((hjoin _).trans (releasePocket_calm ..)) (hjoin _)

theorem placeInPocket_calm (n t l w : Nat) (pc : W64) : Calm s (s.placeInPocket n t l w pc) := by
  unfold State.placeInPocket
  split
  · exact joinPocket_calm ..
  · exact (Calm.modThread s t (fun th => { th with home := .plist n }) fun _ => ⟨rfl, rfl⟩).andThen rfl

theorem refillPockets_calm (n fuel : Nat) : Calm s (s.refillPockets n fuel) := by
  induction fuel generalizing s with
  | zero => exact .refl s
  | succ m ih =>
    rw [State.refillPockets]
    split
    · exact .refl s
    next t _ =>
      split
      · exact .refl s
      next th _ =>
        exact ((placeInPocket_calm (s.modStand n fun x => { x with plist := x.plist.erase t }) n t th.launch th.wg th.pc).after
          (s := s) rfl).trans (ih _)

theorem refill_calm (n : Nat) : Calm s (s.refill n) := refillPockets_calm ..

theorem refills_calm (l : List Nat) : Calm s (l.foldl (fun (s : State) n => s.refill n) s) := .foldl _ _ fun a n => refill_calm a n

theorem settlePreempt_calm (q : Nat) : Calm s (s.settlePreempt q) :=
  ite_keeps (Calm s) ((setReg_calm s ..).trans (orReg_calm ..)) (.refl s)

/-- A thread that has been removed is gone. -/
theorem thread?_removeThread (t : Nat) (keepArea : Bool) : (s.removeThread t keepArea).thread? t = none := by
  unfold State.removeThread
  split
  next h => exact h
  · have hgone : ∀ x : Table Thread, (x.del t).get? t = none := fun x => by simp
    split
    · exact ite_keeps (fun x : State => x.thread? t = none) (hgone _) (hgone _)
    · refine Option.eq_none_iff_forall_ne_some.2 fun th hth => ?_
      obtain ⟨x, hx, -⟩ := (releaseSlot_calm _ _ _).threads t th hth
      exact absurd (hx.symm.trans (hgone _)) (by simp)
    · exact hgone _

theorem removeThreads_calm (ts : List Nat) : Calm s (ts.foldl (fun (s : State) t => s.removeThread t) s) :=
  .foldl _ _ fun a t => removeThread_calm a t false

theorem thread?_removeThreads {ts : List Nat} {t : Nat} (h : t ∈ ts) :
    (ts.foldl (fun (s : State) t => s.removeThread t) s).thread? t = none := by
  induction ts generalizing s with
  | nil => simp at h
  | cons a r ih =>
    rcases List.mem_cons.1 h with rfl | h
    · refine Option.eq_none_iff_forall_ne_some.2 fun th hth => ?_
      obtain ⟨x, hx, -⟩ := (removeThreads_calm _ r).threads t th hth
      exact absurd (hx.symm.trans (thread?_removeThread s t false)) (by simp)
    · exact ih _ h

/-- No thread of a launch is left. -/
def NoThread (s : State) (k : Nat) : Prop := ∀ u th, s.thread? u = some th → th.launch ≠ k

theorem NoThread.calm {s t : State} {k : Nat} (h : NoThread s k) (hc : Calm s t) : NoThread t k := fun u th hu => by
  obtain ⟨x, hx, hl, -⟩ := hc.threads u th hu
  exact hl ▸ h u x hx

theorem noThread_removed (k : Nat) :
    NoThread ((s.threads.filter fun _ th => th.launch == k).keys.foldl (fun (s : State) t => s.removeThread t) s) k := by
  intro u th hu he
  obtain ⟨x, hx, hl, -⟩ := (removeThreads_calm s _).threads u th hu
  have hmem : u ∈ (s.threads.filter fun _ th => th.launch == k).keys :=
    List.mem_map.2 ⟨(u, x), List.mem_filter.2 ⟨Table.mem_of_get? hx, by simp [hl, he]⟩, rfl⟩
  exact absurd (hu.symm.trans (thread?_removeThreads s hmem)) (by simp)

/-! ### Clearing a launch -/

/-- Its workgroups have all retired. -/
def Launch.cleared (l : Launch) : Launch :=
  { l with wgs := l.wgs.map fun (w : Nat × Workgroup) => (w.1, { w.2 with retired := true, watch := none }) }

/-- Clearing a launch takes its threads, retires its workgroups and is calm before and after (R52). -/
theorem clearLaunch_calm (k : Nat) : ∃ mid, Calm s mid ∧ NoThread mid k ∧ Calm (mid.modLaunch k Launch.cleared) (s.clearLaunch k) := by
  have hrem := removeThreads_calm s (s.threads.filter fun _ th => th.launch == k).keys
  have hno := noThread_removed s k
  unfold State.clearLaunch
  extract_lets ts x stands cores dies y
  have hy : Calm x (y.clearCmds k) := .of_part rfl
  exact ⟨_, hrem.trans hy, hno.calm hy, refills_calm _ _⟩

end

/-- Nothing of a cleared launch runs. -/
theorem noThread_clearLaunch (s : State) (k : Nat) : NoThread (s.clearLaunch k) k := by
  obtain ⟨mid, -, hno, hc⟩ := clearLaunch_calm s k
  exact NoThread.calm (s := mid.modLaunch k Launch.cleared) hno hc

/-- A cleared launch is otherwise the same. -/
theorem launch?_clearLaunch {s : State} {k : Nat} {l : Launch} (hl : s.launch? k = some l) :
    ∃ m, (s.clearLaunch k).launch? k = some m ∧ m.still = l.still := by
  obtain ⟨mid, hm, -, hc⟩ := clearLaunch_calm s k
  obtain ⟨x, hx, hstill⟩ := hm.launch? hl
  obtain ⟨y, hy, hstill'⟩ := hc.launch? (k := k) (l := x.cleared) (by simp [hx])
  exact ⟨y, hy, hstill'.trans hstill⟩

open State

variable {s : State}

/-- R52, R390: a launch that has been dumped is cleared and ends with the cause. -/
theorem exec_fatalEnd (k : Nat) (l : Launch) (f : Fatal) (hl : s.launch? k = some l) (hf : l.fatal = some f)
    (hp : l.phase = .dying) (hstop : s.launchStopped k = true) (hd : l.dumped = true) (hsig : s.signalStuck l = none)
    (hblocks : s.blocksStuck k (s.endBlocks k) = none) :
    ∃ t m, exec (.launchFatalEnd k) s = .next t ∧
      t = (((s.writeBlocks k (s.endBlocks k)).clearLaunch k).endLaunch k l (0x80 + f.cause)).settlePreempt l.queue ∧
      t.launch? k = some m ∧ m.phase = .ended ∧ ∀ u th, t.thread? u = some th → th.launch ≠ k := by
  obtain ⟨m₁, hm₁, -⟩ := (writeBlocks_calm s k (s.endBlocks k)).launch? hl
  obtain ⟨m₂, hm₂, -⟩ := launch?_clearLaunch hm₁
  have hno := noThread_clearLaunch (s.writeBlocks k (s.endBlocks k)) k
  generalize hx : (s.writeBlocks k (s.endBlocks k)).clearLaunch k = x at hm₂ hno
  obtain ⟨z, m₃, hz, -, hthreads, hend⟩ := launch?_endLaunch hm₂ l (0x80 + f.cause)
  have hset := settlePreempt_calm (x.endLaunch k l (0x80 + f.cause)) l.queue
  obtain ⟨m, hm, hstill⟩ := hset.launch? hend
  have hleft : NoThread (x.endLaunch k l (0x80 + f.cause)) k := fun u th hu =>
    hno.calm hz u th ((congrArg (fun y : Table Thread => y.get? u) hthreads).symm.trans hu)
  refine ⟨_, m, ?_, rfl, hm, (congrArg Launch.phase hstill :), hleft.calm hset⟩
  show execLaunchFatalEnd k s = _
  simp [execLaunchFatalEnd, hl, hf, hp, hstop, hd, hsig, hblocks, hx]

/-! ### Pre-emption -/

/-- Its workgroups have been taken off their stands (R338). -/
def Launch.putOff (l : Launch) : Launch :=
  { l with phase := .saved, wgs := l.wgs.map fun w => if w.2.placed && !w.2.retired then (w.1, { w.2 with placed := false }) else w }

/-- Taking a launch off the machine takes its threads and leaves its entry, as saved (R338). -/
theorem takeOff_calm (s : State) (k : Nat) :
    ∃ mid, mid.launches = s.launches ∧ NoThread mid k ∧ Calm (mid.modLaunch k Launch.putOff) (s.takeOff k) := by
  unfold State.takeOff
  extract_lets ts ctxs x y z w
  have hx : x.launches = s.launches :=
    foldl_keeps (fun a : State => a.launches = s.launches) _ _ _ rfl fun a t ha =>
      (congrArg State.launches (leaveRun_engines a t) :).trans ha
  have hw : w.threads = z.threads ∧ w.launches = z.launches :=
    foldl_keeps (fun a : State => a.threads = z.threads ∧ a.launches = z.launches) _ _ _ ⟨rfl, rfl⟩ fun a _ ha => ha
  refine ⟨w, hw.2.trans hx, fun u th hu => ?_, refills_calm _ _⟩
  have hmem : (u, th) ∈ y.threads.filter fun _ th => th.launch != k :=
    Table.mem_of_get? ((congrArg (fun a : Table Thread => a.get? u) hw.1).symm.trans hu)
  simpa using (List.mem_filter.1 hmem).2

/-- R338-R341: what saving a launch leaves. -/
theorem saveLaunch_saved {k : Nat} {l : Launch} (hl : s.launch? k = some l) (a bytes : Nat) :
    ∃ m v, (s.saveLaunch k a bytes).launch? k = some m ∧ m.phase = .saved ∧ (s.saveLaunch k a bytes).saved.get? a = some v ∧
      v.launch = k ∧ NoThread (s.saveLaunch k a bytes) k := by
  unfold State.saveLaunch
  extract_lets x y
  have hx : Calm s x := .foldl _ _ fun a t => ite_keeps (Calm a) (abortTask_calm ..) (.refl a)
  obtain ⟨m₁, hm₁, -⟩ := hx.launch? hl
  have hy : ∃ m, y.launch? k = some m := by simp [y, pauseWatch, hm₁]
  obtain ⟨m₂, hm₂⟩ := hy
  simp only [hm₂]
  obtain ⟨m₃, hm₃, -⟩ := (writeBlocks_calm y k (y.headBlocks k)).launch? hm₂
  obtain ⟨mid, hmid, hno, hoff⟩ := takeOff_calm (y.writeBlocks k (y.headBlocks k)) k
  have hlaunch : (mid.modLaunch k Launch.putOff).launch? k = some m₃.putOff := by
    rw [launch?_modLaunch, if_pos rfl, show mid.launch? k = some m₃ from (congrArg (fun t : Table Launch => t.get? k) hmid).trans hm₃]
    rfl
  generalize (y.writeBlocks k (y.headBlocks k)).takeOff k = z at hoff
  have hk : (y.saveOf k m₂ bytes).launch = k := rfl
  generalize y.saveOf k m₂ bytes = v at hk
  have hwrite := unitWrite_calm z a v.header false
  generalize z.unitWrite a v.header = w at hwrite
  have hput : Calm w { w with saved := w.saved.put a v } := .of_part rfl
  have hall := ((hoff.trans hwrite).trans hput).trans (settlePreempt_calm _ m₂.queue)
  obtain ⟨m, hm, hstill⟩ := hall.launch? hlaunch
  refine ⟨m, v, hm, (congrArg Launch.phase hstill :), ?_, hk, NoThread.calm (s := mid.modLaunch k Launch.putOff) hno hall⟩
  unfold settlePreempt
  refine ite_keeps (fun x : State => x.saved.get? a = some v) ?_ ?_ <;> exact (Table.get?_put ..).trans (if_pos rfl)

/-- R338, R339: a launch that has come to rest is saved, or goes on where the pool has no room. -/
theorem exec_preemptionComplete (k : Nat) (l : Launch) (hl : s.launch? k = some l) (hp : l.phase = .preempting)
    (hsav : s.savable k = true) :
    (s.saveArea l.queue (s.saveBytes k l) = none →
      ∃ t m, exec (.preemptionComplete k) s = .next t ∧ t = s.keepRunning k l ∧ t.launch? k = some m ∧
        (m.phase = .running ∨ m.phase = .pending)) ∧
    (∀ a, s.saveArea l.queue (s.saveBytes k l) = some a → s.blocksStuck k (s.headBlocks k) = none →
      s.unitFree a 512 = true →
      ∃ t m v, exec (.preemptionComplete k) s = .next t ∧ t = s.saveLaunch k a (s.saveBytes k l) ∧
        t.launch? k = some m ∧ m.phase = .saved ∧ t.saved.get? a = some v ∧ v.launch = k ∧
        ∀ u th, t.thread? u = some th → th.launch ≠ k) := by
  refine ⟨fun harea => ?_, fun a harea hblocks hfree => ?_⟩
  · have hready : Calm s ((s.threads.filter fun _ th => th.launch == k && th.status == .stopped).foldl
        (fun (s : State) e => s.setStatus e.1 .ready) s) := .foldl _ _ fun a e => setStatus_calm a ..
    obtain ⟨m₁, hm₁, -⟩ := hready.launch? hl
    generalize hx : (s.threads.filter fun _ th => th.launch == k && th.status == .stopped).foldl
      (fun (s : State) e => s.setStatus e.1 .ready) s = x at hm₁
    have hmod : (x.modLaunch k fun l => { l with phase := if namedFilled l then .running else .pending }).launch? k =
      some { m₁ with phase := if namedFilled m₁ then .running else .pending } := by simp [hm₁]
    obtain ⟨m, hm, hstill⟩ := ((orReg_calm _ (queueReg l.queue 0x20) 16).trans (settlePreempt_calm _ l.queue)).launch? hmod
    refine ⟨_, m, ?_, rfl, ?_, ?_⟩
    · show execPreemptionComplete k s = _
      simp [execPreemptionComplete, hl, hp, hsav, harea]
    · rw [keepRunning, hx]; exact hm
    · have hphase : m.phase = if namedFilled m₁ then .running else .pending := (congrArg Launch.phase hstill :)
      rw [hphase]
      split
      · exact .inl rfl
      · exact .inr rfl
  · obtain ⟨m, v, hm, hphase, hv, hk, hno⟩ := saveLaunch_saved hl a (s.saveBytes k l)
    refine ⟨_, m, v, ?_, rfl, hm, hphase, hv, hk, hno⟩
    show execPreemptionComplete k s = _
    simp [execPreemptionComplete, hl, hp, hsav, harea, hblocks, hfree]

end Sys2Proof.Machine
end

section
/-!
SUPPORT. Cruises (18 R343-R346): how one starts, is claimed, is displaced, is discarded, and is marked after 10 ms.
-/

namespace Sys2Proof.Machine
open Sys2Proof.Safety State

/-- What a cruise is of and whether it has finished. -/
def Cruise.place (c : Cruise) : Nat × Nat × Option Nat := (c.queue, c.launch, c.finished)

theorem place_cause (c : Cruise) (b : W32) : (c.cause b).place = c.place := by unfold Cruise.cause; split <;> rfl

theorem place_of_still {c d : Cruise} (h : c.still = d.still) : c.place = d.place := (congrArg Cruise.place h :)

variable {s : State}

/-- From `s` to `t` cruises alone have changed, each in its place. -/
structure CruisesOnly (s t : State) : Prop where
  frame : { t with cruises := s.cruises } = s
  place : ∀ j, (t.cruises.get? j).map Cruise.place = (s.cruises.get? j).map Cruise.place

namespace CruisesOnly
variable {t u : State}

theorem refl (s : State) : CruisesOnly s s := ⟨rfl, fun _ => rfl⟩

theorem trans (h : CruisesOnly s t) (h' : CruisesOnly t u) : CruisesOnly s u :=
  ⟨(congrArg (fun x : State => { x with cruises := s.cruises }) h'.frame :).trans h.frame, fun j => (h'.place j).trans (h.place j)⟩

theorem foldl {α : Type} {f : State → α → State} (l : List α) (s : State) (h : ∀ a x, CruisesOnly a (f a x)) :
    CruisesOnly s (l.foldl f s) := foldl_keeps (CruisesOnly s) f l s (refl s) fun a x ha => ha.trans (h a x)

theorem mod (s : State) (c : Nat) (f : Cruise → Cruise) (h : ∀ x, (f x).place = x.place) :
    CruisesOnly s { s with cruises := s.cruises.mod c f } := by
  refine ⟨rfl, fun j => ?_⟩
  show ((s.cruises.mod c f).get? j).map Cruise.place = _
  rw [Table.get?_mod]
  split
  · rw [Option.map_map]; exact congrArg (fun g => Option.map g _) (funext h)
  · rfl

end CruisesOnly

theorem noteEngineRead_cruises (s : State) (l : Nat) (ps : List Part) : CruisesOnly s (s.noteEngineRead l ps) := by
  unfold State.noteEngineRead
  split
  · exact .refl s
  · refine .foldl _ _ fun a p => ?_
    split
    · refine .mod a _ _ fun x => ?_
      exact ite_keeps (fun y : Cruise => y.place = x.place) (place_cause ..) rfl
    · exact .refl a
    · exact .mod a _ _ fun x => place_cause x 8

theorem displaceCruise_frame (s : State) (n : Nat) : { s.displaceCruise n with cruises := s.cruises } = s :=
  foldl_keeps (fun x : State => { x with cruises := s.cruises } = s) _ _ _ rfl fun a e ha => by
    split
    · exact ha
    · exact ha

/-- R346: a cruise gives way to a workgroup of a real launch. -/
theorem exec_displaces (k g n : Nat) (l : Launch) (hl : s.launch? k = some l) (hp : State.placing l = true)
    (hn : s.nextFor k l n = some g) (hc : s.contended k l n = false) (hreal : l.cruise = none)
    (hany : ((s.standLaunches n).any fun e => e.2.cruise.isSome) = true) :
    ∃ t, exec (.workgroupPlacement k g n) s = .next t ∧ t = s.displaceCruise n ∧ { t with cruises := s.cruises } = s := by
  refine ⟨_, ?_, rfl, displaceCruise_frame s n⟩
  show execWorkgroupPlacement k g n s = _
  simp only [execWorkgroupPlacement, hl]
  simp [hp, hn, hc, hreal, hany]

/-- R346: a cruise whose launch is not read within 10 ms is to be discarded. -/
theorem exec_cruiseIdleTimeout (j : Nat) (x : Cruise) (g : Nat) (hj : s.cruises.get? j = some x) (hf : x.finished = some g)
    (hdue : g + 10000000 ≤ s.gtc) (hread : (s.queue x.queue).lastRead ≤ g) (hc : x.causes = 0) :
    ∃ t, exec (.cruiseIdleTimeout j) s = .next t ∧ { t with cruises := s.cruises } = s ∧
      t.cruises = s.cruises.put j { x with causes := 0x80 } := by
  refine ⟨{ s with cruises := s.cruises.put j { x with causes := 0x80 } }, ?_, rfl, rfl⟩
  show execCruiseIdleTimeout j s = _
  simp only [execCruiseIdleTimeout, hj, hf]
  exact if_pos ⟨hdue, hread, hc⟩

/-- R346: a cruise that has met a cause is dropped with all its threads. -/
theorem exec_cruiseDiscard (j : Nat) (x : Cruise) (hj : s.cruises.get? j = some x) (hc : x.causes ≠ 0) :
    ∃ t, exec (.cruiseDiscard j) s = .next t ∧
      t = ((s.dropCruise j x).bumpReg (queueReg x.queue 0x4C) 1).orReg (queueReg x.queue 0x50) x.causes ∧
      t.cruises.get? j = none ∧ ∀ u th, t.thread? u = some th → th.launch ≠ x.launch := by
  refine ⟨_, ?_, rfl, ?_, ?_⟩
  · show execCruiseDiscard j s = _
    simp only [execCruiseDiscard, hj]
    exact if_neg hc
  · exact (Table.get?_del ..).trans (if_pos rfl)
  · exact noThread_clearLaunch _ x.launch

/-- What an acceptance read for a cruise leaves of it and of its launch (R344). -/
theorem noteAcceptance_started {k j : Nat} {l : Launch} {y : Cruise} (hl : s.launch? k = some l) (hj : s.cruises.get? j = some y)
    (part off : Nat) (b : List Byte) :
    ∃ m v, ((s.noteAcceptance part k b).bumpReg off 1).launch? k = some m ∧ m.still = l.still ∧
      ((s.noteAcceptance part k b).bumpReg off 1).cruises.get? j = some v ∧ v.place = y.place := by
  have hnote := noteAccept_calm s part b
  unfold noteAcceptance
  generalize s.noteAccept part b = x at hnote
  have hread := noteEngineRead_cruises x k (s.acceptParts part b)
  generalize x.noteEngineRead k (s.acceptParts part b) = z at hread
  obtain ⟨m, hm, hstill⟩ := hnote.launch? hl
  have hz : z.launch? k = some m := (congrArg (fun a : State => a.launch? k) hread.frame :).trans hm
  obtain ⟨m', hm', hstill'⟩ := (bumpReg_calm z off 1).launch? hz
  have hx := hnote.cruises j
  rw [hj] at hx
  obtain ⟨w, hw, hws⟩ := Option.map_eq_some_iff.1 hx
  have hplace := hread.place j
  rw [hw] at hplace
  obtain ⟨v, hv, hvp⟩ := Option.map_eq_some_iff.1 hplace
  exact ⟨m', v, hm', hstill'.trans hstill, hv, hvp.trans (place_of_still hws)⟩

/-- R343, R344: a cruise of a predicted launch starts. -/
theorem exec_cruiseStart (q : Nat) (fs : List W64) (r : LaunchRec) (hpred : (s.queue q).predicted = some fs)
    (hconf : (s.queue q).confidence = 3) (hon : bit (s.qctl q) 1 = true) (hnone : s.queueCruise q = none)
    (hidle : s.idleStand (State.queuePart q) = true) (hfew : (s.cruises.filter fun _ c => c.finished.isNone).length < 8) :
    let c : State.Cmd := ((s.queue q).read, s.gtc, State.recordBytes fs)
    State.Cmd.op c = 1 → State.headerOk c = true → s.accept (State.queuePart q) (State.recordBytes fs) = .ok r →
    r.cruise = true →
    let x := { s with nextId := s.nextId + 2 }
    ∃ t m y, exec (.cruiseStart q) s = .next t ∧
      t = ({ x with
        launches := x.launches.put s.nextId { x.newLaunch q c r with cruise := some (s.nextId + 1) }
        cruises := x.cruises.put (s.nextId + 1) { queue := q, launch := s.nextId } }.noteAcceptance (State.queuePart q)
          s.nextId (State.recordBytes fs)).bumpReg (queueReg q 0x44) 1 ∧
      t.launch? s.nextId = some m ∧ m.cruise = some (s.nextId + 1) ∧ m.queue = q ∧ m.phase = .pending ∧
      t.cruises.get? (s.nextId + 1) = some y ∧ y.queue = q ∧ y.launch = s.nextId ∧ y.finished = none := by
  intro c hop hhead hacc hcr x
  let l : Launch := { x.newLaunch q c r with cruise := some (s.nextId + 1) }
  let y : Cruise := { queue := q, launch := s.nextId }
  obtain ⟨m, v, hm, hstill, hv, hplace⟩ := noteAcceptance_started
    (s := { x with launches := x.launches.put s.nextId l, cruises := x.cruises.put (s.nextId + 1) y })
    (k := s.nextId) (j := s.nextId + 1) (l := l) (y := y) ((Table.get?_put ..).trans (if_pos rfl))
    ((Table.get?_put ..).trans (if_pos rfl)) (State.queuePart q) (queueReg q 0x44) (State.recordBytes fs)
  obtain ⟨hvq, hvr⟩ := Prod.mk.inj hplace
  obtain ⟨hvl, hvf⟩ := Prod.mk.inj hvr
  refine ⟨_, m, v, ?_, rfl, hm, (congrArg Launch.cruise hstill :), (congrArg Launch.queue hstill :),
    (congrArg Launch.phase hstill :), hv, hvq, hvl, hvf⟩
  show execCruiseStart q s = _
  simp only [execCruiseStart, hpred]
  rw [if_neg (by simp [hconf, hon, hnone, hidle, hfew]), if_neg (by simpa [c] using And.intro hop hhead), hacc]
  simp only [hcr]
  rfl

/-- Dropping what a claim cannot write, and noting its kernel, leaves the launch and brings no cruise back (R345, R365). -/
theorem unitDrop_claimed {k j off : Nat} {l : Launch} (hl : s.launch? k = some l) (hj : s.cruises.get? j = none) (u : Agent)
    (lost : List Part) (part : Nat) (desc : List Byte) :
    (((s.unitDrop u lost).noteKernel part desc).bumpReg off 1).cruises.get? j = none ∧
    ∃ m, (((s.unitDrop u lost).noteKernel part desc).bumpReg off 1).launch? k = some m ∧ m.still = l.still := by
  have hdrop := unitDrop_calm s u lost
  generalize s.unitDrop u lost = w at hdrop
  have hall := hdrop.trans ((bumpReg_calm (w.noteKernel part desc) off 1).after rfl)
  have hc := hall.cruises j
  rw [hj] at hc
  exact ⟨Option.map_eq_none_iff.1 hc, hall.launch? hl⟩

/-- R345: the command that matches a cruise claims it, and its launch becomes the real one. -/
theorem exec_cruiseClaim (q j : Nat) (x : Cruise) (c : State.Cmd) (l : Launch) (hq : s.queueCruise q = some (j, x))
    (hcl : s.claimant x = some c) (hl : s.launch? x.launch = some l) (hc : x.causes = 0) (hready : s.shadowReady x = true)
    (hf : x.finished = none) :
    let y := (s.commitShadow x).dropKept q c
    ∃ t m, exec (.cruiseClaim q) s = .next t ∧
      t = ((({ y with cruises := y.cruises.del j }.becomeReal q x.launch c).unitDrop (State.claimAgent x)
        (y.claimLost x)).noteKernel l.part l.r.desc).bumpReg (queueReg q 0x48) 1 ∧
      t.cruises.get? j = none ∧ t.launch? x.launch = some m ∧ m.cruise = none ∧ m.id = State.launchIdOf q c.1 ∧ m.index = c.1 := by
  intro y
  have hy : Calm s y := (writePlaces_calm s ..).andThen rfl
  obtain ⟨m₁, hm₁, -⟩ := hy.launch? hl
  have hz : ({ y with cruises := y.cruises.del j }.becomeReal q x.launch c).launch? x.launch = some { m₁ with
      cruise := none, id := launchIdOf q c.1, index := c.1, doorbell := c.2.1, record := recordFields c.2.2 } :=
    (launch?_modLaunch ..).trans ((if_pos rfl).trans (congrArg _ hm₁))
  have hzc : ({ y with cruises := y.cruises.del j }.becomeReal q x.launch c).cruises.get? j = none :=
    (Table.get?_del ..).trans (if_pos rfl)
  obtain ⟨hgone, m, hm, hstill⟩ := unitDrop_claimed (off := queueReg q 0x48) hz hzc (State.claimAgent x) (y.claimLost x) l.part l.r.desc
  refine ⟨_, m, ?_, rfl, hgone, hm, (congrArg Launch.cruise hstill :), (congrArg Launch.id hstill :), (congrArg Launch.index hstill :)⟩
  show execCruiseClaim q s = _
  simp only [execCruiseClaim, hq, hcl, hl, hf]
  rw [if_neg (by simp [hc, hready])]
  rfl

end Sys2Proof.Machine
end

section
/-!
SUPPORT. Waves and workgroups on a stand (01 R21, R22, R43): a released wave stands in the wave queue, a started one in its slot, a
placed workgroup in its launch.
-/

namespace Sys2Proof.Machine
open Sys2Proof.Safety

namespace State

/-! ### Waves that wait stay in the queue -/

section
variable {s : State} {n : Nat} {w : WaveRec}

theorem mem_queueWave (s : State) (n : Nat) (v : WaveRec) :
    w ∈ ((s.queueWave n v).stand n).waveQ ↔ w = v ∨ w ∈ (s.stand n).waveQ := by
  rw [queueWave, stand_modStand, if_pos rfl]
  show w ∈ List.takeWhile _ _ ++ v :: List.dropWhile _ _ ↔ _
  rw [← List.perm_middle.symm.mem_iff, List.mem_cons, List.takeWhile_append_dropWhile]

theorem waveQ_modStand (s : State) (n : Nat) {f : Stand → Stand} (h : ∀ x, (f x).waveQ = x.waveQ) :
    ((s.modStand n f).stand n).waveQ = (s.stand n).waveQ := by rw [stand_modStand, if_pos rfl, h]

theorem mem_waveQ_releasePocket (j : Nat) (h : w ∈ (s.stand n).waveQ) : w ∈ ((s.releasePocket n j).stand n).waveQ := by
  unfold releasePocket
  split
  · exact h
  · refine ite_keeps (fun x : State => w ∈ (x.stand n).waveQ) h ?_
    rw [stand_foldl_modThread _ fun _ th => { th with home := .queued n }, mem_queueWave, waveQ_modStand]
    · exact .inr h
    · exact fun _ => rfl

theorem mem_waveQ_joinPocket (j t l g : Nat) (pc : W64) (h : w ∈ (s.stand n).waveQ) :
    w ∈ ((s.joinPocket n j t l g pc).stand n).waveQ := by
  have hjoin (f : Stand → Stand) (hf : ∀ x, (f x).waveQ = x.waveQ) :
      w ∈ (((s.modThread t fun th => { th with home := .pocket n j }).modStand n f).stand n).waveQ := by
    rw [waveQ_modStand _ _ hf]; exact h
  unfold joinPocket
  exact ite_keeps (fun x : State => w ∈ (x.stand n).waveQ) (mem_waveQ_releasePocket j (hjoin _ fun _ => rfl)) (hjoin _ fun _ => rfl)

theorem mem_waveQ_placeInPocket (t l g : Nat) (pc : W64) (h : w ∈ (s.stand n).waveQ) :
    w ∈ ((s.placeInPocket n t l g pc).stand n).waveQ := by
  unfold placeInPocket
  split
  · exact mem_waveQ_joinPocket _ _ _ _ _ h
  · rw [waveQ_modStand]
    · exact h
    · exact fun _ => rfl

theorem mem_waveQ_refillPockets (fuel : Nat) (h : w ∈ (s.stand n).waveQ) : w ∈ ((s.refillPockets n fuel).stand n).waveQ := by
  induction fuel generalizing s with
  | zero => exact h
  | succ m ih =>
    rw [refillPockets]
    split
    · exact h
    · split
      · exact h
      · refine ih (mem_waveQ_placeInPocket _ _ _ _ ?_)
        rw [waveQ_modStand]
        · exact h
        · exact fun _ => rfl

/-- A pocket released stands in the wave queue as a wave of its members (R21). -/
theorem releasePocket_wave {k : Nat} {p : Pocket} (hp : (s.stand n).pockets.get? k = some p)
    (hc : s.canRelease n p.launch (s.pocketDueAt p) k = true) :
    ∃ w ∈ ((s.releasePocket n k).stand n).waveQ, w.launch = p.launch ∧ w.wg = p.wg ∧ w.pc = p.pc ∧ w.members = p.members := by
  refine ⟨{ launch := p.launch, wg := p.wg, pc := p.pc, members := p.members, due := s.pocketDueAt p
            part := ((s.launch? p.launch).map (·.part)).getD 0 }, ?_, rfl, rfl, rfl, rfl⟩
  simp only [releasePocket, hp, hc]
  rw [if_neg (by simp), stand_foldl_modThread _ fun _ th => { th with home := .queued n }, mem_queueWave]
  exact .inl rfl

end

/-! ### The slots of waves -/

section
variable (s : State)

theorem releasePocket_slots (n j : Nat) : (s.releasePocket n j).slots = s.slots := by
  unfold releasePocket
  split
  · rfl
  · exact ite_keeps (fun x : State => x.slots = s.slots) rfl
      (foldl_keeps (fun x : State => x.slots = s.slots) _ _ _ rfl fun _ _ ha => ha)

theorem placeInPocket_slots (n t l g : Nat) (pc : W64) : (s.placeInPocket n t l g pc).slots = s.slots := by
  unfold placeInPocket
  split
  · unfold joinPocket
    exact ite_keeps (fun x : State => x.slots = s.slots) (releasePocket_slots ..) rfl
  · rfl

theorem refillPockets_slots (n fuel : Nat) : (s.refillPockets n fuel).slots = s.slots := by
  induction fuel generalizing s with
  | zero => rfl
  | succ m ih =>
    rw [refillPockets]
    split
    · rfl
    · split
      · rfl
      · exact (ih _).trans (placeInPocket_slots ..)

theorem refill_slots (n : Nat) : (s.refill n).slots = s.slots := refillPockets_slots ..

theorem startSlice_slots (m : Nat) : (s.startSlice m).slots = s.slots := by
  unfold startSlice
  split
  · rfl
  · exact ite_keeps (fun x : State => x.slots = s.slots) rfl rfl

/-- A wave starts in its slot, which holds what its launch gives (R22, R65, R71). -/
theorem slot?_startWave (n e k : Nat) (q : Option Nat) (w : WaveRec) :
    ∃ x, (s.startWave n e k q w).slot? e k = some x ∧ x.launch = w.launch ∧ x.wg = w.wg ∧ x.consts = (s.lrec w.launch).consts ∧
      x.genCode = (s.lrec w.launch).gregs ∧ x.tiles = (s.lrec w.launch).acc ∧ x.m = [] ∧ x.acc = [] := by
  unfold startWave
  extract_lets r home seats x y z
  have hx : z.slots.get? (slotKey e k) = some x := (Table.get?_put ..).trans (if_pos rfl)
  refine ⟨x, ?_, rfl, rfl, rfl, rfl, rfl, rfl, rfl⟩
  refine foldl_keeps (fun a : State => a.slots.get? (slotKey e k) = some x) _ _ _ hx fun a m ha => ?_
  exact ite_keeps (fun a : State => a.slots.get? (slotKey e k) = some x) ((congrArg (fun t : Table Slot => t.get? (slotKey e k))
    (startSlice_slots ..) :).trans ha) ha

/-! ### Placing brings no launch and takes none -/

theorem takeConstants_launches (c l : Nat) : (s.takeConstants c l).1.launches = s.launches := by
  have hb : (s.broadcast c l).launches = s.launches := by
    unfold broadcast
    exact foldl_keeps (fun x : State => x.launches = s.launches) _ _ _ rfl fun _ _ ha => ha
  unfold takeConstants
  split
  · exact ite_keeps (fun x : State × Bool => x.1.launches = s.launches) rfl
      (ite_keeps (fun x : State × Bool => x.1.launches = s.launches) rfl hb)
  · exact hb

theorem startSlice_launches (m : Nat) : (s.startSlice m).launches = s.launches := by
  unfold startSlice
  split
  · rfl
  · exact ite_keeps (fun x : State => x.launches = s.launches) rfl rfl

theorem placeScalar_launches (k : Nat) (l : Launch) (g n : Nat) : (s.placeScalar k l g n).launches = s.launches :=
  foldl_keeps (fun x : State => x.launches = s.launches) _ _ _ rfl fun a _ ha =>
    (startSlice_launches _ _).trans ((takeConstants_launches a _ k).trans ha)

theorem placeWave_launches (k : Nat) (l : Launch) (g n i : Nat) : (s.placeWave k l g n i).launches = s.launches :=
  foldl_keeps (fun x : State × List Nat => x.1.launches = s.launches) _ _ _ rfl fun _ _ ha => ha

theorem claimSpill_launches (n b : Nat) : (s.claimSpill n b).launches = s.launches :=
  ite_keeps (fun x : State => x.launches = s.launches) rfl rfl

/-- A workgroup stands placed in its launch (R42, R43). -/
theorem launch?_placeWg {k : Nat} {l : Launch} (hl : s.launch? k = some l) (g n : Nat) :
    ∃ m, (s.placeWg k l g n).launch? k = some m ∧ m.wgs.get? g = some { placed := true, stand := n } := by
  unfold placeWg
  extract_lets x y
  have hx : x.launches = s.launches := claimSpill_launches ..
  have hy : y.launches = s.launches := by
    refine Eq.trans ?_ hx
    refine ite_keeps (fun a : State => a.launches = x.launches) ?_ (placeScalar_launches ..)
    exact foldl_keeps (fun a : State => a.launches = x.launches) _ _ _ rfl fun a _ ha => (placeWave_launches ..).trans ha
  have hyl : y.launch? k = some l := (congrArg (fun t : Table Launch => t.get? k) hy).trans hl
  rw [launch?_modLaunch, if_pos rfl, hyl]
  refine ⟨_, rfl, ?_⟩
  exact ite_keeps (fun z : Launch => z.wgs.get? g = some { placed := true, stand := n }) (by simp) (by simp)

end

end State

open State

variable {s : State}

/-- R21, R24: a pocket that is due is released. -/
theorem exec_pocketAgeExpiry (n k : Nat) (p : Pocket) (hp : (s.stand n).pockets.get? k = some p) (hdue : s.pocketDue p = true)
    (hc : s.canRelease n p.launch (s.pocketDueAt p) k = true) (hgo : s.waveGoes p.launch p.members = true) :
    ∃ t, exec (.pocketAgeExpiry n k) s = .next t ∧ t = (s.releasePocket n k).refill n ∧
      ∃ w ∈ (t.stand n).waveQ, w.launch = p.launch ∧ w.wg = p.wg ∧ w.pc = p.pc ∧ w.members = p.members := by
  obtain ⟨w, hw, hof⟩ := releasePocket_wave hp hc
  refine ⟨_, ?_, rfl, w, mem_waveQ_refillPockets _ hw, hof⟩
  show execPocketAgeExpiry n k s = _
  simp [execPocketAgeExpiry, hp, hdue, hc, hgo]

/-- R21, R22, R43, R313: a stand's next wave starts on its engine. -/
theorem exec_waveQueueStart (n e k q : Nat) (w : WaveRec) (hw : s.nextWave n = some w) (he : s.waveEngine n w = some e) (hk : k < 32)
    (hfree : s.slot? e k = none) (htile : (s.lrec w.launch).tile = true →
      q < 4 ∧ (s.slots.filter fun key x => key / 32 == e && x.quarter == some q) = []) :
    ∃ t x, exec (.waveQueueStart n e k q) s = .next t ∧
      t = (s.startWave n e k (if (s.lrec w.launch).tile then some q else none) w).refill n ∧
      t.slot? e k = some x ∧ x.launch = w.launch ∧ x.wg = w.wg ∧ x.consts = (s.lrec w.launch).consts ∧
      x.genCode = (s.lrec w.launch).gregs ∧ x.tiles = (s.lrec w.launch).acc ∧ x.m = [] ∧ x.acc = [] := by
  obtain ⟨x, hx, hof⟩ := s.slot?_startWave n e k (if (s.lrec w.launch).tile then some q else none) w
  refine ⟨_, x, ?_, rfl, (congrArg (fun t : Table Slot => t.get? (slotKey e k)) (refill_slots _ n)).trans hx, hof⟩
  show execWaveQueueStart n e k q s = _
  have hok : !(s.lrec w.launch).tile ∨ (q < 4 ∧
      (s.slots.filter fun key x => key / 32 == e && x.quarter == some q).isEmpty) := by
    cases ht : (s.lrec w.launch).tile with
    | false => exact .inl rfl
    | true => exact .inr ⟨(htile ht).1, by rw [(htile ht).2]; rfl⟩
  simp only [execWaveQueueStart, hw]
  exact if_pos ⟨he, hk, by rw [hfree]; rfl, hok⟩

/-- R42, R43: a workgroup is placed on a stand it fits. -/
theorem exec_workgroupPlacement (k g n : Nat) (l : Launch) (hl : s.launch? k = some l) (hp : State.placing l = true)
    (hn : s.nextFor k l n = some g) (hc : s.contended k l n = false) (hidle : l.cruise.isSome = true → s.standIdle n = true)
    (hno : (l.cruise.isNone && (s.standLaunches n).any (fun e => e.2.cruise.isSome)) = false) (hfits : s.fits k l n = true) :
    ∃ t m, exec (.workgroupPlacement k g n) s = .next t ∧ t = s.placeWg k l g n ∧ t.launch? k = some m ∧
      m.wgs.get? g = some { placed := true, stand := n } := by
  obtain ⟨m, hm, hg⟩ := s.launch?_placeWg hl g n
  refine ⟨_, m, ?_, rfl, hm, hg⟩
  show execWorkgroupPlacement k g n s = _
  simp only [execWorkgroupPlacement, hl]
  have hmay : (l.cruise.isSome && !s.standIdle n) = false := by
    cases hcr : l.cruise.isSome with
    | false => rfl
    | true => rw [hidle hcr]; rfl
  simp [hp, hn, hc, hmay, hno, hfits]

end Sys2Proof.Machine
end

section
/-!
SUPPORT. Run arbitration (01 R15-R17, 05 R131): what happens at a boundary before the choice starts no run, and a run that starts
holds the ready threads of one path.
-/

namespace Sys2Proof.Machine
open Sys2Proof.Safety

/-- From `s` to `t` the focus stays and no engine starts a run. -/
structure Idles (s t : State) : Prop where
  focus : t.focus = s.focus
  runs : ∀ e, (s.engine e).run = none → (t.engine e).run = none

namespace Idles
variable {s t u : State}

theorem of_engines (h : (t.focus, t.engines) = (s.focus, s.engines)) : Idles s t := by
  obtain ⟨hf, he⟩ := Prod.mk.inj h
  refine ⟨hf, fun e hr => ?_⟩
  rw [State.engine, he]
  exact hr

theorem refl (s : State) : Idles s s := ⟨rfl, fun _ h => h⟩

theorem trans (h : Idles s t) (h' : Idles t u) : Idles s u := ⟨h'.focus.trans h.focus, fun e he => h'.runs e (h.runs e he)⟩

theorem after (h : Idles t u) (hp : (t.focus, t.engines) = (s.focus, s.engines)) : Idles s u := (of_engines hp).trans h

theorem andThen (h : Idles s t) (hp : (u.focus, u.engines) = (t.focus, t.engines)) : Idles s u := h.trans (of_engines hp)

theorem foldl {α : Type} {f : State → α → State} (l : List α) (s : State) (h : ∀ a x, Idles a (f a x)) : Idles s (l.foldl f s) :=
  foldl_keeps (Idles s) f l s (refl s) fun a x ha => ha.trans (h a x)

theorem modEngine (s : State) (k : Nat) (f : Engine → Engine) (h : (s.engine k).run = none → (f (s.engine k)).run = none) :
    Idles s (s.modEngine k f) := by
  refine ⟨rfl, fun e he => ?_⟩
  rw [State.engine_modEngine]
  split
  next hk => subst hk; exact h he
  · exact he

theorem run? (h : Idles s t) (hs : s.run? = none) : t.run? = none := by
  rw [State.run?, h.focus]; exact h.runs _ hs

end Idles

section
variable (s : State)

theorem modThread_idles (t : Nat) (f : Thread → Thread) : Idles s (s.modThread t f) := .of_engines rfl

theorem countEvent_idles (unit src n : Nat) : Idles s (s.countEvent unit src n) :=
  ⟨State.countEvent_focus s unit src n, fun e he => (congrArg Engine.run ((State.countEvent_spec s unit src n).engine e) :).trans he⟩

theorem leaveRun_idles (t : Nat) : Idles s (s.leaveRun t) := by
  unfold State.leaveRun
  split
  · exact .refl s
  · split
    · exact .refl s
    next hr => exact .modEngine s _ _ fun h => by simp [hr] at h

theorem dropSlice_idles (t : Nat) : Idles s (s.dropSlice t) := .foldl _ _ fun a k => (leaveRun_idles a k).andThen rfl

theorem withdraw_idles (t : Nat) : Idles s (s.withdraw t) :=
  .of_engines (congrArg (fun x : State => (x.focus, x.engines)) (State.withdraw_frame s t) :)

theorem syncWatch_idles (l w : Nat) (b : Bool) : Idles s (s.syncWatch l w b) := by
  unfold State.syncWatch; split <;> exact .of_engines rfl

theorem setStatus_idles (t : Nat) (st : Status) : Idles s (s.setStatus t st) := by
  unfold State.setStatus
  split
  · exact .refl s
  · exact (syncWatch_idles ..).after rfl

theorem releaseSlot_idles (e i : Nat) : Idles s (s.releaseSlot e i) := by
  unfold State.releaseSlot State.syncRelease
  exact ite_keeps (Idles s) (.of_engines rfl) (ite_keeps (Idles s) (.foldl _ _ fun a t => setStatus_idles a t .ready) (.refl s))

theorem removeThread_idles (t : Nat) (keepArea : Bool) : Idles s (s.removeThread t keepArea) := by
  unfold State.removeThread
  split
  · exact .refl s
  · have hgone := ((leaveRun_idles s t).trans (dropSlice_idles _ t)).trans (withdraw_idles _ t)
    split
    · exact ite_keeps (Idles s) (hgone.andThen rfl) (hgone.andThen rfl)
    · exact hgone.trans ((releaseSlot_idles ..).after rfl)
    · exact hgone.andThen rfl

/-! ### Tasks -/

theorem endAttempt_idles (k : Nat) (x : Task) (phase : TaskPhase) : Idles s (s.endAttempt k x phase) := by
  unfold State.endAttempt
  split
  · exact (removeThread_idles s _ _).andThen rfl
  · exact .of_engines rfl

theorem resetTask_idles (k : Nat) (phase : TaskPhase) (now : Bool) : Idles s (s.resetTask k phase now) := by
  unfold State.resetTask
  split
  · exact .refl s
  · exact ite_keeps (Idles s) (.of_engines rfl) (endAttempt_idles ..)

theorem discardTask_idles (k : Nat) (now : Bool) : Idles s (s.discardTask k now) := by
  unfold State.discardTask
  split
  · exact .refl s
  · refine ite_keeps (Idles s) (.of_engines rfl) ?_
    split
    · exact (removeThread_idles s _ _).andThen rfl
    · exact .of_engines rfl

theorem discardChild_idles (k : Nat) (now : Bool) : Idles s (s.discardChild k now) := by
  unfold State.discardChild
  split
  · exact .refl s
  · exact .trans (ite_keeps (Idles s) (.refl s) (countEvent_idles ..)) (discardTask_idles ..)

theorem abortTask_idles (k : Nat) (phase : TaskPhase) (src : Nat) (own all : Bool) :
    Idles s (s.abortTask k phase src own all) := by
  unfold State.abortTask
  split
  · exact .refl s
  · refine ite_keeps (Idles s) (.refl s) ?_
    refine ((countEvent_idles s ..).trans (.foldl _ _ fun a j => discardChild_idles a j all)).trans (.foldl _ _ fun a j => ?_)
    exact ite_keeps (Idles a) (.refl a)
      (ite_keeps (Idles a) (resetTask_idles ..) ((countEvent_idles ..).trans (resetTask_idles ..)))

theorem endDead_idles (k : Nat) : Idles s (s.endDead k) := by
  unfold State.endDead
  split
  · split
    · exact discardTask_idles ..
    · exact endAttempt_idles ..
    · exact .refl s
  · exact .refl s

/-! ### Traps -/

theorem traceTrap_idles (th : Thread) (cause : Nat) (info : W32) : Idles s (s.traceTrap th cause info) := by
  unfold State.traceTrap State.trace
  exact .modEngine s _ _ fun h => h

theorem fatalLaunch_idles (l : Nat) (f : Fatal) : Idles s (s.fatalLaunch l f) := by
  unfold State.fatalLaunch; split <;> exact .of_engines rfl

theorem fatalTrap_idles (t cause : Nat) (info : W32) : Idles s (s.fatalTrap t cause info) := by
  unfold State.fatalTrap
  split
  · exact .refl s
  · exact ((leaveRun_idles s t).trans (fatalLaunch_idles ..)).trans (setStatus_idles ..)

theorem taskTrap_idles (t k cause : Nat) (info : W32) : Idles s (s.taskTrap t k cause info) := by
  unfold State.taskTrap
  split
  next x th _ ht =>
    refine ite_keeps (Idles s) (endDead_idles ..) (ite_keeps (Idles s) ((abortTask_idles ..).after rfl) ?_)
    rw [ht]
    exact ((traceTrap_idles s th cause info).trans (fatalTrap_idles ..)).andThen rfl
  · exact .refl s

theorem trapMain_idles (t cause : Nat) (info : W32) : Idles s (s.trapMain t cause info) := by
  unfold State.trapMain
  split
  · exact .refl s
  next th _ =>
    extract_lets key x y
    have hy : Idles s y := (withdraw_idles s t).trans (ite_keeps (Idles x) (countEvent_idles ..) (.refl x))
    refine ite_keeps (Idles s) (hy.trans (fatalTrap_idles ..)) ?_
    split
    · exact hy.trans (taskTrap_idles ..)
    · refine ite_keeps (Idles s) (hy.trans ((traceTrap_idles y th 0x0E info).trans (fatalTrap_idles ..))) ?_
      refine ite_keeps (Idles s) (hy.trans ((traceTrap_idles y th cause info).trans (fatalTrap_idles ..))) ?_
      exact (hy.trans ((traceTrap_idles y th cause info).trans (leaveRun_idles _ t))).andThen rfl

theorem stopSlice_idles (t : Nat) : Idles s (s.stopSlice t) := by
  unfold State.stopSlice
  split
  · refine .trans ?_ (modThread_idles ..)
    exact (removeThread_idles _ t false).after rfl
  · exact .refl s

theorem trap_idles (t cause : Nat) (info : W32) : Idles s (s.trap t cause info) := by
  unfold State.trap
  split
  · exact (((stopSlice_idles s t).trans (modThread_idles ..)).trans (trapMain_idles ..)).trans (modThread_idles ..)
  · exact trapMain_idles ..

/-! ### A boundary -/

theorem boundary_idles (t : Nat) : Idles s (s.boundary t) := by
  unfold State.boundary
  split
  · exact .refl s
  · split
    · exact endDead_idles ..
    · refine ite_keeps (Idles s) (.refl s) (ite_keeps (Idles s) (setStatus_idles ..) ?_)
      split
      · exact (trap_idles _ t 4 _).after rfl
      · exact .refl s

theorem seekStart_idles (t : Nat) : Idles s (s.seekStart t) := by
  unfold State.seekStart
  split
  · exact .refl s
  · exact ite_keeps (Idles s) (.refl s) (.of_engines rfl)

theorem notePops_idles (i : Ins) (ts : List Nat) : Idles s (s.notePops i ts) :=
  .foldl _ _ fun a t => by
    split
    · exact ite_keeps (Idles a) ((syncWatch_idles ..).after rfl) (.refl a)
    · exact .refl a

theorem noteWait_idles (t : Nat) : Idles s (s.noteWait t) := by
  unfold State.noteWait
  split
  · exact .refl s
  · refine ite_keeps (Idles s) (.refl s) ?_
    split
    next i _ =>
      cases i.ins with
      | none => exact .refl s
      | some n => exact notePops_idles ..
    · exact .refl s

end

/-! ### The choice -/

namespace State
variable {s : State}

theorem foldl_better_mem {α : Type} (m : α → Nat) (l : List α) (a : α) : l.foldl (better m) a ∈ a :: l := by
  induction l generalizing a with
  | nil => exact List.mem_cons_self ..
  | cons b r ih =>
    have hb : better m a b = a ∨ better m a b = b := by unfold better; split <;> simp
    rcases List.mem_cons.1 (ih (better m a b)) with h | h
    · rw [List.foldl_cons, h]; rcases hb with hb | hb <;> simp [hb]
    · exact List.mem_cons_of_mem _ (List.mem_cons_of_mem _ h)

theorem mem_of_greatest {α : Type} {m : α → Nat} {l : List α} {a : α} (h : greatest m l = some a) : a ∈ l := by
  cases l with
  | nil => simp [greatest] at h
  | cons b r => exact Option.some.inj h ▸ foldl_better_mem m r b

theorem mem_of_choosePath {key g : Nat} {ps : List (W64 × List Nat)} {p : W64 × List Nat} (h : s.choosePath key g ps = some p) :
    p ∈ ps := by
  unfold choosePath at h
  split at h
  next hg => exact Option.some.inj h ▸ (List.mem_filter.1 (mem_of_greatest hg)).1
  · exact mem_of_greatest h

/-- A path holds ready threads that stand at its PC (R16). -/
theorem of_mem_paths {key g : Nat} {p : W64 × List Nat} (h : p ∈ s.paths key g) :
    ∀ u ∈ p.2, s.issuing u = true ∧ (s.thread? u).map Thread.pc = some p.1 := by
  obtain ⟨pc, -, rfl⟩ := List.mem_map.1 h
  intro u hu
  obtain ⟨hready, hpc⟩ := List.mem_filter.1 hu
  obtain ⟨-, hok⟩ := List.mem_filter.1 hready
  simp only [Bool.and_eq_true] at hok
  exact ⟨hok.1.1.2, of_decide_eq_true hpc⟩

theorem ne_nil_of_eligible {p : W64 × List Nat} (h : s.eligible p = true) : p.2 ≠ [] := by
  intro he
  simp [eligible, he] at h

/-! ### The run that starts -/

/-- Where a thread stands and whether it may issue. -/
def stands? (s : State) (u : Nat) : Option (Status × W64) := (s.thread? u).map fun th => (th.status, th.pc)

theorem of_stands? {t : State} {u : Nat} (h : t.stands? u = s.stands? u) :
    t.issuing u = s.issuing u ∧ (t.thread? u).map Thread.pc = (s.thread? u).map Thread.pc := by
  unfold stands? at h
  unfold issuing
  cases ht : t.thread? u <;> cases hs : s.thread? u <;> simp_all

theorem recordChoice_frame (s : State) (key g : Nat) (ready : List Nat) (ps : List (W64 × List Nat)) (pc : W64) :
    { s.recordChoice key g ready ps pc with engines := s.engines, slots := s.slots } = s := by
  unfold recordChoice
  extract_lets prio wait x switched y
  refine ite_keeps (fun a : State => { a with engines := s.engines, slots := s.slots } = s) ?_ rfl
  have hy : { y with engines := s.engines, slots := s.slots } = s :=
    ite_keeps (fun a : State => { a with engines := s.engines, slots := s.slots } = s)
      (congrArg (fun a : State => { a with engines := s.engines, slots := s.slots }) (countEvent_engines x key 5 1) :) rfl
  exact hy

/-- The threads of a run begin it with no carry of an earlier one (R133). -/
def carriesTaken (s : State) (ts : List Nat) : State :=
  ts.foldl (fun a t => a.modThread t fun th => { th with carry := Config.runCarry s.nextId t }) { s with nextId := s.nextId + 1 }

theorem startRun_eq (s : State) (key g : Nat) (p : W64 × List Nat) :
    s.startRun key g p = ((s.carriesTaken p.2).modEngine key fun e =>
      { e with run := some { group := g, members := p.2, pc := p.1, number := s.nextId } }).countEvent key 2 1 := rfl

theorem stands?_carriesTaken (s : State) (ts : List Nat) (u : Nat) : (s.carriesTaken ts).stands? u = s.stands? u := by
  refine foldl_keeps (fun a : State => a.stands? u = s.stands? u) _ _ _ rfl fun a t ha => Eq.trans ?_ ha
  rw [stands?, stands?, thread?_modThread]
  split
  · rw [Option.map_map]; rfl
  · rfl

theorem carriesTaken_focus (s : State) (ts : List Nat) : (s.carriesTaken ts).focus = s.focus :=
  foldl_keeps (fun a : State => a.focus = s.focus) _ _ _ rfl fun _ _ ha => ha

theorem stands?_startRun (s : State) (key g u : Nat) (p : W64 × List Nat) : (s.startRun key g p).stands? u = s.stands? u := by
  rw [startRun_eq]
  refine Eq.trans ?_ (stands?_carriesTaken s p.2 u)
  exact (congrArg (fun a : State => a.stands? u) (countEvent_engines _ key 2 1) :)

theorem run?_startRun (s : State) (g : Nat) (p : W64 × List Nat) :
    ∃ r, (s.startRun s.focus g p).run? = some r ∧ r.count = 0 ∧ r.members = p.2 ∧ r.pc = p.1 := by
  refine ⟨{ group := g, members := p.2, pc := p.1, number := s.nextId }, ?_, rfl, rfl, rfl⟩
  rw [startRun_eq, run?_countEvent, run?, engine_modEngine]
  exact congrArg Engine.run (if_pos (carriesTaken_focus s p.2))

/-- R16, R17: an engine that has no run stays idle or starts a run of ready threads at one PC. -/
theorem arbitrate_run (hs : s.run? = none) :
    (s.arbitrate s.focus).run? = none ∨ ∃ r, (s.arbitrate s.focus).run? = some r ∧ r.count = 0 ∧ r.members ≠ [] ∧
      ∀ u ∈ r.members, (s.arbitrate s.focus).issuing u = true ∧ ((s.arbitrate s.focus).thread? u).map Thread.pc = some r.pc := by
  unfold arbitrate
  extract_lets x withPaths ready
  have hx : Idles s x := .foldl _ _ fun a t => ((boundary_idles a t).trans (seekStart_idles _ t)).trans (noteWait_idles _ t)
  split
  · exact .inl (hx.run? hs)
  next g _ =>
    extract_lets ps
    split
    · exact .inl (hx.run? hs)
    next p hp =>
      have hmem : ∃ g', p ∈ (x.paths s.focus g').filter x.eligible := by
        have hps := mem_of_choosePath hp
        cases hfind : withPaths.find? fun y => y.1 == g with
        | none => simp [ps, hfind] at hps
        | some y =>
          obtain ⟨g', -, rfl⟩ := List.mem_map.1 (List.mem_of_find?_eq_some hfind)
          exact ⟨g', by simpa [ps, hfind] using hps⟩
      obtain ⟨g', hg'⟩ := hmem
      obtain ⟨hpath, helig⟩ := List.mem_filter.1 hg'
      have hrec := recordChoice_frame x s.focus g ready ps p.1
      generalize x.recordChoice s.focus g ready ps p.1 = z at hrec
      have hfocus : z.focus = s.focus := (congrArg State.focus hrec :).trans hx.focus
      obtain ⟨r, hr, hcount, hmembers, hpc⟩ := run?_startRun z g p
      rw [hfocus] at hr
      refine .inr ⟨r, hr, hcount, hmembers ▸ ne_nil_of_eligible helig, fun u hu => ?_⟩
      have hstands : (z.startRun s.focus g p).stands? u = x.stands? u :=
        (stands?_startRun z s.focus g u p).trans (congrArg (fun a : State => a.stands? u) hrec :)
      obtain ⟨hissue, hat⟩ := of_stands? hstands
      obtain ⟨hi, hp'⟩ := of_mem_paths hpath u (hmembers ▸ hu)
      exact ⟨hissue.trans hi, hat.trans (hpc ▸ hp')⟩

end State

/-- R16, R17, R399: arbitration at an engine with no run. -/
theorem exec_runArbitration {s : State} (hs : s.run? = none) (hrel : s.pkg.relocking = false)
    (hold : s.pkg.oldMode.has s.focus = false) :
    ∃ t, exec .runArbitration s = .next t ∧ t = s.arbitrate s.focus ∧
      (t.run? = none ∨ ∃ r, t.run? = some r ∧ r.count = 0 ∧ r.members ≠ [] ∧
        ∀ u ∈ r.members, t.issuing u = true ∧ (t.thread? u).map Thread.pc = some r.pc) := by
  refine ⟨_, ?_, rfl, State.arbitrate_run hs⟩
  show execRunArbitration s = _
  simp [execRunArbitration, hs, hrel, hold]

end Sys2Proof.Machine
end

section
namespace Sys2Proof.Proofs
open Sys2Proof Sys2Proof.Machine Sys2Proof.Safety

/-- Settles O46: each clause is the lemma about its event; what the writes of an end, a save or a claim abort on their way stays
within what `Calm` allows. -/
theorem placementAndLaunchSteps : Obligations.PlacementAndLaunchSteps := by
  unfold Obligations.PlacementAndLaunchSteps
  refine ⟨fun s => ⟨exec_runArbitration, exec_pocketAgeExpiry, exec_waveQueueStart, exec_workgroupPlacement, exec_displaces,
    exec_watchdogExpiry, exec_workgroupRetire⟩, fun s => ⟨fun k l f hl hf hp hstop => ⟨?_, ?_⟩, exec_preemptionComplete,
    exec_cruiseStart, exec_cruiseClaim, exec_cruiseDiscard, exec_cruiseIdleTimeout⟩⟩
  · exact exec_fatalDump k l f hl hf hp hstop
  · exact exec_fatalEnd k l f hl hf hp hstop

end Sys2Proof.Proofs
end

section
/-!
SUPPORT. The memories in canonical form (02 R57, R70; 19 R356; 20 R374; log 5): what it is for a state, an answer and a command
to keep them so, and that each operation of the model does. The lemmas stand in the order of the model's definitions. What an
operation writes to a memory goes through `withDram`, `withLoc`, `withHost` and `withRemote`; all else it sets leaves the
bytes as they are (`same`). The sections bear the names of the model's files.
-/

namespace Sys2Proof.Safety
open Sys2Proof.Machine

-- Elaborated in parallel, so many short proofs ask for more threads than the stacks of the check leave room for.
set_option Elab.async false

variable {s t : State}

/-- The bytes of the four memories. -/
def bytesOf (s : State) : Memory × Memory × Memory × Memory := (s.mem.dram, s.mem.loc, s.mem.host, s.mem.remote)

/-- The state a step answers, if it answers one, is in canonical form. -/
def NextWf (o : Host.Outcome State Fault Refusal) : Prop := ∀ t, o = .next t → MemWf t

/-- The state that `f` finds in an answer, if there is one, is in canonical form. -/
def SomeWf {α : Type} (f : α → State) (o : Option α) : Prop := ∀ a, o = some a → MemWf (f a)

/-- The state a command of a queue leaves, if it leaves one, is in canonical form. -/
def DoneWf : State.Done → Prop
  | .done s | .ask s => MemWf s
  | .hold => True

/-- What sets nothing but other parts of the state keeps the canonical form. -/
theorem MemWf.same (h : MemWf s) (e : bytesOf t = bytesOf s := by rfl) : MemWf t := by
  simp only [bytesOf, Prod.mk.injEq] at e
  obtain ⟨hd, hl, hh, hr⟩ := e
  simpa only [MemWf, hd, hl, hh, hr] using h

/-- A memory that is written keeps the canonical form where its own contents do. -/
theorem MemWf.withDram {m : Memory} (h : MemWf s) (hm : m.wf = true)
    (e : bytesOf t = (m, s.mem.loc, s.mem.host, s.mem.remote) := by rfl) : MemWf t := by
  simp only [bytesOf, Prod.mk.injEq] at e
  obtain ⟨hd, hl, hh, hr⟩ := e
  simpa only [MemWf, hd, hl, hh, hr] using ⟨hm, h.2⟩

theorem MemWf.withLoc {m : Memory} (h : MemWf s) (hm : m.wf = true)
    (e : bytesOf t = (s.mem.dram, m, s.mem.host, s.mem.remote) := by rfl) : MemWf t := by
  simp only [bytesOf, Prod.mk.injEq] at e
  obtain ⟨hd, hl, hh, hr⟩ := e
  simpa only [MemWf, hd, hl, hh, hr] using ⟨h.1, hm, h.2.2⟩

theorem MemWf.withHost {m : Memory} (h : MemWf s) (hm : m.wf = true)
    (e : bytesOf t = (s.mem.dram, s.mem.loc, m, s.mem.remote) := by rfl) : MemWf t := by
  simp only [bytesOf, Prod.mk.injEq] at e
  obtain ⟨hd, hl, hh, hr⟩ := e
  simpa only [MemWf, hd, hl, hh, hr] using ⟨h.1, h.2.1, hm, h.2.2.2⟩

theorem MemWf.withRemote {m : Memory} (h : MemWf s) (hm : m.wf = true)
    (e : bytesOf t = (s.mem.dram, s.mem.loc, s.mem.host, m) := by rfl) : MemWf t := by
  simp only [bytesOf, Prod.mk.injEq] at e
  obtain ⟨hd, hl, hh, hr⟩ := e
  simpa only [MemWf, hd, hl, hh, hr] using ⟨h.1, h.2.1, h.2.2.1, hm⟩

theorem MemWf.ite {c : Prop} [Decidable c] (hs : MemWf s) (ht : MemWf t) : MemWf (if c then s else t) :=
  ite_keeps MemWf hs ht

theorem MemWf.foldl {α : Type} {f : State → α → State} {l : List α} (h : MemWf s)
    (hf : ∀ a x, MemWf a → MemWf (f a x)) : MemWf (l.foldl f s) := foldl_keeps MemWf f l s h hf

theorem MemWf.optionElim {α : Type} {o : Option α} {f : α → State} (h : MemWf s) (hf : ∀ x, MemWf (f x)) :
    MemWf (o.elim s f) := by
  cases o with
  | none => exact h
  | some x => exact hf x

theorem NextWf.next (h : MemWf s) : NextWf (.next s) := fun _ e => by cases e; exact h

theorem NextWf.refused {r : Refusal} : NextWf (.refused r) := fun _ e => by cases e

theorem NextWf.ite {c : Prop} [Decidable c] {o q : Host.Outcome State Fault Refusal} (ho : NextWf o) (hq : NextWf q) :
    NextWf (if c then o else q) := ite_keeps NextWf ho hq

section
variable {α β : Type} {f : α → State} {a : α} {o q : Option α}

theorem SomeWf.some (h : MemWf (f a)) : SomeWf f (.some a) := fun _ e => by cases e; exact h

theorem SomeWf.none : SomeWf f .none := fun _ e => by cases e

theorem SomeWf.ite {c : Prop} [Decidable c] (ho : SomeWf f o) (hq : SomeWf f q) : SomeWf f (if c then o else q) :=
  ite_keeps (SomeWf f) ho hq

theorem SomeWf.map {g : β → α} {o : Option β} (h : ∀ b, MemWf (f (g b))) : SomeWf f (o.map g) := fun _ e => by
  obtain ⟨b, -, rfl⟩ := Option.map_eq_some_iff.1 e
  exact h b

theorem MemWf.get (h : SomeWf f o) (e : o = some a) : MemWf (f a) := h a e

end

theorem MemWf.getD {o : Option State} (ho : SomeWf id o) (h : MemWf s) : MemWf (o.getD s) := by
  cases o with
  | none => exact h
  | some t => exact ho t rfl

theorem DoneWf.done (h : MemWf s) : DoneWf (.done s) := h

theorem DoneWf.hold : DoneWf .hold := trivial

theorem DoneWf.asking {o : Option State} (h : SomeWf id o) : DoneWf (o.elim .hold .ask) := by
  cases o with
  | none => exact .hold
  | some t => exact h t rfl

theorem DoneWf.ite {c : Prop} [Decidable c] {d e : State.Done} (hd : DoneWf d) (he : DoneWf e) :
    DoneWf (if c then d else e) :=
  ite_keeps DoneWf hd he

/-- What sets one part of the state other than the memory keeps the canonical form. -/
theorem MemWf.withPkg {p} (h : MemWf s) : MemWf { s with pkg := p } := .same h

theorem MemWf.withFocus {e} (h : MemWf s) : MemWf { s with focus := e } := .same h

theorem MemWf.withCruises {c} (h : MemWf s) : MemWf { s with cruises := c } := .same h

theorem MemWf.withTiles {p} (h : MemWf s) : MemWf { s with tiles := p } := .same h

theorem MemWf.withRecs {r} (h : MemWf s) : MemWf { s with recs := r } := .same h

theorem MemWf.withRouteWait {r} (h : MemWf s) : MemWf { s with routeWait := r } := .same h

theorem MemWf.withSavedRecs {v r} (h : MemWf s) : MemWf { s with saved := v, recs := r } := .same h

theorem MemWf.withDramPoison {p} (h : MemWf s) : MemWf { s with mem := { s.mem with dramPoison := p } } := .same h

theorem MemWf.withLocPoison {p} (h : MemWf s) : MemWf { s with mem := { s.mem with locPoison := p } } := .same h

theorem MemWf.ofDone {d : State.Done} (h : DoneWf d) (e : d = .done s) : MemWf s := by subst e; exact h

theorem MemWf.ofAsk {d : State.Done} (h : DoneWf d) (e : d = .ask s) : MemWf s := by subst e; exact h

/-- Every state an instruction's own part makes of one in canonical form is in canonical form. -/
structure Sem.Keeps (sem : Sem) : Prop where
  act : ∀ {i lead go s}, MemWf s → MemWf (sem.act i lead go s)
  prep : ∀ {i lead go s}, MemWf s → MemWf (sem.prep i lead go s) := by exact fun h => h
  parked : ∀ {i s u}, MemWf s → MemWf (sem.parked i s u) := by exact fun h => h
  trapped : ∀ {i s u}, MemWf s → MemWf (sem.trapped i s u) := by exact fun h => h

/-! ### Machine/Regs -/

theorem MemWf.setReg {off v} (h : MemWf s) : MemWf (s.setReg off v) := .same h

theorem MemWf.setRegN {off v} (h : MemWf s) : MemWf (s.setRegN off v) := .same h

theorem MemWf.orReg {off v} (h : MemWf s) : MemWf (s.orReg off v) := .same h

theorem MemWf.bumpReg {off n} (h : MemWf s) : MemWf (s.bumpReg off n) := .same h

/-! ### Machine/Ops -/

theorem MemWf.setThread {t th} (h : MemWf s) : MemWf (s.setThread t th) := .same h

theorem MemWf.modThread {t f} (h : MemWf s) : MemWf (s.modThread t f) := .same h

theorem MemWf.modEngine {k f} (h : MemWf s) : MemWf (s.modEngine k f) := .same h

theorem MemWf.modCore {c f} (h : MemWf s) : MemWf (s.modCore c f) := .same h

theorem MemWf.modCluster {c f} (h : MemWf s) : MemWf (s.modCluster c f) := .same h

theorem MemWf.modStand {n f} (h : MemWf s) : MemWf (s.modStand n f) := .same h

theorem MemWf.modDie {n f} (h : MemWf s) : MemWf (s.modDie n f) := .same h

theorem MemWf.modQueue {n f} (h : MemWf s) : MemWf (s.modQueue n f) := .same h

theorem MemWf.modPart {n f} (h : MemWf s) : MemWf (s.modPart n f) := .same h

theorem MemWf.modHome {line f} (h : MemWf s) : MemWf (s.modHome line f) := .same h

theorem MemWf.modLaunch {l f} (h : MemWf s) : MemWf (s.modLaunch l f) := .same h

theorem MemWf.modWg {l w f} (h : MemWf s) : MemWf (s.modWg l w f) := .same h

theorem MemWf.modSlot {e i f} (h : MemWf s) : MemWf (s.modSlot e i f) := .same h

theorem MemWf.modOp {o f} (h : MemWf s) : MemWf (s.modOp o f) := .same h

theorem MemWf.fresh (h : MemWf s) : MemWf ((s.fresh).2) := .same h

theorem MemWf.countEvent {unit src n} (h : MemWf s) : MemWf (s.countEvent unit src n) :=
  .ite h (.foldl h fun _ _ h => .ite (.modEngine h) h)

theorem MemWf.trace {unit grp type w1 w2 w3 mask} (h : MemWf s) : MemWf (s.trace unit grp type w1 w2 w3 mask) := .same h

theorem MemWf.traceArrival {src key n atomic data} (h : MemWf s) : MemWf (s.traceArrival src key n atomic data) :=
  .same h

theorem MemWf.tracePlace {src p bs} (h : MemWf s) : MemWf (s.tracePlace src p bs) := by
  unfold State.tracePlace
  split
  · exact .traceArrival h
  · exact h

theorem MemWf.dramStore {pa bs poison} (h : MemWf s) : MemWf (s.dramStore pa bs poison) :=
  .withDram h (Memory.wf_write _ _ h.1)

theorem MemWf.locStore {key bs poison} (h : MemWf s) : MemWf (s.locStore key bs poison) :=
  .withLoc h (Memory.wf_foldl _ (fun _ _ hm => Memory.wf_writeByte _ _ hm) _ h.2.1)

theorem MemWf.claimSpill {stand spill} (h : MemWf s) : MemWf (s.claimSpill stand spill) := .ite h (.modStand h)

theorem MemWf.clearPrivate {c x} (h : MemWf s) : MemWf (s.clearPrivate c x) := .withLoc h (Memory.wf_clear _ _ h.2.1)

theorem MemWf.syncWatch {l w reset} (h : MemWf s) : MemWf (s.syncWatch l w reset) := by
  unfold State.syncWatch
  split
  · exact h
  · exact .modWg h

theorem MemWf.setStatus {t st} (h : MemWf s) : MemWf (s.setStatus t st) := by
  unfold State.setStatus
  split
  · exact h
  · exact .syncWatch (.setThread h)

theorem MemWf.writeK {t n v} (h : MemWf s) : MemWf (s.writeK t n v) := by
  unfold State.writeK
  split
  · exact h
  · dsimp only
    split
    · exact .modSlot h
    · exact .foldl h fun _ _ h => .modThread h
    · exact .modThread h

theorem MemWf.leaveRun {t} (h : MemWf s) : MemWf (s.leaveRun t) := by
  unfold State.leaveRun
  split
  · exact h
  · split
    · exact h
    · exact .modEngine h

theorem MemWf.syncRelease {e i} (h : MemWf s) : MemWf (s.syncRelease e i) := .ite (.foldl h fun _ _ h => .setStatus h) h

theorem MemWf.leaveCmds {engine grp} (h : MemWf s) : MemWf (s.leaveCmds engine grp) := .same h

theorem MemWf.releaseSlot {e i} (h : MemWf s) : MemWf (s.releaseSlot e i) := .ite (.same h) (.syncRelease h)

theorem MemWf.dropSlice {t} (h : MemWf s) : MemWf (s.dropSlice t) := .foldl h fun _ _ h => .same (.leaveRun h)

theorem MemWf.withdraw {t} (h : MemWf s) : MemWf (s.withdraw t) := by
  unfold State.withdraw
  split
  · exact h
  · exact .same h

theorem MemWf.removeThread {t keepArea} (h : MemWf s) : MemWf (s.removeThread t keepArea) := by
  unfold State.removeThread
  split
  · exact h
  · dsimp only
    split
    · refine .ite ?_ (.clearPrivate ?_) <;> exact .leaveCmds (.same (.withdraw (.dropSlice (.leaveRun h))))
    · exact .releaseSlot (.same (.withdraw (.dropSlice (.leaveRun h))))
    · exact .same (.withdraw (.dropSlice (.leaveRun h)))

theorem MemWf.endAttempt {k x phase} (h : MemWf s) : MemWf (s.endAttempt k x phase) := by
  unfold State.endAttempt
  refine .same ?_
  split
  · exact .removeThread h
  · exact h

theorem MemWf.resetTask {k phase now} (h : MemWf s) : MemWf (s.resetTask k phase now) := by
  unfold State.resetTask
  split
  · exact h
  · exact .ite (.same h) (.endAttempt h)

theorem MemWf.discardTask {k now} (h : MemWf s) : MemWf (s.discardTask k now) := by
  unfold State.discardTask
  split
  · exact h
  · refine .ite (.same h) (.same ?_)
    split
    · exact .removeThread h
    · exact h

theorem MemWf.endDead {k} (h : MemWf s) : MemWf (s.endDead k) := by
  unfold State.endDead
  split
  · split
    · exact .discardTask h
    · exact .endAttempt h
    · exact h
  · exact h

theorem MemWf.discardChild {k now} (h : MemWf s) : MemWf (s.discardChild k now) := by
  unfold State.discardChild
  split
  · exact h
  · exact .discardTask (.ite h (.countEvent h))

theorem MemWf.abortTask {k phase src own all} (h : MemWf s) : MemWf (s.abortTask k phase src own all) := by
  unfold State.abortTask
  split
  · exact h
  · exact .ite h (.foldl (.foldl (.countEvent h) fun _ _ h => .discardChild h) fun _ _ h => .ite h
      (.ite (.resetTask h) (.resetTask (.countEvent h))))

theorem MemWf.conflict {ks e} (h : MemWf s) : MemWf (s.conflict ks e) :=
  .ite h (.abortTask (.ite h (.countEvent (.modStand h))))

theorem MemWf.noteWrites {ks mine} (h : MemWf s) : MemWf (s.noteWrites ks mine) :=
  .foldl (.same h) fun _ _ h => .conflict h

theorem MemWf.noteWrite {pa n mine} (h : MemWf s) : MemWf (s.noteWrite pa n mine) := .noteWrites h

theorem MemWf.cleanLine {line} (h : MemWf s) : MemWf (s.cleanLine line) := .ite h (.same h)

theorem MemWf.unitWrite {pa bs poison} (h : MemWf s) : MemWf (s.unitWrite pa bs poison) :=
  .noteWrite (.dramStore (.foldl h fun _ _ h => .cleanLine h))

theorem MemWf.flushEvents {part n} (h : MemWf s) : MemWf (s.flushEvents part n) := by
  induction n generalizing s with
  | zero => exact h
  | succ n ih =>
    unfold State.flushEvents
    refine .ite h ?_
    split
    · exact h
    · exact .ite h (ih (.setRegN (.unitWrite (.modDie h))))

theorem MemWf.eventWord {part die type idx src w10} (h : MemWf s) : MemWf (s.eventWord part die type idx src w10) :=
  .flushEvents (.modDie (.modPart h))

theorem MemWf.eventRecord {part die type idx src pkg launch} (h : MemWf s) :
    MemWf (s.eventRecord part die type idx src pkg launch) :=
  .eventWord h

theorem MemWf.flushLog {n} (h : MemWf s) : MemWf (s.flushLog n) := by
  induction n generalizing s with
  | zero => exact h
  | succ n ih =>
    unfold State.flushLog
    refine .ite h ?_
    split
    · exact h
    · exact .ite h (ih (.setRegN (.unitWrite (.same h))))

theorem MemWf.logWord {type idx src w10} (h : MemWf s) : MemWf (s.logWord type idx src w10) := .flushLog (.same h)

theorem MemWf.discardMsg {m type} (h : MemWf s) : MemWf (s.discardMsg m type) := .eventRecord (.bumpReg h)

theorem MemWf.fqWrite {part r} (h : MemWf s) : MemWf (s.fqWrite part r) := .setRegN (.unitWrite h)

theorem MemWf.flushFaults {part n} (h : MemWf s) : MemWf (s.flushFaults part n) := by
  induction n generalizing s with
  | zero => exact h
  | succ n ih =>
    unfold State.flushFaults
    refine .ite h ?_
    split
    · exact h
    · refine ih ?_
      split
      · exact .fqWrite (.modDie h)
      · exact .modDie h

theorem MemWf.watchWho {who} (h : MemWf s) : MemWf (s.watchWho who) := by
  unfold State.watchWho
  split
  · exact .syncWatch h
  · exact h

theorem MemWf.keepPageFault {part r who} (h : MemWf s) : MemWf ((s.keepPageFault part r who).2) := .watchWho (.same h)

theorem MemWf.raiseFault {part die r who} (h : MemWf s) : MemWf ((s.raiseFault part die r who).2) := by
  unfold State.raiseFault
  split
  · exact .keepPageFault h
  · exact .watchWho (.ite (.fqWrite (.same h)) (.orReg (.modDie (.same h))))

theorem MemWf.flushUnits (h : MemWf s) : MemWf (s.flushUnits) :=
  .flushLog (.foldl h fun _ _ h => .flushEvents (.flushFaults h))

theorem MemWf.reportFault {part die r} (h : MemWf s) : MemWf (s.reportFault part die r) := by
  unfold State.reportFault
  dsimp only
  split
  · exact .ite (.same h) (.raiseFault h)
  · exact .raiseFault h

theorem MemWf.fatalLaunch {l f} (h : MemWf s) : MemWf (s.fatalLaunch l f) := by
  unfold State.fatalLaunch
  split
  · exact .same h
  · exact .modLaunch h

theorem MemWf.fatalTrap {t cause info} (h : MemWf s) : MemWf (s.fatalTrap t cause info) := by
  unfold State.fatalTrap
  split
  · exact h
  · exact .setStatus (.fatalLaunch (.leaveRun h))

theorem MemWf.traceTrap {th cause info} (h : MemWf s) : MemWf (s.traceTrap th cause info) := .same h

theorem MemWf.taskTrap {t k cause info} (h : MemWf s) : MemWf (s.taskTrap t k cause info) := by
  unfold State.taskTrap
  split
  · exact .ite (.endDead h) (.ite (.abortTask (.same h)) (.same (.fatalTrap (.optionElim h fun _ => .traceTrap h))))
  · exact h

theorem MemWf.trapMain {t cause info} (h : MemWf s) : MemWf (s.trapMain t cause info) := by
  unfold State.trapMain
  split
  · exact h
  · refine .ite (.fatalTrap (.ite (.countEvent (.withdraw h)) (.withdraw h))) ?_
    split
    · exact .taskTrap (.ite (.countEvent (.withdraw h)) (.withdraw h))
    · refine .ite (.fatalTrap ?_) (.ite (.fatalTrap ?_) (.setThread (.leaveRun ?_)))
      all_goals exact .traceTrap (.ite (.countEvent (.withdraw h)) (.withdraw h))

theorem MemWf.stopSlice {t} (h : MemWf s) : MemWf (s.stopSlice t) := by
  unfold State.stopSlice
  split
  · exact .modThread (.removeThread (.same h))
  · exact h

theorem MemWf.trap {t cause info} (h : MemWf s) : MemWf (s.trap t cause info) := by
  unfold State.trap
  split
  · exact .modThread (.trapMain (.modThread (.stopSlice h)))
  · exact .trapMain h

theorem MemWf.eret {t} (h : MemWf s) : MemWf (s.eret t) := .same h

theorem MemWf.parkMates {tids key} (h : MemWf s) : MemWf (s.parkMates tids key) := by
  unfold State.parkMates
  split
  · refine .same ?_
    exact .foldl h fun _ _ h => .setStatus (.leaveRun h)
  · exact h

theorem MemWf.park {tids kind page addr source write atomic pasid auto prg} (h : MemWf s) :
    MemWf (s.park tids kind page addr source write atomic pasid auto prg) := by
  unfold State.park
  split
  · exact h
  · refine .ite (.foldl (.fatalLaunch h) fun _ _ h => .setStatus (.leaveRun h))
      (.ite (.optionElim h fun _ => .endDead h) (.parkMates (.foldl (.raiseFault h) fun _ _ h => ?_)))
    dsimp only
    split
    · exact .abortTask (.countEvent h)
    · exact .setStatus (.modThread (.leaveRun (.countEvent h)))

/-! ### Machine/Gather -/

theorem MemWf.queueWave {stand w} (h : MemWf s) : MemWf (s.queueWave stand w) := .same h

theorem MemWf.releasePocket {stand idx} (h : MemWf s) : MemWf (s.releasePocket stand idx) := by
  unfold State.releasePocket
  split
  · exact h
  · exact .ite h (.foldl (.queueWave (.modStand h)) fun _ _ h => .modThread h)

theorem MemWf.joinPocket {stand idx t launch wg pc} (h : MemWf s) : MemWf (s.joinPocket stand idx t launch wg pc) :=
  .ite (.releasePocket (.modStand (.modThread h))) (.modStand (.modThread h))

theorem MemWf.placeInPocket {stand t launch wg pc} (h : MemWf s) : MemWf (s.placeInPocket stand t launch wg pc) := by
  unfold State.placeInPocket
  split
  · exact .joinPocket h
  · exact .modStand (.modThread h)

theorem MemWf.refillPockets {stand n} (h : MemWf s) : MemWf (s.refillPockets stand n) := by
  induction n generalizing s with
  | zero => exact h
  | succ n ih =>
    unfold State.refillPockets
    dsimp only
    split
    · exact h
    · split
      · exact h
      · exact ih (.placeInPocket (.modStand h))

theorem MemWf.refill {stand} (h : MemWf s) : MemWf (s.refill stand) := .refillPockets h

theorem MemWf.resolveGuards {engine grp} (h : MemWf s) : MemWf (s.resolveGuards engine grp) := .same h

theorem MemWf.leaveHome {t pc} (h : MemWf s) : MemWf (s.leaveHome t pc) := by
  unfold State.leaveHome
  split
  · exact h
  · dsimp only
    split
    · refine .releaseSlot (.setThread ?_)
      split
      · exact .resolveGuards (.leaveRun h)
      · exact .leaveRun h
    · refine .setThread ?_
      split
      · exact .resolveGuards (.leaveRun h)
      · exact .leaveRun h

theorem SomeWf.file {t stand pc} (h : MemWf s) : SomeWf id (s.file t stand pc) := by
  unfold State.file
  split
  · exact .none
  · exact .ite (.some (.refill (.placeInPocket (.modThread (.leaveHome h))))) .none

/-! ### Machine/Operands -/

theorem MemWf.fillQueue {m q op v poison} (h : MemWf s) : MemWf (s.fillQueue m q op v poison) := .same h

theorem MemWf.pushQueue {m q e} (h : MemWf s) : MemWf (s.pushQueue m q e) := .same h

theorem MemWf.pushIdle {i t} (h : MemWf s) : MemWf (State.pushIdle i s t) :=
  .foldl h fun _ _ h => .ite (.pushQueue (.fresh h)) h

theorem MemWf.popQueues {top i t} (h : MemWf s) : MemWf (State.popQueues top i s t) := .same h

theorem MemWf.writeReg {t i f n v} (h : MemWf s) : MemWf (s.writeReg t i f n v) := by
  unfold State.writeReg
  split
  · exact .ite (.pushQueue h) (.modThread h)
  · exact .writeK h
  · exact .modThread h
  · exact h

theorem MemWf.writeRegs {t i f idx v n} (h : MemWf s) : MemWf (s.writeRegs t i f idx v n) := by
  induction n generalizing s idx v with
  | zero => exact h
  | succ n ih => exact ih (.writeReg h)

theorem MemWf.writeD {t i v} (h : MemWf s) : MemWf (s.writeD t i v) := by
  unfold State.writeD
  split
  · exact .writeRegs h
  · exact .writeRegs h
  · exact h

theorem MemWf.emptyD {t i} (h : MemWf s) : MemWf (s.emptyD t i) := by
  unfold State.emptyD
  split
  · exact .modThread h
  · exact .modThread h
  · exact h

theorem MemWf.writeDP {ts i v} (h : MemWf s) : MemWf (s.writeDP ts i v) := .foldl h fun _ _ h => .modThread h

/-! ### Machine/Issue -/

theorem MemWf.trapGuards {r i} (h : MemWf s) : MemWf (s.trapGuards r i) := by
  unfold State.trapGuards
  refine .foldl h fun _ _ h => ?_
  split
  · refine .ite ?_ h
    split
    · exact .trap h
    · exact h
  · exact h

theorem MemWf.refileOrTrap {t feature i} (h : MemWf s) : MemWf (s.refileOrTrap t feature i) := by
  unfold State.refileOrTrap
  split
  · split
    · exact (.get (.file h) ‹_›)
    · exact .leaveRun h
  · exact .trap h

theorem MemWf.precheck {sem r i t} (h : MemWf s) : MemWf ((State.precheck sem r i s t).1) := by
  unfold State.precheck
  dsimp only
  split
  · exact .trap h
  · split
    · exact .refileOrTrap h
    · split
      · exact .trap h
      · split
        · exact .trap h
        · split
          · exact .refileOrTrap h
          · exact h

theorem MemWf.precheckAll {sem r i ts} (h : MemWf s) : MemWf (State.precheckAll sem r i s ts).1 := by
  induction ts generalizing s with
  | nil => exact h
  | cons t ts ih => exact ih (.precheck h)

theorem MemWf.parkAll {n ps} (h : MemWf s) : MemWf (s.parkAll n ps) := by
  induction n generalizing s ps with
  | zero => cases ps <;> exact h
  | succ n ih =>
    cases ps with
    | nil => exact h
    | cons p ps => exact ih (.park h)

theorem MemWf.settle {c} (h : MemWf s) : MemWf (s.settle c) :=
  .foldl (.parkAll (.foldl h fun _ _ h => .trap h)) fun _ _ h => .leaveRun h

theorem MemWf.advance {i} (h : MemWf s) : MemWf (s.advance i) := by
  unfold State.advance
  split
  · exact h
  · exact .foldl h fun _ _ h => .modThread h

theorem MemWf.retireAs {yields i} (h : MemWf s) : MemWf (s.retireAs yields i) := by
  unfold State.retireAs
  split
  · exact h
  · exact .modEngine h

theorem MemWf.retire {i} (h : MemWf s) : MemWf (s.retire i) := .retireAs h

theorem MemWf.skip {i} (h : MemWf s) : MemWf (s.skip i) := .retireAs (.advance h)

theorem MemWf.passBy {i} (h : MemWf s) : MemWf (s.passBy i) := .skip (.foldl h fun _ _ h => .popQueues h)

theorem MemWf.perform {sem i lead go} (h : MemWf s) (hs : Sem.Keeps sem) : MemWf (s.perform sem i lead go) := by
  have hact : MemWf (sem.act i lead go (s.advance i)) := hs.act (.advance h)
  exact .retire (.countEvent (.foldl (.ite (.foldl hact fun _ _ h => .pushIdle h) hact) fun _ _ h => .popQueues h))

theorem MemWf.notePops {i ts} (h : MemWf s) : MemWf (s.notePops i ts) := by
  unfold State.notePops
  refine .foldl h fun _ _ h => ?_
  split
  · exact .ite (.syncWatch (.modThread h)) h
  · exact h

theorem MemWf.stopTorn (h : MemWf t) : MemWf (s.stopTorn t) := .ite (.foldl h fun _ _ h => .stopSlice h) h

theorem MemWf.loseHeld {t} (h : MemWf s) : MemWf (s.loseHeld t) := .setStatus (.leaveRun (.modThread (.withdraw h)))

theorem MemWf.endHeld {t i holds} (h : MemWf s) : MemWf (s.endHeld t i holds) := by
  unfold State.endHeld
  split
  · exact .modEngine h
  · exact .foldl h fun _ _ h => .loseHeld h
  · exact h

theorem MemWf.holdRun {lead} (h : MemWf s) : MemWf (s.holdRun lead) := .same h

/-- What the checks leave: the preparation of a held instruction, and what it leaves for each thread parked or trapped. -/
theorem MemWf.checked {sem i lead} {c : State.Checked} (h : MemWf s) (hs : Sem.Keeps sem) :
    MemWf (c.traps.foldl (fun s e => sem.trapped i s e.1)
      (c.parks.foldl (fun s e => sem.parked i s e.1) (if c.holds.isEmpty then s else sem.prep i lead c.holds s))) :=
  .foldl (.foldl (.ite h (hs.prep h)) fun _ _ h => hs.parked h) fun _ _ h => hs.trapped h

theorem MemWf.issueThreads {sem i go first} (h : MemWf s) (hs : Sem.Keeps sem) :
    MemWf (s.issueThreads sem i go first) := by
  refine .ite (.notePops h)
    (.ite (.stopTorn (.passBy ?_)) (.ite (.endHeld (.holdRun ?_)) (.ite (.passBy ?_) (.perform ?_ hs))))
  all_goals exact .settle (.checked h hs)

theorem MemWf.issueRun {sem i r} (h : MemWf s) (hs : Sem.Keeps sem) : MemWf (s.issueRun sem i r) := by
  unfold State.issueRun
  dsimp only
  split
  · exact .stopTorn (.skip (.trapGuards h))
  · split
    · exact .stopTorn (.passBy (.precheckAll (.trapGuards h)))
    · exact .ite (.stopTorn (.skip (.precheckAll (.trapGuards h)))) (.issueThreads (.precheckAll (.trapGuards h)) hs)

theorem NextWf.issue {sem i} (h : MemWf s) (hs : Sem.Keeps sem) : NextWf (issue sem i s) := by
  unfold Machine.issue
  split
  · exact .refused
  · exact .next (.issueRun h hs)

/-! ### Machine/Translate -/

theorem MemWf.unitInsert {key tr} (h : MemWf s) : MemWf (s.unitInsert key tr) := .same h

theorem MemWf.tlbInsert {stand tr} (h : MemWf s) : MemWf (s.tlbInsert stand tr) := .same h

theorem MemWf.notePages {task cruise part va n} (h : MemWf s) : MemWf (s.notePages task cruise part va n) := by
  unfold State.notePages
  dsimp only
  split
  · refine .same ?_
    split
    · exact .same h
    · exact h
  · split
    · exact .same h
    · exact h

theorem MemWf.askUnit {who stand part va ea need pc} (h : MemWf s) : MemWf (s.askUnit who stand part va ea need pc) :=
  .ite h (.same h)

theorem MemWf.askWalk {t part va ea need atomic} (h : MemWf s) : MemWf (s.askWalk t part va ea need atomic) := by
  unfold State.askWalk
  dsimp only
  split
  · split
    · exact .ite h (.same h)
    · exact h
  · exact .same h

/-! ### Machine/TaskMem -/

theorem MemWf.noteTaskRead {j ks nib} (h : MemWf s) : MemWf (s.noteTaskRead j ks nib) := by
  unfold State.noteTaskRead
  split
  · exact h
  · exact .same h

theorem MemWf.taskWrite {j cells nib} (h : MemWf s) : MemWf (s.taskWrite j cells nib) := by
  unfold State.taskWrite
  split
  · exact h
  · exact .foldl (.same h) fun _ _ h => .conflict h

theorem MemWf.noteKeys {j c ps} (h : MemWf s) : MemWf (s.noteKeys j c ps) := by
  unfold State.noteKeys
  dsimp only
  split
  · refine .same ?_
    split
    · exact .same h
    · exact h
  · split
    · exact .same h
    · exact h

theorem MemWf.cruiseWrite {c cells nib bad} (h : MemWf s) : MemWf (s.cruiseWrite c cells nib bad) := .same h

theorem MemWf.noteCruiseRead {c ks} (h : MemWf s) : MemWf (s.noteCruiseRead c ks) := .same h

theorem MemWf.noteEngineRead {l ps} (h : MemWf s) : MemWf (s.noteEngineRead l ps) := by
  unfold State.noteEngineRead
  split
  · exact h
  · refine .foldl h fun _ _ h => ?_
    split
    · exact .noteCruiseRead h
    · exact h
    · exact .same h

/-! ### Machine/Places -/

theorem MemWf.beginRoute {part pkg} (h : MemWf s) : MemWf (s.beginRoute part pkg) := .same h

theorem MemWf.endRoutes {part ps} (h : MemWf s) : MemWf (s.endRoutes part ps) := by
  unfold State.endRoutes
  refine .foldl h fun _ _ h => ?_
  split
  · exact .same h
  · exact h

theorem MemWf.settleLine {line key} (h : MemWf s) : MemWf (s.settleLine line key) := .same h

theorem MemWf.storePlace {p key bs flags nib} (h : MemWf s) : MemWf (s.storePlace p key bs flags nib) := by
  unfold State.storePlace
  dsimp only
  split
  next pa =>
    have hline : MemWf (s.settleLine (pa / 64) key) := .settleLine h
    exact .withDramPoison (.ite (.withDram hline (Memory.wf_write _ _ hline.1)) (.dramStore hline))
  · exact .withLocPoison (.ite (.withLocPoison (.locStore h)) (.locStore h))
  · exact .withHost h (Memory.wf_write _ _ h.2.2.1)
  · exact .withRemote h (Memory.wf_write _ _ h.2.2.2)
  · exact h

theorem MemWf.writePlace {p key bs flags nib mine} (h : MemWf s) : MemWf (s.writePlace p key bs flags nib mine) :=
  .ite (.noteWrite (.storePlace h)) (.storePlace h)

theorem MemWf.writePlaces {ws mine} (h : MemWf s) : MemWf (s.writePlaces ws mine) :=
  .noteWrites (.foldl h fun _ _ h => .storePlace h)

theorem MemWf.noteMisdirected {unit} (h : MemWf s) : MemWf (s.noteMisdirected unit) := by
  unfold State.noteMisdirected
  dsimp only
  split
  · exact .same h
  · exact .bumpReg h

theorem MemWf.noteSram {sram unit} (h : MemWf s) : MemWf (s.noteSram sram unit) := .same h

theorem MemWf.noteBadLine {pa part unit} (h : MemWf s) : MemWf (s.noteBadLine pa part unit) := by
  unfold State.noteBadLine
  refine .ite (.logWord (.optionElim (.same ?_) fun _ => .eventWord (.same ?_))) (.same ?_) <;> exact .ite
    (.noteMisdirected h) h

theorem MemWf.noteCorrected {line} (h : MemWf s) : MemWf (s.noteCorrected line) := .same h

theorem MemWf.noteEcc {pa key part unit} (h : MemWf s) : MemWf (s.noteEcc pa key part unit) :=
  .ite (.noteBadLine h) (.ite (.noteCorrected h) h)

theorem MemWf.noteReads {part ps unit} (h : MemWf s) : MemWf (s.noteReads part ps unit) := by
  unfold State.noteReads
  refine .foldl h fun _ _ h => ?_
  split
  · exact .noteEcc h
  · exact h

theorem MemWf.reportLost {o p kind} (h : MemWf s) : MemWf (s.reportLost o p kind) := .reportFault h

theorem MemWf.countLost {t} (h : MemWf s) : MemWf (s.countLost t) := .same h

theorem MemWf.countDropped {l p} (h : MemWf s) : MemWf (s.countDropped l p) := by
  unfold State.countDropped
  refine .modLaunch ?_
  split
  · split
    · exact .bumpReg h
    · exact h
  · exact h

theorem MemWf.unitReport {u kind ps} (h : MemWf s) : MemWf (s.unitReport u kind ps) :=
  .ite h (.foldl h fun _ _ h => .reportFault h)

theorem MemWf.unitNote {u ps} (h : MemWf s) : MemWf (s.unitNote u ps) := .endRoutes (.unitReport (.noteReads h))

theorem MemWf.storeParts {lost src ps bs qs} (h : MemWf s) : MemWf (s.storeParts lost src ps bs qs) := by
  induction ps generalizing s bs qs with
  | nil => exact h
  | cons p ps ih => exact ih (.ite h (.tracePlace (.writePlace h)))

theorem MemWf.unitDrop {u lost} (h : MemWf s) : MemWf (s.unitDrop u lost) := by
  unfold State.unitDrop
  refine .endRoutes (.unitReport (.foldl h fun _ _ h => ?_))
  split
  · exact .countDropped h
  · split
    · exact .optionElim h fun _ => .bumpReg h
    · exact h

theorem MemWf.unitStore {u ps bs qs} (h : MemWf s) : MemWf (s.unitStore u ps bs qs) := .unitDrop (.storeParts h)

/-! ### Machine/Arbitration -/

theorem MemWf.seekStart {t} (h : MemWf s) : MemWf (s.seekStart t) := by
  unfold State.seekStart
  split
  · exact h
  · exact .ite h (.modThread (.modLaunch h))

theorem MemWf.boundary {t} (h : MemWf s) : MemWf (s.boundary t) := by
  unfold State.boundary
  split
  · exact h
  · split
    · exact .endDead h
    · refine .ite h (.ite (.setStatus h) ?_)
      split
      · exact .trap (.modThread h)
      · exact h

theorem MemWf.recordChoice {key grp ready ps pc} (h : MemWf s) : MemWf (s.recordChoice key grp ready ps pc) :=
  .ite (.modSlot (.ite (.countEvent (.modEngine h)) (.modEngine h))) (.modEngine h)

theorem MemWf.startRun {key grp p} (h : MemWf s) : MemWf (s.startRun key grp p) :=
  .countEvent (.modEngine (.foldl (.fresh h) fun _ _ h => .modThread h))

theorem MemWf.noteWait {t} (h : MemWf s) : MemWf (s.noteWait t) := by
  unfold State.noteWait
  split
  · exact h
  · refine .ite h ?_
    split
    · exact .optionElim h fun _ => .notePops h
    · exact h

theorem MemWf.arbitrate {key} (h : MemWf s) : MemWf (s.arbitrate key) := by
  unfold State.arbitrate
  have hwaits : ∀ ts : List Nat, MemWf (ts.foldl (fun s t => ((s.boundary t).seekStart t).noteWait t) s) :=
    fun _ => .foldl h fun _ _ h => .noteWait (.seekStart (.boundary h))
  dsimp only
  split
  · exact hwaits _
  · split
    · exact hwaits _
    · exact .startRun (.recordChoice (hwaits _))

theorem MemWf.issueIllegal {ws} (h : MemWf s) : MemWf (State.issueIllegal ws s) := by
  unfold State.issueIllegal
  split
  · exact h
  · dsimp only
    exact .stopTorn (.skip (.foldl (.trapGuards h) fun _ _ h => .trap h))

theorem MemWf.closeRun {r} (h : MemWf s) : MemWf (s.closeRun r) := .same h

theorem MemWf.fetchFault {kind page addr} (h : MemWf s) : MemWf (s.fetchFault kind page addr) := by
  unfold State.fetchFault
  split
  · exact h
  · dsimp only
    split
    · exact h
    · exact .ite h (.closeRun (.park h))

theorem MemWf.fetchPoison {pa key} (h : MemWf s) : MemWf (s.fetchPoison pa key) := by
  unfold State.fetchPoison
  split
  · exact h
  · dsimp only
    split
    · exact h
    · exact .ite h (.stopTorn (.foldl (.noteEcc h) fun _ _ h => .trap h))

theorem MemWf.askFetch {va} (h : MemWf s) : MemWf (s.askFetch va) := by
  unfold State.askFetch
  split
  · exact h
  · refine .foldl h fun _ _ h => ?_
    split
    · exact h
    · exact .askWalk h

theorem MemWf.endSlice (h : MemWf s) : MemWf (s.endSlice) := by
  unfold State.endSlice
  split
  · exact h
  · exact .modEngine (.foldl h fun _ _ h => .stopSlice h)

theorem NextWf.execInstructionFetchFault (h : MemWf s) : NextWf (execInstructionFetchFault s) := by
  unfold Machine.execInstructionFetchFault
  split
  · exact .next (.fetchFault h)
  · exact .refused

theorem NextWf.execRunArbitration (h : MemWf s) : NextWf (execRunArbitration s) := by
  unfold Machine.execRunArbitration
  refine .ite .refused ?_
  split
  · exact .ite (.next (.arbitrate (.closeRun h))) .refused
  · exact .next (.arbitrate h)

theorem MemWf.noteReady (h : MemWf s) : MemWf (s.noteReady) := .ite h (.same h)

theorem MemWf.pass {turn rest} (h : MemWf s) : MemWf (s.pass turn rest) := .flushUnits (.same (.noteReady h))

/-! ### Machine/Contexts -/

theorem MemWf.broadcast {c l} (h : MemWf s) : MemWf (s.broadcast c l) :=
  .modCore (.foldl (.withLoc h (Memory.wf_clear _ _ h.2.1)) fun _ _ h => .locStore h)

theorem MemWf.takeConstants {c l} (h : MemWf s) : MemWf ((s.takeConstants c l).1) := by
  unfold State.takeConstants
  split
  · split
    · exact h
    · split
      · exact h
      · exact .broadcast h
  · exact .broadcast h

theorem MemWf.moveToContext {t c x pc} (h : MemWf s) : MemWf (s.moveToContext t c x pc) := by
  unfold State.moveToContext
  split
  · exact h
  · dsimp only
    split
    · exact .releaseSlot (.setThread (.takeConstants (.leaveRun h)))
    · exact .setThread (.takeConstants (.leaveRun h))

theorem MemWf.startSlice {m} (h : MemWf s) : MemWf (s.startSlice m) := by
  unfold State.startSlice
  split
  · exact h
  · exact .ite h (.setThread (.fresh h))

/-! ### Machine/Flags -/

theorem MemWf.setFlags {t f} (h : MemWf s) : MemWf (s.setFlags t f) := .same h

theorem MemWf.countFlagsAt {e f} (h : MemWf s) : MemWf (s.countFlagsAt e f) :=
  .foldl h fun _ _ h => .ite (.countEvent h) h

theorem MemWf.countFlags {f} (h : MemWf s) : MemWf (s.countFlags f) := .foldl h fun _ _ h => .ite (.countEvent h) h

theorem MemWf.raiseFlags {t k fl} (h : MemWf s) : MemWf (s.raiseFlags t k fl) :=
  .same (.optionElim (.setFlags h) fun _ => .countFlagsAt (.setFlags h))

/-! ### Machine/Integer -/

theorem MemWf.perThread {i f ts} (h : MemWf s) (hf : ∀ t s, MemWf s → MemWf (f t s)) : MemWf (perThread i f ts s) := by
  unfold Machine.perThread
  refine .ite ?_ (.foldl h fun _ _ h => hf _ _ h)
  split
  · exact hf _ _ h
  · exact h

theorem MemWf.intEffect {i ts t} (h : MemWf s) : MemWf (intEffect i ts t s) :=
  .writeD (.ite (.foldl h fun _ _ h => .modThread h) h)

theorem intSem_keeps : Sem.Keeps intSem where
  act h := .perThread h fun _ _ h => .intEffect h

/-! ### Machine/Control -/

theorem MemWf.writeLink {i t} (h : MemWf s) : MemWf (s.writeLink i t) := by
  unfold State.writeLink
  split
  · exact .ite h (.writeD h)
  · exact .writeD h
  · exact .writeD h
  · exact h

theorem MemWf.traceBranch {ts src tgt} (h : MemWf s) : MemWf (s.traceBranch ts src tgt) := by
  unfold State.traceBranch
  split
  · exact .trace h
  · exact h

theorem transferSem_keeps : Sem.Keeps transferSem where
  act h := by
    unfold transferSem
    dsimp only
    split
    · exact .traceBranch (.foldl h fun _ _ h => .modThread (.writeLink h))
    · exact .foldl h fun _ _ h => .modThread (.writeLink h)

theorem nopSem_keeps : Sem.Keeps nopSem where
  act h := h

theorem syncwSem_keeps : Sem.Keeps syncwSem where
  act h := by
    unfold syncwSem
    dsimp only
    split
    · exact .syncRelease (.foldl h fun _ _ h => .ite (.setStatus h) h)
    · exact .foldl h fun _ _ h => .ite (.setStatus h) h

theorem waitSem_keeps : Sem.Keeps waitSem where
  act h := .foldl h fun _ _ h => .setStatus h

theorem NextWf.execWaitDeadlineExpiry {thread} (h : MemWf s) : NextWf (execWaitDeadlineExpiry thread s) := by
  unfold Machine.execWaitDeadlineExpiry
  split
  · exact .ite (.next (.setStatus h)) .refused
  · exact .refused

theorem MemWf.stayAt {t pc} (h : MemWf s) : MemWf (s.stayAt t pc) := .modThread (.leaveRun h)

theorem reformSem_keeps : Sem.Keeps reformSem where
  act h := by
    unfold reformSem
    dsimp only
    refine .foldl h fun _ _ h => ?_
    split
    · exact .countEvent (.get (.file h) ‹_›)
    · exact .stayAt h

theorem MemWf.migrate {t tgt pc} (h : MemWf s) : MemWf (s.migrate t tgt pc) := by
  unfold State.migrate
  dsimp only
  split
  · exact .moveToContext h
  · exact .ite (.modStand (.modThread (.leaveHome h))) (.stayAt h)

theorem reformSSem_keeps : Sem.Keeps reformSSem where
  act h := .foldl h fun _ _ h => .ite (.migrate h) (.modThread h)

theorem NextWf.execWaitingThreadTakesContext {core ctx} (h : MemWf s) :
    NextWf (execWaitingThreadTakesContext core ctx s) := by
  unfold Machine.execWaitingThreadTakesContext
  dsimp only
  split
  · refine .ite ?_ .refused
    split
    · exact .next (.moveToContext (.modStand h))
    · exact .refused
  · exact .refused

/-! ### Machine/Formats -/

theorem MemWf.draws {t n} (h : MemWf s) : MemWf (s.draws t n).2 := by
  induction n generalizing s with
  | zero => exact h
  | succ n ih =>
    unfold State.draws
    split
    · exact h
    · exact ih (.setThread h)

theorem MemWf.rounding {t sel n} (h : MemWf s) : MemWf (((s.rounding t sel n).2).2) := by
  unfold State.rounding
  split
  · exact h
  · dsimp only
    split
    · exact .draws h
    · exact h

/-! ### Machine/Float -/

theorem MemWf.perFlags {f ts} (h : MemWf s) (hf : ∀ t s, MemWf s → MemWf (f t s).1) : MemWf (perFlags f ts s) :=
  .countFlags (foldl_keeps (fun p : State × W32 => MemWf p.1) _ ts (s, 0) h fun _ _ h => .setFlags (hf _ _ h))

theorem fltSem_keeps : Sem.Keeps fltSem where
  act h := by
    dsimp only [fltSem]
    refine .perFlags h fun _ _ h => ?_
    dsimp only
    exact .writeD (.rounding h)

theorem fltMinMaxSem_keeps : Sem.Keeps fltMinMaxSem where
  act h := by
    dsimp only [fltMinMaxSem]
    refine .perFlags h fun _ _ h => ?_
    dsimp only
    exact .writeD h

theorem fltSignSem_keeps : Sem.Keeps fltSignSem where
  act h := by
    dsimp only [fltSignSem]
    refine .perFlags h fun _ _ h => ?_
    dsimp only
    exact .writeD h

theorem fltCmpSem_keeps : Sem.Keeps fltCmpSem where
  act h := by
    dsimp only [fltCmpSem]
    refine .perFlags h fun _ _ h => ?_
    dsimp only
    exact .writeDP h

theorem fltClassSem_keeps : Sem.Keeps fltClassSem where
  act h := .foldl h fun _ _ h => .writeD h

theorem fltRoundSem_keeps : Sem.Keeps fltRoundSem where
  act h := by
    dsimp only [fltRoundSem]
    refine .perFlags h fun _ _ h => ?_
    dsimp only
    exact .writeD (.rounding h)

/-! ### Machine/Memory -/

theorem MemWf.copyPart {stand id idx p} (h : MemWf s) : MemWf ((s.copyPart stand id idx p).1) := by
  unfold State.copyPart
  split
  · split
    · exact .modStand h
    · exact h
  · exact h

theorem MemWf.copyParts {id o idx ps} (h : MemWf s) : MemWf (s.copyParts id o idx ps).1 := by
  induction ps generalizing s idx with
  | nil => exact h
  | cons p ps ih => exact ih (ite_keeps (fun a : State × Part => MemWf a.1) (.copyPart h) h)

theorem MemWf.tryCopy {id} (h : MemWf s) : MemWf (s.tryCopy id) := by
  unfold State.tryCopy
  split
  · exact h
  · exact .ite h (.modOp (.copyParts h))

theorem MemWf.memPrep {i lead ts} (h : MemWf s) : MemWf (State.memPrep i lead ts s) := by
  unfold State.memPrep
  refine .foldl h fun _ _ h => ?_
  dsimp only
  split
  · exact .askWalk h
  · exact h

theorem MemWf.takeStamp {t} (h : MemWf s) : MemWf ((s.takeStamp t).2) := .same h

theorem MemWf.noteCruise {i t ps} (h : MemWf s) : MemWf (s.noteCruise i t ps) := by
  unfold State.noteCruise
  split
  · exact h
  · exact .ite (.same h) h

theorem MemWf.rememberPage {t ea} (h : MemWf s) : MemWf (s.rememberPage t ea) := by
  unfold State.rememberPage
  split
  · exact h
  · split
    · exact .modThread h
    · exact h

theorem MemWf.newOp {i t a kind ps} (h : MemWf s) : MemWf (((s.newOp i t a kind ps).2).2) := by
  unfold State.newOp
  refine .fresh ?_
  split
  · exact .takeStamp (.rememberPage (.noteCruise h))
  · exact .rememberPage (.noteCruise h)

theorem MemWf.reserveD {t id i} (h : MemWf s) : MemWf (s.reserveD t id i) :=
  .foldl (.modThread h) fun _ _ h => .ite (.pushQueue h) (.modThread h)

theorem MemWf.bankDraw {i t a} (h : MemWf s) : MemWf (((s.bankDraw i t a).2).2) := by
  unfold State.bankDraw
  split
  · exact .rounding h
  · exact h

theorem MemWf.opDraws {o n} (h : MemWf s) : MemWf ((s.opDraws o n).2) := by
  unfold State.opDraws
  split
  · exact h
  · exact .draws h

theorem MemWf.issueLoad {i lead t} (h : MemWf s) : MemWf (State.issueLoad i lead s t) :=
  .same (.reserveD (.newOp (kind := .load) (.bankDraw h)))

theorem MemWf.putStore {i t a ps raw} (h : MemWf s) : MemWf ((s.putStore i t a ps raw).1) :=
  .same (.newOp (kind := .store) (.bankDraw h))

theorem MemWf.issueStore {i lead t} (h : MemWf s) : MemWf ((State.issueStore i lead t s).1) := by
  unfold State.issueStore
  dsimp only
  split
  · split
    · exact .noteKeys (.taskWrite (.notePages (.rememberPage (.noteCruise h))))
    · exact .putStore h
  · exact .tryCopy (.putStore h)

theorem MemWf.issueAtom {i lead t} (h : MemWf s) : MemWf (State.issueAtom i lead s t) :=
  .same (.reserveD (.newOp (kind := .atomic) h))

theorem MemWf.prefWalked {t ea} (h : MemWf s) : MemWf (s.prefWalked t ea) := by
  unfold State.prefWalked
  split
  · exact h
  · split
    · refine .ite h ?_
      split
      · exact .unitInsert h
      · exact .tlbInsert h
    · exact h

theorem MemWf.issuePref {i t} (h : MemWf s) : MemWf (State.issuePref i s t) := by
  unfold State.issuePref
  dsimp only
  split
  · exact .ite (.prefWalked h) (.same (.newOp (kind := .load) (.prefWalked h)))
  · exact .countEvent (.prefWalked h)
  · exact .prefWalked h

theorem MemWf.traceMem {i lead ts pc} (h : MemWf s) : MemWf (s.traceMem i lead ts pc) := by
  unfold State.traceMem
  split
  · exact .trace h
  · exact h

theorem MemWf.memAct {f i lead ts} (h : MemWf s) (hf : ∀ s t, MemWf s → MemWf (f i lead s t)) :
    MemWf (State.memAct f i lead ts s) :=
  .foldl (.traceMem h) fun _ _ h => hf _ _ h

theorem MemWf.loadParked {i t} (h : MemWf s) : MemWf (loadParked i s t) := .same h

theorem loadSem_keeps : Sem.Keeps loadSem where
  prep h := .foldl (.memPrep h) fun _ _ h => .loadParked h
  parked h := .loadParked h
  act h := .memAct h fun _ _ h => .issueLoad h

theorem storeSem_keeps : Sem.Keeps storeSem where
  prep h := .memPrep h
  act h := by
    dsimp only [storeSem]
    refine .perFlags (.traceMem h) fun _ _ h => ?_
    exact .issueStore h

theorem atomSem_keeps : Sem.Keeps atomSem where
  prep h := .foldl (.memPrep h) fun _ _ h => .loadParked h
  parked h := .loadParked h
  act h := .memAct h fun _ _ h => .issueAtom h

theorem prefSem_keeps : Sem.Keeps prefSem where
  act h := .foldl h fun _ _ h => .issuePref h

theorem fenceSem_keeps : Sem.Keeps fenceSem where
  act h := .ite (.foldl h fun _ _ h => .takeStamp h) h

/-! ### Machine/Sync -/

theorem MemWf.setCounted {l w k b} (h : MemWf s) : MemWf (s.setCounted l w k b) := .same h

theorem MemWf.releaseWaiters {l w k phase} (h : MemWf s) : MemWf (s.releaseWaiters l w k phase) :=
  .foldl h fun _ _ h => .ite (.setStatus h) h

theorem MemWf.foldCounters {l w phase b} (h : MemWf s) : MemWf (s.foldCounters l w phase b) := by
  unfold State.foldCounters
  split
  · exact h
  · refine .ite (.foldl ?_ fun _ _ h => .modEngine h) ?_
    all_goals exact .foldl (.unitStore h) fun _ _ h => .countLost h

theorem MemWf.arrive {t k count fold} (h : MemWf s) : MemWf (s.arrive t k count fold) := by
  unfold State.arrive
  split
  · exact h
  · exact .ite (.releaseWaiters (.setCounted (.foldCounters (.modThread h)))) (.setCounted (.modThread h))

theorem MemWf.awaitCounted {t k} (h : MemWf s) : MemWf (s.awaitCounted t k) := by
  unfold State.awaitCounted
  split
  · exact h
  · dsimp only
    split <;> exact .ite h (.setStatus h)

theorem MemWf.foldRoute {t n ps} (h : MemWf s) : MemWf (s.foldRoute t n ps) := by
  unfold State.foldRoute
  split
  · exact .beginRoute h
  · exact h

theorem barArriveSem_keeps {wait} : Sem.Keeps (barArriveSem wait) where
  prep h := .foldl h fun _ _ h => .foldRoute h
  act h := .foldl h fun _ _ h => .ite (.awaitCounted (.arrive h)) (.arrive h)

theorem barWaitSem_keeps : Sem.Keeps barWaitSem where
  act h := .foldl h fun _ _ h => .awaitCounted h

theorem cntrFoldSem_keeps : Sem.Keeps cntrFoldSem where
  prep h := by
    unfold cntrFoldSem
    dsimp only
    refine .foldl h fun _ _ h => ?_
    split
    · exact .askWalk h
    · exact .foldRoute h
  act h := .foldl h fun _ _ h => .arrive h

theorem MemWf.completeRound {e i cv} (h : MemWf s) : MemWf (s.completeRound e i cv) := by
  unfold State.completeRound
  refine .foldl (.ite (.optionElim (.modSlot h) fun _ => .syncWatch (.modSlot h)) (.modSlot h)) fun _ _ h => ?_
  split
  · exact .ite (.setStatus h) h
  · exact h

theorem MemWf.closeRound {e i cv} (h : MemWf s) : MemWf (s.closeRound e i cv) := by
  unfold State.closeRound
  split
  · exact h
  · exact .ite (.completeRound h) h

theorem MemWf.signLanes {e i cv ts} (h : MemWf s) : MemWf (s.signLanes e i cv ts) := by
  unfold State.signLanes
  split
  · exact h
  · exact .ite h (.closeRound (.modSlot (.foldl h fun _ _ h => .modThread h)))

theorem MemWf.awaitRound {t e i cv} (h : MemWf s) : MemWf (s.awaitRound t e i cv) := by
  unfold State.awaitRound
  split
  · exact .ite h (.setStatus h)
  · exact h

theorem cvsignSem_keeps : Sem.Keeps cvsignSem where
  act h := by
    unfold cvsignSem
    dsimp only
    split
    · exact .signLanes h
    · exact .foldl h fun _ _ h => .arrive h

theorem cvwaitSem_keeps : Sem.Keeps cvwaitSem where
  act h := by
    unfold cvwaitSem
    dsimp only
    refine .foldl h fun _ _ h => ?_
    split
    · exact .awaitRound h
    · exact .awaitCounted h

theorem bndSem_keeps : Sem.Keeps bndSem where
  act h := by
    unfold bndSem
    dsimp only
    split
    · exact .modSlot (.foldl h fun _ _ h => .modThread h)
    · exact h

/-! ### Machine/System -/

theorem trapSem_keeps : Sem.Keeps trapSem where
  act h := h

theorem eretSem_keeps : Sem.Keeps eretSem where
  act h := .foldl h fun _ _ h => .eret h

theorem MemWf.latchGtc {t} (h : MemWf s) : MemWf (s.latchGtc t) := .same h

theorem MemWf.writeCvset {e i cv v} (h : MemWf s) : MemWf (s.writeCvset e i cv v) :=
  .ite (.completeRound (.modSlot h)) (.modSlot h)

theorem MemWf.writeCr {t n v} (h : MemWf s) : MemWf (s.writeCr t n v) := by
  unfold State.writeCr
  dsimp only
  split
  · exact .modThread h
  · exact .modThread h
  · exact .modThread h
  · exact .modThread h
  · exact .modThread h
  · exact .modThread h
  · exact .modThread h
  · exact .modThread h
  · refine .ite ?_ ?_
    · split
      · exact .modEngine h
      · exact h
    · split
      · exact .ite (.ite h (.modCore h)) (.ite (.modCluster h) h)
      · exact .ite (.writeCvset h) (.ite (.modSlot h) h)
      · exact h

theorem rdcrSem_keeps : Sem.Keeps rdcrSem where
  act h := .foldl h fun _ _ h => .writeD (.ite (.latchGtc h) h)

theorem wrcrSem_keeps : Sem.Keeps wrcrSem where
  act h := .foldl h fun _ _ h => .writeCr h

theorem MemWf.markReg {i t f} (h : MemWf s) : MemWf (s.markReg i t f) := .same h

theorem femarkSem_keeps : Sem.Keeps femarkSem where
  act h := .foldl h fun _ _ h => .markReg h

theorem fefillSem_keeps : Sem.Keeps fefillSem where
  act h := .foldl h fun _ _ h => .markReg h

theorem traceSem_keeps : Sem.Keeps traceSem where
  act h := by
    unfold traceSem
    dsimp only
    split
    · exact h
    · exact .ite (.trace h) (.foldl h fun _ _ h => .trace h)

/-! ### Machine/Messaging -/

theorem MemWf.askPlace {i t} (h : MemWf s) : MemWf (State.askPlace i s t) := by
  unfold State.askPlace
  split
  · exact h
  · exact .ite h (.modThread (.same h))

theorem MemWf.sent {i t} (h : MemWf s) : MemWf (State.sent i s t) := by
  unfold State.sent
  split
  · exact h
  · split
    · exact .same h
    · exact .ite (.writeDP (.modThread h)) (.modThread h)

theorem sendSem_keeps : Sem.Keeps sendSem where
  prep h := .foldl h fun _ _ h => .askPlace h
  act h := .foldl h fun _ _ h => .sent h

theorem sendTSem_keeps : Sem.Keeps sendTSem where
  act {_ lead _ _} h := sendSem_keeps.act (lead := lead) h
  prep {_ lead _ _} h := sendSem_keeps.prep (lead := lead) h

theorem MemWf.transit {m} (h : MemWf s) : MemWf (s.transit m) := by
  unfold State.transit
  split
  · exact .modCore h
  · exact .ite (.discardMsg h) (.ite h (.same h))

theorem MemWf.grantPlace {thread m} (h : MemWf s) : MemWf (s.grantPlace thread m) := .transit (.modThread (.same h))

theorem NextWf.execSendTTimeout {thread} (h : MemWf s) : NextWf (execSendTTimeout thread s) := by
  unfold Machine.execSendTTimeout
  split
  · exact .ite (.next (.modThread (.same h))) .refused
  · exact .refused

theorem NextWf.execMessageArrival {msg} (h : MemWf s) : NextWf (execMessageArrival msg s) := by
  unfold Machine.execMessageArrival
  split
  · exact .ite (.next (.modCore h)) .refused
  · exact .refused

theorem MemWf.dropHeld (h : MemWf s) : MemWf (s.dropHeld) := .foldl h fun _ _ h => .ite (.discardMsg (.same h)) h

theorem NextWf.execHeldMessageRouteReturn {msg} (h : MemWf s) : NextWf (execHeldMessageRouteReturn msg s) := by
  unfold Machine.execHeldMessageRouteReturn
  split
  · exact .ite (.ite (.next (.discardMsg (.same h))) .refused) (.ite (.next (.same h)) .refused)
  · exact .refused

theorem MemWf.fileNew {stand th} (h : MemWf s) : MemWf (s.fileNew stand th) :=
  .refill (.placeInPocket (.setThread (.fresh h)))

theorem MemWf.post {i t} (h : MemWf s) : MemWf (State.post i s t) := by
  unfold State.post
  split
  · exact .fileNew (.countEvent (.setThread h))
  · exact h

theorem postSem_keeps : Sem.Keeps postSem where
  act h := .foldl h fun _ _ h => .post h

theorem MemWf.placeBarge {core ctx m} (h : MemWf s) : MemWf (s.placeBarge core ctx m) := by
  unfold State.placeBarge
  split
  · exact h
  · refine .same ?_
    exact .ite (.locStore h) (.foldl (.locStore h) fun _ _ h => .traceArrival h)

theorem MemWf.startMsg {core ctx m e} (h : MemWf s) : MemWf (s.startMsg core ctx m e) :=
  .trace (.countEvent (.setThread (.fresh (.placeBarge (.modCore (.takeConstants h))))))

theorem MemWf.dequeue {core m} (h : MemWf s) : MemWf (s.dequeue core m) := .same h

theorem NextWf.execHandlerStart {core ctx} (h : MemWf s) : NextWf (execHandlerStart core ctx s) := by
  unfold Machine.execHandlerStart
  split
  · exact .ite (.next (.discardMsg (.dequeue h))) .refused
  · exact .next (.countEvent (.fileNew (.dequeue h)))
  · exact .next (.startMsg (.dequeue h))
  · exact .refused

/-! ### Machine/Booms -/

theorem MemWf.driveRecord {l die stand write kind page addr pasid auto prg} (h : MemWf s) :
    MemWf (s.driveRecord l die stand write kind page addr pasid auto prg) :=
  .ite (.fatalLaunch h) (.raiseFault h)

theorem MemWf.driveFault {l die stand e} (h : MemWf s) : MemWf (s.driveFault l die stand e) := by
  unfold State.driveFault
  split
  · exact .askUnit h
  · exact .beginRoute h
  · exact .ite h (.driveRecord h)
  · exact h

theorem SomeWf.driveHold {l die stand e} (h : MemWf s) : SomeWf id (s.driveHold l die stand e) := by
  unfold State.driveHold
  split
  · exact .some (.driveFault h)
  · exact .some (.driveFault h)
  · exact .ite .none (.some (.driveFault h))
  · exact .none

theorem MemWf.driveNote {l stand rs} (h : MemWf s) : MemWf (s.driveNote l stand rs) := by
  unfold State.driveNote
  refine .foldl h fun _ _ h => ?_
  split
  · exact .unitNote h
  · exact h

theorem MemWf.driveWrite {l stand ws} (h : MemWf s) : MemWf (s.driveWrite l stand ws) := by
  unfold State.driveWrite
  refine .foldl h fun _ _ h => ?_
  split
  · exact .unitStore h
  · exact h

theorem MemWf.driveAdd {l stand off k} (h : MemWf s) : MemWf (s.driveAdd l stand off k) := .driveWrite (.driveNote h)

theorem MemWf.setBoom {die l reach b} (h : MemWf s) : MemWf (s.setBoom die l reach b) := .same h

/-! ### Machine/Ray -/

theorem MemWf.modBatch {stand f} (h : MemWf s) : MemWf (s.modBatch stand f) := .same h

theorem MemWf.setRayWord {r off v} (h : MemWf s) : MemWf (s.setRayWord r off v) := .locStore h

theorem MemWf.setHeld {t x2} (h : MemWf s) : MemWf (s.setHeld t x2) := .same h

theorem MemWf.readRecord {i t} (h : MemWf s) : MemWf (s.readRecord i t) := by
  unfold State.readRecord
  dsimp only
  split
  · exact .askWalk h
  · exact .setHeld (.same (.newOp (kind := .load) h))
  · exact h

theorem MemWf.acceptRay {t th rec} (h : MemWf s) : MemWf (s.acceptRay t th rec) := by
  unfold State.acceptRay
  refine .ite h (.ite ?_ (.ite h ?_))
  · dsimp only
    split
    · exact .driveFault h
    · exact .setHeld (.modDie (.driveWrite (.setBoom (.driveAdd h))))
  · dsimp only
    split
    · exact .driveFault h
    · exact .setHeld (.driveAdd (.transit (.fresh (.driveAdd h))))

theorem SomeWf.cruiseEnq {th} (h : MemWf s) : SomeWf id (s.cruiseEnq th) := .map fun _ => .same h

theorem MemWf.beginRead {i t} (h : MemWf s) : MemWf (State.enqPrep.beginRead i s t) := .ite (.readRecord h) h

theorem MemWf.enqPrep {i ts} (h : MemWf s) : MemWf (State.enqPrep i ts s) := by
  induction ts generalizing s with
  | nil => exact h
  | cons t ts ih =>
    unfold State.enqPrep
    split
    · exact ih h
    · split
      · exact .get (.cruiseEnq h) ‹_›
      · refine .ite ?_ (ih h)
        split
        · exact .ite (ih (.acceptRay h)) (.foldl (.acceptRay h) fun _ _ h => .beginRead h)
        · exact .foldl (.beginRead h) fun _ _ h => .beginRead h
        · exact .foldl h fun _ _ h => .beginRead h

theorem rayEnqSem_keeps : Sem.Keeps rayEnqSem where
  prep h := .enqPrep h
  act h := .foldl h fun _ _ h => .setHeld h

theorem rayBoxSem_keeps : Sem.Keeps rayBoxSem where
  act h := by
    unfold rayBoxSem
    dsimp only
    refine .foldl h fun _ _ h => ?_
    split
    · exact h
    · exact .countEvent (.modThread h)

theorem rayTriSem_keeps : Sem.Keeps rayTriSem where
  act h := by
    refine .foldl h fun _ _ h => ?_
    split
    · exact h
    · dsimp only
      split
      · exact .modThread (.countEvent h)
      · exact .modThread (.countEvent h)

theorem rayHitSem_keeps : Sem.Keeps rayHitSem where
  act h := by
    unfold rayHitSem
    dsimp only
    refine .foldl h fun _ _ h => ?_
    split
    · split
      · exact .modThread (.setRayWord (.setRayWord (.setRayWord (.setRayWord h))))
      · exact h
    · exact h

theorem MemWf.nextPrep {i t} (h : MemWf s) : MemWf (State.nextPrep i s t) := by
  unfold State.nextPrep
  split
  · refine .ite h ?_
    dsimp only
    split
    · exact .driveFault h
    · exact .setHeld (.driveWrite (.setBoom h))
  · exact h

theorem MemWf.unbind {t fin} (h : MemWf s) : MemWf (s.unbind t fin) := by
  unfold State.unbind
  split
  · exact h
  · exact .modThread (.modBatch h)

theorem rayNextSem_keeps : Sem.Keeps rayNextSem where
  prep h := .foldl h fun _ _ h => .nextPrep h
  act h := .foldl h fun _ _ h => .unbind h

theorem MemWf.finPrep {t} (h : MemWf s) : MemWf (s.finPrep t) := by
  unfold State.finPrep
  split
  · exact .ite h (.setHeld (.same h))
  · exact h

theorem rayFinSem_keeps : Sem.Keeps rayFinSem where
  prep h := .foldl h fun _ _ h => .finPrep h
  act h := by
    unfold rayFinSem
    dsimp only
    refine .foldl h fun _ _ h => ?_
    split
    · exact .unbind (.modDie (.setRayWord h))
    · exact h

/-! ### Machine/Drive -/

theorem MemWf.select {die l reach stand} (h : MemWf s) : MemWf (s.select die l reach stand) := by
  unfold State.select
  refine .same ?_
  refine .ite (.foldl ?_ fun _ _ h => .tracePlace (.locStore h))
    (.modStand (.foldl ?_ fun _ _ h => .tracePlace (.locStore h)))
  all_goals exact .modDie (.foldl (.setBoom (.driveWrite (.driveNote h))) fun _ _ h => .setBoom h)

theorem NextWf.execBoomSelection {die scene reach stand} (h : MemWf s) :
    NextWf (execBoomSelection die scene reach stand s) := by
  unfold Machine.execBoomSelection
  refine .ite ?_ .refused
  split
  · exact .next (.select h)
  · exact .next (.driveFault h)
  · exact .next (.driveFault h)
  · exact .refused

theorem MemWf.loadReach {l stand base n off} (h : MemWf s) : MemWf (s.loadReach l stand base n off) := by
  induction n generalizing s off with
  | zero => exact h
  | succ n ih => exact ih (.tracePlace (.writePlace (.driveNote h)))

theorem MemWf.dispatchRay {stand j b} (h : MemWf s) : MemWf (s.dispatchRay stand j b) := .same h

theorem MemWf.replyRay {stand j b} (h : MemWf s) : MemWf (s.replyRay stand j b) := .same h

theorem MemWf.sendRays {stand n} (h : MemWf s) : MemWf (s.sendRays stand n) := by
  induction n generalizing s with
  | zero => exact h
  | succ n ih =>
    unfold State.sendRays
    split
    · exact h
    · exact .ite h (ih (.modBatch (.ite (.replyRay h) (.dispatchRay h))))

theorem NextWf.execReachLoadComplete {stand} (h : MemWf s) : NextWf (execReachLoadComplete stand s) := by
  unfold Machine.execReachLoadComplete
  split
  · exact .refused
  · refine .ite .refused (.ite (.ite (.next (.sendRays h)) .refused) ?_)
    split
    · exact .next (.sendRays (.modBatch (.modStand (.loadReach h))))
    · exact .next (.driveFault h)
    · exact .next (.driveFault h)
    · exact .refused

theorem NextWf.execBatchEnd {stand} (h : MemWf s) : NextWf (execBatchEnd stand s) := by
  unfold Machine.execBatchEnd
  split
  · exact .refused
  · refine .ite ?_ .refused
    split
    · exact .next (.same (.driveAdd h))
    · exact .next (.driveFault h)
    · exact .next (.driveFault h)
    · exact .refused

theorem NextWf.execBatchLimitExpiry {stand} (h : MemWf s) : NextWf (execBatchLimitExpiry stand s) := by
  unfold Machine.execBatchLimitExpiry
  split
  · exact .refused
  · split
    · exact .ite (.next (.fatalLaunch h)) .refused
    · exact .refused

theorem NextWf.execDriveAccessFault {die stand} (h : MemWf s) : NextWf (execDriveAccessFault die stand s) := by
  unfold Machine.execDriveAccessFault
  split
  · split
    · exact .ite (.next (.driveFault h)) .refused
    · exact .refused
  · exact .refused

/-! ### Machine/Packed -/

theorem vecSem_keeps : Sem.Keeps vecSem where
  act h := by
    unfold vecSem
    dsimp only
    refine .perFlags h fun _ _ h => .writeD ?_
    split
    · exact .rounding h
    · exact h

theorem dotSem_keeps : Sem.Keeps dotSem where
  act h := by
    dsimp only [dotSem]
    refine .perFlags h fun _ _ h => ?_
    dsimp only
    exact .writeD h

/-! ### Machine/Flume -/

theorem MemWf.setRing {c r q} (h : MemWf s) : MemWf (s.setRing c r q) := .same h

theorem MemWf.modGroup {engine grp f g} (h : MemWf s) : MemWf (s.modGroup engine grp f g) := by
  unfold State.modGroup
  refine .ite (.modSlot h) ?_
  split
  · exact .modThread h
  · exact h

theorem MemWf.noteStatus {engine grp st fl} (h : MemWf s) : MemWf (s.noteStatus engine grp st fl) := .modGroup h

theorem MemWf.pushCmd {t ts kind guard} (h : MemWf s) : MemWf ((s.pushCmd t ts kind guard).2) := by
  unfold State.pushCmd
  dsimp only [State.fresh]
  split
  · exact .fresh h
  · exact .setRing (.fresh h)

theorem flumeSem_keeps : Sem.Keeps flumeSem where
  act h := by
    unfold flumeSem
    dsimp only
    refine .ite h ?_
    split
    · exact .pushCmd h
    · exact h

theorem flumeWaitSem_keeps : Sem.Keeps flumeWaitSem where
  act h := .countFlags (.setFlags (.foldl (.modGroup h) fun _ _ h => .writeD h))

theorem gsetSem_keeps : Sem.Keeps gsetSem where
  act h := .ite h (.modGroup h)

theorem gclrSem_keeps : Sem.Keeps gclrSem where
  act h := .modGroup h

theorem MemWf.dcmpPrep {i t ts} (h : MemWf s) : MemWf (dcmpPrep i t ts s) := by
  unfold Machine.dcmpPrep
  split
  · exact h
  · split
    · exact h
    · refine .ite h ?_
      split
      · exact .askWalk h
      · exact .ite (.modThread (.pushCmd h)) h
      · exact h

theorem dcmpSem_keeps : Sem.Keeps dcmpSem where
  prep h := .dcmpPrep h
  act h := by
    unfold dcmpSem
    dsimp only
    split
    · exact .foldl (.modThread h) fun _ _ h => .modThread h
    · exact h

theorem MemWf.endHead {c r cmd st} (h : MemWf s) : MemWf (s.endHead c r cmd st) :=
  .ite (.setRing h) (.noteStatus (.setRing h))

theorem MemWf.dropDcmp {cmd} (h : MemWf s) : MemWf (s.dropDcmp cmd) := by
  unfold State.dropDcmp
  split
  · exact .modThread h
  · exact h

theorem MemWf.modCmd {id f} (h : MemWf s) : MemWf (s.modCmd id f) := by
  unfold State.modCmd
  split
  · exact .setRing h
  · exact h

theorem NextWf.execEngineOwnershipGrant {cmd line} (h : MemWf s) : NextWf (execEngineOwnershipGrant cmd line s) := by
  unfold Machine.execEngineOwnershipGrant
  split
  · exact .ite (.next (.modCmd (.modHome h))) .refused
  · exact .refused

theorem MemWf.releaseLine {line} (h : MemWf s) : MemWf (s.releaseLine line) := .same h

theorem NextWf.execEngineRecallComplete {line} (h : MemWf s) : NextWf (execEngineRecallComplete line s) := by
  unfold Machine.execEngineRecallComplete
  dsimp only
  split
  · exact .ite (.next (.modCmd (.releaseLine h))) .refused
  · exact .refused

theorem MemWf.cmdReport {cmd kind p} (h : MemWf s) : MemWf (s.cmdReport cmd kind p) := .ite h (.reportFault h)

theorem MemWf.cmdWrite {c cmd p bs qs} (h : MemWf s) : MemWf (s.cmdWrite c cmd p bs qs) := by
  unfold State.cmdWrite
  refine .ite (.modCmd (.cmdReport (.countDropped h))) ?_
  dsimp only
  split
  · exact .traceArrival (.writePlace (.ite (.modCmd h) h))
  · exact .noteKeys (.cruiseWrite (.ite (.modCmd h) h))
  · refine .same ?_
    exact .ite (.modCmd h) h
  · exact .writePlace (.ite (.modCmd h) h)

theorem MemWf.cmdWrites {c cmd ps bs qs} (h : MemWf s) : MemWf (s.cmdWrites c cmd ps bs qs) := by
  induction ps generalizing s bs qs with
  | nil => exact h
  | cons p ps ih => exact ih (.cmdWrite h)

theorem MemWf.dcmpBeat {c cmd pass block} (h : MemWf s) : MemWf (s.dcmpBeat c cmd pass block) := by
  unfold State.dcmpBeat
  split
  · exact h
  · exact .modThread (.ite h (.cmdWrites (.cmdWrites h)))

theorem MemWf.finishLines {c id} (h : MemWf s) : MemWf (s.finishLines c id) := by
  unfold State.finishLines
  split
  · exact h
  · exact .foldl h fun _ _ h => .ite h (.modHome h)

theorem MemWf.noteBeat {c cmd} (h : MemWf s) : MemWf (s.noteBeat c cmd) :=
  .foldl (.noteReads h) fun _ _ h => .cmdReport h

theorem MemWf.doBeat {c cmd} (h : MemWf s) : MemWf (s.doBeat c cmd) := by
  unfold State.doBeat
  refine .countEvent (.finishLines (.modCmd (.noteEngineRead (.noteBeat ?_))))
  split
  · exact .dcmpBeat h
  · exact .foldl (.modCmd h) fun _ _ h => .cmdWrites h

theorem MemWf.holdBeat {cmd key addr} (h : MemWf s) : MemWf (s.holdBeat cmd key addr) := .modCmd h

theorem MemWf.cmdFault {cmd write kind page addr pasid auto prg} (h : MemWf s) :
    MemWf (s.cmdFault cmd write kind page addr pasid auto prg) := by
  unfold State.cmdFault
  refine .ite (.fatalLaunch h) ?_
  dsimp only
  split
  · exact .holdBeat h
  · exact .holdBeat (.raiseFault h)

theorem MemWf.nudge {c cmd} (h : MemWf s) : MemWf (s.nudge c cmd) := by
  unfold State.nudge
  refine .ite h ?_
  split
  · exact .modCmd h
  · exact .askUnit h
  · exact .ite (.cmdFault h) h
  · exact h

theorem NextWf.execFlumeCommandAtHead {cluster ring} (h : MemWf s) :
    NextWf (execFlumeCommandAtHead cluster ring s) := by
  unfold Machine.execFlumeCommandAtHead
  split
  · exact .refused
  · refine .ite (.next (.endHead (.dropDcmp h))) (.ite (.ite (.next (.nudge h)) .refused) ?_)
    dsimp only
    split
    · exact .ite (.next (.setRing h)) .refused
    · refine .ite (.next (.endHead h)) ?_
      split
      · exact .ite (.next (.setRing h)) .refused
      · exact .next (.endHead h)
      · exact .refused

theorem NextWf.execFlumeBeatService {cluster} (h : MemWf s) : NextWf (execFlumeBeatService cluster s) := by
  unfold Machine.execFlumeBeatService
  split
  · split
    · exact .next (.modCluster (.doBeat h))
    · exact .refused
  · refine .ite (.next (.modCluster (.foldl h fun _ _ h => ?_))) .refused
    split
    · exact .nudge h
    · exact h

theorem NextWf.execFlumeCommandComplete {cluster ring} (h : MemWf s) :
    NextWf (execFlumeCommandComplete cluster ring s) := by
  unfold Machine.execFlumeCommandComplete
  split
  · exact .ite (.next (.foldl (.endHead h) fun _ _ h => .releaseLine h)) .refused
  · exact .refused

/-! ### Machine/Graphics -/

theorem MemWf.setBin {die l tile es} (h : MemWf s) : MemWf (s.setBin die l tile es) := .same h

theorem SomeWf.binCopy {l tile order p} (h : MemWf s) : SomeWf Prod.fst (s.binCopy l tile order p) :=
  .ite (.some (.setBin h)) (.ite .none (.map fun _ => .setBin h))

theorem MemWf.addDropped {l stand} (h : MemWf s) : MemWf (s.addDropped l stand) := .driveWrite (.driveNote h)

theorem MemWf.placeCopies {l stand order p ts} (h : MemWf s) : MemWf (s.placeCopies l stand order p ts).1 := by
  induction ts generalizing s with
  | nil => exact h
  | cons t ts ih =>
    unfold State.placeCopies
    dsimp only
    split
    · exact ih h
    · split
      · exact ih (.driveWrite (.get (.binCopy h) ‹_›))
      · exact ih h

theorem MemWf.placeHeld {t th p tiles late order held} (h : MemWf s) :
    MemWf (s.placeHeld t th p tiles late order held) := by
  unfold State.placeHeld
  refine .syncWatch ?_
  split
  · exact .driveFault (.setHeld (.placeCopies h))
  · exact .setHeld (.placeCopies h)

theorem MemWf.primArrives {t th p} (h : MemWf s) : MemWf (s.primArrives t th p) := by
  unfold State.primArrives
  refine .ite ?_ (.placeHeld (.fresh h))
  split
  · exact .driveFault (.fresh h)
  · exact .placeHeld (.addDropped (.fresh h))

theorem MemWf.primPrep {i t} (h : MemWf s) : MemWf (State.primPrep i s t) := by
  unfold State.primPrep
  split
  · exact h
  · refine .ite h ?_
    split
    · exact .readRecord h
    · exact .primArrives h
    · exact .placeHeld h
    · exact h

theorem primEmitSem_keeps : Sem.Keeps primEmitSem where
  prep h := .foldl h fun _ _ h => .primPrep h
  act h := .foldl h fun _ _ h => .setHeld h

theorem MemWf.close {t} (h : MemWf s) : MemWf (s.close t) := by
  unfold State.close
  split
  · exact h
  · refine .modThread (.ite (.addDropped ?_) ?_) <;> exact .foldl h fun _ _ h => .ite h (.modDie h)

theorem primCloseSem_keeps : Sem.Keeps primCloseSem where
  prep h := by
    unfold primCloseSem
    dsimp only
    refine .foldl h fun _ _ h => ?_
    split
    · refine .ite h ?_
      split
      · exact .driveFault h
      · exact h
    · exact h
  act h := .foldl h fun _ _ h => .close h

theorem visReadSem_keeps : Sem.Keeps visReadSem where
  act h := by
    unfold visReadSem
    dsimp only
    refine .foldl h fun _ _ h => ?_
    split
    · exact h
    · split
      · exact .modThread h
      · exact h

theorem MemWf.texPrep {i t} (h : MemWf s) : MemWf (State.texPrep i s t) := by
  unfold State.texPrep
  split
  · exact h
  · exact .ite h (.setHeld (.same h))

theorem texReqSem_keeps : Sem.Keeps texReqSem where
  prep h := .foldl h fun _ _ h => .texPrep h
  act h := .foldl h fun _ _ h => .setHeld h

theorem NextWf.execBinEntryRasterize {launch die tile} (h : MemWf s) :
    NextWf (execBinEntryRasterize launch die tile s) := by
  unfold Machine.execBinEntryRasterize
  split
  · refine .ite ?_ .refused
    dsimp only
    split
    · exact .next (.driveWrite (.setBin (.same h)))
    · split
      · exact .next (.get (.driveHold h) ‹_›)
      · exact .refused
  · exact .refused

theorem MemWf.rowThreads {l tile row stand wg pc p} (h : MemWf s) :
    MemWf (s.rowThreads l tile row stand wg pc p).1 := by
  unfold State.rowThreads
  refine foldl_keeps (fun p : State × List Nat => MemWf p.1) _ _ (s, []) h fun a c h => ?_
  dsimp only
  split
  · exact h
  · exact .setThread (.fresh h)

theorem MemWf.fileRows {l tile n} (h : MemWf s) : MemWf (s.fileRows l tile n) := by
  induction n generalizing s with
  | zero => exact h
  | succ n ih =>
    unfold State.fileRows
    split
    · split
      · exact .ite h (ih (.withTiles (.queueWave (.rowThreads h))))
      · exact h
    · exact h

theorem MemWf.finalise {l tile p} (h : MemWf s) : MemWf (s.finalise l tile p) := .ite (.same h) (.discardMsg (.same h))

theorem NextWf.execTileVisibilityFinal {launch tile} (h : MemWf s) : NextWf (execTileVisibilityFinal launch tile s) :=
  .ite .refused (.ite (.ite (.next (.fileRows h)) .refused) (.ite (.next (.fileRows (.finalise h))) .refused))

theorem NextWf.execEmissionForcedClose {launch die} (h : MemWf s) : NextWf (execEmissionForcedClose launch die s) :=
  .ite (.next (.eventRecord (.modLaunch (.modDie h)))) .refused

theorem MemWf.backBlock {l stand p b} (h : MemWf s) : MemWf (s.backBlock l stand p b) := by
  unfold State.backBlock
  refine .driveWrite ?_
  split
  · exact .unitStore (.driveNote h)
  · exact .driveNote h

theorem MemWf.writeBack {l tile stand p} (h : MemWf s) : MemWf (s.writeBack l tile stand p) := by
  unfold State.writeBack
  refine .same ?_
  dsimp only
  split
  · exact h
  · exact .ite (.backBlock h) (.driveWrite h)

theorem NextWf.execTileWriteBack {launch tile} (h : MemWf s) : NextWf (execTileWriteBack launch tile s) := by
  unfold Machine.execTileWriteBack
  split
  · refine .ite ?_ .refused
    dsimp only
    split
    · exact .next (.writeBack h)
    · split
      · exact .next (.get (.driveHold h) ‹_›)
      · exact .refused
  · exact .refused

theorem MemWf.texFault {req q kind page addr pasid auto prg} (h : MemWf s) :
    MemWf (s.texFault req q kind page addr pasid auto prg) :=
  .ite (.fatalLaunch h) (.same (.raiseFault h))

theorem MemWf.texHold {req q e} (h : MemWf s) : MemWf (s.texHold req q e) := by
  unfold State.texHold
  split
  · exact .askUnit h
  · exact .beginRoute h
  · exact .ite h (.texFault h)
  · exact h

theorem MemWf.texReply {req q ch status} (h : MemWf s) : MemWf (s.texReply req q ch status) := .same h

theorem MemWf.texAccept {req q} (h : MemWf s) : MemWf (s.texAccept req q) := .noteEngineRead (.unitNote (.same h))

theorem MemWf.texSample {req q} (h : MemWf s) : MemWf (s.texSample req q) := by
  unfold State.texSample
  split
  · exact .texReply h
  · exact .ite (.texReply (.noteEngineRead (.unitNote h))) (.texReply (.noteEngineRead (.unitNote h)))

theorem NextWf.execMessagePlaceGrant {thread} (h : MemWf s) : NextWf (execMessagePlaceGrant thread s) := by
  unfold Machine.execMessagePlaceGrant
  split
  · refine .ite .refused ?_
    split
    · exact .next (.grantPlace h)
    · refine .ite .refused ?_
      split
      · exact .next (.grantPlace (.texAccept h))
      · exact .refused
      · exact .next (.texHold h)
  · exact .refused

theorem NextWf.execTextureReply {req} (h : MemWf s) : NextWf (execTextureReply req s) := by
  unfold Machine.execTextureReply
  split
  · refine .ite .refused ?_
    split
    · exact .next (.texSample h)
    · exact .refused
    · exact .next (.texHold h)
  · exact .refused

/-! ### Machine/Task -/

theorem trangeSem_keeps : Sem.Keeps trangeSem where
  act h := .foldl h fun _ _ h => .modThread h

theorem MemWf.tspawn {i t} (h : MemWf s) : MemWf (State.tspawn i s t) := by
  unfold State.tspawn
  split
  · exact h
  · refine .ite (.modThread h) (.modThread ?_)
    split <;> exact .same h

theorem MemWf.tspawnPrep {i ts} (h : MemWf s) : MemWf (State.tspawnPrep i ts s) := by
  induction ts generalizing s with
  | nil => exact h
  | cons t ts ih => exact .ite (ih (.modThread (.tspawn h))) (.foldl h fun _ _ h => .modThread h)

theorem tspawnSem_keeps : Sem.Keeps tspawnSem where
  prep h := .tspawnPrep h
  act h := .foldl h fun _ _ h => .ite (.modThread h) (.tspawn h)

theorem MemWf.finishTask {k keep} (h : MemWf s) : MemWf (s.finishTask k keep) := by
  unfold State.finishTask
  split
  · exact h
  · refine .ite (.endDead h) (.ite (.same ?_) (.same ?_))
    · split
      · exact .removeThread h
      · exact h
    · refine .foldl ?_ fun _ _ h => .discardChild h
      split
      · exact .removeThread h
      · exact h

theorem tdoneSem_keeps {keep} : Sem.Keeps (tdoneSem keep) where
  act h := by
    unfold tdoneSem
    dsimp only
    refine .foldl h fun _ _ h => ?_
    split
    · exact .finishTask h
    · exact h

theorem tstampSem_keeps : Sem.Keeps tstampSem where
  act h := by
    unfold tstampSem
    dsimp only
    refine .foldl h fun _ _ h => ?_
    split
    · exact h
    · exact .writeD h

theorem MemWf.startTask {k core ctx} (h : MemWf s) : MemWf (s.startTask k core ctx) := by
  unfold State.startTask
  split
  · exact h
  · refine .ite ?_ (.trap ?_) <;> exact .same (.countEvent (.setThread (.fresh (.takeConstants h))))

theorem NextWf.execTaskDispatch {stand task core ctx} (h : MemWf s) :
    NextWf (execTaskDispatch stand task core ctx s) := by
  unfold Machine.execTaskDispatch
  split
  · exact .ite (.next (.startTask h)) .refused
  · exact .refused

theorem NextWf.execCommitReduction {launch} (h : MemWf s) : NextWf (execCommitReduction launch s) := by
  unfold Machine.execCommitReduction
  split
  · exact .ite (.next (.modLaunch h)) .refused
  · exact .refused

theorem MemWf.commitBytes {k x} (h : MemWf s) : MemWf (s.commitBytes k x) := by
  unfold State.commitBytes
  refine .same ?_
  split
  · refine .same (.noteKeys ?_)
    exact .foldl h fun _ _ h => .cruiseWrite h
  · exact .writePlaces (.unitDrop h)

theorem MemWf.sendDeferred {k n} (h : MemWf s) : MemWf (s.sendDeferred k n) := by
  induction n generalizing s with
  | zero => exact h
  | succ n ih =>
    unfold State.sendDeferred
    split
    · exact h
    · split
      · exact h
      · exact .ite h (ih (.transit (.same h)))

theorem MemWf.endCommit {k} (h : MemWf s) : MemWf (s.endCommit k) := by
  unfold State.endCommit
  split
  · exact .ite (.countEvent (.modLaunch (.same h))) h
  · exact h

theorem NextWf.execTaskCommit {launch} (h : MemWf s) : NextWf (execTaskCommit launch s) := by
  unfold Machine.execTaskCommit
  split
  · exact .next (.endCommit (.sendDeferred (.commitBytes h)))
  · split
    · exact .next (.same h)
    · exact .refused

/-! ### Machine/Halt -/

theorem MemWf.reply {th} (h : MemWf s) : MemWf (s.reply th) := by
  unfold State.reply
  split
  · exact .modThread h
  · exact h

theorem MemWf.shaded {th} (h : MemWf s) : MemWf (s.shaded th) := by
  unfold State.shaded
  split
  · exact .same h
  · exact h

theorem MemWf.reserve {th} (h : MemWf s) : MemWf (s.reserve th) := by
  unfold State.reserve
  split
  · exact .modCore h
  · exact h

theorem MemWf.haltGuards {x1} (h : MemWf s) : MemWf (s.haltGuards x1) := by
  unfold State.haltGuards
  split
  · exact .resolveGuards h
  · exact .ite (.resolveGuards h) h
  · exact h

theorem MemWf.finishHalt {t} (h : MemWf s) : MemWf (s.finishHalt t) := by
  unfold State.finishHalt
  split
  · exact h
  · exact .reserve (.removeThread (.haltGuards (.shaded (.reply h))))

theorem MemWf.settleHalts (h : MemWf s) : MemWf (s.settleHalts) := .foldl h fun _ _ h => .ite (.finishHalt h) h

theorem haltSem_keeps : Sem.Keeps haltSem where
  act h := .settleHalts (.foldl h fun _ _ h => .setStatus (.modThread (.leaveRun h)))

/-! ### Machine/Special -/

theorem specialSem_keeps : Sem.Keeps specialSem where
  act h := by
    unfold specialSem
    dsimp only
    refine .foldl h fun _ _ h => .same (.emptyD ?_)
    split
    · exact .rounding h
    · exact h

theorem MemWf.deliver {t d n v fl poison issue} (h : MemWf s) : MemWf (s.deliver t d n v fl poison issue) :=
  .settleHalts (.raiseFlags (.modThread h))

theorem NextWf.execSpecialFunctionCompletion {prod} (h : MemWf s) : NextWf (execSpecialFunctionCompletion prod s) := by
  unfold Machine.execSpecialFunctionCompletion
  split
  · exact .next (.deliver (.same h))
  · exact .refused

/-! ### Machine/Tile -/

theorem MemWf.modTile {e i n f} (h : MemWf s) : MemWf (s.modTile e i n f) := .same h

theorem MemWf.modAcc {e i n f} (h : MemWf s) : MemWf (s.modAcc e i n f) := .same h

theorem MemWf.setRowPending {i t b} (h : MemWf s) : MemWf (s.setRowPending i t b) := by
  unfold State.setRowPending
  dsimp only
  split
  · exact .modThread h
  · split
    · exact .modAcc (.modThread h)
    · exact .modTile (.modThread h)
    · exact .modTile (.modThread h)
    · exact .modThread h

theorem MemWf.rowPrep {i t} (h : MemWf s) : MemWf (State.rowPrep i s t) := by
  unfold State.rowPrep
  refine .ite h ?_
  split
  · exact .askWalk (.setRowPending h)
  · exact h

theorem MemWf.rowParked {i t} (h : MemWf s) : MemWf (rowParked i s t) := .setRowPending h

theorem MemWf.rowTrapped {i t} (h : MemWf s) : MemWf (rowTrapped i s t) := .ite (.setRowPending h) (.modThread h)

theorem MemWf.beginRow {i t e sl ps fm draws} (h : MemWf s) : MemWf (s.beginRow i t e sl ps fm draws) :=
  .modTile (.modThread (.same (.newOp (kind := .load) (.rounding h))))

theorem MemWf.putRow {i t e sl n row x7 es} (h : MemWf s) : MemWf (s.putRow i t e sl n row x7 es) :=
  .ite (.same (.newOp (kind := .load) (.modThread h))) (.modTile (.modThread h))

theorem MemWf.loadRow {i t} (h : MemWf s) : MemWf (State.loadRow i s t) := by
  unfold State.loadRow
  split
  · exact h
  · refine .ite h ?_
    dsimp only
    split
    · exact .putRow h
    · exact .beginRow h

theorem MemWf.storeRow {i t} (h : MemWf s) : MemWf ((State.storeRow i s t).1) := by
  unfold State.storeRow
  split
  · exact h
  · split
    · exact h
    · exact .tryCopy (.same (.newOp (kind := .store) (.rounding h)))

theorem tldSem_keeps : Sem.Keeps tldSem where
  prep h := .foldl h fun _ _ h => .rowPrep h
  parked h := .rowParked h
  trapped h := .rowTrapped h
  act h := .foldl h fun _ _ h => .loadRow h

theorem tstSem_keeps : Sem.Keeps tstSem where
  prep h := .foldl h fun _ _ h => .rowPrep h
  act h := by
    dsimp only [tstSem]
    refine .perFlags h fun _ _ h => ?_
    exact .storeRow h

theorem MemWf.loadDiag {i t} (h : MemWf s) : MemWf (State.loadDiag i s t) := by
  unfold State.loadDiag
  split
  · exact h
  · exact .ite h (.beginRow h)

theorem tldtSem_keeps : Sem.Keeps tldtSem where
  act h := .foldl h fun _ _ h => .loadDiag h

theorem tzeroSem_keeps : Sem.Keeps tzeroSem where
  act h := by
    unfold tzeroSem
    dsimp only
    split
    · exact .modTile h
    · exact h

theorem nzscanSem_keeps : Sem.Keeps nzscanSem where
  act h := by
    unfold nzscanSem
    dsimp only
    split
    · exact h
    · exact .ite (.foldl h fun _ _ h => .writeD h) (.putRow (.foldl h fun _ _ h => .writeD h))

theorem MemWf.queueMma {i lead ts} (h : MemWf s) : MemWf (s.queueMma i lead ts) := by
  unfold State.queueMma
  split
  · exact .ite h (.ite (.modSlot h) (.syncWatch (.modSlot h)))
  · exact h

theorem mmaSem_keeps : Sem.Keeps mmaSem where
  act h := .queueMma h

theorem MemWf.loadAcc {i t} (h : MemWf s) : MemWf (State.loadAcc i s t) := by
  unfold State.loadAcc
  split
  · exact h
  · exact .modAcc (.modThread (.same (.newOp (kind := .load) h)))

theorem MemWf.storeAcc {i t} (h : MemWf s) : MemWf (State.storeAcc i s t) := by
  unfold State.storeAcc
  split
  · exact h
  · exact .tryCopy (.same (.newOp (kind := .store) h))

theorem accLdSem_keeps : Sem.Keeps accLdSem where
  prep h := .foldl h fun _ _ h => .rowPrep h
  parked h := .rowParked h
  trapped h := .rowTrapped h
  act h := .foldl h fun _ _ h => .loadAcc h

theorem accStSem_keeps : Sem.Keeps accStSem where
  prep h := .foldl h fun _ _ h => .rowPrep h
  act h := .foldl h fun _ _ h => .storeAcc h

theorem accMovSem_keeps : Sem.Keeps accMovSem where
  act h := by
    unfold accMovSem
    dsimp only
    refine .foldl h fun _ _ h => ?_
    split
    · exact h
    · exact .same (.emptyD h)

theorem accCvtSem_keeps : Sem.Keeps accCvtSem where
  act h := by
    unfold accCvtSem
    dsimp only
    split
    · exact h
    · exact .countFlags (.foldl (.modTile (.rounding h)) fun _ _ h => .setFlags h)

theorem accZeroSem_keeps : Sem.Keeps accZeroSem where
  act h := by
    unfold accZeroSem
    dsimp only
    split
    · exact .modAcc h
    · exact h

theorem MemWf.settleMovs {slot acc row a} (h : MemWf s) : MemWf (s.settleMovs slot acc row a) := .same h

theorem MemWf.finishRow {op o bs poison} (h : MemWf s) : MemWf (s.finishRow op o bs poison) := by
  unfold State.finishRow
  dsimp only
  split
  · exact .raiseFlags (.modTile (.opDraws (.same h)))
  · exact .settleMovs (.modAcc (.same h))
  · exact .same h

theorem NextWf.execAccMovCompletion {prod} (h : MemWf s) : NextWf (execAccMovCompletion prod s) := by
  unfold Machine.execAccMovCompletion
  split
  · exact .next (.deliver (.same h))
  · exact .refused

theorem NextWf.execMmaEntryPerform {engine slot} (h : MemWf s) : NextWf (execMmaEntryPerform engine slot s) := by
  unfold Machine.execMmaEntryPerform
  split
  · exact .refused
  · split
    · exact .refused
    · refine .ite .refused ?_
      dsimp only
      split
      · exact .next (.foldl (.modSlot h) fun _ _ h => .modThread h)
      · exact .next (.countEvent (.countFlagsAt (.foldl (.modSlot h) fun _ _ h => .setFlags h)))

/-! ### Machine/Placement -/

theorem MemWf.placeScalar {k l w stand} (h : MemWf s) : MemWf (s.placeScalar k l w stand) :=
  .foldl h fun _ _ h => .startSlice (.setThread (.fresh (.takeConstants h)))

theorem MemWf.placeWave {k l w stand n} (h : MemWf s) : MemWf (s.placeWave k l w stand n) :=
  .queueWave (foldl_keeps (fun p : State × List Nat => MemWf p.1) _ _ (s, []) h fun _ _ h => .setThread (.fresh h))

theorem MemWf.placeWg {k l w stand} (h : MemWf s) : MemWf (s.placeWg k l w stand) :=
  .modLaunch (.ite (.foldl (.claimSpill h) fun _ _ h => .placeWave h) (.placeScalar (.claimSpill h)))

theorem MemWf.displaceCruise {stand} (h : MemWf s) : MemWf (s.displaceCruise stand) := by
  unfold State.displaceCruise
  refine .foldl h fun _ _ h => ?_
  split
  · exact .same h
  · exact h

theorem MemWf.startWave {stand e slot quarter w} (h : MemWf s) : MemWf (s.startWave stand e slot quarter w) :=
  .foldl (.modStand (.same h)) fun _ _ h => .ite (.startSlice (.modThread h)) (.modThread h)

theorem NextWf.execPocketAgeExpiry {stand pocket} (h : MemWf s) : NextWf (execPocketAgeExpiry stand pocket s) := by
  unfold Machine.execPocketAgeExpiry
  split
  · exact .ite (.next (.refill (.releasePocket h))) .refused
  · exact .refused

theorem NextWf.execWaveQueueStart {stand engine slot quarter} (h : MemWf s) :
    NextWf (execWaveQueueStart stand engine slot quarter s) := by
  unfold Machine.execWaveQueueStart
  split
  · exact .ite (.next (.refill (.startWave h))) .refused
  · exact .refused

theorem NextWf.execWorkgroupPlacement {launch wg stand} (h : MemWf s) :
    NextWf (execWorkgroupPlacement launch wg stand s) := by
  unfold Machine.execWorkgroupPlacement
  split
  · exact .ite .refused (.ite .refused (.ite (.next (.displaceCruise h)) (.ite (.next (.placeWg h)) .refused)))
  · exact .refused

theorem NextWf.execWorkgroupWatchdogExpiry {launch wg} (h : MemWf s) :
    NextWf (execWorkgroupWatchdogExpiry launch wg s) := by
  unfold Machine.execWorkgroupWatchdogExpiry
  split
  · split
    · exact .ite (.next (.fatalLaunch (.modWg h))) .refused
    · exact .refused
  · exact .refused

/-! ### Machine/Ending -/

theorem MemWf.unitAsk {part va need} (h : MemWf s) : MemWf (s.unitAsk part va need) := .askUnit (.modStand h)

theorem SomeWf.unitHold {part e} (h : MemWf s) : SomeWf id (s.unitHold part e) := by
  unfold State.unitHold
  split
  · exact .some (.unitAsk h)
  · exact .some (.beginRoute h)
  · exact .none

theorem MemWf.unitReads {part rs} (h : MemWf s) : MemWf (s.unitReads part rs) := by
  unfold State.unitReads
  refine .foldl h fun _ _ h => ?_
  split
  · exact .unitNote h
  · exact h

theorem MemWf.unitPut {part va bs qs} (h : MemWf s) : MemWf (s.unitPut part va bs qs) := by
  unfold State.unitPut
  split
  · exact .unitStore h
  · exact h

theorem MemWf.completeCmd {q index} (h : MemWf s) : MemWf (s.completeCmd q index) := .same h

theorem MemWf.endLaunch {k l status} (h : MemWf s) : MemWf (s.endLaunch k l status) :=
  .completeCmd (.modLaunch (.ite h (.unitPut h)))

theorem MemWf.clearCmds {k} (h : MemWf s) : MemWf (s.clearCmds k) := .same h

theorem MemWf.clearLaunch {k} (h : MemWf s) : MemWf (s.clearLaunch k) := by
  unfold State.clearLaunch
  refine .foldl (.modLaunch (.clearCmds (.same ?_))) fun _ _ h => .refill h
  exact .foldl h fun _ _ h => .removeThread h

theorem MemWf.settlePreempt {q} (h : MemWf s) : MemWf (s.settlePreempt q) := .ite (.orReg (.setReg h)) h

theorem MemWf.writeBlocks {k ws} (h : MemWf s) : MemWf (s.writeBlocks k ws) :=
  .foldl h fun _ _ h => .modDie (.driveWrite h)

theorem MemWf.finishLaunch {k l} (h : MemWf s) : MemWf (s.finishLaunch k l) := by
  unfold State.finishLaunch
  split
  · exact .modLaunch (.same h)
  · exact .endLaunch h

theorem NextWf.execWorkgroupRetire {launch wg} (h : MemWf s) : NextWf (execWorkgroupRetire launch wg s) := by
  unfold Machine.execWorkgroupRetire
  split
  · exact .refused
  · refine .ite .refused (.ite (.next (.modLaunch h)) (.ite .refused (.ite (.next (.finishLaunch (.modLaunch h))) ?_)))
    split
    · split
      · exact .next (.get (.driveHold h) ‹_›)
      · exact .refused
    · exact .next (.finishLaunch (.modLaunch (.writeBlocks h)))
    · split
      · exact .next (.get (.unitHold h) ‹_›)
      · exact .refused

/-! ### Machine/Accept -/

theorem MemWf.noteAccept {part rec'} (h : MemWf s) : MemWf (s.noteAccept part rec') := .endRoutes (.noteReads h)

/-! ### Machine/Queues -/

theorem SomeWf.reserve? {q signal begun} (h : MemWf s) : SomeWf Prod.snd (s.reserve? q signal begun) :=
  .ite (.some h) (.ite (.some (.modQueue h)) (.ite (.ite (.some h) .none) (.ite (.some h) .none)))

theorem SomeWf.queueRead {q off begun} (h : MemWf s) : SomeWf Prod.snd (s.queueRead q off begun) :=
  .ite (.reserve? h) (.ite (.reserve? h) (.ite (.some (.setReg h)) (.some h)))

theorem MemWf.publish {q v} (h : MemWf s) : MemWf (s.publish q v) := .optionElim h fun _ => .modQueue h

theorem MemWf.signalOrKeep {q addr value} (h : MemWf s) : MemWf (s.signalOrKeep q addr value) := by
  unfold State.signalOrKeep
  split
  · exact .unitPut h
  · exact .modQueue (.getD (.unitHold h) h)

theorem MemWf.cancelUnread {q} (h : MemWf s) : MemWf (s.cancelUnread q) :=
  .modQueue (.foldl h fun _ _ h => .signalOrKeep h)

theorem MemWf.writeQctl {q v} (h : MemWf s) : MemWf (s.writeQctl q v) := .setRegN (.ite (.cancelUnread h) h)

theorem MemWf.writeQstat {q v} (h : MemWf s) : MemWf (s.writeQstat q v) :=
  .ite (.optionElim (.modQueue (.setReg h)) fun _ => .completeCmd (.modQueue (.setReg h))) (.setReg h)

theorem MemWf.startPreempt {q} (h : MemWf s) : MemWf (s.startPreempt q) := .ite (.setReg (.same h)) (.orReg (.same h))

theorem MemWf.queueWrite {q off v} (h : MemWf s) : MemWf (s.queueWrite q off v) := by
  unfold State.queueWrite
  dsimp only
  split
  · exact .ite h (.setRegN h)
  · exact .ite h (.setReg h)
  · exact .writeQctl h
  · exact .ite (.setRegN h) h
  · exact .publish h
  · exact .writeQstat h
  · exact .ite (.startPreempt h) h
  · exact .setRegN h
  · exact .setReg h
  · exact .setReg h
  · exact h

theorem MemWf.noteLaunchRead {q index b} (h : MemWf s) : MemWf (s.noteLaunchRead q index b) := .same h

theorem MemWf.noteRead {q c} (h : MemWf s) : MemWf (s.noteRead q c) :=
  .ite (.noteReads (.noteLaunchRead (.modQueue h))) (.modQueue h)

theorem MemWf.keepCmd {q c} (h : MemWf s) : MemWf (s.keepCmd q c) := .same h

theorem MemWf.refuseCmd {q c} (h : MemWf s) : MemWf (s.refuseCmd q c) := .same h

theorem MemWf.dropKept {q c} (h : MemWf s) : MemWf (s.dropKept q c) := .same h

theorem NextWf.command {q op name run} (h : MemWf s) (hrun : ∀ s c, MemWf s → DoneWf (run s c)) :
    NextWf (s.command q op name run) := by
  unfold State.command
  dsimp only
  split
  case h_1 t e =>
    obtain ⟨c, -, hc⟩ := List.exists_of_findSome?_eq_some e
    have hkept := hrun (s.dropKept q c) c (.dropKept h)
    have hasked := hrun s c h
    refine .next ?_
    split at hc
    · split at hc
      · cases hc
        exact .ofDone hkept ‹_›
      · split at hc
        · cases hc
          exact .ofAsk hasked ‹_›
        · cases hc
      · cases hc
    · cases hc
  case h_2 =>
    split
    · exact .refused
    · refine .ite (.next (.refuseCmd (.noteRead h))) (.ite .refused ?_)
      split
      · split
        · exact .next (.get (.unitHold h) ‹_›)
        · exact .refused
      · refine .ite (.next (.refuseCmd (.noteRead h))) (.ite ?_ (.next (.keepCmd (.noteRead h))))
        split
        · exact .next (.ofDone (hrun _ _ (.noteRead h)) ‹_›)
        · exact .next (.keepCmd (.ofAsk (hrun _ _ (.noteRead h)) ‹_›))
        · exact .next (.keepCmd (.noteRead h))

theorem MemWf.noteKernel {part desc} (h : MemWf s) : MemWf (s.noteKernel part desc) := .same h

theorem DoneWf.runLaunch {q c} (h : MemWf s) : DoneWf (State.runLaunch q s c) := by
  unfold State.runLaunch
  refine .ite .hold ?_
  split
  · exact .done (.noteKernel (.same (.noteAccept h)))
  · exact .asking (.unitHold h)
  · exact .hold
  · exact .done (.ite (.refuseCmd (.ite (.noteAccept h) h)) (.signalOrKeep (.refuseCmd (.ite (.noteAccept h) h))))

theorem DoneWf.runSignal {q c} (h : MemWf s) : DoneWf (State.runSignal q s c) := by
  unfold State.runSignal
  refine .ite (.done (.refuseCmd h)) ?_
  split
  · exact .asking (.unitHold h)
  · exact .done (.completeCmd (.ite (.ite (.unitReads h) h) (.unitPut (.ite (.unitReads h) h))))

theorem DoneWf.runWait {q c} (h : MemWf s) : DoneWf (State.runWait q s c) := by
  unfold State.runWait
  refine .ite (.done (.refuseCmd h)) (.ite .hold ?_)
  dsimp only
  split
  · exact .ite (.done (.completeCmd (.unitReads h))) (.done (.modQueue (.unitReads h)))
  · exact .done (.modQueue (.getD (.unitHold h) h))

theorem DoneWf.runMessage {q c} (h : MemWf s) : DoneWf (State.runMessage q s c) := by
  unfold State.runMessage
  refine .ite (.done (.refuseCmd h)) ?_
  dsimp only
  split
  · exact .ite (.ite .hold (.done (.completeCmd (.eventRecord (.same h)))))
      (.ite .hold (.done (.completeCmd (.modCore (.fresh (.same h))))))
  · exact .ite .hold (.done (.completeCmd (.eventRecord (.same h))))

theorem DoneWf.runBind {q c} (h : MemWf s) : DoneWf (State.runBind q s c) :=
  .ite (.done (.refuseCmd h)) (.ite .hold (.done (.completeCmd (.unitWrite h))))

theorem NextWf.execQresvRead {queue} (h : MemWf s) : NextWf (execQresvRead queue s) := by
  unfold Machine.execQresvRead
  dsimp only
  split
  · exact .ite .refused (.next (.same (.get (.reserve? h) ‹_›)))
  · exact .ite .refused (.next (.modQueue h))

theorem NextWf.execQresvTimeout {queue} (h : MemWf s) : NextWf (execQresvTimeout queue s) := by
  unfold Machine.execQresvTimeout
  split
  · split
    · exact .next (.same (.get (.reserve? h) ‹_›))
    · exact .refused
  · exact .refused

theorem NextWf.execQresvsRead {queue} (h : MemWf s) : NextWf (execQresvsRead queue s) := by
  unfold Machine.execQresvsRead
  dsimp only
  split
  · exact .ite .refused (.next (.same (.get (.reserve? h) ‹_›)))
  · exact .ite .refused (.next (.modQueue h))

theorem NextWf.execQresvsBusyTimeout {queue} (h : MemWf s) : NextWf (execQresvsBusyTimeout queue s) := by
  unfold Machine.execQresvsBusyTimeout
  split
  · split
    · exact .next (.same (.get (.reserve? h) ‹_›))
    · exact .refused
  · exact .refused

theorem NextWf.execDoorbellWrite {queue val} (h : MemWf s) : NextWf (execDoorbellWrite queue val s) :=
  .ite (.next (.queueWrite h)) .refused

theorem NextWf.execQctlWrite {queue val} (h : MemWf s) : NextWf (execQctlWrite queue val s) :=
  .ite (.next (.queueWrite h)) .refused

theorem NextWf.execQstatWrite {queue val} (h : MemWf s) : NextWf (execQstatWrite queue val s) :=
  .ite (.next (.queueWrite h)) .refused

theorem NextWf.execLaunch {queue} (h : MemWf s) : NextWf (execLaunch queue s) := .command h fun _ _ h => .runLaunch h

theorem NextWf.execSignalCommand {queue} (h : MemWf s) : NextWf (execSignalCommand queue s) := by
  unfold Machine.execSignalCommand
  dsimp only
  split
  · exact .next (.unitPut (.modQueue h))
  · split
    next hfound =>
      obtain ⟨e, -, he⟩ := List.exists_of_findSome?_eq_some hfound
      refine .next ?_
      split at he
      · split at he
        · cases he
        · exact .get (.unitHold h) he
      · exact .get (.unitHold h) he
      · cases he
    · exact .command h fun _ _ h => .runSignal h

theorem NextWf.execQueueWaitCommand {queue} (h : MemWf s) : NextWf (execQueueWaitCommand queue s) :=
  .command h fun _ _ h => .runWait h

theorem NextWf.execQueueWaitPoll {queue} (h : MemWf s) : NextWf (execQueueWaitPoll queue s) := by
  unfold Machine.execQueueWaitPoll
  dsimp only
  split
  · refine .ite .refused ?_
    split
    · exact .ite (.next (.completeCmd (.modQueue (.unitReads h)))) (.next (.modQueue (.unitReads h)))
    · split
      · exact .next (.get (.unitHold h) ‹_›)
      · exact .refused
  · exact .refused

theorem NextWf.execQueueWaitTimeout {queue} (h : MemWf s) : NextWf (execQueueWaitTimeout queue s) := by
  unfold Machine.execQueueWaitTimeout
  dsimp only
  split
  · exact .ite (.next (.orReg (.modQueue h))) .refused
  · exact .refused

theorem NextWf.execMessageCommand {queue} (h : MemWf s) : NextWf (execMessageCommand queue s) :=
  .command h fun _ _ h => .runMessage h

theorem NextWf.execBind {queue} (h : MemWf s) : NextWf (execBind queue s) := .command h fun _ _ h => .runBind h

/-! ### Machine/Homes -/

theorem MemWf.setPart {op idx p} (h : MemWf s) : MemWf (s.setPart op idx p) := .same h

theorem MemWf.reapOp {op} (h : MemWf s) : MemWf (s.reapOp op) := by
  unfold State.reapOp
  split
  · exact .ite (.same h) h
  · exact h

theorem MemWf.opReport {o report} (h : MemWf s) (hr : MemWf (report s)) : MemWf (s.opReport o report) := by
  unfold State.opReport
  split
  · exact .same h
  · exact hr

theorem MemWf.noteOpRead {o p} (h : MemWf s) : MemWf (s.noteOpRead o p) := by
  unfold State.noteOpRead
  refine .ite h ?_
  dsimp only
  split
  · exact .noteTaskRead h
  · exact .optionElim h fun _ => .noteCruiseRead h

theorem MemWf.readLost {op idx o p} (h : MemWf s) : MemWf (s.readLost op idx o p) :=
  .ite (.reapOp (.setPart h)) (.opReport (.setPart h) (.reportLost (.setPart h)))

theorem MemWf.forgetWrite {op idx o p} (h : MemWf s) : MemWf (s.forgetWrite op idx o p) := by
  unfold State.forgetWrite
  split
  · exact .ite (.modStand (.ite h (.modHome h))) (.ite h (.modHome h))
  · exact h

theorem MemWf.dropWrite {op idx o p} (h : MemWf s) : MemWf (s.dropWrite op idx o p) := by
  unfold State.dropWrite
  refine .settleHalts (.reapOp (.ite (.opReport ?_ (.reportLost (.ite (.reportLost ?_) ?_)))
    (.setPart (.forgetWrite h))))
  all_goals exact .countDropped (.countLost (.setPart (.forgetWrite h)))

theorem SomeWf.windowRead {begun ws} (h : MemWf s) : SomeWf Prod.snd (s.windowRead begun ws) := by
  induction ws generalizing s with
  | nil => exact .some h
  | cons w ws ih =>
    unfold State.windowRead
    split
    · exact .none
    · intro p e
      obtain ⟨x, hx, rfl⟩ := Option.map_eq_some_iff.1 e
      exact ih (.get (.queueRead h) ‹_›) x hx

theorem MemWf.windowWrite {off bs} (h : MemWf s) : MemWf (s.windowWrite off bs) := .foldl h fun _ _ h => .queueWrite h

theorem MemWf.ringCollective {o p g} (h : MemWf s) : MemWf (s.ringCollective o p g) := .ite (.same h) h

theorem MemWf.portRuns {o p} (h : MemWf s) : MemWf ((s.portRuns o p).2) := by
  unfold State.portRuns
  split
  · exact h
  · exact .opDraws h

theorem MemWf.portTrace {o p data} (h : MemWf s) : MemWf (s.portTrace o p data) := by
  unfold State.portTrace
  split
  · exact .ite h (.traceArrival h)
  · exact h

theorem MemWf.storeAt {op idx o p} (h : MemWf s) : MemWf (s.storeAt op idx o p) := by
  unfold State.storeAt
  refine .setPart ?_
  split
  · exact .portTrace (.foldl (.portRuns (.ite (.notePages h) h)) fun _ _ h => .ite h (.writePlace h))
  · exact .noteKeys (.cruiseWrite (.ite (.notePages h) h))
  · exact .cruiseWrite (.ite (.notePages h) h)
  · exact .ite (.notePages h) h
  · exact .windowWrite (.ite (.notePages h) h)
  · exact .ringCollective (.ite (.notePages h) h)
  · exact .writePlace (.ite (.notePages h) h)

theorem MemWf.atomStore {o p bs} (h : MemWf s) : MemWf (s.atomStore o p bs) := by
  unfold State.atomStore
  dsimp only
  split
  · exact .ite (.noteKeys (.taskWrite (.ite (.notePages h) h))) (.writePlace (.ite (.notePages h) h))
  · refine .ite (.noteKeys (.cruiseWrite (.ite (.notePages h) h))) ?_
    split
    · exact .writePlace (.ite (.notePages h) h)
    · exact .ite (.notePages h) h
  · split
    · exact .windowWrite (.ite (.notePages h) h)
    · exact .writePlace (.ite (.notePages h) h)

theorem MemWf.atomAt {op idx o p} (h : MemWf s) : MemWf (s.atomAt op idx o p) := by
  unfold State.atomAt
  refine .ite ?_ (.atomStore ?_)
  on_goal 1 => split
  on_goal 1 => refine .opReport ?_ (.reportFault ?_)
  all_goals exact .ite (.writePlace (.setPart (.portTrace (.noteOpRead h)))) (.setPart (.portTrace (.noteOpRead h)))

theorem MemWf.loadAt {op idx o p} (h : MemWf s) : MemWf (s.loadAt op idx o p) := .reapOp (.setPart (.noteOpRead h))

theorem MemWf.performAt {op idx o p} (h : MemWf s) : MemWf (s.performAt op idx o p) := by
  unfold State.performAt
  dsimp only
  split
  · refine .loadAt ?_
    split
    · exact .ite h (.noteEcc h)
    · exact h
  · refine .storeAt ?_
    split
    · exact .ite h (.noteEcc h)
    · exact h
  · refine .atomAt ?_
    split
    · exact .ite h (.noteEcc h)
    · exact h

theorem SomeWf.l1Room {stand line} (h : MemWf s) : SomeWf id (s.l1Room stand line) :=
  .ite (.some h) (.map fun _ => .modStand h)

theorem MemWf.grantLease {o p pa} (h : MemWf s) : MemWf (s.grantLease o p pa) := by
  unfold State.grantLease
  refine .ite h ?_
  split
  · exact h
  · exact h
  · exact .modStand (.modHome (.get (.l1Room h) ‹_›))

theorem MemWf.dropBadHit {o p pa} (h : MemWf s) : MemWf (s.dropBadHit o p pa) := by
  unfold State.dropBadHit
  split
  · exact .ite h (.bumpReg (.ite (.noteMisdirected (.modStand h)) (.modStand h)))
  · exact h

theorem MemWf.recallLine {op idx p line} (h : MemWf s) : MemWf (s.recallLine op idx p line) := .same h

theorem MemWf.beginWait {op idx p} (h : MemWf s) : MemWf (s.beginWait op idx p) := .same h

theorem NextWf.execHomeReadLeaseGrant {op part} (h : MemWf s) : NextWf (execHomeReadLeaseGrant op part s) := by
  unfold Machine.execHomeReadLeaseGrant
  split
  · exact .refused
  · refine .ite .refused (.ite (.next (.readLost h)) ?_)
    split
    · exact .refused
    · refine .ite .refused (.ite (.ite (.next (.recallLine h)) .refused)
        (.next (.performAt (.grantLease (.dropBadHit ?_)))))
      split
      · exact .ite (.countEvent h) h
      · exact h
    · exact .ite (.ite (.next (.beginWait h)) .refused)
        (.ite .refused (.next (.performAt (.grantLease (.dropBadHit h)))))
    · dsimp only
      split
      · exact .next (.setPart (.get (.windowRead h) ‹_›))
      · exact .ite (.next (.beginWait h)) .refused
    · exact .next (.performAt h)

theorem MemWf.enqueueWrite {op idx o p line} (h : MemWf s) : MemWf (s.enqueueWrite op idx o p line) := .same h

theorem MemWf.performWrite {op idx o p line} (h : MemWf s) : MemWf (s.performWrite op idx o p line) :=
  .settleHalts (.reapOp (.performAt (.modHome h)))

theorem SomeWf.homeWrite {op idx o p pa} (h : MemWf s) : SomeWf id (s.homeWrite op idx o p pa) := by
  unfold State.homeWrite
  refine .ite .none (.ite (.some (.recallLine (.enqueueWrite ?_)))
    (.ite (.some (.performWrite ?_)) (.ite .none (.some (.enqueueWrite ?_)))))
  all_goals exact .ite (.tryCopy h) h

theorem NextWf.execHomeWritePerformed {op part} (h : MemWf s) : NextWf (execHomeWritePerformed op part s) := by
  unfold Machine.execHomeWritePerformed
  split
  · exact .refused
  · refine .ite .refused (.ite (.next (.dropWrite h)) ?_)
    split
    · exact .refused
    · refine .ite .refused (.ite
        (.ite (.ite (.next (.recallLine h)) .refused) (.next (.settleHalts (.reapOp (.performAt h))))) ?_)
      split
      · exact .next (.get (.homeWrite h) ‹_›)
      · exact .refused
    · refine .ite (.next (.settleHalts (.reapOp (.performAt h)))) (.ite (.ite (.next (.beginWait h)) .refused) ?_)
      split
      · exact .next (.get (.homeWrite h) ‹_›)
      · exact .refused
    · exact .ite .refused (.next (.settleHalts (.reapOp (.performAt h))))
    · exact .next (.settleHalts (.reapOp (.performAt h)))

theorem NextWf.execWriteAckAtStand {op part} (h : MemWf s) : NextWf (execWriteAckAtStand op part s) := by
  unfold Machine.execWriteAckAtStand
  split
  · split
    · exact .ite (.ite (.next (.dropWrite h)) .refused)
        (.ite (.next (.settleHalts (.reapOp (.setPart (.modHome (.modStand h)))))) .refused)
    · exact .refused
  · exact .refused

theorem NextWf.execRootComplexWriteAck {op part} (h : MemWf s) : NextWf (execRootComplexWriteAck op part s) := by
  unfold Machine.execRootComplexWriteAck
  split
  · split
    · exact .ite (.next (.settleHalts (.reapOp (.setPart h)))) .refused
    · exact .refused
  · exact .refused

theorem NextWf.execMemoryPortArrival {op part} (h : MemWf s) : NextWf (execMemoryPortArrival op part s) := by
  unfold Machine.execMemoryPortArrival
  split
  · split
    · exact .ite (.next (.settleHalts (.reapOp (.performAt h)))) .refused
    · exact .refused
  · exact .refused

theorem MemWf.performSc {op idx o p} (h : MemWf s) : MemWf (s.performSc op idx o p) :=
  .settleHalts (.reapOp (.performAt (.modOp (.modThread (.ite (.same h) (.modHome h))))))

theorem NextWf.execScOperationPerformed {op part} (h : MemWf s) : NextWf (execScOperationPerformed op part s) := by
  unfold Machine.execScOperationPerformed
  split
  · exact .refused
  · refine .ite .refused (.ite (.ite .refused ?_) (.ite .refused (.ite (.next (.ite (.readLost h) (.dropWrite h)))
      (.ite (.next (.performSc h)) .refused))))
    split
    · refine .ite .refused (.next (.ite (.setPart ?_) (.enqueueWrite ?_))) <;> exact .ite (.recallLine (.tryCopy h))
        (.tryCopy h)
    · exact .next (.beginWait (.tryCopy h))
    · exact .next (.setPart h)

theorem MemWf.sweepL1 {stand} (h : MemWf s) : MemWf (s.sweepL1 stand) := .same h

theorem MemWf.sweepHomes {stand} (h : MemWf s) : MemWf (s.sweepHomes stand) := .same h

theorem NextWf.execLeaseSweep {stand} (h : MemWf s) : NextWf (execLeaseSweep stand s) :=
  .ite .refused (.next (.sweepHomes (.sweepL1 h)))

theorem NextWf.execL1RetentionSleep {stand} (h : MemWf s) : NextWf (execL1RetentionSleep stand s) :=
  .ite .refused (.next (.modStand h))

theorem NextWf.execL1RetentionWake {stand} (h : MemWf s) : NextWf (execL1RetentionWake stand s) := by
  unfold Machine.execL1RetentionWake
  split
  · exact .refused
  · exact .next (.ite (.modStand (.modStand h)) (.sweepL1 (.modStand h)))

/-! ### Machine/Completion -/

theorem MemWf.deliverRegs {op t d n v poison} (h : MemWf s) : MemWf (s.deliverRegs op t d n v poison) :=
  .foldl h fun _ _ h => .ite (.fillQueue h) (.modThread h)

theorem MemWf.deliverLoad {op o bs poison} (h : MemWf s) : MemWf (s.deliverLoad op o bs poison) := by
  unfold State.deliverLoad
  dsimp only
  split
  · exact .deliverRegs (.same h)
  · exact .raiseFlags (.deliverRegs (.opDraws (.same h)))
  · exact .modThread (.same h)
  · exact .same h

theorem MemWf.countHit {op o hit} (h : MemWf s) : MemWf (s.countHit op o hit) := by
  unfold State.countHit
  dsimp only
  split
  · exact .ite (.countEvent (.foldl h fun _ _ h => .noteSram h)) (.foldl h fun _ _ h => .noteSram h)
  · exact .foldl h fun _ _ h => .noteSram h

theorem NextWf.execLoadCompletion {op} (h : MemWf s) : NextWf (execLoadCompletion op s) := by
  unfold Machine.execLoadCompletion
  split
  · refine .ite .refused ?_
    split
    · exact .next (.settleHalts (.deliverLoad (.countHit h)))
    · exact .refused
  · exact .refused

theorem NextWf.execTileRowLoadCompletion {op} (h : MemWf s) : NextWf (execTileRowLoadCompletion op s) := by
  unfold Machine.execTileRowLoadCompletion
  split
  · refine .ite .refused ?_
    split
    · exact .next (.finishRow (.countHit h))
    · exact .refused
  · exact .refused

theorem NextWf.execAtomCompletion {op} (h : MemWf s) : NextWf (execAtomCompletion op s) := by
  unfold Machine.execAtomCompletion
  split
  · refine .ite .refused (.next (.settleHalts (.raiseFlags ?_)))
    split
    · exact .deliverRegs (.same h)
    · exact .same h
  · exact .refused

/-! ### Machine/Dump -/

theorem MemWf.dumpStore {pa key n bs} (h : MemWf s) : MemWf (s.dumpStore pa key n bs) := by
  induction n generalizing s pa bs with
  | zero => exact h
  | succ n ih =>
    cases bs with
    | nil => exact h
    | cons b bs => exact ih (.writePlace h)

theorem MemWf.writeDump {k l f} (h : MemWf s) : MemWf (s.writeDump k l f) := .ite h (.setRegN (.dumpStore h))

theorem MemWf.dumpRecords {l f} (h : MemWf s) : MemWf (s.dumpRecords l f) := .eventWord (.logWord h)

theorem NextWf.execLaunchFatalEnd {launch} (h : MemWf s) : NextWf (execLaunchFatalEnd launch s) := by
  unfold Machine.execLaunchFatalEnd
  split
  · exact .refused
  · split
    · exact .refused
    · refine .ite .refused (.ite (.ite .refused (.next (.modLaunch (.dumpRecords (.writeDump h))))) ?_)
      split
      · split
        · exact .next (.get (.unitHold h) ‹_›)
        · exact .refused
      · dsimp only
        split
        · split
          · exact .next (.get (.driveHold h) ‹_›)
          · exact .refused
        · exact .next (.settlePreempt (.endLaunch (.clearLaunch (.writeBlocks h))))

/-! ### Machine/Faults -/

theorem MemWf.cacheFor {w tr} (h : MemWf s) : MemWf (s.cacheFor w tr) := by
  unfold State.cacheFor
  split
  · exact .unitInsert h
  · exact .tlbInsert h

theorem MemWf.faultOne {w g kind host pasid auto prg} (h : MemWf s) :
    MemWf (s.faultOne w g kind host pasid auto prg) := by
  unfold State.faultOne
  dsimp only
  split
  · exact .park h
  · split
    · exact .ite (.cmdFault h) h
    · exact h
  · split
    · exact .ite h (.texFault h)
    · exact h
  · exact .ite h (.driveRecord h)
  · exact .cacheFor h

theorem MemWf.walkFault {k w kind host pasid} (h : MemWf s) : MemWf (s.walkFault k w kind host pasid) :=
  .foldl (.same h) fun _ _ h => .faultOne h

theorem MemWf.pageRequests {k w pasid} (h : MemWf s) : MemWf (s.pageRequests k w pasid) := by
  unfold State.pageRequests
  refine .foldl (.same h) fun _ _ h => ?_
  dsimp only
  split
  · exact .same (.faultOne h)
  · exact .faultOne h

theorem MemWf.askHost {k w pasid} (h : MemWf s) : MemWf (s.askHost k w pasid) := .same h

theorem MemWf.dropLastPage {w} (h : MemWf s) : MemWf (s.dropLastPage w) := by
  unfold State.dropLastPage
  split
  · exact .foldl h fun _ _ h => .modThread h
  · exact h

theorem NextWf.execTranslationWalk {walk} (h : MemWf s) : NextWf (execTranslationWalk walk s) := by
  unfold Machine.execTranslationWalk
  split
  · exact .refused
  · refine .ite .refused (.ite (.next (.same h)) ?_)
    split
    · exact .ite (.ite (.ite (.next (.walkFault h)) .refused) (.next (.askHost h)))
        (.next (.cacheFor (.dropLastPage (.same h))))
    · exact .ite .refused (.next (.walkFault (.same h)))

theorem MemWf.hostDenied {k w pasid} (h : MemWf s) : MemWf (s.hostDenied k w pasid) :=
  .ite (.walkFault h) (.pageRequests h)

theorem NextWf.execAtsTranslationCompletion {walk addr perms} (h : MemWf s) :
    NextWf (execAtsTranslationCompletion walk addr perms s) := by
  unfold Machine.execAtsTranslationCompletion
  split
  · split
    · exact .refused
    · refine .ite (.next (.askHost h)) (.ite (.ite (.next (.walkFault h)) .refused) ?_)
      split
      · exact .ite (.next (.same h))
          (.ite (.next (.cacheFor (.dropLastPage (.same h)))) (.ite (.next (.hostDenied h)) .refused))
      · exact .next (.same h)
  · exact .refused

theorem NextWf.execAtsCompletionTimeout {walk} (h : MemWf s) : NextWf (execAtsCompletionTimeout walk s) := by
  unfold Machine.execAtsCompletionTimeout
  split
  · split
    · exact .ite (.next (.walkFault h)) .refused
    · exact .refused
  · exact .refused

theorem MemWf.replayRecord {key} (h : MemWf s) : MemWf (s.replayRecord key) := by
  unfold State.replayRecord
  split
  · exact h
  · dsimp only
    split
    · exact .foldl (.watchWho (.same h)) fun _ _ h => .ite (.setStatus h) h
    · exact .modCmd (.watchWho (.same h))
    · refine .same (.watchWho ?_)
      exact .same h
    · refine .same (.watchWho ?_)
      exact .same h
    · exact .watchWho (.same h)

theorem MemWf.cancelRecord {key} (h : MemWf s) : MemWf (s.cancelRecord key) := by
  unfold State.cancelRecord
  split
  · refine .ite ?_ h
    dsimp only
    split
    · exact .fatalLaunch (.same h)
    · exact .same h
  · exact h

theorem MemWf.moveWaiters {old new who} (h : MemWf s) : MemWf (s.moveWaiters old new who) := by
  unfold State.moveWaiters
  split
  · exact .foldl h fun _ _ h => .modThread h
  · exact .modCmd h
  · exact .same h
  · exact h

theorem MemWf.refuseRecord {key} (h : MemWf s) : MemWf (s.refuseRecord key) := by
  unfold State.refuseRecord
  split
  · exact h
  · dsimp only
    exact .moveWaiters (.raiseFault (.withRecs h))

theorem MemWf.sendWaitingPage {key} (h : MemWf s) : MemWf (s.sendWaitingPage key) := by
  unfold State.sendWaitingPage
  split
  · exact h
  · refine .ite (.same h) (.ite h ?_)
    dsimp only
    split
    · refine .same (.moveWaiters (.raiseFault ?_))
      exact .same h
    · exact .moveWaiters (.raiseFault (.same h))

theorem MemWf.sendWaitingPages (h : MemWf s) : MemWf (s.sendWaitingPages) := .foldl h fun _ _ h => .sendWaitingPage h

theorem NextWf.execFreplayWrite {part val} (h : MemWf s) : NextWf (execFreplayWrite part val s) :=
  .ite (.next (.foldl (.setReg h) fun _ _ h => .replayRecord h)) .refused

theorem NextWf.execFcancelWrite {part val} (h : MemWf s) : NextWf (execFcancelWrite part val s) :=
  .ite (.next (.cancelRecord (.setReg h))) .refused

theorem NextWf.execFqconsWrite {part val} (h : MemWf s) : NextWf (execFqconsWrite part val s) :=
  .ite (.next (.sendWaitingPages (.flushFaults (.setReg h)))) .refused

theorem NextWf.execFqctlWrite {part val} (h : MemWf s) : NextWf (execFqctlWrite part val s) :=
  .ite (.next (.sendWaitingPages (.flushFaults (.setRegN h)))) .refused

theorem NextWf.execPrgResponse {prg code} (h : MemWf s) : NextWf (execPrgResponse prg code s) := by
  unfold Machine.execPrgResponse
  split
  · exact .refused
  · refine .ite (.next (.sendWaitingPages (.replayRecord (.same h))))
      (.ite .refused (.ite (.next (.sendWaitingPages (.refuseRecord (.same h))))
        (.next (.sendWaitingPages (.orReg (.same (.refuseRecord ?_)))))))
    exact .same h

theorem MemWf.startInval {v} (h : MemWf s) : MemWf ((s.startInval v).2) := .same h

theorem MemWf.copyLine {m} (h : MemWf s) : MemWf (s.copyLine m) := .storePlace h

theorem MemWf.moveHeld {m} (h : MemWf s) : MemWf (s.moveHeld m) := .same h

theorem MemWf.freeHeld {m} (h : MemWf s) : MemWf (s.freeHeld m) := .same h

theorem MemWf.writeEntry {m frame held} (h : MemWf s) : MemWf (s.writeEntry m frame held) := .unitWrite h

theorem MemWf.sweepPage {m} (h : MemWf s) : MemWf (s.sweepPage m) := .same h

theorem MemWf.migReport {m kind page addr phys} (h : MemWf s) : MemWf (s.migReport m kind page addr phys) :=
  .reportFault h

theorem MemWf.migNext {k m again} (h : MemWf s) : MemWf (s.migNext k m again) := .ite (.startInval (.same h)) (.same h)

theorem MemWf.migStep {k m} (h : MemWf s) : MemWf (s.migStep k m) := by
  unfold State.migStep
  split
  · exact .migNext h
  · exact .migNext (.migReport (.freeHeld (.sweepPage (.writeEntry h))))
  · exact .migNext h
  · exact h
  · exact h
  · exact h

theorem MemWf.migBeat {k m} (h : MemWf s) : MemWf (s.migBeat k m) := by
  unfold State.migBeat
  refine .ite (.migNext h) (.ite (.migNext (.writeEntry (.moveHeld ?_))) (.migNext ?_))
  all_goals exact .ite (.migReport (.copyLine (.noteEcc h))) (.copyLine (.noteEcc h))

theorem MemWf.migMark {k m} (h : MemWf s) : MemWf (s.migMark k m) := .startInval (.writeEntry (.same h))

theorem NextWf.execInvctlStart {part val} (h : MemWf s) : NextWf (execInvctlStart part val s) :=
  .ite .refused (.ite (.next h) (.ite (.next (.setRegN h)) (.next (.startInval (.setRegN h)))))

theorem NextWf.execAtsInvalidateRequest {pasid addr size tag} (h : MemWf s) :
    NextWf (execAtsInvalidateRequest pasid addr size tag s) :=
  .ite .refused (.next (.startInval h))

theorem NextWf.execInvalidationComplete {inval} (h : MemWf s) : NextWf (execInvalidationComplete inval s) := by
  unfold Machine.execInvalidationComplete
  split
  · exact .refused
  · refine .ite .refused (.ite .refused ?_)
    dsimp only
    split
    · exact .next (.same h)
    · split
      · exact .next (.migStep (.same h))
      · exact .next (.same h)
    · exact .next (.setRegN (.same h))

theorem NextWf.execMigctlStart {part val} (h : MemWf s) : NextWf (execMigctlStart part val s) := by
  unfold Machine.execMigctlStart
  refine .ite .refused (.ite (.next h) (.ite (.next (.setRegN h)) ?_))
  dsimp only
  split
  · exact .ite (.next (.setRegN (.setRegN h))) (.next (.ite (.migMark (.setRegN (.fresh (.setRegN h)))) (.same h)))
  · exact .next (.setRegN (.setRegN h))

theorem NextWf.execMigrationComplete {mig} (h : MemWf s) : NextWf (execMigrationComplete mig s) := by
  unfold Machine.execMigrationComplete
  split
  · exact .ite (.next (.migMark h)) (.ite (.next (.migBeat h)) (.ite (.next (.setRegN (.setRegN (.same h)))) .refused))
  · exact .refused

theorem MemWf.loseParts {pick} (h : MemWf s) : MemWf (s.loseParts pick) := by
  unfold State.loseParts
  refine .foldl h fun _ _ h => .foldl h fun _ _ h => ?_
  split
  · exact .ite (.ite (.readLost h) (.dropWrite h)) h
  · exact h

theorem NextWf.execCxlPortFailure {port timeout} (h : MemWf s) : NextWf (execCxlPortFailure port timeout s) :=
  .ite .refused (.next (.loseParts (.orReg h)))

theorem NextWf.execCxlstatWrite {port val} (h : MemWf s) : NextWf (execCxlstatWrite port val s) :=
  .ite (.next (.setReg h)) .refused

theorem NextWf.execCxldropRead {port} (h : MemWf s) : NextWf (execCxldropRead port s) := .ite (.next (.same h)) .refused

theorem NextWf.execPackageUnreachableTimeout {part pkg} (h : MemWf s) :
    NextWf (execPackageUnreachableTimeout part pkg s) :=
  .ite (.next (.loseParts (.same h))) .refused

/-! ### Machine/Partitions -/

theorem MemWf.dropLaunch {k l status} (h : MemWf s) : MemWf (s.dropLaunch k l status) :=
  .completeCmd (.modLaunch (.ite (.clearLaunch h) (.signalOrKeep (.clearLaunch h))))

theorem MemWf.loseNamed {stand} (h : MemWf s) : MemWf (s.loseNamed stand) := by
  unfold State.loseNamed
  refine .foldl h fun _ _ h => .ite h ?_
  split
  · exact .same h
  · exact .dropLaunch h

theorem MemWf.clearRings {stand} (h : MemWf s) : MemWf (s.clearRings stand) := .foldl h fun _ _ h => .modEngine h

theorem MemWf.takeOwner {stand v} (h : MemWf s) : MemWf (s.takeOwner stand v) :=
  .loseNamed (.ite (.setReg (.modStand h)) (.clearRings (.setReg (.modStand h))))

theorem MemWf.writeStandown {stand v} (h : MemWf s) : MemWf (s.writeStandown stand v) :=
  .ite (.takeOwner h) (.orReg (.modStand (.fresh h)))

theorem NextWf.execStandownWrite {stand val} (h : MemWf s) : NextWf (execStandownWrite stand val s) :=
  .ite (.next (.writeStandown h)) .refused

theorem NextWf.execStandownTakeEffect {stand} (h : MemWf s) : NextWf (execStandownTakeEffect stand s) := by
  unfold Machine.execStandownTakeEffect
  split
  · exact .ite (.next (.takeOwner h)) .refused
  · exact .refused

theorem MemWf.beginMove {die toG} (h : MemWf s) : MemWf (s.beginMove die toG) := .setRegN (.modDie (.fresh h))

theorem MemWf.finishMove {die stand toG} (h : MemWf s) : MemWf (s.finishMove die stand toG) :=
  .loseNamed (.modStand (.setRegN (.modDie h)))

theorem MemWf.writeBalctl {die v} (h : MemWf s) : MemWf (s.writeBalctl die v) := .ite h (.setRegN h)

theorem NextWf.execBalctlWrite {die val} (h : MemWf s) : NextWf (execBalctlWrite die val s) :=
  .ite (.next (.writeBalctl h)) .refused

theorem NextWf.execBalancerStandMove {stand} (h : MemWf s) : NextWf (execBalancerStandMove stand s) := by
  unfold Machine.execBalancerStandMove
  refine .ite .refused ?_
  split
  · split
    · exact .ite (.next (.beginMove h)) .refused
    · exact .refused
  · exact .ite (.next (.finishMove h)) .refused

theorem NextWf.execBalancerAutoTick {die} (h : MemWf s) : NextWf (execBalancerAutoTick die s) := by
  unfold Machine.execBalancerAutoTick
  refine .ite ?_ .refused
  dsimp only
  split
  · exact .ite (.next (.beginMove (.modDie h))) (.next (.modDie h))
  · exact .next (.modDie h)

theorem MemWf.writePctl {part v} (h : MemWf s) : MemWf (s.writePctl part v) :=
  .ite (.ite (.setReg h) h) (.ite (.ite h (.setReg h)) h)

theorem MemWf.writeEvcons {part v} (h : MemWf s) : MemWf (s.writeEvcons part v) := .flushEvents (.setReg h)

theorem MemWf.writeEvctl {part v} (h : MemWf s) : MemWf (s.writeEvctl part v) := .flushEvents (.setRegN h)

theorem MemWf.writeCtrsel {part idx v} (h : MemWf s) : MemWf (s.writeCtrsel part idx v) := .same h

theorem MemWf.writeLogCons {v} (h : MemWf s) : MemWf (s.writeLogCons v) := .flushLog (.setReg h)

theorem MemWf.readClear {off} (h : MemWf s) : MemWf (s.readClear off) := .same h

theorem NextWf.execPctlWrite {part val} (h : MemWf s) : NextWf (execPctlWrite part val s) :=
  .ite (.next (.writePctl h)) .refused

theorem NextWf.execDiscardRead {part} (h : MemWf s) : NextWf (execDiscardRead part s) :=
  .ite (.next (.readClear h)) .refused

theorem NextWf.execEvconsWrite {part val} (h : MemWf s) : NextWf (execEvconsWrite part val s) :=
  .ite (.next (.writeEvcons h)) .refused

theorem NextWf.execPflogconsWrite {val} (h : MemWf s) : NextWf (execPflogconsWrite val s) := .next (.writeLogCons h)

theorem NextWf.execCtrselWrite {part idx val} (h : MemWf s) : NextWf (execCtrselWrite part idx val s) :=
  .ite (.next (.writeCtrsel h)) .refused

theorem MemWf.writeKeycmd {part v} (h : MemWf s) : MemWf (s.writeKeycmd part v) := .ite h (.setReg h)

theorem MemWf.newKey {key} (h : MemWf s) : MemWf (s.newKey key) := .same h

theorem MemWf.endKey {part key f} (h : MemWf s) (hf : MemWf (f s)) : MemWf (s.endKey part key f) := .setReg (.ite hf h)

theorem NextWf.execKeyGenerate {part} (h : MemWf s) : NextWf (execKeyGenerate part s) := by
  unfold Machine.execKeyGenerate
  split
  · exact .next (.endKey h (.newKey h))
  · exact .refused

theorem NextWf.execKeyInstall {part} (h : MemWf s) : NextWf (execKeyInstall part s) := by
  unfold Machine.execKeyInstall
  split
  · exact .next (.endKey h (.ite (.modPart (.newKey h)) h))
  · exact .refused

theorem NextWf.execKeyErase {part} (h : MemWf s) : NextWf (execKeyErase part s) := by
  unfold Machine.execKeyErase
  split
  · exact .next (.endKey h (.newKey h))
  · split
    · exact .next (.endKey h h)
    · exact .refused

theorem MemWf.beginWaits (h : MemWf s) : MemWf (s.beginWaits) := .ite h (.same h)

theorem MemWf.linkDown {l} (h : MemWf s) : MemWf (s.linkDown l) := .beginWaits (.setReg (.same h))

theorem MemWf.declareLost {part v} (h : MemWf s) : MemWf (s.declareLost part v) :=
  .dropHeld (.loseParts (.modPart (.setReg h)))

theorem MemWf.restoreLost {part v} (h : MemWf s) : MemWf (s.restoreLost part v) := .same h

theorem NextWf.execPkglostDeclare {part val} (h : MemWf s) : NextWf (execPkglostDeclare part val s) :=
  .ite (.next (.declareLost h)) .refused

theorem NextWf.execPkglostRestore {part val} (h : MemWf s) : NextWf (execPkglostRestore part val s) :=
  .ite (.next (.restoreLost h)) .refused

theorem NextWf.execEloaLinkDown {link} (h : MemWf s) : NextWf (execEloaLinkDown link s) :=
  .ite (.next (.linkDown h)) .refused

theorem NextWf.execEloaLinkUp {link peer} (h : MemWf s) : NextWf (execEloaLinkUp link peer s) :=
  .ite (.next (.setRegN (.same h))) .refused

theorem NextWf.execFlitCrcReplay {link} (h : MemWf s) : NextWf (execFlitCrcReplay link s) :=
  .ite (.next (.bumpReg h)) .refused

theorem NextWf.execLnkreplayRead {link} (h : MemWf s) : NextWf (execLnkreplayRead link s) :=
  .ite (.next (.readClear h)) .refused

theorem NextWf.collStart {part engine gather name} (h : MemWf s) : NextWf (s.collStart part engine gather name) := by
  unfold State.collStart
  dsimp only
  split
  · refine .ite (.ite .refused (.next (.same h))) ?_
    split
    · split
      · exact .next (.get (.unitHold h) ‹_›)
      · exact .refused
    · exact .ite .refused (.next (.same (.unitReads (.fresh h))))
  · exact .refused

theorem MemWf.collEnd {part engine c status} (h : MemWf s) : MemWf (s.collEnd part engine c status) := by
  unfold State.collEnd
  refine .same ?_
  exact .ite (.unitPut (.ite (.unitPut (.unitReads h)) h)) (.ite (.unitPut (.unitReads h)) h)

theorem NextWf.execCollectiveAllReduce {part engine} (h : MemWf s) : NextWf (execCollectiveAllReduce part engine s) :=
  .collStart h

theorem NextWf.execCollectiveAllGather {part engine} (h : MemWf s) : NextWf (execCollectiveAllGather part engine s) :=
  .collStart h

theorem NextWf.execCollectiveSignal {part engine} (h : MemWf s) : NextWf (execCollectiveSignal part engine s) := by
  unfold Machine.execCollectiveSignal
  split
  · exact .refused
  · refine .ite (.ite (.next (.withRouteWait h)) .refused) ?_
    split
    · exact .next (.withRouteWait (.collEnd h))
    · split
      · exact .next (.get (.unitHold h) ‹_›)
      · exact .refused

theorem MemWf.clearSram (h : MemWf s) : MemWf s.clearSram := .withLoc h Memory.wf_nil

theorem MemWf.bootStep {size0 size1 id} (h : MemWf s) : MemWf (s.bootStep size0 size1 id) := by
  unfold State.bootStep
  split
  · exact .setReg h
  · exact .setReg (.clearSram h)
  · exact .setReg (.setRegN (.setRegN (.setRegN h)))
  · exact .setReg h

theorem MemWf.writeProvision {v} (h : MemWf s) : MemWf (s.writeProvision v) := .ite (.setReg (.same h)) h

theorem MemWf.stage {off bs} (h : MemWf s) : MemWf (s.stage off bs) := .ite (.same h) h

theorem MemWf.spdmReply {req part n} (h : MemWf s) : MemWf (s.spdmReply req part n) := .same h

theorem NextWf.spdm {req part need next n name} (h : MemWf s) : NextWf (s.spdm req part need next n name) :=
  .ite .refused (.ite (.next (.spdmReply h)) (.next (.modPart (.spdmReply h))))

theorem NextWf.execPowerOnBoot {fail size0 size1 id} (h : MemWf s) : NextWf (execPowerOnBoot fail size0 size1 id s) :=
  .ite .refused (.ite (.next (.bootStep h)) (.next (.setRegN h)))

theorem NextWf.execProvisionWrite {val} (h : MemWf s) : NextWf (execProvisionWrite val s) := .next (.writeProvision h)

theorem NextWf.execGetVersion {part} (h : MemWf s) : NextWf (execGetVersion part s) := .spdm h

theorem NextWf.execGetCapabilities {part} (h : MemWf s) : NextWf (execGetCapabilities part s) := .spdm h

theorem NextWf.execNegotiateAlgorithms {part} (h : MemWf s) : NextWf (execNegotiateAlgorithms part s) := .spdm h

theorem NextWf.execGetDigests {part} (h : MemWf s) : NextWf (execGetDigests part s) := .spdm h

theorem NextWf.execGetCertificate {part} (h : MemWf s) : NextWf (execGetCertificate part s) := .spdm h

theorem NextWf.execChallenge {part} (h : MemWf s) : NextWf (execChallenge part s) := .spdm h

theorem NextWf.execGetMeasurements {part} (h : MemWf s) : NextWf (execGetMeasurements part s) :=
  .ite .refused (.ite (.next (.spdmReply h)) (.next (.same h)))

theorem NextWf.execKeyExchange {part} (h : MemWf s) : NextWf (execKeyExchange part s) := .spdm h

theorem NextWf.execFinish {part} (h : MemWf s) : NextWf (execFinish part s) := .spdm h

theorem NextWf.execWrappedKeyDelivery {part} (h : MemWf s) : NextWf (execWrappedKeyDelivery part s) :=
  .ite (.ite (.next (.spdmReply h)) (.next (.modPart (.spdmReply h)))) .refused

/-! ### Machine/Bar0 -/

theorem MemWf.setMasked {off mask v} (h : MemWf s) : MemWf (s.setMasked off mask v) := .same h

theorem MemWf.clearOnes {off v} (h : MemWf s) : MemWf (s.clearOnes off v) := .same h

theorem MemWf.transWrite {part o v} (h : MemWf s) : MemWf (s.transWrite part o v) := by
  unfold State.transWrite
  dsimp only
  split
  · exact .ite h (.setMasked h)
  · exact .ite h (.setMasked h)
  · exact .setRegN h
  · exact .ite h (.setMasked h)
  · exact .ite h (.setReg h)
  · exact .clearOnes h
  · exact .setMasked h
  · exact .setMasked h
  · exact .setMasked h
  · exact .setMasked h
  · exact .setMasked h
  · exact .setMasked h
  · exact .clearOnes h
  · exact h

theorem MemWf.cxlWrite {port o v} (h : MemWf s) : MemWf (s.cxlWrite port o v) := by
  unfold State.cxlWrite
  split
  · exact .setRegN h
  · exact .clearOnes h
  · exact h

theorem MemWf.partWrite {part o v} (h : MemWf s) : MemWf (s.partWrite part o v) := by
  unfold State.partWrite
  dsimp only
  split
  · exact .writePctl h
  · exact .ite h (.setMasked h)
  · exact .ite h (.setReg h)
  · exact .ite h (.setMasked h)
  · exact .ite h (.setMasked h)
  · exact .ite h (.setMasked h)
  · exact .ite h (.setReg h)
  · exact .ite h (.setReg h)
  · exact .ite h (.setMasked h)
  · exact .ite h (.setReg h)
  · exact .writeEvctl h
  · exact .writeEvcons h
  · exact .setRegN h
  · exact .ite (.declareLost h) (.restoreLost h)
  · exact .writeKeycmd h
  · exact .ite (.writeCtrsel h) h

theorem MemWf.writePwrmode {v} (h : MemWf s) : MemWf (s.writePwrmode v) := .ite (.setMasked h) (.orReg (.same h))

theorem MemWf.loneWrite {off v} (h : MemWf s) : MemWf (s.loneWrite off v) :=
  .ite (.ite h (.setMasked h))
    (.ite (.writeProvision h)
      (.ite (.setMasked h) (.ite (.setReg h)
        (.ite (.flushLog (.setMasked h)) (.ite (.writeLogCons h) (.ite (.writePwrmode h) h))))))

theorem NextWf.physicalWrite {off val} (h : MemWf s) : NextWf (physicalWrite off val s) := by
  unfold Machine.physicalWrite
  refine .ite (.next (.queueWrite h))
    (.ite ?_ (.ite (.next (.cxlWrite h))
      (.ite (.next (.writeStandown h))
        (.ite (.next (.ite (.writeBalctl h) h)) (.ite (.next (.partWrite h)) (.next (.loneWrite h)))))))
  dsimp only
  split
  · exact .execFqctlWrite h
  · exact .execFqconsWrite h
  · exact .execFreplayWrite h
  · exact .execFcancelWrite h
  · exact .execInvctlStart h
  · exact .execMigctlStart h
  · exact .next (.transWrite h)

theorem NextWf.execRegisterWrite {off val} (h : MemWf s) : NextWf (execRegisterWrite off val s) :=
  .ite (.physicalWrite h) (.ite (.ite (.physicalWrite h) (.next h)) .refused)

/-! ### Machine/Convert -/

theorem cvtSem_keeps : Sem.Keeps cvtSem where
  act h := by
    dsimp only [cvtSem]
    refine .perFlags h fun _ _ h => ?_
    dsimp only
    exact .writeD (.rounding h)

theorem gcvtSem_keeps : Sem.Keeps gcvtSem where
  act h := by
    dsimp only [gcvtSem]
    refine .perFlags h fun _ _ h => ?_
    dsimp only
    exact .writeD (.rounding h)

theorem gcmpSem_keeps : Sem.Keeps gcmpSem where
  act h := .foldl h fun _ _ h => .writeDP h

theorem gclassSem_keeps : Sem.Keeps gclassSem where
  act h := .foldl h fun _ _ h => .writeD h

/-! ### Machine/Preempt -/

theorem MemWf.takeOff {k} (h : MemWf s) : MemWf (s.takeOff k) := by
  unfold State.takeOff
  refine .foldl (.modLaunch (.foldl (.same ?_) fun _ _ h => .clearPrivate h)) fun _ _ h => .refill h
  exact .foldl h fun _ _ h => .leaveRun h

theorem MemWf.pauseWatch {k} (h : MemWf s) : MemWf (s.pauseWatch k) := .same h

theorem MemWf.saveLaunch {k a bytes} (h : MemWf s) : MemWf (s.saveLaunch k a bytes) := by
  unfold State.saveLaunch
  dsimp only
  split
  · exact .pauseWatch (.foldl h fun _ _ h => .ite (.abortTask h) h)
  · refine .settlePreempt (.same (.unitWrite (.takeOff (.writeBlocks (.pauseWatch ?_)))))
    exact .foldl h fun _ _ h => .ite (.abortTask h) h

theorem MemWf.keepRunning {k l} (h : MemWf s) : MemWf (s.keepRunning k l) :=
  .settlePreempt (.orReg (.modLaunch (.foldl h fun _ _ h => .setStatus h)))

theorem MemWf.moveIn {v m} (h : MemWf s) : MemWf (s.moveIn v m) := by
  unfold State.moveIn
  refine .foldl ?_ fun _ _ h => .ite (.setRing h) h
  refine .foldl ?_ fun _ _ h => ?producers
  refine .foldl ?_ fun _ _ h => .ite (.same h) h
  refine .foldl ?_ fun _ _ h => .ite (.same h) h
  refine .foldl ?_ fun _ _ h => ?filed
  refine .foldl ?_ fun _ _ h => .ite (.queueWave h) h
  refine .foldl ?_ fun _ _ h => .ite (.modStand h) h
  refine .foldl ?_ fun _ _ h => .ite (.modCore h) h
  refine .foldl ?_ fun _ _ h => .ite (.modEngine h) h
  refine .foldl ?_ fun _ _ h => ?dgns
  refine .foldl ?_ fun _ _ h => .ite (.modEngine (.modCore h)) h
  refine .foldl ?_ fun _ _ h => .ite ?area h
  refine .foldl ?_ fun _ _ h => .ite (.modCore h) h
  refine .foldl ?_ fun _ _ h => .same h
  exact .foldl (.foldl h fun _ _ h => .takeConstants h) fun _ _ h => .setThread h
  case area => exact .withLoc h (Memory.wf_foldl _ (fun _ _ hm => Memory.wf_writeByte _ _ hm) _
                 (Memory.wf_clear _ _ h.2.1))
  case dgns =>
    dsimp only
    split
    · exact .modCluster h
    · exact h
  case filed =>
    split
    · exact .placeInPocket h
    · exact h
  case producers =>
    split
    · exact .ite (.same h) h
    · exact h

theorem SomeWf.restoreWgs {v l gs went} (h : MemWf s) : SomeWf Prod.fst (s.restoreWgs v l gs went) := by
  induction gs generalizing s went with
  | nil => exact .some h
  | cons g gs ih =>
    unfold State.restoreWgs
    dsimp only
    split
    · exact .none
    · exact ih (.modLaunch (.moveIn (.claimSpill h)))

theorem SomeWf.bind {o : Option State} {g : State → Option State} (ho : SomeWf id o)
    (hg : ∀ x, MemWf x → SomeWf id (g x)) : SomeWf id (o.bind g) := fun _ e => by
  obtain ⟨x, hx, he⟩ := Option.bind_eq_some_iff.1 e
  exact hg x (ho x hx) _ he

theorem SomeWf.restoreHeads {k} (h : MemWf s) : SomeWf id (s.restoreHeads k) := by
  refine foldl_keeps (SomeWf id) _ _ _ (.some h) fun _ _ ho => .bind ho fun _ h => ?_
  exact foldl_keeps (SomeWf id) _ _ _ (.some h) fun _ _ ho => .bind ho fun _ h => .ite (.ite (.some (.modDie h)) .none)
    (.some h)

theorem MemWf.retakeStreams {k l} (h : MemWf s) : MemWf (s.retakeStreams k l) := .ite h (.modLaunch (.unitReads h))

theorem SomeWf.restore {a v} (h : MemWf s) : SomeWf id (s.restore a v) := by
  have htaken : MemWf (match s.launch? v.launch with
      | .some l => s.retakeStreams v.launch l
      | .none => s) := by
    split
    · exact .retakeStreams h
    · exact h
  unfold State.restore
  extract_lets s'
  have hs : MemWf s' := htaken
  split
  · exact .none
  · split
    · exact .none
    · exact .ite .none (.restoreHeads
        (.foldl (.modLaunch (.withSavedRecs (.moveIn (.get (.restoreWgs hs) ‹_›)))) fun _ _ h => .syncWatch h))

theorem DoneWf.runResume {q c} (h : MemWf s) : DoneWf (State.runResume q s c) := by
  unfold State.runResume
  refine .ite (.done (.refuseCmd h)) ?_
  split
  · exact .done (.refuseCmd h)
  · split
    · exact .done (.completeCmd (.orReg (.get (.restore h) ‹_›)))
    · exact .hold

theorem NextWf.execQpreemptWrite {queue val} (h : MemWf s) : NextWf (execQpreemptWrite queue val s) :=
  .ite (.next (.queueWrite h)) .refused

theorem NextWf.execPreemptionComplete {launch} (h : MemWf s) : NextWf (execPreemptionComplete launch s) := by
  unfold Machine.execPreemptionComplete
  split
  · refine .ite .refused ?_
    dsimp only
    split
    · exact .next (.keepRunning h)
    · split
      · split
        · exact .next (.get (.driveHold h) ‹_›)
        · exact .refused
      · exact .ite (.next (.saveLaunch h)) .refused
  · exact .refused

theorem NextWf.execResume {queue} (h : MemWf s) : NextWf (execResume queue s) := .command h fun _ _ h => .runResume h

/-! ### Machine/Cruiser -/

theorem MemWf.commitShadow {x} (h : MemWf s) : MemWf (s.commitShadow x) := .writePlaces h

theorem MemWf.noteAcceptance {part k b} (h : MemWf s) : MemWf (s.noteAcceptance part k b) :=
  .noteEngineRead (.noteAccept h)

theorem MemWf.becomeReal {q k c} (h : MemWf s) : MemWf (s.becomeReal q k c) := .same h

theorem MemWf.dropCruise {k x} (h : MemWf s) : MemWf (s.dropCruise k x) := by
  unfold State.dropCruise
  refine .same (.clearLaunch ?_)
  exact .same h

theorem NextWf.execCruiseStart {queue} (h : MemWf s) : NextWf (execCruiseStart queue s) := by
  unfold Machine.execCruiseStart
  dsimp only
  split
  · exact .refused
  · refine .ite .refused (.ite .refused ?_)
    split
    · exact .ite .refused (.next (.bumpReg (.noteAcceptance (.same h))))
    · split
      · exact .next (.get (.unitHold h) ‹_›)
      · exact .refused
    · exact .refused

theorem NextWf.execCruiseClaim {queue} (h : MemWf s) : NextWf (execCruiseClaim queue s) := by
  unfold Machine.execCruiseClaim
  split
  · exact .refused
  · split
    · extract_lets claim
      have hclaim : MemWf (claim s) := .bumpReg
        (.noteKernel (.unitDrop (.becomeReal (.withCruises (.dropKept (.commitShadow h))))))
      refine .ite .refused (.ite (.next hclaim) ?_)
      split
      · split
        · exact .next (.get (.unitHold h) ‹_›)
        · exact .refused
      · split
        · exact .next (.endLaunch hclaim)
        · exact .next hclaim
    · exact .refused

theorem NextWf.execCruiseDiscard {cruise} (h : MemWf s) : NextWf (execCruiseDiscard cruise s) := by
  unfold Machine.execCruiseDiscard
  split
  · exact .ite .refused (.next (.orReg (.bumpReg (.dropCruise h))))
  · exact .refused

theorem NextWf.execCruiseIdleTimeout {cruise} (h : MemWf s) : NextWf (execCruiseIdleTimeout cruise s) := by
  unfold Machine.execCruiseIdleTimeout
  split
  · split
    · exact .ite (.next (.same h)) .refused
    · exact .refused
  · exact .refused

theorem NextWf.cruiseRead {name q off} (h : MemWf s) : NextWf (s.cruiseRead name q off) := by
  unfold State.cruiseRead
  refine .ite .refused ?_
  split
  · exact .next (.same (.get (.queueRead h) ‹_›))
  · exact .refused

theorem NextWf.execCrstartRead {queue} (h : MemWf s) : NextWf (execCrstartRead queue s) := .cruiseRead h

theorem NextWf.execCrclaimRead {queue} (h : MemWf s) : NextWf (execCrclaimRead queue s) := .cruiseRead h

theorem NextWf.execCrdiscRead {queue} (h : MemWf s) : NextWf (execCrdiscRead queue s) := .cruiseRead h

theorem NextWf.execCrcauseRead {queue} (h : MemWf s) : NextWf (execCrcauseRead queue s) := .cruiseRead h

/-! ### Machine/Lane -/

theorem shflSem_keeps : Sem.Keeps shflSem where
  act h := .foldl h fun _ _ h => .modThread h

theorem ballotSem_keeps : Sem.Keeps ballotSem where
  act h := .foldl h fun _ _ h => .writeD h

theorem voteSem_keeps : Sem.Keeps voteSem where
  act h := .writeDP h

theorem randSem_keeps : Sem.Keeps randSem where
  act h := .foldl h fun _ _ h => .writeD (.draws (n := 1) h)

theorem qxmaxSem_keeps : Sem.Keeps qxmaxSem where
  act h := by
    unfold qxmaxSem
    dsimp only
    refine .foldl h fun _ _ h => ?_
    split <;> exact .same (.emptyD h)

theorem MemWf.endExchange {vals e} (h : MemWf s) : MemWf (s.endExchange vals e) := by
  unfold State.endExchange
  dsimp only
  split
  · exact .deliver (.same h)
  · exact .same h

theorem NextWf.execQxmaxExchangeCompletion {prod} (h : MemWf s) : NextWf (execQxmaxExchangeCompletion prod s) := by
  unfold Machine.execQxmaxExchangeCompletion
  split
  · exact .next (.deliver (.same h))
  · exact .ite (.next (.foldl h fun _ _ h => .endExchange h)) .refused
  · exact .refused

theorem qscaleSem_keeps : Sem.Keeps qscaleSem where
  act h := by
    dsimp only [qscaleSem]
    refine .perFlags h fun _ _ h => ?_
    dsimp only
    exact .writeD h

theorem qcvtSem_keeps : Sem.Keeps qcvtSem where
  act h := by
    dsimp only [qcvtSem]
    refine .perFlags h fun _ _ h => ?_
    dsimp only
    exact .writeD (.rounding h)

/-! ### Machine/Move -/

theorem selSem_keeps : Sem.Keeps selSem where
  act h := .perThread h fun _ _ h => .writeD h

theorem movSem_keeps : Sem.Keeps movSem where
  act h := .perThread h fun _ _ h => .writeD h

theorem movkSem_keeps : Sem.Keeps movkSem where
  act h := by
    unfold movkSem
    dsimp only
    refine .ite ?_ (.foldl h fun _ _ h => .writeD h)
    split
    · exact .writeD h
    · exact h

theorem litSem_keeps : Sem.Keeps litSem where
  act h := .perThread h fun _ _ h => .writeD h

theorem leaSem_keeps : Sem.Keeps leaSem where
  act h := .perThread h fun _ _ h => .writeD h

theorem leamSem_keeps : Sem.Keeps leamSem where
  act h := .perThread h fun _ _ h => .writeD h

theorem MemWf.predPerThread {i f ts} (h : MemWf s) : MemWf (predPerThread i f ts s) :=
  .perThread h fun _ _ h => .writeDP h

theorem cmpSem_keeps : Sem.Keeps cmpSem where
  act h := .predPerThread h

theorem predSem_keeps : Sem.Keeps predSem where
  act h := .predPerThread h

/-! ### Machine/Power -/

theorem MemWf.sample {power} (h : MemWf s) : MemWf (s.sample power) := .same h

theorem MemWf.setSteps {a w m} (h : MemWf s) : MemWf (s.setSteps a w m) := .same h

theorem MemWf.stepUp (h : MemWf s) : MemWf (s.stepUp) :=
  .ite (.setSteps h) (.ite (.ite (.setSteps h) h) (.ite (.setSteps h) h))

theorem MemWf.stepDown (h : MemWf s) : MemWf (s.stepDown) :=
  .ite (.setSteps h) (.ite (.setSteps h) (.ite (.setSteps h) h))

theorem MemWf.unitEvent {part die unit cause} (h : MemWf s) : MemWf (s.unitEvent part die unit cause) := .eventRecord h

theorem MemWf.unitLog {unit cause} (h : MemWf s) : MemWf (s.unitLog unit cause) := .logWord h

theorem NextWf.execPwrmodeWrite {val} (h : MemWf s) : NextWf (execPwrmodeWrite val s) := .next (.writePwrmode h)

theorem NextWf.execClockRelockComplete (h : MemWf s) : NextWf (execClockRelockComplete s) :=
  .ite (.next (.ite (.setRegN (.same h)) (.same h))) .refused

theorem NextWf.execGovernorTick {power} (h : MemWf s) : NextWf (execGovernorTick power s) :=
  .ite (.next (.ite (.stepUp (.sample (.same h))) (.ite (.stepDown (.sample (.same h))) (.sample (.same h))))) .refused

theorem NextWf.execThermalLimit {temp} (h : MemWf s) : NextWf (execThermalLimit temp s) :=
  .ite (.next (.foldl (.unitLog (.orReg (.same h))) fun _ _ h => .unitEvent h)) .refused

theorem NextWf.execClocksResumeBelow95c {temp} (h : MemWf s) : NextWf (execClocksResumeBelow95c temp s) := by
  unfold Machine.execClocksResumeBelow95c
  exact .ite (.next (.setReg (.withPkg (.foldl h fun _ _ h => .setRegN h)))) .refused

/-! ### Machine/Ras -/

theorem MemWf.setBitReg {base n} (h : MemWf s) : MemWf (s.setBitReg base n) := .same h

theorem MemWf.nameAlternate {stand} (h : MemWf s) : MemWf (s.nameAlternate stand) := .ite h (.modStand h)

theorem MemWf.returnLine {line lost} (h : MemWf s) : MemWf (s.returnLine line lost) := by
  unfold State.returnLine
  refine .releaseLine ?_
  split
  · exact h
  · exact .same h
  · exact .withDram h (Memory.wf_write _ _ h.1)
  · exact h

theorem MemWf.failFlume {cluster lost} (h : MemWf s) : MemWf (s.failFlume cluster lost) := by
  refine .foldl (.modCluster h) fun _ _ h => ?_
  refine .ite (.dropDcmp ?_) (.noteStatus (.dropDcmp ?_)) <;> exact .foldl h fun _ _ h => .returnLine h

theorem MemWf.abortTasksAt {here} (h : MemWf s) : MemWf (s.abortTasksAt here) :=
  .foldl h fun _ _ h => .ite (.abortTask h) h

theorem MemWf.reportFence {kind n cause} (h : MemWf s) : MemWf (s.reportFence kind n cause) := by
  unfold State.reportFence
  refine .same ?_
  exact .foldl (.unitLog (.orReg (.same h))) fun _ _ h => .unitEvent h

theorem MemWf.fenceStand {stand cause} (h : MemWf s) : MemWf (s.fenceStand stand cause) :=
  .ite h (.reportFence (.ite (.setBitReg (.modStand h)) (.setRegN (.setBitReg (.modStand h)))))

theorem MemWf.fenceFeature {key feature} (h : MemWf s) : MemWf (s.fenceFeature key feature) :=
  .nameAlternate (.ite (.modEngine h) (.abortTasksAt (.modEngine h)))

theorem MemWf.poisonUnsaved {slice} (h : MemWf s) : MemWf (s.poisonUnsaved slice) :=
  .foldl h fun _ _ h => .withDramPoison (.cleanLine h)

theorem MemWf.fenceEffect {kind n} (h : MemWf s) : MemWf (s.fenceEffect kind n) := by
  unfold State.fenceEffect
  split
  · exact .nameAlternate (.setBitReg h)
  · exact .fenceFeature h
  · exact .fenceFeature h
  · exact .fenceFeature h
  · exact .fenceFeature h
  · exact .abortTasksAt (.failFlume h)
  · exact .same (.poisonUnsaved h)
  · exact .linkDown h
  · exact h

theorem MemWf.fence {kind n cause} (h : MemWf s) : MemWf (s.fence kind n cause) :=
  .ite (.fenceStand h) (.ite (.foldl (.reportFence (.fenceEffect h)) fun _ _ h => .fenceStand h)
    (.reportFence (.fenceEffect h)))

theorem NextWf.execUnitFence {unit cause} (h : MemWf s) : NextWf (execUnitFence unit cause s) :=
  .ite (.next (.fence h)) .refused

theorem NextWf.execL2RehomingComplete {slice} (h : MemWf s) : NextWf (execL2RehomingComplete slice s) :=
  .ite (.next (.same h)) .refused

theorem NextWf.execBuddyTakeover {line} (h : MemWf s) : NextWf (execBuddyTakeover line s) := by
  unfold Machine.execBuddyTakeover
  dsimp only
  split
  · exact .ite .refused (.next (.fence (.failFlume h)))
  · exact .refused

theorem NextWf.execDramScrub {line cls} (h : MemWf s) : NextWf (execDramScrub line cls s) :=
  .ite .refused (.ite .refused
    (.next (.ite (.noteBadLine (.ite h (.same h))) (.ite (.noteCorrected (.ite h (.same h))) (.ite h (.same h))))))

theorem NextWf.execCorrectedLineRewrite {line} (h : MemWf s) : NextWf (execCorrectedLineRewrite line s) :=
  .ite (.next (.same h)) .refused

theorem NextWf.execCecountRead (h : MemWf s) : NextWf (execCecountRead s) := .next (.readClear h)

theorem NextWf.execUecountRead (h : MemWf s) : NextWf (execUecountRead s) := .next (.readClear h)

theorem NextWf.execMisdirRead (h : MemWf s) : NextWf (execMisdirRead s) := .next (.readClear h)

theorem NextWf.execParretryRead (h : MemWf s) : NextWf (execParretryRead s) := .next (.readClear h)

theorem MemWf.parityFence {key} (h : MemWf s) : MemWf (s.parityFence key) := .fence (.ite h (.abortTasksAt h))

theorem NextWf.execParityRetry {unit} (h : MemWf s) : NextWf (execParityRetry unit s) :=
  .ite .refused (.next (.ite (.countEvent (.bumpReg (.same h))) (.ite (.same h) (.parityFence (.same h)))))

theorem MemWf.spoilK {m n} (h : MemWf s) : MemWf (s.spoilK m n) := by
  unfold State.spoilK
  dsimp only
  split
  · exact .modSlot h
  · exact .modThread h

theorem MemWf.spoilReg {t i f n} (h : MemWf s) : MemWf (s.spoilReg t i f n) := by
  unfold State.spoilReg
  dsimp only
  split
  · exact .ite (.modThread h) (.modThread h)
  · exact .modThread h
  · exact .modThread h
  · exact .spoilK h
  · split
    · exact .modSlot h
    · exact h
  · split
    · exact .modSlot h
    · exact h
  · exact h

theorem MemWf.spoilCopy {stand p} (h : MemWf s) : MemWf (s.spoilCopy stand p) := by
  unfold State.spoilCopy
  split
  · exact .modStand h
  · exact h

theorem MemWf.spoilOps {old} (h : MemWf s) : MemWf (s.spoilOps old) := by
  unfold State.spoilOps
  refine .same ?_
  exact .foldl h fun _ _ h => .ite (.foldl h fun _ _ h => .spoilCopy h) h

theorem MemWf.spoilMma {old e j} (h : MemWf s) : MemWf (s.spoilMma old e j) := .same h

theorem MemWf.spoil {old i} (h : MemWf s) : MemWf (s.spoil old i) := by
  unfold State.spoil
  dsimp only
  split
  · exact .spoilMma (.foldl (.spoilOps h) fun _ _ h => .foldl h fun _ _ h => .spoilReg h)
  · exact .foldl (.spoilOps h) fun _ _ h => .foldl h fun _ _ h => .spoilReg h

theorem MemWf.settleParity {i} (h : MemWf t) : MemWf (s.settleParity i t) := by
  unfold State.settleParity
  split
  · exact h
  · refine .ite h (.ite (.same h) (.parityFence ?_))
    exact .optionElim (.same h) fun _ => .spoil (.same h)

theorem NextWf.issued {i o} (h : MemWf s) (ho : NextWf o) : NextWf (s.issued i o) := by
  unfold State.issued
  split
  · exact .next (.ite h (.settleParity (ho _ rfl)))
  · exact ho

theorem MemWf.spoilWord {w} (h : MemWf s) : MemWf (s.spoilWord w) := by
  unfold State.spoilWord
  split
  · exact .ite (.same h) h
  · exact .modThread h
  · exact .modThread h
  · exact .spoilK h
  · exact .modSlot h
  · exact .modSlot h
  · exact h

theorem MemWf.upset {w double} (h : MemWf s) : MemWf (s.upset w double) := .ite (.spoilWord h) (.noteSram h)

/-! ### The step -/

/-- Every operation of R135 keeps the canonical form. -/
theorem semOf_keeps (op : Op) : Sem.Keeps (semOf op) := by
  cases op with
  | add | sub | addc | subb | mulLo | mulHi | mulw | mad | div | rem | neg | abs | min | max | and
  | or | xor | not | andn | shl | shr | sra | rol | ror | bfe | bfi | popc | clz | ctz | brev => exact intSem_keeps
  | sel => exact selSem_keeps
  | mov => exact movSem_keeps
  | movk => exact movkSem_keeps
  | lit => exact litSem_keeps
  | lea => exact leaSem_keeps
  | leam => exact leamSem_keeps
  | cmp => exact cmpSem_keeps
  | pand | por | pxor | pnot => exact predSem_keeps
  | nop => exact nopSem_keeps
  | bra | brx | jmp | call | ret | loop => exact transferSem_keeps
  | syncw => exact syncwSem_keeps
  | reform => exact reformSem_keeps
  | reformS => exact reformSSem_keeps
  | yield => exact nopSem_keeps
  | halt | haltR => exact haltSem_keeps
  | wait => exact waitSem_keeps
  | send => exact sendSem_keeps
  | sendT => exact sendTSem_keeps
  | sendb => exact sendSem_keeps
  | post => exact postSem_keeps
  | spawn => exact sendSem_keeps
  | trap => exact trapSem_keeps
  | eret => exact eretSem_keeps
  | rdcr => exact rdcrSem_keeps
  | wrcr => exact wrcrSem_keeps
  | femark => exact femarkSem_keeps
  | fefill => exact fefillSem_keeps
  | trace => exact traceSem_keeps
  | cntrFold => exact cntrFoldSem_keeps
  | fadd | fsub | fmul | ffma => exact fltSem_keeps
  | fmin | fmax => exact fltMinMaxSem_keeps
  | fabs | fneg => exact fltSignSem_keeps
  | fcmp => exact fltCmpSem_keeps
  | fclass => exact fltClassSem_keeps
  | frnd => exact fltRoundSem_keeps
  | frcp | frsq | fsqrt | fexp2 | flog2 | fsin | fcos | ftanh => exact specialSem_keeps
  | cvt => exact cvtSem_keeps
  | gcvt => exact gcvtSem_keeps
  | gcmp => exact gcmpSem_keeps
  | gclass => exact gclassSem_keeps
  | dot4 => exact dotSem_keeps
  | vadd | vsub | vmul | vmad | vmin | vmax => exact vecSem_keeps
  | shfl => exact shflSem_keeps
  | ballot => exact ballotSem_keeps
  | vote => exact voteSem_keeps
  | rand => exact randSem_keeps
  | qxmax => exact qxmaxSem_keeps
  | qscale => exact qscaleSem_keeps
  | qcvt => exact qcvtSem_keeps
  | ld => exact loadSem_keeps
  | st => exact storeSem_keeps
  | ldg => exact loadSem_keeps
  | sts => exact storeSem_keeps
  | pref => exact prefSem_keeps
  | atom => exact atomSem_keeps
  | fence => exact fenceSem_keeps
  | barArr => exact barArriveSem_keeps
  | barWait => exact barWaitSem_keeps
  | barSync => exact barArriveSem_keeps
  | cvsign => exact cvsignSem_keeps
  | cvwait => exact cvwaitSem_keeps
  | bndSet => exact bndSem_keeps
  | flumeCopy | flumeTile => exact flumeSem_keeps
  | flumeWait => exact flumeWaitSem_keeps
  | flumeCvt => exact flumeSem_keeps
  | gset => exact gsetSem_keeps
  | gclr => exact gclrSem_keeps
  | tspawn => exact tspawnSem_keeps
  | trange => exact trangeSem_keeps
  | tdone => exact tdoneSem_keeps
  | tabort => exact tdoneSem_keeps
  | tstamp => exact tstampSem_keeps
  | rayEnq => exact rayEnqSem_keeps
  | rayBox4 => exact rayBoxSem_keeps
  | rayTri => exact rayTriSem_keeps
  | rayNext => exact rayNextSem_keeps
  | rayHit => exact rayHitSem_keeps
  | rayFin => exact rayFinSem_keeps
  | primEmit => exact primEmitSem_keeps
  | primEmitClose => exact primCloseSem_keeps
  | visRead => exact visReadSem_keeps
  | texReq => exact texReqSem_keeps
  | blkDcmp => exact dcmpSem_keeps
  | tld => exact tldSem_keeps
  | tldt => exact tldtSem_keeps
  | tst => exact tstSem_keeps
  | tzero => exact tzeroSem_keeps
  | tgather => exact tldSem_keeps
  | nzscan => exact nzscanSem_keeps
  | mma | mmaS => exact mmaSem_keeps
  | accMov => exact accMovSem_keeps
  | accLd => exact accLdSem_keeps
  | accSt => exact accStSem_keeps
  | accCvt => exact accCvtSem_keeps
  | accZero => exact accZeroSem_keeps

/-- Every event keeps the canonical form. -/
theorem NextWf.event {i} (h : MemWf s) (hi : i.ins = none) : NextWf (exec i s) := by
  cases i with
  | instructionFetchFault => exact .execInstructionFetchFault h
  | runArbitration => exact .execRunArbitration h
  | loadCompletion => exact .execLoadCompletion h
  | atomCompletion => exact .execAtomCompletion h
  | specialFunctionCompletion => exact .execSpecialFunctionCompletion h
  | qxmaxExchangeCompletion => exact .execQxmaxExchangeCompletion h
  | accMovCompletion => exact .execAccMovCompletion h
  | tileRowLoadCompletion => exact .execTileRowLoadCompletion h
  | mmaEntryPerform => exact .execMmaEntryPerform h
  | waitDeadlineExpiry => exact .execWaitDeadlineExpiry h
  | sendTTimeout => exact .execSendTTimeout h
  | messagePlaceGrant => exact .execMessagePlaceGrant h
  | messageArrival => exact .execMessageArrival h
  | handlerStart => exact .execHandlerStart h
  | heldMessageRouteReturn => exact .execHeldMessageRouteReturn h
  | pocketAgeExpiry => exact .execPocketAgeExpiry h
  | waveQueueStart => exact .execWaveQueueStart h
  | waitingThreadTakesContext => exact .execWaitingThreadTakesContext h
  | workgroupWatchdogExpiry => exact .execWorkgroupWatchdogExpiry h
  | launchFatalEnd => exact .execLaunchFatalEnd h
  | workgroupPlacement => exact .execWorkgroupPlacement h
  | workgroupRetire => exact .execWorkgroupRetire h
  | homeReadLeaseGrant => exact .execHomeReadLeaseGrant h
  | homeWritePerformed => exact .execHomeWritePerformed h
  | writeAckAtStand => exact .execWriteAckAtStand h
  | scOperationPerformed => exact .execScOperationPerformed h
  | leaseSweep => exact .execLeaseSweep h
  | l1RetentionWake => exact .execL1RetentionWake h
  | engineOwnershipGrant => exact .execEngineOwnershipGrant h
  | engineRecallComplete => exact .execEngineRecallComplete h
  | buddyTakeover => exact .execBuddyTakeover h
  | memoryPortArrival => exact .execMemoryPortArrival h
  | translationWalk => exact .execTranslationWalk h
  | flumeCommandAtHead => exact .execFlumeCommandAtHead h
  | flumeBeatService => exact .execFlumeBeatService h
  | flumeCommandComplete => exact .execFlumeCommandComplete h
  | boomSelection => exact .execBoomSelection h
  | reachLoadComplete => exact .execReachLoadComplete h
  | batchEnd => exact .execBatchEnd h
  | batchLimitExpiry => exact .execBatchLimitExpiry h
  | driveAccessFault => exact .execDriveAccessFault h
  | taskDispatch => exact .execTaskDispatch h
  | commitReduction => exact .execCommitReduction h
  | taskCommit => exact .execTaskCommit h
  | binEntryRasterize => exact .execBinEntryRasterize h
  | tileVisibilityFinal => exact .execTileVisibilityFinal h
  | emissionForcedClose => exact .execEmissionForcedClose h
  | tileWriteBack => exact .execTileWriteBack h
  | textureReply => exact .execTextureReply h
  | balancerStandMove => exact .execBalancerStandMove h
  | balancerAutoTick => exact .execBalancerAutoTick h
  | qresvRead => exact .execQresvRead h
  | qresvTimeout => exact .execQresvTimeout h
  | qresvsRead => exact .execQresvsRead h
  | qresvsBusyTimeout => exact .execQresvsBusyTimeout h
  | doorbellWrite => exact .execDoorbellWrite h
  | qctlWrite => exact .execQctlWrite h
  | qstatWrite => exact .execQstatWrite h
  | launch => exact .execLaunch h
  | signalCommand => exact .execSignalCommand h
  | queueWaitCommand => exact .execQueueWaitCommand h
  | queueWaitPoll => exact .execQueueWaitPoll h
  | queueWaitTimeout => exact .execQueueWaitTimeout h
  | messageCommand => exact .execMessageCommand h
  | bind => exact .execBind h
  | resume => exact .execResume h
  | qpreemptWrite => exact .execQpreemptWrite h
  | preemptionComplete => exact .execPreemptionComplete h
  | cruiseStart => exact .execCruiseStart h
  | cruiseClaim => exact .execCruiseClaim h
  | cruiseDiscard => exact .execCruiseDiscard h
  | cruiseIdleTimeout => exact .execCruiseIdleTimeout h
  | crstartRead => exact .execCrstartRead h
  | crclaimRead => exact .execCrclaimRead h
  | crdiscRead => exact .execCrdiscRead h
  | crcauseRead => exact .execCrcauseRead h
  | freplayWrite => exact .execFreplayWrite h
  | fcancelWrite => exact .execFcancelWrite h
  | fqconsWrite => exact .execFqconsWrite h
  | invctlStart => exact .execInvctlStart h
  | invalidationComplete => exact .execInvalidationComplete h
  | migctlStart => exact .execMigctlStart h
  | migrationComplete => exact .execMigrationComplete h
  | atsTranslationCompletion => exact .execAtsTranslationCompletion h
  | atsInvalidateRequest => exact .execAtsInvalidateRequest h
  | prgResponse => exact .execPrgResponse h
  | cxlPortFailure => exact .execCxlPortFailure h
  | cxlstatWrite => exact .execCxlstatWrite h
  | cxldropRead => exact .execCxldropRead h
  | packageUnreachableTimeout => exact .execPackageUnreachableTimeout h
  | pkglostDeclare => exact .execPkglostDeclare h
  | pkglostRestore => exact .execPkglostRestore h
  | standownWrite => exact .execStandownWrite h
  | standownTakeEffect => exact .execStandownTakeEffect h
  | pctlWrite => exact .execPctlWrite h
  | discardRead => exact .execDiscardRead h
  | evconsWrite => exact .execEvconsWrite h
  | pflogconsWrite => exact .execPflogconsWrite h
  | keyGenerate => exact .execKeyGenerate h
  | keyInstall => exact .execKeyInstall h
  | keyErase => exact .execKeyErase h
  | balctlWrite => exact .execBalctlWrite h
  | ctrselWrite => exact .execCtrselWrite h
  | collectiveAllReduce => exact .execCollectiveAllReduce h
  | collectiveAllGather => exact .execCollectiveAllGather h
  | collectiveSignal => exact .execCollectiveSignal h
  | lnkreplayRead => exact .execLnkreplayRead h
  | eloaLinkDown => exact .execEloaLinkDown h
  | powerOnBoot => exact .execPowerOnBoot h
  | provisionWrite => exact .execProvisionWrite h
  | getVersion => exact .execGetVersion h
  | getCapabilities => exact .execGetCapabilities h
  | negotiateAlgorithms => exact .execNegotiateAlgorithms h
  | getDigests => exact .execGetDigests h
  | getCertificate => exact .execGetCertificate h
  | challenge => exact .execChallenge h
  | getMeasurements => exact .execGetMeasurements h
  | keyExchange => exact .execKeyExchange h
  | finish => exact .execFinish h
  | wrappedKeyDelivery => exact .execWrappedKeyDelivery h
  | parityRetry => exact .execParityRetry h
  | dramScrub => exact .execDramScrub h
  | correctedLineRewrite => exact .execCorrectedLineRewrite h
  | unitFence => exact .execUnitFence h
  | cecountRead => exact .execCecountRead h
  | uecountRead => exact .execUecountRead h
  | misdirRead => exact .execMisdirRead h
  | parretryRead => exact .execParretryRead h
  | pwrmodeWrite => exact .execPwrmodeWrite h
  | governorTick => exact .execGovernorTick h
  | thermalLimit => exact .execThermalLimit h
  | registerWrite => exact .execRegisterWrite h
  | clocksResumeBelow95c => exact .execClocksResumeBelow95c h
  | clockRelockComplete => exact .execClockRelockComplete h
  | l1RetentionSleep => exact .execL1RetentionSleep h
  | eloaLinkUp => exact .execEloaLinkUp h
  | flitCrcReplay => exact .execFlitCrcReplay h
  | atsCompletionTimeout => exact .execAtsCompletionTimeout h
  | rootComplexWriteAck => exact .execRootComplexWriteAck h
  | l2RehomingComplete => exact .execL2RehomingComplete h
  | fqctlWrite => exact .execFqctlWrite h
  | _ => cases hi

/-- What an instruction or an event means keeps the canonical form. -/
theorem NextWf.exec {i} (h : MemWf s) : NextWf (exec i s) := by
  cases hi : i.ins with
  | none => exact .event h hi
  | some k =>
    rw [exec_eq_issue i k s hi]
    exact .issue h (semOf_keeps k.op)

theorem NextWf.issueStep (h : MemWf s) : NextWf (issueStep s) := by
  unfold Machine.issueStep
  split
  · exact .exec h
  · exact .ite (.next (.endSlice h)) (.issued h (.exec h))
  · exact .next (.issueIllegal h)
  · exact .next (.askFetch h)
  · exact .exec h
  · exact .next (.fetchPoison h)

/-- Every step keeps the canonical form. -/
theorem NextWf.step (h : MemWf s) : NextWf (step s) := by
  unfold Machine.step
  split
  · exact .ite .refused (.issueStep h)
  · refine .ite .refused ?_
    split
    · exact .issueStep (.withFocus (.pass h))
    · exact .exec (.pass h)
    · exact .next (.upset (.pass h))
    · exact .next (.stage (.pass h))

end Sys2Proof.Safety
end

section
namespace Sys2Proof.Proofs

open Sys2Proof Sys2Proof.Machine Sys2Proof.Safety

/-- Settles O59: every write to a memory is one of the operations that keep its canonical form. -/
theorem stepKeepsMemory : Obligations.StepKeepsMemory := fun _ _ h => (NextWf.step h) _

end Sys2Proof.Proofs
end

section
/-!
SUPPORT. What a memory access leaves at issue (08 R200-R208; 11 R270): quiet steps change no register and no byte, and the
reservation of D changes D alone.
-/

namespace Sys2Proof.Machine
open Sys2Proof.Safety

/-- A thread with the fields put back that any memory access may change: its program counter, its queues, its flags, its generator,
its next stamp and its last page. -/
def Thread.restored (th x : Thread) : Thread :=
  { x with pc := th.pc, oq := th.oq, fex := th.fex, rng := th.rng, sc := th.sc, lastPage := th.lastPage, popWait := th.popWait }

/-- Only those fields differ. -/
def Thread.Past (th th' : Thread) : Prop := th.restored th' = th

theorem Thread.Past.refl (th : Thread) : th.Past th := rfl

theorem Thread.Past.trans {a b c : Thread} (h : a.Past b) (h' : b.Past c) : a.Past c := by
  unfold Past at *
  have e := congrArg a.restored h'
  exact (e :).trans h

namespace State

/-- What a memory access leaves of a state at issue: the parts named here may differ, engines only in counters and trace rings,
and each thread is as `P` says. -/
structure Accesses (P : Nat → Thread → Thread → Prop) (s t : State) : Prop where
  rest : { t with threads := s.threads, engines := s.engines, stands := s.stands, ops := s.ops, nextId := s.nextId
                  cruises := s.cruises, unitTlbs := s.unitTlbs } = s
  engines : EnginesKept s t
  thread : ∀ u, Option.Rel (P u) (s.thread? u) (t.thread? u)

variable {s t w : State} {P Q R : Nat → Thread → Thread → Prop}

theorem Accesses.focus (h : Accesses P s t) : t.focus = s.focus := (congrArg State.focus h.rest :)

theorem Accesses.trans (h : Accesses P s t) (h' : Accesses Q t w) (hr : ∀ u a b c, P u a b → Q u b c → R u a c) :
    Accesses R s w := by
  refine ⟨?_, ⟨fun e he he' => ?_, fun e => (h'.engines.2 e).trans (h.engines.2 e)⟩, fun u => ?_⟩
  · have e := congrArg (fun x : State => { x with
      threads := s.threads, engines := s.engines, stands := s.stands, ops := s.ops, nextId := s.nextId, cruises := s.cruises
      unitTlbs := s.unitTlbs }) h'.rest
    exact (e :).trans h.rest
  · rw [← h.focus] at he he'
    rw [h'.engines.1 e he he']
    rw [h.focus] at he he'
    exact h.engines.1 e he he'
  · have h1 := h.thread u
    have h2 := h'.thread u
    generalize s.thread? u = a at h1
    generalize t.thread? u = b at h1 h2
    generalize w.thread? u = c at h2
    cases h1 with
    | none => cases h2; exact .none
    | some h1 => cases h2 with | some h2 => exact .some (hr _ _ _ _ h1 h2)

/-- No register and no byte changes. -/
abbrev Quiet (s t : State) : Prop := Accesses (fun _ => Thread.Past) s t

theorem rel_refl (o : Option Thread) : Option.Rel Thread.Past o o := by
  cases o with
  | none => exact .none
  | some th => exact .some (.refl th)

theorem Quiet.trans (h : Quiet s t) (h' : Quiet t w) : Quiet s w := Accesses.trans h h' fun _ _ _ _ => Thread.Past.trans

theorem Quiet.foldl {α : Type} {f : State → α → State} (hf : ∀ a x, Quiet a (f a x)) (l : List α) (s : State) :
    Quiet s (l.foldl f s) :=
  foldl_keeps (Quiet s) f l s ⟨rfl, ⟨fun _ _ _ => rfl, fun _ => rfl⟩, fun _ => rel_refl _⟩ fun a x h => h.trans (hf a x)

/-- What keeps threads and engines. -/
theorem Quiet.same (e : { t with
    stands := s.stands, ops := s.ops, nextId := s.nextId, cruises := s.cruises, unitTlbs := s.unitTlbs } = s := by rfl) :
    Quiet s t := by
  have ht : t.threads = s.threads := (congrArg State.threads e :)
  have he : t.engines = s.engines := (congrArg State.engines e :)
  have heng : ∀ x, t.engine x = s.engine x := fun x => (congrArg (fun y : State => y.engine x) e :)
  have hthr : ∀ u, t.thread? u = s.thread? u := fun u => (congrArg (fun y : State => y.thread? u) e :)
  refine ⟨?_, ⟨fun x _ _ => heng x, fun x => by rw [heng]⟩, fun u => by rw [hthr]; exact rel_refl _⟩
  exact ht ▸ he ▸ e

theorem Quiet.refl (s : State) : Quiet s s := .same

theorem Quiet.withOps {o : Table MemOp} (h : Quiet s t) : Quiet s { t with ops := o } := h.trans .same

theorem Quiet.ite {c : Prop} [Decidable c] {a b : State} (ha : Quiet s a) (hb : Quiet s b) : Quiet s (if c then a else b) :=
  ite_keeps (Quiet s) ha hb

theorem accesses_modThread {u : Nat} {f : Thread → Thread} (hf : ∀ th, P u th (f th))
    (hrefl : ∀ v th, v ≠ u → P v th th) :
    Accesses P s (s.modThread u f) := by
  refine ⟨rfl, ⟨fun _ _ _ => rfl, fun _ => rfl⟩, fun v => ?_⟩
  rw [thread?_modThread]
  by_cases hv : v = u
  · subst hv
    rw [if_pos rfl]
    cases s.thread? v with
    | none => exact .none
    | some th => exact .some (hf th)
  · rw [if_neg hv]
    cases s.thread? v with
    | none => exact .none
    | some th => exact .some (hrefl v th hv)

theorem Quiet.modThread {u : Nat} {f : Thread → Thread} (hf : ∀ th : Thread, th.Past (f th)) : Quiet s (s.modThread u f) :=
  accesses_modThread hf fun _ th _ => .refl th

theorem Quiet.counts (h : Counts s t (unitEngine s.focus)) : Quiet s t := by
  have hthr : ∀ u, t.thread? u = s.thread? u := fun u => (congrArg (fun y : State => y.thread? u) h.1 :)
  have ht : t.threads = s.threads := (congrArg State.threads h.1 :)
  refine ⟨?_, .of_counts h, fun u => by rw [hthr]; exact rel_refl _⟩
  have e := congrArg (fun x : State => { x with
      threads := s.threads, stands := s.stands, ops := s.ops, nextId := s.nextId, cruises := s.cruises
      unitTlbs := s.unitTlbs }) h.1
  exact (e :)

theorem quiet_countEvent (s : State) (src n : Nat) : Quiet s (s.countEvent s.focus src n) := .counts (countEvent_spec ..)

theorem quiet_countFlags (s : State) (f : W32) : Quiet s (s.countFlags f) := .counts (countFlags_spec ..)

theorem quiet_trace (s : State) (grp type w1 w2 w3 mask : Nat) : Quiet s (s.trace s.focus grp type w1 w2 w3 mask) := by
  refine ⟨rfl, ⟨fun e _ he => ?_, fun e => ?_⟩, fun u => rel_refl _⟩
  · exact (engine_modEngine ..).trans (if_neg he)
  · have h : ((s.trace s.focus grp type w1 w2 w3 mask).engine e) = _ := engine_modEngine ..
    rw [h]
    split
    · rename_i he; subst he; rfl
    · rfl

/-! ### The steps of an issue -/

theorem quiet_advance (s : State) (k : Ins) : Quiet s (s.advance k) := by
  unfold advance
  split
  · exact .refl s
  · refine .foldl (fun _ _ => ?_) _ s
    exact .modThread fun _ => rfl

theorem quiet_noteCruise (s : State) (i : Ins) (t : Nat) (ps : List Part) : Quiet s (s.noteCruise i t ps) := by
  unfold noteCruise
  split
  · exact .refl s
  · exact .ite .same (.refl s)

theorem quiet_rememberPage (s : State) (t : Nat) (ea : W64) : Quiet s (s.rememberPage t ea) := by
  unfold rememberPage
  split
  · exact .refl s
  · split
    · exact .modThread fun _ => rfl
    · exact .refl s

theorem quiet_takeStamp (s : State) (t : Nat) : Quiet s (s.takeStamp t).2 := .modThread fun _ => rfl

theorem quiet_newOp (s : State) (i : Ins) (t : Nat) (a : Acc) (kind : OpKind) (ps : List Part) :
    Quiet s (s.newOp i t a kind ps).2.2 := by
  have h : Quiet s ((s.noteCruise i t ps).rememberPage t a.ea) := (quiet_noteCruise ..).trans (quiet_rememberPage ..)
  unfold newOp
  dsimp only
  split
  · exact Quiet.trans (h.trans (quiet_takeStamp ..)) .same
  · exact h.trans .same

theorem quiet_draws (s : State) (t n : Nat) : Quiet s (s.draws t n).2 := by
  induction n generalizing s with
  | zero => exact .refl s
  | succ n _ =>
    cases h : s.thread? t with
    | none => simp only [draws, h]; exact .refl s
    | some th =>
      rw [draws_state s t n th h]
      exact .modThread fun _ => rfl

theorem quiet_rounding (s : State) (t sel n : Nat) : Quiet s (s.rounding t sel n).2.2 := by
  unfold rounding
  split
  · exact .refl s
  · dsimp only
    split
    · exact quiet_draws ..
    · exact .refl s

theorem quiet_bankDraw (s : State) (i : Ins) (t : Nat) (a : Acc) : Quiet s (s.bankDraw i t a).2.2 := by
  unfold bankDraw
  split
  · exact quiet_rounding ..
  · exact .refl s

theorem quiet_setFlags (s : State) (t : Nat) (f : W32) : Quiet s (s.setFlags t f) := .modThread fun _ => rfl

theorem quiet_copyPart (s : State) (stand id idx : Nat) (p : Part) : Quiet s (s.copyPart stand id idx p).1 := by
  unfold copyPart
  split
  · split
    · exact .same
    · exact .refl s
  · exact .refl s

theorem quiet_copyParts (s : State) (id : Nat) (o : MemOp) (idx : Nat) (ps : List Part) : Quiet s (s.copyParts id o idx ps).1 := by
  induction ps generalizing s idx with
  | nil => exact .refl s
  | cons p ps ih => exact (ite_keeps (fun a : State × Part => Quiet s a.1) (quiet_copyPart ..) (.refl s)).trans (ih _ _)

theorem quiet_tryCopy (s : State) (id : Nat) : Quiet s (s.tryCopy id) := by
  unfold tryCopy
  split
  · exact .refl s
  · exact .ite (.refl s) ((quiet_copyParts ..).trans .same)

theorem quiet_putStore (s : State) (i : Ins) (t : Nat) (a : Acc) (ps : List Part) (raw : Nat) :
    Quiet s (s.putStore i t a ps raw).1 := by
  unfold putStore
  exact .withOps ((quiet_bankDraw s i t a).trans (quiet_newOp (kind := .store) ..))

theorem quiet_issueStore {s : State} {i : Ins} {lead t : Nat} (h : ∀ th, s.thread? t = some th → th.taskOf = none) :
    Quiet s (issueStore i lead t s).1 := by
  have hnone : (s.thread? t).bind (·.taskOf) = none := by
    cases ht : s.thread? t with
    | none => rfl
    | some th => exact h th ht
  unfold issueStore
  simp only [hnone]
  exact (quiet_putStore ..).trans (quiet_tryCopy ..)

theorem quiet_traceMem (s : State) (i : Ins) (lead : Nat) (ts : List Nat) (pc : W64) : Quiet s (s.traceMem i lead ts pc) := by
  unfold traceMem
  split
  · exact quiet_trace ..
  · exact .refl s

theorem quiet_prefWalked (s : State) (t : Nat) (ea : W64) : Quiet s (s.prefWalked t ea) := by
  unfold prefWalked
  split
  · exact .refl s
  · split
    · refine .ite (.refl s) ?_
      split
      · exact .same
      · exact .same
    · exact .refl s

theorem quiet_issuePref (i : Ins) (s : State) (t : Nat) : Quiet s (issuePref i s t) := by
  unfold issuePref
  extract_lets ea s'
  refine (quiet_prefWalked s t ea).trans ?_
  split
  · exact .ite (.refl _) (.withOps (quiet_newOp (kind := .load) ..))
  · exact quiet_countEvent ..
  · exact .refl _

theorem quiet_pushQueue (s : State) (m q : Nat) (e : QEntry) : Quiet s (s.pushQueue m q e) := .modThread fun _ => rfl

theorem quiet_pushIdle (i : Ins) (s : State) (t : Nat) : Quiet s (pushIdle i s t) :=
  .foldl (fun s _ => .ite (Quiet.trans (t := s.fresh.2) .same (quiet_pushQueue ..)) (.refl s)) _ s

theorem quiet_popQueues (top : Nat → Nat → Nat) (k : Ins) (s : State) (t : Nat) : Quiet s (popQueues top k s t) :=
  .modThread fun _ => rfl

/-! ### The end of the issue -/

/-- What follows an effect, but for the end of the issue itself, is quiet. -/
theorem concluded_eq_retire (s : State) (k : Ins) (go : List Nat) (x : State) :
    ∃ z, Quiet x z ∧ concluded s k go x = z.retire k := by
  refine ⟨_, ?_, rfl⟩
  have hpush : Quiet x (if k.w.sl then (idle s go).foldl (pushIdle k) x else x) :=
    .ite (.foldl (fun _ _ => quiet_pushIdle ..) _ x) (.refl x)
  generalize (if k.w.sl then (idle s go).foldl (pushIdle k) x else x) = y at hpush ⊢
  have hpop : Quiet y ((go ++ idle s go).foldl (popQueues s.queueTop k) y) := .foldl (fun _ _ => quiet_popQueues ..) _ y
  exact hpush.trans (hpop.trans (hpop.focus ▸ quiet_countEvent ..))

/-- The engine of a run that goes on past an instruction or ends at it (R124, R131). -/
def retired (k : Ins) (r : Run) (e : Engine) : Engine :=
  if k.w.e then
    { e with run := none, yielded := if r.yield || k.w.y || k.op == .yield then e.yielded.add r.group else e.yielded }
  else
    { e with run := some { r with pc := r.pc + BitVec.ofNat 64 k.len, count := r.count + 1
                                  addFamily := k.op == .add || k.op == .sub || k.op == .addc || k.op == .subb
                                  yield := r.yield || k.w.y || k.op == .yield, lead := none } }

theorem retire_eq {k : Ins} {r : Run} (hrun : s.run? = some r) (hcount : r.count < 24) (hne : r.members ≠ []) :
    s.retire k = s.modEngine s.focus (retired k r) := by
  have hx : decide (24 ≤ r.count) = false := by simpa using hcount
  have hmem : r.members.isEmpty = false := by simpa using hne
  change _ = s.modEngine s.focus fun e => retired k r e
  simp only [retire, retireAs, hrun, hx, hmem, Bool.or_false, Bool.or_assoc, retired]

theorem Accesses.run? (h : Accesses P s t) : t.run? = s.run? := by
  unfold State.run?
  rw [h.focus]
  exact (congrArg Engine.run (h.engines.2 s.focus) :)

/-- A run advances when an issue of no effect on it retires. -/
theorem Accesses.runAdvances {k : Ins} {r : Run} (h : Accesses P s t) (hrun : s.run? = some r) (hcount : r.count < 24)
    (hne : r.members ≠ []) : RunAdvances s (t.retire k) k r := by
  have heng : ∀ e, (t.retire k).engine e = if e = s.focus then retired k r (t.engine s.focus) else t.engine e := by
    intro e
    rw [retire_eq (h.run?.trans hrun) hcount hne, engine_modEngine, h.focus]
  have hfocus : (t.retire k).focus = s.focus := by
    rw [retire_eq (h.run?.trans hrun) hcount hne]; exact h.focus
  have hown := h.engines.2 s.focus
  refine ⟨fun e he he' => ?_, fun e he => ?_, ?_, ?_, ?_⟩
  · rw [heng, if_neg he]; exact h.engines.1 e he he'
  · rw [heng, if_neg he]; exact h.engines.2 e
  · rw [heng, if_pos rfl]
    generalize t.engine s.focus = x at hown ⊢
    generalize s.engine s.focus = y at hown ⊢
    obtain ⟨⟩ := x; obtain ⟨⟩ := y
    simp [unlogged] at hown
    simp only [retired]
    split <;> simp [hown]
  · unfold State.run?
    rw [hfocus, heng, if_pos rfl, retired]
    split <;> rfl
  · have hyielded : (t.engine s.focus).yielded = (s.engine s.focus).yielded := (congrArg Engine.yielded hown :)
    rw [heng, if_pos rfl, ← hyielded, retired]
    cases k.w.e <;> simp

end State

/-! ### The destination of a load -/

namespace Thread

theorem readG_emptyG (th : Thread) (n m : Nat) :
    (th.emptyG n).readG m = if m = n ∧ n ≠ 0 then { val := (th.readG n).val, full := false } else th.readG m := by
  unfold emptyG
  by_cases hn : n = 0
  · simp [hn]
  · by_cases hm : m = n
    · subst hm; simp [hn, readG]
    · by_cases h0 : m = 0
      · simp [hn, h0, Ne.symm hn, readG]
      · simp [hn, hm, h0, readG]

theorem emptyGs_succ (th : Thread) (d n : Nat) : th.emptyGs d (n + 1) = (th.emptyGs d n).emptyG (d + n) := by
  simp [emptyGs, List.range_succ]

theorem emptyG_frame (th : Thread) (n : Nat) : { th.emptyG n with g := th.g } = th := by
  unfold emptyG; split <;> rfl

theorem emptyGs_frame (th : Thread) (d n : Nat) : { th.emptyGs d n with g := th.g } = th := by
  induction n with
  | zero => rfl
  | succ n ih =>
    rw [emptyGs_succ]
    have h := congrArg (fun x : Thread => { x with g := th.g }) (emptyG_frame (th.emptyGs d n) (d + n))
    exact (h :).trans ih

theorem emptyGs_sliced (th : Thread) (d n : Nat) : (th.emptyGs d n).sliced = th.sliced :=
  (congrArg Thread.sliced (emptyGs_frame th d n) :)

theorem readG_emptyGs (th : Thread) (d n m : Nat) :
    (th.emptyGs d n).readG m = if d ≤ m ∧ m < d + n ∧ m ≠ 0 then { val := (th.readG m).val, full := false }
      else th.readG m := by
  induction n with
  | zero =>
    rw [if_neg (by omega)]; rfl
  | succ n ih =>
    rw [emptyGs_succ, readG_emptyG]
    by_cases hm : m = d + n
    · subst hm
      by_cases h0 : d + n = 0
      · simp [h0, readG]
      · rw [if_pos ⟨rfl, h0⟩, if_pos (by omega), ih, if_neg (by omega)]
    · rw [if_neg (by tauto), ih]
      by_cases hin : d ≤ m ∧ m < d + n ∧ m ≠ 0
      · rw [if_pos hin, if_pos ⟨hin.1, by omega, hin.2.2⟩]
      · rw [if_neg hin, if_neg (by omega)]

/-- A thread before and after a load of the threads `go`, `queue` where D names an operand queue: only D's registers may differ of
its registers, and they hold their values still. -/
structure Loads (k : Ins) (queue : Bool) (go : List Nat) (u : Nat) (th th' : Thread) : Prop where
  past : th.Past { th' with g := th.g, awaited := th.awaited }
  vals : ∀ m, (th'.readG m).val = (th.readG m).val
  awaited : th'.awaited = if u ∈ go then [] else th.awaited
  kept : u ∉ go ∨ queue = true → th'.g = th.g
  emptied : u ∈ go → queue = false → (∀ j < k.memRegs, k.d + j ≠ 0 → (th'.readG (k.d + j)).full = false) ∧
    ∀ m, m < k.d ∨ k.d + k.memRegs ≤ m → th'.readG m = th.readG m

variable {k : Ins} {queue : Bool} {u : Nat} {l l' : List Nat} {a b c : Thread}

theorem Past.g (h : a.Past b) : b.g = a.g := (congrArg Thread.g h :)

theorem Past.awaited (h : a.Past b) : b.awaited = a.awaited := (congrArg Thread.awaited h :)

theorem readG_congr (h : b.g = a.g) (m : Nat) : b.readG m = a.readG m := by unfold readG; rw [h]

theorem Past.loads (h : a.Past b) : Loads k queue [] u a b where
  past := by
    have e : ({ b with g := a.g, awaited := a.awaited } : Thread) = b := by rw [← h.g, ← h.awaited]
    rw [e]; exact h
  vals m := by rw [readG_congr h.g]
  awaited := by simp [h.awaited]
  kept _ := h.g
  emptied hu := by simp at hu

theorem Loads.append (h : Loads k queue l u a b) (h' : Loads k queue l' u b c) (hd : u ∈ l → u ∉ l') :
    Loads k queue (l ++ l') u a c where
  past := by
    have e := congrArg (fun x : Thread => a.restored { x with g := a.g, awaited := a.awaited }) h'.past
    exact (e :).trans h.past
  vals m := (h'.vals m).trans (h.vals m)
  awaited := by
    rw [h'.awaited, h.awaited]
    by_cases h1 : u ∈ l <;> by_cases h2 : u ∈ l' <;> simp [h1, h2]
  kept hk := by
    have hk' : (u ∉ l ∨ queue = true) ∧ (u ∉ l' ∨ queue = true) := by
      rcases hk with hk | hk
      · simp only [List.mem_append, not_or] at hk; exact ⟨.inl hk.1, .inl hk.2⟩
      · exact ⟨.inr hk, .inr hk⟩
    exact (h'.kept hk'.2).trans (h.kept hk'.1)
  emptied hu hq := by
    rcases List.mem_append.1 hu with h1 | h1
    · have e := readG_congr (h'.kept (.inl (hd h1)))
      simpa only [e] using h.emptied h1 hq
    · have h2 : u ∉ l := fun hl => hd hl h1
      have e := readG_congr (h.kept (.inl h2))
      simpa only [e] using h'.emptied h1 hq

/-- A load's registers marked empty. -/
theorem loads_emptyGs (th : Thread) : Loads k false [u] u th ({ th with awaited := [] }.emptyGs k.d k.memRegs) where
  past := by
    have h := congrArg (fun x : Thread => th.restored { x with awaited := th.awaited })
      (emptyGs_frame { th with awaited := [] } k.d k.memRegs)
    exact (h :)
  vals m := by
    rw [readG_emptyGs]; split <;> rfl
  awaited := by
    simpa using (congrArg Thread.awaited (emptyGs_frame { th with awaited := [] } k.d k.memRegs) :)
  kept h := by simp at h
  emptied _ _ := by
    refine ⟨fun j hj h0 => ?_, fun m hm => ?_⟩
    · rw [readG_emptyGs, if_pos (by omega)]
    · rw [readG_emptyGs, if_neg (by omega)]; rfl

theorem loads_queue (th : Thread) : Loads k true [u] u th { th with awaited := [] } where
  past := rfl
  vals _ := rfl
  awaited := by simp
  kept _ := rfl
  emptied _ h := by simp at h

theorem Loads.sliced (h : Loads k queue l u a b) : b.sliced = a.sliced := (congrArg Thread.sliced h.past :)

theorem Loads.home (h : Loads k queue l u a b) : b.home = a.home := (congrArg Thread.home h.past :)

end Thread

namespace State

variable {s t w : State} {k : Ins} {queue : Bool} {l l' : List Nat} {u : Nat}

/-- A state before and after the issue of loads or of other accesses. -/
abbrev Loading (k : Ins) (queue : Bool) (go : List Nat) (s t : State) : Prop := Accesses (Thread.Loads k queue go) s t

theorem Quiet.loading (h : Quiet s t) : Loading k queue [] s t :=
  Accesses.trans (Quiet.refl s) h fun _ _ _ _ h1 h2 => (Thread.Past.trans h1 h2).loads

theorem Loading.append (h : Loading k queue l s t) (h' : Loading k queue l' t w) (hd : ∀ u ∈ l, u ∉ l') :
    Loading k queue (l ++ l') s w := Accesses.trans h h' fun u _ _ _ h1 h2 => h1.append h2 (hd u)

theorem Loading.quiet (h : Loading k queue l s t) (h' : Quiet t w) : Loading k queue l s w := by
  simpa using h.append h'.loading (l' := []) (by simp)

theorem Quiet.thenLoading (h : Quiet s t) (h' : Loading k queue l t w) : Loading k queue l s w :=
  Loading.append (l := []) h.loading h' (by simp)

theorem isQueue_congr {f : RFile} {n : Nat} (h : Option.Rel (fun a b : Thread => b.sliced = a.sliced) (s.thread? u) (t.thread? u)) :
    t.isQueue u k f n = s.isQueue u k f n := by
  unfold isQueue
  generalize s.thread? u = a at h
  generalize t.thread? u = b at h
  cases h with
  | none => rfl
  | some h => simp only [h]

theorem Quiet.isQueue (h : Quiet s t) (f : RFile) (n : Nat) : t.isQueue u k f n = s.isQueue u k f n := by
  refine isQueue_congr ?_
  have h1 := h.thread u
  generalize s.thread? u = a at h1
  generalize t.thread? u = b at h1
  cases h1 with
  | none => exact .none
  | some h1 => exact .some (congrArg Thread.sliced h1 :)

theorem Loading.isQueue (h : Loading k queue l s t) (f : RFile) (n : Nat) : t.isQueue u k f n = s.isQueue u k f n := by
  refine isQueue_congr ?_
  have h1 := h.thread u
  generalize s.thread? u = a at h1
  generalize t.thread? u = b at h1
  cases h1 with
  | none => exact .none
  | some h1 => exact .some h1.sliced

theorem memRegs_pos (k : Ins) : 0 < k.memRegs := by
  unfold Ins.memRegs fmtRegs intRegs
  split
  · split <;> decide
  · split <;> decide

/-- A field that a literal or a constant replaces writes no more than it did. -/
theorem writes_use {wave : Bool} (ha : (k.fields wave).a.writes = none) (hb : (k.fields wave).b.writes = none)
    (hc : (k.fields wave).c.writes = none) (hx : (k.fields wave).x.writes = none) (f : Fld) (hf : f ≠ .d) :
    (f.use k wave).writes = none := by
  have hunused : Use.unused.writes = none := rfl
  have hr : ((k.fields wave).replaced k).1.writes = none ∧ ((k.fields wave).replaced k).2.writes = none := by
    unfold Fields.replaced
    split
    · exact ⟨rfl, hc⟩
    · exact ⟨rfl, hc⟩
    · exact ⟨by split <;> assumption, rfl⟩
    · exact ⟨by split <;> assumption, hc⟩
  cases f with
  | d => exact absurd rfl hf
  | a => exact ha
  | b => exact hr.1
  | c => exact hr.2
  | x =>
    show (if k.w.kb then Use.unused else (k.fields wave).x).writes = none
    split <;> assumption

/-- The registers a field gives. -/
def destRegs (f : Fld) (u : Use) : List (Fld × RFile × Nat) :=
  match u.writes with
  | some (file, idx, n) => (List.range n).map fun j => (f, file, idx + j)
  | none => []

theorem destsOf_eq (k : Ins) (wave : Bool) : destsOf k wave = Fld.order.flatMap fun f => destRegs f (f.use k wave) := by
  unfold destsOf
  refine congrArg (fun g => Fld.order.flatMap g) (funext fun f => ?_)
  cases f.use k wave <;> rfl

/-- The registers an instruction gives whose D alone is a destination. -/
theorem destsOf_d {wave : Bool} {n al : Nat} (hd : (k.fields wave).d = .dst .g k.d n al ∨ (k.fields wave).d = .srcDst .g k.d n al)
    (ho : ∀ f : Fld, f ≠ .d → (f.use k wave).writes = none) :
    destsOf k wave = (List.range n).map fun j => (Fld.d, RFile.g, k.d + j) := by
  have hnone : ∀ f : Fld, f ≠ .d → destRegs f (f.use k wave) = [] := fun f hf => by simp [destRegs, ho f hf]
  have hdest : destRegs .d (Fld.d.use k wave) = (List.range n).map fun j => (Fld.d, RFile.g, k.d + j) := by
    rcases hd with hd | hd <;> simp [Fld.use, hd, destRegs, Use.writes]
  simp [destsOf_eq, Fld.order, hnone, hdest]

/-- The registers a load or an atomic gives. -/
theorem destsOf_load (hop : k.op ∈ [Op.ld, .ldg, .atom]) (hty : k.op = .atom → k.typed = false) (wave : Bool) :
    destsOf k wave = (List.range k.memRegs).map fun j => (Fld.d, RFile.g, k.d + j) := by
  simp only [List.mem_cons, List.not_mem_nil, or_false] at hop
  rcases hop with h | h | h
  · refine destsOf_d (al := k.memRegs) (.inl ?_) (writes_use ?_ ?_ ?_ ?_)
    all_goals simp [Ins.fields, h, Ins.fMem, Use.dg, Use.sg, Use.writes]
  · refine destsOf_d (al := k.memRegs) (.inl ?_) (writes_use ?_ ?_ ?_ ?_)
    all_goals simp [Ins.fields, h, Ins.fMem, Use.dg, Use.sg, Use.writes]
  · have hn : k.memRegs = intRegs k.ty := by simp [Ins.memRegs, hty h]
    rw [hn]
    refine destsOf_d (al := intRegs k.ty) ?_ (writes_use ?_ ?_ ?_ ?_)
    · by_cases h7 : k.atomOp = 7
      · exact .inr (by simp [Ins.fields, h, h7])
      · exact .inl (by simp [Ins.fields, h, h7, Use.dg])
    all_goals simp [Ins.fields, h, Use.sg, Use.writes]

/-- Reserving entries of queues. -/
theorem quiet_reserveQueue (id : Nat) (ns : List Nat) (hq : ∀ n ∈ ns, s.isQueue u k .g n = true) :
    Quiet s (ns.foldl (fun s n =>
      if s.isQueue u k .g n then s.pushQueue (s.mainOf u) (n - 60) { filled := false, op := id }
      else s.modThread u fun th => th.emptyG n) s) := by
  induction ns generalizing s with
  | nil => exact .refl s
  | cons n ns ih =>
    rw [List.foldl_cons, if_pos (hq n (by simp))]
    have h := quiet_pushQueue s (s.mainOf u) (n - 60) { filled := false, op := id }
    exact h.trans (ih fun m hm => (h.isQueue .g m).trans (hq m (by simp [hm])))

/-- Marking registers empty that name no queue. -/
theorem reserveRegs_eq (id d n : Nat) (hq : ∀ j < n + 1, s.isQueue u k .g (d + j) = false) :
    (List.range (n + 1)).foldl (fun s j =>
      if s.isQueue u k .g (d + j) then s.pushQueue (s.mainOf u) (d + j - 60) { filled := false, op := id }
      else s.modThread u fun th => th.emptyG (d + j)) s = s.modThread u fun th => th.emptyGs d (n + 1) := by
  induction n with
  | zero =>
    have h0 := hq 0 (by omega)
    simp only [Nat.add_zero] at h0
    simp [h0, Thread.emptyGs, List.range_succ]
  | succ n ih =>
    rw [List.range_succ, List.foldl_append, ih fun j hj => hq j (by omega), List.foldl_cons, List.foldl_nil,
      isQueue_modThread _ _ _ _ _ _ fun th => th.emptyGs_sliced d (n + 1), hq (n + 1) (by omega),
      if_neg (by simp), modThread_modThread]
    simp only [Thread.emptyGs_succ]

/-- D of a load or an atomic is reserved, whole in a queue or whole in registers. -/
theorem loading_reserveD (hop : k.op ∈ [Op.ld, .ldg, .atom]) (hty : k.op = .atom → k.typed = false)
    (hq : ∀ j < k.memRegs, s.isQueue u k .g (k.d + j) = queue) (id : Nat) : Loading k queue [u] s (s.reserveD u id k) := by
  have hother : ∀ v (th : Thread), v ≠ u → Thread.Loads k queue [u] v th th := fun v th hv =>
    { past := rfl, vals := fun _ => rfl, awaited := by simp [hv], kept := fun _ => rfl, emptied := fun h => by simp [hv] at h }
  unfold reserveD
  dsimp only
  rw [destsOf_load hop hty, List.foldl_map]
  have hawait : ∀ n, (s.modThread u fun th => { th with awaited := [] }).isQueue u k .g n = s.isQueue u k .g n := fun n =>
    isQueue_modThread _ _ _ _ _ _ fun _ => rfl
  cases queue with
  | true =>
    have h : Loading k true [u] s (s.modThread u fun th => { th with awaited := [] }) :=
      accesses_modThread Thread.loads_queue hother
    have h' := quiet_reserveQueue (s := s.modThread u fun th => { th with awaited := [] }) (u := u) (k := k) id
      ((List.range k.memRegs).map fun j => k.d + j) (by simpa [hawait] using hq)
    rw [List.foldl_map] at h'
    exact h.quiet h'
  | false =>
    obtain ⟨n, hn⟩ : ∃ n, k.memRegs = n + 1 := ⟨k.memRegs - 1, by have := memRegs_pos k; omega⟩
    rw [hn, reserveRegs_eq id k.d n (by simpa [hawait, hn] using hq), modThread_modThread, ← hn]
    exact accesses_modThread Thread.loads_emptyGs hother

theorem memRegs_cases (k : Ins) : k.memRegs = 1 ∨ k.memRegs = 2 ∨ k.memRegs = 4 := by
  unfold Ins.memRegs fmtRegs intRegs
  split
  · split <;> simp
  · split <;> simp

variable {sem : Sem} {r : Run} {lead : Nat} {go : List Nat}

theorem mem_of_reached (hr : Reached sem k s r lead go) (hop : k.op ∈ [Op.ld, .ldg, .st, .sts, .pref, .atom, .fence]) :
    k.memOk = true := by
  have hw := wellFormed_of_reached hr
  have h2 : k.extraOk = true := by
    simp only [Ins.wellFormed, Bool.and_eq_true] at hw; exact hw.2
  simp only [List.mem_cons, List.not_mem_nil, or_false] at hop
  rcases hop with h | h | h | h | h | h | h <;> simpa [Ins.extraOk, h] using h2

theorem untyped_of_reached (hr : Reached sem k s r lead go) (hop : k.op = .atom) : k.typed = false := by
  have h := mem_of_reached hr (by simp [hop])
  simp only [Ins.memOk, Bool.and_eq_true] at h
  have h1 := h.1.2
  simpa [hop] using h1

/-- D of a load or an atomic is aligned to its registers (R130). -/
theorem aligned_of_reached (hr : Reached sem k s r lead go) (hop : k.op ∈ [Op.ld, .ldg, .atom]) : k.d % k.memRegs = 0 := by
  have hw := wellFormed_of_reached hr
  have h2 : k.operandsOk = true := by
    simp only [Ins.wellFormed, Bool.and_eq_true] at hw; simp [hw]
  have h3 : (k.fields false).d.fieldOk k.d = true := by
    simp only [Ins.operandsOk, Bool.and_eq_true] at h2; exact h2.1.1.1.1
  simp only [List.mem_cons, List.not_mem_nil, or_false] at hop
  rcases hop with h | h | h
  · simpa [Ins.fields, h, Ins.fMem, Use.dg, Use.fieldOk] using h3
  · simpa [Ins.fields, h, Ins.fMem, Use.dg, Use.fieldOk] using h3
  · have hn : k.memRegs = intRegs k.ty := by simp [Ins.memRegs, untyped_of_reached hr h]
    rw [hn]
    by_cases h7 : k.atomOp = 7
    · simpa [Ins.fields, h, h7, Use.fieldOk] using h3
    · simpa [Ins.fields, h, h7, Use.dg, Use.fieldOk] using h3

/-- Whether D of an instruction names an operand queue (R127). -/
def destQueue (k : Ins) : Bool := k.w.sl && decide (60 ≤ k.d) && decide (k.d < 64)

/-- D of a load or an atomic lies whole in the queue registers of an access slice, or outside them. -/
theorem isQueue_dest (hr : Reached sem k s r lead go) (hop : k.op ∈ [Op.ld, .ldg, .atom]) (hu : u ∈ go) (j : Nat)
    (hj : j < k.memRegs) : s.isQueue u k .g (k.d + j) = destQueue k := by
  have hp := placed_of_reached hr hu
  simp only [placed, Bool.and_eq_true] at hp
  obtain ⟨⟨⟨-, -⟩, hsliced⟩, hpush⟩ := hp
  cases hsl : k.w.sl with
  | false =>
    rw [destsOf_load hop (untyped_of_reached hr)] at hpush
    simp [hsl] at hpush
    simp [destQueue, hsl, hpush j hj]
  | true =>
    have hwu : k.w.wu = false := wu_of_reached hr (by
      simp only [List.mem_cons, List.not_mem_nil, or_false] at hop
      rcases hop with h | h | h <;> rw [h] <;> decide)
    have halign := aligned_of_reached hr hop
    have hn := memRegs_cases k
    have hiff : (60 ≤ k.d + j ∧ k.d + j < 64) ↔ (60 ≤ k.d ∧ k.d < 64) := by
      rcases hn with hn | hn | hn <;> rw [hn] at halign hj <;> omega
    unfold isQueue
    cases hth : s.thread? u with
    | none => simp [hsl, hth] at hsliced
    | some th =>
      have hs : th.sliced = true := by simpa [hsl, hth] using hsliced
      simp [hs, hwu, destQueue, hsl, ← Bool.decide_and, hiff]

/-! ### The effect of a memory instruction -/

/-- LD and LDG at issue for one thread. -/
theorem loading_issueLoad (hop : k.op ∈ [Op.ld, .ldg]) (hq : ∀ j < k.memRegs, s.isQueue u k .g (k.d + j) = queue) :
    Loading k queue [u] s (issueLoad k lead s u) := by
  have hop' : k.op ∈ [Op.ld, .ldg, .atom] := by
    simp only [List.mem_cons, List.not_mem_nil, or_false] at hop ⊢
    tauto
  have hty : k.op = .atom → k.typed = false := fun h => by simp [h] at hop
  unfold issueLoad
  extract_lets a ps
  have h : Quiet s ((s.bankDraw k u a).2.2.newOp k u a .load ps).2.2 := (quiet_bankDraw ..).trans (quiet_newOp ..)
  exact (h.thenLoading (loading_reserveD hop' hty (fun j hj => (h.isQueue ..).trans (hq j hj)) _)).quiet .same

/-- ATOM at issue for one thread. -/
theorem loading_issueAtom (hop : k.op = .atom) (hty : k.typed = false)
    (hq : ∀ j < k.memRegs, s.isQueue u k .g (k.d + j) = queue) : Loading k queue [u] s (issueAtom k lead s u) := by
  unfold issueAtom
  extract_lets a n c d
  have h : Quiet s (s.newOp k u a .atomic (s.issueParts k u (s.locateAcc k u a))).2.2 := quiet_newOp ..
  exact (h.thenLoading (loading_reserveD (by simp [hop]) (fun _ => hty) (fun j hj => (h.isQueue ..).trans (hq j hj)) _)).quiet .same

/-- What loads each of its threads loads all of them. -/
theorem loading_foldl {f : State → Nat → State} (hgo : go.Nodup)
    (hf : ∀ u ∈ go, ∀ t : State, (∀ j < k.memRegs, t.isQueue u k .g (k.d + j) = queue) → Loading k queue [u] t (f t u))
    (hq : ∀ u ∈ go, ∀ j < k.memRegs, s.isQueue u k .g (k.d + j) = queue) : Loading k queue go s (go.foldl f s) := by
  induction go generalizing s with
  | nil => exact (Quiet.refl s).loading
  | cons u us ih =>
    obtain ⟨hu, hus⟩ := List.nodup_cons.1 hgo
    have h1 := hf u (by simp) s (hq u (by simp))
    have h2 := ih (s := f s u) hus (fun v hv => hf v (by simp [hv])) fun v hv j hj =>
      (h1.isQueue ..).trans (hq v (by simp [hv]) j hj)
    exact h1.append h2 (by simpa using hu)

/-- Whether an operation gives D a value from memory. -/
def loadOps : List Op := [.ld, .ldg, .atom]

/-- Quiet effects on single threads, their flags and the counting of these. -/
theorem quiet_perFlags {f : Nat → State → State × FFlags} (hf : ∀ u ∈ go, ∀ t, Quiet s t → Quiet t (f u t).1) :
    Quiet s (perFlags f go s) := by
  have h : Quiet s (go.foldl (fun (p : State × W32) u =>
      ((f u p.1).1.setFlags u (f u p.1).2.toW32, p.2 ||| (f u p.1).2.toW32)) (s, 0)).1 :=
    List.foldlRecOn go _ (motive := fun p : State × W32 => Quiet s p.1) (Quiet.refl s) fun p hp u hu =>
      hp.trans ((hf u hu p.1 hp).trans (quiet_setFlags ..))
  exact h.trans (quiet_countFlags ..)

theorem Quiet.taskOf (h : Quiet s t) (hs : ∀ th, s.thread? u = some th → th.taskOf = none) :
    ∀ th, t.thread? u = some th → th.taskOf = none := by
  have h1 := h.thread u
  generalize s.thread? u = a at h1 hs
  generalize t.thread? u = b at h1
  cases h1 with
  | none => rintro _ ⟨⟩
  | @some a b h1 =>
    rintro _ ⟨⟩
    have hrole : b.role = a.role := (congrArg Thread.role h1 :)
    simpa only [Thread.taskOf, hrole] using hs a rfl

section
variable (hr : Reached (semOf k.op) k s r lead go) (ht : Quiet s t)
include ht

include hr in
theorem isQueue_quiet (hop : k.op ∈ [Op.ld, .ldg, .atom]) :
    ∀ u ∈ go, ∀ j < k.memRegs, t.isQueue u k .g (k.d + j) = destQueue k :=
  fun _ hu j hj => (ht.isQueue ..).trans (isQueue_dest hr hop hu j hj)

include hr in
theorem loading_loads (hop : k.op = .ld ∨ k.op = .ldg) : Loading k (destQueue k) go s (memAct issueLoad k lead go t) := by
  have htrace := ht.trans (quiet_traceMem t k lead go ((t.run?.map (·.pc)).getD 0))
  have hq := isQueue_quiet hr htrace (by simp only [List.mem_cons]; tauto)
  exact htrace.thenLoading (loading_foldl (nodup_of_reached hr) (fun u _ t hqt => loading_issueLoad (by simpa using hop) hqt) hq)

include hr in
theorem loading_atoms (hop : k.op = .atom) : Loading k (destQueue k) go s (memAct issueAtom k lead go t) := by
  have htrace := ht.trans (quiet_traceMem t k lead go ((t.run?.map (·.pc)).getD 0))
  have hq := isQueue_quiet hr htrace (by simp [hop])
  exact htrace.thenLoading (loading_foldl (nodup_of_reached hr)
    (fun u _ t hqt => loading_issueAtom hop (untyped_of_reached hr hop) hqt) hq)

theorem quiet_stores (htask : ∀ u ∈ go, ∀ th, s.thread? u = some th → th.taskOf = none) :
    Quiet s (storeSem.act k lead go t) := by
  have htrace := ht.trans (quiet_traceMem t k lead go ((t.run?.map (·.pc)).getD 0))
  dsimp only [storeSem]
  refine htrace.trans (quiet_perFlags (f := issueStore k lead) fun u hu t' ht' => ?_)
  exact quiet_issueStore ((htrace.trans ht').taskOf (htask u hu))

theorem quiet_prefs : Quiet s (prefSem.act k lead go t) := ht.trans (.foldl (fun _ _ => quiet_issuePref ..) go t)

theorem quiet_fences : Quiet s (fenceSem.act k lead go t) :=
  ht.trans (.ite (.foldl (fun _ _ => quiet_takeStamp ..) go t) (.refl t))

end

/-- The effect of a memory instruction on the state in which its threads have moved on. -/
theorem loading_act (hr : Reached (semOf k.op) k s r lead go) (hop : k.op ∈ [Op.ld, .ldg, .st, .sts, .atom, .pref, .fence])
    (htask : k.op = .st ∨ k.op = .sts → ∀ u ∈ go, ∀ th, s.thread? u = some th → th.taskOf = none) :
    Loading k (destQueue k) (if k.op ∈ [Op.ld, .ldg, .atom] then go else []) s ((semOf k.op).act k lead go (s.advance k)) := by
  have hadv := quiet_advance s k
  simp only [List.mem_cons, List.not_mem_nil, or_false] at hop
  rcases hop with h | h | h | h | h | h | h
  · rw [show semOf k.op = loadSem by rw [h]; rfl, if_pos (by simp [h])]
    exact loading_loads hr hadv (.inl h)
  · rw [show semOf k.op = loadSem by rw [h]; rfl, if_pos (by simp [h])]
    exact loading_loads hr hadv (.inr h)
  · rw [show semOf k.op = storeSem by rw [h]; rfl, if_neg (by simp [h])]
    exact (quiet_stores hadv (htask (.inl h))).loading
  · rw [show semOf k.op = storeSem by rw [h]; rfl, if_neg (by simp [h])]
    exact (quiet_stores hadv (htask (.inr h))).loading
  · rw [show semOf k.op = atomSem by rw [h]; rfl, if_pos (by simp [h])]
    exact loading_atoms hr hadv h
  · rw [show semOf k.op = prefSem by rw [h]; rfl, if_neg (by simp [h])]
    exact (quiet_prefs hadv).loading
  · rw [show semOf k.op = fenceSem by rw [h]; rfl, if_neg (by simp [h])]
    exact (quiet_fences hadv).loading

theorem Accesses.retire {P : Nat → Thread → Thread → Prop} (h : Accesses P s t) (hrun : s.run? = some r)
    (hcount : r.count < 24) (hne : r.members ≠ []) :
    { t.retire k with threads := s.threads, engines := s.engines, stands := s.stands, ops := s.ops, nextId := s.nextId
                      cruises := s.cruises, unitTlbs := s.unitTlbs } = s ∧
    RunAdvances s (t.retire k) k r ∧ ∀ u, Option.Rel (P u) (s.thread? u) ((t.retire k).thread? u) := by
  refine ⟨?_, h.runAdvances hrun hcount hne, fun u => ?_⟩
  · rw [retire_eq (h.run?.trans hrun) hcount hne]; exact h.rest
  · rw [retire_eq (h.run?.trans hrun) hcount hne]; exact h.thread u

end State

theorem members_of_reached (hr : Reached sem k s r lead go) : r.members ≠ [] :=
  List.ne_nil_of_mem (State.mem_activeSet.1 (hr.2.2.1 ▸ lead_mem hr)).1

end Sys2Proof.Machine
end

section
namespace Sys2Proof.Proofs
open Sys2Proof Sys2Proof.Machine Sys2Proof.Safety

/-- Settles O19: each effect of a memory instruction is quiet but for the reservation of D, and so is what follows it. -/
theorem memoryFrame : Obligations.MemoryFrame := by
  unfold Obligations.MemoryFrame
  intro i k s r lead go hi hop htask h
  have hr := h.1
  obtain ⟨z, hz, hend⟩ := State.concluded_eq_retire s k go ((semOf k.op).act k lead go (s.advance k))
  have hload := (State.loading_act hr hop htask).quiet hz
  obtain ⟨hrest, hrun, hthread⟩ := hload.retire (k := k) hr.1 (count_of_reached hr) (members_of_reached hr)
  refine ⟨_, exec_clear hi h, ?_⟩
  rw [State.perform_eq_concluded, hend]
  refine ⟨(congrArg State.mem hrest :), hrest, hrun, fun u th hth => ?_⟩
  have hu := hthread u
  rw [hth] at hu
  generalize (z.retire k).thread? u = o at hu
  cases hu with | @some _ th' hu
  refine ⟨th', rfl, hu.past, ?_, ?_, ?_⟩
  · rw [hu.awaited]
    by_cases hl : k.op ∈ [Op.ld, .ldg, .atom] <;> simp [hl]
  · intro hk
    refine hu.kept ?_
    rcases hk with hk | hk | hk
    · exact .inl (by split <;> simp [hk])
    · exact .inl (by rw [if_neg hk]; simp)
    · exact .inr hk
  · intro hgo hl hq
    exact hu.emptied (by rw [if_pos hl]; exact hgo) hq

end Sys2Proof.Proofs
end

section
/-!
SUPPORT. Who writes device, host and remote memory: a task that goes may leave a cleared private area behind, and what else a
performed write brings about touches none of the three.
-/

namespace Sys2Proof.Machine
open Sys2Proof.Safety

namespace State

variable {s : State}

/-- The memories that no core has for its own: device, host and remote memory. -/
def shared (s : State) : Memory × Memory × Memory := (s.mem.dram, s.mem.host, s.mem.remote)

theorem shared_foldl {α : Type} {f : State → α → State} (hf : ∀ a x, (f a x).shared = a.shared) (l : List α) (s : State) :
    (l.foldl f s).shared = s.shared :=
  foldl_keeps (fun a : State => a.shared = s.shared) f l s rfl fun a x h => (hf a x).trans h

theorem shared_ite {c : Prop} [Decidable c] {a b : State} (ha : a.shared = s.shared) (hb : b.shared = s.shared) :
    (if c then a else b).shared = s.shared := ite_keeps (fun x : State => x.shared = s.shared) ha hb

theorem shared_countEvent (s : State) (unit src n : Nat) : (s.countEvent unit src n).shared = s.shared := by
  refine shared_ite rfl (shared_foldl (fun _ _ => ?_) _ s)
  exact shared_ite rfl rfl

theorem shared_setStatus (s : State) (t : Nat) (st : Status) : (s.setStatus t st).shared = s.shared := by
  unfold setStatus syncWatch
  split
  · rfl
  · dsimp only
    split <;> rfl

theorem shared_leaveRun (s : State) (t : Nat) : (s.leaveRun t).shared = s.shared := by
  unfold leaveRun
  split
  · rfl
  · split <;> rfl

theorem shared_releaseSlot (s : State) (e i : Nat) : (s.releaseSlot e i).shared = s.shared :=
  shared_ite rfl (shared_ite (shared_foldl (fun _ _ => shared_setStatus ..) _ s) rfl)

theorem shared_dropSlice (s : State) (t : Nat) : (s.dropSlice t).shared = s.shared := by
  refine shared_foldl (fun a u => ?_) _ s
  exact shared_leaveRun a u

theorem shared_withdraw (s : State) (t : Nat) : (s.withdraw t).shared = s.shared := by
  unfold withdraw
  split <;> rfl

theorem shared_removeThread (s : State) (t : Nat) (keepArea : Bool) : (s.removeThread t keepArea).shared = s.shared := by
  unfold removeThread
  split
  · rfl
  · extract_lets x _ ops y
    have hy : y.shared = s.shared :=
      (shared_withdraw x t).trans ((shared_dropSlice (s.leaveRun t) t).trans (shared_leaveRun s t))
    split
    · exact shared_ite hy hy
    · exact (shared_releaseSlot ..).trans hy
    · exact hy

theorem shared_endAttempt (s : State) (k : Nat) (x : Task) (phase : TaskPhase) : (s.endAttempt k x phase).shared = s.shared := by
  unfold endAttempt
  split
  · exact shared_removeThread s _ _
  · rfl

theorem shared_resetTask (s : State) (k : Nat) (phase : TaskPhase) (now : Bool) :
    (s.resetTask k phase now).shared = s.shared := by
  unfold resetTask
  split
  · rfl
  · exact shared_ite rfl (shared_endAttempt ..)

theorem shared_discardTask (s : State) (k : Nat) (now : Bool) : (s.discardTask k now).shared = s.shared := by
  unfold discardTask
  split
  · rfl
  · refine shared_ite rfl ?_
    split
    · exact shared_removeThread s _ _
    · rfl

theorem shared_discardChild (s : State) (k : Nat) (now : Bool) : (s.discardChild k now).shared = s.shared := by
  unfold discardChild
  split
  · rfl
  · exact (shared_discardTask ..).trans (shared_ite rfl (shared_countEvent ..))

theorem shared_abortTask (s : State) (k : Nat) (phase : TaskPhase) (src : Nat) (own all : Bool) :
    (s.abortTask k phase src own all).shared = s.shared := by
  unfold abortTask
  split
  · rfl
  · refine shared_ite rfl ((shared_foldl (fun a _ => ?_) _ _).trans
      ((shared_foldl (fun _ _ => shared_discardChild ..) _ _).trans (shared_countEvent ..)))
    exact shared_ite rfl (shared_ite (shared_resetTask ..) ((shared_resetTask ..).trans (shared_countEvent a _ _ _)))

theorem shared_conflict (s : State) (ks : List Nat) (e : Nat × Task) : (s.conflict ks e).shared = s.shared :=
  shared_ite rfl ((shared_abortTask ..).trans (shared_ite rfl (shared_countEvent ..)))

theorem shared_noteWrite (s : State) (pa n : Nat) (mine : Option Nat) : (s.noteWrite pa n mine).shared = s.shared :=
  shared_foldl (fun _ _ => shared_conflict ..) _ { s with cruises := _ }

/-- Of the shared memories a write leaves what storing its bytes leaves. -/
theorem shared_writePlace (s : State) (p : Place) (key : Nat) (bs : List Byte) (flags : List Bool) (nib : Option Nat) :
    (s.writePlace p key bs flags nib).shared = (s.storePlace p key bs flags nib).shared :=
  shared_ite (shared_noteWrite ..) rfl

theorem spaceMem_of_shared {s t : State} (h : t.shared = s.shared) {m : Nat} (hm : m ≠ 1) :
    spaceMem t.mem m = spaceMem s.mem m := by
  simp only [shared, Prod.mk.injEq] at h
  obtain ⟨hd, hh, hr⟩ := h
  match m, hm with
  | 0, _ => exact hd
  | 2, _ => exact hh
  | _ + 3, _ => exact hr

/-! ### Storing bytes at a place -/

/-- Stored bytes stand in their own memory; the other shared ones are as before. -/
theorem spaceMem_storePlace (s : State) (x : Part) (key : Nat) (bs : List Byte) (flags : List Bool) (nib : Option Nat)
    (hc : x.span.1 < 4) (h1 : x.span.1 ≠ 1) :
    spaceMem (s.storePlace x.place key bs flags nib).mem x.span.1 =
      (spaceMem s.mem x.span.1).write x.span.2.1
        (mergeNibble ((spaceMem s.mem x.span.1).read x.span.2.1 bs.length) bs nib) ∧
    ∀ m < 4, m ≠ 1 → m ≠ x.span.1 → spaceMem (s.storePlace x.place key bs flags nib).mem m = spaceMem s.mem m := by
  have hm : ∀ m, m < 4 → m ≠ 1 → m = 0 ∨ m = 2 ∨ m = 3 := by omega
  unfold Part.span at *
  cases hp : x.place with
  | dram a =>
    refine ⟨by cases nib <;> rfl, fun m h4 h1 hne => ?_⟩
    obtain rfl | rfl | rfl := hm m h4 h1
    · exact absurd rfl hne
    · cases nib <;> rfl
    · cases nib <;> rfl
  | host d a =>
    refine ⟨rfl, fun m h4 h1 hne => ?_⟩
    obtain rfl | rfl | rfl := hm m h4 h1
    · rfl
    · exact absurd rfl hne
    · rfl
  | remote a =>
    refine ⟨rfl, fun m h4 h1 hne => ?_⟩
    obtain rfl | rfl | rfl := hm m h4 h1
    · rfl
    · rfl
    · exact absurd rfl hne
  | loc k => simp [hp] at h1
  | reg o => simp [hp] at hc
  | doorbell e => simp [hp] at hc

end State

end Sys2Proof.Machine
end

section
/-!
SUPPORT. Where a performed access lands (08 R200, R206, R207): a store puts its bytes at its place, an atomic its new value, a load
takes the bytes that stand there.
-/

namespace Sys2Proof.Machine
open Sys2Proof.Safety

namespace State

variable {s : State}

/-- Bytes stored one by one are a write. -/
theorem foldl_writeByte_zip (m : Memory) (a : Nat) (bs : List Byte) :
    ((List.range bs.length).zip bs).foldl (fun m c => m.writeByte (a + c.1) c.2) m = m.write a bs := by
  induction bs generalizing m a with
  | nil => rfl
  | cons b bs ih =>
    have hstep : ∀ c : Nat × Byte, a + (c.1 + 1) = a + 1 + c.1 := by omega
    rw [List.length_cons, List.range_succ_eq_map, List.zip_cons_cons, List.foldl_cons, List.zip_map_left, List.foldl_map]
    simp only [Prod.map, id, Nat.succ_eq_add_one, hstep]
    exact ih (m.writeByte a b) (a + 1)

/-- Where no byte lies in the constants, a local store is a write. -/
theorem locStore_loc (s : State) (a : Nat) (bs : List Byte) (poison : Bool)
    (hfree : ∀ j < bs.length, ¬(0x3C0 ≤ locOff (a + j) ∧ locOff (a + j) < 0x400)) :
    (s.locStore a bs poison).mem.loc = s.mem.loc.write a bs := by
  unfold locStore
  rw [List.filter_eq_self.2 fun c hc => ?_]
  · exact foldl_writeByte_zip ..
  · have hj := hfree c.1 (List.mem_range.1 (List.of_mem_zip hc).1)
    simpa [← Bool.decide_and] using hj

theorem length_mergeNibble {old bs : List Byte} (h : old.length = bs.length) (nib : Option Nat) :
    (mergeNibble old bs nib).length = bs.length := by
  cases nib <;> simp [mergeNibble, h]

theorem length_locBytes (s : State) (a n : Nat) : (s.locBytes a n).length = n := by simp [locBytes]

/-- Bytes stored at a local place stand there; no other memory changes. -/
theorem storePlace_loc (s : State) (a key : Nat) (bs : List Byte) (flags : List Bool) (nib : Option Nat)
    (hfree : ∀ j < bs.length, ¬(0x3C0 ≤ locOff (a + j) ∧ locOff (a + j) < 0x400)) :
    (s.storePlace (.loc a) key bs flags nib).mem.loc = s.mem.loc.write a (mergeNibble (s.locBytes a bs.length) bs nib) ∧
    (s.storePlace (.loc a) key bs flags nib).shared = s.shared := by
  have hlen := length_mergeNibble (s.length_locBytes a bs.length) nib
  have hst := locStore_loc s a (mergeNibble (s.locBytes a bs.length) bs nib) false (by rwa [hlen])
  constructor
  · rw [← hst]; cases nib <;> rfl
  · cases nib <;> rfl

/-! ### Performing a part -/

theorem bankPart_eq {o : MemOp} {x : Part} (h : x.span.1 = 1 → o.fmt = none) (p : Nat) : s.bankPart o p x = x := by
  unfold bankPart
  split
  next k ty hp hf => exact absurd (h (by simp [Part.span, hp])) (by simp [hf])
  · rfl

/-- What stands between the performing of an access and its place: nothing but the decoder's count of corrected lines, where the
line can be delivered. -/
theorem noteEcc_rest {pa key part : Nat} {unit : Option Nat} (h : s.lineBad (pa / 64) key = false) :
    { s.noteEcc pa key part unit with pkg := s.pkg, bar0 := s.bar0 } = s := by
  unfold noteEcc
  simp only [h, Bool.false_eq_true, if_false]
  split <;> rfl

/-- The state in which an access is performed, once the decoder has counted the line it reads. -/
def readCounted (s : State) (o : MemOp) (x : Part) : State :=
  match x.place with
  | .dram pa => if o.kind = OpKind.store then s else s.noteEcc pa x.key o.part (some (unitNo 1 o.stand))
  | _ => s

theorem readCounted_rest {o : MemOp} {x : Part} (h : x.span.1 = 0 → s.lineBad (x.span.2.1 / 64) x.key = false) :
    { s.readCounted o x with pkg := s.pkg, bar0 := s.bar0 } = s := by
  unfold readCounted
  split
  next pa hp =>
    split
    · rfl
    · exact noteEcc_rest (by simpa [Part.span, hp] using h)
  · rfl

/-- Performing a part whose bytes are those it has. -/
def performPart (s : State) (n p : Nat) (o : MemOp) (x : Part) : State :=
  match o.kind with
  | .load => (s.readCounted o x).loadAt n p o x
  | .store => (s.readCounted o x).storeAt n p o x
  | .atomic => (s.readCounted o x).atomAt n p o x

theorem performAt_eq {n p : Nat} {o : MemOp} {x : Part} (h : x.span.1 = 1 → o.fmt = none) :
    s.performAt n p o x = s.performPart n p o x :=
  (rfl : s.performAt n p o x = s.performPart n p o (s.bankPart o p x)).trans
    (congrArg (s.performPart n p o) (bankPart_eq h p))

/-- A write performed at a place whose memory takes it whole (R87, R200). -/
def Landed (s t : State) (x : Part) (bs : List Byte) : Prop :=
  spaceMem t.mem x.span.1 = (spaceMem s.mem x.span.1).write x.span.2.1 bs ∧
  ∀ m < 4, m ≠ 1 → m ≠ x.span.1 → spaceMem t.mem m = spaceMem s.mem m

theorem landed_writePlace {x : Part} {bs : List Byte} (key : Nat) (flags : List Bool) (nib : Option Nat)
    (hc : x.span.1 < 4) (h1 : x.span.1 ≠ 1) :
    s.Landed (s.writePlace x.place key bs flags nib) x
      (mergeNibble ((spaceMem s.mem x.span.1).read x.span.2.1 bs.length) bs nib) := by
  obtain ⟨hown, hother⟩ := spaceMem_storePlace s x key bs flags nib hc h1
  have hsame := shared_writePlace s x.place key bs flags nib
  exact ⟨(spaceMem_of_shared hsame h1).trans hown, fun m hm hm1 hne => (spaceMem_of_shared hsame hm1).trans (hother m hm hm1 hne)⟩

/-- A store at a place other than a local memory, of a thread of no cruise. -/
theorem storeAt_far {n p : Nat} {o : MemOp} {x : Part} (hc : s.opCruise o = none) (h4 : x.span.1 < 4) (h1 : x.span.1 ≠ 1) :
    s.storeAt n p o x =
      (s.writePlace x.place x.key x.data (List.replicate x.n x.poison) x.nibble).setPart n p { x with phase := .performed } := by
  unfold storeAt
  have hn : ∀ part ea m, s.notePages none none part ea m = s := fun _ _ _ => rfl
  cases hp : x.place with
  | loc a => simp [Part.span, hp] at h1
  | reg off => simp [Part.span, hp] at h4
  | doorbell g => simp [Part.span, hp] at h4
  | dram _ => simp [hc, hn]
  | host _ _ => simp [hc, hn]
  | remote _ => simp [hc, hn]

theorem storeAt_local {n p a : Nat} {o : MemOp} {x : Part} (hp : x.place = .loc a) (hf : o.fmt = none) :
    s.storeAt n p o x =
      ((if x.data.isEmpty then s else s.writePlace x.place 0 x.data (x.data.map fun _ => x.poison) x.nibble).portTrace o x
        (natOfBytes (x.data.take 4))).setPart n p { x with phase := .performed } := by
  unfold storeAt
  simp [hp, hf, portRuns, atBank, Place.translated]

theorem mem_portTrace (s : State) (o : MemOp) (x : Part) (data : Nat) : (s.portTrace o x data).mem = s.mem := by
  unfold portTrace
  split
  · split <;> rfl
  · rfl

theorem landed_local {n p a : Nat} {o : MemOp} {x y : Part} {flags : List Bool} (hp : x.place = .loc a)
    (hlen : x.data.length = x.n) (hfree : ∀ j < x.n, ¬(0x3C0 ≤ locOff (a + j) ∧ locOff (a + j) < 0x400)) :
    s.Landed (((if x.data.isEmpty then s else s.writePlace x.place 0 x.data flags x.nibble).portTrace o x
      (natOfBytes (x.data.take 4))).setPart n p y) x (mergeNibble (s.locBytes a x.n) x.data x.nibble) := by
  have hspan : x.span = (1, a, x.n) := by simp [Part.span, hp]
  obtain ⟨hloc, hsame⟩ := storePlace_loc s a 0 x.data flags x.nibble (by rwa [hlen])
  unfold Landed
  rw [hspan]
  change spaceMem (State.portTrace _ o x _).mem 1 = _ ∧ ∀ m < 4, m ≠ 1 → m ≠ 1 → spaceMem (State.portTrace _ o x _).mem m = _
  rw [mem_portTrace]
  cases hd : x.data with
  | nil =>
    have h0 : mergeNibble (s.locBytes a x.n) [] x.nibble = [] := by cases x.nibble <;> simp [mergeNibble]
    exact ⟨by rw [h0]; rfl, fun _ _ _ _ => rfl⟩
  | cons b bs =>
    rw [← hd, hp, if_neg (by simp [hd]), ← hlen]
    exact ⟨hloc, fun m _ hm _ => spaceMem_of_shared hsame hm⟩

/-- Each part of a store lands, in whole bytes or merged with what stands there. -/
theorem landed_storeAt {n p : Nat} {o : MemOp} {x : Part} (hc : s.opCruise o = none) (h4 : x.span.1 < 4)
    (hloc : x.span.1 = 1 → o.fmt = none ∧ ∀ j < x.n, ¬(0x3C0 ≤ locOff (x.span.2.1 + j) ∧ locOff (x.span.2.1 + j) < 0x400))
    (hlen : x.data.length = x.n) :
    ∃ old, old.length = x.n ∧ (x.span.1 ≠ 1 → old = (spaceMem s.mem x.span.1).read x.span.2.1 x.n) ∧
      s.Landed (s.storeAt n p o x) x (mergeNibble old x.data x.nibble) := by
  by_cases h1 : x.span.1 = 1
  · obtain ⟨hf, hfree⟩ := hloc h1
    obtain ⟨a, hp⟩ : ∃ a, x.place = .loc a := by
      unfold Part.span at h1
      cases hp : x.place <;> simp [hp] at h1
      exact ⟨_, rfl⟩
    refine ⟨s.locBytes a x.n, length_locBytes .., fun h => absurd h1 h, ?_⟩
    rw [storeAt_local hp hf]
    have hspan : x.span = (1, a, x.n) := by simp [Part.span, hp]
    rw [hspan] at hfree
    exact landed_local hp hlen hfree
  · refine ⟨(spaceMem s.mem x.span.1).read x.span.2.1 x.n, length_read .., fun _ => rfl, ?_⟩
    rw [storeAt_far hc h4 h1]
    exact hlen ▸ landed_writePlace x.key _ x.nibble h4 h1

/-- What a landed write leaves of the bytes outside it. -/
theorem Landed.outside {t : State} {x : Part} {bs : List Byte} (h : s.Landed t x bs) (hlen : bs.length = x.n) {b : Nat}
    (hb : b < x.span.2.1 ∨ x.span.2.1 + x.n ≤ b) :
    (spaceMem t.mem x.span.1).readByte b = (spaceMem s.mem x.span.1).readByte b := by
  rw [h.1, Memory.readByte_write_of_notin _ _ _ _ (by rwa [hlen])]

/-- Counting a corrected line leaves a write where it lands. -/
theorem Landed.of_mem {t u : State} {x : Part} {bs : List Byte} (hm : u.mem = s.mem) (h : u.Landed t x bs) : s.Landed t x bs := by
  unfold Landed at *
  rwa [hm] at h

variable {n p : Nat} {o : MemOp} {x : Part}

theorem readCounted_store (hk : o.kind = .store) : s.readCounted o x = s := by
  unfold readCounted
  split
  · exact if_pos hk
  · rfl

/-- A performed store. -/
theorem landed_performAt (hk : o.kind = .store) (hc : s.opCruise o = none) (h4 : x.span.1 < 4)
    (hloc : x.span.1 = 1 → o.fmt = none ∧ ∀ j < x.n, ¬(0x3C0 ≤ locOff (x.span.2.1 + j) ∧ locOff (x.span.2.1 + j) < 0x400))
    (hlen : x.data.length = x.n) :
    ∃ old, old.length = x.n ∧ (x.span.1 ≠ 1 → old = (spaceMem s.mem x.span.1).read x.span.2.1 x.n) ∧
      s.Landed (s.performAt n p o x) x (mergeNibble old x.data x.nibble) := by
  rw [performAt_eq fun h1 => (hloc h1).1, performPart, hk, readCounted_store hk]
  exact landed_storeAt hc h4 hloc hlen

/-- The bytes of a place as a thread of no task and no cruise reads them. -/
theorem opBytes_plain (ht : s.opTask o = none) (hc : s.opCruise o = none) : s.opBytes o x = s.readPlace x.place x.n x.key := by
  unfold opBytes
  simp [ht, hc]

theorem noteOpRead_plain (ht : s.opTask o = none) (hc : s.opCruise o = none) : s.noteOpRead o x = s := by
  unfold noteOpRead
  simp [ht, hc]

theorem readPlace_bytes (h4 : x.span.1 < 4) :
    (s.readPlace x.place x.n x.key).1 =
      if x.span.1 = 1 then s.locBytes x.span.2.1 x.n else (spaceMem s.mem x.span.1).read x.span.2.1 x.n := by
  unfold Part.span at *
  cases hp : x.place with
  | reg off => simp [hp] at h4
  | doorbell g => simp [hp] at h4
  | dram _ => rfl
  | loc _ => rfl
  | host _ _ => rfl
  | remote _ => rfl

/-- A line of device memory can be delivered where no byte of it comes poisoned. -/
theorem lineBad_of_sound (h0 : 0 < x.n) (hq : ∀ q ∈ (s.readPlace x.place x.n x.key).2, q = false) (hd : x.span.1 = 0) :
    s.lineBad (x.span.2.1 / 64) x.key = false := by
  unfold Part.span at *
  cases hp : x.place with
  | dram a =>
    have hmem := hq (s.mem.dramPoison.has ((a + 0) / 4) || s.lineBad ((a + 0) / 64) x.key) (by
      rw [hp]
      exact List.mem_map.2 ⟨0, List.mem_range.2 h0, rfl⟩)
    simpa using (Bool.or_eq_false_iff.1 hmem).2
  | loc _ => simp [hp] at hd
  | host _ _ => simp [hp] at hd
  | remote _ => simp [hp] at hd
  | reg _ => simp [hp] at hd
  | doorbell _ => simp [hp] at hd

section
variable (ht : s.opTask o = none) (hc : s.opCruise o = none)
  (hbad : x.span.1 = 0 → s.lineBad (x.span.2.1 / 64) x.key = false)
include ht hc hbad

/-- What performing reads and leaves where the line can be delivered: the counting of a corrected one is not seen. -/
theorem readCounted_plain :
    (s.readCounted o x).opTask o = none ∧ (s.readCounted o x).opCruise o = none ∧
    (s.readCounted o x).opBytes o x = s.readPlace x.place x.n x.key ∧ (s.readCounted o x).mem = s.mem ∧
    (s.readCounted o x).ops = s.ops := by
  have hrest := readCounted_rest (o := o) hbad
  have ht' : (s.readCounted o x).opTask o = none := (congrArg (fun y : State => y.opTask o) hrest :).trans ht
  have hc' : (s.readCounted o x).opCruise o = none := (congrArg (fun y : State => y.opCruise o) hrest :).trans hc
  refine ⟨ht', hc', ?_, (congrArg State.mem hrest :), (congrArg State.ops hrest :)⟩
  rw [opBytes_plain ht' hc']
  cases hp : x.place with
  | dram a => exact (congrArg (fun y : State => y.readPlace (.dram a) x.n x.key) hrest :)
  | _ => simp [readCounted, hp]

end

theorem portTrace_far (h1 : x.span.1 ≠ 1) (data : Nat) : s.portTrace o x data = s := by
  unfold portTrace
  cases hp : x.place with
  | loc a => simp [Part.span, hp] at h1
  | _ => rfl

/-- An atomic's new value goes to its place. -/
theorem atomStore_far (ht : s.opTask o = none) (hc : s.opCruise o = none) (h4 : x.span.1 < 4) (bs : List Byte) :
    s.atomStore o x bs = s.writePlace x.place x.key bs [] := by
  unfold atomStore
  have hn : ∀ part ea m, s.notePages none none part ea m = s := fun _ _ _ => rfl
  cases hp : x.place with
  | reg off => simp [Part.span, hp] at h4
  | _ => simp [ht, hc, hn]

/-- A performed atomic: its new value stands where the old one stood. -/
theorem landed_atomic (hk : o.kind = .atomic) (ht : s.opTask o = none) (hc : s.opCruise o = none) (h4 : x.span.1 < 4)
    (h1 : x.span.1 ≠ 1) (h0 : 0 < x.n) (hp : x.poison = false) (hq : ∀ q ∈ (s.opBytes o x).2, q = false) :
    s.Landed (s.performAt n p o x) x
      (bytesOfNat x.n (atomNew o.atomOp o.ty (natOfBytes ((spaceMem s.mem x.span.1).read x.span.2.1 x.n)) o.c o.d)) := by
  rw [opBytes_plain ht hc] at hq
  obtain ⟨ht', hc', hbytes, hmem, -⟩ := readCounted_plain ht hc (lineBad_of_sound h0 hq)
  have hold := readPlace_bytes (s := s) h4
  rw [if_neg h1] at hold
  rw [performAt_eq fun h => absurd h h1, performPart, hk]
  generalize s.readCounted o x = y at ht' hc' hbytes hmem
  have hsound : ((s.readPlace x.place x.n x.key).2.any fun b => b) = false := by
    rw [List.any_eq_false]
    exact fun q hm => by simp [hq q hm]
  refine .of_mem hmem ?_
  unfold atomAt
  simp only [hbytes, noteOpRead_plain ht' hc', portTrace_far h1, hp, hsound, Bool.false_and, Bool.or_self,
    Bool.false_eq_true, if_false]
  rw [hold]
  refine (congrArg (fun t => y.Landed t x _) (atomStore_far ?_ ?_ h4 _)).mpr ?_
  · exact ht'
  · exact hc'
  · exact landed_writePlace (s := y.setPart n p _) x.key [] none h4 h1

theorem opPart_eq_some : s.opPart n p = some (o, x) ↔ s.ops.get? n = some o ∧ o.parts[p]? = some x := by
  unfold opPart
  cases s.ops.get? n with
  | none => simp
  | some q =>
    simp only [Option.bind_eq_bind, Option.bind_some, Option.some.injEq]
    cases h : q.parts[p]? with
    | none => simp; rintro rfl; simp [h]
    | some z => simp; rintro rfl; simp [h]

/-- A load that waits for its value stays when one of its parts is replaced. -/
theorem setPart_load (hop : s.ops.get? n = some o) (hpart : o.parts[p]? = some x) (hk : o.kind = .load) (ho : o.orphan = false)
    (z : Part) :
    (s.setPart n p z).reapOp n = s.setPart n p z ∧
    (s.setPart n p z).opPart n p = some ({ o with parts := o.parts.set p z }, z) := by
  have hget : (s.setPart n p z).ops.get? n = some { o with parts := o.parts.set p z } :=
    (Table.get?_mod_self ..).trans (by rw [hop]; rfl)
  constructor
  · unfold reapOp
    rw [hget]
    simp [hk, ho]
  · refine opPart_eq_some.2 ⟨hget, ?_⟩
    have hlt : p < o.parts.length := (List.getElem?_eq_some_iff.1 hpart).1
    simp [hlt]

/-- A performed load: the bytes that stand at its place. -/
theorem performAt_load (hk : o.kind = .load) (ho : o.orphan = false) (hx : s.opPart n p = some (o, x)) (ht : s.opTask o = none)
    (hc : s.opCruise o = none) (h4 : x.span.1 < 4) (hf : x.span.1 = 1 → o.fmt = none)
    (hbad : x.span.1 = 0 → s.lineBad (x.span.2.1 / 64) x.key = false) :
    (s.performAt n p o x).mem = s.mem ∧
    ∃ y, ((s.performAt n p o x).opPart n p).map (·.2) = some y ∧ y.phase = .value ∧
      y.data = if x.span.1 = 1 then s.locBytes x.span.2.1 x.n else (spaceMem s.mem x.span.1).read x.span.2.1 x.n := by
  obtain ⟨ht', hc', hbytes, hmem, hops⟩ := readCounted_plain ht hc hbad
  have hold := readPlace_bytes (s := s) h4
  rw [performAt_eq hf, performPart, hk]
  generalize s.readCounted o x = y at ht' hc' hbytes hmem hops
  obtain ⟨hop, hpart⟩ := opPart_eq_some.1 hx
  rw [← hops] at hop
  unfold loadAt
  simp only [hbytes, noteOpRead_plain ht' hc']
  rw [(setPart_load hop hpart hk ho _).1, (setPart_load hop hpart hk ho _).2]
  exact ⟨hmem, _, rfl, rfl, hold⟩

end State

end Sys2Proof.Machine
end

section
/-!
SUPPORT. The bytes a performed store or atomic leaves, read back one by one (03 R87; 08 R200, R206).
-/

namespace Sys2Proof.Machine
open Sys2Proof.Safety

namespace State

variable {s : State} {n p : Nat} {o : MemOp} {x : Part}

theorem read_one (m : Memory) (a : Nat) : m.read a 1 = [m.readByte a] := rfl

theorem readByte_of_landed {t : State} {bs : List Byte} (h : s.Landed t x bs) {j : Nat} {b : Byte} (hj : bs[j]? = some b) :
    (spaceMem t.mem x.span.1).readByte (x.span.2.1 + j) = b := by
  obtain ⟨hlt, hb⟩ := List.getElem?_eq_some_iff.1 hj
  rw [h.1, Memory.readByte_write_in _ _ _ _ hlt, List.getD_eq_getElem?_getD, hj]
  rfl

/-- What a performed store leaves in memory. -/
theorem stored_performAt (hk : o.kind = .store) (hc : s.opCruise o = none) (h4 : x.span.1 < 4)
    (hloc : x.span.1 = 1 → o.fmt = none ∧ ∀ j < x.n, ¬(0x3C0 ≤ locOff (x.span.2.1 + j) ∧ locOff (x.span.2.1 + j) < 0x400))
    (hlen : x.data.length = x.n) :
    (∀ j b, x.nibble = none → x.data[j]? = some b →
      (spaceMem (s.performAt n p o x).mem x.span.1).readByte (x.span.2.1 + j) = b) ∧
    (∀ h b, x.nibble = some h → x.data = [b] → x.span.1 ≠ 1 →
      (spaceMem (s.performAt n p o x).mem x.span.1).readByte x.span.2.1 =
        withHalf ((spaceMem s.mem x.span.1).readByte x.span.2.1) h b) ∧
    (∀ b, b < x.span.2.1 ∨ x.span.2.1 + x.n ≤ b →
      (spaceMem (s.performAt n p o x).mem x.span.1).readByte b = (spaceMem s.mem x.span.1).readByte b) ∧
    ∀ m, m < 4 → m ≠ 1 → m ≠ x.span.1 → spaceMem (s.performAt n p o x).mem m = spaceMem s.mem m := by
  obtain ⟨old, hold, hown, hland⟩ := landed_performAt (n := n) (p := p) hk hc h4 hloc hlen
  refine ⟨fun j b hnib hb => ?_, fun h b hnib hb h1 => ?_, fun b hb => ?_, hland.2⟩
  · exact readByte_of_landed hland (by rw [hnib]; exact hb)
  · have h1n : x.n = 1 := by rw [← hlen, hb]; rfl
    have hone := hown h1
    rw [h1n, read_one] at hone
    exact readByte_of_landed hland (j := 0) (by rw [hone, hnib, hb]; rfl)
  · refine hland.outside ?_ hb
    rw [length_mergeNibble (hold.trans hlen.symm), hlen]

theorem length_bytesOfNat (m v : Nat) : (bytesOfNat m v).length = m := by
  induction m generalizing v with
  | zero => rfl
  | succ m ih => rw [bytesOfNat, List.length_cons, ih]

/-- What a performed atomic leaves in memory. -/
theorem exchanged_performAt (hk : o.kind = .atomic) (ht : s.opTask o = none) (hc : s.opCruise o = none) (h4 : x.span.1 < 4)
    (h1 : x.span.1 ≠ 1) (h0 : 0 < x.n) (hp : x.poison = false) (hq : ∀ q ∈ (s.opBytes o x).2, q = false) :
    (spaceMem (s.performAt n p o x).mem x.span.1).read x.span.2.1 x.n =
      bytesOfNat x.n (atomNew o.atomOp o.ty (natOfBytes ((spaceMem s.mem x.span.1).read x.span.2.1 x.n)) o.c o.d) ∧
    (∀ b, b < x.span.2.1 ∨ x.span.2.1 + x.n ≤ b →
      (spaceMem (s.performAt n p o x).mem x.span.1).readByte b = (spaceMem s.mem x.span.1).readByte b) ∧
    ∀ m, m < 4 → m ≠ 1 → m ≠ x.span.1 → spaceMem (s.performAt n p o x).mem m = spaceMem s.mem m := by
  have hland := landed_atomic (n := n) (p := p) hk ht hc h4 h1 h0 hp hq
  have hlen : ∀ v, (bytesOfNat x.n v).length = x.n := length_bytesOfNat _
  refine ⟨?_, fun b hb => hland.outside (hlen _) hb, hland.2⟩
  rw [hland.1]
  have h := Memory.read_write (spaceMem s.mem x.span.1) x.span.2.1
    (bytesOfNat x.n (atomNew o.atomOp o.ty (natOfBytes ((spaceMem s.mem x.span.1).read x.span.2.1 x.n)) o.c o.d))
  rwa [hlen] at h

end State

end Sys2Proof.Machine
end

section
/-!
SUPPORT. What a completed load leaves in D (05 R126; 08 R200): the registers of its width, lowest word first, with the element
extended as its TYPE says.
-/

namespace Sys2Proof.Machine
open Sys2Proof.Safety

namespace State

variable {s : State}

/-- A thread that no operand queue serves, once n registers from d hold the words of v. -/
structure Delivered (th th' : Thread) (d n v : Nat) (bad : Bool) : Prop where
  oq : th'.oq = th.oq
  home : th'.home = th.home
  written : ∀ j < n, d + j ≠ 0 → th'.readG (d + j) = { val := BitVec.ofNat 32 (v / 2 ^ (32 * j)), poison := bad }
  kept : ∀ m, m < d ∨ d + n ≤ m → th'.readG m = th.readG m

theorem Delivered.next {th th' : Thread} {d n v : Nat} {bad : Bool} (h : Delivered th th' d n v bad) :
    Delivered th (th'.writeG (d + n) (BitVec.ofNat 32 (v / 2 ^ (32 * n))) bad) d (n + 1) v bad := by
  refine ⟨?_, ?_, fun j hj h0 => ?_, fun m hm => ?_⟩
  · rw [← h.oq]; unfold Thread.writeG; split <;> rfl
  · rw [← h.home]; unfold Thread.writeG; split <;> rfl
  · rw [Thread.readG_writeG]
    by_cases he : j = n
    · subst he; exact if_pos ⟨rfl, h0⟩
    · rw [if_neg (by omega), h.written j (by omega) h0]
  · rw [Thread.readG_writeG, if_neg (by omega), h.kept m (by omega)]

theorem mainOf_of_home {u : Nat} {th : Thread} (hu : s.thread? u = some th) (hh : ∀ m, th.home ≠ .skidder m) :
    s.mainOf u = u := by
  unfold mainOf
  rw [hu]
  cases h : th.home <;> simp_all

theorem deliverRegs_spec {t : Nat} {th : Thread} (ht : s.thread? t = some th) (hq : th.oq = [])
    (hh : ∀ m, th.home ≠ .skidder m) (op d n v : Nat) (bad : Bool) :
    ∃ th', (s.deliverRegs op t d n v bad).thread? t = some th' ∧ Delivered th th' d n v bad := by
  induction n with
  | zero => exact ⟨th, ht, rfl, rfl, fun j hj => absurd hj (by omega), fun _ _ => rfl⟩
  | succ n ih =>
    obtain ⟨x, hx, hd⟩ := ih
    have hmain : (s.deliverRegs op t d n v bad).mainOf t = t := mainOf_of_home hx fun m => hd.home ▸ hh m
    refine ⟨_, ?_, hd.next⟩
    unfold deliverRegs at hx hmain ⊢
    rw [List.range_succ, List.foldl_append, List.foldl_cons, List.foldl_nil]
    generalize List.foldl _ s (List.range n) = y at hx hmain ⊢
    have hnone : x.oq = [] := hd.oq.trans hq
    simp [hmain, hx, hnone]

theorem widthRegs_eq {w : Nat} (hw : w ∈ [8, 16, 32, 64, 128]) : widthRegs w = (w + 31) / 32 := by
  simp only [List.mem_cons, List.not_mem_nil, or_false] at hw
  rcases hw with rfl | rfl | rfl | rfl | rfl <;> rfl

/-- An element of fewer bits than a register, with its sign's bits above it where it is negative. -/
theorem extended_eq {w v : Nat} (sg : Bool) (hw : w ∈ [8, 16, 32, 64, 128]) (hv : v < 2 ^ w) :
    extended w sg v = if sg = true ∧ w < 32 ∧ 2 ^ (w - 1) ≤ v then v + (2 ^ 32 - 2 ^ w) else v := by
  unfold extended wrapTo signExt
  simp only [List.mem_cons, List.not_mem_nil, or_false] at hw
  cases sg with
  | false => simp
  | true => rcases hw with rfl | rfl | rfl | rfl | rfl <;> simp at hv ⊢ <;> split <;> split <;> omega

theorem deliverLoad_spec {n d w : Nat} {sg : Bool} (bad : Bool) {o : MemOp} (bs : List Byte) {th : Thread}
    (hd : o.dest = .regs d w sg) (hnib : o.parts.head?.bind (·.nibble) = none) (hw : w ∈ [8, 16, 32, 64, 128])
    (ht : s.thread? o.tid = some th) (hq : th.oq = []) (hh : ∀ m, th.home ≠ .skidder m) :
    ∃ th', (s.deliverLoad n o bs bad).thread? o.tid = some th' ∧
      Delivered th th' d ((w + 31) / 32) (extended w sg (natOfBytes bs % 2 ^ w)) bad := by
  have hbits : elemBitsOf w none bs = natOfBytes bs % 2 ^ w := by
    unfold elemBitsOf
    exact if_neg (by rintro rfl; simp at hw)
  obtain ⟨th', ht', hdel⟩ := deliverRegs_spec (s := { s with ops := s.ops.del n }) ht hq hh n d (widthRegs w)
    (extended w sg (elemBitsOf w none bs)) bad
  refine ⟨th', ?_, by rwa [hbits, widthRegs_eq hw] at hdel⟩
  unfold deliverLoad
  simp only [hd, hnib]
  exact ht'

end State

end Sys2Proof.Machine
end

section
/-!
SUPPORT. What a thread's operand fields, its address and the place of its element are while other threads of the same instruction
have issued their accesses already (08 R199-R202).
-/

namespace Sys2Proof.Machine
open Sys2Proof.Safety

/-- A thread with the fields put back that an issued access, of any of an instruction's threads, may change. -/
def Thread.reissued (th x : Thread) : Thread :=
  { x with pc := th.pc, g := th.g, oq := th.oq, fex := th.fex, rng := th.rng, sc := th.sc, lastPage := th.lastPage
           awaited := th.awaited, popWait := th.popWait }

/-- What issued accesses leave of a thread: the values of its registers, all but its program counter where it is `free` of
them, and its operand queues where they are `kept`. -/
structure Thread.Touched (free kept : Prop) (th th' : Thread) : Prop where
  past : th.reissued th' = th
  vals : ∀ n, (th'.readG n).val = (th.readG n).val
  free : free → th'.unplaced = th.unplaced
  kept : kept → th'.oq = th.oq

namespace Thread.Touched
variable {free kept : Prop} {a b c : Thread}

theorem refl (a : Thread) : a.Touched free kept a := ⟨rfl, fun _ => rfl, fun _ => rfl, fun _ => rfl⟩

theorem trans (h : a.Touched free kept b) (h' : b.Touched free kept c) : a.Touched free kept c where
  past := by
    have e := congrArg a.reissued h'.past
    exact (e :).trans h.past
  vals n := (h'.vals n).trans (h.vals n)
  free hf := (h'.free hf).trans (h.free hf)
  kept hk := (h'.kept hk).trans (h.kept hk)

theorem mono {free' kept' : Prop} (h : a.Touched free kept b) (hf : free' → free) (hk : kept' → kept) :
    a.Touched free' kept' b := ⟨h.past, h.vals, fun x => h.free (hf x), fun x => h.kept (hk x)⟩

/-- A change of a thread that is neither free nor loses a queue entry. -/
theorem of_past (hfree : ¬ free) (past : a.reissued b = a) (vals : ∀ n, (b.readG n).val = (a.readG n).val)
    (hq : kept → b.oq = a.oq) : a.Touched free kept b := ⟨past, vals, fun h => absurd h hfree, hq⟩

end Thread.Touched

namespace State

/-- What issued accesses leave of a state: everything but the named parts, of a stand all but its L1, and of each thread what
`Thread.Touched` says. -/
structure Within (free kept : Nat → Prop) (s t : State) : Prop where
  rest : { t with threads := s.threads, engines := s.engines, stands := s.stands, ops := s.ops, nextId := s.nextId
                  cruises := s.cruises } = s
  stand : ∀ n, { t.stand n with l1 := (s.stand n).l1 } = s.stand n
  thread : ∀ v, Option.Rel (Thread.Touched (free v) (kept v)) (s.thread? v) (t.thread? v)

variable {free kept : Nat → Prop} {s t w : State} {u : Nat} {k : Ins}

namespace Within

theorem touched_refl (o : Option Thread) {a b : Prop} : Option.Rel (Thread.Touched a b) o o := by
  cases o with
  | none => exact .none
  | some th => exact .some (.refl th)

theorem refl (s : State) : Within free kept s s := ⟨rfl, fun _ => rfl, fun _ => touched_refl _⟩

theorem trans (h : Within free kept s t) (h' : Within free kept t w) : Within free kept s w where
  rest := by
    have e := congrArg (fun x : State => { x with
      threads := s.threads, engines := s.engines, stands := s.stands, ops := s.ops, nextId := s.nextId
      cruises := s.cruises }) h'.rest
    exact (e :).trans h.rest
  stand n := by
    have e := congrArg (fun x : Stand => { x with l1 := (s.stand n).l1 }) (h'.stand n)
    exact (e :).trans (h.stand n)
  thread v := by
    have h1 := h.thread v
    have h2 := h'.thread v
    generalize s.thread? v = a at h1
    generalize t.thread? v = b at h1 h2
    generalize w.thread? v = c at h2
    cases h1 with
    | none => cases h2; exact .none
    | some h1 => cases h2 with | some h2 => exact .some (h1.trans h2)

theorem mono {free' kept' : Nat → Prop} (h : Within free kept s t) (hf : ∀ v, free' v → free v) (hk : ∀ v, kept' v → kept v) :
    Within free' kept' s t := by
  refine ⟨h.rest, h.stand, fun v => ?_⟩
  have h1 := h.thread v
  generalize s.thread? v = a at h1
  generalize t.thread? v = b at h1
  cases h1 with
  | none => exact .none
  | some h1 => exact .some (h1.mono (hf v) (hk v))

theorem get {α : Type} (h : Within free kept s t) (f : Thread → α) (hf : ∀ a b : Thread, f (a.reissued b) = f b) (v : Nat) :
    (t.thread? v).map f = (s.thread? v).map f := by
  have h1 := h.thread v
  generalize s.thread? v = a at h1
  generalize t.thread? v = b at h1
  cases h1 with
  | none => rfl
  | some h1 => exact congrArg some ((hf _ _).symm.trans (congrArg f h1.past))

/-- Either no such thread in both, or both hold it. -/
theorem cases (h : Within free kept s t) (v : Nat) :
    (s.thread? v = none ∧ t.thread? v = none) ∨
    ∃ th th', s.thread? v = some th ∧ t.thread? v = some th' ∧ th.Touched (free v) (kept v) th' := by
  have h1 := h.thread v
  generalize s.thread? v = a at h1
  generalize t.thread? v = b at h1
  cases h1 with
  | none => exact .inl ⟨rfl, rfl⟩
  | some h1 => exact .inr ⟨_, _, rfl, rfl, h1⟩

theorem homeOf (h : Within free kept s t) (v : Nat) : t.homeOf v = s.homeOf v := by
  have hg := h.get Thread.home fun _ _ => rfl
  unfold State.homeOf
  simp only [hg]

theorem mainOf (h : Within free kept s t) (v : Nat) : t.mainOf v = s.mainOf v := by
  unfold State.mainOf
  rw [h.get Thread.home fun _ _ => rfl]

theorem isQueue (h : Within free kept s t) (v : Nat) (f : RFile) (n : Nat) : t.isQueue v k f n = s.isQueue v k f n := by
  unfold State.isQueue
  rcases h.cases v with ⟨h1, h2⟩ | ⟨th, th', h1, h2, hx⟩
  · rw [h1, h2]
  · have hs : th'.sliced = th.sliced := (congrArg Thread.sliced hx.past :)
    simp only [h1, h2, hs]

theorem queueEntry (h : Within free kept s t) (hk : kept u) (q : Fld) (n : Nat) : t.queueEntry u k q n = s.queueEntry u k q n := by
  unfold State.queueEntry
  rw [h.homeOf]
  rcases h.cases u with ⟨h1, h2⟩ | ⟨th, th', h1, h2, hx⟩
  · rw [h1, h2]
  · rw [h1, h2, Option.elim_some, Option.elim_some, hx.kept hk]

theorem readK (h : Within free kept s t) (v n : Nat) : t.readK v n = s.readK v n := by
  have hslot : ∀ e i, t.slot? e i = s.slot? e i := fun e i => (congrArg (fun y : State => y.slot? e i) h.rest :)
  unfold State.readK
  rcases h.cases v with ⟨h1, h2⟩ | ⟨th, th', h1, h2, hx⟩
  · rw [h1, h2]
  · have hhome : th'.home = th.home := (congrArg Thread.home hx.past :)
    have hfile : th'.k = th.k := (congrArg Thread.k hx.past :)
    simp only [h1, h2, hhome, hfile, hslot]

/-- The value of a register that a field names, where its thread's queues are kept. -/
theorem readReg_val (h : Within free kept s t) (hk : kept u) (q : Fld) (f : RFile) (n : Nat) :
    (t.readReg u k q f n).val = (s.readReg u k q f n).val := by
  unfold State.readReg
  rw [h.isQueue, h.queueEntry hk, h.readK]
  rcases h.cases u with ⟨h1, h2⟩ | ⟨th, th', h1, h2, hx⟩
  · rw [h1, h2]
  · have hp : th'.readP n = th.readP n := (congrArg (fun x : Thread => x.readP n) hx.past :)
    have hm : th'.readMb n = th.readMb n := (congrArg (fun x : Thread => x.readMb n) hx.past :)
    rw [h1, h2]
    dsimp only
    rw [hp, hm]
    split
    · split
      · rfl
      · exact hx.vals n
    all_goals rfl

theorem regsVal (h : Within free kept s t) (hk : kept u) (q : Fld) (f : RFile) (idx n : Nat) :
    t.regsVal u k q f idx n = s.regsVal u k q f idx n := by
  induction n generalizing idx with
  | zero => rfl
  | succ n ih => rw [State.regsVal, State.regsVal, h.readReg_val hk, ih]

theorem srcVal (h : Within free kept s t) (hk : kept u) (f : Fld) : t.srcVal u k f = s.srcVal u k f := by
  unfold State.srcVal
  simp only [h.homeOf, h.regsVal hk]

theorem spill (h : Within free kept s t) (n : Nat) : (t.stand n).spill = (s.stand n).spill := (congrArg Stand.spill (h.stand n) :)

theorem tlb (h : Within free kept s t) (n : Nat) : (t.stand n).tlb = (s.stand n).tlb := (congrArg Stand.tlb (h.stand n) :)

theorem locZero (h : Within free kept s t) (a : Nat) : t.locZero a = s.locZero a := by
  have hspill : ∀ n, t.spillSize n = s.spillSize n := fun n => by
    have hg : t.hasGroups n = s.hasGroups n := (congrArg (fun y : State => y.hasGroups n) h.rest :)
    unfold State.spillSize
    rw [hg, h.spill]
  have hstream : ∀ n, t.streaming n = s.streaming n := fun n => (congrArg (fun y : State => y.streaming n) h.rest :)
  unfold State.locZero
  simp only [hspill, hstream]

theorem locBytes (h : Within free kept s t) (a n : Nat) : t.locBytes a n = s.locBytes a n := by
  have hmem : t.mem = s.mem := (congrArg State.mem h.rest :)
  unfold State.locBytes State.locByte
  simp only [h.locZero, hmem]

theorem identityWord (h : Within free kept s t) (v n : Nat) : t.identityWord v n = s.identityWord v n := by
  have hid : ∀ l, t.launchId l = s.launchId l := fun l => (congrArg (fun y : State => y.launchId l) h.rest :)
  unfold State.identityWord
  rw [h.homeOf]
  rcases h.cases v with ⟨h1, h2⟩ | ⟨th, th', h1, h2, hx⟩
  · rw [h1, h2]
  · have hl : th'.launch = th.launch := (congrArg Thread.launch hx.past :)
    have hw : th'.wg = th.wg := (congrArg Thread.wg hx.past :)
    have hc : th'.coords = th.coords := (congrArg Thread.coords hx.past :)
    simp only [h1, h2, hl, hw, hc, hid]

theorem constWord (h : Within free kept s t) (v n : Nat) : t.constWord v n = s.constWord v n := by
  have hslot : ∀ e i, t.slot? e i = s.slot? e i := fun e i => (congrArg (fun y : State => y.slot? e i) h.rest :)
  have hmem : t.mem = s.mem := (congrArg State.mem h.rest :)
  unfold State.constWord
  simp only [h.identityWord, h.homeOf, hslot, h.locBytes, hmem]

theorem wordB (h : Within free kept s t) (hk : kept u) : t.wordB u k = s.wordB u k := by
  unfold State.wordB
  simp only [h.constWord, h.homeOf, h.readReg_val hk]

theorem memEa (h : Within free kept s t) (hk : kept u) : t.memEa u k = s.memEa u k := by
  unfold State.memEa offsetB
  rw [h.srcVal hk, h.wordB hk]

theorem bankFmt (h : Within free kept s t) (p : Place) : t.bankFmt p = s.bankFmt p :=
  (congrArg (fun y : State => y.bankFmt p) h.rest :)

theorem locateVia (h : Within free kept s t) (look : Nat → Nat → Option Trans) (part : Nat) (home : Home) (space : Nat) (ea : W64)
    (n : Nat) (need : Need) : t.locateVia look part home space ea n need = s.locateVia look part home space ea n need :=
  (congrArg (fun y : State => y.locateVia look part home space ea n need) h.rest :)

/-- The translation of a thread that is free of them. -/
theorem cached (h : Within free kept s t) (hf : free u) (part va : Nat) : t.cached u part va = s.cached u part va := by
  have hunit : ∀ c, t.unitCached c part va = s.unitCached c part va := fun c =>
    (congrArg (fun y : State => y.unitCached c part va) h.rest :)
  unfold State.cached
  simp only [h.homeOf, h.tlb, hunit]
  rcases h.cases u with ⟨h1, h2⟩ | ⟨th, th', h1, h2, hx⟩
  · rw [h1, h2]
  · have hhome : th'.home = th.home := (congrArg Thread.home hx.past :)
    have hlast : th'.lastPage = th.lastPage := (congrArg Thread.lastPage (hx.free hf) :)
    simp only [h1, h2, hhome, hlast]

/-- A thread that is free of them resolves its access as before. -/
theorem locate (h : Within free kept s t) (hf : free u) (space : Nat) (ea : W64) (n : Nat) (need : Need) :
    t.locate u space ea n need = s.locate u space ea n need := by
  have hlook : t.cached u = s.cached u := funext fun part => funext fun va => h.cached hf part va
  unfold State.locate
  rcases h.cases u with ⟨h1, h2⟩ | ⟨th, th', h1, h2, hx⟩
  · rw [h1, h2]
  · have hpart : th'.part = th.part := (congrArg Thread.part hx.past :)
    simp only [h1, h2, h.locateVia, hlook, h.homeOf, hpart]

end Within
end State

end Sys2Proof.Machine
end

section
/-!
SUPPORT. The bank of an element: a place in a local memory rests on no translation, so that all of an instruction's threads see
the same bank's format, whichever of them have issued (08 R201).
-/

namespace Sys2Proof.Machine
open Sys2Proof.Safety

/-- Nothing of a resolution lies in a local memory. -/
def LocRes.Distant : LocRes → Prop
  | .parts ps => ∀ p ∈ ps, ∀ a, p.place ≠ .loc a
  | _ => True

theorem LocRes.distant_one {p : Part} (h : ∀ a, p.place ≠ .loc a) : (LocRes.parts [p]).Distant := fun q hq => by
  rw [List.mem_singleton.1 hq]; exact h

theorem LocRes.distant_joinLoc {l : List LocRes} (h : ∀ r ∈ l, r.Distant) : (joinLoc l).Distant := by
  induction l with
  | nil => intro p hp; simp at hp
  | cons r l ih =>
    have hr := h r (by simp)
    have hl := ih fun q hq => h q (by simp [hq])
    cases r with
    | parts ps =>
      unfold joinLoc
      split
      next qs hq =>
        rw [hq] at hl
        intro p hp
        exact (List.mem_append.1 hp).elim (hr p) (hl p)
      · exact hl
    | _ => trivial

namespace State

variable {free kept : Nat → Prop} {s t w : State} {u : Nat} {k : Ins}

/-! ### The bank of an element -/

theorem distant_resolveVa (s : State) (look : Nat → Nat → Option Trans) (part va n : Nat) (need : Need) (addr : Nat) :
    (s.resolveVa look part va n need addr).Distant := by
  unfold resolveVa
  split
  · trivial
  · split
    · trivial
    · split
      · split
        · exact LocRes.distant_one fun a h => by simp at h
        · exact LocRes.distant_one fun a h => by simp at h
      · split <;> trivial

theorem distant_resolveDomain (s : State) (look : Nat → Nat → Option Trans) (part va n : Nat) (need : Need) :
    (s.resolveDomain look part va n need).Distant := by
  unfold resolveDomain
  dsimp only
  split
  · trivial
  · split
    · have h := distant_resolveVa s look (bits (s.regN (partReg part 0x44)) 6 1) (bits va 40 0) n need va
      split
      · trivial
      · exact h
    · split
      · split
        · exact LocRes.distant_one fun a h => by simp at h
        · trivial
      · split
        · exact LocRes.distant_one fun a h => by simp at h
        · trivial

theorem distant_resolvePiece (s : State) (look : Nat → Nat → Option Trans) (part va n : Nat) (need : Need) :
    (s.resolvePiece look part va n need).Distant := by
  unfold resolvePiece
  split
  · exact distant_resolveVa ..
  · trivial
  · split
    · exact distant_resolveDomain ..
    · trivial

theorem distant_resolveFabric (s : State) (look : Nat → Nat → Option Trans) (part va n : Nat) (need : Need) :
    (s.resolveFabric look part va n need).Distant := by
  unfold resolveFabric
  split
  · exact LocRes.distant_one fun a h => by simp at h
  · split
    · exact LocRes.distant_one fun a h => by simp at h
    · split
      · exact distant_resolveDomain ..
      · trivial

/-- What an address in a local memory resolves to rests on no translation. -/
theorem locateVia_look (s : State) (look look' : Nat → Nat → Option Trans) (part : Nat) (h : Home) (space : Nat) (ea : W64)
    (n : Nat) (need : Need) :
    s.locateVia look part h space ea n need = s.locateVia look' part h space ea n need ∨
    (s.locateVia look part h space ea n need).Distant ∧ (s.locateVia look' part h space ea n need).Distant := by
  unfold locateVia
  dsimp only
  split
  · exact .inl rfl
  · exact .inl rfl
  · exact .inl rfl
  · split
    · exact .inl rfl
    · exact .inl rfl
    · exact .inl rfl
    · right
      constructor
      all_goals
        split
        · exact distant_resolveFabric ..
        · refine LocRes.distant_joinLoc fun r hr => ?_
          obtain ⟨q, -, rfl⟩ := List.mem_map.1 hr
          exact distant_resolvePiece ..

/-- The format of the bank a resolution begins in. -/
def firstBank (s : State) : LocRes → Nat
  | .parts (p :: _) => s.bankFmt p.place
  | _ => 0

theorem bankAt_eq (s : State) (v space : Nat) (ea : W64) : s.bankAt v space ea = s.firstBank (s.locate v space ea 1 {}) := rfl

theorem firstBank_distant {r : LocRes} (h : r.Distant) : s.firstBank r = 0 := by
  unfold firstBank
  split
  next p ps =>
    have hp := h p (by simp)
    unfold bankFmt
    split
    next a ha => exact absurd ha (hp a)
    · rfl
  · rfl

namespace Within

/-- A bank's format is the same to all of an instruction's threads, those that have issued too. -/
theorem bankAt (h : Within free kept s t) (v space : Nat) (ea : W64) : t.bankAt v space ea = s.bankAt v space ea := by
  have hfirst : ∀ r, t.firstBank r = s.firstBank r := fun r => (congrArg (fun y : State => y.firstBank r) h.rest :)
  rw [bankAt_eq, bankAt_eq, hfirst]
  unfold State.locate
  rcases h.cases v with ⟨h1, h2⟩ | ⟨th, th', h1, h2, hx⟩
  · rw [h1, h2]
  · have hpart : th'.part = th.part := (congrArg Thread.part hx.past :)
    simp only [h1, h2, h.locateVia, h.homeOf, hpart]
    rcases s.locateVia_look (t.cached v) (s.cached v) th.part (s.homeOf v) space ea 1 {} with he | ⟨hd, hd'⟩
    · rw [he]
    · rw [firstBank_distant hd, firstBank_distant hd']

theorem elemBits (h : Within free kept s t) (v : Nat) (ea : W64) : t.elemBits k v ea = s.elemBits k v ea := by
  unfold State.elemBits
  rw [h.bankAt]

/-- A thread's element, whichever of the others have issued. -/
theorem access (h : Within free kept s t) {lead : Nat} (hl : kept lead) (hu : kept u) :
    t.access k lead u = s.access k lead u := by
  unfold State.access
  simp only [h.memEa hl, h.memEa hu, h.elemBits, h.homeOf]

theorem locateAcc (h : Within free kept s t) (hf : free u) (a : Acc) : t.locateAcc k u a = s.locateAcc k u a := h.locate hf ..

end Within
end State

end Sys2Proof.Machine
end

section
/-!
SUPPORT. The steps of an access's issue: each touches its own thread and that thread's main one alone, and only the access itself
joins the outstanding ones (08 R199-R202).
-/

namespace Sys2Proof.Machine
open Sys2Proof.Safety

namespace State

variable {free kept : Nat → Prop} {s t w : State} {u : Nat} {k : Ins}

/-- Within those accesses, with none issued. -/
structure Still (free kept : Nat → Prop) (s t : State) : Prop extends Within free kept s t where
  ops : t.ops = s.ops
  nextId : t.nextId = s.nextId

namespace Still

theorem refl (s : State) : Still free kept s s := ⟨.refl s, rfl, rfl⟩

theorem trans (h : Still free kept s t) (h' : Still free kept t w) : Still free kept s w :=
  ⟨h.toWithin.trans h'.toWithin, h'.ops.trans h.ops, h'.nextId.trans h.nextId⟩

/-- What changes engines or cruises alone. -/
theorem same (e : { t with engines := s.engines, cruises := s.cruises } = s := by rfl) : Still free kept s t := by
  have ht : ∀ v, t.thread? v = s.thread? v := fun v => (congrArg (fun y : State => y.thread? v) e :)
  have hs : ∀ n, t.stand n = s.stand n := fun n => (congrArg (fun y : State => y.stand n) e :)
  refine ⟨⟨?_, fun n => by rw [hs], fun v => by rw [ht]; exact Within.touched_refl _⟩, (congrArg State.ops e :),
    (congrArg State.nextId e :)⟩
  have e' := congrArg (fun x : State => { x with
    threads := s.threads, engines := s.engines, stands := s.stands, ops := s.ops, nextId := s.nextId
    cruises := s.cruises }) e
  exact (e' :)

theorem ite {c : Prop} [Decidable c] {a b : State} (ha : Still free kept s a) (hb : Still free kept s b) :
    Still free kept s (if c then a else b) := ite_keeps (Still free kept s) ha hb

theorem modThread {f : Thread → Thread} (hf : ∀ th, Thread.Touched (free u) (kept u) th (f th)) :
    Still free kept s (s.modThread u f) := by
  refine ⟨⟨rfl, fun _ => rfl, fun v => ?_⟩, rfl, rfl⟩
  rw [thread?_modThread]
  split
  next hv =>
    subst hv
    cases s.thread? v with
    | none => exact .none
    | some th => exact .some (hf th)
  · exact Within.touched_refl _

/-- A change of the issuing thread, or of its main one, that leaves its registers and its queues. -/
theorem past {f : Thread → Thread} (hu : ¬ free u) (hf : ∀ th : Thread, th.reissued (f th) = th)
    (hg : ∀ th : Thread, (f th).g = th.g ∧ (f th).oq = th.oq) : Still free kept s (s.modThread u f) :=
  modThread fun th => .of_past hu (hf th) (fun n => by rw [Thread.readG_congr (hg th).1]) fun _ => (hg th).2

theorem counts (h : Counts s t (unitEngine s.focus)) : Still free kept s t := .same (congrArg
  (fun x : State => { x with cruises := s.cruises }) h.1 :)

end Still

theorem still_countFlags (s : State) (f : W32) : Still free kept s (s.countFlags f) := .counts (countFlags_spec ..)

theorem still_traceMem (s : State) (i : Ins) (lead : Nat) (ts : List Nat) (pc : W64) :
    Still free kept s (s.traceMem i lead ts pc) := by
  unfold traceMem
  split
  · exact .same
  · exact .refl s

theorem still_advance (s : State) (k : Ins) : Still free kept s (s.advance k) := by
  unfold advance
  split
  · exact .refl s
  · refine foldl_keeps (Still free kept s) _ _ s (.refl s) fun a x h => h.trans (.modThread fun th => ?_)
    exact ⟨rfl, fun _ => rfl, fun _ => rfl, fun _ => rfl⟩

theorem still_noteCruise (s : State) (i : Ins) (v : Nat) (ps : List Part) : Still free kept s (s.noteCruise i v ps) := by
  unfold noteCruise
  split
  · exact .refl s
  · exact .ite .same (.refl s)

section
variable (hu : ¬ free u)
include hu

theorem still_rememberPage (s : State) (ea : W64) : Still free kept s (s.rememberPage u ea) := by
  unfold rememberPage
  split
  · exact .refl s
  · split
    · exact .past hu (fun _ => rfl) fun _ => ⟨rfl, rfl⟩
    · exact .refl s

theorem still_takeStamp (s : State) : Still free kept s (s.takeStamp u).2 := .past hu (fun _ => rfl) fun _ => ⟨rfl, rfl⟩

theorem still_setFlags (s : State) (f : W32) : Still free kept s (s.setFlags u f) := .past hu (fun _ => rfl) fun _ => ⟨rfl, rfl⟩

theorem still_draws (s : State) (n : Nat) : Still free kept s (s.draws u n).2 := by
  cases n with
  | zero => exact .refl s
  | succ n =>
    cases h : s.thread? u with
    | none => simp only [draws, h]; exact .refl s
    | some th =>
      rw [draws_state s u n th h]
      exact .past hu (fun _ => rfl) fun _ => ⟨rfl, rfl⟩

theorem still_rounding (s : State) (sel n : Nat) : Still free kept s (s.rounding u sel n).2.2 := by
  unfold rounding
  split
  · exact .refl s
  · dsimp only
    split
    · exact still_draws hu ..
    · exact .refl s

end

/-- Which threads an access of `u` may touch: its own, its main one and, where D is an operand queue, that one's queues. -/
structure Issuable (free kept : Nat → Prop) (k : Ins) (s : State) (u : Nat) : Prop where
  own : ¬ free u
  main : ¬ free (s.mainOf u)
  queue : ∀ f n, (f, n) ∈ (destsOf k (s.homeOf u).isWave).map (fun q => q.2) → s.isQueue u k f n = true → ¬ kept (s.mainOf u)

theorem Issuable.within (h : Issuable free kept k s u) {f' k' : Nat → Prop} (hw : Within f' k' s t) : Issuable free kept k t u where
  own := h.own
  main := hw.mainOf u ▸ h.main
  queue f n hm hq := by
    rw [hw.homeOf] at hm
    rw [hw.isQueue] at hq
    rw [hw.mainOf]
    exact h.queue f n hm hq

theorem still_bankDraw (h : Issuable free kept k s u) (a : Acc) : Still free kept s (s.bankDraw k u a).2.2 := by
  unfold bankDraw
  split
  · exact still_rounding h.main ..
  · exact .refl s

theorem touched_emptyG {a b : Prop} (ha : ¬ a) (n : Nat) (th : Thread) : Thread.Touched a b th (th.emptyG n) := by
  have e := Thread.emptyG_frame th n
  refine .of_past ha ?_ (fun m => ?_) fun _ => (congrArg Thread.oq e :)
  · have e' := congrArg th.reissued e
    exact (e' :)
  · rw [Thread.readG_emptyG]
    split
    next hm => rw [hm.1]
    · rfl

theorem still_reserveD (h : Issuable free kept k s u) (id : Nat) : Still free kept s (s.reserveD u id k) := by
  unfold reserveD
  extract_lets x
  have hx : Still free kept s x := .past h.own (fun _ => rfl) fun _ => ⟨rfl, rfl⟩
  rw [hx.homeOf]
  refine List.foldlRecOn _ _ hx fun y hy q hq => hy.trans ?_
  have hissue := h.within hy.toWithin
  split
  next hqueue =>
    have hmain := hissue.queue q.2.1 q.2.2 (List.mem_map.2 ⟨q, by rwa [hy.homeOf], rfl⟩) hqueue
    exact .modThread fun th => .of_past hissue.main rfl (fun _ => rfl) fun hk => absurd hk hmain
  · exact .modThread (touched_emptyG hissue.own _)

/-! ### The access -/

theorem thread?_rememberPage {th : Thread} (hs : s.thread? u = some th) (ea : W64) :
    ∃ p, (s.rememberPage u ea).thread? u = some { th with lastPage := p } := by
  unfold rememberPage
  rw [hs]
  dsimp only
  split
  next tr _ => exact ⟨some tr, by simp [hs]⟩
  · exact ⟨th.lastPage, hs⟩

theorem thread?_noteCruise (s : State) (i : Ins) (v : Nat) (ps : List Part) (u : Nat) :
    (s.noteCruise i v ps).thread? u = s.thread? u := by
  unfold noteCruise
  split
  · rfl
  · exact ite_keeps (fun y : State => y.thread? u = s.thread? u) rfl rfl

/-- What an access says of the instruction and of the thread that issues it (R72, R76, R199). -/
structure IssuedBy (s : State) (k : Ins) (u : Nat) (th : Thread) (kind : OpKind) (ea : Nat) (o : MemOp) : Prop where
  tid : o.tid = u
  part : o.part = th.part
  launch : o.launch = th.launch
  stand : o.stand = (s.homeOf u).stand
  orphan : o.orphan = false
  kind : o.kind = kind
  ord : o.ord = k.ordering
  scope : o.scope = k.scope
  ty : o.ty = k.ty
  stamp : o.stamp = if k.ordering = 5 then some (max (th.sc + 1) s.gtc) else none
  ea : o.ea = ea

/-- The stamp of an access, where its ordering has one, and the state once it is taken (R89). -/
def stamped (k : Ins) (u : Nat) (s : State) : Option Nat × State :=
  if k.ordering = 5 then (some (s.takeStamp u).1, (s.takeStamp u).2) else (none, s)

theorem stamped_spec {th : Thread} (hu : ¬ free u) (hs : s.thread? u = some th) :
    Still free kept s (stamped k u s).2 ∧
    (stamped k u s).1 = (if k.ordering = 5 then some (max (th.sc + 1) s.gtc) else none) ∧
    ∃ n, (stamped k u s).2.thread? u = some { th with sc := n } := by
  unfold stamped
  by_cases h : k.ordering = 5
  · rw [if_pos h, if_pos h]
    exact ⟨still_takeStamp hu s, by simp [takeStamp, hs], _, (thread?_modThread ..).trans (by rw [if_pos rfl, hs]; rfl)⟩
  · rw [if_neg h, if_neg h]
    exact ⟨.refl s, rfl, th.sc, hs⟩

/-- The stamp of a new access of a thread and the state it joins. -/
def joining (s : State) (k : Ins) (u : Nat) (a : Acc) (ps : List Part) : Option Nat × State :=
  stamped k u ((s.noteCruise k u ps).rememberPage u a.ea)

/-- A new access as `newOp` makes it, of a thread at home `h` in the state it joins. -/
def accessOf (y : State) (h : Home) (stamp : Option Nat) (k : Ins) (u : Nat) (a : Acc) (kind : OpKind) (ps : List Part) : MemOp :=
  { tid := u, part := ((y.thread? u).map (·.part)).getD 0, launch := ((y.thread? u).map (·.launch)).getD 0
    stand := h.stand, src := y.sourceWord h, pc := (y.run?.map (·.pc)).getD 0, home := h, source := y.sourceOf u, kind := kind
    ord := k.ordering, scope := k.scope, stamp := stamp, parts := ps, ty := k.ty, ea := a.ea.toNat, issue := y.issueNo }

theorem newOp_eq (s : State) (a : Acc) (kind : OpKind) (ps : List Part) :
    s.newOp k u a kind ps =
      ((s.joining k u a ps).2.nextId,
        accessOf { (s.joining k u a ps).2 with nextId := (s.joining k u a ps).2.nextId + 1 } (s.homeOf u) (s.joining k u a ps).1
          k u a kind ps,
        { (s.joining k u a ps).2 with nextId := (s.joining k u a ps).2.nextId + 1 }) := by
  unfold newOp joining stamped
  by_cases h : k.ordering = 5
  · simp only [if_pos h]; rfl
  · simp only [if_neg h]; rfl

/-- A new access of a thread. -/
theorem newOp_spec {th : Thread} (hu : ¬ free u) (hs : s.thread? u = some th) (a : Acc) (kind : OpKind) (ps : List Part) :
    ∃ x o, s.newOp k u a kind ps = (s.nextId, o, { x with nextId := s.nextId + 1 }) ∧ Still free kept s x ∧
      IssuedBy s k u th kind a.ea.toNat o ∧ o.parts = ps ∧ o.dest = .none := by
  have hx : Still free kept s ((s.noteCruise k u ps).rememberPage u a.ea) := (still_noteCruise ..).trans (still_rememberPage hu ..)
  obtain ⟨p, hp⟩ := thread?_rememberPage (s := s.noteCruise k u ps) ((thread?_noteCruise ..).trans hs) a.ea
  obtain ⟨hst, hstamp, n, ht⟩ := stamped_spec (free := free) (kept := kept) (k := k) hu hp
  have hgtc : ((s.noteCruise k u ps).rememberPage u a.ea).gtc = s.gtc := (congrArg State.gtc hx.rest :)
  rw [hgtc] at hstamp
  have hjoin := hx.trans hst
  rw [newOp_eq]
  change Still free kept s (s.joining k u a ps).2 at hjoin
  change (s.joining k u a ps).2.thread? u = _ at ht
  change (s.joining k u a ps).1 = _ at hstamp
  generalize s.joining k u a ps = y at hjoin hstamp ht
  rw [hjoin.nextId]
  refine ⟨y.2, _, rfl, hjoin, ⟨rfl, ?_, ?_, rfl, rfl, rfl, rfl, rfl, rfl, hstamp, rfl⟩, rfl, rfl⟩
  · change ((y.2.thread? u).map (·.part)).getD 0 = _
    rw [ht]; rfl
  · change ((y.2.thread? u).map (·.launch)).getD 0 = _
    rw [ht]; rfl

end State

end Sys2Proof.Machine
end

section
/-!
SUPPORT. What each access issued says (08 R199-R202, R206): its thread, its address, its parts, and what it takes along.
-/

namespace Sys2Proof.Machine
open Sys2Proof.Safety

namespace State

variable {free kept : Nat → Prop} {s t w : State} {u lead : Nat} {k : Ins} {th : Thread}

theorem thread?_draws (hs : s.thread? u = some th) (v n : Nat) : ∃ r, (s.draws v n).2.thread? u = some { th with rng := r } := by
  cases n with
  | zero => exact ⟨th.rng, hs⟩
  | succ n =>
    cases h : s.thread? v with
    | none => exact ⟨th.rng, by simpa [draws, h] using hs⟩
    | some x =>
      rw [draws_state s v n x h, thread?_modThread, hs]
      by_cases hv : u = v
      · exact ⟨_, by rw [if_pos hv]; rfl⟩
      · exact ⟨th.rng, by rw [if_neg hv]⟩

/-- Drawing for an element's conversion takes of a thread its generator alone. -/
theorem thread?_bankDraw (hs : s.thread? u = some th) (i : Ins) (v : Nat) (a : Acc) :
    ∃ r, (s.bankDraw i v a).2.2.thread? u = some { th with rng := r } := by
  unfold bankDraw
  split
  · unfold rounding
    split
    · exact ⟨th.rng, hs⟩
    · dsimp only
      split
      · exact thread?_draws hs _ _
      · exact ⟨th.rng, hs⟩
  · exact ⟨th.rng, hs⟩

/-- What an access takes along, by its operation: the destination of a load, the operands of an atomic, the bytes of a
store (R200, R206). -/
def Carries (s : State) (k : Ins) (lead u : Nat) (o : MemOp) : Prop :=
  (k.op ∈ [Op.ld, .ldg] → o.dest = if k.typed then .typed k.d k.ty else .regs k.d (intWidth k.ty) (intSigned k.ty)) ∧
  (k.op = .atom → o.dest = .regs k.d (intWidth k.ty) false ∧ o.atomOp = k.atomOp ∧
    o.c = s.srcVal u k .c % 2 ^ intWidth k.ty ∧ o.d = s.srcVal u k .d % 2 ^ intWidth k.ty) ∧
  (k.op ∈ [Op.st, .sts] → o.dest = .none ∧ ∀ (m : Nat) (p : Part), o.parts[m]? = some p →
    p.data = ((storedBytes s k lead u).drop ((o.parts.take m).map (·.n)).sum).take p.n)

/-- One access of a thread has joined the outstanding ones. -/
structure Joins (free kept : Nat → Prop) (s t : State) (o : MemOp) : Prop extends Within free kept s t where
  nextId : t.nextId = s.nextId + 1
  others : ∀ n, n ≠ s.nextId → t.ops.get? n = s.ops.get? n
  joined : t.ops.get? s.nextId = some o

theorem access_ea (s : State) (k : Ins) (lead u : Nat) : (s.access k lead u).ea = elemEa s k lead u := by
  unfold access elemEa
  split
  · simp
  · rfl

/-- What places the parts of an access name, whatever else is noted of them. -/
theorem issueParts_places (s : State) (i : Ins) (v : Nat) (r : LocRes) :
    (s.issueParts i v r).map (fun p => (p.place, p.n)) = (partsOf r).map fun p => (p.place, p.n) := by
  unfold issueParts partsOf
  cases r <;> simp [Function.comp_def]

theorem IssuedBy.issuedFor {kind : OpKind} {o : MemOp} (h : IssuedBy s k u th kind (s.access k lead u).ea.toNat o)
    (hk : kind = if k.op ∈ [Op.ld, .ldg] then .load else if k.op = .atom then .atomic else .store)
    (hp : o.parts.map (fun p => (p.place, p.n)) =
      (partsOf (s.locateAcc k u (s.access k lead u))).map fun p => (p.place, p.n)) : IssuedFor s k lead u th o :=
  ⟨h.tid, h.part, h.launch, h.stand, h.orphan, h.kind.trans hk, h.ord, h.scope, h.ty, h.stamp, h.ea.trans (by rw [access_ea]), hp⟩

/-- A new access of a thread that has drawn for its conversion. -/
theorem newOp_bankDraw_spec (h : Issuable free kept k s u) (hs : s.thread? u = some th) (a b : Acc) (kind : OpKind)
    (ps : List Part) :
    ∃ x o, (s.bankDraw k u b).2.2.newOp k u a kind ps = (s.nextId, o, { x with nextId := s.nextId + 1 }) ∧
      Still free kept s x ∧ IssuedBy s k u th kind a.ea.toNat o ∧ o.parts = ps ∧ o.dest = .none := by
  have hdraw := still_bankDraw h b
  obtain ⟨r, hr⟩ := thread?_bankDraw hs k u b
  generalize (s.bankDraw k u b).2.2 = y at hdraw hr
  obtain ⟨x, o, hnew, hx, hby, hps, hd⟩ := newOp_spec (free := free) (kept := kept) (k := k) h.own hr a kind ps
  have hgtc : y.gtc = s.gtc := (congrArg State.gtc hdraw.rest :)
  refine ⟨x, o, by rw [hnew, hdraw.nextId], hdraw.trans hx, ?_, hps, hd⟩
  exact { hby with stand := hby.stand.trans (by rw [hdraw.homeOf]), stamp := hby.stamp.trans (by rw [hgtc]) }

/-- A new access is put among the outstanding ones. -/
theorem joins_put {y : State} (hw : Within free kept s y) (hops : y.ops = s.ops) (hn : y.nextId = s.nextId + 1) (o : MemOp) :
    Joins free kept s { y with ops := y.ops.put s.nextId o } o := by
  refine ⟨⟨hw.rest, hw.stand, hw.thread⟩, hn, fun n hne => ?_, (Table.get?_put ..).trans (if_pos rfl)⟩
  exact (Table.get?_put ..).trans ((if_neg hne).trans (by rw [hops]))

theorem Still.withNextId {x : State} (h : Still free kept s x) (n : Nat) : Within free kept s { x with nextId := n } :=
  ⟨h.rest, h.stand, h.thread⟩

/-- A new access is put there with its destination reserved. -/
theorem joins_reserveD (h : Issuable free kept k s u) {x : State} (hx : Still free kept s x) (o : MemOp) :
    Joins free kept s { ({ x with nextId := s.nextId + 1 } : State).reserveD u s.nextId k with
      ops := (({ x with nextId := s.nextId + 1 } : State).reserveD u s.nextId k).ops.put s.nextId o } o := by
  have hx' := hx.withNextId (s.nextId + 1)
  have hr := still_reserveD (h.within hx') s.nextId
  exact joins_put (hx'.trans hr.toWithin) (hr.ops.trans hx.ops) hr.nextId o

theorem Joins.still {o : MemOp} (h : Joins free kept s t o) (h' : Still free kept t w) : Joins free kept s w o :=
  ⟨h.toWithin.trans h'.toWithin, h'.nextId.trans h.nextId, fun n hn => (congrArg (·.get? n) h'.ops).trans (h.others n hn),
    (congrArg (·.get? s.nextId) h'.ops).trans h.joined⟩

/-- The destination of a load (R200, R201). -/
def loadDest (k : Ins) : Dest := if k.typed then .typed k.d k.ty else .regs k.d (intWidth k.ty) (intSigned k.ty)

/-- The parts of a load. -/
def loadParts (s : State) (k : Ins) (lead u : Nat) : List Part :=
  (s.issueParts k u (s.locateAcc k u (s.access k lead u))).map fun p => { p with nibble := (s.access k lead u).nib }

theorem issueLoad_eq {id : Nat} {o : MemOp} {y : State}
    (h : (s.bankDraw k u (s.access k lead u)).2.2.newOp k u (s.access k lead u) .load (s.loadParts k lead u) = (id, o, y)) :
    issueLoad k lead s u = { y.reserveD u id k with ops := (y.reserveD u id k).ops.put id { o with
      dest := loadDest k, fmt := if k.typed then some k.ty else none, mode := (s.bankDraw k u (s.access k lead u)).1
      draws := (s.bankDraw k u (s.access k lead u)).2.1 } } := by
  have e : ∀ r, (s.bankDraw k u (s.access k lead u)).2.2.newOp k u (s.access k lead u) .load (s.loadParts k lead u) = r →
      issueLoad k lead s u = { r.2.2.reserveD u r.1 k with ops := (r.2.2.reserveD u r.1 k).ops.put r.1 { r.2.1 with
        dest := loadDest k, fmt := if k.typed then some k.ty else none, mode := (s.bankDraw k u (s.access k lead u)).1
        draws := (s.bankDraw k u (s.access k lead u)).2.1 } } := by rintro _ rfl; rfl
  exact e _ h

/-- LD and LDG issue a load. -/
theorem joins_issueLoad (h : Issuable free kept k s u) (hs : s.thread? u = some th) (hop : k.op ∈ [Op.ld, .ldg]) :
    ∃ o, Joins free kept s (issueLoad k lead s u) o ∧ IssuedFor s k lead u th o ∧ Carries s k lead u o := by
  obtain ⟨x, o, hnew, hx, hby, hps, -⟩ := newOp_bankDraw_spec h hs (s.access k lead u) (s.access k lead u) .load
    (s.loadParts k lead u)
  rw [issueLoad_eq hnew]
  refine ⟨_, joins_reserveD h hx _, ?_, ?_⟩
  · refine IssuedBy.issuedFor (kind := .load) ?_ ?_ ?_
    · exact { hby with }
    · simp [hop]
    · change o.parts.map _ = _
      rw [hps, loadParts, List.map_map]
      exact issueParts_places ..
  · refine ⟨fun _ => rfl, fun ha => ?_, fun ha => ?_⟩
    · simp [ha] at hop
    · simp at hop ha; rcases hop with h1 | h1 <;> simp [h1] at ha

theorem issueAtom_eq {id : Nat} {o : MemOp} {y : State}
    (h : s.newOp k u (s.access k lead u) .atomic (s.issueParts k u (s.locateAcc k u (s.access k lead u))) = (id, o, y)) :
    issueAtom k lead s u = { y.reserveD u id k with ops := (y.reserveD u id k).ops.put id { o with
      dest := .regs k.d (intWidth k.ty) false, atomOp := k.atomOp, c := s.srcVal u k .c % 2 ^ intWidth k.ty
      d := s.srcVal u k .d % 2 ^ intWidth k.ty } } := by
  have e : ∀ r, s.newOp k u (s.access k lead u) .atomic (s.issueParts k u (s.locateAcc k u (s.access k lead u))) = r →
      issueAtom k lead s u = { r.2.2.reserveD u r.1 k with ops := (r.2.2.reserveD u r.1 k).ops.put r.1 { r.2.1 with
        dest := .regs k.d (intWidth k.ty) false, atomOp := k.atomOp, c := s.srcVal u k .c % 2 ^ intWidth k.ty
        d := s.srcVal u k .d % 2 ^ intWidth k.ty } } := by rintro _ rfl; rfl
  exact e _ h

/-- ATOM issues an atomic. -/
theorem joins_issueAtom (h : Issuable free kept k s u) (hs : s.thread? u = some th) (hop : k.op = .atom) :
    ∃ o, Joins free kept s (issueAtom k lead s u) o ∧ IssuedFor s k lead u th o ∧ Carries s k lead u o := by
  obtain ⟨x, o, hnew, hx, hby, hps, -⟩ := newOp_spec (kept := kept) h.own hs (s.access k lead u) .atomic
    (s.issueParts k u (s.locateAcc k u (s.access k lead u)))
  rw [issueAtom_eq hnew]
  refine ⟨_, joins_reserveD h hx _, ?_, fun ha => ?_, fun _ => ⟨rfl, rfl, rfl, rfl⟩, fun ha => ?_⟩
  · refine IssuedBy.issuedFor (kind := .atomic) { hby with } (by simp [hop]) ?_
    change o.parts.map _ = _
    rw [hps]
    exact issueParts_places ..
  · simp [hop] at ha
  · simp [hop] at ha

/-! ### Stores -/

/-- What a copy of a store in its stand's L1 leaves of the store's parts (R85). -/
def storedPart (p : Part) : Place × Nat × List Byte := (p.place, p.n, p.data)

theorem stored_copyPart (s : State) (n id idx : Nat) (p : Part) : storedPart (s.copyPart n id idx p).2 = storedPart p := by
  unfold copyPart
  split
  · split <;> rfl
  · rfl

theorem still_copyPart (s : State) (n id idx : Nat) (p : Part) : Still free kept s (s.copyPart n id idx p).1 := by
  unfold copyPart
  split
  · split
    · refine ⟨⟨rfl, fun m => ?_, fun _ => Within.touched_refl _⟩, rfl, rfl⟩
      rw [stand_modStand]
      split
      next hm => subst hm; rfl
      · rfl
    · exact .refl s
  · exact .refl s

theorem copyParts_spec (s : State) (id : Nat) (o : MemOp) (idx : Nat) (ps : List Part) :
    Still free kept s (s.copyParts id o idx ps).1 ∧ (s.copyParts id o idx ps).2.map storedPart = ps.map storedPart := by
  induction ps generalizing s idx with
  | nil => exact ⟨.refl s, rfl⟩
  | cons p ps ih =>
    obtain ⟨y, hy, hs, hp⟩ : ∃ y : State × Part, y = (if (!p.copy && !p.dropped && !p.migHeld && p.phase == .sent &&
        s.opReady id o p) = true then s.copyPart o.stand id idx p else (s, p)) ∧
        Still free kept s y.1 ∧ storedPart y.2 = storedPart p := by
      refine ⟨_, rfl, ?_⟩
      split
      · exact ⟨still_copyPart .., stored_copyPart ..⟩
      · exact ⟨.refl s, rfl⟩
    unfold copyParts
    dsimp only
    rw [← hy]
    obtain ⟨hs', hps⟩ := ih y.1 (idx + 1)
    exact ⟨hs.trans hs', by rw [List.map_cons, List.map_cons, hp, hps]⟩

/-- A store just issued may be copied into its stand's L1, and says the same of itself then. -/
theorem joins_tryCopy {o : MemOp} (h : Joins free kept s t o) :
    ∃ ps, Joins free kept s (t.tryCopy s.nextId) { o with parts := ps } ∧ ps.map storedPart = o.parts.map storedPart := by
  unfold tryCopy
  rw [h.joined]
  dsimp only
  split
  · exact ⟨o.parts, h, rfl⟩
  · obtain ⟨hst, hps⟩ := copyParts_spec (free := free) (kept := kept) t s.nextId o 0 o.parts
    generalize t.copyParts s.nextId o 0 o.parts = y at hst hps
    have hy := h.still hst
    refine ⟨y.2, ⟨⟨hy.rest, hy.stand, hy.thread⟩, hy.nextId, fun n hn => ?_, ?_⟩, hps⟩
    · exact (Table.get?_mod ..).trans ((if_neg hn).trans (hy.others n hn))
    · exact (Table.get?_mod_self ..).trans (by rw [hy.joined]; rfl)

/-- Each part of a store holds its share of the bytes. -/
def Filled (bs : List Byte) (ps : List Part) : Prop :=
  ∀ m p, ps[m]? = some p → p.data = (bs.drop ((ps.take m).map (·.n)).sum).take p.n

theorem filled_fillParts (bs : List Byte) (ps : List Part) : Filled bs (fillParts bs ps) := by
  induction ps generalizing bs with
  | nil => intro m p hp; simp [fillParts] at hp
  | cons q ps ih =>
    intro m p hp
    cases m with
    | zero =>
      simp only [fillParts, List.getElem?_cons_zero, Option.some.injEq] at hp
      subst hp
      simp
    | succ m =>
      simp only [fillParts, List.getElem?_cons_succ] at hp
      rw [ih (bs.drop q.n) m p hp, List.drop_drop]
      simp [fillParts]

theorem Filled.congr {bs : List Byte} {ps qs : List Part} (h : Filled bs ps) (he : qs.map storedPart = ps.map storedPart) :
    Filled bs qs := by
  intro m q hq
  have hm : (ps.map storedPart)[m]? = some (storedPart q) := by rw [← he, List.getElem?_map, hq]; rfl
  obtain ⟨p, hp, hpq⟩ : ∃ p, ps[m]? = some p ∧ storedPart p = storedPart q := by simpa using hm
  simp only [storedPart, Prod.mk.injEq] at hpq
  obtain ⟨-, hn, hd⟩ := hpq
  have hlen : (qs.take m).map (·.n) = (ps.take m).map (·.n) := by
    have e := congrArg (fun l => (l.take m).map fun x : Place × Nat × List Byte => x.2.1) he
    simpa [← List.map_take, Function.comp_def, storedPart] using e
  rw [← hd, ← hn, hlen]
  exact h m p hp

theorem places_congr {ps qs : List Part} (he : qs.map storedPart = ps.map storedPart) :
    qs.map (fun p => (p.place, p.n)) = ps.map fun p => (p.place, p.n) := by
  have e := congrArg (List.map fun x : Place × Nat × List Byte => (x.1, x.2.1)) he
  simpa [Function.comp_def, storedPart] using e

theorem fillParts_places (bs : List Byte) (ps : List Part) :
    (fillParts bs ps).map (fun p => (p.place, p.n)) = ps.map fun p => (p.place, p.n) := by
  induction ps generalizing bs with
  | nil => rfl
  | cons q ps ih => rw [fillParts, List.map_cons, List.map_cons, ih]

/-- The parts of a store, with their bytes. -/
def filledParts (s : State) (k : Ins) (lead u : Nat) : List Part :=
  (fillParts (storedBytes s k lead u) (s.issueParts k u (s.locateAcc k u (s.access k lead u)))).map fun p =>
    { p with nibble := (s.access k lead u).nib }

theorem filledParts_filled (s : State) (k : Ins) (lead u : Nat) : Filled (storedBytes s k lead u) (s.filledParts k lead u) := by
  refine Filled.congr (filled_fillParts _ (s.issueParts k u (s.locateAcc k u (s.access k lead u)))) ?_
  unfold filledParts
  rw [List.map_map]
  rfl

theorem filledParts_places (s : State) (k : Ins) (lead u : Nat) :
    (s.filledParts k lead u).map (fun p => (p.place, p.n)) =
      (partsOf (s.locateAcc k u (s.access k lead u))).map fun p => (p.place, p.n) := by
  rw [filledParts, List.map_map]
  exact (fillParts_places ..).trans (issueParts_places ..)

theorem putStore_eq {id raw : Nat} {a : Acc} {ps : List Part} {o : MemOp} {y : State}
    (h : (s.bankDraw k u a).2.2.newOp k u a .store ps = (id, o, y)) :
    (s.putStore k u a ps raw).1 = { y with ops := y.ops.put id { o with
      fmt := if k.typed then some k.ty else none, c := raw, mode := (s.bankDraw k u a).1, draws := (s.bankDraw k u a).2.1 } } := by
  have e : ∀ r, (s.bankDraw k u a).2.2.newOp k u a .store ps = r →
      (s.putStore k u a ps raw).1 = { r.2.2 with ops := r.2.2.ops.put r.1 { r.2.1 with
        fmt := if k.typed then some k.ty else none, c := raw, mode := (s.bankDraw k u a).1
        draws := (s.bankDraw k u a).2.1 } } := by rintro _ rfl; rfl
  exact e _ h

theorem issueStore_eq (hs : s.thread? u = some th) (htask : th.taskOf = none) :
    ∃ raw, (issueStore k lead u s).1 = (s.putStore k u (s.access k lead u) (s.filledParts k lead u) raw).1.tryCopy s.nextId := by
  have hnone : (s.thread? u).bind (·.taskOf) = none := by rw [hs]; exact htask
  unfold issueStore
  simp only [hnone]
  exact ⟨_, rfl⟩

/-- A store put among the outstanding accesses, and copied where its stand holds its lines. -/
theorem joins_stored (hop : k.op ∈ [Op.st, .sts]) {y : State} (hw : Within free kept s y) (hops : y.ops = s.ops)
    (hn : y.nextId = s.nextId + 1) {o : MemOp} (hby : IssuedBy s k u th .store (s.access k lead u).ea.toNat o)
    (hps : o.parts = s.filledParts k lead u) (hd : o.dest = .none) :
    ∃ o', Joins free kept s (({ y with ops := y.ops.put s.nextId o } : State).tryCopy s.nextId) o' ∧
      IssuedFor s k lead u th o' ∧ Carries s k lead u o' := by
  have hnot : k.op ∉ [Op.ld, .ldg] ∧ k.op ≠ .atom := by
    simp only [List.mem_cons, List.not_mem_nil, or_false] at hop
    rcases hop with h1 | h1 <;> simp [h1]
  obtain ⟨qs, hj, hq⟩ := joins_tryCopy (joins_put hw hops hn o)
  rw [hps] at hq
  refine ⟨_, hj, ?_, fun ha => absurd ha hnot.1, fun ha => absurd ha hnot.2, fun _ => ⟨hd, ?_⟩⟩
  · refine IssuedBy.issuedFor (kind := .store) { hby with } (by rw [if_neg hnot.1, if_neg hnot.2]) ?_
    exact (places_congr hq).trans (filledParts_places ..)
  · exact Filled.congr (filledParts_filled s k lead u) hq

/-- ST and STS of a thread that is no task issue a store. -/
theorem joins_issueStore (h : Issuable free kept k s u) (hs : s.thread? u = some th) (htask : th.taskOf = none)
    (hop : k.op ∈ [Op.st, .sts]) :
    ∃ o, Joins free kept s (issueStore k lead u s).1 o ∧ IssuedFor s k lead u th o ∧ Carries s k lead u o := by
  obtain ⟨raw, he⟩ := issueStore_eq (k := k) (lead := lead) hs htask
  obtain ⟨x, o, hnew, hx, hby, hps, hd⟩ := newOp_bankDraw_spec h hs (s.access k lead u) (s.access k lead u) .store
    (s.filledParts k lead u)
  rw [he, putStore_eq hnew]
  refine joins_stored hop (hx.withNextId (s.nextId + 1)) hx.ops rfl (o := { o with fmt := _, c := _, mode := _, draws := _ })
    { hby with } hps hd

end State

end Sys2Proof.Machine
end

section
/-!
SUPPORT. All threads of an instruction issue in lane order, each as of the state before any of them has (08 R72, R199-R202).
-/

namespace Sys2Proof.Machine
open Sys2Proof.Safety

namespace State

variable {s t y : State} {u lead : Nat} {k : Ins} {th : Thread} {r : Run} {sem : Sem} {go done : List Nat}

/-! ### All threads of an instruction -/

theorem Within.elemEa {free kept : Nat → Prop} (h : Within free kept s t) (hl : kept lead) (hu : kept u) :
    elemEa t k lead u = elemEa s k lead u := by
  rw [← access_ea, ← access_ea, h.access hl hu]

/-- What a thread's access says of itself rests on the state before any of the instruction's threads has issued. -/
theorem Within.issuedFor {free kept : Nat → Prop} (h : Within free kept s t) (hl : kept lead) (hu : kept u) (hf : free u)
    {th' : Thread} (hs : s.thread? u = some th) (ht : t.thread? u = some th') {o : MemOp} (ho : IssuedFor t k lead u th' o) :
    IssuedFor s k lead u th o := by
  have hth : th'.unplaced = th.unplaced := by
    rcases h.cases u with ⟨h1, -⟩ | ⟨a, b, h1, h2, hx⟩
    · rw [hs] at h1; cases h1
    · rw [hs] at h1; rw [ht] at h2
      cases h1; cases h2
      exact hx.free hf
  have hpart : th'.part = th.part := (congrArg Thread.part hth :)
  have hlaunch : th'.launch = th.launch := (congrArg Thread.launch hth :)
  have hsc : th'.sc = th.sc := (congrArg Thread.sc hth :)
  have hgtc : t.gtc = s.gtc := (congrArg State.gtc h.rest :)
  unfold IssuedFor at ho ⊢
  rwa [hpart, hlaunch, hsc, hgtc, h.homeOf, h.elemEa hl hu, h.access hl hu, h.locateAcc hf] at ho

theorem Within.carries {free kept : Nat → Prop} (h : Within free kept s t) (hl : kept lead) (hu : kept u) {o : MemOp}
    (ho : Carries t k lead u o) : Carries s k lead u o := by
  have hb : storedBytes t k lead u = storedBytes s k lead u := by
    unfold storedBytes
    rw [h.access hl hu, h.srcVal hu]
  unfold Carries at ho ⊢
  rwa [h.srcVal hu, h.srcVal hu, hb] at ho

/-- The accesses of an instruction's first threads, `done`, have been issued. -/
structure Issued (ms : List Nat) (k : Ins) (lead : Nat) (done : List Nat) (s y : State) : Prop where
  within : Within (fun v => v ∈ ms ∧ v ∉ done) (· ∈ ms) s y
  nextId : y.nextId = s.nextId + done.length
  others : ∀ n, n < s.nextId ∨ s.nextId + done.length ≤ n → y.ops.get? n = s.ops.get? n
  issued : ∀ j u th, done[j]? = some u → s.thread? u = some th →
    ∃ o, y.ops.get? (s.nextId + j) = some o ∧ IssuedFor s k lead u th o ∧ Carries s k lead u o

variable {ms : List Nat}

/-- One thread more issues its access. -/
theorem Issued.next (h : Issued ms k lead done s y) (hu : u ∈ ms) (hnew : u ∉ done) (hl : lead ∈ ms) {th' : Thread}
    (hy : y.thread? u = some th') {o : MemOp} (hj : Joins (fun v => v ∈ ms ∧ v ∉ done ++ [u]) (· ∈ ms) y t o)
    (ho : IssuedFor y k lead u th' o) (hc : Carries y k lead u o) : Issued ms k lead (done ++ [u]) s t where
  within := (h.within.mono (fun v hv => ⟨hv.1, fun hd => hv.2 (by simp [hd])⟩) fun _ hv => hv).trans hj.toWithin
  nextId := by rw [hj.nextId, h.nextId]; simp; omega
  others n hn := by
    simp only [List.length_append, List.length_cons, List.length_nil] at hn
    have hid := h.nextId
    rw [hj.others n (by omega), h.others n (by omega)]
  issued j v x hv hx := by
    have hid := h.nextId
    by_cases hlt : j < done.length
    · rw [List.getElem?_append_left hlt] at hv
      obtain ⟨o', hget, hfor, hcar⟩ := h.issued j v x hv hx
      exact ⟨o', by rw [hj.others _ (by omega), hget], hfor, hcar⟩
    · have hlen := (List.getElem?_eq_some_iff.1 hv).1
      simp only [List.length_append, List.length_cons, List.length_nil] at hlen
      have hje : j = done.length := by omega
      subst hje
      simp only [List.getElem?_append_right (Nat.le_refl _), Nat.sub_self, List.getElem?_cons_zero, Option.some.injEq] at hv
      subst hv
      exact ⟨o, by rw [← hid]; exact hj.joined, h.within.issuedFor hl hu ⟨hu, hnew⟩ hx hy ho, h.within.carries hl hu hc⟩

/-- What issues one access of each thread it is called for. -/
def Issuer (k : Ins) (lead : Nat) (f : State → Nat → State) : Prop :=
  ∀ (free kept : Nat → Prop) (y : State) (u : Nat) (th : Thread), Issuable free kept k y u → y.thread? u = some th →
    th.taskOf = none → ∃ o, Joins free kept y (f y u) o ∧ IssuedFor y k lead u th o ∧ Carries y k lead u o

theorem Within.taskOf {free kept : Nat → Prop} (h : Within free kept s t) (u : Nat) :
    (t.thread? u).map Thread.taskOf = (s.thread? u).map Thread.taskOf := h.get Thread.taskOf (fun _ _ => rfl) u

/-- An instruction's threads issue in order. -/
theorem issued_foldl {f : State → Nat → State} (hf : Issuer k lead f) (hl : lead ∈ ms) (hgo : ∀ u ∈ go, u ∈ ms)
    (hlive : ∀ u ∈ go, ∃ th, s.thread? u = some th ∧ th.taskOf = none)
    (hok : ∀ u ∈ go, ∀ d, Issuable (fun v => v ∈ ms ∧ v ∉ d ++ [u]) (· ∈ ms) k s u) (hnd : (done ++ go).Nodup)
    (h : Issued ms k lead done s y) : Issued ms k lead (done ++ go) s (go.foldl f y) := by
  induction go generalizing done y with
  | nil => simpa using h
  | cons u us ih =>
    obtain ⟨th, hs, htask⟩ := hlive u (by simp)
    obtain ⟨th', hy, htask'⟩ : ∃ th', y.thread? u = some th' ∧ th'.taskOf = none := by
      have he := h.within.taskOf u
      rw [hs, Option.map_some, htask] at he
      obtain ⟨th', h1, h2⟩ := Option.map_eq_some_iff.1 he
      exact ⟨th', h1, h2⟩
    have hnew : u ∉ done := fun hd => (List.nodup_append.1 hnd).2.2 u hd u (by simp) rfl
    obtain ⟨o, hj, ho, hc⟩ := hf _ _ y u th' ((hok u (by simp) done).within h.within) hy htask'
    have hnext := h.next (hgo u (by simp)) hnew hl hy hj ho hc
    rw [show done ++ u :: us = done ++ [u] ++ us by simp] at hnd ⊢
    exact ih (fun v hv => hgo v (by simp [hv])) (fun v hv => hlive v (by simp [hv])) (fun v hv => hok v (by simp [hv])) hnd hnext

end State

end Sys2Proof.Machine
end

section
/-!
SUPPORT. LD, LDG, ST, STS and ATOM as issues of one access for each thread, and what follows the issue.
-/

namespace Sys2Proof.Machine
open Sys2Proof.Safety

namespace State

variable {s t y : State} {u lead : Nat} {k : Ins} {th : Thread} {r : Run} {sem : Sem} {go done : List Nat}

section
variable (hr : Reached sem k s r lead go)
include hr

theorem active_of_reached (hu : u ∈ go) : u ∈ r.members ∧ ∃ th, s.thread? u = some th := by
  obtain ⟨hm, -, hg⟩ := mem_activeSet.1 (hr.2.2.1 ▸ hu)
  refine ⟨hm, ?_⟩
  cases h : s.thread? u with
  | none => simp [h] at hg
  | some th => exact ⟨th, rfl⟩

/-- A thread of an instruction outside the access slice is its own main one. -/
theorem mainOf_of_reached (hu : u ∈ go) (hsl : k.w.sl = false) : s.mainOf u = u := by
  have hp := placed_of_reached hr hu
  obtain ⟨-, th, hth⟩ := active_of_reached hr hu
  refine mainOf_of_home hth fun m hm => ?_
  simp [placed, hsl, hth, hm] at hp

theorem issuable_of_reached (hmain : k.w.sl = false ∨ ∀ u ∈ go, s.mainOf u ∉ r.members) (hu : u ∈ go) (d : List Nat) :
    Issuable (fun v => v ∈ r.members ∧ v ∉ d ++ [u]) (· ∈ r.members) k s u := by
  refine ⟨fun h => h.2 (by simp), fun h => ?_, fun f n hn hq => ?_⟩
  · rcases hmain with hsl | hsl
    · exact h.2 (by simp [mainOf_of_reached hr hu hsl])
    · exact hsl u hu h.1
  · refine fun hm => (hmain.resolve_left fun hsl => ?_) u hu hm
    have hp := placed_of_reached hr hu
    simp only [placed, hsl, Bool.and_eq_true, Bool.or_false, Bool.not_eq_true'] at hp
    obtain ⟨q, hmem, he⟩ := List.mem_map.1 hn
    have hnone := List.any_eq_false.1 hp.2 q hmem
    rw [he] at hnone
    exact hnone hq

end

/-! ### The end of the issue -/

theorem ops_pushIdle (i : Ins) (s : State) (v : Nat) : (pushIdle i s v).ops = s.ops :=
  foldl_keeps (fun y : State => y.ops = s.ops) _ _ s rfl fun _ _ h => ite_keeps (fun y : State => y.ops = s.ops) h h

theorem ops_countEvent (s : State) (unit src n : Nat) : (s.countEvent unit src n).ops = s.ops := by
  refine ite_keeps (fun y : State => y.ops = s.ops) rfl (foldl_keeps (fun y : State => y.ops = s.ops) _ _ s rfl fun _ _ h => ?_)
  exact ite_keeps (fun y : State => y.ops = s.ops) h h

theorem ops_retire (s : State) (k : Ins) : (s.retire k).ops = s.ops := by
  unfold retire retireAs
  split
  · rfl
  · rfl

/-- What follows an effect leaves the accesses as they are. -/
theorem ops_concluded (s : State) (k : Ins) (go : List Nat) (x : State) : (concluded s k go x).ops = x.ops := by
  unfold concluded
  extract_lets z
  have hz : z.ops = x.ops := ite_keeps (fun y : State => y.ops = x.ops)
    (foldl_keeps (fun y : State => y.ops = x.ops) _ _ x rfl fun y v h => (ops_pushIdle k y v).trans h) rfl
  rw [ops_retire, ops_countEvent]
  exact foldl_keeps (fun y : State => y.ops = x.ops) _ _ z hz fun _ _ h => h

/-! ### LD, LDG, ST, STS and ATOM -/

theorem issuer_load (hop : k.op ∈ [Op.ld, .ldg]) : Issuer k lead (issueLoad k lead) :=
  fun _ _ _ _ _ h hs _ => joins_issueLoad h hs hop

theorem issuer_atom (hop : k.op = .atom) : Issuer k lead (issueAtom k lead) := fun _ _ _ _ _ h hs _ => joins_issueAtom h hs hop

/-- A store of one thread with the flags of its conversion. -/
def flaggedStore (k : Ins) (lead : Nat) (y : State) (u : Nat) : State :=
  (issueStore k lead u y).1.setFlags u (issueStore k lead u y).2.toW32

theorem issuer_store (hop : k.op ∈ [Op.st, .sts]) : Issuer k lead (flaggedStore k lead) := fun _ _ _ _ _ h hs htask => by
  obtain ⟨o, hj, hfor, hc⟩ := joins_issueStore h hs htask hop
  exact ⟨o, hj.still (still_setFlags h.own ..), hfor, hc⟩

theorem perFlags_stores (k : Ins) (lead : Nat) (go : List Nat) (s : State) :
    ∃ f, perFlags (issueStore k lead) go s = (go.foldl (flaggedStore k lead) s).countFlags f := by
  have h : ∀ (y : State) (f : W32), (go.foldl (fun (p : State × W32) u =>
      ((issueStore k lead u p.1).1.setFlags u (issueStore k lead u p.1).2.toW32,
        p.2 ||| (issueStore k lead u p.1).2.toW32)) (y, f)).1 = go.foldl (flaggedStore k lead) y := by
    induction go with
    | nil => exact fun _ _ => rfl
    | cons u us ih => exact fun y f => ih _ _
  exact ⟨_, congrArg (fun x : State => x.countFlags _) (h s 0)⟩

theorem Issued.still {ms : List Nat} (h : Issued ms k lead done s y) (h' : ∀ free kept, Still free kept y t) :
    Issued ms k lead done s t where
  within := h.within.trans (h' _ _).toWithin
  nextId := (h' (fun _ => True) fun _ => True).nextId.trans h.nextId
  others n hn := by rw [(h' (fun _ => True) fun _ => True).ops, h.others n hn]
  issued := by rw [(h' (fun _ => True) fun _ => True).ops]; exact h.issued

/-- The effect of an access issues one for each thread. -/
theorem issued_act (hr : Reached (semOf k.op) k s r lead go) (hop : k.op ∈ [Op.ld, .ldg, .st, .sts, .atom])
    (htask : ∀ u ∈ go, ∀ th, s.thread? u = some th → th.taskOf = none)
    (hmain : k.w.sl = false ∨ ∀ u ∈ go, s.mainOf u ∉ r.members) :
    Issued r.members k lead go s ((semOf k.op).act k lead go (s.advance k)) := by
  have hl : lead ∈ r.members := (active_of_reached hr (lead_mem hr)).1
  have hall : ∀ f, Issuer k lead f → Issued r.members k lead go s
      (go.foldl f ((s.advance k).traceMem k lead go (((s.advance k).run?.map (·.pc)).getD 0))) := fun f hf => by
    have hstart : Still (fun v => v ∈ r.members ∧ v ∉ ([] : List Nat)) (· ∈ r.members) s
        ((s.advance k).traceMem k lead go (((s.advance k).run?.map (·.pc)).getD 0)) :=
      (still_advance s k).trans (still_traceMem ..)
    refine issued_foldl (done := []) hf hl (fun u hu => (active_of_reached hr hu).1) (fun u hu => ?_)
      (fun u hu d => issuable_of_reached hr hmain hu d) (nodup_of_reached hr)
      ⟨hstart.toWithin, hstart.nextId, fun n _ => by rw [hstart.ops], fun j u th hj => by simp at hj⟩
    obtain ⟨-, th, hth⟩ := active_of_reached hr hu
    exact ⟨th, hth, htask u hu th hth⟩
  have hstores : k.op ∈ [Op.st, .sts] → Issued r.members k lead go s (storeSem.act k lead go (s.advance k)) := fun h => by
    obtain ⟨f, hf⟩ := perFlags_stores k lead go ((s.advance k).traceMem k lead go (((s.advance k).run?.map (·.pc)).getD 0))
    dsimp only [storeSem]
    rw [hf]
    exact (hall _ (issuer_store h)).still fun _ _ => still_countFlags ..
  simp only [List.mem_cons, List.not_mem_nil, or_false] at hop
  have hload : k.op = .ld ∨ k.op = .ldg → semOf k.op = loadSem := by rintro (h | h) <;> rw [h] <;> rfl
  have hstore : k.op = .st ∨ k.op = .sts → semOf k.op = storeSem := by rintro (h | h) <;> rw [h] <;> rfl
  rcases hop with h | h | h | h | h
  · rw [hload (.inl h)]; exact hall _ (issuer_load (by simp [h]))
  · rw [hload (.inr h)]; exact hall _ (issuer_load (by simp [h]))
  · rw [hstore (.inl h)]; exact hstores (by simp [h])
  · rw [hstore (.inr h)]; exact hstores (by simp [h])
  · rw [show semOf k.op = atomSem by rw [h]; rfl]; exact hall _ (issuer_atom h)

end State

end Sys2Proof.Machine
end

section
namespace Sys2Proof.Proofs
open Sys2Proof Sys2Proof.Machine Sys2Proof.Safety

/-- Settles O18: each thread issues its access as of the state before any of them has; a performed access writes its own place
alone; a delivered load fills D word by word. -/
theorem memoryIssues : Obligations.MemoryIssues := by
  unfold Obligations.MemoryIssues
  refine ⟨fun i k s r lead go hi hop htask hmain h => ?_, fun s n p o x hx ht hc => ?_, ?_⟩
  · refine ⟨_, exec_clear hi h, ?_⟩
    rw [State.perform_eq_concluded]
    obtain ⟨-, -, hothers, hissued⟩ := State.issued_act h.1 hop htask hmain
    rw [State.ops_concluded]
    exact ⟨hothers, hissued⟩
  · intro c a t h4 hloc
    refine ⟨fun hk hlen => State.stored_performAt hk hc h4 hloc hlen,
      fun hk h1 h0 hp hq => State.exchanged_performAt hk ht hc h4 h1 h0 hp hq, fun hk ho hbad => ?_⟩
    obtain ⟨hmem, hy⟩ := State.performAt_load hk ho hx ht hc h4 (fun h1 => (hloc h1).1) hbad
    exact ⟨fun m => by rw [hmem], hy⟩
  · intro s n d w sg bad o bs th hd hnib hw hth hq hh v v'
    obtain ⟨th', ht', hdel⟩ := State.deliverLoad_spec bad bs hd hnib hw hth hq hh
    rw [State.extended_eq sg hw (Nat.mod_lt _ (by positivity))] at hdel
    exact ⟨th', ht', hdel.written, hdel.kept⟩

end Sys2Proof.Proofs
end

section
/-!
SUPPORT. A waiting thread that its lane no longer names once another thread has signed. A table is a list, and `put` keeps the order
of one whose numbers rise; in one whose numbers do not rise it adds a second entry before the first.
-/

namespace Sys2Proof.Machine
namespace HiddenWaiter

/-- A thread in lane 0 of slot 0 of wave engine 0. -/
def signer : Thread := { part := 0, launch := 0, wg := 0, home := .wave 0 0 0, pc := 0x400000 }

/-- A thread of that lane that awaits round 0 of convergence register 0. -/
def waiter : Thread := { signer with status := .converge 0 0 }

/-- The slot, whose register 0 has lane 0 for its set. -/
def armed : Slot := { part := 0, launch := 0, wg := 0, cvset := [(0, 1)] }

/-- Both threads, thread 5 that waits listed before thread 3. -/
def crowded : State := { State.reset with threads := [(5, waiter), (3, signer)], slots := [(slotKey 0 0, armed)] }

/-- Before the signature the lane names thread 5. -/
theorem crowded_group : crowded.groupThreads (waveKey 0) 0 = [5] := by decide

/-- Thread 3's signature completes the round and leaves thread 5 waiting: the lane names thread 3 by then. -/
theorem signed_waiter : ((crowded.signLanes 0 0 0 [3]).thread? 5).map Thread.status = some (.converge 0 0) := by decide

end HiddenWaiter
end Sys2Proof.Machine
end

section
namespace Sys2Proof.Proofs
open Sys2Proof Sys2Proof.Machine Sys2Proof.Machine.HiddenWaiter

/-- Refutes O25 at R211's release of the waiting threads. The statement takes every list of threads for a state's: here two threads
stand in one lane, listed against the order of their numbers. The signature of the one listed later enters it again at the front,
so that the round which it completes looks for waiting threads of the lane there and passes over the one that waits. -/
theorem not_synchronises : ¬ Obligations.Synchronises := by
  unfold Obligations.Synchronises
  rintro ⟨-, -, hsign⟩
  have hslot : crowded.slot? 0 0 = some armed := by decide
  obtain ⟨-, hset⟩ := hsign crowded 0 0 0 [3] armed hslot
  obtain ⟨-, -, hcomplete⟩ := hset (by decide)
  obtain ⟨-, hreleased⟩ := hcomplete (by decide)
  have hready := hreleased 5 (by rw [crowded_group]; decide) waiter 0 rfl rfl (Nat.zero_le _)
  rw [signed_waiter] at hready
  exact absurd hready (by decide)

end Sys2Proof.Proofs
end

section
/-!
SUPPORT. Accesses at their homes and ports (04 R85-R94), and the sweeping and sleeping of an L1 (21 R387, R388).
-/

namespace Sys2Proof.Machine

variable {s t : State} {n p pa a b : Nat} {o : MemOp} {x : Part}

/-! ### Loads at their home -/

/-- A read that the L1 sends on to the home is counted at its thread's engine (R395). -/
def State.missCounted (s : State) (o : MemOp) (x : Part) : State :=
  match (s.homeOf o.tid).engine with
  | some e => if x.l1 then s.countEvent e 9 1 else s
  | none => s

/-- A load's part may be read at its line's home, whoever owns the line. -/
structure ReadHome (s : State) (n : Nat) (o : MemOp) (x : Part) (pa : Nat) : Prop where
  place : x.place = .dram pa
  kind : o.kind = .load
  ord : o.ord ≠ 5
  phase : x.phase = .sent ∨ x.phase = .queued
  ready : s.opReady n o x = true
  fits : s.partFits o x = true
  kept : s.placeLost o.part x.place = false
  homed : s.rehoming (pa / 64) = false
  settled : s.copyPends o.stand pa = false

/-- Such a read asks only who owns its line (R85, R91). -/
theorem ReadHome.exec_eq (h : ReadHome s n o x pa) (hx : s.opPart n p = some (o, x)) :
    exec (.homeReadLeaseGrant n p) s =
      if (s.home (pa / 64)).owner.isSome then
        if x.phase = .sent then .next (s.recallLine n p x (pa / 64)) else .refused (.notDue "HOME_READ_LEASE_GRANT")
      else .next ((((s.missCounted o x).dropBadHit o x pa).grantLease o x pa).performAt n p o x) := by
  have hlost : s.placeLost o.part (.dram pa) = false := h.place ▸ h.kept
  change execHomeReadLeaseGrant n p s = _
  simp [execHomeReadLeaseGrant, hx, h.place, h.kind, h.ord, h.phase, h.ready, h.fits, hlost, h.homed, h.settled,
    State.missCounted] <;> rfl

theorem ReadHome.exec_free (h : ReadHome s n o x pa) (hx : s.opPart n p = some (o, x)) (hfree : (s.home (pa / 64)).owner = none) :
    exec (.homeReadLeaseGrant n p) s =
      .next ((((s.missCounted o x).dropBadHit o x pa).grantLease o x pa).performAt n p o x) := by
  rw [h.exec_eq hx, hfree]; rfl

theorem ReadHome.exec_owned (h : ReadHome s n o x pa) (hx : s.opPart n p = some (o, x)) {e : Nat}
    (hown : (s.home (pa / 64)).owner = some e) (hsent : x.phase = .sent) :
    exec (.homeReadLeaseGrant n p) s = .next (s.recallLine n p x (pa / 64)) := by
  rw [h.exec_eq hx, hown, hsent]; rfl

/-! ### Writes at their home -/

/-- A write's part has been sent to its line's home and may be taken there. -/
structure SentHome (s : State) (n : Nat) (o : MemOp) (x : Part) (pa : Nat) : Prop where
  place : x.place = .dram pa
  kind : o.kind ≠ .load
  ord : o.ord ≠ 5
  dropped : x.dropped = false
  unheld : x.migHeld = false
  phase : x.phase = .sent
  ready : s.opReady n o x = true
  fits : s.partFits o x = true
  kept : s.placeLost o.part x.place = false
  homed : s.rehoming (pa / 64) = false
  task : s.opTask o = none
  cruise : s.opCruise o = none

/-- What the home decides of such a write is what the step answers. -/
theorem SentHome.exec_eq (h : SentHome s n o x pa) (hx : s.opPart n p = some (o, x)) (ht : s.homeWrite n p o x pa = some t) :
    exec (.homeWritePerformed n p) s = .next t := by
  have hlost : s.placeLost o.part (.dram pa) = false := h.place ▸ h.kept
  change execHomeWritePerformed n p s = _
  simp [execHomeWritePerformed, hx, h.place, h.kind, h.ord, h.dropped, h.unheld, h.phase, h.ready, h.fits, hlost, h.homed, h.task,
    h.cruise, ht]

/-- The part as its stand's copy of the line leaves it (R85). -/
def State.copied (s : State) (n p : Nat) (x : Part) : Part := (((s.tryCopy n).opPart n p).map (·.2)).getD x

/-- A write sent to a line that nobody owns is performed in its turn, or queued (R87). -/
theorem State.homeWrite_sent (hsent : x.phase = .sent) (hturn : (s.tryCopy n).copyTurn n p o (s.copied n p x) pa = true)
    (hcopy : o.kind = .atomic → (s.tryCopy n).copyPends o.stand pa = false)
    (hfree : ((s.tryCopy n).home (pa / 64)).owner = none) (hnew : ((s.tryCopy n).home (pa / 64)).queue.contains (n, p) = false) :
    s.homeWrite n p o x pa = some (if (s.tryCopy n).mayPerform n p o (s.copied n p x) (pa / 64)
      then (s.tryCopy n).performWrite n p o (s.copied n p x) (pa / 64)
      else (s.tryCopy n).enqueueWrite n p o (s.copied n p x) (pa / 64)) := by
  have hpends : (o.kind == .atomic && (s.tryCopy n).copyPends o.stand pa) = false := by
    by_cases hk : o.kind = .atomic
    · simp [hcopy hk]
    · simp [hk]
  unfold copied at hturn ⊢
  simp only [homeWrite, hsent, if_true, hturn, hpends, hfree, hnew]
  exact (apply_ite some ..).symm

/-! ### Ports, acknowledgements, stamped reads -/

theorem exec_memoryPortArrival (hx : s.opPart n p = some (o, x)) (hplace : x.place = .loc a) (hord : o.ord ≠ 5)
    (hsent : x.phase = .sent) (hready : s.opReady n o x = true) (hfits : s.partFits o x = true) :
    exec (.memoryPortArrival n p) s = .next (((s.performAt n p o x).reapOp n).settleHalts) := by
  change execMemoryPortArrival n p s = _
  simp [execMemoryPortArrival, hx, hplace, hord, hsent, hready, hfits]

/-- The stand's copy and the line no longer wait for a write's acknowledgement (R85, R87). -/
def State.ackFreed (s : State) (n p stand pa : Nat) : State :=
  (s.modStand stand fun z =>
    { z with l1 := z.l1.mod (pa / 64) fun l => { l with writes := l.writes.filter (· != (n, p)) } }).modHome (pa / 64)
      fun h => { h with awaitAck := if h.awaitAck = some (n, p) then none else h.awaitAck }

theorem exec_writeAckAtStand (hx : s.opPart n p = some (o, x)) (hplace : x.place = .dram pa) (hcopy : x.copy = true)
    (hdone : x.phase = .performed) (hkept : s.placeLost o.part x.place = false) :
    exec (.writeAckAtStand n p) s =
      .next ((((s.ackFreed n p o.stand pa).setPart n p { x with phase := .acked }).reapOp n).settleHalts) := by
  have hlost : s.placeLost o.part (.dram pa) = false := hplace ▸ hkept
  change execWriteAckAtStand n p s = _
  simp [execWriteAckAtStand, hx, hplace, Place.copyAddr, hcopy, hdone, hlost, State.ackFreed]

theorem exec_rootComplexWriteAck (hx : s.opPart n p = some (o, x)) (hplace : x.place = .host a b) (hkind : o.kind ≠ .load)
    (hdone : x.phase = .performed) :
    exec (.rootComplexWriteAck n p) s = .next (((s.setPart n p { x with phase := .acked }).reapOp n).settleHalts) := by
  change execRootComplexWriteAck n p s = _
  simp [execRootComplexWriteAck, hx, hplace, hkind, hdone]

/-- A stamped read that stands at its home is performed once its stamp is due and no lower one stands there (R90). -/
theorem exec_scOperationPerformed_load (hx : s.opPart n p = some (o, x)) (hplace : x.place = .dram pa) (hord : o.ord = 5)
    (hdropped : x.dropped = false) (hheld : x.migHeld = false) (hqueued : x.phase = .queued) (hfits : s.partFits o x = true)
    (hkept : s.placeLost o.part x.place = false) (hkind : o.kind = .load) (hcopy : s.copyPends o.stand pa = false)
    (hfree : (s.home (pa / 64)).owner = none) (hhomed : s.rehoming (pa / 64) = false)
    (hdue : o.stamp.getD 0 + State.skew o.scope ≤ s.gtc) (hlow : s.lowerStamp n o (pa / 64) = false) :
    exec (.scOperationPerformed n p) s = .next (s.performSc n p o x) := by
  have hlost : s.placeLost o.part (.dram pa) = false := hplace ▸ hkept
  change execScOperationPerformed n p s = _
  simp [execScOperationPerformed, hx, hplace, hord, hdropped, hheld, hqueued, hfits, hlost, hkind, hcopy, hfree, hhomed, hdue,
    State.stampLine, hlow]

/-! ### An L1 and a fenced slice -/

theorem exec_leaseSweep (hn : n < 2048) (hawake : (s.stand n).asleep = none) :
    exec (.leaseSweep n) s = .next ((s.sweepL1 n).sweepHomes n) := by
  change execLeaseSweep n s = _
  simp [execLeaseSweep, hn, hawake]

theorem exec_l1RetentionSleep (hn : n < 2048) (hawake : (s.stand n).asleep = none)
    (hacked : ((s.stand n).l1.any fun l => !l.2.writes.isEmpty) = false) :
    exec (.l1RetentionSleep n) s = .next (s.modStand n fun x => { x with asleep := some s.gtc }) := by
  change execL1RetentionSleep n s = _
  simp only [execL1RetentionSleep, hawake, hacked]
  simp [hn]

theorem exec_l1RetentionWake {since : Nat} (hasleep : (s.stand n).asleep = some since) :
    exec (.l1RetentionWake n) s = .next
      (if since + 134217728 ≤ s.gtc then (s.modStand n fun x => { x with asleep := none }).modStand n fun y => { y with l1 := [] }
        else (s.modStand n fun x => { x with asleep := none }).sweepL1 n) := by
  change execL1RetentionWake n s = _
  rw [execL1RetentionWake, hasleep]
  rfl

theorem exec_l2RehomingComplete (hfenced : s.slicesFenced.has n = true) :
    exec (.l2RehomingComplete n) s = .next { s with slicesFenced := s.slicesFenced.remove n } := if_pos hfenced

end Sys2Proof.Machine
end

section
namespace Sys2Proof.Proofs
open Sys2Proof Sys2Proof.Machine

/-- Settles O43: each clause is the lemma of its event. -/
theorem homeAndCacheSteps : Obligations.HomeAndCacheSteps := by
  unfold Obligations.HomeAndCacheSteps
  refine ⟨fun n p o x s hx => ⟨fun pa hplace hkind hord hphase hready hfits hkept hhomed hcopy => ?_,
    fun pa hplace hkind hord hdrop hheld hsent hready hfits hkept hhomed htask hcruise => ?_,
    fun _ hplace hord hsent hready hfits => exec_memoryPortArrival hx hplace hord hsent hready hfits,
    fun _ hplace hcopy hdone hkept => exec_writeAckAtStand hx hplace hcopy hdone hkept,
    fun _ _ hplace hkind hdone => exec_rootComplexWriteAck hx hplace hkind hdone,
    fun _ hplace hord hdrop hheld hqueued hfits hkept hkind hcopy hfree hhomed hdue hlow =>
      exec_scOperationPerformed_load hx hplace hord hdrop hheld hqueued hfits hkept hkind hcopy hfree hhomed hdue hlow⟩,
    fun n s => ⟨exec_leaseSweep, exec_l1RetentionSleep, fun _ => exec_l1RetentionWake, exec_l2RehomingComplete⟩⟩
  · have h : ReadHome s n o x pa := ⟨hplace, hkind, hord, hphase, hready, hfits, hkept, hhomed, hcopy⟩
    exact ⟨fun hfree => h.exec_free hx hfree, fun _ => h.exec_owned hx⟩
  · have h : SentHome s n o x pa :=
      ⟨hplace, hkind, hord, hdrop, hheld, hsent, hready, hfits, hkept, hhomed, htask, hcruise⟩
    exact fun hturn hcopy _ hfree hnew => h.exec_eq hx (State.homeWrite_sent hsent hturn hcopy hfree hnew)

end Sys2Proof.Proofs
end

section
/-!
SUPPORT. The steps of a Flume (09 R217-R219) and of the lines its commands own (04 R91, R92).
-/

namespace Sys2Proof.Machine

variable {s : State} {c r n line : Nat} {cmd x : FlumeCmd} {rest : List FlumeCmd}

/-! ### A command at its ring's head -/

section
variable (hring : s.ring c r = cmd :: rest)
include hring

theorem exec_flumeCommandAtHead_fenced (hfenced : s.flumeFenced c = true) :
    exec (.flumeCommandAtHead c r) s = .next ((s.dropDcmp cmd).endHead c r cmd 1) := by
  change execFlumeCommandAtHead c r s = _
  simp [execFlumeCommandAtHead, hring, hfenced]

/-- What a command that has not begun does at the head once its guard lets it (R82, R217). -/
theorem exec_flumeCommandAtHead_allowed (hfenced : s.flumeFenced c = false) (hidle : cmd.running = false)
    (hguard : cmd.guard = none ∨
      (∃ g, cmd.guard = some g ∧ g < 16 ∧ (s.guards cmd.engine cmd.group).get? g = some true))
    (hgoes : s.cmdStops cmd = false) (hdone : (cmd.threads.all fun t => s.writesDone t cmd.id 5) = true) :
    exec (.flumeCommandAtHead c r) s = .next (s.setRing c r ({ cmd with running := true, guard := none } :: rest)) := by
  change execFlumeCommandAtHead c r s = _
  rcases hguard with hnone | ⟨g, hg, hlt, htrue⟩
  · simp only [execFlumeCommandAtHead, hring, hfenced, hidle, hnone, hgoes, hdone]
    rfl
  · simp only [execFlumeCommandAtHead, hring, hfenced, hidle, hg, htrue, hgoes, hdone, if_neg (Nat.not_le.2 hlt)]
    rfl

/-- A guard resolved to false ends a command with status 8 (R217, R221). -/
theorem exec_flumeCommandAtHead_forbidden (hfenced : s.flumeFenced c = false) (hidle : cmd.running = false) {g : Nat}
    (hg : cmd.guard = some g) (hfalse : (s.guards cmd.engine cmd.group).get? g = some false) :
    exec (.flumeCommandAtHead c r) s = .next (s.endHead c r cmd 8) := by
  change execFlumeCommandAtHead c r s = _
  simp [execFlumeCommandAtHead, hring, hfenced, hidle, hg, hfalse]

theorem exec_flumeBeatService {d : Nat} (hturn : s.nextRing c = some (r, d)) :
    exec (.flumeBeatService c) s = .next ((s.doBeat c cmd).modCluster c fun x =>
      let idle := (List.range 17).filter fun k =>
        k != r && !((s.doBeat c cmd).ring c k).head?.any fun h => (s.doBeat c cmd).canRun c h
      { x with turn := r, deficit := (idle.foldl (fun (t : Table Nat) k => t.del k) x.deficit).setD r 0 (d - 1) }) := by
  change execFlumeBeatService c s = _
  simp only [execFlumeBeatService, hturn, hring]

theorem exec_flumeCommandComplete (hrun : cmd.running = true) (hlast : cmd.kind.beats ≤ cmd.done) (hheld : cmd.heldBeats = [])
    (hagain : cmd.again = []) :
    exec (.flumeCommandComplete c r) s =
      .next (cmd.owned.foldl (fun (x : State) l => x.releaseLine l) (s.endHead c r cmd 0)) := by
  change execFlumeCommandComplete c r s = _
  simp [execFlumeCommandComplete, hring, hrun, hlast, hheld, hagain]

end

/-! ### The lines a command owns -/

theorem exec_engineOwnershipGrant (hcmd : s.findCmd n = some (c, r, x)) (hrun : x.running = true)
    (hnew : x.owned.has line = false) (hdest : (s.destLines c x).contains line = true)
    (hfree : s.lineFree line none = true) (hqueue : (s.home line).queue = []) :
    exec (.engineOwnershipGrant n line) s = .next
      ((s.modHome line fun h => { h with owner := some n, before := some (s.lineValue line), final := false }).modCmd n
        fun y => { y with owned := y.owned.add line }) := by
  change execEngineOwnershipGrant n line s = _
  simp only [execEngineOwnershipGrant, hcmd, hrun, hnew, hdest, hfree, hqueue]
  rfl

theorem exec_engineRecallComplete (hown : (s.home line).owner = some n) (hfinal : (s.home line).final = true) :
    exec (.engineRecallComplete line) s =
      .next ((s.releaseLine line).modCmd n fun x => { x with owned := x.owned.remove line }) := by
  change execEngineRecallComplete line s = _
  simp [execEngineRecallComplete, hown, hfinal]

/-- A recall that has waited 50 µs ends with the owner's flume fenced and its lines at the buddy (R92). -/
theorem exec_buddyTakeover {g : Nat} (hown : (s.home line).owner.bind s.findCmd = some (c, r, x))
    (hrecall : (s.home line).recallAt = some g) (hlate : (s.home line).final = false) (hdue : g + 50000 ≤ s.gtc)
    (hroom : s.fenceRoom 7 c = true) :
    exec (.buddyTakeover line) s = .next ((s.failFlume c (!s.flumeServes (buddyDie (c / 4096)))).fence 7 c 1) := by
  change execBuddyTakeover line s = _
  simp [execBuddyTakeover, hown, hrecall, hlate, hroom, Nat.not_lt.2 hdue]

end Sys2Proof.Machine
end

section
namespace Sys2Proof.Proofs
open Sys2Proof Sys2Proof.Machine

/-- Settles O45: each clause is the lemma of its event. -/
theorem flumeSteps : Obligations.FlumeSteps := by
  unfold Obligations.FlumeSteps
  exact fun s => ⟨fun _ _ _ _ => exec_flumeCommandAtHead_fenced,
    fun _ _ _ _ hring hserves hidle => ⟨exec_flumeCommandAtHead_allowed hring hserves hidle,
      fun _ => exec_flumeCommandAtHead_forbidden hring hserves hidle⟩,
    fun _ _ _ _ _ => exec_engineOwnershipGrant,
    fun _ _ => exec_engineRecallComplete,
    fun _ _ _ _ _ hturn hring => exec_flumeBeatService hring hturn,
    fun _ _ _ _ => exec_flumeCommandComplete,
    fun _ _ _ _ _ => exec_buddyTakeover⟩

end Sys2Proof.Proofs
end

section
/-!
SUPPORT. What WRCR makes of a thread's own control register (04 R106, R112; 06 R164, R166, R167) and of one that a wave, a core
or an engine shares (02 R66, R68; 09 R211, R223).
-/

namespace Sys2Proof.Machine
open Sys2Proof.Safety

/-! ### A thread's own registers -/

namespace Thread

/-- A thread with its own control register `n` written; the read-only ones and the numbers of no own register keep it. -/
def crWritten (n : Nat) (v : W32) (th : Thread) : Thread :=
  match n with
  | 0x02 => { th with ecause := v &&& 0xFF }
  | 0x03 => { th with epc := W64.ofWords v th.epc.hi }
  | 0x04 => { th with epc := W64.ofWords th.epc.lo v }
  | 0x05 => { th with einfo := v }
  | 0x20 => { th with rng := W64.ofWords v th.rng.hi }
  | 0x21 => { th with rng := W64.ofWords th.rng.lo v }
  | 0x50 => { th with fex := v &&& 0xFF }
  | 0x51 => if 1 ≤ v.toNat % 8 ∧ v.toNat % 8 ≤ 5 then { th with fmode := v &&& 7 } else th
  | _ => th

/-- The numbers of the own registers that a write changes. -/
def writableCrs : List Nat := [0x02, 0x03, 0x04, 0x05, 0x20, 0x21, 0x50, 0x51]

theorem crWritten_frame (n : Nat) (v : W32) (th : Thread) :
    { th.crWritten n v with ecause := th.ecause, epc := th.epc, einfo := th.einfo, rng := th.rng, fex := th.fex
                            fmode := th.fmode } = th := by
  unfold crWritten
  split
  case h_8 => split <;> rfl
  all_goals rfl

theorem crWritten_keeps (n : Nat) (v : W32) : Keeps (crWritten n v) := fun th => by
  have h := crWritten_frame n v th
  exact ⟨(congrArg Thread.home h :), (congrArg Thread.oq h :), (congrArg Thread.sliced h :)⟩

/-- Where a thread stands does not matter to the write. -/
theorem crWritten_moved (n : Nat) (v : W32) (th : Thread) (pc : W64) :
    { crWritten n v { th with pc := pc } with pc := th.pc } = th.crWritten n v := by
  unfold crWritten
  split
  case h_8 => split <;> rfl
  all_goals rfl

theorem crWritten_of_not_mem {n : Nat} (hn : n ∉ writableCrs) (v : W32) (th : Thread) : th.crWritten n v = th := by
  unfold crWritten
  split
  case h_9 => rfl
  all_goals exact absurd (by decide) hn

end Thread

namespace State

variable {s : State} {t n : Nat}

theorem writeCr_own (hn : n ∈ Thread.writableCrs) (s : State) (t : Nat) (v : W32) :
    s.writeCr t n v = s.modThread t (Thread.crWritten n v) := by
  simp only [Thread.writableCrs, List.mem_cons, List.not_mem_nil, or_false] at hn
  rcases hn with rfl | rfl | rfl | rfl | rfl | rfl | rfl | rfl <;> rfl

/-! ### Shared registers -/

/-- A write of a shared register, by the home that holds it. -/
def writeShared (s : State) (h : Home) (n : Nat) (v : W32) : State :=
  if 0x10 ≤ n ∧ n < 0x20 then
    match h.engine with
    | some k => s.modEngine k fun e => { e with ctr := e.ctr.setD (n - 0x10) 0 v }
    | none => s
  else
    match h with
    | .scalar c _ =>
      if n = 0x40 then (if v.toNat % 16 = 15 then s else s.modCore c fun x => { x with bfmt := v &&& 0xF })
      else if 0x41 ≤ n ∧ n < 0x45 then
        s.modCluster (coreCluster c) fun x => { x with dgn := x.dgn.setD (n - 0x41) 0 (takeDgn v) }
      else s
    | .wave e i _ =>
      if 0x30 ≤ n ∧ n < 0x40 then s.writeCvset e i (n - 0x30) v
      else if 0x60 ≤ n ∧ n < 0x68 then s.modSlot e i fun x => { x with tcfg := x.tcfg.setD (n - 0x60) 0 (takeTcfg v) }
      else s
    | _ => s

theorem writeCr_other (hn : n ∉ Thread.writableCrs) (s : State) (t : Nat) (v : W32) :
    s.writeCr t n v = s.writeShared (s.homeOf t) n v := by
  unfold writeCr
  split
  case h_9 => rfl
  all_goals exact absurd (by decide) hn

/-- No shared register has a number below 0x10. -/
theorem writeShared_low (hn : n < 0x10) (s : State) (h : Home) (v : W32) : s.writeShared h n v = s := by
  unfold writeShared
  rw [if_neg (by omega)]
  split
  case h_3 => rfl
  all_goals rw [if_neg (by omega), if_neg (by omega)]

/-- A write of a read-only register of the thread's own is ignored. -/
theorem writeCr_ignored (hown : crPerThread n = true) (hn : n ∉ Thread.writableCrs) (s : State) (t : Nat) (v : W32) :
    s.writeCr t n v = s := by
  rw [writeCr_other hn]
  refine writeShared_low ?_ s _ v
  simp only [Thread.writableCrs, List.mem_cons, List.not_mem_nil, or_false, not_or] at hn
  simp only [crPerThread, Bool.or_eq_true, decide_eq_true_eq, beq_iff_eq] at hown
  omega

theorem writeCr_shared (hshared : crPerThread n = false) (s : State) (t : Nat) (v : W32) :
    s.writeCr t n v = s.writeShared (s.homeOf t) n v := by
  refine writeCr_other (fun hn => ?_) s t v
  have hall : ∀ m ∈ Thread.writableCrs, crPerThread m = true := by decide
  simp [hall n hn] at hshared

section
variable {h : Home} {c e i l : Nat} {v : W32}

/-- An event counter takes the value as it is (R166). -/
theorem writeShared_counter (he : h.engine = some e) (hlo : 0x10 ≤ n) (hhi : n < 0x20) :
    s.writeShared h n v = s.modEngine e fun x => { x with ctr := x.ctr.setD (n - 0x10) 0 v } := by
  unfold writeShared
  rw [if_pos ⟨hlo, hhi⟩, he]

/-- $bfmt keeps its value where the new one is 15 (R68). -/
theorem writeShared_bfmt : s.writeShared (.scalar c i) 0x40 v =
    if v.toNat % 16 = 15 then s else s.modCore c fun x => { x with bfmt := BitVec.ofNat 32 (v.toNat % 16) } := by
  rw [show BitVec.ofNat 32 (v.toNat % 16) = v &&& 0xF from ofNat_keepLow v 4]
  rfl

theorem takeDgn_eq (v : W32) : takeDgn v = BitVec.ofNat 32
    ((if bits v.toNat 30 22 = 0 ∨ bits v.toNat 21 9 < 256 ∨ 8192 < bits v.toNat 21 9 + 16 * bits v.toNat 30 22 ∨
        bits v.toNat 8 0 ≠ 0 then 0 else v.toNat / 2 ^ 31 * 2 ^ 31) +
      bits v.toNat 30 22 * 2 ^ 22 + bits v.toNat 21 9 * 2 ^ 9) := by
  simp [takeDgn, or_assoc]

theorem writeShared_dgn (hlo : 0x41 ≤ n) (hhi : n < 0x45) : s.writeShared (.scalar c i) n v =
    s.modCluster (coreCluster c) fun x => { x with dgn := x.dgn.setD (n - 0x41) 0 (takeDgn v) } := by
  rw [writeShared, if_neg (by omega), if_neg (by omega), if_pos ⟨hlo, hhi⟩]

/-- $bnd is read-only (R166). -/
theorem writeShared_bnd : s.writeShared (.wave e i l) 0x48 v = s := rfl

theorem takeTcfg_eq (v : W32) : takeTcfg v = BitVec.ofNat 32
    ((if bits v.toNat 4 0 = 0 ∨ 0x0E < bits v.toNat 4 0 ∨ bits v.toNat 11 6 = 0 ∨ 32 < bits v.toNat 11 6 ∨
        bits v.toNat 18 12 = 0 ∨ 64 < bits v.toNat 18 12 ∨
        (8 ≤ fmtBits (bits v.toNat 4 0) ∧ bits v.toNat 18 12 % (fmtBits (bits v.toNat 4 0) / 8) ≠ 0) ∨
        bits v.toNat 30 19 ≠ 0 ∨ bit v.toNat 5 = true then 0 else v.toNat / 2 ^ 31 * 2 ^ 31) +
      bits v.toNat 18 12 * 2 ^ 12 + bits v.toNat 11 6 * 2 ^ 6 + bits v.toNat 4 0) := by
  simp [takeTcfg, or_assoc]

theorem writeShared_tcfg (hlo : 0x60 ≤ n) (hhi : n < 0x68) : s.writeShared (.wave e i l) n v =
    s.modSlot e i fun x => { x with tcfg := x.tcfg.setD (n - 0x60) 0 (takeTcfg v) } := by
  rw [writeShared, if_neg (by omega), if_neg (by omega), if_pos ⟨hlo, hhi⟩]

/-- A slot with convergence register `cv` armed with the set `v` and its signatures cleared (R211). -/
def armCvset (s : State) (e i cv : Nat) (v : W32) : State :=
  s.modSlot e i fun x => { x with cvset := x.cvset.setD cv 0 v, cvsig := x.cvsig.setD cv 0 0 }

theorem writeShared_cvset (hlo : 0x30 ≤ n) (hhi : n < 0x40) : s.writeShared (.wave e i l) n v =
    if v = 0 ∧ s.roundOpen e i (n - 0x30) = true then (s.armCvset e i (n - 0x30) v).completeRound e i (n - 0x30)
    else s.armCvset e i (n - 0x30) v := by
  rw [writeShared, if_neg (by omega), if_pos ⟨hlo, hhi⟩]
  rfl

end

end State

/-! ### The effect of WRCR -/

/-- What an instruction makes of its threads, said more weakly. -/
theorem effect_imp {s t : State} {k : Ins} {r : Run} {go : List Nat} {P Q : Nat → Thread → Thread → Prop}
    (h : Effect s t k r go P) (hPQ : ∀ u th th', P u th th' → Q u th th') : Effect s t k r go Q := by
  refine ⟨h.1, fun u hu th hth => ?_⟩
  obtain ⟨th', ht', hin, hout⟩ := h.2 u hu th hth
  exact ⟨th', ht', fun hgo => ⟨(hin hgo).1, hPQ u th th' (hin hgo).2⟩, hout⟩

variable {k : Ins} {s : State} {r : Run} {lead : Nat} {go : List Nat}

theorem wrcr_act_own (hown : crPerThread k.x = true) (s : State) :
    wrcrSem.act k lead go s = go.foldl (fun x u => x.writeCr u k.x (x.wordB u k)) s := by
  simp [wrcrSem, hown]

/-- A thread's own register is written in each thread of the instruction. -/
theorem effect_wrcr_own (hr : Reached wrcrSem k s r lead go) (hsl : k.w.sl = false) (hown : crPerThread k.x = true) :
    { s.perform wrcrSem k lead go with threads := s.threads, engines := s.engines } = s ∧
    Effect s (s.perform wrcrSem k lead go) k r go fun u th th' =>
      th'.pc = r.pc + BitVec.ofNat 64 k.len ∧
      { th' with pc := th.pc, oq := th.oq } = th.crWritten k.x (s.wordB u k) := by
  by_cases hn : k.x ∈ Thread.writableCrs
  · refine effect_of_threads (fun u => Thread.crWritten k.x (s.wordB u k)) 0 hr hsl (.inr ?_)
      (fun u => Thread.crWritten_keeps k.x (s.wordB u k)) fun u _ th th' _ he => ?_
    · rw [wrcr_act_own hown]
      refine foldl_threads hr hsl _ _ fun s' u _ ha => ?_
      rw [State.writeCr_own hn, ha.wordB]
    · have hpc := congrArg Thread.pc (Thread.crWritten_frame k.x (s.wordB u k) { th with pc := r.pc + BitVec.ofNat 64 k.len })
      have hkept := Thread.crWritten_keeps k.x (s.wordB u k) { th with pc := r.pc + BitVec.ofNat 64 k.len }
      refine ⟨(congrArg Thread.pc he :).trans hpc, ?_⟩
      have hall := congrArg (fun x : Thread => { x with pc := th.pc }) he
      rw [Thread.crWritten_moved] at hall
      exact hall
  · have hact : wrcrSem.act k lead go (s.advance k) = s.advance k := by
      rw [wrcr_act_own hown]
      exact foldl_keeps (fun x : State => x = s.advance k) _ go _ rfl fun x u hx =>
        (State.writeCr_ignored hown hn x u _).trans hx
    obtain ⟨hrest, heff⟩ := effect_of_nothing hr hsl hact
    refine ⟨hrest, effect_imp heff fun u th th' hpast => ?_⟩
    rw [Thread.crWritten_of_not_mem hn]
    exact hpast

/-- A shared register is written once, with the leader's value. -/
theorem wrcr_act_shared (hr : Reached wrcrSem k s r lead go) (hshared : crPerThread k.x = false) :
    wrcrSem.act k lead go (s.advance k) = (s.advance k).writeShared (s.homeOf lead) k.x (s.wordB lead k) := by
  obtain ⟨hrun, -, -, hlead, -⟩ := hr
  have ha := State.agree_advance k hrun lead
  have htake : go.take 1 = [lead] := by
    cases go with
    | nil => simp at hlead
    | cons a l => simpa using hlead
  simp only [wrcrSem, hshared, Bool.false_eq_true, if_false, htake, List.foldl_cons, List.foldl_nil]
  rw [State.writeCr_shared hshared, ha.wordB, ha.homeOf]

end Sys2Proof.Machine
end

section
namespace Sys2Proof.Proofs
open Sys2Proof Sys2Proof.Machine Sys2Proof.Safety

/-- Settles O22, from the write of a thread's own register in each thread and the one write of a shared register at its home. -/
theorem writeControlRegister : Obligations.WriteControlRegister := by
  unfold Obligations.WriteControlRegister
  refine ⟨fun i k s r lead go hi hop hown h => ?_, fun i k s r lead go hi hop hshared h => ?_⟩
  · have hsl := sl_of_reached h.1 (by rw [hop]; rfl)
    refine ⟨_, exec_clear hi h, ?_⟩
    rw [hop] at h ⊢
    exact effect_wrcr_own h.1 hsl hown
  · intro v a
    refine ⟨a.writeShared (s.homeOf lead) k.x (s.wordB lead k), ?_, fun hlo hhi e he => State.writeShared_counter he hlo hhi,
      fun c n hc => ?_, fun e n l he => ?_⟩
    · rw [exec_clear hi h, State.perform_eq_concluded]
      rw [hop] at h ⊢
      rw [show semOf .wrcr = wrcrSem from rfl, wrcr_act_shared h.1 hshared]
    · rw [hc]
      refine ⟨fun hx h15 => ?_, fun hx h15 => ?_, fun hlo hhi => ?_⟩
      · rw [hx, State.writeShared_bfmt, if_pos h15]
      · rw [hx, State.writeShared_bfmt, if_neg h15]
      · rw [State.writeShared_dgn hlo hhi, State.takeDgn_eq]
    · rw [he]
      refine ⟨fun hx => ?_, fun hlo hhi => ?_, fun hlo hhi => ⟨fun hkeep => ?_, fun h0 hopen => ?_⟩⟩
      · rw [hx, State.writeShared_bnd]
      · rw [State.writeShared_tcfg hlo hhi, State.takeTcfg_eq]
      · rw [State.writeShared_cvset hlo hhi, if_neg]
        · rfl
        · rintro ⟨h0, hopen⟩
          exact hkeep.elim (fun hv => hv (congrArg BitVec.toNat h0)) fun hclosed => Bool.false_ne_true (hclosed.symm.trans hopen)
      · rw [State.writeShared_cvset hlo hhi, if_pos ⟨BitVec.eq_of_toNat_eq h0, hopen⟩]
        rfl

end Sys2Proof.Proofs
end

section
/-!
SUPPORT. Encoding against decoding (R116-R120, R135, R136): the row an instruction stands in, the instruction a row makes, and
the words and bytes behind what decodes.
-/

namespace Sys2Proof

/-! ### The row of an instruction -/

/-- A base word's instruction is what its major's B32 row makes, and its words are those of its operation (R117, R135). -/
theorem row_of_base {i : Instr} {k : Ins} (h : i.ins = some k) (hb : k.b32 = true) :
    ∃ (w : B32) (f : B32 → Instr), rowB32 k.op.major = some f ∧ i = f w ∧ encodeWords i = w.words k.op := by
  cases i
  case lit w =>
    cases w <;> cases h <;> cases hb
    exact ⟨_, _, rfl, rfl, rfl⟩
  all_goals cases h
  all_goals cases hb
  all_goals exact ⟨_, _, rfl, rfl, rfl⟩

/-- An extended word's instruction is what the row of its major, its minor and X[0] makes, where the word agrees with its
constructor, and its words are those of its operation (R118, R135, R136). -/
theorem row_of_extended {i : Instr} {k : Ins} (h : i.ins = some k) (hb : k.b32 = false) (hr : k.rowOk = true) :
    ∃ (w : X96) (f : X96 → Instr), rowX96 k.op.major w.minor.toNat (w.x.getLsbD 0 && !w.kb) = .ok f ∧ i = f w ∧
      encodeWords i = w.words k.op := by
  cases i
  case lit w =>
    cases w <;> cases h <;> cases hb
    exact ⟨_, _, rfl, rfl, rfl⟩
  case reform w | haltX96 w | send w | reformS w | haltR w | sendT w =>
    cases h
    have hm : w.minor.toNat = _ := eq_of_beq hr
    exact ⟨w, _, by rw [hm]; rfl, rfl, rfl⟩
  case primEmit w =>
    cases h
    have hx : (w.x.getLsbD 0 && !w.kb) = false := by simpa [Ins.rowOk, X96.ins, or_iff_not_imp_left] using hr
    exact ⟨w, _, by rw [hx]; rfl, rfl, rfl⟩
  case primEmitClose w =>
    cases h
    have hx : (w.x.getLsbD 0 && !w.kb) = true := hr
    exact ⟨w, _, by rw [hx]; rfl, rfl, rfl⟩
  all_goals cases h
  all_goals cases hb
  all_goals exact ⟨_, _, rfl, rfl, rfl⟩

theorem Op.major_lt (op : Op) : op.major < 256 := by cases op <;> decide

/-! ### The instruction of a row -/

/-- A B32 row makes the instructions of one operation of its major (R135). -/
theorem words_of_rowB32 {m : Nat} {f : B32 → Instr} (h : rowB32 m = some f) :
    ∃ op : Op, op.major = m ∧ ∀ w, encodeWords (f w) = w.words op := by
  unfold rowB32 at h
  split at h <;> cases h <;> exact ⟨_, rfl, fun _ => rfl⟩

/-- An X96 row makes the instructions of one operation of its major (R135, R136). -/
theorem words_of_rowX96 {m minor : Nat} {x0 : Bool} {f : X96 → Instr} (h : rowX96 m minor x0 = .ok f) :
    ∃ op : Op, op.major = m ∧ ∀ w, encodeWords (f w) = w.words op := by
  unfold rowX96 at h
  repeat' split at h
  all_goals cases h
  all_goals exact ⟨_, rfl, fun _ => rfl⟩

/-! ### Words from their fields -/

/-- A base word is the word of its fields (R116, R117). -/
theorem B32.word_ofWord {w0 : W32} {lit : Option W64} {m : Nat} (hm : majorOf w0 = m)
    (hl : w0.extractLsb' 0 2 = if lit.isSome then 0b10#2 else 0b00#2) : (B32.ofWord w0 lit).word m = w0 := by
  have hmaj : BitVec.ofNat 8 m = w0.extractLsb' 3 8 := by rw [← hm]; exact BitVec.ofNat_toNat ..
  rw [B32.word, hmaj, show (if (B32.ofWord w0 lit).lit.isSome then 0b10#2 else 0b00#2) = _ from hl.symm]
  simp only [B32.ofWord]
  ext i hi
  simp only [BitVec.getElem_append, BitVec.getElem_extractLsb']
  interval_cases i <;> simp

/-- An extended instruction's first word is the word of its fields (R116, R118). -/
theorem X96.word0_ofWords {w0 : W32} {lit : Option W64} {m : Nat} (w1 w2 : W32) (hm : majorOf w0 = m)
    (hl : w0.extractLsb' 0 2 = if lit.isSome then 0b11#2 else 0b01#2) : (X96.ofWords w0 w1 w2 lit).word0 m = w0 := by
  have hmaj : BitVec.ofNat 8 m = w0.extractLsb' 3 8 := by rw [← hm]; exact BitVec.ofNat_toNat ..
  rw [X96.word0, hmaj, show (if (X96.ofWords w0 w1 w2 lit).lit.isSome then 0b11#2 else 0b01#2) = _ from hl.symm]
  simp only [X96.ofWords]
  ext i hi
  simp only [BitVec.getElem_append, BitVec.getElem_extractLsb']
  interval_cases i <;> simp

/-- An extended instruction's second word is the word of its fields (R118). -/
theorem X96.word1_ofWords (w0 w1 w2 : W32) (lit : Option W64) : (X96.ofWords w0 w1 w2 lit).word1 = w1 := by
  simp only [X96.word1, X96.ofWords]
  ext i hi
  simp only [BitVec.getElem_append, BitVec.getElem_extractLsb']
  interval_cases i <;> simp

/-- An extended instruction's third word is the word of its fields (R118). -/
theorem X96.word2_ofWords (w0 w1 w2 : W32) (lit : Option W64) : (X96.ofWords w0 w1 w2 lit).word2 = w2 := by
  simp only [X96.word2, X96.ofWords]
  ext i hi
  simp only [BitVec.getElem_append, BitVec.getElem_extractLsb']
  interval_cases i <;> simp

/-- A literal's words are those it was made of (R119). -/
theorem litWords_ofWords (lo hi : W32) : litWords (some (W64.ofWords lo hi)) = [lo, hi] := by
  have h1 : (W64.ofWords lo hi).lo = lo := by
    ext i hi; exact (BitVec.getElem_extractLsb' ..).trans ((BitVec.getLsbD_append ..).trans (by simp [hi]))
  have h2 : (W64.ofWords lo hi).hi = hi := by
    ext i hi; exact (BitVec.getElem_extractLsb' ..).trans ((BitVec.getLsbD_append ..).trans (by simp [hi]))
  simp [litWords, h1, h2]

/-! ### Words and bytes of what decodes -/

/-- What a base word decodes to has the words it was decoded from (R117, R119). -/
theorem words_of_decodeB32 {w0 : W32} {lit : Option W64} {i : Instr} (h : decodeB32 w0 lit = .ok i)
    (hl : w0.extractLsb' 0 2 = if lit.isSome then 0b10#2 else 0b00#2) : encodeWords i = w0 :: litWords lit := by
  unfold decodeB32 at h
  split at h
  case h_1 f hf =>
    cases h
    obtain ⟨op, hop, hw⟩ := words_of_rowB32 hf
    rw [hw, B32.words, B32.word_ofWord hop.symm hl]
    rfl
  case h_2 => cases h

/-- What an extended word decodes to has the words it was decoded from (R118, R119). -/
theorem words_of_decodeX96 {w0 w1 w2 : W32} {lit : Option W64} {i : Instr} (h : decodeX96 w0 w1 w2 lit = .ok i)
    (hl : w0.extractLsb' 0 2 = if lit.isSome then 0b11#2 else 0b01#2) : encodeWords i = w0 :: w1 :: w2 :: litWords lit := by
  simp only [decodeX96] at h
  split at h
  case h_1 f hf =>
    cases h
    obtain ⟨op, hop, hw⟩ := words_of_rowX96 hf
    rw [hw, X96.words, X96.word0_ofWords w1 w2 hop.symm hl, X96.word1_ofWords, X96.word2_ofWords]
    rfl
  case h_2 => cases h

/-- What words decode to is encoded by as many of them as the first word's LEN asks for (R116). -/
theorem words_of_decodeWords {w0 : W32} {r : List W32} {i : Instr} (h : decodeWords (w0 :: r) = .ok i) :
    (encodeWords i).length = wordCount w0 ∧ encodeWords i <+: w0 :: r := by
  simp only [decodeWords] at h
  have len {n : Nat} {v : BitVec 2} (hn : (w0.extractLsb' 0 2).toNat = n) (hv : v.toNat = n) : w0.extractLsb' 0 2 = v :=
    BitVec.eq_of_toNat_eq (hn.trans hv.symm)
  split at h
  case h_1 hn =>
    rw [words_of_decodeB32 h (len hn rfl), wordCount, hn]
    exact ⟨rfl, _, rfl⟩
  case h_2 hn =>
    rw [words_of_decodeX96 h (len hn rfl), wordCount, hn]
    exact ⟨rfl, _, rfl⟩
  case h_3 hn =>
    rw [words_of_decodeB32 h (len hn rfl), litWords_ofWords, wordCount, hn]
    exact ⟨rfl, _, rfl⟩
  case h_4 hn =>
    rw [words_of_decodeX96 h (len hn rfl), litWords_ofWords, wordCount, hn]
    exact ⟨rfl, _, rfl⟩
  case h_5 => cases h

/-- A word's bytes are those it was read from (R8). -/
theorem bytesOfWord_wordOfBytes (b0 b1 b2 b3 : Byte) : bytesOfWord (wordOfBytes b0 b1 b2 b3) = [b0, b1, b2, b3] := by
  simp only [bytesOfWord, wordOfBytes, List.cons.injEq, and_true]
  refine ⟨?_, ?_, ?_, ?_⟩ <;>
    (ext i hi; simp only [BitVec.getElem_extractLsb', BitVec.getLsbD_append]; interval_cases i <;> simp)

/-- The bytes of the first words of a byte sequence, and the bytes after them, are that sequence (R8). -/
theorem flatMap_bytesOfWord_append_drop {ws : List W32} {bs : List Byte} (h : ws <+: wordsOfBytes bs) :
    ws.flatMap bytesOfWord ++ bs.drop (4 * ws.length) = bs := by
  induction ws generalizing bs with
  | nil => rfl
  | cons w ws ih =>
    unfold wordsOfBytes at h
    split at h
    case h_1 b0 b1 b2 b3 r =>
      obtain ⟨rfl, hr⟩ := List.cons_prefix_cons.1 h
      rw [List.flatMap_cons, bytesOfWord_wordOfBytes, List.append_assoc, List.length_cons, Nat.mul_succ]
      exact congrArg (fun l => b0 :: b1 :: b2 :: b3 :: l) (ih hr)
    case h_2 => cases List.prefix_nil.1 h

end Sys2Proof
end

section
namespace Sys2Proof.Proofs
open Sys2Proof

/-- Settles O54: an instruction is what its major's row makes of its word, and a row's word decodes to what the row makes. -/
theorem decodeOfEncode : Obligations.DecodeOfEncode := by
  unfold Obligations.DecodeOfEncode
  intro i k rest hi hwf
  have hrow : k.rowOk = true := by
    simp only [Instr.wellFormed, hi, Bool.and_eq_true] at hwf
    exact hwf.2
  cases hb : k.b32 with
  | true =>
    obtain ⟨w, f, hf, rfl, hw⟩ := row_of_base hi hb
    rw [encode, hw]
    exact decode_b32 w k.op f k.op.major_lt hf rest
  | false =>
    obtain ⟨w, f, hf, rfl, hw⟩ := row_of_extended hi hb hrow
    rw [encode, hw]
    exact decode_x96 w k.op f k.op.major_lt hf rest

/-- Settles O55: a row's instruction has the words it was decoded from, and words the bytes they were read from. -/
theorem encodeOfDecode : Obligations.EncodeOfDecode := by
  unfold Obligations.EncodeOfDecode
  intro bs rest i h
  unfold decode at h
  split at h
  case h_1 => cases h
  case h_2 w0 r hws =>
    split at h
    case h_1 j hj =>
      obtain ⟨rfl, rfl⟩ := Prod.mk.injEq .. ▸ Except.ok.inj h
      obtain ⟨hlen, hpre⟩ := words_of_decodeWords hj
      rw [encode, ← hlen]
      exact flatMap_bytesOfWord_append_drop (hws ▸ hpre)
    case h_2 => cases h

/-- Settles O53: each word is one closed computation of the decoder. -/
theorem decodeWords : Obligations.DecodeWords := by
  unfold Obligations.DecodeWords
  refine ⟨?_, ?_, ?_, ?_, ?_, ?_⟩ <;> decide

end Sys2Proof.Proofs
end

section
/-!
SUPPORT. The instructions of R132 must end their run.
-/

namespace Sys2Proof

/-- A word that carries E = 0 where R132 asks for 1 is ill-formed (R132, R138). -/
theorem Ins.wellFormed_of_missing_end {k : Ins} (hop : k.op.mustEnd = true) (he : k.w.e = false) : k.wellFormed = false := by
  have hend : k.endOk = false := by simp [endOk, hop, he]
  simp [wellFormed, hend]

end Sys2Proof
end

section
namespace Sys2Proof.Proofs
open Sys2Proof Sys2Proof.Machine

/-- Settles O51: a word of R132 without E is ill-formed, and O52 says what becomes of an ill-formed word. -/
theorem endBitRequired : Obligations.EndBitRequired := by
  unfold Obligations.EndBitRequired
  intro i k s r hi hop he hr hg
  have hmust : ∀ op ∈ [Op.bra, .brx, .jmp, .call, .ret, .loop, .syncw, .reform, .reformS, .yield, .halt, .haltR, .wait, .trap,
      .eret, .barWait, .barSync, .cvwait, .flumeWait], op.mustEnd = true := by decide
  obtain ⟨hempty, hill, -⟩ := issueOutcomes.1 i k s r _ hi hr hg rfl
  exact ⟨hempty, fun hne => hill hne (Ins.wellFormed_of_missing_end (hmust _ hop) he)⟩

end Sys2Proof.Proofs
end

section
/-!
SUPPORT. An access slice on the uniform datapath: the k registers that its instruction writes are the skidder's own, which neither
stream of the slices shares (R309).
-/

namespace Sys2Proof.Machine
namespace UniformSlice

/-- Thread 0 of a sliced kernel, in context 0 of core 0. -/
def ahead : Thread := { part := 0, launch := 0, wg := 0, home := .scalar 0 0, pc := 0x400000, sliced := true }

/-- LIT with D 8, WU and SL set, and the literal 5 (R119, R127, R128). -/
def word : X96 :=
  { rsv := 0, kb := false, wu := true, sl := true, em := false, ft := 0, y := false, stall := 0, hint := 0, x := 0, c := 0, b := 0
    a := 0, d := 8, ty := 0, minor := 0, gc := false, g2n := false, g2 := 0, g1n := false, g1 := 0, e := false, lit := some 5 }

/-- The run of thread 1. -/
def run : Run := { group := 0, members := [1], pc := 0x400000 }

/-- Thread 0 and its access slice, thread 1, whose run is in progress in the skidder. -/
def running : State :=
  { State.reset with
    threads := [(0, ahead), (1, { ahead with home := .skidder 0 })], focus := skidKey (.scalar 0 0)
    engines := [(skidKey (.scalar 0 0), { run := some run })] }

/-- Nothing stands in the way of the instruction for thread 1. -/
theorem running_clear : Safety.Clear (Safety.semOf .lit) (word.ins .lit) running run 1 [1] := by
  unfold Safety.Clear Safety.Reached
  decide

/-- It writes k8 of the access slice and leaves k8 of thread 0, which has k registers of its own, as it was. -/
theorem running_written : Safety.hasK running 0 = true ∧
    ((running.perform (Safety.semOf .lit) (word.ins .lit) 1 [1]).readK 0 8).val = 0 ∧
    ((running.perform (Safety.semOf .lit) (word.ins .lit) 1 [1]).readK 1 8).val = 5 := by decide +kernel

end UniformSlice
end Sys2Proof.Machine
end

section
namespace Sys2Proof.Proofs
open Sys2Proof Sys2Proof.Machine Sys2Proof.Machine.UniformSlice

/-- Refutes O4 at an instruction that has both WU and SL set: an access slice writes the k registers of its skidder (R309), while
the statement has it write those of the thread it runs ahead of. Here LIT leaves 5 in k8 of the slice, and k8 of its thread is 0. -/
theorem not_uniformResults : ¬ Obligations.UniformResults := by
  unfold Obligations.UniformResults
  intro h
  obtain ⟨t, hexec, -, -, ⟨hwrote, -⟩, -⟩ :=
    h (.lit (.x96 word)) _ running run 1 [1] rfl (by decide) nofun rfl running_clear
  obtain rfl := Host.Outcome.next.inj ((exec_clear rfl running_clear).symm.trans hexec)
  obtain ⟨hasK, hunwritten, -⟩ := running_written
  have h5 := congrArg Reg.val (hwrote hasK 0 (by decide))
  exact absurd (hunwritten.symm.trans h5) (by decide)

end Sys2Proof.Proofs
end

section
/-!
SUPPORT. Instructions that leave a producer for each of their threads (05 R126; 07 R179, R194): the numbers and the contents of the
producers, and what becomes of each thread.
-/

namespace Sys2Proof.Machine
open Sys2Proof.Safety

/-- Entries put under rising numbers from `n`. -/
def Table.putFrom {α : Type} (t : Table α) (n : Nat) : List α → Table α
  | [] => t
  | v :: vs => (t.put n v).putFrom (n + 1) vs

theorem Table.get?_putFrom {α : Type} (t : Table α) (n m : Nat) (vs : List α) :
    (t.putFrom n vs).get? m = if n ≤ m ∧ m < n + vs.length then vs[m - n]? else t.get? m := by
  induction vs generalizing t n with
  | nil => simp [putFrom, show ¬(n ≤ m ∧ m < n) by omega]
  | cons v vs ih =>
    rw [putFrom, ih, get?_put, List.length_cons]
    by_cases hm : m = n
    · subst hm; simp
    · by_cases hin : n + 1 ≤ m ∧ m < n + 1 + vs.length
      · rw [if_pos hin, if_pos (by omega), show m - n = m - (n + 1) + 1 by omega, List.getElem?_cons_succ]
      · rw [if_neg hin, if_neg hm, if_neg (by omega)]

namespace State

/-- A state with its producers and its next number replaced. -/
def making (s : State) (ps : Table Producer) (n : Nat) : State := { s with producers := ps, nextId := n }

variable {s x : State} {t : Nat}

/-! ### What is read beside other producers -/

theorem srcVal_making (x : State) (ps : Table Producer) (n : Nat) (t : Nat) (i : Ins) (f : Fld) :
    (x.making ps n).srcVal t i f = x.srcVal t i f := by
  have hregs : ∀ file idx m, (x.making ps n).regsVal t i f file idx m = x.regsVal t i f file idx m := by
    intro file idx m
    induction m generalizing idx with
    | zero => rfl
    | succ m ih => rw [regsVal, regsVal, ih]; rfl
  have hhome : (x.making ps n).homeOf t = x.homeOf t := rfl
  unfold srcVal
  simp only [hhome, hregs]

theorem homeOf_making (x : State) (ps : Table Producer) (n : Nat) (t : Nat) : (x.making ps n).homeOf t = x.homeOf t := rfl

theorem rounding_making (x : State) (ps : Table Producer) (n : Nat) (t sel m : Nat) :
    ((x.making ps n).rounding t sel m).1 = (x.rounding t sel m).1 ∧
    ((x.making ps n).rounding t sel m).2.1 = (x.rounding t sel m).2.1 := by
  have hd := draws_congr (s := x) (s' := x.making ps n) (t := t) rfl m
  unfold rounding
  have ht : (x.making ps n).thread? t = x.thread? t := rfl
  rw [ht]
  cases x.thread? t with
  | none => exact ⟨rfl, rfl⟩
  | some th =>
    dsimp only
    split
    · exact ⟨rfl, congrArg (List.map drawBits) hd⟩
    · exact ⟨rfl, rfl⟩

/-- What rounding draws changes the generator alone, under mode 5 alone (R107). -/
theorem modThread_rounding (s : State) (t sel n : Nat) (G : Thread → Thread) :
    (s.rounding t sel (n + 1)).2.2.modThread t G =
      s.modThread t fun th => G { th with rng := if modeOf th sel = 5 then rngAfter (n + 1) th.rng else th.rng } := by
  unfold rounding
  cases hth : s.thread? t with
  | none => exact modThread_congr _ _ fun th h => by simp [hth] at h
  | some th =>
    dsimp only
    split
    case isTrue h5 =>
      dsimp only
      rw [draws_state s t n th hth, modThread_modThread]
      refine modThread_congr _ _ fun y hy => ?_
      obtain rfl := Option.some.inj (hth.symm.trans hy)
      rw [if_pos h5]
    case isFalse h5 =>
      refine modThread_congr _ _ fun y hy => ?_
      obtain rfl := Option.some.inj (hth.symm.trans hy)
      rw [if_neg h5]

theorem Agree.issueNo (h : Agree s x t) : x.issueNo = s.issueNo := by
  obtain ⟨T, rfl⟩ := h.outside
  rfl

/-! ### One producer for each thread -/

/-- A fold that changes each thread alone and leaves a producer for it. -/
theorem foldl_making {l : List Nat} (hl : l.Nodup) (f : State → Nat → State) (G : Nat → Thread → Thread) (P : Nat → Producer)
    (s : State)
    (h : ∀ (x : State) u, u ∈ l → { x with threads := s.threads } = s → x.thread? u = s.thread? u → ∀ ps n,
      f (x.making ps n) u = (x.modThread u (G u)).making (ps.put n (P u)) (n + 1)) :
    l.foldl f s = (l.foldl (fun x u => x.modThread u (G u)) s).making (s.producers.putFrom s.nextId (l.map P))
      (s.nextId + l.length) := by
  suffices H : ∀ (todo : List Nat), todo.Nodup → (∀ u ∈ todo, u ∈ l) → ∀ (x : State) ps n, { x with threads := s.threads } = s →
      (∀ u ∈ todo, x.thread? u = s.thread? u) →
      todo.foldl f (x.making ps n) = (todo.foldl (fun x u => x.modThread u (G u)) x).making (ps.putFrom n (todo.map P))
        (n + todo.length) from
    H l hl (fun _ hu => hu) s s.producers s.nextId rfl fun _ _ => rfl
  intro todo hnd
  induction todo with
  | nil => exact fun _ _ _ _ _ _ => rfl
  | cons a r ih =>
    intro hsub x ps n hx ht
    obtain ⟨ha, hr⟩ := List.nodup_cons.1 hnd
    rw [List.foldl_cons, h x a (hsub a (by simp)) hx (ht a (by simp)), ih hr (fun u hu => hsub u (by simp [hu]))]
    · simp only [List.foldl_cons, List.map_cons, Table.putFrom, List.length_cons]
      rw [Nat.add_assoc, Nat.add_comm 1]
    · exact (congrArg (fun y : State => { y with threads := s.threads }) hx :)
    · intro u hu
      rw [thread?_modThread, if_neg (fun e : u = a => ha (e ▸ hu))]
      exact ht u (by simp [hu])

end State

/-- The next state of an instruction that changes each of its threads alone and leaves a producer for each: nothing but threads,
engines and producers differs, the producers take the next numbers in the order of the threads, and each thread holds what `G`
makes of it. -/
theorem effect_of_producers {sem : Sem} {k : Ins} {s : State} {r : Run} {lead : Nat} {go : List Nat}
    {Q : Nat → Thread → Thread → Prop} (f : State → Nat → State) (G : Nat → Thread → Thread) (P : Nat → Producer)
    (hr : Reached sem k s r lead go) (hsl : k.w.sl = false)
    (hact : sem.act k lead go (s.advance k) = go.foldl f (s.advance k))
    (hf : ∀ x u, u ∈ go → State.Agree s x u → ∀ ps n,
      f (x.making ps n) u = (x.modThread u (G u)).making (ps.put n (P u)) (n + 1))
    (hG : ∀ u, Thread.Keeps (G u))
    (hQ : ∀ u ∈ go, ∀ th th', s.thread? u = some th →
      { th' with oq := th.oq } = G u { th with pc := r.pc + BitVec.ofNat 64 k.len } → Q u th th') :
    let t := s.perform sem k lead go
    { t with threads := s.threads, engines := s.engines, producers := s.producers, nextId := s.nextId } = s ∧
    t.nextId = s.nextId + go.length ∧
    (∀ m, t.producers.get? m = if s.nextId ≤ m ∧ m < s.nextId + go.length then (go.map P)[m - s.nextId]?
      else s.producers.get? m) ∧
    Effect s t k r go Q := by
  have hadv := State.advance_threads k hr.1
  have hprod : (s.advance k).producers = s.producers := (congrArg State.producers hadv :)
  have hnext : (s.advance k).nextId = s.nextId := (congrArg State.nextId hadv :)
  have hnd := nodup_of_reached hr
  have hfold := State.foldl_making hnd f G P (s.advance k) fun x u hu hx hxu =>
    hf x u hu (by
      have hb := State.agree_advance k hr.1 u
      refine ⟨((congrArg (fun y : State => { y with threads := s.threads }) hx :)).trans hb.1, by rw [hxu]; exact hb.2.1,
        fun m hm => absurd hm (not_skidder hr hsl hu m)⟩)
  rw [hprod, hnext] at hfold
  generalize hx : go.foldl (fun x u => x.modThread u (G u)) (s.advance k) = x at hfold
  have hx1 : { x with threads := s.threads } = s := by
    subst hx
    exact (congrArg (fun y : State => { y with threads := s.threads }) (State.foldl_modThread_threads go G _) :).trans hadv
  have hxe : ∀ e, x.engine e = s.engine e := fun e => (congrArg (fun y : State => y.engine e) hx1 :)
  have hy := hact.trans hfold
  have hrest := perform_rest sem hsl s lead go
  rw [hy] at hrest
  refine ⟨?_, (congrArg State.nextId hrest :), fun m => ?_, ?_⟩
  · exact (congrArg (fun y : State => { y with
      threads := s.threads, engines := s.engines, producers := s.producers, nextId := s.nextId }) hrest :).trans
      (congrArg (fun y : State => { y with engines := s.engines, producers := s.producers, nextId := s.nextId }) hx1 :)
  · rw [(congrArg State.producers hrest :)]
    exact (Table.get?_putFrom ..).trans (by rw [List.length_map])
  · have hne : go ≠ [] := List.ne_nil_of_mem (lead_mem hr)
    refine State.effect_of_act G hsl hr.1 hr.2.2.1 hne (count_of_reached hr) ?_ ⟨fun e _ _ => ?_, fun e => ?_⟩ (fun u => ?_)
      (fun u th => hG u th) hQ
    · rw [hy]; exact (congrArg State.focus hx1 :)
    · rw [hy]; exact hxe e
    · rw [hy]; exact congrArg unlogged (hxe e)
    · rw [hy, ← State.thread?_foldl_modThread hnd G, hx]
      rfl


/-! ### Special functions and QXMAX -/

theorem Thread.emptyGs_qx (th : Thread) (d n q : Nat) :
    ({ th with qx := q } : Thread).emptyGs d n = { th.emptyGs d n with qx := q } := by
  induction n with
  | zero => rfl
  | succ n ih =>
    rw [emptyGs_succ, emptyGs_succ, ih, emptyG, emptyG]
    split <;> rfl

/-- How many exchanges of a context an instruction counts (R195). -/
def exchanges (k : Ins) : Home → Nat
  | .scalar _ _ => if k.op = .qxmax then 1 else 0
  | _ => 0

/-- A thread that has drawn for FSQRT and counted the exchange of a QXMAX (R107, R195). -/
def drawn (k : Ins) (h : Home) (th : Thread) : Thread :=
  { th with rng := if k.op = .fsqrt then rngRounded k th else th.rng, qx := th.qx + exchanges k h }

/-- What a special function or QXMAX makes of a thread: besides, D is empty (R126). -/
def producing (k : Ins) (h : Home) (th : Thread) : Thread := (drawn k h th).emptyGs k.d (producerRegs k)

variable {k : Ins} {s x : State} {r : Run} {lead u : Nat} {go : List Nat}

theorem producing_frame (k : Ins) (h : Home) (th : Thread) :
    { producing k h th with g := th.g, rng := th.rng, qx := th.qx } = th := by
  have h := Thread.emptyGs_frame (drawn k h th) k.d (producerRegs k)
  exact (congrArg (fun y : Thread => { y with rng := th.rng, qx := th.qx }) h :)

theorem keeps_producing (k : Ins) (h : Home) : Thread.Keeps (producing k h) := fun th => by
  have e := producing_frame k h th
  exact ⟨(congrArg Thread.home e :), (congrArg Thread.oq e :), (congrArg Thread.sliced e :)⟩

/-- The operations of R179 that need no other thread. -/
def specialOps : List Op := [.frcp, .frsq, .fsqrt, .fexp2, .flog2, .fsin, .fcos, .ftanh]

theorem semOf_special : ∀ op ∈ specialOps, semOf op = specialSem := by
  simp only [specialOps, List.forall_mem_cons]
  exact ⟨rfl, rfl, rfl, rfl, rfl, rfl, rfl, rfl, nofun⟩

/-- D is marked empty. -/
theorem emptyD_eq (x : State) (u : Nat) (hop : k.op ∈ .qxmax :: specialOps) :
    x.emptyD u k = x.modThread u fun th => th.emptyGs k.d (producerRegs k) := by
  obtain ⟨op, b, w⟩ := k
  simp only [specialOps, List.mem_cons, List.not_mem_nil, or_false] at hop
  rcases hop with rfl | rfl | rfl | rfl | rfl | rfl | rfl | rfl | rfl <;> rfl

/-- The producer that a thread's share of the instruction leaves. -/
def producerFor (s : State) (k : Ins) (go : List Nat) (u : Nat) : Producer :=
  (s.thread? u).elim (.laneMax u k.d 0 false 0) (producerOf s k go u)

/-- A special function's share for one thread. -/
def specialStep (k : Ins) (x : State) (u : Nat) : State :=
  let p := if k.op = .fsqrt then x.rounding u k.hint 1 else (1, [], x)
  let y := p.2.2.emptyD u k
  { y with
    nextId := y.nextId + 1
    producers := y.producers.put y.nextId (.special u k.op k.d k.ty (x.fltA k u k.ty) (p.1 + 8 * p.2.1.headD 0) y.issueNo) }

theorem specialSem_act (k : Ins) (lead : Nat) (go : List Nat) (x : State) :
    specialSem.act k lead go x = go.foldl (specialStep k) x := rfl

theorem specialStep_making (hop : k.op ∈ specialOps) (hu : ∃ th, s.thread? u = some th) (ha : State.Agree s x u)
    (ps : Table Producer) (n : Nat) : specialStep k (x.making ps n) u =
      (x.modThread u (producing k (s.homeOf u))).making (ps.put n (producerFor s k go u)) (n + 1) := by
  obtain ⟨th, hth⟩ := hu
  have hq : k.op ≠ .qxmax := fun h => by simp [h, specialOps] at hop
  have hA : (x.making ps n).fltA k u k.ty = s.fltA k u k.ty := by
    rw [State.fltA, State.srcVal_making]; exact ha.fltA k k.ty
  have hno : x.issueNo = s.issueNo := ha.issueNo
  have hG : ∀ th, producing k (s.homeOf u) th =
      ({ th with rng := if k.op = .fsqrt then rngRounded k th else th.rng } : Thread).emptyGs k.d (producerRegs k) := fun th => by
    have hnone : exchanges k (s.homeOf u) = 0 := by
      unfold exchanges; split <;> simp [hq]
    simp only [producing, drawn, hnone, Nat.add_zero]
  have hP : producerFor s k go u = .special u k.op k.d k.ty (s.fltA k u k.ty)
      (if k.op = .fsqrt then (s.rounding u k.hint 1).1 + 8 * (s.rounding u k.hint 1).2.1.headD 0 else 1) s.issueNo := by
    simp only [producerFor, hth, Option.elim, producerOf, if_neg hq]
  unfold specialStep
  rw [hP, funext hG]
  simp only [emptyD_eq _ u (List.mem_cons_of_mem _ hop), hA]
  by_cases hs : k.op = .fsqrt
  · have h1 := State.rounding_making x ps n u k.hint 1
    have h2 := ha.rounding k.hint 1
    have h3 := State.modThread_rounding (x.making ps n) u k.hint 0 fun th => th.emptyGs k.d (producerRegs k)
    have hround : ∀ th, (if modeOf th k.hint = 5 then rngAfter 1 th.rng else th.rng) = rngRounded k th := fun th => by
      simp [rngRounded, roundDraws, hs]
    simp only [hround] at h3
    simp only [if_pos hs, h3, h1.1, h1.2, h2.1, h2.2, ← hno]
    rfl
  · simp only [if_neg hs, ← hno]
    rfl

/-- QXMAX's share for one thread, given what each contributes and the maximum of each group (R194). -/
def qxmaxStep (k : Ins) (val : Nat → W32) (top : Nat → W32 × FFlags) (x : State) (u : Nat) : State :=
  match x.homeOf u, x.thread? u with
  | .scalar c ctx, some th =>
    let y := x.emptyD u k
    let z := { y with nextId := y.nextId + 1 }.modThread u fun th => { th with qx := th.qx + 1 }
    { z with producers := z.producers.put y.nextId (.qxmax u c ctx th.launch k.d (k.ty == 0x0E) th.qx (val u)) }
  | _, _ =>
    let y := x.emptyD u k
    { y with
      nextId := y.nextId + 1
      producers := y.producers.put y.nextId (.laneMax u k.d (top u).1 (top u).2.iv y.issueNo) }

/-- The maximum of a thread's group among the threads of a QXMAX (R194). -/
def groupMax (s : State) (k : Ins) (go : List Nat) (u : Nat) : W32 × FFlags :=
  let w := if k.x = 0 then 4 else 16
  maxOf (k.ty == 0x0E) ((go.filter fun v => (s.homeOf v).lane / w == (s.homeOf u).lane / w).map fun v =>
    BitVec.ofNat 32 (s.srcVal v k .a))

theorem qxmaxSem_act (k : Ins) (lead : Nat) (go : List Nat) (x : State) :
    qxmaxSem.act k lead go x = go.foldl (qxmaxStep k (fun v => BitVec.ofNat 32 (x.srcVal v k .a)) (groupMax x k go)) x :=
  List.foldl_map ..

theorem qxmaxStep_making (hop : k.op = .qxmax) {val : Nat → W32} {top : Nat → W32 × FFlags} (hu : ∃ th, s.thread? u = some th)
    (hval : val u = BitVec.ofNat 32 (s.srcVal u k .a)) (htop : top u = groupMax s k go u)
    (ha : State.Agree s x u) (ps : Table Producer) (n : Nat) : qxmaxStep k val top (x.making ps n) u =
      (x.modThread u (producing k (s.homeOf u))).making (ps.put n (producerFor s k go u)) (n + 1) := by
  obtain ⟨th, hth⟩ := hu
  obtain ⟨pc, hx⟩ : ∃ pc, x.thread? u = some { th with pc := pc } := by
    rcases ha.cases with ⟨hnone, -⟩ | ⟨th', pc, h1, h2⟩
    · rw [hth] at hnone; cases hnone
    · rw [hth] at h1; cases h1; exact ⟨pc, h2⟩
  have hno : x.issueNo = s.issueNo := ha.issueNo
  have hhome : (x.making ps n).homeOf u = s.homeOf u := ha.homeOf
  have hxm : (x.making ps n).thread? u = some { th with pc := pc } := hx
  have hs : k.op ≠ .fsqrt := by rw [hop]; nofun
  have hP : producerFor s k go u = match s.homeOf u with
      | .scalar c ctx => .qxmax u c ctx th.launch k.d (k.ty == 0x0E) th.qx (val u)
      | _ => .laneMax u k.d (top u).1 (top u).2.iv s.issueNo := by
    simp only [producerFor, hth, Option.elim, producerOf, if_pos hop, hval, htop]
    rfl
  have hempty := emptyD_eq (x.making ps n) u (show k.op ∈ .qxmax :: specialOps by simp [hop])
  unfold qxmaxStep
  simp only [hhome, hxm, hempty]
  rw [hP]
  cases s.homeOf u with
  | scalar c ctx =>
    have hG : (fun th : Thread => { th.emptyGs k.d (producerRegs k) with qx := (th.emptyGs k.d (producerRegs k)).qx + 1 }) =
        producing k (.scalar c ctx) := by
      funext th
      have hqx : (th.emptyGs k.d (producerRegs k)).qx = th.qx := (congrArg Thread.qx (Thread.emptyGs_frame th _ _) :)
      rw [producing, drawn, exchanges, if_pos hop, if_neg hs, ← hqx]
      exact (Thread.emptyGs_qx ..).symm
    have h := State.modThread_modThread x u (fun th => th.emptyGs k.d (producerRegs k)) fun th => { th with qx := th.qx + 1 }
    rw [hG] at h
    exact (congrArg (fun y : State => y.making (ps.put n (.qxmax u c ctx th.launch k.d (k.ty == 0x0E) th.qx (val u))) (n + 1)) h :)
  | _ =>
    have hG : (fun th : Thread => th.emptyGs k.d (producerRegs k)) = producing k (.plist 0) := by
      funext th
      rw [producing, drawn, if_neg hs]
      rfl
    rw [← hno, hG]
    rfl

/-- Groups are formed and compared alike once the program counters have moved on. -/
theorem groupMax_advance {r : Run} (hrun : s.run? = some r) (k : Ins) (go : List Nat) (u : Nat) :
    groupMax (s.advance k) k go u = groupMax s k go u := by
  have hhome : ∀ v, (s.advance k).homeOf v = s.homeOf v := fun v => (State.agree_advance k hrun v).homeOf
  have hsrc : ∀ v, (s.advance k).srcVal v k .a = s.srcVal v k .a := fun v => (State.agree_advance k hrun v).srcVal k .a
  simp only [groupMax, hhome, hsrc]

/-- Either of the two leaves for each thread its producer and its thread as `producing` makes it. -/
theorem producers_act (hr : Reached (semOf k.op) k s r lead go) (hop : k.op ∈ .qxmax :: specialOps) :
    ∃ f, (semOf k.op).act k lead go (s.advance k) = go.foldl f (s.advance k) ∧
      ∀ x u, u ∈ go → State.Agree s x u → ∀ ps n,
        f (x.making ps n) u = (x.modThread u (producing k (s.homeOf u))).making (ps.put n (producerFor s k go u)) (n + 1) := by
  rcases List.mem_cons.1 hop with hq | hspecial
  · rw [hq]
    refine ⟨_, qxmaxSem_act k lead go (s.advance k), fun x u hu ha ps n => ?_⟩
    refine qxmaxStep_making hq (State.active_of_reached hr hu).2 ?_ (groupMax_advance hr.1 k go u) ha ps n
    rw [(State.agree_advance k hr.1 u).srcVal]
  · rw [semOf_special _ hspecial]
    exact ⟨_, specialSem_act k lead go (s.advance k), fun x u hu ha ps n =>
      specialStep_making hspecial (State.active_of_reached hr hu).2 ha ps n⟩

/-- What becomes of a thread: it has moved on, D is empty, and FSQRT and QXMAX leave their marks. -/
theorem producing_spec {th th' : Thread} {h : Home}
    (he : { th' with oq := th.oq } = producing k h { th with pc := r.pc + BitVec.ofNat 64 k.len }) :
    PastBut k r th th' (fun x => { x with g := th.g, rng := th.rng, qx := th.qx }) ∧
    (∀ j < producerRegs k, k.d + j ≠ 0 → (th'.readG (k.d + j)).full = false) ∧
    (∀ m, m < k.d ∨ k.d + producerRegs k ≤ m → th'.readG m = th.readG m) ∧
    th'.rng = (if k.op = .fsqrt then rngRounded k th else th.rng) ∧ th'.qx = th.qx + exchanges k h := by
  have hreg : ∀ m, th'.readG m = _ := fun m => (congrArg (fun y : Thread => y.readG m) he :).trans (Thread.readG_emptyGs ..)
  have hleft := Thread.emptyGs_frame (drawn k h { th with pc := r.pc + BitVec.ofNat 64 k.len }) k.d (producerRegs k)
  refine ⟨past_of_frame (fun _ => rfl) (fun _ => rfl) he (producing_frame ..), fun j hj h0 => ?_, fun m hm => ?_, ?_, ?_⟩
  · rw [hreg, if_pos (by omega)]
  · rw [hreg, if_neg (by omega)]
    rfl
  · exact (congrArg Thread.rng he :).trans (congrArg Thread.rng hleft :)
  · exact (congrArg Thread.qx he :).trans (congrArg Thread.qx hleft :)

end Sys2Proof.Machine
end

section
namespace Sys2Proof.Proofs
open Sys2Proof Sys2Proof.Machine Sys2Proof.Safety

/-- Settles O15: each thread's share of the instruction leaves one producer, under the next number, and changes that thread alone. -/
theorem producerResults : Obligations.ProducerResults := by
  unfold Obligations.ProducerResults
  intro i k s r lead go hi hop h
  have hop' : k.op ∈ .qxmax :: specialOps := by
    simp only [specialOps, List.mem_cons, List.not_mem_nil, or_false] at hop ⊢
    tauto
  have hsl : k.w.sl = false := sl_of_reached h.1 ((show ∀ op ∈ Op.qxmax :: specialOps, op.sliceable = false by decide) _ hop')
  obtain ⟨f, hact, hf⟩ := producers_act h.1 hop'
  obtain ⟨hrest, hnext, hprod, heff⟩ := effect_of_producers f (fun u => producing k (s.homeOf u)) (producerFor s k go) h.1 hsl hact
    hf (fun u => keeps_producing k (s.homeOf u)) fun u _ th th' _ he => producing_spec he
  refine ⟨_, exec_clear hi h, hrest, hnext, fun j u hj th hth => ?_, fun n hn => ?_, heff.1, fun u hu th hth => ?_⟩
  · have hlt : j < go.length := (List.getElem?_eq_some_iff.1 hj).1
    rw [hprod, if_pos (by omega), Nat.add_sub_cancel_left, List.getElem?_map, hj]
    simp [producerFor, hth]
  · rw [hprod, if_neg (by omega)]
  · obtain ⟨th', hth', hin, hout⟩ := heff.2 u hu th hth
    refine ⟨th', hth', fun hgo => ?_, hout⟩
    obtain ⟨hpop, hpast, hempty, hkept, hrng, hqx⟩ := hin hgo
    refine ⟨hpop, hpast, hempty, hkept, hrng, hqx.trans ?_⟩
    unfold exchanges
    cases s.homeOf u with
    | scalar c ctx => dsimp only; split <;> rfl
    | _ => rfl

end Sys2Proof.Proofs
end

section
/-!
SUPPORT. Majors 0x01 to 0x25 (06 R147-R150): which registers their D names, and what each makes of one thread.
-/

namespace Sys2Proof.Machine
open Sys2Proof.Safety

variable {k : Ins} {s x y : State} {u : Nat}

/-! ### The fields of the words -/

/-- D names as many general registers as the operation writes, aligned to their number (R130, R147). -/
theorem fields_word_d (hop : k.op ∈ wordOps) (hmov : k.op = .mov → k.w.kb = true ∨ k.x ≠ 1) (wave : Bool) :
    (k.fields wave).d = .dst .g k.d (wordRegs k) (wordRegs k) := by
  have hfile : k.op = .mov → (k.x = 1 && !k.w.kb) = false := fun h => by
    rcases hmov h with h | h <;> simp [h]
  obtain ⟨op, b, w⟩ := k
  cases op <;> simp [wordOps, intOps] at hop
  case mov => simp [Ins.fields, hfile rfl, wordRegs]
  all_goals rfl

/-- No other field names a destination. -/
theorem fields_word_sources (hop : k.op ∈ wordOps) (wave : Bool) :
    (k.fields wave).a.writes = none ∧ (k.fields wave).b.writes = none ∧ (k.fields wave).c.writes = none ∧
    (k.fields wave).x.writes = none := by
  obtain ⟨op, b, w⟩ := k
  cases op <;> simp [wordOps, intOps] at hop
  all_goals exact ⟨rfl, rfl, rfl, rfl⟩

/-- Their types are the integer ones. -/
theorem fields_word_types (hop : k.op ∈ wordOps) : ((k.fields false).types.all (decide <| · < 10)) = true := by
  obtain ⟨op, b, w⟩ := k
  cases op <;> simp [wordOps, intOps] at hop
  all_goals rfl

theorem intRegs_of_lt {ty : Nat} (h : ty < 10) : intRegs ty = 1 ∨ intRegs ty = 2 := by
  interval_cases ty <;> decide

/-- They write one register or a pair. -/
theorem wordRegs_le (hop : k.op ∈ wordOps) (hwf : k.wellFormed = true) : wordRegs k = 1 ∨ wordRegs k = 2 := by
  have htype : k.typeOk = true := by
    simp only [Ins.wellFormed, Bool.and_eq_true] at hwf
    tauto
  have hty : k.ty < 10 := of_decide_eq_true (List.all_eq_true.1 (fields_word_types hop) _ (List.contains_iff_mem.1 htype))
  unfold wordRegs
  split
  · split <;> simp
  · exact .inr rfl
  · exact .inr rfl
  · exact intRegs_of_lt hty

/-- D is aligned, so that its registers are operand queues all together or not at all (R127, R130). -/
theorem wordRegs_aligned (hop : k.op ∈ wordOps) (hmov : k.op = .mov → k.w.kb = true ∨ k.x ≠ 1) (hwf : k.wellFormed = true) :
    k.d % wordRegs k = 0 := by
  have hoperands : k.operandsOk = true := by
    simp only [Ins.wellFormed, Bool.and_eq_true] at hwf
    tauto
  simp only [Ins.operandsOk, Bool.and_eq_true, fields_word_d hop hmov, Use.fieldOk, beq_iff_eq] at hoperands
  tauto

theorem destsOf_eq_writes (k : Ins) (wave : Bool) : State.destsOf k wave = Fld.order.flatMap fun f =>
    (f.use k wave).writes.elim [] fun w => (List.range w.2.2).map fun j => (f, w.1, w.2.1 + j) := by
  unfold State.destsOf
  congr 1
  funext f
  cases f.use k wave <;> rfl

theorem replaced_fst (f : Fields) (k : Ins) : (f.replaced k).1 = .unused ∨ (f.replaced k).1 = f.b := by
  unfold Fields.replaced
  split
  · exact .inl rfl
  · exact .inl rfl
  · dsimp only; split <;> simp
  · dsimp only; split <;> simp

theorem replaced_snd (f : Fields) (k : Ins) : (f.replaced k).2 = .unused ∨ (f.replaced k).2 = f.c := by
  unfold Fields.replaced
  split
  · exact .inr rfl
  · exact .inr rfl
  · exact .inl rfl
  · exact .inr rfl

/-- The destinations are D's registers. -/
theorem destsOf_word (hop : k.op ∈ wordOps) (hmov : k.op = .mov → k.w.kb = true ∨ k.x ≠ 1) (wave : Bool) :
    State.destsOf k wave = (List.range' k.d (wordRegs k)).map fun m => (.d, .g, m) := by
  obtain ⟨ha, hb, hc, hx⟩ := fields_word_sources hop wave
  have hb' : (Fld.b.use k wave).writes = none := by
    rcases replaced_fst (k.fields wave) k with h | h
    · exact congrArg Use.writes h
    · exact (congrArg Use.writes h).trans hb
  have hc' : (Fld.c.use k wave).writes = none := by
    rcases replaced_snd (k.fields wave) k with h | h
    · exact congrArg Use.writes h
    · exact (congrArg Use.writes h).trans hc
  have hx' : (Fld.x.use k wave).writes = none := by
    simp only [Fld.use]
    split
    · rfl
    · exact hx
  have hd : (Fld.d.use k wave).writes = some (.g, k.d, wordRegs k) := by
    simp only [Fld.use, fields_word_d hop hmov]
    rfl
  have ha' : (Fld.a.use k wave).writes = none := ha
  rw [destsOf_eq_writes, List.range'_eq_map_range, List.map_map]
  simp [Fld.order, ha', hb', hc', hx', hd, Function.comp_def]

/-! ### The effect on one thread -/

/-- One thread's share: the add family's carry, and the value in D. -/
def wordStep (k : Ins) (x : State) (u : Nat) : State :=
  (if k.op ∈ carryOps then x.modThread u fun th => { th with carry := x.intCarry k u } else x).writeD u k (wordValue x k u)

theorem semOf_int : ∀ op ∈ intOps, semOf op = intSem := by
  simp only [intOps, List.forall_mem_cons]
  simp [semOf]

theorem wordValue_int (hop : k.op ∈ intOps) (x : State) (u : Nat) : wordValue x k u = x.intValue k u := by
  obtain ⟨op, b, w⟩ := k
  cases op <;> simp [intOps] at hop
  all_goals rfl

theorem intEffect_eq (hop : k.op ∈ intOps) (hwu : k.w.wu = false) (ts : List Nat) (x : State) (u : Nat) :
    intEffect k ts u x = wordStep k x u := by
  have hchain : (k.op == .add || k.op == .sub || k.op == .addc || k.op == .subb) = decide (k.op ∈ carryOps) := by
    simp [carryOps, Bool.or_assoc, Bool.decide_or, beq_eq_decide]
  simp only [intEffect, wordStep, hchain, hwu, wordValue_int hop, decide_eq_true_eq, Bool.false_eq_true, if_false,
    List.foldl_cons, List.foldl_nil]

theorem perThread_eq (hwu : k.w.wu = false) (f : Nat → State → State) (ts : List Nat) (x : State) :
    perThread k f ts x = ts.foldl (fun x u => f u x) x := by simp [perThread, hwu]

theorem move_act (hop : k.op ∈ [Op.sel, .mov, .lit, .lea, .leam]) (lead : Nat) (go : List Nat) (x : State) :
    (semOf k.op).act k lead go x = perThread k (fun u x => x.writeD u k (wordValue x k u)) go x := by
  obtain ⟨op, b, w⟩ := k
  simp only [List.mem_cons, List.not_mem_nil, or_false] at hop
  rcases hop with rfl | rfl | rfl | rfl | rfl
  case inl => simp only [semOf, selSem, wordValue, Nat.cast_ite]
  all_goals rfl

/-- Off the uniform datapath the effect takes each thread in turn. -/
theorem act_word (hop : k.op ∈ wordOps) (hwu : k.w.wu = false) (lead : Nat) (go : List Nat) (x : State) :
    (semOf k.op).act k lead go x = go.foldl (wordStep k) x := by
  rcases List.mem_append.1 hop with hint | hmove
  · rw [semOf_int _ hint]
    exact (perThread_eq hwu ..).trans (congrArg (fun f => go.foldl f x) (funext₂ fun x u => intEffect_eq hint hwu go x u))
  · have hcarry : k.op ∉ carryOps := (show ∀ op ∈ [Op.sel, .mov, .lit, .lea, .leam], op ∉ carryOps by decide) _ hmove
    have hstep : wordStep k = fun x u => x.writeD u k (wordValue x k u) := by
      funext x u
      rw [wordStep, if_neg hcarry]
    rw [move_act hmove, perThread_eq hwu, hstep]

theorem State.Agree.wordValue (h : Agree s x u) (k : Ins) : wordValue x k u = wordValue s k u := by
  unfold Safety.wordValue
  simp only [h.selTakes, h.srcVal, h.intB, h.leaValue, h.leamXY, h.wordB, h.intValue]

/-! ### Pushing -/

/-- The words of a number, lowest first. -/
def words (v : Nat) : Nat → List W32
  | 0 => []
  | n + 1 => BitVec.ofNat 32 v :: words (v / 2 ^ 32) n

theorem words_get? {v n j : Nat} (hj : j < n) : (words v n)[j]? = some (BitVec.ofNat 32 (v / 2 ^ (32 * j))) := by
  induction n generalizing v j with
  | zero => omega
  | succ n ih =>
    cases j with
    | zero => simp [words]
    | succ j =>
      rw [words, List.getElem?_cons_succ, ih (by omega), Nat.div_div_eq_div_mul, ← Nat.pow_add, Nat.mul_succ, Nat.add_comm 32]

@[simp] theorem length_words (v n : Nat) : (words v n).length = n := by
  induction n generalizing v with
  | zero => rfl
  | succ n ih => simp [words, ih]

namespace Thread

/-- A thread with a word pushed onto each of the queues from `q` on (R309). -/
def pushAll (th : Thread) (q : Nat) : List W32 → Thread
  | [] => th
  | v :: vs => pushAll { th with oq := th.oq.put q (th.oq.getD q [] ++ [{ val := v }]), popWait := false } (q + 1) vs

theorem pushAll_frame (th : Thread) (q : Nat) (vs : List W32) :
    { th.pushAll q vs with oq := th.oq, popWait := th.popWait } = th := by
  induction vs generalizing th q with
  | nil => rfl
  | cons v vs ih =>
    have h := ih { th with oq := th.oq.put q (th.oq.getD q [] ++ [{ val := v }]), popWait := false } (q + 1)
    exact (congrArg (fun x : Thread => { x with oq := th.oq, popWait := th.popWait }) h :)

theorem pushAll_oq_same (th : Thread) {q p : Nat} {vs : List W32} (hp : p < q ∨ q + vs.length ≤ p) :
    (th.pushAll q vs).oq.getD p [] = th.oq.getD p [] := by
  induction vs generalizing th q with
  | nil => rfl
  | cons v vs ih =>
    simp only [List.length_cons] at hp
    have hne : p ≠ q := by omega
    rw [pushAll, ih _ (by omega)]
    simp [Table.getD_def, hne]

theorem pushAll_oq (th : Thread) {q j : Nat} {vs : List W32} {v : W32} (hj : vs[j]? = some v) :
    (th.pushAll q vs).oq.getD (q + j) [] = th.oq.getD (q + j) [] ++ [{ val := v }] := by
  induction vs generalizing th q j with
  | nil => simp at hj
  | cons w vs ih =>
    cases j with
    | zero =>
      rw [pushAll, pushAll_oq_same _ (by omega)]
      simp only [List.getElem?_cons_zero, Option.some.injEq] at hj
      simp [Table.getD_def, hj]
    | succ j =>
      have h := ih { th with oq := th.oq.put q (th.oq.getD q [] ++ [{ val := w }]), popWait := false } (q := q + 1) hj
      rw [show q + (j + 1) = q + 1 + j by omega, pushAll, h]
      simp [Table.getD_def, show q + 1 + j ≠ q by omega]

end Thread

namespace State

theorem pushQueue_eq (s : State) (m q : Nat) (v : W32) : s.pushQueue m q { val := v } = s.modThread m (·.pushAll q [v]) := rfl

/-- Pushing onto the queues of another thread changes nothing of the one that pushes. -/
theorem thread?_pushQueue {m : Nat} (hm : m ≠ u) (q : Nat) (e : QEntry) : (s.pushQueue m q e).thread? u = s.thread? u :=
  (thread?_modThread ..).trans (if_neg (Ne.symm hm))

theorem mainOf_congr (h : x.thread? u = s.thread? u) : x.mainOf u = s.mainOf u := by rw [mainOf, h, mainOf]

theorem isQueue_of_thread (h : x.thread? u = s.thread? u) (k : Ins) (n : Nat) : x.isQueue u k .g n = s.isQueue u k .g n := by
  rw [isQueue, h, isQueue]

/-- Writing registers that are operand queues pushes their words onto the queues of the thread run ahead of (R127). -/
theorem writeRegs_queues (hwu : k.w.wu = false) (hsl : k.w.sl = true) (hmain : s.mainOf u ≠ u) (d v n : Nat) (hd : 60 ≤ d)
    (hq : ∀ m, d ≤ m → m < d + (n + 1) → s.isQueue u k .g m = true) :
    s.writeRegs u k .g d v (n + 1) = s.modThread (s.mainOf u) (·.pushAll (d - 60) (words v (n + 1))) := by
  induction n generalizing s d v with
  | zero =>
    simp only [writeRegs, writeReg, effFile, hwu, hsl, hq d (by omega) (by omega)]
    rfl
  | succ n ih =>
    have hfirst : s.writeReg u k .g d (BitVec.ofNat 32 v) = s.pushQueue (s.mainOf u) (d - 60) { val := BitVec.ofNat 32 v } := by
      simp only [writeReg, effFile, hwu, hsl, hq d (by omega) (by omega)]
      rfl
    have hself := thread?_pushQueue (s := s) hmain (d - 60) { val := BitVec.ofNat 32 v }
    have hmain' := mainOf_congr hself
    rw [writeRegs, hfirst, ih (by rwa [hmain']) (d + 1) _ (by omega) fun m h1 h2 => ?_, hmain', pushQueue_eq, modThread_modThread]
    · rw [show d + 1 - 60 = d - 60 + 1 by omega]
      rfl
    · rw [isQueue_of_thread hself]
      exact hq m (by omega) (by omega)

/-- The free values of an idle lane's entries (R309, log 134). -/
def freeWords (i n : Nat) : List W32 := (List.range' i n).map Config.guardedPush

/-- The pushes made for an idle lane, onto queues `d - 60` on. -/
theorem foldl_pushIdle (hmain : s.mainOf u ≠ u) (d n : Nat) (hd : 60 ≤ d)
    (hq : ∀ m, d ≤ m → m < d + (n + 1) → s.isQueue u k .g m = true) :
    ((List.range' d (n + 1)).map fun m => (Fld.d, RFile.g, m)).foldl (fun s q =>
      if s.isQueue u k q.2.1 q.2.2 then
        let (i, s) := s.fresh
        s.pushQueue (s.mainOf u) (q.2.2 - 60) { val := Config.guardedPush i }
      else s) s =
    { s.modThread (s.mainOf u) (·.pushAll (d - 60) (freeWords s.nextId (n + 1))) with nextId := s.nextId + (n + 1) } := by
  induction n generalizing s d with
  | zero =>
    rw [List.range'_succ, List.map_cons, List.foldl_cons, if_pos (hq d (by omega) (by omega))]
    rfl
  | succ n ih =>
    rw [List.range'_succ, List.map_cons, List.foldl_cons, if_pos (hq d (by omega) (by omega))]
    have hself := thread?_pushQueue (s := s.fresh.2) (u := u) (m := s.mainOf u) hmain (d - 60)
      { val := Config.guardedPush s.nextId }
    have hmain' := mainOf_congr (s := s) hself
    refine (ih (s := s.fresh.2.pushQueue (s.mainOf u) (d - 60) { val := Config.guardedPush s.nextId }) (by rwa [hmain']) (d + 1)
      (by omega) fun m h1 h2 => ?_).trans ?_
    · rw [isQueue_of_thread (s := s) hself]
      exact hq m (by omega) (by omega)
    · rw [hmain', pushQueue_eq, modThread_modThread, show d + 1 - 60 = d - 60 + 1 by omega]
      have hnext : s.nextId + 1 + (n + 1) = s.nextId + (n + 1 + 1) := by omega
      exact congrArg (fun i => { s.modThread (s.mainOf u) (·.pushAll (d - 60) (freeWords s.nextId (n + 1 + 1))) with nextId := i })
        hnext

/-! ### Folds over access slices -/

/-- Only thread `u` and thread `m` may differ, as `G` and `H` say. -/
structure Reaches (u m : Nat) (G H : Thread → Thread → Prop) (x y : State) : Prop where
  others : ∀ v, v ≠ u → v ≠ m → y.thread? v = x.thread? v
  own : Option.Rel G (x.thread? u) (y.thread? u)
  main : Option.Rel H (x.thread? m) (y.thread? m)

theorem rel_map {G : Thread → Thread → Prop} {f : Thread → Thread} (o : Option Thread) (h : ∀ th, o = some th → G th (f th)) :
    Option.Rel G o (o.map f) := by
  cases o with
  | none => exact .none
  | some th => exact .some (h th rfl)

theorem rel_same {G : Thread → Thread → Prop} (o : Option Thread) (h : ∀ th, o = some th → G th th) : Option.Rel G o o := by
  simpa using rel_map (f := id) o h

theorem rel_trans {G G' G'' : Thread → Thread → Prop} {o o' o'' : Option Thread} (h : Option.Rel G o o')
    (h' : Option.Rel G' o' o'') (hG : ∀ a b c, G a b → G' b c → G'' a c) : Option.Rel G'' o o'' := by
  cases h with
  | none => cases h'; exact .none
  | some h => cases h' with | some h' => exact .some (hG _ _ _ h h')

theorem reaches_own {m : Nat} {G H : Thread → Thread → Prop} {f : Thread → Thread} (hm : m ≠ u)
    (hf : ∀ th, x.thread? u = some th → G th (f th)) (hH : ∀ th, H th th) : Reaches u m G H x (x.modThread u f) where
  others v hv _ := by rw [thread?_modThread, if_neg hv]
  own := by rw [thread?_modThread, if_pos rfl]; exact rel_map _ hf
  main := by
    rw [thread?_modThread, if_neg hm]
    exact rel_same _ fun th _ => hH th

theorem reaches_main {m : Nat} {G H : Thread → Thread → Prop} {f : Thread → Thread} (hm : m ≠ u)
    (hG : ∀ th, G th th) (hf : ∀ th, x.thread? m = some th → H th (f th)) : Reaches u m G H x (x.modThread m f) where
  others v _ hv := by rw [thread?_modThread, if_neg hv]
  own := by
    rw [thread?_modThread, if_neg hm.symm]
    exact rel_same _ fun th _ => hG th
  main := by rw [thread?_modThread, if_pos rfl]; exact rel_map _ hf

/-- A fold over threads that each reach only themselves and the thread they run ahead of, judged where both are as they were. -/
theorem foldl_reaches {l : List Nat} {m : Nat → Nat} {I : State → Prop} {f : State → Nat → State} {b : State}
    {G H : Nat → Thread → Thread → Prop} (hl : l.Nodup) (hout : ∀ u ∈ l, ∀ v ∈ l, m u ≠ v)
    (hinj : ∀ u ∈ l, ∀ v ∈ l, m u = m v → u = v) (hb : I b)
    (hstep : ∀ x, I x → ∀ u ∈ l, x.thread? u = b.thread? u → x.thread? (m u) = b.thread? (m u) →
      I (f x u) ∧ Reaches u (m u) (G u) (H u) x (f x u)) :
    I (l.foldl f b) ∧ (∀ v, v ∉ l → (∀ u ∈ l, v ≠ m u) → (l.foldl f b).thread? v = b.thread? v) ∧
    ∀ u ∈ l, Option.Rel (G u) (b.thread? u) ((l.foldl f b).thread? u) ∧
      Option.Rel (H u) (b.thread? (m u)) ((l.foldl f b).thread? (m u)) := by
  induction l generalizing b with
  | nil => exact ⟨hb, fun _ _ _ => rfl, fun u hu => by simp at hu⟩
  | cons a l ih =>
    obtain ⟨ha, hl⟩ := List.nodup_cons.1 hl
    obtain ⟨hI, hothers, hown, hmain⟩ := hstep b hb a (by simp) rfl rfl
    have hma : ∀ v ∈ a :: l, m a ≠ v := hout a (by simp)
    have hself : ∀ u ∈ l, (f b a).thread? u = b.thread? u := fun u hu =>
      hothers u (fun e => ha (e ▸ hu)) (hma u (by simp [hu])).symm
    have hmains : ∀ u ∈ l, (f b a).thread? (m u) = b.thread? (m u) := fun u hu =>
      hothers (m u) (hout u (by simp [hu]) a (by simp)) fun e => ha (hinj u (by simp [hu]) a (by simp) e ▸ hu)
    obtain ⟨hIl, hrest, hrel⟩ := ih hl (fun u hu v hv => hout u (by simp [hu]) v (by simp [hv]))
      (fun u hu v hv => hinj u (by simp [hu]) v (by simp [hv])) hI fun x hx u hu h1 h2 =>
        hstep x hx u (by simp [hu]) (h1.trans (hself u hu)) (h2.trans (hmains u hu))
    refine ⟨hIl, fun v hv hm => ?_, fun u hu => ?_⟩
    · simp only [List.mem_cons, not_or] at hv
      exact (hrest v hv.2 fun u hu => hm u (by simp [hu])).trans (hothers v hv.1 (hm a (by simp)))
    · rcases List.mem_cons.1 hu with rfl | hu
      · refine ⟨?_, ?_⟩
        · rw [List.foldl_cons, hrest u ha fun v hv => (hout v (by simp [hv]) u (by simp)).symm]
          exact hown
        · rw [List.foldl_cons, hrest (m u) (fun h => hma (m u) (by simp [h]) rfl) fun v hv e =>
            ha (hinj u (by simp) v (by simp [hv]) e ▸ hv)]
          exact hmain
      · obtain ⟨h1, h2⟩ := hrel u hu
        rw [hself u hu] at h1
        rw [hmains u hu] at h2
        exact ⟨h1, h2⟩

end State

end Sys2Proof.Machine
end

section
/-!
SUPPORT. What an access slice's instruction of majors 0x01 to 0x25 makes of its own thread and of the one it runs ahead of
(R127, R309).
-/

namespace Sys2Proof.Machine
open Sys2Proof.Safety

variable {k : Ins} {s x y : State} {u : Nat}

/-- D names operand queues (R127). -/
def Queued (k : Ins) : Prop := 60 ≤ k.d ∧ k.d < 64

/-- The queues that the registers of D name. -/
def Feeds (k : Ins) (q : Nat) : Prop := 60 ≤ k.d ∧ k.d < 64 ∧ k.d ≤ 60 + q ∧ 60 + q < k.d + wordRegs k

/-- Each queue that D names has an entry more, as `E` says of it; nothing else of the thread changes. -/
structure Fed (k : Ins) (E : Nat → W32 → Prop) (th th' : Thread) : Prop where
  rest : { th' with oq := th.oq, popWait := th.popWait } = th
  unfed : ¬Queued k → th' = th
  queue : ∀ q, Feeds k q → ∃ v, E q v ∧ th'.oq.getD q [] = th.oq.getD q [] ++ [{ val := v }]
  other : ∀ q, ¬Feeds k q → th'.oq.getD q [] = th.oq.getD q []

theorem Fed.refl {E : Nat → W32 → Prop} (h : ¬Queued k) (th : Thread) : Fed k E th th where
  rest := rfl
  unfed _ := rfl
  queue _ hq := absurd ⟨hq.1, hq.2.1⟩ h
  other _ _ := rfl

theorem fed_pushAll {E : Nat → W32 → Prop} {vs : List W32} (h : Queued k) (hlen : vs.length = wordRegs k)
    (hE : ∀ j v, vs[j]? = some v → E (k.d - 60 + j) v) (th : Thread) : Fed k E th (th.pushAll (k.d - 60) vs) where
  rest := th.pushAll_frame ..
  unfed hn := absurd h hn
  queue q hq := by
    obtain ⟨h60, -, hle, hlt⟩ := hq
    have hj : 60 + q - k.d < vs.length := by omega
    have hget : vs[60 + q - k.d]? = some vs[60 + q - k.d] := List.getElem?_eq_getElem hj
    have hindex : k.d - 60 + (60 + q - k.d) = q := by omega
    refine ⟨vs[60 + q - k.d], hindex ▸ hE _ _ hget, ?_⟩
    simpa only [hindex] using th.pushAll_oq (q := k.d - 60) hget
  other q hq := th.pushAll_oq_same (by
    have hn : ¬(k.d ≤ 60 + q ∧ 60 + q < k.d + wordRegs k) := fun h' => hq ⟨h.1, h.2, h'⟩
    have := h.1
    omega)

/-- An access slice's own thread: the add family's carry and, where D names no queue, the words of the value in D. -/
structure Slid (k : Ins) (c : Bool) (v : Nat) (th th' : Thread) : Prop where
  rest : { th' with g := th.g, carry := th.carry } = th
  carry : th'.carry = if k.op ∈ carryOps then c else th.carry
  wrote : ¬Queued k → Wrote th th' k.d (wordRegs k) v
  kept : Queued k → th'.g = th.g

/-- What the issue of a word operation in an access slice needs to be known of its instruction. -/
structure SliceWord (k : Ins) : Prop where
  op : k.op ∈ wordOps
  file : k.op = .mov → k.w.kb = true ∨ k.x ≠ 1
  notWu : k.w.wu = false
  sl : k.w.sl = true
  wf : k.wellFormed = true

theorem SliceWord.isQueue (hk : SliceWord k) {th : Thread} (hth : x.thread? u = some th) {m : Nat} (h1 : k.d ≤ m)
    (h2 : m < k.d + wordRegs k) : x.isQueue u k .g m = true ↔ th.sliced = true ∧ Queued k := by
  have hn := wordRegs_le hk.op hk.wf
  have halign := wordRegs_aligned hk.op hk.file hk.wf
  have hiff : (60 ≤ m ∧ m < 64) ↔ Queued k := by
    unfold Queued
    rcases hn with hn | hn <;> rw [hn] at halign h2 <;> omega
  simp [State.isQueue, hth, hk.notWu, and_assoc, hiff]

theorem SliceWord.regs_eq (hk : SliceWord k) : ∃ n, wordRegs k = n + 1 := by
  have hn := wordRegs_le hk.op hk.wf
  exact ⟨wordRegs k - 1, by omega⟩

/-- D of queues: its words are pushed onto those of the thread run ahead of. -/
theorem SliceWord.writeD_queues (hk : SliceWord k) {th : Thread} (hth : x.thread? u = some th) (hs : th.sliced = true)
    (hmain : x.mainOf u ≠ u) (hq : Queued k) (v : Nat) :
    x.writeD u k v = x.modThread (x.mainOf u) (·.pushAll (k.d - 60) (words v (wordRegs k))) := by
  obtain ⟨n, hn⟩ := hk.regs_eq
  have hd := fields_word_d hk.op hk.file (x.homeOf u).isWave
  rw [hn] at hd ⊢
  simp only [State.writeD, Fld.use, hd]
  exact State.writeRegs_queues hk.notWu hk.sl hmain k.d v n hq.1 fun m h1 h2 =>
    (hk.isQueue hth h1 (by omega)).2 ⟨hs, hq⟩

/-- Any other D is written. -/
theorem SliceWord.writeD_words (hk : SliceWord k) {th : Thread} (hth : x.thread? u = some th) (hq : ¬Queued k) (v : Nat) :
    x.writeD u k v = x.modThread u (·.writeWords k.d v (wordRegs k)) := by
  obtain ⟨n, hn⟩ := hk.regs_eq
  have hd := fields_word_d hk.op hk.file (x.homeOf u).isWave
  rw [hn] at hd ⊢
  refine State.writeD_words x u k v k.d n _ hk.notWu (.inl hd) fun m h1 h2 => ?_
  have hnot : x.isQueue u k .g m ≠ true := fun h => hq ((hk.isQueue hth h1 (by omega)).1 h).2
  simp [hnot]

/-- The pushes for an idle lane of a sliced thread. -/
theorem SliceWord.pushIdle_queues (hk : SliceWord k) {th : Thread} (hth : x.thread? u = some th) (hs : th.sliced = true)
    (hmain : x.mainOf u ≠ u) (hq : Queued k) :
    State.pushIdle k x u = { x.modThread (x.mainOf u) (·.pushAll (k.d - 60) (State.freeWords x.nextId (wordRegs k))) with
      nextId := x.nextId + wordRegs k } := by
  obtain ⟨n, hn⟩ := hk.regs_eq
  rw [State.pushIdle, destsOf_word hk.op hk.file, hn]
  exact State.foldl_pushIdle hmain k.d n hq.1 fun m h1 h2 => (hk.isQueue hth h1 (by omega)).2 ⟨hs, hq⟩

theorem foldl_fixed {α β : Type} {f : α → β → α} {l : List β} {a : α} (h : ∀ b ∈ l, f a b = a) : l.foldl f a = a := by
  induction l with
  | nil => rfl
  | cons b l ih => rw [List.foldl_cons, h b (by simp), ih fun c hc => h c (by simp [hc])]

/-- No pushes are made where D names no queue or the lane has none. -/
theorem SliceWord.pushIdle_nothing (hk : SliceWord k) (h : ∀ th, x.thread? u = some th → th.sliced = true → ¬Queued k) :
    State.pushIdle k x u = x := by
  rw [State.pushIdle, destsOf_word hk.op hk.file]
  refine foldl_fixed fun q hq => if_neg fun hqueue => ?_
  obtain ⟨m, hm, rfl⟩ := List.mem_map.1 hq
  obtain ⟨h1, h2⟩ := List.mem_range'_1.1 hm
  cases hth : x.thread? u with
  | none => simp [State.isQueue, hth] at hqueue
  | some th =>
    obtain ⟨hs, hd⟩ := (hk.isQueue hth h1 h2).1 hqueue
    exact h th hth hs hd

/-! ### The steps of the two folds -/

/-- A state that differs in threads and in the next free number, each thread where it was. -/
structure HomesKept (s x : State) : Prop where
  rest : { x with threads := s.threads, nextId := s.nextId } = s
  home : ∀ v, (x.thread? v).map Thread.home = (s.thread? v).map Thread.home

theorem HomesKept.modThread (h : HomesKept s x) {v : Nat} {f : Thread → Thread} (hf : ∀ th, (f th).home = th.home) :
    HomesKept s (x.modThread v f) where
  rest := h.rest
  home w := by
    rw [State.thread?_modThread, ← h.home w]
    split
    · cases x.thread? w <;> simp [hf]
    · rfl

theorem HomesKept.advance {r : Run} (hrun : s.run? = some r) : HomesKept s (s.advance k) where
  rest := (congrArg (fun y : State => { y with nextId := s.nextId }) (State.advance_threads k hrun) :)
  home v := by
    rw [State.thread?_advance k hrun]
    split
    · cases s.thread? v <;> rfl
    · rfl

theorem pushAll_home (th : Thread) (q : Nat) (vs : List W32) : (th.pushAll q vs).home = th.home :=
  (congrArg Thread.home (th.pushAll_frame q vs) :)

theorem writeWords_home (th : Thread) (d v n : Nat) : (th.writeWords d v n).home = th.home :=
  (congrArg Thread.home (th.writeWords_frame d v n) :)

theorem State.Reaches.trans {m : Nat} {z : State} {G H G' H' G'' H'' : Thread → Thread → Prop} (h : State.Reaches u m G H x y)
    (h' : State.Reaches u m G' H' y z) (hG : ∀ a b c, G a b → G' b c → G'' a c) (hH : ∀ a b c, H a b → H' b c → H'' a c) :
    State.Reaches u m G'' H'' x z where
  others v hu hm := (h'.others v hu hm).trans (h.others v hu hm)
  own := State.rel_trans h.own h'.own hG
  main := State.rel_trans h.main h'.main hH

/-- The carry of the add family. -/
theorem reaches_carry {m : Nat} (hm : m ≠ u) (k : Ins) (c : Bool) :
    State.Reaches u m (fun th th' => th' = { th with carry := if k.op ∈ carryOps then c else th.carry }) Eq x
      (if k.op ∈ carryOps then x.modThread u fun th => { th with carry := c } else x) := by
  split
  · exact State.reaches_own hm (fun _ _ => rfl) fun _ => rfl
  · exact { others := fun _ _ _ => rfl
            own := State.rel_same _ fun _ _ => rfl
            main := State.rel_same _ fun _ _ => rfl }

theorem HomesKept.carry (hx : HomesKept s x) (k : Ins) (c : Bool) :
    HomesKept s (if k.op ∈ carryOps then x.modThread u fun th => { th with carry := c } else x) :=
  ite_keeps (HomesKept s) (hx.modThread fun _ => rfl) hx

/-- The effect in one lane that acts. -/
theorem SliceWord.wordStep (hk : SliceWord k) (hx : HomesKept s x) (hagree : State.Agree s x u)
    {th : Thread} (hth : x.thread? u = some th) (hs : th.sliced = true) (hmain : s.mainOf u ≠ u) :
    (HomesKept s (wordStep k x u) ∧ (wordStep k x u).nextId = x.nextId) ∧
    State.Reaches u (s.mainOf u) (Slid k (s.intCarry k u) (wordValue s k u))
      (Fed k fun q v => v = BitVec.ofNat 32 (wordValue s k u / 2 ^ (32 * (60 + q - k.d)))) x (wordStep k x u) := by
  rw [Machine.wordStep, hagree.wordValue, hagree.intCarry]
  have hy := hx.carry (u := u) k (s.intCarry k u)
  have hid : (if k.op ∈ carryOps then x.modThread u fun th => { th with carry := s.intCarry k u } else x).nextId = x.nextId :=
    ite_keeps (fun y : State => y.nextId = x.nextId) rfl rfl
  have hcarry := reaches_carry (x := x) hmain k (s.intCarry k u)
  generalize (if k.op ∈ carryOps then x.modThread u fun th => { th with carry := s.intCarry k u } else x) = y at *
  obtain ⟨th', hth', rfl⟩ : ∃ th', y.thread? u = some th' ∧
      th' = { th with carry := if k.op ∈ carryOps then s.intCarry k u else th.carry } := by
    have h := hcarry.own
    rw [hth] at h
    generalize y.thread? u = o at h
    cases h with | some h => exact ⟨_, rfl, h⟩
  have hmainy : y.mainOf u = s.mainOf u := by rw [State.mainOf, hy.home, State.mainOf]
  by_cases hq : Queued k
  · have hfed : ∀ th, Fed k (fun q v => v = BitVec.ofNat 32 (wordValue s k u / 2 ^ (32 * (60 + q - k.d)))) th
        (th.pushAll (k.d - 60) (words (wordValue s k u) (wordRegs k))) := by
      refine fed_pushAll hq (length_words ..) fun j v hj => ?_
      have hlt : j < wordRegs k := by
        have := (List.getElem?_eq_some_iff.1 hj).1
        rwa [length_words] at this
      rw [words_get? hlt, Option.some.injEq] at hj
      have := hq.1
      rw [← hj, show 60 + (k.d - 60 + j) - k.d = j by omega]
    rw [hk.writeD_queues hth' hs (by rwa [hmainy]) hq, hmainy]
    refine ⟨⟨hy.modThread fun th => pushAll_home .., hid⟩, hcarry.trans
      (State.reaches_main (G := Eq) hmain (fun _ => rfl) fun th _ => hfed th) ?_ ?_⟩
    · rintro a b c rfl rfl
      exact { rest := rfl, carry := rfl, wrote := fun h => absurd hq h, kept := fun _ => rfl }
    · rintro a b c rfl h
      exact h
  · rw [hk.writeD_words hth' hq]
    refine ⟨⟨hy.modThread fun th => writeWords_home .., hid⟩, hcarry.trans
      (State.reaches_own (G := fun th th' => th' = th.writeWords k.d (wordValue s k u) (wordRegs k)) (H := Eq) hmain
        (fun _ _ => rfl) fun _ => rfl) ?_ ?_⟩
    · rintro a b c rfl rfl
      have hframe := Thread.writeWords_frame { a with carry := if k.op ∈ carryOps then s.intCarry k u else a.carry } k.d
        (wordValue s k u) (wordRegs k)
      exact { rest := (congrArg (fun th : Thread => { th with carry := a.carry }) hframe :)
              carry := (congrArg Thread.carry hframe :)
              wrote := fun _ => wrote_congr rfl rfl (Thread.wrote_writeWords ..)
              kept := fun h => absurd h hq }
    · rintro a b c rfl rfl
      exact .refl hq _

/-- The pushes for one idle lane. -/
theorem SliceWord.idleStep (hk : SliceWord k) (hx : HomesKept s x) (hmain : s.mainOf u ≠ u) :
    HomesKept s (State.pushIdle k x u) ∧
    State.Reaches u (s.mainOf u) Eq
      (fun th th' => (∃ own, x.thread? u = some own ∧ own.sliced = true) →
        Fed k (fun _ v => ∃ n, v = Config.guardedPush n) th th')
      x (State.pushIdle k x u) := by
  have hm : x.mainOf u = s.mainOf u := by rw [State.mainOf, hx.home, State.mainOf]
  by_cases h : (∃ own, x.thread? u = some own ∧ own.sliced = true) ∧ Queued k
  · obtain ⟨⟨own, hown, hs⟩, hq⟩ := h
    have hpush := hx.modThread (v := s.mainOf u) fun th => pushAll_home th (k.d - 60) (State.freeWords x.nextId (wordRegs k))
    rw [hk.pushIdle_queues hown hs (by rwa [hm]) hq, hm]
    have hfed : ∀ th, Fed k (fun _ v => ∃ n, v = Config.guardedPush n) th
        (th.pushAll (k.d - 60) (State.freeWords x.nextId (wordRegs k))) := by
      refine fed_pushAll hq (by simp [State.freeWords]) fun j v hj => ?_
      obtain ⟨n, -, rfl⟩ := List.mem_map.1 (List.mem_of_getElem? hj)
      exact ⟨n, rfl⟩
    obtain ⟨h1, h2, h3⟩ := State.reaches_main (x := x) (G := Eq)
      (H := fun th th' => (∃ own, x.thread? u = some own ∧ own.sliced = true) →
        Fed k (fun _ v => ∃ n, v = Config.guardedPush n) th th') hmain (fun _ => rfl) fun th _ _ => hfed th
    exact ⟨⟨hpush.rest, hpush.home⟩, h1, h2, h3⟩
  · rw [hk.pushIdle_nothing fun own hown hs hq => h ⟨⟨own, hown, hs⟩, hq⟩]
    exact ⟨hx, fun _ _ _ => rfl, State.rel_same _ fun _ _ => rfl,
      State.rel_same _ fun th _ hown => .refl (fun hq => h ⟨hown, hq⟩) th⟩

/-! ### The next state -/

theorem HomesKept.homeOf (h : HomesKept s x) (v : Nat) : x.homeOf v = s.homeOf v := State.homeOf_congr h.home v

/-- Such a change leaves the engines. -/
theorem HomesKept.accesses (h : HomesKept s x) : State.Accesses (fun _ _ _ => True) s x where
  rest := by
    have e := congrArg (fun y : State => { y with
      engines := s.engines, stands := s.stands, ops := s.ops, cruises := s.cruises, unitTlbs := s.unitTlbs }) h.rest
    exact e
  engines := by
    have he : x.engines = s.engines := (congrArg State.engines h.rest :)
    have heng : ∀ e, x.engine e = s.engine e := fun e => by rw [State.engine, he, State.engine]
    exact ⟨fun e _ _ => heng e, fun e => by rw [heng]⟩
  thread v := by
    have hv := h.home v
    generalize x.thread? v = o at hv ⊢
    generalize s.thread? v = p at hv ⊢
    cases o <;> cases p <;> simp at hv
    · exact .none
    · exact .some trivial

theorem retire_threads {r : Run} (hrun : s.run? = some r) (hcount : r.count < 24) (hne : r.members ≠ []) :
    (s.retire k).threads = s.threads := by
  rw [State.retire_eq hrun hcount hne, State.modEngine_threads]

/-- What follows an effect that changed threads in place: the idle lanes' pushes, then the pops, and the run goes on. -/
theorem concluded_slice {r : Run} {go : List Nat} (hsl : k.w.sl = true) (hrun : s.run? = some r) (hcount : r.count < 24)
    (hne : r.members ≠ []) (hgo : go.Nodup) (hz : HomesKept s ((idle s go).foldl (State.pushIdle k) x)) :
    { concluded s k go x with threads := s.threads, engines := s.engines, nextId := s.nextId } = s ∧
    RunAdvances s (concluded s k go x) k r ∧
    ∀ u, (concluded s k go x).thread? u =
      if u ∈ go ++ idle s go then
        (((idle s go).foldl (State.pushIdle k) x).thread? u).map (State.popThread k (s.homeOf u).isWave (s.queueTop u))
      else ((idle s go).foldl (State.pushIdle k) x).thread? u := by
  unfold concluded
  simp only [hsl, if_true]
  generalize (idle s go).foldl (State.pushIdle k) x = z at hz
  have hnodup : (go ++ idle s go).Nodup := by
    refine List.nodup_append.2 ⟨hgo, nodup_distinct _, fun a ha b hb hab => ?_⟩
    simp [idle, mem_distinct, ← hab, ha] at hb
  obtain ⟨hrest, hthread⟩ := State.foldl_popQueues hnodup s.queueTop k z
  have hpop : State.Quiet z ((go ++ idle s go).foldl (State.popQueues s.queueTop k) z) :=
    .foldl (fun _ _ => State.quiet_popQueues ..) _ z
  generalize (go ++ idle s go).foldl (State.popQueues s.queueTop k) z = w at *
  have hcounts := State.countEvent_spec w z.focus 1 1
  have hquiet : State.Quiet z (w.countEvent z.focus 1 1) := hpop.trans (hpop.focus ▸ State.quiet_countEvent ..)
  have hacc : State.Accesses (fun _ _ _ => True) s (w.countEvent z.focus 1 1) :=
    hz.accesses.trans hquiet fun _ _ _ _ _ _ => trivial
  have hthreads : (w.countEvent z.focus 1 1).threads = w.threads := State.countEvent_threads ..
  generalize w.countEvent z.focus 1 1 = v at *
  have hrun' : v.run? = some r := hacc.run?.trans hrun
  refine ⟨?_, hacc.runAdvances hrun hcount hne, fun u => ?_⟩
  · rw [State.retire_eq hrun' hcount hne]
    have h1 := congrArg (fun y : State => { y with threads := s.threads, engines := s.engines, nextId := s.nextId }) hcounts.1
    have h2 := congrArg (fun y : State => { y with threads := s.threads, engines := s.engines, nextId := s.nextId }) hrest
    have h3 := congrArg (fun y : State => { y with threads := s.threads, engines := s.engines, nextId := s.nextId }) hz.rest
    exact ((h1 :).trans (h2 :)).trans (h3 :)
  · rw [State.thread?, retire_threads hrun' hcount hne, hthreads]
    refine (hthread u).trans ?_
    rw [hz.homeOf]

/-! ### The lanes of the run -/

section
variable {sem : Sem} {r : Run} {lead : Nat} {go : List Nat}

theorem mem_idle (hrun : s.run? = some r) (hu : u ∈ idle s go) : u ∈ r.members ∧ u ∉ go := by
  simp only [idle, hrun, Option.elim, mem_distinct, List.mem_filter, Bool.and_eq_true, Bool.not_eq_true',
    List.contains_eq_mem, decide_eq_false_iff_not] at hu
  exact ⟨hu.1, hu.2.2⟩

theorem sliced_of_reached (hr : Reached sem k s r lead go) (hsl : k.w.sl = true) (hu : u ∈ go) {th : Thread}
    (hth : s.thread? u = some th) : th.sliced = true := by
  have hp := placed_of_reached hr hu
  simp only [State.placed, Bool.and_eq_true] at hp
  obtain ⟨⟨⟨-, -⟩, hsliced⟩, -⟩ := hp
  simpa [hsl, hth] using hsliced

/-- What is left of each thread before the pops. -/
structure Sliding (k : Ins) (s z : State) (r : Run) (go : List Nat) : Prop where
  kept : HomesKept s z
  others : ∀ v, v ∉ r.members → (∀ u ∈ r.members, v ≠ s.mainOf u) → z.thread? v = s.thread? v
  act : ∀ u ∈ go, Option.Rel (Slid k (s.intCarry k u) (wordValue s k u)) ((s.advance k).thread? u) (z.thread? u) ∧
    Option.Rel (Fed k fun q v => v = BitVec.ofNat 32 (wordValue s k u / 2 ^ (32 * (60 + q - k.d)))) (s.thread? (s.mainOf u))
      (z.thread? (s.mainOf u))
  idle : ∀ u ∈ idle s go, z.thread? u = (s.advance k).thread? u ∧
    Option.Rel (fun th th' => (∃ own, (s.advance k).thread? u = some own ∧ own.sliced = true) →
      Fed k (fun _ v => ∃ n, v = Config.guardedPush n) th th') (s.thread? (s.mainOf u)) (z.thread? (s.mainOf u))

theorem sliding (hk : SliceWord k) (hr : Reached sem k s r lead go) (hout : ∀ u ∈ r.members, s.mainOf u ∉ r.members)
    (hinj : ∀ u ∈ r.members, ∀ v ∈ r.members, s.mainOf u = s.mainOf v → u = v) :
    Sliding k s ((Safety.idle s go).foldl (State.pushIdle k) (go.foldl (wordStep k) (s.advance k))) r go := by
  have hgo : ∀ u ∈ go, u ∈ r.members := fun u hu => (State.active_of_reached hr hu).1
  have hidle : ∀ u ∈ Safety.idle s go, u ∈ r.members ∧ u ∉ go := fun u hu => mem_idle hr.1 hu
  have hne : ∀ u ∈ r.members, ∀ v ∈ r.members, s.mainOf u ≠ v := fun u hu v hv e => hout u hu (e ▸ hv)
  have hoff : ∀ v, v ∉ r.members → (s.advance k).thread? v = s.thread? v := fun v hv => by
    rw [State.thread?_advance k hr.1, if_neg hv]
  obtain ⟨⟨hkept, -⟩, hothers, hact⟩ := State.foldl_reaches (m := s.mainOf) (f := wordStep k) (b := s.advance k)
    (I := fun x => HomesKept s x ∧ x.nextId = s.nextId) (G := fun u => Slid k (s.intCarry k u) (wordValue s k u))
    (H := fun u => Fed k fun q v => v = BitVec.ofNat 32 (wordValue s k u / 2 ^ (32 * (60 + q - k.d))))
    (nodup_of_reached hr) (fun u hu v hv => hne u (hgo u hu) v (hgo v hv)) (fun u hu v hv => hinj u (hgo u hu) v (hgo v hv))
    ⟨.advance hr.1, (congrArg State.nextId (State.advance_threads k hr.1) :)⟩ fun x ⟨hx, hid⟩ u hu hself hmain => by
      obtain ⟨hm, th, hth⟩ := State.active_of_reached hr hu
      have hagree : State.Agree s x u := by
        have hb := State.agree_advance k hr.1 u
        refine ⟨?_, by rw [hself]; exact hb.2.1, fun m hhome => ?_⟩
        · have e := hx.rest
          rw [← hid] at e
          exact e
        · have hmm : s.mainOf u = m := by rw [State.mainOf, hhome]
          rw [← hmm, hmain, hmm]
          exact hb.2.2 m hhome
      have hthx : x.thread? u = some { th with pc := r.pc + BitVec.ofNat 64 k.len } := by
        rw [hself, State.thread?_advance k hr.1, if_pos hm, hth]
        rfl
      have hs := sliced_of_reached hr hk.sl hu hth
      have h := hk.wordStep hx hagree hthx hs (hne u hm u hm)
      exact ⟨⟨h.1.1, h.1.2.trans hid⟩, h.2⟩
  generalize go.foldl (wordStep k) (s.advance k) = y at *
  have hidleself : ∀ u ∈ Safety.idle s go, y.thread? u = (s.advance k).thread? u := fun u hu =>
    hothers u (hidle u hu).2 fun v hv => (hne v (hgo v hv) u (hidle u hu).1).symm
  have hidlemain : ∀ u ∈ Safety.idle s go, y.thread? (s.mainOf u) = s.thread? (s.mainOf u) := fun u hu => by
    obtain ⟨hm, hnot⟩ := hidle u hu
    rw [hothers _ (fun h => hout u hm (hgo _ h)) fun v hv e => hnot (hinj u hm v (hgo v hv) e ▸ hv), hoff _ (hout u hm)]
  obtain ⟨hkept', hothers', hidl⟩ := State.foldl_reaches (m := s.mainOf) (f := State.pushIdle k) (b := y)
    (I := HomesKept s) (G := fun _ => Eq)
    (H := fun u th th' => (∃ own, (s.advance k).thread? u = some own ∧ own.sliced = true) →
      Fed k (fun _ v => ∃ n, v = Config.guardedPush n) th th')
    (l := Safety.idle s go) (nodup_distinct _) (fun u hu v hv => hne u (hidle u hu).1 v (hidle v hv).1)
    (fun u hu v hv => hinj u (hidle u hu).1 v (hidle v hv).1) hkept fun x hx u hu hself _ => by
      have h := hk.idleStep hx (hne u (hidle u hu).1 u (hidle u hu).1)
      rw [hself, hidleself u hu] at h
      exact h
  refine ⟨hkept', fun v hv hmain => ?_, fun u hu => ?_, fun u hu => ?_⟩
  · rw [hothers' v (fun h => hv (hidle v h).1) fun u hu => hmain u (hidle u hu).1,
      hothers v (fun h => hv (hgo v h)) fun u hu => hmain u (hgo u hu), hoff v hv]
  · have hm := hgo u hu
    obtain ⟨h1, h2⟩ := hact u hu
    rw [hothers' u (fun h => (hidle u h).2 hu) fun v hv => (hne v (hidle v hv).1 u hm).symm,
      hothers' (s.mainOf u) (fun h => hout u hm (hidle _ h).1) fun v hv e =>
        (hidle v hv).2 (hinj u hm v (hidle v hv).1 e ▸ hu)]
    rw [hoff _ (hout u hm)] at h2
    exact ⟨h1, h2⟩
  · obtain ⟨h1, h2⟩ := hidl u hu
    rw [hidleself u hu] at h1
    rw [hidlemain u hu] at h2
    refine ⟨?_, h2⟩
    generalize (s.advance k).thread? u = o at h1
    generalize State.thread? _ u = p at h1 ⊢
    cases h1 with
    | none => rfl
    | some h => rw [h]

end

end Sys2Proof.Machine
end

section
namespace Sys2Proof.Proofs
open Sys2Proof Sys2Proof.Machine Sys2Proof.Safety

/-- Settles O5: each acting lane writes its own registers or pushes onto the queues of the thread it runs ahead of, each idle
lane pushes free values, and the pops that follow are the access slices' own. -/
theorem accessSliceResults : Obligations.AccessSliceResults := by
  intro i k s r lead go hi hop hmov hwu hsl hclear hout hinj
  dsimp only
  have hr := hclear.1
  have hk : SliceWord k := ⟨hop, hmov, hwu, hsl, wellFormed_of_reached hr⟩
  have hlead := (State.active_of_reached hr (lead_mem hr)).1
  have hslid := sliding hk hr hout hinj
  obtain ⟨hrest, hadvances, hthread⟩ := concluded_slice hsl hr.1 (count_of_reached hr) (List.ne_nil_of_mem hlead)
    (nodup_of_reached hr) hslid.kept
  refine ⟨_, exec_clear hi hclear, ?_⟩
  rw [State.perform_eq_concluded, act_word hop hwu]
  generalize concluded s k go (go.foldl (wordStep k) (s.advance k)) = t at *
  generalize (idle s go).foldl (State.pushIdle k) (go.foldl (wordStep k) (s.advance k)) = z at *
  have hmem : ∀ u ∈ go ++ idle s go, u ∈ r.members := fun u hu => by
    rcases List.mem_append.1 hu with h | h
    · exact (State.active_of_reached hr h).1
    · exact (mem_idle hr.1 h).1
  have hoff : ∀ v, v ∉ r.members → t.thread? v = z.thread? v := fun v hv => by
    rw [hthread, if_neg fun h => hv (hmem v h)]
  refine ⟨hrest, hadvances, fun u hu hmain => (hoff u hu).trans (hslid.others u hu hmain), ?_, ?_⟩
  · intro u hu th main hth hmain
    have hm := (State.active_of_reached hr hu).1
    obtain ⟨hown, hfed⟩ := hslid.act u hu
    rw [State.thread?_advance k hr.1, if_pos hm, hth] at hown
    rw [hmain, ← hoff _ (hout u hm)] at hfed
    have ht := hthread u
    rw [if_pos (List.mem_append_left _ hu)] at ht
    generalize z.thread? u = o at hown ht
    generalize t.thread? (s.mainOf u) = p at hfed ⊢
    cases hown with | @some _ th1 hown =>
    cases hfed with | @some _ main1 hfed =>
    have hoq : th1.oq = th.oq := (congrArg Thread.oq hown.rest :)
    have hsl1 : th1.sliced = th.sliced := (congrArg Thread.sliced hown.rest :)
    have hpc : th1.pc = r.pc + BitVec.ofNat 64 k.len := (congrArg Thread.pc hown.rest :)
    refine ⟨_, main1, ht, rfl, ?_, ⟨hpc, ?_⟩, hown.carry, hfed.rest, ?_, ?_, fun q => ⟨fun hq => ?_, hfed.other q⟩⟩
    · have h := State.popped_popThread k (s.homeOf u).isWave (s.queueTop u) th1
      unfold Popped at h ⊢
      rwa [hoq, hsl1] at h
    · exact (congrArg (fun x : Thread => { x with pc := th.pc, oq := th.oq }) hown.rest :)
    · intro h
      have hn : ¬Queued k := fun hq => by unfold Queued at hq; omega
      exact ⟨hfed.unfed hn, wrote_congr rfl rfl (hown.wrote hn)⟩
    · exact fun h1 h2 => hown.kept ⟨h1, h2⟩
    · obtain ⟨v, rfl, hv⟩ := hfed.queue q hq
      exact hv
  · intro u hu th main hth hs hmain
    have hm := (mem_idle hr.1 hu).1
    obtain ⟨hown, hfed⟩ := hslid.idle u hu
    rw [State.thread?_advance k hr.1, if_pos hm, hth] at hown hfed
    rw [hmain, ← hoff _ (hout u hm)] at hfed
    have ht := hthread u
    rw [if_pos (List.mem_append_right _ hu), hown] at ht
    generalize t.thread? (s.mainOf u) = p at hfed ⊢
    cases hfed with | @some _ main1 hfed =>
    have hfed := hfed ⟨_, rfl, hs⟩
    refine ⟨_, main1, ht, rfl, rfl, hfed.rest, fun q => ⟨fun hq => ?_, hfed.other q⟩⟩
    obtain ⟨v, ⟨n, rfl⟩, hv⟩ := hfed.queue q hq
    exact ⟨n, hv⟩

end Sys2Proof.Proofs
end

section
/-!
SUPPORT. Walks, host answers, invalidations and migrations (19 R351-R368): what each event makes of a state, one equation for each way
it can go.
-/

namespace Sys2Proof.Machine
open Sys2Proof.Safety

variable {s : State} {n : Nat}

/-! ### Walks -/

/-- Where a walk of this package's table can be made, what the table holds decides. -/
theorem exec_translationWalk_table {w : Walk} (hw : s.walks.get? n = some w) (hats : w.ats = none)
    (hdom : State.inDomain w.va = false) (hwalk : s.walkable w.part w.va = true) :
    (∀ tr e, s.walk w.part w.va = .found tr e → tr.host = false → exec (.translationWalk n) s = .next
      ((({ s with walks := s.walks.del n } : State).dropLastPage w).cacheFor w tr)) ∧
    (∀ tr e, s.walk w.part w.va = .found tr e → tr.host = true → w.fetch = false → tr.grants w.need = true →
      exec (.translationWalk n) s = .next (s.askHost n w tr.pasid)) ∧
    (∀ tr e, s.walk w.part w.va = .found tr e → tr.host = true → w.fetch = true ∨ tr.grants w.need = false →
      s.walkRoom w = true → exec (.translationWalk n) s = .next (s.walkFault n w 2 true (some tr.pasid))) ∧
    (∀ kind, s.walk w.part w.va = .fault kind →
      let js := s.siblings n w (s.faultSpan w kind)
      s.walkRoom (State.joinedWalk w js) = true → exec (.translationWalk n) s = .next
        (({ s with walks := s.walks.filter fun j _ => !(js.any fun x => x.1 == j) } : State).walkFault n
          (State.joinedWalk w js) kind false none)) := by
  simp only [show exec (.translationWalk n) s = execTranslationWalk n s from rfl, execTranslationWalk, hw, hats, hdom, hwalk]
  refine ⟨fun tr e hfound hhost => ?_, fun tr e hfound hhost hfetch hgrants => ?_,
    fun tr e hfound hhost hdenied hroom => ?_, fun kind hfault hroom => ?_⟩
  · simp [hfound, hhost]
  · simp [hfound, hhost, hfetch, hgrants]
  · have hcond : (w.fetch || !tr.grants w.need) = true := by
      rcases hdenied with h | h <;> simp [h]
    simp [hfound, hhost, hcond, hroom]
  · simp [hfault, hroom]

theorem remoteWalk_host {k part va e : Nat} {tr : Trans} (h : State.remoteWalk k part va = .found tr e) : tr.host = false := by
  unfold State.remoteWalk at h
  dsimp only at h
  split at h
  · cases h
  · injection h with h
    rw [← h]

/-- An address of another package is that package's to answer, where a route reaches it. -/
theorem exec_translationWalk_remote {w : Walk} (hw : s.walks.get? n = some w) (hats : w.ats = none)
    (hdom : State.inDomain w.va = true) :
    (s.pkg.links = [] → exec (.translationWalk n) s = .next { s with walks := s.walks.del n }) ∧
    (s.pkg.links ≠ [] →
      (∀ tr e, State.remoteWalk n w.part w.va = .found tr e → exec (.translationWalk n) s = .next
        ((({ s with walks := s.walks.del n } : State).dropLastPage w).cacheFor w tr)) ∧
      (∀ kind, State.remoteWalk n w.part w.va = .fault kind →
        let js := s.siblings n w (s.faultSpan w kind)
        s.walkRoom (State.joinedWalk w js) = true → exec (.translationWalk n) s = .next
          (({ s with walks := s.walks.filter fun j _ => !(js.any fun x => x.1 == j) } : State).walkFault n
            (State.joinedWalk w js) kind false none))) := by
  simp only [show exec (.translationWalk n) s = execTranslationWalk n s from rfl, execTranslationWalk, hw, hats, hdom]
  refine ⟨fun hlinks => ?_, fun hlinks => ⟨fun tr e hfound => ?_, fun kind hfault hroom => ?_⟩⟩
  · simp [hlinks]
  · simp [hlinks, hfound, remoteWalk_host hfound]
  · simp [hlinks, hfault, hroom]

/-! ### The host's answers -/

/-- The host's answer to a Translation Request: asked for anew, refused, cached where it still fits the entry, or denied. -/
theorem exec_atsTranslationCompletion {w : Walk} {pasid : Nat} (hw : s.walks.get? n = some w) (hats : w.ats = some pasid) :
    (∀ a perms, w.stale = true → exec (.atsTranslationCompletion n a perms) s = .next (s.askHost n w pasid)) ∧
    (∀ a perms, w.stale = false → s.walkRoom w = true → perms.getLsbD 7 = true →
      exec (.atsTranslationCompletion n a perms) s = .next (s.walkFault n w 6 true (some pasid))) ∧
    (∀ (a : W64) perms tr e, w.stale = false → perms.getLsbD 7 = false →
      s.walk w.part w.va = .found tr e → tr.host = true → tr.pasid = pasid →
      let g := State.hostTrans w tr a.toNat perms
      (g.r || g.w) = true → g.grants w.need = true → exec (.atsTranslationCompletion n a perms) s = .next
        ((({ s with walks := s.walks.del n } : State).dropLastPage w).cacheFor w g)) ∧
    (∀ (a : W64) perms tr e, w.stale = false → perms.getLsbD 7 = false →
      s.walk w.part w.va = .found tr e → tr.host = true → tr.pasid = pasid →
      let g := State.hostTrans w tr a.toNat perms
      g.r = false ∧ g.w = false ∨ g.grants w.need = false → s.walkRoom w = true →
      exec (.atsTranslationCompletion n a perms) s = .next
        (if s.pkg.priOff then s.walkFault n w 5 true (some pasid) else s.pageRequests n w pasid)) := by
  have hexec : ∀ a perms, exec (.atsTranslationCompletion n a perms) s = execAtsTranslationCompletion n a perms s := fun _ _ => rfl
  simp only [hexec, execAtsTranslationCompletion, hw, hats]
  refine ⟨fun a perms hstale => ?_, fun a perms hstale hroom hrefused => ?_,
    fun a perms tr e hstale hperms hfound hhost hpasid hsome hgrants => ?_,
    fun a perms tr e hstale hperms hfound hhost hpasid hdenied hroom => ?_⟩
  · simp [hstale]
  · simp [hstale, hrefused, hroom]
  · have hgranted : ((State.hostTrans w tr a.toNat perms).r || (State.hostTrans w tr a.toNat perms).w) &&
        (State.hostTrans w tr a.toNat perms).grants w.need := by rw [hsome, hgrants]; rfl
    simp only [hstale, hperms, hfound, hhost, hpasid, hgranted, if_true, if_false, Bool.false_eq_true, Bool.not_true, bne_self_eq_false,
      Bool.or_false]
  · have hrefused : (((State.hostTrans w tr a.toNat perms).r || (State.hostTrans w tr a.toNat perms).w) &&
        (State.hostTrans w tr a.toNat perms).grants w.need) = false := by
      rcases hdenied with ⟨hr, hw⟩ | h
      · rw [hr, hw]; rfl
      · rw [h, Bool.and_false]
    simp only [hstale, hperms, hfound, hhost, hpasid, hrefused, hroom, State.hostDenied, if_true, if_false, Bool.false_eq_true,
      Bool.not_true, bne_self_eq_false, Bool.or_false]

theorem exec_atsCompletionTimeout {w : Walk} {pasid : Nat} (hw : s.walks.get? n = some w) (hats : w.ats = some pasid)
    (hroom : s.walkRoom w = true) :
    exec (.atsCompletionTimeout n) s = .next (s.walkFault n w 6 true (some pasid)) := by
  simp only [show exec (.atsCompletionTimeout n) s = execAtsCompletionTimeout n s from rfl, execAtsCompletionTimeout, hw, hats,
    hroom, if_true]

/-- The answer to a page request: success, invalid request, or a failure of requests altogether. -/
theorem exec_prgResponse {q : PageReq} (hq : s.prgs.get? n = some q) :
    let x := { s with prgs := s.prgs.del n }
    exec (.prgResponse n 0) s = .next (x.replayRecord q.frec).sendWaitingPages ∧
    (x.faultRoom (((x.recs.get? q.frec).map fun p => standDie p.fr.stand).getD 0) = true →
      exec (.prgResponse n 1) s = .next (x.refuseRecord q.frec).sendWaitingPages ∧
      ∀ code, 2 ≤ code →
        let y := x.refuseRecord q.frec
        exec (.prgResponse n code) s = .next
          (({ y with pkg := { y.pkg with priOff := true } } : State).orReg (transReg q.part 0x24) 2).sendWaitingPages) := by
  have hexec : ∀ code, exec (.prgResponse n code) s = execPrgResponse n code s := fun _ => rfl
  simp only [hexec, execPrgResponse, hq]
  refine ⟨rfl, fun hroom => ⟨?_, fun code hcode => ?_⟩⟩
  · simp [hroom]
  · simp [hroom, show code ≠ 0 by omega, show code ≠ 1 by omega]

theorem exec_instructionFetchFault {r : Run} {u kind page addr : Nat} {th : Thread} (hrun : s.run? = some r)
    (hnext : s.nextInstr = some (.fault kind page addr)) (hlive : (r.members.filter s.issuing).head? = some u)
    (hth : s.thread? u = some th) (hroom : s.faultRoom (standDie th.home.stand) = true) :
    exec .instructionFetchFault s = .next
      ((s.park (r.members.filter s.issuing) kind page addr 1 false false).closeRun r) := by
  simp only [show exec .instructionFetchFault s = execInstructionFetchFault s from rfl, execInstructionFetchFault, hnext,
    State.fetchFault, hrun, hlive, Option.bind_some, hth, hroom, Bool.not_true, Bool.false_eq_true, if_false]

/-! ### Invalidation -/

theorem exec_invctlStart_busy {p : Nat} (v : W32) (hp : p < 64) (hbusy : bit (s.regN (transReg p 0x38)) 0 = true) :
    exec (.invctlStart p v) s = .next s := by
  simp only [show exec (.invctlStart p v) s = execInvctlStart p v s from rfl, execInvctlStart, Nat.not_le.2 hp, hbusy, if_true,
    if_false]

theorem exec_invctlStart {p : Nat} {v : W32} (hp : p < 64) (hidle : bit (s.regN (transReg p 0x38)) 0 = false)
    (hgo : v.getLsbD 0 = true) :
    let size := if v.getLsbD 2 then 2097152 else 65536
    let x := s.setRegN (transReg p 0x38) (v.toNat % 8)
    exec (.invctlStart p v) s = .next (x.startInval
      { parts := [p], base := bits (x.reg64 (transReg p 0x30)) 56 16 * 65536 / size * size
        size := if v.getLsbD 1 then none else some size, waits := [] }).2 := by
  simp only [show exec (.invctlStart p v) s = execInvctlStart p v s from rfl, execInvctlStart, Nat.not_le.2 hp, hidle, hgo,
    Bool.not_true, Bool.false_eq_true, if_false]

theorem exec_atsInvalidateRequest {pasid : Nat} {a : W64} {size tag : Nat}
    (h : (s.invals.filter fun _ v => v.byHost.isSome).length < 32) :
    exec (.atsInvalidateRequest pasid a size tag) s = .next (s.startInval
      { parts := List.range 64, base := a.toNat, size := if size = 0 then none else some size
        pasid := if pasid < 2 ^ 20 then some pasid else none, waits := [], byHost := some tag }).2 :=
  if_neg (Nat.not_le.2 h)

/-- The end of an invalidation, whoever asked for it. -/
theorem exec_invalidationComplete {v : Inval} (hv : s.invals.get? n = some v) (hready : s.invReady v = true) :
    (∀ tag, v.byHost = some tag → v.byMig = none → exec (.invalidationComplete n) s = .next
      { s with invals := s.invals.del n, hostOut := s.hostOut ++ [(3, tag, v.base)] }) ∧
    (∀ k m, v.byHost = none → v.byMig = some k → s.migs.get? k = some m →
      m.stage ≠ .abort ∨ (s.unitFree m.entry 8 = true ∧ s.faultRoom (standDie (s.migCluster m / 8)) = true) →
      exec (.invalidationComplete n) s = .next ({ s with invals := s.invals.del n }.migStep k m)) ∧
    (v.byHost = none → v.byMig = none →
      let off := transReg (v.parts.headD 0) 0x38
      exec (.invalidationComplete n) s = .next ({ s with invals := s.invals.del n }.setRegN off (s.regN off / 2 * 2))) := by
  simp only [show exec (.invalidationComplete n) s = execInvalidationComplete n s from rfl, execInvalidationComplete, hv, hready]
  refine ⟨fun tag hhost hmig => ?_, fun k m hhost hmig hm hfree => ?_, fun hhost hmig => ?_⟩
  · simp [hhost, hmig]
  · have hfree' : (m.stage != .abort || (s.unitFree m.entry 8 && s.faultRoom (standDie (s.migCluster m / 8)))) = true := by
      rcases hfree with h | ⟨h1, h2⟩
      · simp [h]
      · simp [h1, h2]
    simp [hhost, hmig, hm, hfree']
  · simp [hhost, hmig]
    rfl

/-! ### Migration -/

/-- A page that can move starts to, at once where its entry's line is free. -/
theorem exec_migctlStart {p : Nat} {v : W32} {tr : Trans} {entry : Nat} (hp : p < 64)
    (hidle : bit (s.regN (transReg p 0x50)) 0 = false) (hgo : v.getLsbD 0 = true) :
    let x := s.setRegN (transReg p 0x50) (v.toNat / 2 % 2 * 2)
    let size := if v.getLsbD 1 then 2097152 else 65536
    let va := bits (x.reg64 (transReg p 0x40)) 56 16 * 65536
    let dst := bits (x.reg64 (transReg p 0x48)) 44 16 * 65536
    x.walk p va = .found tr entry → tr.host = false → tr.m = false → tr.size = size → va % size = 0 → dst % size = 0 →
    x.populated dst = true → x.populated (dst + size - 1) = true → x.mapped dst size = false → x.frameOwned p dst size = true →
    let m : Migration :=
      { part := p, va := va, size := size, src := tr.frame, dst := dst, key := tr.key, entry := entry + 8
        cluster := bucketOf (bits (x.regN (transReg p 8)) 12 8) va (if size = 65536 then 0 else 1) % 16384 }
    let y := ({ x with nextId := x.nextId + 1 } : State).setRegN (transReg p 0x50) (v.toNat % 4)
    exec (.migctlStart p v) s = .next (if y.unitFree m.entry 8 then y.migMark x.nextId m
      else { y with migs := y.migs.put x.nextId { m with stage := .mark } }) := by
  intro x size va dst hwalk hhost hm hsize hva hdst hlow hhigh hmapped howned m y
  have hrefused : (tr.host || tr.m || tr.size != size || va % size != 0 || dst % size != 0 || !x.populated dst ||
      !x.populated (dst + size - 1) || x.mapped dst size || !x.frameOwned p dst size) = false := by
    simp [hhost, hm, hsize, hva, hdst, hlow, hhigh, hmapped, howned]
  rw [show exec (.migctlStart p v) s = execMigctlStart p v s from rfl, execMigctlStart, if_neg (Nat.not_le.2 hp), hidle, hgo]
  have hwalk' : (s.setRegN (transReg p 0x50) (v.toNat / 2 % 2 * 2)).walk p
      (bits ((s.setRegN (transReg p 0x50) (v.toNat / 2 % 2 * 2)).reg64 (transReg p 0x40)) 56 16 * 65536) = .found tr entry := hwalk
  simp only [Bool.not_true, Bool.false_eq_true, if_false, hwalk']
  exact if_neg (by rw [hrefused]; exact Bool.false_ne_true)

theorem exec_migrationComplete_mark {m : Migration} (hm : s.migs.get? n = some m) (hstage : m.stage = .mark)
    (hfree : s.unitFree m.entry 8 = true) :
    exec (.migrationComplete n) s = .next
      (({ s with migs := s.migs.put n { m with stage := .first } } : State).writeEntry m m.src true |>.startInval
        (State.migInval n m)).2 := by
  simp only [show exec (.migrationComplete n) s = execMigrationComplete n s from rfl, execMigrationComplete, hm, hstage, hfree]
  rfl

/-- A beat of the copy is due where a flume serves, its records have room and, for the last one, the entry's line is free. -/
theorem exec_migrationComplete_copy {m : Migration} {c : Nat} (hm : s.migs.get? n = some m) (hstage : m.stage = .copy)
    (hflume : s.migFlume m = some c) (hroom : s.faultRoom (standDie (c / 8)) = true)
    (hecc : s.eccRoom (64 * (m.src / 64 + m.copied)) m.key = true)
    (hlast : m.copied + 1 = m.size / 64 → s.unitFree m.entry 8 = true) :
    exec (.migrationComplete n) s = .next (s.migBeat n m) := by
  have hready : s.migReady m = true := by
    have hl : (!State.migLast m || s.unitFree m.entry 8) = true := by
      by_cases h : m.copied + 1 = m.size / 64
      · rw [hlast h, Bool.or_true]
      · simp [State.migLast, h]
    simp [State.migReady, hflume, hroom, State.migLines, hecc, hl]
  simp [show exec (.migrationComplete n) s = execMigrationComplete n s from rfl, execMigrationComplete, hm, hstage, hready]

theorem migBeat_lost {m : Migration} (h : s.frameLost m = true) :
    s.migBeat n m = (({ s with migs := s.migs.put n { m with stage := .abort, result := 2 } } : State).startInval
      (State.migInval n { m with stage := .abort, result := 2 })).2 := by
  rw [State.migBeat, if_pos h]
  rfl

/-- A beat copies a line; after the last one the entry names the new frame. -/
theorem migBeat_copies {m : Migration} {c : Nat} (h : s.frameLost m = false) (hflume : s.migFlume m = some c) :
    let line := m.src / 64 + m.copied
    let bad := s.lineBad line m.key
    let x := (s.noteEcc (64 * line) m.key m.part (some (State.unitNo 7 c))).copyLine m
    let y := if bad then x.migReport m 0x13 m.src (64 * line) true else x
    let m' := { m with copied := m.copied + 1, result := if bad then 1 else m.result }
    (m.copied + 1 ≠ m.size / 64 → s.migBeat n m = { y with migs := y.migs.put n m' }) ∧
    (m.copied + 1 = m.size / 64 →
      let z := (y.moveHeld m).writeEntry m m.dst false
      s.migBeat n m = (({ z with migs := z.migs.put n { m' with stage := .second } } : State).startInval
        (State.migInval n { m' with stage := .second })).2) := by
  refine ⟨fun hlast => ?_, fun hlast => ?_⟩
  · have hnot : State.migLast m = false := by simpa [State.migLast] using hlast
    simp only [State.migBeat, h, hnot, hflume, Bool.false_eq_true, if_false]
    rfl
  · have his : State.migLast m = true := by simpa [State.migLast] using hlast
    simp only [State.migBeat, h, his, hflume, Bool.false_eq_true, if_false, if_true]
    rfl

theorem exec_migrationComplete_leases {m : Migration} (hm : s.migs.get? n = some m) (hstage : m.stage = .leases)
    (hended : (s.homes.all fun h => !State.inSource m (64 * h.1) || h.2.leases.all fun l => decide (l.2 + 4 ≤ s.gtc)) = true) :
    let x := { s with migs := s.migs.del n }
    exec (.migrationComplete n) s = .next ((x.setRegN (transReg m.part 0x50)
      (x.regN (transReg m.part 0x50) / 2 * 2)).setRegN (transReg m.part 0x54) (1 + 2 * m.result)) := by
  simp only [show exec (.migrationComplete n) s = execMigrationComplete n s from rfl, execMigrationComplete, hm, hstage, hended]
  rfl

end Sys2Proof.Machine
end

section
namespace Sys2Proof.Proofs
open Sys2Proof Sys2Proof.Machine Sys2Proof.Safety

/-- Settles O44: each event's own equations, one after the other. -/
theorem translationAndInvalidationSteps : Obligations.TranslationAndInvalidationSteps := by
  refine ⟨fun n s => ⟨fun w => exec_translationWalk_table, fun w => exec_translationWalk_remote, fun w pasid hw hats => ?_,
      fun q => exec_prgResponse, fun r u th kind page addr => exec_instructionFetchFault⟩,
    fun s => ⟨fun p v => exec_invctlStart_busy v, fun p v => exec_invctlStart, fun pasid a size tag => exec_atsInvalidateRequest,
      fun n v => exec_invalidationComplete, fun p v tr entry => exec_migctlStart, fun n m => exec_migrationComplete_mark,
      fun n m c hm hstage hflume hroom hecc hlast => ?_, fun n m => exec_migrationComplete_leases⟩⟩
  · obtain ⟨hstale, hrefused, hgranted, hdenied⟩ := exec_atsTranslationCompletion hw hats
    exact ⟨hstale, hrefused, hgranted, hdenied, exec_atsCompletionTimeout hw hats⟩
  · have hbeat := exec_migrationComplete_copy hm hstage hflume hroom hecc hlast
    refine ⟨fun hlost => hbeat.trans (congrArg _ (migBeat_lost hlost)), fun hlost => ⟨fun hmore => ?_, fun hend => ?_⟩⟩
    · exact hbeat.trans (congrArg _ ((migBeat_copies hlost hflume).1 hmore))
    · exact hbeat.trans (congrArg _ ((migBeat_copies hlost hflume).2 hend))

end Sys2Proof.Proofs
end

section
/-!
SUPPORT. Issues in an access slice that push nothing (05 R127, 11 R309): the effect of an instruction whose destinations are no
operand queues, in either slice, and folds over its threads.
-/

namespace Sys2Proof.Machine
open Sys2Proof.Safety

variable {sem : Sem} {k : Ins} {s : State} {r : Run} {lead : Nat} {go : List Nat}

/-- The word with SL cleared: what stands in the other slice (R127). -/
def unsliced (k : Ins) : Ins := { k with w := { k.w with sl := false } }

/-- A meaning that takes effect as `k` does, whatever word it issues for. -/
def Sem.actingFor (sem : Sem) (k : Ins) : Sem := { act := fun _ => sem.act k }

/-- SL decides of no field what it names. -/
theorem fields_unsliced (k : Ins) (wave : Bool) : (unsliced k).fields wave = k.fields wave := by
  obtain ⟨op, b, w⟩ := k
  cases op <;> rfl

theorem use_unsliced (k : Ins) (f : Fld) (wave : Bool) : f.use (unsliced k) wave = f.use k wave := by
  unfold Fld.use
  rw [fields_unsliced]
  rfl

theorem popsOf_unsliced (k : Ins) (wave : Bool) : State.popsOf (unsliced k) wave = State.popsOf k wave := by
  unfold State.popsOf
  simp only [use_unsliced]
  rfl

theorem popCount_unsliced (k : Ins) (wave : Bool) (q : Nat) : State.popCount (unsliced k) wave q = State.popCount k wave q := by
  rw [State.popCount, popsOf_unsliced, State.popCount]

theorem popQueues_unsliced (top : Nat → Nat → Nat) (k : Ins) : State.popQueues top (unsliced k) = State.popQueues top k := by
  have hpop : State.popThread (unsliced k) = State.popThread k := by
    funext wave top th
    unfold State.popThread
    simp only [popCount_unsliced]
  funext x u
  rw [State.popQueues, State.popQueues, hpop]

theorem popped_unsliced (k : Ins) (wave : Bool) (top : Nat → Nat) (th th' : Thread) :
    Popped (unsliced k) wave top th th' ↔ Popped k wave top th th' := by
  simp only [Popped, popCount_unsliced]

theorem effect_unsliced {t : State} {P : Nat → Thread → Thread → Prop} (h : Effect s t (unsliced k) r go P) : Effect s t k r go P := by
  refine ⟨h.1, fun u hu th hth => ?_⟩
  obtain ⟨th', hth', hin, hout⟩ := h.2 u hu th hth
  simp only [popped_unsliced] at hin hout
  exact ⟨th', hth', hin, hout⟩

/-- Where nothing is pushed for an idle lane, an issue concludes as in the other slice. -/
theorem perform_unsliced (hpush : k.w.sl = true → ∀ x u, State.pushIdle k x u = x) (s : State) (lead : Nat) (go : List Nat) :
    s.perform sem k lead go = s.perform (sem.actingFor k) (unsliced k) lead go := by
  have hidle : ∀ (l : List Nat) x, (if k.w.sl then l.foldl (State.pushIdle k) x else x) = x := fun l x => by
    split
    next hsl => exact foldl_fixed fun u _ => hpush hsl x u
    next => rfl
  unfold State.perform
  simp only [hidle, popQueues_unsliced]
  rfl

/-- The next state of an instruction that pushes nothing and whose effect leaves all but threads and engines, from what it makes
of each. -/
theorem effect_of_unpushed {P : Nat → Thread → Thread → Prop} {y : State} (G : Nat → Thread → Thread)
    (hr : Reached sem k s r lead go) (hpush : k.w.sl = true → ∀ x u, State.pushIdle k x u = x)
    (hact : sem.act k lead go (s.advance k) = y)
    (hy : { y with engines := s.engines, threads := s.threads } = s) (hengines : State.EnginesKept s y)
    (hthread : ∀ u, y.thread? u = if u ∈ go then ((s.advance k).thread? u).map (G u) else (s.advance k).thread? u)
    (hG : ∀ u, Thread.Keeps (G u))
    (hP : ∀ u ∈ go, ∀ th th', s.thread? u = some th →
      { th' with oq := th.oq } = G u { th with pc := r.pc + BitVec.ofNat 64 k.len } → P u th th') :
    { s.perform sem k lead go with threads := s.threads, engines := s.engines } = s ∧
    Effect s (s.perform sem k lead go) k r go P := by
  have hact' : (sem.actingFor k).act (unsliced k) lead go (s.advance (unsliced k)) = y := hact
  rw [perform_unsliced hpush]
  constructor
  · have h := perform_rest (sem.actingFor k) (k := (unsliced k)) rfl s lead go
    rw [hact'] at h
    exact (congrArg (fun q : State => { q with engines := s.engines, threads := s.threads }) h :).trans hy
  · refine effect_unsliced (State.effect_of_act (k := (unsliced k)) G rfl hr.1 hr.2.2.1 (List.ne_nil_of_mem (lead_mem hr))
      (count_of_reached hr) ?_ ?_ ?_ (fun u => hG u) hP)
    · rw [hact']; exact (congrArg State.focus hy :)
    · rw [hact']; exact hengines
    · rw [hact']; exact hthread

/-- A fold over some of an instruction's threads of an effect on each alone, judged where the state agrees with the one before
about its thread: in the access slice too, where no thread of the run is run ahead of. -/
theorem foldl_alone (hr : Reached sem k s r lead go) (hmain : k.w.sl = false ∨ ∀ u ∈ go, s.mainOf u ∉ r.members)
    {l : List Nat} (hl : l.Nodup) (hsub : ∀ u ∈ l, u ∈ go) (f : State → Nat → State) (G : Nat → Thread → Thread)
    (h : ∀ x u, u ∈ l → State.Agree s x u → f x u = x.modThread u (G u)) :
    l.foldl f (s.advance k) = l.foldl (fun x u => x.modThread u (G u)) (s.advance k) := by
  refine State.foldl_local hl f G _ fun x u hu hrest hsame => h x u hu ?_
  have hadv := State.agree_advance k hr.1 u
  refine ⟨(congrArg (fun y : State => { y with threads := s.threads }) hrest :).trans hadv.1, ?_, fun m hm => ?_⟩
  · rw [hsame u (.inr rfl)]; exact hadv.2.1
  · rcases hmain with hsl | hmain
    · exact absurd hm (not_skidder hr hsl (hsub u hu) m)
    · have hout : m ∉ l := fun hml =>
        hmain u (hsub u hu) (by rw [State.mainOf, hm]; exact (State.active_of_reached hr (hsub m hml)).1)
      rw [hsame m (.inl hout)]
      exact hadv.2.2 m hm

/-- The next state of an instruction that pushes nothing, changes some of its threads, each alone, and besides counts and logs. -/
theorem effect_of_logged {P : Nat → Thread → Thread → Prop} {y : State} (G : Nat → Thread → Thread)
    (hr : Reached sem k s r lead go) (hpush : k.w.sl = true → ∀ x u, State.pushIdle k x u = x) {l : List Nat} (hl : l.Nodup)
    (hsub : ∀ u ∈ l, u ∈ go) (hact : sem.act k lead go (s.advance k) = y)
    (hy : { y with engines := s.engines } =
      { l.foldl (fun x u => x.modThread u (G u)) (s.advance k) with engines := s.engines })
    (hengines : State.EnginesKept (l.foldl (fun x u => x.modThread u (G u)) (s.advance k)) y)
    (hG : ∀ u, Thread.Keeps (G u))
    (hP : ∀ u ∈ go, ∀ th th', s.thread? u = some th → { th' with oq := th.oq } =
      (if u ∈ l then G u { th with pc := r.pc + BitVec.ofNat 64 k.len } else { th with pc := r.pc + BitVec.ofNat 64 k.len }) →
      P u th th') :
    { s.perform sem k lead go with threads := s.threads, engines := s.engines } = s ∧
    Effect s (s.perform sem k lead go) k r go P := by
  have hthread := State.thread?_foldl_modThread hl G (s.advance k)
  have hx := (congrArg (fun x : State => { x with threads := s.threads }) (State.foldl_modThread_threads l G (s.advance k)) :).trans
    (State.advance_threads k hr.1)
  generalize l.foldl (fun x u => x.modThread u (G u)) (s.advance k) = x at hy hengines hthread hx
  have hengine : ∀ e, x.engine e = s.engine e := fun e => (congrArg (fun x : State => x.engine e) hx :)
  have hfocus : x.focus = s.focus := (congrArg State.focus hx :)
  refine effect_of_unpushed (fun u th => if u ∈ l then G u th else th) hr hpush hact ?_
    ⟨fun e he he' => ?_, fun e => (hengines.2 e).trans (congrArg unlogged (hengine e))⟩ (fun u => ?_) (fun u th => ?_) hP
  · exact (congrArg (fun x : State => { x with threads := s.threads }) hy :).trans
      (congrArg (fun x : State => { x with engines := s.engines }) hx :)
  · rw [← hfocus] at he he'
    exact (hengines.1 e he he').trans (hengine e)
  · refine (congrArg (fun x : State => x.thread? u) hy :).trans ((hthread u).trans ?_)
    by_cases hu : u ∈ l
    · simp [hu, hsub u hu]
    · simp [hu]
  · dsimp only
    split
    · exact hG u th
    · exact ⟨rfl, rfl, rfl⟩

theorem enginesKept_refl (s : State) : State.EnginesKept s s := ⟨fun _ _ _ => rfl, fun _ => rfl⟩

/-- The next state of an instruction that pushes nothing and changes some of its threads, each alone. -/
theorem effect_of_alone {P : Nat → Thread → Thread → Prop} (G : Nat → Thread → Thread) (hr : Reached sem k s r lead go)
    (hpush : k.w.sl = true → ∀ x u, State.pushIdle k x u = x) {l : List Nat} (hl : l.Nodup) (hsub : ∀ u ∈ l, u ∈ go)
    (hact : sem.act k lead go (s.advance k) = l.foldl (fun x u => x.modThread u (G u)) (s.advance k))
    (hG : ∀ u, Thread.Keeps (G u))
    (hP : ∀ u ∈ go, ∀ th th', s.thread? u = some th → { th' with oq := th.oq } =
      (if u ∈ l then G u { th with pc := r.pc + BitVec.ofNat 64 k.len } else { th with pc := r.pc + BitVec.ofNat 64 k.len }) →
      P u th th') :
    { s.perform sem k lead go with threads := s.threads, engines := s.engines } = s ∧
    Effect s (s.perform sem k lead go) k r go P :=
  effect_of_logged G hr hpush hl hsub hact rfl (enginesKept_refl _) hG hP

/-! ### Nothing to push -/

/-- Where only D names a destination, the destinations are its registers. -/
theorem mem_destsOf {wave : Bool} {q : Fld × RFile × Nat} (hq : q ∈ State.destsOf k wave) (ha : (k.fields wave).a.writes = none)
    (hb : (k.fields wave).b.writes = none) (hc : (k.fields wave).c.writes = none) (hx : (k.fields wave).x.writes = none) :
    ∃ f d n, (k.fields wave).d.writes = some (f, d, n) ∧ q.2.1 = f ∧ d ≤ q.2.2 ∧ q.2.2 < d + n := by
  rw [destsOf_eq_writes] at hq
  obtain ⟨f, -, hf⟩ := List.mem_flatMap.1 hq
  cases f with
  | d =>
    cases hd : (k.fields wave).d.writes with
    | none => simp [Fld.use, hd] at hf
    | some w =>
      obtain ⟨file, d, n⟩ := w
      simp only [Fld.use, hd, Option.elim, List.mem_map, List.mem_range] at hf
      obtain ⟨j, hj, rfl⟩ := hf
      exact ⟨file, d, n, rfl, rfl, Nat.le_add_right .., Nat.add_lt_add_left hj d⟩
  | a => simp [Fld.use, ha] at hf
  | b =>
    have hb' : (Fld.b.use k wave).writes = none := by
      rcases replaced_fst (k.fields wave) k with h | h
      · exact congrArg Use.writes h
      · exact (congrArg Use.writes h).trans hb
    simp [hb'] at hf
  | c =>
    have hc' : (Fld.c.use k wave).writes = none := by
      rcases replaced_snd (k.fields wave) k with h | h
      · exact congrArg Use.writes h
      · exact (congrArg Use.writes h).trans hc
    simp [hc'] at hf
  | x =>
    have hx' : (Fld.x.use k wave).writes = none := by
      simp only [Fld.use]
      split
      · rfl
      · exact hx
    simp [hx'] at hf

/-- Nothing is pushed for an idle lane by an instruction none of whose destinations is a queue register. -/
theorem pushIdle_nothing (h : ∀ wave, ∀ q ∈ State.destsOf k wave, q.2.1 = .g → q.2.2 < 60 ∨ 64 ≤ q.2.2) (x : State) (u : Nat) :
    State.pushIdle k x u = x := by
  refine foldl_fixed fun q hq => if_neg fun hqueue => ?_
  have h60 := h _ q hq
  unfold State.isQueue at hqueue
  split at hqueue
  · simp only [Bool.and_eq_true, beq_iff_eq, decide_eq_true_eq] at hqueue
    obtain ⟨⟨⟨⟨-, hg⟩, -⟩, hlo⟩, hhi⟩ := hqueue
    have := h60 hg
    omega
  · simp at hqueue

end Sys2Proof.Machine
end

section
/-!
SUPPORT. Majors 0x01 to 0x25 off the uniform datapath and outside the access slice (06 R147-R150), and MOV into the mailbox (06 R149).
-/

namespace Sys2Proof.Machine
open Sys2Proof.Safety

variable {k : Ins} {s x : State} {r : Run} {lead u : Nat} {go : List Nat}

/-- What a word instruction makes of a thread: the add family's carry, and the words of a value from D on. -/
def worded (k : Ins) (c : Bool) (v : Nat) (th : Thread) : Thread :=
  ({ th with carry := if k.op ∈ carryOps then c else th.carry } : Thread).writeWords k.d v (wordRegs k)

theorem worded_frame (k : Ins) (c : Bool) (v : Nat) (th : Thread) :
    { worded k c v th with g := th.g } = { th with carry := if k.op ∈ carryOps then c else th.carry } :=
  Thread.writeWords_frame ..

theorem keeps_worded (k : Ins) (c : Bool) (v : Nat) : Thread.Keeps (worded k c v) := fun th => by
  have h := worded_frame k c v th
  exact ⟨(congrArg Thread.home h :), (congrArg Thread.oq h :), (congrArg Thread.sliced h :)⟩

/-- One thread's share of a word instruction. -/
theorem wordStep_eq (hop : k.op ∈ wordOps) (hmov : k.op = .mov → k.w.kb = true ∨ k.x ≠ 1) (hwu : k.w.wu = false)
    (hsl : k.w.sl = false) (hwf : k.wellFormed = true) (h : State.Agree s x u) :
    wordStep k x u = x.modThread u (worded k (s.intCarry k u) (wordValue s k u)) := by
  obtain ⟨n, hn⟩ : ∃ n, wordRegs k = n + 1 := ⟨wordRegs k - 1, by have := wordRegs_le hop hwf; omega⟩
  have hd : ∀ y : State, y.writeD u k (wordValue s k u) = y.modThread u fun th => th.writeWords k.d (wordValue s k u) (n + 1) :=
    fun y => State.writeD_eq u _ n hwu hsl y fun wave => ⟨_, .inl (hn ▸ fields_word_d hop hmov wave)⟩
  rw [wordStep, h.intCarry, h.wordValue, hd]
  unfold worded
  rw [hn]
  split
  · exact State.modThread_modThread ..
  · rfl

/-- The next state of a word instruction. -/
theorem effect_word (hr : Reached (semOf k.op) k s r lead go) (hop : k.op ∈ wordOps)
    (hmov : k.op = .mov → k.w.kb = true ∨ k.x ≠ 1) (hwu : k.w.wu = false) (hsl : k.w.sl = false) :
    { s.perform (semOf k.op) k lead go with threads := s.threads, engines := s.engines } = s ∧
    Effect s (s.perform (semOf k.op) k lead go) k r go fun u th th' =>
      PastBut k r th th' (fun x => { x with g := th.g, carry := th.carry }) ∧ Wrote th th' k.d (wordRegs k) (wordValue s k u) ∧
      th'.carry = if k.op ∈ carryOps then s.intCarry k u else th.carry := by
  refine effect_of_threads (fun u => worded k (s.intCarry k u) (wordValue s k u)) 0 hr hsl (.inr ?_)
    (fun u => keeps_worded k _ _) fun u _ th th' _ he => ?_
  · rw [act_word hop hwu]
    exact foldl_threads hr hsl _ _ fun x u _ h => wordStep_eq hop hmov hwu hsl (wellFormed_of_reached hr) h
  · have hframe := worded_frame k (s.intCarry k u) (wordValue s k u) { th with pc := r.pc + BitVec.ofNat 64 k.len }
    refine ⟨past_of_frame (fun _ => rfl) (fun _ => rfl) he (congrArg (fun y : Thread => { y with carry := th.carry }) hframe :), ?_, ?_⟩
    · exact wrote_congr rfl (congrArg Thread.g he :) (Thread.wrote_writeWords
        { th with pc := r.pc + BitVec.ofNat 64 k.len, carry := if k.op ∈ carryOps then s.intCarry k u else th.carry } ..)
    · exact (congrArg Thread.carry he :).trans (congrArg Thread.carry hframe :)

/-! ### The mailbox -/

/-- A thread with mailbox registers d to d + n - 1 holding the words of v, lowest first. -/
def Thread.writeMbs (th : Thread) (d v : Nat) : Nat → Thread
  | 0 => th
  | n + 1 => writeMbs (th.writeMb d (BitVec.ofNat 32 v)) (d + 1) (v / 2 ^ 32) n

theorem Thread.writeMbs_frame (th : Thread) (d v n : Nat) : { th.writeMbs d v n with mb := th.mb } = th := by
  induction n generalizing th d v with
  | zero => rfl
  | succ n ih => exact (congrArg (fun x : Thread => { x with mb := th.mb }) (ih (th.writeMb d (BitVec.ofNat 32 v)) ..) :)

theorem Thread.readMb_writeMb (th : Thread) (n m : Nat) (v : W32) :
    (th.writeMb n v).readMb m = if m = n then { val := v } else th.readMb m := Table.getD_setD ..

theorem wroteMb_writeMbs (th : Thread) (d v n : Nat) : WroteMb th (th.writeMbs d v n) d n v := by
  induction n generalizing th d v with
  | zero => exact ⟨fun j hj => absurd hj (by omega), fun _ _ => rfl⟩
  | succ n ih =>
    obtain ⟨hin, hout⟩ := ih (th.writeMb d (BitVec.ofNat 32 v)) (d + 1) (v / 2 ^ 32)
    refine ⟨fun j hj => ?_, fun m hm => ?_⟩
    · cases j with
      | zero => simpa [Thread.writeMbs, Thread.readMb_writeMb] using hout d (by omega)
      | succ j =>
        rw [Thread.writeMbs, show d + (j + 1) = d + 1 + j by omega, hin j (by omega), Nat.div_div_eq_div_mul, ← Nat.pow_add,
          Nat.mul_succ, Nat.add_comm 32]
    · rw [Thread.writeMbs, hout m (by omega), Thread.readMb_writeMb, if_neg (by omega)]

theorem wroteMb_congr {th th' y y' : Thread} {d n v : Nat} (h : y.mb = th.mb) (h' : y'.mb = th'.mb) (hw : WroteMb th th' d n v) :
    WroteMb y y' d n v := by
  have e : ∀ m, y.readMb m = th.readMb m := fun m => by rw [Thread.readMb, h, Thread.readMb]
  have e' : ∀ m, y'.readMb m = th'.readMb m := fun m => by rw [Thread.readMb, h', Thread.readMb]
  exact ⟨fun j hj => (e' _).trans (hw.1 j hj), fun m hm => by rw [e, e', hw.2 m hm]⟩

/-- MOV with X = 1 writes the mailbox, on the uniform datapath too. -/
theorem writeD_mailbox (hop : k.op = .mov) (hkb : k.w.kb = false) (hx : k.x = 1) (x : State) (u v : Nat) :
    x.writeD u k v = x.modThread u fun th => th.writeMbs k.d v (wordRegs k) := by
  have hd : ∀ wave, (k.fields wave).d = .dst .mb k.d (wordRegs k) (wordRegs k) := fun wave => by
    simp [Ins.fields, wordRegs, hop, hkb, hx]
  have hreg : ∀ (y : State) d (w : W32), y.writeReg u k .mb d w = y.modThread u fun th => th.writeMb d w := fun y d w => by
    have hfile : State.effFile k .mb = .mb := by simp [State.effFile]
    simp only [State.writeReg, hfile]
  have hregs : ∀ n (y : State) d v, y.writeRegs u k .mb d v (n + 1) = y.modThread u fun th => th.writeMbs d v (n + 1) := by
    intro n
    induction n with
    | zero => intro y d v; exact hreg ..
    | succ n ih => intro y d v; rw [State.writeRegs, ih, hreg, State.modThread_modThread]; rfl
  obtain ⟨n, hn⟩ : ∃ n, wordRegs k = n + 1 := by
    simp only [wordRegs, hop, intRegs]
    split <;> exact ⟨_, rfl⟩
  simp only [State.writeD, Fld.use, hd, hn]
  exact hregs ..

/-- The threads that an instruction executes for: under WU the lowest-numbered active one (R128). -/
def executing (k : Ins) (lead : Nat) (go : List Nat) : List Nat := if k.w.wu then [lead] else go

theorem executing_sub (hr : Reached (semOf k.op) k s r lead go) : ∀ u ∈ executing k lead go, u ∈ go := by
  unfold executing
  split
  · simpa using lead_mem hr
  · exact fun _ h => h

theorem executing_nodup (hr : Reached (semOf k.op) k s r lead go) : (executing k lead go).Nodup := by
  unfold executing
  split
  · simp
  · exact nodup_of_reached hr

theorem mem_executing (hu : u ∈ go) : u ∈ executing k lead go ↔ ¬(k.w.wu = true ∧ u ≠ lead) := by
  unfold executing
  split <;> simp_all

theorem perThread_executing (hr : Reached (semOf k.op) k s r lead go) (f : Nat → State → State) (x : State) :
    perThread k f go x = (executing k lead go).foldl (fun x u => f u x) x := by
  obtain ⟨-, -, -, hlead, -⟩ := hr
  cases go with
  | nil => simp at hlead
  | cons a l =>
    obtain rfl : a = lead := by simpa using hlead
    unfold perThread executing
    split <;> rfl

end Sys2Proof.Machine
end

section
namespace Sys2Proof.Proofs
open Sys2Proof Sys2Proof.Machine Sys2Proof.Safety

/-- Settles O1: each thread takes its carry and the words of its value, as of the state before. -/
theorem integerResults : Obligations.IntegerResults := by
  unfold Obligations.IntegerResults
  intro i k s r lead go hi hop hwu hsl h
  have hmov : k.op = .mov → k.w.kb = true ∨ k.x ≠ 1 := fun hm => absurd (hm ▸ hop) (by decide)
  obtain ⟨hrest, heff⟩ := effect_word h.1 (List.mem_append_left _ hop) hmov hwu hsl
  refine ⟨_, exec_clear hi h, hrest, effect_imp heff fun u th th' ⟨hpast, hwrote, hcarry⟩ => ⟨hpast, ?_, hcarry⟩⟩
  rwa [← wordValue_int hop]

/-- Settles O2: a move is a word instruction without a carry; one into the mailbox writes it in the threads that execute. -/
theorem moveAndMailboxResults : Obligations.MoveAndMailboxResults := by
  unfold Obligations.MoveAndMailboxResults
  refine ⟨fun i k s r lead go hi hop hmov hwu hsl h => ?_, fun i k s r lead go hi hop hkb hx hsl h => ?_⟩
  · have hcarry : k.op ∉ carryOps := (show ∀ op ∈ [Op.sel, .mov, .lit, .lea, .leam], op ∉ carryOps by decide) _ hop
    obtain ⟨hrest, heff⟩ := effect_word h.1 (List.mem_append_right _ hop) hmov hwu hsl
    refine ⟨_, exec_clear hi h, hrest, effect_imp heff fun u th th' ⟨⟨hpc, hkept⟩, hwrote, hc⟩ => ⟨⟨hpc, ?_⟩, hwrote⟩⟩
    rw [if_neg hcarry] at hc
    rw [← hc] at hkept
    exact hkept
  · have hr := h.1
    have hact : (semOf k.op).act k lead go (s.advance k) = (executing k lead go).foldl (fun x u =>
        x.modThread u fun th => th.writeMbs k.d (wordValue s k u) (wordRegs k)) (s.advance k) := by
      rw [move_act (by simp [hop]), perThread_executing hr]
      exact foldl_alone hr (.inl hsl) (executing_nodup hr) (executing_sub hr) _ _ fun x u _ ha => by
        rw [ha.wordValue, writeD_mailbox hop hkb hx]
    have hkeeps : ∀ u, Thread.Keeps fun th => th.writeMbs k.d (wordValue s k u) (wordRegs k) := fun u th => by
      have hf := th.writeMbs_frame k.d (wordValue s k u) (wordRegs k)
      exact ⟨(congrArg Thread.home hf :), (congrArg Thread.oq hf :), (congrArg Thread.sliced hf :)⟩
    refine ⟨_, exec_clear hi h, effect_of_alone _ hr (by simp [hsl]) (executing_nodup hr) (executing_sub hr) hact hkeeps
      fun u hu th th' _ he => ?_⟩
    by_cases hexec : k.w.wu = true ∧ u ≠ lead
    · rw [if_neg (mt (mem_executing hu).1 (not_not.2 hexec))] at he
      rw [if_pos hexec]
      exact ⟨past_of_frame (fun _ => rfl) (fun _ => rfl) he rfl, (congrArg Thread.mb he :)⟩
    · rw [if_pos ((mem_executing hu).2 hexec)] at he
      rw [if_neg hexec]
      exact ⟨past_of_frame (fun _ => rfl) (fun _ => rfl) he (Thread.writeMbs_frame ..),
        wroteMb_congr rfl (congrArg Thread.mb he :) (wroteMb_writeMbs { th with pc := r.pc + BitVec.ofNat 64 k.len } ..)⟩

end Sys2Proof.Proofs
end

section
/-!
SUPPORT. Compares and predicate logic (06 R151), and transfers of control (06 R152), in either slice.
-/

namespace Sys2Proof.Machine
open Sys2Proof.Safety

variable {k : Ins} {s x : State} {r : Run} {lead u : Nat} {go : List Nat}

/-! ### Predicates -/

theorem State.Agree.predValue (h : Agree s x u) (k : Ins) : predValue x k u = predValue s k u := by
  unfold Safety.predValue
  simp only [h.srcVal, h.intB]

/-- Their effect writes predicate D, on the uniform datapath of every thread with the leader's value (R128). -/
theorem pred_act (hop : k.op ∈ [Op.cmp, .pand, .por, .pxor, .pnot]) (lead : Nat) (go : List Nat) (x : State) :
    (semOf k.op).act k lead go x =
      perThread k (fun u x => x.writeDP (if k.w.wu then go else [u]) k (predValue x k u)) go x := by
  obtain ⟨op, b, w⟩ := k
  simp only [List.mem_cons, List.not_mem_nil, or_false] at hop
  rcases hop with rfl | rfl | rfl | rfl | rfl <;> rfl

/-- Their one destination is a predicate. -/
theorem fields_pred (hop : k.op ∈ [Op.cmp, .pand, .por, .pxor, .pnot]) (wave : Bool) :
    (k.fields wave).a.writes = none ∧ (k.fields wave).b.writes = none ∧ (k.fields wave).c.writes = none ∧
    (k.fields wave).x.writes = none ∧ (k.fields wave).d.writes = some (.p, k.d, 1) := by
  obtain ⟨op, b, w⟩ := k
  simp only [List.mem_cons, List.not_mem_nil, or_false] at hop
  rcases hop with rfl | rfl | rfl | rfl | rfl <;> exact ⟨rfl, rfl, rfl, rfl, rfl⟩

theorem pred_pushes_nothing (hop : k.op ∈ [Op.cmp, .pand, .por, .pxor, .pnot]) (x : State) (u : Nat) :
    State.pushIdle k x u = x := by
  refine pushIdle_nothing (fun wave q hq hg => ?_) x u
  obtain ⟨ha, hb, hc, hx, hd⟩ := fields_pred hop wave
  obtain ⟨f, d, n, hd', hf, -⟩ := mem_destsOf hq ha hb hc hx
  rw [hd] at hd'
  cases hd'
  exact absurd (hf.symm.trans hg) (by decide)

theorem keeps_writeP (d : Nat) (v : Bool) : Thread.Keeps fun th => th.writeP d v := fun th => by
  have h := th.writeP_frame d v
  exact ⟨(congrArg Thread.home h :), (congrArg Thread.oq h :), (congrArg Thread.sliced h :)⟩

/-- What each thread's predicate takes: on the uniform datapath the leader's value (log 29). -/
theorem pred_act_threads (hr : Reached (semOf k.op) k s r lead go) (hop : k.op ∈ [Op.cmp, .pand, .por, .pxor, .pnot])
    (hmain : k.w.sl = false ∨ ∀ u ∈ go, s.mainOf u ∉ r.members) :
    (semOf k.op).act k lead go (s.advance k) = go.foldl (fun x u =>
      x.modThread u fun th => th.writeP k.d (predValue s k (if k.w.wu then lead else u))) (s.advance k) := by
  rw [pred_act hop, perThread_executing hr]
  cases hwu : k.w.wu with
  | true =>
    simp only [executing, hwu, if_true, List.foldl_cons, List.foldl_nil, State.writeDP]
    rw [(State.agree_advance k hr.1 lead).predValue]
  | false =>
    simp only [executing, hwu, Bool.false_eq_true, if_false]
    exact foldl_alone hr hmain (nodup_of_reached hr) (fun _ h => h) _ _ fun x u _ h => by rw [h.predValue]; rfl

/-! ### Transfers -/

/-- The link or the counter a transfer leaves in a thread (R152). -/
def linked (s : State) (k : Ins) (u : Nat) (th : Thread) : Thread :=
  match k.op with
  | .jmp => if k.d = 0 then th else th.writeWords k.d (s.issuePc + 12).toNat 2
  | .call => th.writeWords k.d (s.issuePc + 12).toNat 2
  | .loop => th.writeWords k.d (wrapTo 32 ((s.srcVal u k .d : Int) - 1)) 1
  | _ => th

theorem linked_frame (s : State) (k : Ins) (u : Nat) (th : Thread) : { linked s k u th with g := th.g } = th := by
  unfold linked
  split
  · split
    · rfl
    · exact Thread.writeWords_frame ..
  · exact Thread.writeWords_frame ..
  · exact Thread.writeWords_frame ..
  · rfl

/-- A transferred thread. -/
def transferred (s : State) (k : Ins) (u : Nat) (th : Thread) : Thread := { linked s k u th with pc := s.target k u }

theorem transferred_frame (s : State) (k : Ins) (u : Nat) (th : Thread) :
    { transferred s k u th with g := th.g } = { th with pc := s.target k u } :=
  (congrArg (fun y : Thread => { y with pc := s.target k u }) (linked_frame s k u th) :)

theorem keeps_transferred (s : State) (k : Ins) (u : Nat) : Thread.Keeps (transferred s k u) := fun th => by
  have h := transferred_frame s k u th
  exact ⟨(congrArg Thread.home h :), (congrArg Thread.oq h :), (congrArg Thread.sliced h :)⟩

theorem issuePc_of_run (h : s.run? = some r) : s.issuePc = r.pc := by rw [State.issuePc, h]; rfl

theorem State.Agree.issuePc (h : Agree s x u) : x.issuePc = s.issuePc := by
  obtain ⟨T, rfl⟩ := h.outside
  rfl

theorem State.Agree.target (h : Agree s x u) (k : Ins) : x.target k u = s.target k u := by
  unfold State.target State.ofsTarget
  simp only [h.srcVal, h.issuePc]

theorem State.Agree.takes (h : Agree s x u) (k : Ins) : x.takes k u = s.takes k u := by
  unfold State.takes
  simp only [h.srcVal]

/-- The link of JMP and CALL stands outside the access slice, the counter of LOOP in no queue. -/
theorem writeLink_modThread (hwu : k.w.wu = false) (hsl : k.w.sl = false ∨ k.op ∈ [Op.bra, .loop] ∧ (k.d < 60 ∨ 64 ≤ k.d))
    (h : State.Agree s x u) (f : Thread → Thread) :
    (x.writeLink k u).modThread u f = x.modThread u fun th => f (linked s k u th) := by
  have hd : ∀ n v, (∀ wave, (k.fields wave).d = .dst .g k.d (n + 1) (n + 1) ∨ (k.fields wave).d = .srcDst .g k.d (n + 1) (n + 1)) →
      k.w.sl = false ∨ n = 0 ∧ (k.d < 60 ∨ 64 ≤ k.d) →
      x.writeD u k v = x.modThread u fun th => th.writeWords k.d v (n + 1) := by
    intro n v hd hq
    refine State.writeD_words x u k v k.d n _ hwu (hd _) fun m h1 h2 => ?_
    rcases hq with hsl | ⟨rfl, hd⟩
    · simp [hsl]
    · have hm : x.isQueue u k .g m = false := by
        unfold State.isQueue
        split
        · simp only [Bool.and_eq_false_iff, decide_eq_false_iff_not]
          omega
        · rfl
      simp [hm]
  unfold State.writeLink
  rw [h.issuePc, h.srcVal]
  obtain ⟨op, b, w⟩ := k
  cases op
  case jmp =>
    have hsl' := hsl.resolve_right (by simp)
    simp only [linked]
    split
    · rfl
    next h0 =>
      rw [hd 1 _ (fun wave => .inl (if_neg h0)) (.inl hsl'), State.modThread_modThread]
  case call =>
    have hsl' := hsl.resolve_right (by simp)
    rw [hd 1 _ (fun wave => .inl rfl) (.inl hsl'), State.modThread_modThread]
    rfl
  case loop =>
    dsimp only
    rw [hd 0 _ (fun wave => .inr rfl) (hsl.imp_right fun h => ⟨rfl, h.2⟩), State.modThread_modThread]
    rfl
  all_goals rfl

theorem traceBranch_frame (x : State) (ts : List Nat) (src tgt : W64) :
    { x.traceBranch ts src tgt with engines := x.engines } = x ∧ State.EnginesKept x (x.traceBranch ts src tgt) := by
  unfold State.traceBranch
  split
  · exact ⟨rfl, (State.quiet_trace ..).engines⟩
  · exact ⟨rfl, enginesKept_refl x⟩

/-- Each thread transfers alone; where one takes its transfer, the branch is logged. -/
theorem transfer_act (hr : Reached (semOf k.op) k s r lead go) (hwu : k.w.wu = false)
    (hsl : k.w.sl = false ∨ (∀ u ∈ go, s.mainOf u ∉ r.members) ∧ k.op ∈ [Op.bra, .loop] ∧ (k.d < 60 ∨ 64 ≤ k.d)) :
    let y := go.foldl (fun x u => x.modThread u (transferred s k u)) (s.advance k)
    { transferSem.act k lead go (s.advance k) with engines := y.engines } = y ∧
      State.EnginesKept y (transferSem.act k lead go (s.advance k)) := by
  have hfold := foldl_alone hr (hsl.imp_right (·.1)) (nodup_of_reached hr) (fun _ h => h)
    (fun x u => (x.writeLink k u).modThread u fun th => { th with pc := x.target k u }) (transferred s k) fun x u _ h => by
      rw [h.target]
      exact writeLink_modThread hwu (hsl.imp_right (·.2)) h _
  dsimp only [transferSem]
  rw [hfold]
  split
  · exact traceBranch_frame ..
  · exact ⟨rfl, enginesKept_refl _⟩

theorem semOf_transfer : ∀ op ∈ [Op.bra, .brx, .jmp, .call, .ret, .loop], semOf op = transferSem := by
  simp [semOf]

theorem transfer_pushes_nothing (hop : k.op ∈ [Op.bra, .loop]) (hd : k.d < 60 ∨ 64 ≤ k.d) (x : State) (u : Nat) :
    State.pushIdle k x u = x := by
  refine pushIdle_nothing (fun wave q hq _ => ?_) x u
  obtain ⟨op, b, w⟩ := k
  simp only [List.mem_cons, List.not_mem_nil, or_false] at hop
  rcases hop with rfl | rfl
  · obtain ⟨_, _, _, hw, -⟩ := mem_destsOf hq rfl rfl rfl rfl
    cases hw
  · obtain ⟨_, _, _, hw, -, hlo, hhi⟩ := mem_destsOf hq rfl rfl rfl rfl
    cases hw
    omega

theorem signExt_eq_toInt (v : Nat) : signExt 32 v = (BitVec.ofNat 32 v).toInt := by
  simp only [signExt, BitVec.toInt, BitVec.toNat_ofNat]
  rfl

/-- The count of a LOOP, one less (R152). -/
theorem wrapTo_pred (v : Nat) : wrapTo 32 ((v : Int) - 1) = (BitVec.ofNat 32 v - 1).toNat := by
  have h1 : (1 : W32).toNat = 1 := rfl
  rw [BitVec.toNat_sub, BitVec.toNat_ofNat, h1, wrapTo]
  omega

end Sys2Proof.Machine
end

section
namespace Sys2Proof.Proofs
open Sys2Proof Sys2Proof.Machine Sys2Proof.Safety

/-- Settles O6: each thread takes one predicate, the leader's on the uniform datapath; a predicate is no operand queue. -/
theorem predicateResults : Obligations.PredicateResults := by
  unfold Obligations.PredicateResults
  intro i k s r lead go hi hop h hmain
  have hr := h.1
  refine ⟨_, exec_clear hi h, effect_of_alone _ hr (fun _ => pred_pushes_nothing hop) (nodup_of_reached hr) (fun _ h => h)
    (pred_act_threads hr hop hmain) (fun _ => keeps_writeP _ _) fun u hu th th' _ he => ?_⟩
  rw [if_pos hu] at he
  exact ⟨past_of_frame (fun _ => rfl) (fun _ => rfl) he (Thread.writeP_frame ..),
    wroteP_congr rfl (congrArg Thread.p he :) (wroteP_writeP { th with pc := r.pc + BitVec.ofNat 64 k.len } ..)⟩

/-- Settles O7: each thread takes its link or counter and its target; the branch log changes no thread. -/
theorem transferResults : Obligations.TransferResults := by
  unfold Obligations.TransferResults
  intro i k s r lead go hi hop h hsl
  have hr := h.1
  have hwu : k.w.wu = false :=
    wu_of_reached hr (.inl ((show ∀ op ∈ [Op.bra, .brx, .jmp, .call, .ret, .loop], 0x33 < op.major by decide) _ hop))
  have hsliced : k.w.sl = true → k.op ∈ [Op.bra, .loop] := fun hs => by
    have hslice : k.op.sliceable = true := by
      by_contra hno
      simp [sl_of_reached hr (by simpa using hno)] at hs
    exact (show ∀ op ∈ [Op.bra, .brx, .jmp, .call, .ret, .loop], op.sliceable = true → op ∈ [Op.bra, .loop] by decide) _ hop hslice
  have hsl' : k.w.sl = false ∨ (∀ u ∈ go, s.mainOf u ∉ r.members) ∧ k.op ∈ [Op.bra, .loop] ∧ (k.d < 60 ∨ 64 ≤ k.d) := by
    cases hs : k.w.sl with
    | false => exact .inl rfl
    | true => exact .inr (by simpa [hs, hsliced hs] using hsl)
  obtain ⟨hrest, hengines⟩ := transfer_act hr hwu hsl'
  have hact := semOf_transfer _ hop
  refine ⟨_, exec_clear hi h, effect_of_logged (y := transferSem.act k lead go (s.advance k)) (transferred s k) hr (fun hs => ?_) (nodup_of_reached hr) (fun _ h => h)
    (by rw [hact]) (congrArg (fun y : State => { y with engines := s.engines }) hrest :) hengines (keeps_transferred s k)
    fun u hu th th' _ he => ?_⟩
  · exact transfer_pushes_nothing (hsliced hs) (hsl'.resolve_left (by simp [hs])).2.2
  rw [if_pos hu] at he
  have hframe := transferred_frame s k u { th with pc := r.pc + BitVec.ofNat 64 k.len }
  have hpc : th'.pc = s.target k u := (congrArg Thread.pc he :)
  have hg : th'.g = (linked s k u { th with pc := r.pc + BitVec.ofNat 64 k.len }).g := (congrArg Thread.g he :)
  refine ⟨?_, ?_⟩
  · have h1 := congrArg (fun y : Thread => { y with pc := th.pc, g := th.g }) he
    exact (h1 :).trans (congrArg (fun y : Thread => { y with pc := th.pc }) hframe :)
  have hwrote : ∀ v n, (linked s k u { th with pc := r.pc + BitVec.ofNat 64 k.len }).g =
      (Thread.writeWords { th with pc := r.pc + BitVec.ofNat 64 k.len } k.d v n).g → Wrote th th' k.d n v := fun v n e =>
    wrote_congr rfl (hg.trans e) (Thread.wrote_writeWords { th with pc := r.pc + BitVec.ofNat 64 k.len } ..)
  have hissue := issuePc_of_run hr.1
  unfold State.target State.ofsTarget at hpc
  unfold linked at hg hwrote
  rw [hissue] at hpc hg hwrote
  simp only [List.mem_cons, List.not_mem_nil, or_false] at hop
  rcases hop with e | e | e | e | e | e <;> simp only [e] at hpc hg hwrote ⊢
  · exact ⟨hpc, hg⟩
  · exact ⟨by rw [hpc, signExt_eq_toInt], hg⟩
  · refine ⟨hpc, ?_⟩
    split
    next h0 => rw [hg, if_pos h0]
    next h0 => exact hwrote _ _ (by rw [if_neg h0])
  · exact ⟨hpc, hwrote _ _ rfl⟩
  · exact ⟨hpc, hg⟩
  · rw [wrapTo_pred] at hpc hwrote
    refine ⟨hpc.trans ?_, hwrote _ _ rfl⟩
    simp only [BitVec.toNat_eq]
    rfl

end Sys2Proof.Proofs
end

section
/-!
SUPPORT. MOVK (06 R149), RDCR (06 R166), the full and empty marks (06 R168) and TRACE (06 R169): what each makes of one thread, and
what it leaves of its wave and of its engine.
-/

namespace Sys2Proof.Machine
open Sys2Proof.Safety

variable {sem : Sem} {k : Ins} {s x : State} {r : Run} {lead u : Nat} {go : List Nat} {th : Thread}

/-! ### MOVK -/

theorem readK_own {m : Nat} (hth : s.thread? u = some th) (hhome : ∀ e i l, th.home ≠ .wave e i l) :
    s.readK u m = th.k.getD m {} := by
  unfold State.readK
  rw [hth]
  dsimp only
  split
  next e i l hw => exact absurd hw (hhome e i l)
  next => rfl

theorem readK_wave {e i l m : Nat} (hth : s.thread? u = some th) (hhome : th.home = .wave e i l) :
    s.readK u m = ((s.slot? e i).map fun y => y.k.getD m {}).getD {} := by
  unfold State.readK
  rw [hth]
  simp only [hhome]

theorem homeOf_of_home (hth : s.thread? u = some th) (hskid : ∀ m, th.home ≠ .skidder m) : s.homeOf u = th.home := by
  unfold State.homeOf
  rw [hth, Option.map_some]
  split
  next m hm => exact absurd (Option.some.inj hm) (hskid m)
  next h => exact (Option.some.inj h).symm
  next h => cases h

/-- MOVK with X = 0 writes k[D] in the leader. -/
theorem movk_act_k (hr : Reached (semOf k.op) k s r lead go) (hop : k.op = .movk) (hx : k.x = 0) :
    (semOf k.op).act k lead go (s.advance k) = (s.advance k).writeK lead k.d (BitVec.ofNat 32 (s.srcVal lead k .a)) := by
  obtain ⟨hrun, -, -, hlead, -⟩ := hr
  cases go with
  | nil => simp at hlead
  | cons a l =>
    obtain rfl : a = lead := by simpa using hlead
    have hd : ∀ wave, (k.fields wave).d = .dst .k k.d 1 1 := fun wave => by simp [Ins.fields, hop, hx]
    have hfile : State.effFile k .k = .k := by simp [State.effFile]
    rw [hop]
    simp only [semOf, movkSem, hx, if_true, State.writeD, Fld.use, hd, State.writeRegs, State.writeReg, hfile]
    rw [(State.agree_advance k hrun a).srcVal]

/-- MOVK with X = 1 reads k[A]. -/
theorem srcVal_movk (hop : k.op = .movk) (hx : k.x = 1) (s : State) (u : Nat) : s.srcVal u k .a = (s.readK u k.a).val.toNat := by
  have ha : ∀ wave, (k.fields wave).a = .src .k k.a 1 1 := fun wave => by simp [Ins.fields, hop, hx]
  have hfile : State.effFile k .k = .k := by simp [State.effFile]
  cases hth : s.thread? u <;> simp [State.srcVal, Fld.use, ha, State.regsVal, State.readReg, State.readK, hth, hfile]

/-- A k register written in a thread's own file. -/
def Thread.putK (th : Thread) (n : Nat) (v : W32) : Thread := { th with k := th.k.setD n {} { val := v } }

/-- A k register written in a wave's slot. -/
def Slot.putK (y : Slot) (n : Nat) (v : W32) : Slot := { y with k := y.k.setD n {} { val := v } }

theorem writeK_wave {e i l : Nat} (hth : x.thread? u = some th) (hhome : th.home = .wave e i l) (n : Nat) (v : W32) :
    x.writeK u n v = x.modSlot e i (·.putK n v) := by
  unfold State.writeK
  rw [hth]
  simp only [hhome]
  rfl

theorem writeK_own (hth : x.thread? u = some th) (hwave : ∀ e i l, th.home ≠ .wave e i l) (hskid : ∀ m, th.home ≠ .skidder m)
    (n : Nat) (v : W32) : x.writeK u n v = x.modThread u (·.putK n v) := by
  unfold State.writeK
  rw [hth]
  dsimp only
  split
  next e i l hw => exact absurd hw (hwave e i l)
  next m hs => exact absurd hs (hskid m)
  next => rfl

theorem slotsButK_modSlot (s : State) (e i n : Nat) (v : W32) : SlotsButK s (s.modSlot e i (·.putK n v)) (slotKey e i) := by
  refine ⟨fun m hm => Table.get?_mod_of_ne _ _ hm, ?_⟩
  refine (congrArg (Option.map fun y : Slot => { y with k := [] }) (Table.get?_mod_self ..)).trans ?_
  rw [Option.map_map]
  rfl

theorem getD_putK (y : Slot) (n m : Nat) (v : W32) : (y.putK n v).k.getD m {} = if m = n then { val := v } else y.k.getD m {} :=
  Table.getD_setD ..

/-- The k registers that a wave's thread reads after a write to its slot. -/
theorem wroteK_wave {t : State} {th' : Thread} {e i l d v : Nat} (hth : s.thread? u = some th) (hhome : th.home = .wave e i l)
    (hth' : t.thread? u = some th') (hhome' : th'.home = .wave e i l)
    (hslots : t.slots = (s.modSlot e i (·.putK d (BitVec.ofNat 32 v))).slots) : WroteK s t u d 1 v := by
  have hslot : t.slot? e i = (s.slot? e i).map (·.putK d (BitVec.ofNat 32 v)) := by
    rw [State.slot?, hslots]
    exact Table.get?_mod_self ..
  refine ⟨fun hk j hj => ?_, fun m hm => ?_⟩
  · obtain rfl : j = 0 := by omega
    rw [readK_wave hth' hhome', hslot]
    simp only [hasK, hth, Option.map_some, hhome] at hk
    obtain ⟨y, hy⟩ := Option.isSome_iff_exists.1 hk
    rw [hy, Option.map_some, Option.map_some, Option.getD_some, Nat.add_zero, getD_putK, if_pos rfl, Nat.mul_zero, Nat.pow_zero,
      Nat.div_one]
  · rw [readK_wave hth' hhome', readK_wave hth hhome, hslot]
    cases s.slot? e i with
    | none => rfl
    | some y => exact (getD_putK y d m _).trans (if_neg (by omega))

/-- The k registers that a thread reads after a write to its own. -/
theorem wroteK_own {t : State} {th' : Thread} {d v : Nat} (hth : s.thread? u = some th) (hwave : ∀ e i l, th.home ≠ .wave e i l)
    (hth' : t.thread? u = some th') (hhome : th'.home = th.home) (hk : th'.k = (th.putK d (BitVec.ofNat 32 v)).k) :
    WroteK s t u d 1 v := by
  have hread : ∀ m, t.readK u m = if m = d then { val := BitVec.ofNat 32 v } else s.readK u m := fun m => by
    rw [readK_own hth' (by rwa [hhome]), readK_own hth hwave, hk]
    exact Table.getD_setD ..
  refine ⟨fun _ j hj => ?_, fun m hm => ?_⟩
  · obtain rfl : j = 0 := by omega
    simp [hread]
  · rw [hread, if_neg (by omega)]

theorem keeps_putK (n : Nat) (v : W32) : Thread.Keeps (·.putK n v) := fun _ => ⟨rfl, rfl, rfl⟩

/-- MOVK into the k registers of a wave: its slot has them, and no thread changes but for its program counter. -/
theorem effect_movk_wave {e i l n : Nat} {v : W32} (hr : Reached sem k s r lead go) (hsl : k.w.sl = false)
    (hth : s.thread? lead = some th) (hhome : th.home = .wave e i l)
    (hact : sem.act k lead go (s.advance k) = (s.advance k).writeK lead n v) :
    let t := s.perform sem k lead go
    { t with threads := s.threads, engines := s.engines, slots := s.slots } = s ∧
    t.slots = (s.modSlot e i (·.putK n v)).slots ∧ Effect s t k r go fun _ th th' => PastBut k r th th' id := by
  have hadv := State.advance_threads k hr.1
  have hlead : (s.advance k).thread? lead = some { th with pc := r.pc + BitVec.ofNat 64 k.len } := by
    rw [State.thread?_advance k hr.1, if_pos (State.active_of_reached hr (lead_mem hr)).1, hth]
    rfl
  rw [writeK_wave hlead hhome] at hact
  have hrest := perform_rest sem hsl s lead go
  rw [hact] at hrest
  have hengine : ∀ e, (s.advance k).engine e = s.engine e := fun e => (congrArg (fun y : State => y.engine e) hadv :)
  refine ⟨?_, ?_, State.effect_of_act (fun _ th => th) hsl hr.1 hr.2.2.1 (List.ne_nil_of_mem (lead_mem hr)) (count_of_reached hr)
    ?_ ⟨fun e _ _ => ?_, fun e => ?_⟩ (fun u => ?_) (fun _ _ => ⟨rfl, rfl, rfl⟩)
    fun u _ th th' _ he => past_of_frame (fun _ => rfl) (fun _ => rfl) he rfl⟩
  · exact (congrArg (fun y : State => { y with threads := s.threads, engines := s.engines, slots := s.slots }) hrest :).trans
      (congrArg (fun y : State => { y with engines := s.engines, slots := s.slots }) hadv :)
  · exact (congrArg State.slots hrest :).trans (congrArg (fun y : State => (y.modSlot e i (·.putK n v)).slots) hadv :)
  · rw [hact]; exact (congrArg State.focus hadv :)
  · rw [hact]; exact hengine e
  · rw [hact]; exact congrArg unlogged (hengine e)
  · rw [hact]
    refine (show State.thread? _ u = (s.advance k).thread? u from rfl).trans ?_
    split <;> simp

/-! ### RDCR -/

theorem State.Agree.readCr (h : Agree s x u) (n : Nat) : x.readCr u n = s.readCr u n := by
  have hhome := h.homeOf
  unfold State.readCr
  rw [hhome]
  rcases h.cases with ⟨hs, hx⟩ | ⟨th, pc, hs, hx⟩
  · rw [hs, hx]
  · rw [hs, hx]
    obtain ⟨T, rfl⟩ := h.outside
    rfl

/-- A thread that has read a control register into D, and latched the high word of GTC where it read `$gtc`. -/
def crRead (s : State) (k : Ins) (u : Nat) (th : Thread) : Thread :=
  ({ th with gtch := if k.x = 8 then BitVec.ofNat 32 (s.gtc / 2 ^ 32) else th.gtch } : Thread).writeWords k.d
    ((s.readCr u k.x).getD 0).toNat 1

theorem crRead_frame (s : State) (k : Ins) (u : Nat) (th : Thread) :
    { crRead s k u th with g := th.g } =
      { th with gtch := if k.x = 8 then BitVec.ofNat 32 (s.gtc / 2 ^ 32) else th.gtch } := Thread.writeWords_frame ..

theorem keeps_crRead (s : State) (k : Ins) (u : Nat) : Thread.Keeps (crRead s k u) := fun th => by
  have h := crRead_frame s k u th
  exact ⟨(congrArg Thread.home h :), (congrArg Thread.oq h :), (congrArg Thread.sliced h :)⟩

/-- Latching leaves every register that RDCR then reads. -/
theorem readCr_latchGtc (hx : k.x = 8) (y : State) : (y.latchGtc u).readCr u k.x = y.readCr u k.x := by
  have hth : (y.latchGtc u).thread? u = (y.thread? u).map fun th => { th with gtch := BitVec.ofNat 32 (y.gtc / 2 ^ 32) } := by
    rw [State.latchGtc, State.thread?_modThread, if_pos rfl]
  unfold State.readCr
  rw [hth, hx]
  cases y.thread? u <;> rfl

theorem rdcr_step (hop : k.op = .rdcr) (hwu : k.w.wu = false) (hsl : k.w.sl = false) (h : State.Agree s x u) :
    ((if k.x = 8 then x.latchGtc u else x).writeD u k
      (((if k.x = 8 then x.latchGtc u else x).readCr u k.x).getD 0).toNat) = x.modThread u (crRead s k u) := by
  have hd : ∀ wave, ∃ al, (k.fields wave).d = .dst .g k.d (0 + 1) al ∨ (k.fields wave).d = .srcDst .g k.d (0 + 1) al :=
    fun wave => ⟨1, .inl (by simp [Ins.fields, hop, Use.dg])⟩
  have hgtc : x.gtc = s.gtc := by
    obtain ⟨T, rfl⟩ := h.outside
    rfl
  rw [State.writeD_eq u _ 0 hwu hsl _ hd]
  unfold crRead
  split
  next hx =>
    rw [readCr_latchGtc hx, h.readCr, State.latchGtc, State.modThread_modThread, hgtc]
  next => rw [h.readCr]

/-- The number X of an RDCR names a register the thread has (R166). -/
theorem readCr_of_reached (hr : Reached rdcrSem k s r lead go) (hu : u ∈ go) : ∃ v, s.readCr u k.x = some v := by
  obtain ⟨-, -, -, -, hpre, -⟩ := hr
  have h := hpre u hu
  cases hv : s.readCr u k.x with
  | some v => exact ⟨v, rfl⟩
  | none =>
    have hrange : rdcrSem.range k s u = some (BitVec.ofNat 32 (k.x + Fld.x.code * 256)) := by simp [rdcrSem, crRange, hv]
    unfold State.precheck at h
    rw [hrange] at h
    dsimp only at h
    split at h
    · cases h
    · split at h
      · cases h
      · split at h <;> cases h

/-! ### FEMARK and FEFILL -/

/-- What FEMARK and FEFILL make of a register. -/
def markOf (op : Op) (x : Reg) : Reg := if op = .femark then { x with full := false, poison := false } else { x with full := true }

/-- A thread with the register A names marked; g0 stays as it is. -/
def marked (k : Ins) (th : Thread) : Thread :=
  if k.x = 1 then { th with mb := th.mb.setD k.a {} (markOf k.op (th.readMb k.a)) }
  else if k.a = 0 then th
  else { th with g := th.g.setD k.a {} (markOf k.op (th.readG k.a)) }

theorem marked_frame (k : Ins) (th : Thread) : { marked k th with g := th.g, mb := th.mb } = th := by
  unfold marked
  split
  · rfl
  · split <;> rfl

theorem keeps_marked (k : Ins) : Thread.Keeps (marked k) := fun th => by
  have h := marked_frame k th
  exact ⟨(congrArg Thread.home h :), (congrArg Thread.oq h :), (congrArg Thread.sliced h :)⟩

theorem readG_marked (k : Ins) (th : Thread) (n : Nat) :
    (marked k th).readG n = if k.x ≠ 1 ∧ n = k.a ∧ n ≠ 0 then markOf k.op (th.readG n) else th.readG n := by
  unfold marked
  split
  next hx => simp [hx, Thread.readG]
  next hx =>
    split
    next ha => rw [if_neg fun h => h.2.2 (h.2.1.trans ha)]
    next ha =>
      by_cases hn : n = k.a
      · subst hn; simp [Thread.readG, ha, hx]
      · simp [Thread.readG, hn]

theorem readMb_marked (k : Ins) (th : Thread) (n : Nat) :
    (marked k th).readMb n = if k.x = 1 ∧ n = k.a then markOf k.op (th.readMb n) else th.readMb n := by
  unfold marked
  split
  next hx =>
    by_cases hn : n = k.a
    · subst hn; simp [Thread.readMb, hx]
    · simp [Thread.readMb, hn]
  next hx =>
    rw [if_neg fun h : k.x = 1 ∧ n = k.a => hx h.1]
    split <;> rfl

theorem mark_act (hop : k.op ∈ [Op.femark, .fefill]) (lead : Nat) (go : List Nat) (x : State) :
    (semOf k.op).act k lead go x = go.foldl (fun x u => x.modThread u (marked k)) x := by
  obtain ⟨op, b, w⟩ := k
  simp only [List.mem_cons, List.not_mem_nil, or_false] at hop
  rcases hop with rfl | rfl <;> rfl

/-! ### TRACE -/

/-- What follows an effect writes no trace ring. -/
theorem ring_concluded (hsl : k.w.sl = false) (x : State) (e : Nat) :
    ((concluded s k go x).engine e).ring = (x.engine e).ring ∧ ((concluded s k go x).engine e).written = (x.engine e).written := by
  unfold concluded
  simp only [hsl, Bool.false_eq_true, if_false]
  have hpop : { (go ++ idle s go).foldl (State.popQueues s.queueTop k) x with threads := x.threads } = x :=
    foldl_keeps (fun y : State => { y with threads := x.threads } = x) _ _ x rfl fun _ _ h => h
  generalize (go ++ idle s go).foldl (State.popQueues s.queueTop k) x = y at hpop ⊢
  have hy : y.engine e = x.engine e := (congrArg (fun q : State => q.engine e) hpop :)
  have hcount := (State.countEvent_spec y x.focus 1 1).engine e
  generalize y.countEvent x.focus 1 1 = z at hcount ⊢
  rw [hy] at hcount
  have hring : (z.engine e).ring = (x.engine e).ring := (congrArg Engine.ring hcount :)
  have hwritten : (z.engine e).written = (x.engine e).written := (congrArg Engine.written hcount :)
  have hretire : ((z.retire k).engine e).ring = (z.engine e).ring ∧ ((z.retire k).engine e).written = (z.engine e).written := by
    unfold State.retire State.retireAs
    split
    · exact ⟨rfl, rfl⟩
    · dsimp only
      rw [State.engine_modEngine]
      split
      next he => subst he; split <;> exact ⟨rfl, rfl⟩
      next => exact ⟨rfl, rfl⟩
  exact ⟨hretire.1.trans hring, hretire.2.trans hwritten⟩

/-- The lanes of threads as TRACE sums them up. -/
theorem foldl_lanes (f : Nat → Nat) (l : List Nat) (m : Nat) : l.foldl (fun m t => m + f t) m = m + (l.map f).sum := by
  induction l generalizing m with
  | nil => rfl
  | cons a l ih => rw [List.foldl_cons, ih, List.map_cons, List.sum_cons, Nat.add_assoc]

/-- TRACE writes engines' trace rings and nothing else. -/
theorem trace_act_frame (x : State) :
    { traceSem.act k lead go x with engines := x.engines } = x ∧ State.EnginesKept x (traceSem.act k lead go x) := by
  dsimp only [traceSem]
  split
  · exact ⟨rfl, enginesKept_refl x⟩
  · split
    · exact ⟨rfl, (State.quiet_trace ..).engines⟩
    · exact ⟨foldl_keeps (fun y : State => { y with engines := x.engines } = x) _ go x rfl fun _ _ h => h,
        (State.Quiet.foldl (fun y _ => State.quiet_trace y ..) go x).engines⟩

/-- The one entry of a TRACE: of a wave its leader's, elsewhere the one thread's (R169). -/
theorem trace_act_once (hr : Reached traceSem k s r lead go)
    (hu : (isWaveKey s.focus = true ∧ u = lead) ∨ (isWaveKey s.focus = false ∧ go = [u])) :
    traceSem.act k lead go (s.advance k) = (s.advance k).trace s.focus r.group 4 (r.pc.toNat % 2 ^ 32) (s.srcVal u k .a)
      (s.wordB u k).toNat (go.map fun v => 2 ^ (s.homeOf v).lane).sum := by
  have hadv := State.advance_threads k hr.1
  have hrun : (s.advance k).run? = some r := (congrArg State.run? hadv :).trans hr.1
  have hfocus : (s.advance k).focus = s.focus := (congrArg State.focus hadv :)
  have hmask : go.foldl (fun m t => m + 2 ^ ((s.advance k).homeOf t).lane) 0 = (go.map fun v => 2 ^ (s.homeOf v).lane).sum := by
    rw [foldl_lanes, Nat.zero_add]
    simp only [(State.agree_advance k hr.1 _).homeOf]
  have hagree := State.agree_advance k hr.1 u
  dsimp only [traceSem]
  rw [hrun]
  dsimp only
  rw [hmask, hfocus, ← hagree.srcVal, ← hagree.wordB]
  rcases hu with ⟨hwave, rfl⟩ | ⟨hwave, rfl⟩
  · rw [if_pos hwave]
  · simp [hwave, hfocus]

/-- An entry of type 4 over the oldest one, before the accesses of the same swarm cycle (R394). -/
theorem engine_trace (x : State) (unit grp m : Nat) (pc : W64) (a : Nat) (w : W32) :
    let e := unitEngine unit
    let words := [traceWord0 x.gtc e (unitGroup unit grp) 4, BitVec.ofNat 32 pc.toNat, BitVec.ofNat 32 a, w]
    let entry := if isWaveKey e then words ++ [BitVec.ofNat 32 m, 0, 0, 0] else words
    let later := if (x.engine e).arrivals.1 = x.clock.swarm then (x.engine e).arrivals.2 else 0
    let y := (x.trace unit grp 4 (pc.toNat % 2 ^ 32) a w.toNat m).engine e
    y.written = (x.engine e).written + 1 ∧ y.ring =
      ((x.engine e).ring.take later ++ entry :: (x.engine e).ring.drop later).take (if isWaveKey e then 256 else 64) := by
  have hpc : BitVec.ofNat 32 (pc.toNat % 2 ^ 32) = BitVec.ofNat 32 pc.toNat := by
    apply BitVec.eq_of_toNat_eq
    simp
  dsimp only
  rw [State.trace, State.engine_modEngine, if_pos rfl]
  refine ⟨rfl, ?_⟩
  simp only [Engine.logOwn, State.traceEntry, hpc, BitVec.ofNat_toNat, BitVec.setWidth_eq]

end Sys2Proof.Machine
end

section
namespace Sys2Proof.Proofs
open Sys2Proof Sys2Proof.Machine Sys2Proof.Safety

/-- Settles O3: with X = 0 one k register of the leader, or of its wave's slot, is written; with X = 1 a word result in each thread. -/
theorem movkResults : Obligations.MovkResults := by
  unfold Obligations.MovkResults
  refine ⟨fun i k s r lead go hi hop hx h => ?_, fun i k s r lead go hi hop hx h => ?_⟩
  · have hr := h.1
    have hsl : k.w.sl = false := sl_of_reached hr (by rw [hop]; rfl)
    obtain ⟨-, th, hth⟩ := State.active_of_reached hr (lead_mem hr)
    have hskid : ∀ m, th.home ≠ .skidder m := fun m hm => not_skidder hr hsl (lead_mem hr) m (by rw [hth, Option.map_some, hm])
    have hhome : s.homeOf lead = th.home := homeOf_of_home hth hskid
    have hact := movk_act_k hr hop hx
    by_cases hwave : ∃ e i l, th.home = .wave e i l
    · obtain ⟨e, i, l, hw⟩ := hwave
      obtain ⟨hrest, hslots, heff⟩ := effect_movk_wave hr hsl hth hw hact
      obtain ⟨th', hth', hin, -⟩ := heff.2 lead (State.active_of_reached hr (lead_mem hr)).1 th hth
      have hhome' : th'.home = th.home := (congrArg Thread.home (hin (lead_mem hr)).2.2 :)
      refine ⟨_, exec_clear hi h, hrest, wroteK_wave hth hw hth' (hhome'.trans hw) hslots, ?_⟩
      rw [hhome, hw]
      have hkept := slotsButK_modSlot s e i k.d (BitVec.ofNat 32 (s.srcVal lead k .a))
      unfold SlotsButK at hkept ⊢
      rw [← hslots] at hkept
      exact ⟨hkept, heff⟩
    · simp only [not_exists] at hwave
      have hlead : (s.advance k).thread? lead = some { th with pc := r.pc + BitVec.ofNat 64 k.len } := by
        rw [State.thread?_advance k hr.1, if_pos (State.active_of_reached hr (lead_mem hr)).1, hth]
        rfl
      rw [writeK_own hlead hwave hskid] at hact
      obtain ⟨hrest, heff⟩ := effect_of_alone (P := fun u th th' => th'.home = th.home ∧
          PastBut k r th th' (fun x => { x with k := th.k }) ∧
          if u = lead then th'.k = (th.putK k.d (BitVec.ofNat 32 (s.srcVal lead k .a))).k else th'.k = th.k)
        (fun _ => (·.putK k.d (BitVec.ofNat 32 (s.srcVal lead k .a)))) hr (by simp [hsl]) (List.nodup_singleton lead)
        (by simpa using lead_mem hr) hact (fun _ => keeps_putK _ _) fun u _ th th' _ he => by
          by_cases hu : u = lead
          · rw [if_pos (by simp [hu])] at he
            rw [if_pos hu]
            exact ⟨(congrArg Thread.home he :), past_of_frame (fun _ => rfl) (fun _ => rfl) he rfl, (congrArg Thread.k he :)⟩
          · rw [if_neg (by simp [hu])] at he
            rw [if_neg hu]
            exact ⟨(congrArg Thread.home he :), past_of_frame (fun _ => rfl) (fun _ => rfl) he rfl, (congrArg Thread.k he :)⟩
      obtain ⟨th', hth', hin, -⟩ := heff.2 lead (State.active_of_reached hr (lead_mem hr)).1 th hth
      obtain ⟨hhome', -, hk⟩ := (hin (lead_mem hr)).2
      rw [if_pos rfl] at hk
      have hslots : (s.perform (semOf k.op) k lead go).slots = s.slots := (congrArg State.slots hrest :)
      refine ⟨_, exec_clear hi h, (congrArg (fun y : State => { y with slots := s.slots }) hrest :),
        wroteK_own hth hwave hth' hhome' hk, ?_⟩
      rw [hhome]
      split
      next e i l hw => exact absurd hw (hwave e i l)
      next =>
        refine ⟨hslots, effect_imp heff fun u th th' ⟨_, hpast, hk⟩ => ⟨hpast, fun hu => ?_⟩⟩
        rwa [if_neg hu] at hk
  · have hr := h.1
    have hsl : k.w.sl = false := sl_of_reached hr (by rw [hop]; rfl)
    have hwu : k.w.wu = false := wu_of_reached hr (.inr hop)
    have hact : (semOf k.op).act k lead go (s.advance k) = go.foldl (fun x u => x.writeD u k (x.srcVal u k .a)) (s.advance k) := by
      rw [hop]
      simp [semOf, movkSem, hx]
    have hd : ∀ wave, ∃ al, (k.fields wave).d = .dst .g k.d (0 + 1) al ∨ (k.fields wave).d = .srcDst .g k.d (0 + 1) al :=
      fun wave => ⟨1, .inl (by simp [Ins.fields, hop, hx])⟩
    obtain ⟨hrest, heff⟩ := effect_words (fun x u => x.srcVal u k .a) hr hwu hsl hd hact fun x u _ ha => ha.srcVal k .a
    exact ⟨_, exec_clear hi h, hrest, effect_imp heff fun u th th' hw => srcVal_movk hop hx s u ▸ hw⟩

/-- Settles O8: NOP and YIELD leave their threads, and the end of the run marks the group. -/
theorem nopYieldResults : Obligations.NopYieldResults := by
  unfold Obligations.NopYieldResults
  intro i k s r lead go hi hop h
  have hsl : k.w.sl = false := sl_of_reached h.1 ((show ∀ op ∈ [Op.nop, .yield], op.sliceable = false by decide) _ hop)
  have hsem : semOf k.op = nopSem := (show ∀ op ∈ [Op.nop, .yield], semOf op = nopSem by simp [semOf]) _ hop
  exact ⟨_, exec_clear hi h, effect_of_nothing h.1 hsl (by rw [hsem]; rfl)⟩

/-- Settles O21: the register X names is one the thread has, and its value is the word written to D. -/
theorem readControlRegister : Obligations.ReadControlRegister := by
  unfold Obligations.ReadControlRegister
  intro i k s r lead go hi hop h
  have hr := h.1
  have hsl : k.w.sl = false := sl_of_reached hr (by rw [hop]; rfl)
  have hwu : k.w.wu = false := wu_of_reached hr (.inl (by rw [hop]; decide))
  have hsem : semOf k.op = rdcrSem := by rw [hop]; rfl
  have hact : (semOf k.op).act k lead go (s.advance k) = go.foldl (fun x u => x.modThread u (crRead s k u)) (s.advance k) := by
    rw [hsem]
    exact foldl_threads hr hsl _ _ fun x u _ ha => rdcr_step hop hwu hsl ha
  refine ⟨_, exec_clear hi h, effect_of_threads (fun u => crRead s k u) 0 hr hsl (.inr hact) (fun u => keeps_crRead s k u)
    fun u hu th th' _ he => ?_⟩
  have hframe := crRead_frame s k u { th with pc := r.pc + BitVec.ofNat 64 k.len }
  obtain ⟨v, hv⟩ := readCr_of_reached (hsem ▸ hr) hu
  refine ⟨past_of_frame (fun _ => rfl) (fun _ => rfl) he (congrArg (fun y : Thread => { y with gtch := th.gtch }) hframe :),
    (congrArg Thread.gtch he :).trans (congrArg Thread.gtch hframe :), v, hv, ?_⟩
  have hwrote := Thread.wrote_writeWords { th with
    pc := r.pc + BitVec.ofNat 64 k.len, gtch := if k.x = 8 then BitVec.ofNat 32 (s.gtc / 2 ^ 32) else th.gtch } k.d
    ((s.readCr u k.x).getD 0).toNat 1
  rw [hv] at hwrote
  exact wrote_congr rfl ((congrArg Thread.g he :).trans (by rw [crRead, hv])) hwrote

/-- Settles O23: each thread has the one register marked that A names. -/
theorem fullEmptyMarks : Obligations.FullEmptyMarks := by
  unfold Obligations.FullEmptyMarks
  intro i k s r lead go hi hop h
  have hsl : k.w.sl = false := sl_of_reached h.1 ((show ∀ op ∈ [Op.femark, .fefill], op.sliceable = false by decide) _ hop)
  refine ⟨_, exec_clear hi h, effect_of_threads (fun _ => marked k) 0 h.1 hsl (.inr (mark_act hop ..)) (fun _ => keeps_marked k)
    fun u _ th th' _ he => ?_⟩
  exact ⟨past_of_frame (fun _ => rfl) (fun _ => rfl) he (marked_frame ..),
    fun n => (congrArg (fun y : Thread => y.readG n) he :).trans (readG_marked k { th with pc := r.pc + BitVec.ofNat 64 k.len } n),
    fun n => (congrArg (fun y : Thread => y.readMb n) he :).trans (readMb_marked k { th with pc := r.pc + BitVec.ofNat 64 k.len } n)⟩

/-- Settles O24: the effect writes one entry into the ring, and nothing after it writes another. -/
theorem traceWrites : Obligations.TraceWrites := by
  unfold Obligations.TraceWrites
  intro i k s r lead go hi hop h
  have hsl : k.w.sl = false := sl_of_reached h.1 (by rw [hop]; rfl)
  have hsem : semOf k.op = traceSem := by rw [hop]; rfl
  rw [hsem] at h
  have hr := h.1
  have hadv := State.advance_threads k hr.1
  obtain ⟨hrest, hengines⟩ := trace_act_frame (k := k) (lead := lead) (go := go) (s.advance k)
  obtain ⟨hframe, heff⟩ := effect_of_logged (P := fun _ th th' => PastBut k r th th' id)
    (y := traceSem.act k lead go (s.advance k)) (fun _ th => th) hr (by simp [hsl]) (l := []) .nil nofun rfl
    (congrArg (fun y : State => { y with engines := s.engines }) hrest :) hengines (fun _ _ => ⟨rfl, rfl, rfl⟩)
    fun u _ th th' _ he => past_of_frame (fun _ => rfl) (fun _ => rfl) he rfl
  refine ⟨_, exec_clear hi (hsem.symm ▸ h), ?_⟩
  rw [hsem]
  refine ⟨hframe, heff, fun u hu => ?_⟩
  have hengine : (s.advance k).engine (unitEngine s.focus) = s.engine (unitEngine s.focus) :=
    (congrArg (fun y : State => y.engine (unitEngine s.focus)) hadv :)
  have hclock : (s.advance k).clock = s.clock := (congrArg State.clock hadv :)
  obtain ⟨hring, hwritten⟩ := ring_concluded (s := s) (go := go) hsl (traceSem.act k lead go (s.advance k)) (unitEngine s.focus)
  have htrace := engine_trace (s.advance k) s.focus r.group (go.map fun v => 2 ^ (s.homeOf v).lane).sum r.pc (s.srcVal u k .a)
    (s.wordB u k)
  dsimp only at htrace
  rw [← trace_act_once hr hu, hengine, State.gtc, hclock] at htrace
  exact ⟨hwritten.trans htrace.1, hring.trans htrace.2⟩

end Sys2Proof.Proofs
end

section
/-!
SUPPORT. WAIT (06 R155): a change of threads' status brings their workgroups' watchdogs up to date (R51), which no operand shows.
-/

namespace Sys2Proof.Machine
open Sys2Proof.Safety

variable {k : Ins} {s x y : State} {r : Run} {lead u : Nat} {go : List Nat}

theorem Table.any_put {α : Type} {t : Table α} {n : Nat} {v w : α} {q : Nat × α → Bool} (h : t.get? n = some v)
    (hq : q (n, w) = q (n, v)) : (t.put n w).any q = t.any q := by
  have hmem : ∀ t : Table α, t.get? n = some v → t.any q = (q (n, v) || t.any q) := by
    intro t ht
    induction t with
    | nil => cases ht
    | cons a t ih =>
      obtain ⟨m, z⟩ := a
      simp only [get?] at ht
      split at ht
      next hm => cases ht; subst hm; simp
      next => rw [List.any_cons, ih ht]; cases q (n, v) <;> simp
  induction t with
  | nil => cases h
  | cons a t ih =>
    obtain ⟨m, z⟩ := a
    simp only [put]
    split
    next hm =>
      subst hm
      simp only [get?, if_true, Option.some.injEq] at h
      rw [List.any_cons, List.any_cons, hq, h]
    next hm =>
      split
      · rw [List.any_cons, hq]
        exact (hmem _ h).symm
      · simp only [get?, if_neg hm] at h
        rw [List.any_cons, List.any_cons, ih h]

/-- What operands show of the launches is as before: their ids, and which stands stream or hold workgroups (R64, R245). -/
structure ShownAlike (s t : State) : Prop where
  id : ∀ l, t.launchId l = s.launchId l
  streaming : ∀ n, t.streaming n = s.streaming n
  groups : ∀ n, t.hasGroups n = s.hasGroups n

theorem ShownAlike.trans (h : ShownAlike s x) (h' : ShownAlike x y) : ShownAlike s y where
  id l := (h'.id l).trans (h.id l)
  streaming n := (h'.streaming n).trans (h.streaming n)
  groups n := (h'.groups n).trans (h.groups n)

theorem shownAlike_of_launches (h : x.launches = s.launches) : ShownAlike s x where
  id l := by rw [State.launchId, h, State.launchId]
  streaming n := by rw [State.streaming, h, State.streaming]
  groups n := by rw [State.hasGroups, h, State.hasGroups]

/-- A workgroup's watchdog shows in no operand. -/
theorem shownAlike_modWg {l w : Nat} {g g' : Workgroup} (h : ((s.launch? l).bind fun y => y.wgs.get? w) = some g)
    (hp : g'.placed = g.placed) (hr : g'.retired = g.retired) (hs : g'.stand = g.stand) :
    ShownAlike s (s.modWg l w fun _ => g') := by
  obtain ⟨la, hl, hg⟩ := Option.bind_eq_some_iff.1 h
  have hl' : s.launches.get? l = some la := hl
  have hlaunches : (s.modWg l w fun _ => g').launches = s.launches.put l { la with wgs := la.wgs.put w g' } := by
    simp only [State.modWg, State.modLaunch, Table.mod, hl']
  refine ⟨fun m => ?_, fun n => ?_, fun n => ?_⟩
  · rw [State.launchId, hlaunches, Table.get?_put, State.launchId]
    split
    next hm => subst hm; rw [hl']; rfl
    next => rfl
  · have hwgs : (la.wgs.put w g').any (fun e => e.2.placed && e.2.stand == n) = la.wgs.any fun e => e.2.placed && e.2.stand == n :=
      Table.any_put hg (by simp only [hp, hs])
    rw [State.streaming, hlaunches, State.streaming]
    exact Table.any_put hl' (by simp only [hwgs])
  · have hwgs : (la.wgs.put w g').any (fun e => e.2.placed && !e.2.retired && e.2.stand == n) =
        la.wgs.any fun e => e.2.placed && !e.2.retired && e.2.stand == n := Table.any_put hg (by simp only [hp, hr, hs])
    rw [State.hasGroups, hlaunches, State.hasGroups]
    exact Table.any_put hl' (by simp only [hwgs])

theorem syncWatch_frame (s : State) (l w : Nat) (reset : Bool) :
    { s.syncWatch l w reset with launches := s.launches } = s ∧ ShownAlike s (s.syncWatch l w reset) := by
  unfold State.syncWatch
  split
  · exact ⟨rfl, shownAlike_of_launches rfl⟩
  next g hg =>
    refine ⟨rfl, ?_⟩
    dsimp only
    split_ifs <;> exact shownAlike_modWg hg rfl rfl rfl

/-- The word an instruction reads as source B, in states that differ in the launches alone. -/
theorem wordB_of_launches (hrest : { x with launches := s.launches } = s) (h : ShownAlike s x) (k : Ins) (u : Nat) :
    x.wordB u k = s.wordB u k := by
  obtain ⟨L, rfl⟩ : ∃ L, x = { s with launches := L } := ⟨x.launches, by rw [← hrest]⟩
  have hzero : ∀ a, State.locZero { s with launches := L } a = s.locZero a := fun a => by
    simp only [State.locZero, State.spillSize, h.streaming, h.groups]
    rfl
  have hbytes : ∀ a n, State.locBytes { s with launches := L } a n = s.locBytes a n := fun a n => by
    simp only [State.locBytes, State.locByte, hzero]
  have hidentity : ∀ n, State.identityWord { s with launches := L } u n = s.identityWord u n := fun n => by
    unfold State.identityWord
    simp only [h.id]
    rfl
  have hconst : ∀ n, State.constWord { s with launches := L } u n = s.constWord u n := fun n => by
    unfold State.constWord
    simp only [hidentity, hbytes]
    rfl
  unfold State.wordB
  simp only [hconst]
  rfl

/-- A thread that waits for a deadline. -/
def Thread.waitsUntil (th : Thread) (d : Nat) : Thread := { th with status := .until d }

theorem setStatus_until (hth : ∃ th, x.thread? u = some th) (d : Nat) :
    { x.setStatus u (.until d) with launches := x.launches } = x.modThread u (·.waitsUntil d) ∧
    ShownAlike x (x.setStatus u (.until d)) := by
  obtain ⟨th, hth⟩ := hth
  have hset : x.setStatus u (.until d) = (x.modThread u (·.waitsUntil d)).syncWatch th.launch th.wg false := by
    rw [← State.setThread_eq hth]
    unfold State.setStatus
    rw [hth]
    rfl
  rw [hset]
  obtain ⟨hrest, halike⟩ := syncWatch_frame (x.modThread u (·.waitsUntil d)) th.launch th.wg false
  have hmod : ShownAlike x (x.modThread u (·.waitsUntil d)) := shownAlike_of_launches rfl
  exact ⟨hrest, hmod.trans halike⟩

/-- Each thread waits, as of the state in which the run has moved past the instruction; of the launches only watchdogs change. -/
theorem foldl_waits {a : State} {l : List Nat} (hl : l.Nodup) (f : State → Nat → State) (d : Nat → Nat)
    (hf : ∀ x y u, u ∈ l → { x with launches := y.launches } = y → ShownAlike y x → { y with threads := a.threads } = a →
      y.thread? u = a.thread? u → f x u = x.setStatus u (.until (d u)))
    (hlive : ∀ u ∈ l, ∃ th, a.thread? u = some th) :
    { l.foldl f a with launches := a.launches } = l.foldl (fun x u => x.modThread u (·.waitsUntil (d u))) a := by
  suffices H : ∀ (todo : List Nat), todo.Nodup → (∀ u ∈ todo, u ∈ l) → ∀ x y : State, { x with launches := y.launches } = y →
      ShownAlike y x → { y with threads := a.threads } = a → (∀ u ∈ todo, y.thread? u = a.thread? u) →
      { todo.foldl f x with launches := a.launches } = todo.foldl (fun x u => x.modThread u (·.waitsUntil (d u))) y from
    H l hl (fun _ h => h) a a rfl (shownAlike_of_launches rfl) rfl fun _ _ => rfl
  intro todo hnd
  induction todo with
  | nil =>
    intro _ x y hxy _ hy _
    have : y.launches = a.launches := (congrArg State.launches hy :)
    rw [← this]
    exact hxy
  | cons v todo ih =>
    intro hsub x y hxy halike hy hsame
    obtain ⟨hv, hnd⟩ := List.nodup_cons.1 hnd
    have hthreads : x.threads = y.threads := (congrArg State.threads hxy :)
    have hxv : x.thread? v = a.thread? v := (congrArg (Table.get? · v) hthreads :).trans (hsame v (by simp))
    obtain ⟨hset, hshown⟩ := setStatus_until (x := x) (u := v) (hxv ▸ hlive v (hsub v (by simp))) (d v)
    rw [List.foldl_cons, List.foldl_cons, hf x y v (hsub v (by simp)) hxy halike hy (hsame v (by simp))]
    refine ih hnd (fun u hu => hsub u (by simp [hu])) _ _ ?_ ?_ ?_ fun u hu => ?_
    · have h1 := congrArg (fun z : State => { z with launches := y.launches }) hset
      exact (h1 :).trans (congrArg (fun z : State => z.modThread v (·.waitsUntil (d v))) hxy :)
    · have h1 : ShownAlike (y.modThread v (·.waitsUntil (d v))) y := shownAlike_of_launches rfl
      exact h1.trans (halike.trans hshown)
    · exact hy
    · rw [State.thread?_modThread, if_neg (fun e : u = v => hv (e ▸ hu))]
      exact hsame u (by simp [hu])

end Sys2Proof.Machine
end

section
namespace Sys2Proof.Proofs
open Sys2Proof Sys2Proof.Machine Sys2Proof.Safety

/-- Settles O16: each thread waits for its own deadline; of the launches only the watchdogs change, which no operand shows. -/
theorem waitSetsDeadline : Obligations.WaitSetsDeadline := by
  unfold Obligations.WaitSetsDeadline
  intro i k s r lead go hi hop h
  have hr := h.1
  have hsl : k.w.sl = false := sl_of_reached hr (by rw [hop]; rfl)
  have hadv := State.advance_threads k hr.1
  have hwait : { (semOf k.op).act k lead go (s.advance k) with launches := (s.advance k).launches } = go.foldl (fun x u =>
      x.modThread u (·.waitsUntil (s.gtc + (s.wordB u k).toNat))) (s.advance k) := by
    rw [hop]
    refine foldl_waits (nodup_of_reached hr) _ _ (fun x y u hu hxy halike hy hsame => ?_) fun u hu => ?_
    · have hclock : x.clock = s.clock := (congrArg State.clock hxy :).trans ((congrArg State.clock hy :).trans (congrArg State.clock hadv :))
      have hagree : State.Agree s y u := by
        have hb := State.agree_advance k hr.1 u
        exact ⟨(congrArg (fun z : State => { z with threads := s.threads }) hy :).trans hb.1, by rw [hsame]; exact hb.2.1,
          fun m hm => absurd hm (not_skidder hr hsl hu m)⟩
      rw [wordB_of_launches hxy halike, hagree.wordB, State.gtc, hclock, State.gtc]
    · obtain ⟨hm, th, hth⟩ := State.active_of_reached hr hu
      exact ⟨_, by rw [State.thread?_advance k hr.1, if_pos hm, hth]; rfl⟩
  have hrest := perform_rest (semOf k.op) hsl s lead go
  have hfold := State.foldl_modThread_threads go (fun u => (·.waitsUntil (s.gtc + (s.wordB u k).toNat))) (s.advance k)
  have hthread := State.thread?_foldl_modThread (nodup_of_reached hr) (fun u => (·.waitsUntil (s.gtc + (s.wordB u k).toNat)))
    (s.advance k)
  rw [← hwait] at hfold hthread
  have hact : { (semOf k.op).act k lead go (s.advance k) with threads := s.threads, launches := s.launches } = s :=
    (congrArg (fun z : State => { z with threads := s.threads, launches := s.launches }) hfold :).trans
      (congrArg (fun z : State => { z with launches := s.launches }) hadv :)
  have hengine : ∀ e, ((semOf k.op).act k lead go (s.advance k)).engine e = s.engine e := fun e =>
    (congrArg (fun z : State => z.engine e) hact :)
  refine ⟨_, exec_clear hi h, ?_, State.effect_of_act _ hsl hr.1 hr.2.2.1 (List.ne_nil_of_mem (lead_mem hr)) (count_of_reached hr)
    (congrArg State.focus hact :) ⟨fun e _ _ => hengine e, fun e => congrArg unlogged (hengine e)⟩ hthread
    (fun _ _ => ⟨rfl, rfl, rfl⟩) fun u _ th th' _ he => ⟨past_of_frame (fun _ => rfl) (fun _ => rfl) he rfl,
      (congrArg Thread.status he :)⟩⟩
  exact (congrArg (fun z : State => { z with threads := s.threads, engines := s.engines, launches := s.launches }) hrest :).trans
    (congrArg (fun z : State => { z with engines := s.engines }) hact :)

end Sys2Proof.Proofs
end

section
/-!
SUPPORT. What each completion does when it is due (06 R155; 07 R158; 08 R179, R194, R195; 09 R200, R206, R227; 11 R231-R237).
-/

namespace Sys2Proof.Machine
open Sys2Proof.Safety

variable {n : Nat} {s : State}

theorem exec_specialFunctionCompletion {t op d f x m j} (h : s.producers.get? n = some (.special t op d f x m j)) :
    exec (.specialFunctionCompletion n) s = .next ({ s with producers := s.producers.del n }.deliver t d (fmtRegs f)
      (elemWrite f (specialValue op f (m % 8) (m / 8) x).1) (specialValue op f (m % 8) (m / 8) x).2 false j) := by
  show execSpecialFunctionCompletion n s = _
  rw [execSpecialFunctionCompletion, h]

theorem exec_laneMaxCompletion {t d v iv j} (h : s.producers.get? n = some (.laneMax t d v iv j)) :
    exec (.qxmaxExchangeCompletion n) s = .next
      ({ s with producers := s.producers.del n }.deliver t d 1 v.toNat { iv := iv } false j) := by
  show execQxmaxExchangeCompletion n s = _
  rw [execQxmaxExchangeCompletion, h]

theorem exec_qxmaxExchangeCompletion {t c x l d int r v} (h : s.producers.get? n = some (.qxmax t c x l d int r v)) :
    let cs := (quadCores c).filterMap fun k => s.contribution k x l r
    let vals := cs.filterMap fun e => match e.2 with
      | .qxmax _ _ _ _ _ _ _ v => some v
      | _ => none
    cs.length = 4 → exec (.qxmaxExchangeCompletion n) s = .next (cs.foldl (fun (y : State) e => y.endExchange vals e) s) := by
  intro cs vals hall
  show execQxmaxExchangeCompletion n s = _
  rw [execQxmaxExchangeCompletion, h]
  exact if_pos hall

theorem exec_accMovCompletion {t d v bad} (h : s.producers.get? n = some (.accMov t d v bad none)) :
    exec (.accMovCompletion n) s = .next ({ s with producers := s.producers.del n }.deliver t d 1 v.toNat {} bad) := by
  show execAccMovCompletion n s = _
  rw [execAccMovCompletion, h]

theorem exec_waitDeadlineExpiry {th : Thread} {d : Nat} (hth : s.thread? n = some th) (hwait : th.status = .until d)
    (hdue : d ≤ s.gtc) : exec (.waitDeadlineExpiry n) s = .next (s.setStatus n .ready) := by
  show execWaitDeadlineExpiry n s = _
  rw [execWaitDeadlineExpiry, hth, Option.map_some, hwait]
  exact if_pos hdue

theorem exec_sendTTimeout {th : Thread} {m d : Nat} (hth : s.thread? n = some th)
    (hasks : th.held = .asking m (some d)) (hdue : d ≤ s.gtc) : exec (.sendTTimeout n) s = .next
      ({ s with outbound := s.outbound.del n }.modThread n fun x => { x with held := .gaveUp }) := by
  show execSendTTimeout n s = _
  rw [execSendTTimeout, hth, Option.map_some, hasks]
  exact if_pos hdue

section
variable {o : MemOp} (ho : s.ops.get? n = some o)
include ho

theorem exec_loadCompletion {bs bad hit} (hkind : o.kind = .load) (howner : o.orphan = false) (hrow : o.inRow = false)
    (hread : s.loadValue n o = some (bs, bad, hit)) :
    exec (.loadCompletion n) s = .next (((s.countHit n o hit).deliverLoad n o bs bad).settleHalts) := by
  show execLoadCompletion n s = _
  rw [execLoadCompletion, ho]
  simp [hkind, howner, hrow, hread]

theorem exec_tileRowLoadCompletion {bs bad hit} (hkind : o.kind = .load) (hrow : o.inRow = true)
    (hfirst : s.rowBehind n o = false) (hread : s.loadValue n o = some (bs, bad, hit)) :
    exec (.tileRowLoadCompletion n) s = .next ((s.countHit n o hit).finishRow n o bs bad) := by
  show execTileRowLoadCompletion n s = _
  rw [execTileRowLoadCompletion, ho]
  simp [hkind, hrow, hfirst, hread]

theorem exec_atomCompletion {d w sg} (hkind : o.kind = .atomic) (htaken : o.taken = true) (hdest : o.dest = .regs d w sg) :
    let old := natOfBytes (o.parts.flatMap (·.data))
    let bad := o.parts.any (·.poison)
    let x := { s with ops := s.ops.del n }.deliverRegs n o.tid d (State.widthRegs w) old bad
    exec (.atomCompletion n) s = .next
      (x.raiseFlags o.tid o.issue (if bad then {} else atomFlags o.atomOp o.ty old o.c)).settleHalts := by
  show execAtomCompletion n s = _
  rw [execAtomCompletion, ho]
  simp [hkind, htaken, hdest]

end

section
variable {e : Nat} {y : Slot} {m : MmaEntry} {rest : List MmaEntry} (hslot : s.slot? e n = some y) (hhead : y.mq = m :: rest)
  (hready : mmaReady y m = true) (hfirst : s.readyBefore e n m = false)
include hslot hhead hready hfirst

/-- An entry that reads a poisoned register leaves the queue, and its threads are to trap (R233, R234). -/
theorem exec_mmaEntryPerform_poisoned {info : W32} (hbad : mmaPoison y m = some info) :
    exec (.mmaEntryPerform e n) s = .next (m.threads.foldl (fun (x : State) u =>
      x.modThread u fun th => { th with pendingTrap := some (th.pendingTrap.getD info) })
        (s.modSlot e n fun z => { z with mq := rest, mqDone := (y.mqDone ++ [m.key]).drop ((y.mqDone.length + 1) - 16) })) := by
  show execMmaEntryPerform e n s = _
  rw [execMmaEntryPerform, hslot]
  simp [hhead, hready, hfirst, hbad]

/-- An entry that reads no poison leaves the queue with its result in the accumulator and its flags in its threads (R233). -/
theorem exec_mmaEntryPerform_clean (hgood : mmaPoison y m = none) :
    exec (.mmaEntryPerform e n) s = .next (((m.threads.foldl (fun (x : State) u => x.setFlags u (mmaResult y m).2.toW32)
      (s.modSlot e n fun z => { z with mq := rest, mqDone := (y.mqDone ++ [m.key]).drop ((y.mqDone.length + 1) - 16),
                                       acc := z.acc.put m.acc (mmaResult y m).1 })).countFlagsAt
        (waveKey e) (mmaResult y m).2.toW32).countEvent (waveKey e) 0x30 1) := by
  show execMmaEntryPerform e n s = _
  rw [execMmaEntryPerform, hslot]
  simp [hhead, hready, hfirst, hgood]

end

end Sys2Proof.Machine
end

section
namespace Sys2Proof.Proofs
open Sys2Proof Sys2Proof.Machine Sys2Proof.Safety

/-- Settles O41: each completion by the rule of its event. -/
theorem completions : Obligations.Completions := by
  unfold Obligations.Completions
  refine ⟨fun n s => ⟨?_, ?_, ?_, ?_, ?_, ?_⟩, fun n o s ho => ⟨?_, ?_, ?_⟩,
    fun e n y m rest s hslot hhead hready hfirst => ⟨fun info hbad => ?_, fun hgood => ?_⟩⟩
  · exact fun _ _ _ _ _ _ _ h => exec_specialFunctionCompletion h
  · exact fun _ _ _ _ _ h => exec_laneMaxCompletion h
  · exact fun _ _ _ _ _ _ _ _ h => exec_qxmaxExchangeCompletion h
  · exact fun _ _ _ _ h => exec_accMovCompletion h
  · exact fun _ _ hth hwait hdue => exec_waitDeadlineExpiry hth hwait hdue
  · exact fun _ _ _ hth hasks hdue => exec_sendTTimeout hth hasks hdue
  · exact fun _ _ _ hkind howner hrow hread => exec_loadCompletion ho hkind howner hrow hread
  · exact fun _ _ _ hkind hrow hfirst hread => exec_tileRowLoadCompletion ho hkind hrow hfirst hread
  · exact fun _ _ _ hkind htaken hdest => exec_atomCompletion ho hkind htaken hdest
  · exact exec_mmaEntryPerform_poisoned hslot hhead hready hfirst hbad
  · exact exec_mmaEntryPerform_clean hslot hhead hready hfirst hgood

end Sys2Proof.Proofs
end
